-- ==== Sys2Proof/Word.lean ====
section
/-! DEFINITION. The word types of the CH734: bytes, 32-bit registers and 64-bit stream words (R4, R5). -/

namespace Sys2Proof

/-- A byte of a stream (R4). -/
abbrev Byte := BitVec 8

/-- A register (Registers, chapter 00: 32 bits wide). -/
abbrev W32 := BitVec 32

/-- A 64-bit word of packets, records, hits and memories (R4). -/
abbrev W64 := BitVec 64

end Sys2Proof
end

