-- ==== Sys2Proof/Syntax.lean ====
section
/-! DEFINITION. The commands of the block: one constructor of Instr for each row of spec/opcode_table.json, with the
values that the outside world gives it. A row that names a moment the hardware reaches by itself carries only what the
hardware measures or samples at that moment (a physical value, a pin level, a received word). -/

namespace Sys2Proof

/-- The two ring ports (R298). -/
inductive Port where
  | east
  | west
deriving DecidableEq, Repr

/-- Index of a port in the register arrays: 0 E, 1 W. -/
def Port.ix : Port → Nat
  | .east => 0
  | .west => 1

/-- The other port. -/
def Port.other : Port → Port
  | .east => .west
  | .west => .east

/-- Where a command comes from (R364): a ring port, or the management side port. -/
inductive Sender where
  | ring (p : Port)
  | side
deriving DecidableEq, Repr

/-- The fields of a command header that every command carries (R354), and who sent it. `crcOk` is false when the CRC
word does not match (R355). `lenOk` is false when LEN differs from PLEN + 2 on the ring (R355). -/
structure CmdHead where
  sender : Sender
  tag    : BitVec 8
  src    : BitVec 5
  dest   : BitVec 5
  priv   : BitVec 2
  bank   : BitVec 2
  crcOk  : Bool
  lenOk  : Bool
deriving DecidableEq, Repr

/-- A complete packet of the ring (R302): the START fields, the DATA words, and what the END block and the CRC said
(R303). `len` is the LEN field of the START. -/
structure Packet where
  ptype   : BitVec 8
  cls     : BitVec 2
  dest    : BitVec 5
  src     : BitVec 5
  hops    : BitVec 6
  wrapped : Bool
  pseq    : BitVec 16
  words   : List W64
  crcOk   : Bool
  bad     : Bool
deriving DecidableEq, Repr

/-- What one lane equalisation result holds (R285): CTLE and the five decision-feedback taps. -/
structure EqTaps where
  ctle : BitVec 4
  tap1 : BitVec 7
  tap2 : BitVec 6
  tap3 : BitVec 5
  tap4 : BitVec 5
  tap5 : BitVec 5
deriving DecidableEq, Repr

/-- The commands, in the order of the opcode table. `sub` is a time inside the CCLK, in FTU, `tclk` the TCLK of the CCLK, `ago` the CCLK
since the last good edge of TREF (R36), `xdref` the voltage on XDREF above 0.5 V, in µV (R158). -/
inductive Instr where
  -- time base
  | localFrameTick
  | trefLost (ago : Fin 40 := 0)
  | trefRestored
  | tpllUnlock
  -- the Lawn
  | hitLeadingEdge (row col : Fin 256) (sub : Fin 512)
  | trailingEdge (row col : Fin 256) (sub : Fin 512)
  | tdcConversionDone (p : Fin 1024) (tdc : Fin 2) (startF1 startF2 stopF1 stopF2 : Fin 16) (order : Bool)
  | tdcSaturationClose (p : Fin 1024) (tdc : Fin 2)
  | stalledRecordWrite (p : Fin 1024) (tdc : Fin 2)
  | pixelRearm (row col : Fin 256)
  | lawnSettlingEnd
  | lawnStuck (row col : Fin 256)
  | testPulseInjection (tclk : Fin 2 := 0)
  | lawnTpDone
  | lawnDllUnlock (p : Fin 1024) (tdc : Fin 2)
  | tdcDllRelock (p : Fin 1024) (tdc : Fin 2) (code : Fin 256)
  | verticalLinkTransfer (h : Fin 32)
  | follyRecord (p : Fin 1024) (tclk : Fin 2 := 0)
  -- hedges, frame builder, acquisition store
  | hedgeCorrection (h : Fin 32)
  | reorderRelease (h : Fin 32)
  | storeBandwidthGrant
  | queueSpaceFreed (region : Fin 10)
  -- triggers and records
  | firePacket (port : Port) (pkt : Packet) (first : Nat)
  | fire (h : CmdHead) (w0 w1 w2 : W64)
  | firePendingDue
  | armPacket (port : Port) (pkt : Packet)
  | arm (h : CmdHead) (w0 : W64)
  | force (h : CmdHead) (w0 : W64)
  | autoTrigger (out : Fin 8)
  -- waveform capture
  | waveformConversion (ch : Fin 4) (v : Int)
  | wavSettlingEnd (ch : Fin 4)
  -- transducer front end
  | xdcPassStart
  | xdcFilterReset
  | xdcOutputComplete (v : Int) (limit : Option Bool) (xdref : Fin 2000001 := 0)
  | excitationPulseEnd
  | xdcOpen (tclk : Fin 2 := 0)
  | xdcUrgReq (h : CmdHead) (req : Fin 16)
  | xdcResult
  -- time inputs and pulse outputs
  | tiEdge (n : Fin 8) (rising : Bool) (tclk : Fin 2) (f1 f2 : Fin 16)
  | tiTimeout (k : Fin 4)
  | frequencyGateEnd (k : Fin 4)
  | pulseStart (j : Fin 8)
  | pulseEnd (j : Fin 8)
  | ftoRise
  | ftoFall
  -- calibration
  | calStart (h : CmdHead) (mask : Fin 256)
  | calAbort (h : CmdHead) (mask : Fin 256)
  | calIntervalStart (i : Fin 8)
  | calRunEnd (i : Fin 8)
  | theqDwellEnd (p : Fin 1024)
  | calTdcInjection (p : Fin 1024)
  | calPulseInjection (p : Fin 1024)
  | sliceWindowEnd (slice : Fin 8)
  | sliceFallbackEnd
  | calApply (h : CmdHead) (w0 : W64)
  | calRampStep
  -- measures, loops, safety
  | measureBlockBoundary (rw : Fin 6)
  | safetyRelease (s : Fin 16)
  | loopSafeLatchWrite (h : CmdHead) (latch : Fin 65536)
  | loopCtlForce (h : CmdHead) (forceA forceB : Bool)
  -- stream channels
  | streamBlockClose (ch : Fin 16) (lane : Fin 8)
  | cstageRoom (ch : Fin 16) (lane : Fin 8)
  -- lanes
  | lanePllLock (port : Port)
  | pllUnlock (port : Port)
  | laneAcquireDone (port : Port) (lanes : Fin 16)
  | laneAdaptDone (port : Port) (eq0 eq1 eq2 eq3 : EqTaps)
  | laneAlignDone (port : Port) (leads : List Nat) (latTx latRx : Fin 65536)
  | alignmentMarker (port : Port) (lane : Fin 4) (found : Bool) (payload : W64)
  | laneSignalLoss (port : Port) (lane : Fin 4)
  | hiber (port : Port) (lane : Fin 4)
  | fallback (port : Port)
  | adaptFreeze (port : Port) (lane : Fin 4)
  | belvedereScan (port : Port) (lane : Fin 4) (ew : Fin 65) (eh : Fin 33)
  | laneNarrow (port : Port)
  | laneWiden (port : Port)
  | modeTimeout (port : Port)
  | join (h : CmdHead)
  | leave (h : CmdHead)
  | retrain (h : CmdHead) (ports : Fin 4) (rate : Bool)
  | laneCtlMode (h : CmdHead) (ports : Fin 4) (mode : Fin 4)
  | laneCtlLoop (h : CmdHead) (ports : Fin 4) (code : Fin 4)
  | laneCtlPrbs (h : CmdHead) (ports : Fin 4) (on : Bool)
  | ringAutoleave
  -- ring traffic
  | ringPacketReceived (port : Port) (pkt : Packet) (first : Nat)
  | packetAdmission (port : Port) (cls : Fin 4)
  | rngDropped (port : Port) (cls : Fin 4)
  | credit (port : Port) (pkt : Packet)
  | rngCreditLapsed
  | ringUnwrap (port : Port)
  -- network time
  | timeInit (port : Port)
  | timePacket (port : Port) (pkt : Packet) (first : Nat)
  | timeSet (h : CmdHead) (w0 w1 : W64)
  | timeAdjStep (h : CmdHead) (w0 w1 : W64)
  | timeAdjSlew (h : CmdHead) (w0 w1 : W64)
  -- capture store
  | storeObjectPlace
  | storeAck (port : Port) (pkt : Packet)
  | storeItemTimeout (index : Bool) (cseq : BitVec 32)
  | storeCtlLock (h : CmdHead) (first last : Fin 262144)
  | storeCtlUnlock (h : CmdHead) (first last : Fin 262144)
  | storeCtlFree (h : CmdHead) (first last : Fin 262144)
  | storeCtlResync (h : CmdHead) (first last : Fin 262144)
  | stoNextWrite (h : CmdHead) (extent : Fin 262144)
  | stoTblWinWrite (h : CmdHead) (k : Fin 512) (data : W32)
  -- commands
  | cmdPacket (port : Port) (pkt : Packet)
  | sidePortCommand (bytes : List Byte)
  | sidePortStatusFetch (bytes : Nat)
  | sidePortUnknown (first : Byte)
  | nop (h : CmdHead)
  | rd (h : CmdHead) (addr : BitVec 24)
  | rdb (h : CmdHead) (addr : BitVec 24) (w0 : W64)
  | wr (h : CmdHead) (addr : BitVec 24) (data : W32)
  | wrm (h : CmdHead) (addr : BitVec 24) (mask data : W32)
  | wrb (h : CmdHead) (addr : BitVec 24) (ws : List W64)
  | commit (h : CmdHead) (w0 w1 : W64)
  | discard (h : CmdHead)
  | digest (h : CmdHead)
  | epoch (h : CmdHead)
  | protWr (h : CmdHead) (ws : List W64)
  | evtAck (h : CmdHead) (w0 : W64)
  | domainReset (h : CmdHead) (w0 : W64)
  | domainResetRelease
  | diagWrFlip (h : CmdHead) (w0 w1 : W64)
  | diagWrPoison (h : CmdHead) (w0 w1 : W64)
  | diagWrCheck (h : CmdHead) (w0 w1 : W64)
  | switch (h : CmdHead) (w0 : W64)
  | clear (h : CmdHead) (w0 : W64)
  | configHeartbeat
  | registerWrite (h : CmdHead) (addr : BitVec 24) (data : W32)
  -- memory integrity
  | scrubBlockCheck
  | digestRecheck
  | minLogRead (h : CmdHead)
  | tmrFix (item : Fin 9)
  -- pairing
  | pairHeartbeat (port : Port) (pkt : Packet)
  | mirror (port : Port) (pkt : Packet)
  | pairTakeover
  -- reset and start-up
  | porstN
  | wrstN
  | supplyMonitorReset
  | resetRelease (addr : Fin 32)
  | calRowsLoaded (us : Nat)
  | memoryInitComplete (us : Nat)
  | autojoin
  -- events and global registers
  | eventPacket (g : Fin 12)
  | evtStatClear (h : CmdHead) (g : Fin 12) (mask : W32)
  | glbTempUpdate (temp : Int)
  | lowWordRead (h : CmdHead) (addr : BitVec 24)
  | timFrameIdxRead (h : CmdHead)
  | stuckCntRead (h : CmdHead)
  | tpllLock (us : Nat)
  | trefPresent
  -- blocks and JTAG
  | blockBoundary (port : Port)
  | ringBlockReceived (port : Port) (lane : Fin 4) (sync : BitVec 2) (payload : W64)
  | trstN
  | tck (tms tdi : Bool)
deriving DecidableEq, Repr

end Sys2Proof
end

