-- ==== Sys2Proof/Decode.lean ====
section
/-! DEFINITION. The commands that words spell. No row of spec/opcode_table.json gives bits: a command of the table is not spelled
by a word of the table's numbering, and commands of the ring and of the side port are decoded where the spec decodes them
(Machine/Command.lean). -/

namespace Sys2Proof

/-- The command that a word of the table spells: none, since no row gives bits. -/
def decodeTableWord (_nbits _w : Nat) : Option Instr := none

end Sys2Proof
end

