-- ==== Sys2Proof/Config.lean ====
section
/-! DEFINITION. What one device fixes outside its configuration, and the free values of the model. Every constant here
is opaque: no proof can use a value of it. -/

namespace Sys2Proof.Config

/-- The factory cal value of a register whose Reset column says "cal" (R11), by address. DESIGN CHOICE, see notes/assumptions/4. -/
opaque calReg : Nat → W32

/-- The factory cal value of a word of the calibration table memory (R11, R229), by word address. -/
opaque calTable : Nat → W64

/-- A value that the spec leaves open, numbered by the counter of the state that asked for it. -/
opaque freeValue : Nat → W64

/-- The number of cells of the boundary-scan register, which the spec does not state (R450). -/
opaque boundaryCells : Nat

/-- The untrimmed threshold offset of a pixel in electrons, by 256 × row + column (R46). -/
opaque pixelOffset : Nat → Int

/-- The instants of the internal calibration steps, in TCLK from the start of the two frames that hold them; the spec does not state
them (R221). -/
opaque stepInstant : Nat → Nat

end Sys2Proof.Config
end

