-- ==== Sys2Proof/Machine/Bits.lean ====
section
/-! DEFINITION. Bit fields, sign extension, saturation and the two kinds of finite map the state is written with. -/

namespace Sys2Proof.Machine

/-- Field [hi:lo] of a number, bit 0 least significant (Notation and numbers, chapter 00). -/
def bits (x hi lo : Nat) : Nat := (x >>> lo) % 2 ^ (hi + 1 - lo)

/-- `v` placed at bit `lo`, cut to `w` bits. -/
def place (w lo v : Nat) : Nat := (v % 2 ^ w) <<< lo

/-- The low `w` bits of `x` read as a signed number. -/
def sext (w x : Nat) : Int :=
  let y := x % 2 ^ w
  if y < 2 ^ (w - 1) then (y : Int) else (y : Int) - (2 ^ w : Nat)

/-- A signed number cut to `w` bits, two's complement. -/
def unsext (w : Nat) (i : Int) : Nat := (i % ((2 ^ w : Nat) : Int)).toNat

/-- Division rounding up; 0 where the divisor is 0. -/
def ceilDiv (a b : Nat) : Nat := if b = 0 then 0 else (a + b - 1) / b

/-- Counters saturate (R41 and every register chapter). -/
def satTo (w v : Nat) : Nat := min v (2 ^ w - 1)

/-- sat() of chapter 09: a signed result limited to 32 bits. -/
def sat32 (i : Int) : Int := max (-2147483648) (min 2147483647 i)

/-- 1 for true. -/
def b2n (b : Bool) : Nat := if b then 1 else 0

/-- A 64-bit word of a number. -/
def w64 (x : Nat) : W64 := BitVec.ofNat 64 x

/-- The bytes of a word, byte 0 first (R4). -/
def wordBytes (w : W64) : List Nat := (List.range 8).map fun i => bits w.toNat (8 * i + 7) (8 * i)

/-- Bytes packed into words little-endian, the last word padded with 0 (R4). -/
def packBytes : List Nat → List W64
  | [] => []
  | b0 :: b1 :: b2 :: b3 :: b4 :: b5 :: b6 :: b7 :: bs =>
    w64 (b0 + 256 * (b1 + 256 * (b2 + 256 * (b3 + 256 * (b4 + 256 * (b5 + 256 * (b6 + 256 * b7))))))) :: packBytes bs
  | bs => [w64 (bs.foldr (fun b acc => b + 256 * acc) 0)]

/-- The number of 1 bits of a number below 2^64. -/
def popCount (x : Nat) : Nat := (List.range 64).countP fun i => x.testBit i

/-- A sparse map from addresses to words in canonical form: keys strictly rising, no entry 0. An unlisted key reads 0. -/
abbrev SMap (w : Nat) := List (Nat × BitVec w)

/-- The word at a key. -/
def SMap.get {w : Nat} : SMap w → Nat → BitVec w
  | [], _ => 0#w
  | (k, v) :: m, a => if a = k then v else SMap.get m a

/-- Takes the entry of a key out. -/
def SMap.erase {w : Nat} (m : SMap w) (a : Nat) : SMap w := m.filter fun e => e.1 != a

/-- Puts an entry in at its place. -/
def SMap.insert {w : Nat} : SMap w → Nat → BitVec w → SMap w
  | [], a, v => [(a, v)]
  | (k, u) :: m, a, v => if a < k then (a, v) :: (k, u) :: m else (k, u) :: SMap.insert m a v

/-- Sets the word at a key; a word of 0 takes no entry. -/
def SMap.set {w : Nat} (m : SMap w) (a : Nat) (v : BitVec w) : SMap w :=
  if v = 0#w then m.erase a else (m.erase a).insert a v

/-- The canonical form, with every key at or above `lo`. -/
def SMap.wfFrom {w : Nat} : Nat → SMap w → Bool
  | _, [] => true
  | lo, (k, v) :: m => decide (lo ≤ k) && !decide (v = 0#w) && SMap.wfFrom (k + 1) m

/-- The canonical form: keys strictly rising, no entry equal to what an unlisted key reads as. -/
def SMap.wf {w : Nat} (m : SMap w) : Bool := SMap.wfFrom 0 m

/-- A table of few records by number, with a default for the numbers it does not list. -/
abbrev Table (α : Type) := List (Nat × α)

/-- The record at a number. -/
def Table.get {α : Type} (d : α) : Table α → Nat → α
  | [], _ => d
  | (k, v) :: m, a => if a = k then v else Table.get d m a

/-- Sets the record at a number, numbers rising. -/
def Table.set {α : Type} : Table α → Nat → α → Table α
  | [], a, v => [(a, v)]
  | (k, u) :: m, a, v =>
    if a < k then (a, v) :: (k, u) :: m
    else if a = k then (a, v) :: m
    else (k, u) :: Table.set m a v

/-- The element of a list at an index, or the default. -/
def nth {α : Type} (d : α) (l : List α) (i : Nat) : α := l.getD i d

end Sys2Proof.Machine
end

