-- ==== Sys2Proof/Machine/RegTable.lean ====
section
/-! DEFINITION. The register space (R425): every register of every register table of the spec, with the bits, the access
code (R5) and the reset value (R11) of each field. The row of a register array gives its base, its stride and its count.
One list per block of R425. -/

namespace Sys2Proof.Machine

/-- The access codes of R5. -/
inductive Access where
  | ro
  | rw
  | rws
  | w1c
  | wo
  | rc
deriving DecidableEq, Repr

/-- The Reset column (R11): a value, or "cal". -/
inductive Rst where
  | val (n : Nat)
  | cal
deriving DecidableEq, Repr

/-- One field of a register table. -/
structure FieldDef where
  lo  : Nat
  w   : Nat
  acc : Access
  rst : Rst
deriving DecidableEq, Repr

/-- One register, or one array of registers. `inst` marks the instance registers of R374. -/
structure RegRow where
  base   : Nat
  stride : Nat
  count  : Nat
  inst   : Bool
  fields : List FieldDef
deriving DecidableEq, Repr

/-- Block GLB of R425. -/
def regsGlb : List RegRow := [
  ⟨0x0, 4, 1, false, [⟨16, 16, .ro, .val 1844⟩, ⟨8, 8, .ro, .val 176⟩, ⟨0, 8, .ro, .val 90⟩]⟩, -- GLB_ID (R426)
  ⟨0x4, 4, 1, false, [⟨0, 32, .ro, .cal⟩]⟩, -- GLB_SERIAL_LO (R426)
  ⟨0x8, 4, 1, false, [⟨0, 32, .ro, .cal⟩]⟩, -- GLB_SERIAL_HI (R426)
  ⟨0xC, 4, 1, false, [⟨0, 32, .rws, .val 0⟩]⟩, -- GLB_CFG_TAG (R426)
  ⟨0x10, 4, 1, false, [⟨0, 1, .rws, .val 0⟩]⟩, -- GLB_PWR (R426)
  ⟨0x14, 4, 1, false, [⟨1, 1, .ro, .val 0⟩, ⟨0, 1, .ro, .val 0⟩]⟩, -- GLB_STAT (R426)
  ⟨0x18, 4, 1, false, [⟨31, 1, .ro, .val 0⟩, ⟨0, 16, .ro, .val 0⟩]⟩, -- GLB_TEMP (R426)
  ⟨0x1C, 4, 1, false, [⟨16, 8, .rws, .val 20⟩, ⟨0, 16, .rws, .val 460⟩]⟩, -- GLB_TEMP_LIM (R426)
  ⟨0x100, 4, 1, false, [⟨31, 1, .ro, .val 0⟩, ⟨30, 1, .ro, .val 0⟩, ⟨16, 5, .ro, .val 0⟩, ⟨0, 2, .ro, .val 0⟩]⟩, -- GLB_RST_STAT (R424)
  ⟨0x104, 4, 1, false, [⟨31, 1, .rw, .val 1⟩]⟩, -- GLB_RST_CTL (R424)
  ⟨0x108, 4, 1, false, [⟨0, 16, .ro, .val 0⟩]⟩, -- GLB_INIT_US (R424)
  ⟨0x10C, 4, 1, false, [⟨0, 10, .ro, .val 0⟩]⟩, -- GLB_DRST_STAT (R424)
  ⟨0x110, 4, 1, false, [⟨0, 32, .rc, .val 0⟩]⟩, -- GLB_DRST_CNT (R424)
  ⟨0x120, 4, 1, false, [⟨0, 32, .rc, .val 0⟩]⟩, -- GLB_CDC_DROP (R424)
  ⟨0x124, 4, 1, false, [⟨0, 32, .rc, .val 0⟩]⟩, -- GLB_CDC_OVR (R424)
  ⟨0x128, 4, 1, false, [⟨16, 11, .w1c, .val 0⟩, ⟨0, 11, .w1c, .val 0⟩]⟩] -- GLB_CDC_STAT (R424)

/-- Block TIM of R425. -/
def regsTim : List RegRow := [
  ⟨0x1000, 4, 1, false, [⟨0, 1, .rws, .val 1⟩]⟩, -- TIM_CTL (R41)
  ⟨0x1004, 4, 1, false, [⟨8, 8, .ro, .val 3⟩, ⟨3, 1, .ro, .val 0⟩, ⟨2, 1, .ro, .val 0⟩, ⟨1, 1, .ro, .val 0⟩, ⟨0, 1, .ro, .val 0⟩]⟩, -- TIM_STAT (R41)
  ⟨0x1008, 4, 1, false, [⟨0, 19, .ro, .val 0⟩]⟩, -- TIM_FRAME_IDX (R41)
  ⟨0x100C, 4, 1, false, [⟨0, 32, .ro, .val 0⟩]⟩, -- TIM_FRAME_SEC_LO (R41)
  ⟨0x1010, 4, 1, false, [⟨0, 32, .ro, .val 0⟩]⟩, -- TIM_FRAME_SEC_HI (R41)
  ⟨0x1014, 4, 1, false, [⟨0, 9, .ro, .val 0⟩]⟩, -- TIM_RESIDUAL (R41)
  ⟨0x1018, 4, 1, false, [⟨16, 16, .rc, .val 0⟩, ⟨0, 16, .rc, .val 0⟩]⟩, -- TIM_SLIP_CNT (R41)
  ⟨0x101C, 4, 1, false, [⟨0, 16, .rc, .val 0⟩]⟩, -- TIM_TREF_LOSS (R41)
  ⟨0x1020, 4, 1, false, [⟨0, 32, .ro, .val 0⟩]⟩, -- TIM_HOLD_FRAMES (R41)
  ⟨0x1024, 4, 1, false, [⟨0, 19, .ro, .val 0⟩]⟩, -- TIM_LOSS_IDX (R41)
  ⟨0x1028, 4, 1, false, [⟨0, 32, .ro, .val 0⟩]⟩, -- TIM_LOSS_SEC (R41)
  ⟨0x102C, 4, 1, false, [⟨0, 16, .rws, .val 1024⟩]⟩, -- TIM_RELOCK (R41)
  ⟨0x1030, 4, 1, false, [⟨0, 13, .rws, .val 4096⟩]⟩, -- TIM_BUDGET_HITS (R41)
  ⟨0x1034, 4, 1, false, [⟨16, 16, .ro, .val 0⟩, ⟨0, 8, .ro, .val 255⟩]⟩, -- TIM_BUDGET_STAT (R41)
  ⟨0x1038, 4, 1, false, [⟨0, 32, .rc, .val 0⟩]⟩, -- TIM_BUDGET_REFUSE (R41)
  ⟨0x103C, 4, 1, false, [⟨0, 32, .rc, .val 0⟩]⟩, -- TIM_STEP_DROP (R41)
  ⟨0x1040, 4, 1, false, [⟨16, 16, .ro, .val 0⟩, ⟨0, 16, .ro, .val 1024⟩]⟩, -- TIM_LEDGER (R41)
  ⟨0x1044, 4, 1, false, [⟨16, 16, .ro, .val 0⟩, ⟨0, 16, .ro, .val 161⟩]⟩, -- TIM_LEDGER (R41)
  ⟨0x1048, 4, 1, false, [⟨16, 16, .ro, .val 0⟩, ⟨0, 16, .ro, .val 1008⟩]⟩, -- TIM_LEDGER (R41)
  ⟨0x104C, 4, 1, false, [⟨16, 16, .ro, .val 0⟩, ⟨0, 16, .ro, .val 0⟩]⟩, -- TIM_LEDGER (R41)
  ⟨0x1050, 4, 1, false, [⟨16, 16, .ro, .val 0⟩, ⟨0, 16, .ro, .val 0⟩]⟩, -- TIM_LEDGER (R41)
  ⟨0x1054, 4, 1, false, [⟨16, 16, .ro, .val 0⟩, ⟨0, 16, .ro, .val 0⟩]⟩, -- TIM_LEDGER (R41)
  ⟨0x1058, 4, 1, false, [⟨16, 16, .ro, .val 0⟩, ⟨0, 16, .ro, .val 66⟩]⟩, -- TIM_LEDGER (R41)
  ⟨0x105C, 4, 1, false, [⟨16, 16, .ro, .val 0⟩, ⟨0, 16, .ro, .val 0⟩]⟩, -- TIM_LEDGER (R41)
  ⟨0x1100, 4, 1, false, [⟨31, 1, .rws, .val 1⟩, ⟨30, 1, .rws, .val 0⟩, ⟨16, 8, .rws, .val 16⟩, ⟨8, 8, .rws, .val 4⟩, ⟨4, 4, .rws, .val 1⟩, ⟨0, 4, .rws, .val 6⟩]⟩, -- TIM_NET_CFG (R339)
  ⟨0x1104, 4, 1, false, [⟨24, 8, .rws, .val 32⟩, ⟨0, 16, .rws, .val 16⟩]⟩, -- TIM_NET_LIM (R339)
  ⟨0x1108, 4, 1, false, [⟨30, 2, .ro, .val 0⟩, ⟨29, 1, .ro, .val 0⟩, ⟨24, 5, .ro, .val 31⟩, ⟨16, 7, .ro, .val 0⟩]⟩, -- TIM_NET_STAT (R339)
  ⟨0x110C, 4, 1, false, [⟨0, 32, .ro, .val 0⟩]⟩, -- TIM_NET_OFFS (R339)
  ⟨0x1110, 4, 1, false, [⟨0, 32, .ro, .val 0⟩]⟩, -- TIM_NET_FREQ (R339)
  ⟨0x1114, 4, 1, false, [⟨0, 32, .rc, .val 0⟩]⟩, -- TIM_REROUTE_CNT (R339)
  ⟨0x1118, 4, 1, false, [⟨0, 32, .rc, .val 0⟩]⟩, -- TIM_DISCARD_CNT (R339)
  ⟨0x1140, 64, 2, false, [⟨0, 32, .ro, .val 0⟩]⟩, -- TIM_X_DELAY (R339)
  ⟨0x1144, 64, 2, false, [⟨0, 32, .ro, .val 0⟩]⟩, -- TIM_X_OFFS (R339)
  ⟨0x1148, 64, 2, false, [⟨16, 8, .ro, .val 3⟩, ⟨8, 5, .ro, .val 31⟩, ⟨0, 5, .ro, .val 31⟩]⟩, -- TIM_X_NBR (R339)
  ⟨0x114C, 64, 2, true, [⟨0, 16, .rws, .val 0⟩]⟩, -- TIM_X_ASYM0 (R339)
  ⟨0x1150, 64, 2, true, [⟨0, 16, .rws, .val 0⟩]⟩, -- TIM_X_ASYM1 (R339)
  ⟨0x1154, 64, 2, true, [⟨0, 16, .rws, .val 0⟩]⟩, -- TIM_X_ASYM2 (R339)
  ⟨0x1158, 64, 2, false, [⟨0, 32, .rc, .val 0⟩]⟩, -- TIM_X_EXCH (R339)
  ⟨0x115C, 64, 2, false, [⟨0, 32, .rc, .val 0⟩]⟩, -- TIM_X_VOID (R339)
  ⟨0x1160, 64, 2, false, [⟨0, 32, .rc, .val 0⟩]⟩] -- TIM_X_INCONS (R339)

/-- Block CMD of R425. -/
def regsCmd0 : List RegRow := [
  ⟨0x2000, 4, 1, false, [⟨31, 1, .ro, .val 0⟩, ⟨30, 1, .ro, .val 0⟩, ⟨29, 1, .ro, .val 0⟩, ⟨28, 1, .ro, .val 1⟩, ⟨0, 5, .ro, .val 0⟩]⟩, -- CMD_STAT (R378)
  ⟨0x2004, 4, 1, false, [⟨0, 32, .ro, .val 0⟩]⟩, -- CMD_EPOCH (R378)
  ⟨0x2008, 4, 1, false, [⟨0, 32, .ro, .val 0⟩]⟩, -- CMD_PEND_EPOCH (R378)
  ⟨0x200C, 4, 1, false, [⟨0, 32, .ro, .val 0⟩]⟩, -- CMD_PEND_SEC (R378)
  ⟨0x2010, 4, 1, false, [⟨0, 19, .ro, .val 0⟩]⟩, -- CMD_PEND_IDX (R378)
  ⟨0x2018, 4, 1, false, [⟨0, 32, .ro, .val 0⟩]⟩, -- CMD_CDIG_A_LO (R378)
  ⟨0x201C, 4, 1, false, [⟨0, 32, .ro, .val 0⟩]⟩, -- CMD_CDIG_A_HI (R378)
  ⟨0x2020, 4, 1, false, [⟨0, 32, .ro, .val 0⟩]⟩, -- CMD_FDIG_A_LO (R378)
  ⟨0x2024, 4, 1, false, [⟨0, 32, .ro, .val 0⟩]⟩, -- CMD_FDIG_A_HI (R378)
  ⟨0x2028, 4, 1, false, [⟨0, 32, .ro, .val 0⟩]⟩, -- CMD_CDIG_S_LO (R378)
  ⟨0x202C, 4, 1, false, [⟨0, 32, .ro, .val 0⟩]⟩, -- CMD_CDIG_S_HI (R378)
  ⟨0x2030, 4, 1, false, [⟨0, 32, .ro, .val 0⟩]⟩, -- CMD_FDIG_S_LO (R378)
  ⟨0x2034, 4, 1, false, [⟨0, 32, .ro, .val 0⟩]⟩, -- CMD_FDIG_S_HI (R378)
  ⟨0x2040, 4, 1, false, [⟨31, 1, .rws, .val 1⟩]⟩, -- CMD_HB_CTL (R378)
  ⟨0x2044, 4, 1, false, [⟨24, 8, .ro, .val 0⟩, ⟨16, 8, .ro, .val 0⟩, ⟨8, 8, .ro, .val 0⟩, ⟨0, 2, .ro, .val 0⟩]⟩, -- CMD_LAST_ERR (R378)
  ⟨0x2050, 4, 1, false, [⟨0, 32, .rc, .val 0⟩]⟩, -- CMD_EXEC_CNT (R378)
  ⟨0x2054, 4, 1, false, [⟨0, 32, .rc, .val 0⟩]⟩, -- CMD_REJECT_CNT (R378)
  ⟨0x2058, 4, 1, false, [⟨0, 32, .rc, .val 0⟩]⟩, -- CMD_DENIED_CNT (R378)
  ⟨0x205C, 4, 1, false, [⟨0, 32, .rc, .val 0⟩]⟩, -- CMD_COLLIDE_CNT (R378)
  ⟨0x2060, 4, 1, false, [⟨0, 32, .rc, .val 0⟩]⟩, -- CMD_OVF_CNT (R378)
  ⟨0x2064, 4, 1, false, [⟨0, 32, .rc, .val 0⟩]⟩, -- CMD_CRC_CNT (R378)
  ⟨0x2068, 4, 1, false, [⟨0, 32, .rc, .val 0⟩]⟩, -- CMD_REPEAT_CNT (R378)
  ⟨0x206C, 4, 1, false, [⟨0, 32, .rc, .val 0⟩]⟩, -- CMD_SIDE_OVF (R378)
  ⟨0x2070, 4, 1, false, [⟨0, 32, .rc, .val 0⟩]⟩, -- CMD_HB_DROP (R378)
  ⟨0x2074, 4, 1, false, [⟨0, 32, .rc, .val 0⟩]⟩, -- CMD_COMMIT_CNT (R378)
  ⟨0x2100, 4, 1, false, [⟨4, 2, .ro, .val 0⟩, ⟨0, 2, .ro, .val 3⟩]⟩, -- CMD_PROT (R378)
  ⟨0x2104, 4, 1, false, [⟨4, 2, .ro, .val 1⟩, ⟨0, 2, .ro, .val 3⟩]⟩, -- CMD_PROT (R378)
  ⟨0x2108, 4, 1, false, [⟨4, 2, .ro, .val 0⟩, ⟨0, 2, .ro, .val 3⟩]⟩, -- CMD_PROT (R378)
  ⟨0x210C, 4, 1, false, [⟨4, 2, .ro, .val 0⟩, ⟨0, 2, .ro, .val 3⟩]⟩, -- CMD_PROT (R378)
  ⟨0x2110, 4, 1, false, [⟨4, 2, .ro, .val 1⟩, ⟨0, 2, .ro, .val 3⟩]⟩, -- CMD_PROT (R378)
  ⟨0x2114, 4, 1, false, [⟨4, 2, .ro, .val 0⟩, ⟨0, 2, .ro, .val 3⟩]⟩, -- CMD_PROT (R378)
  ⟨0x2118, 4, 1, false, [⟨4, 2, .ro, .val 0⟩, ⟨0, 2, .ro, .val 3⟩]⟩, -- CMD_PROT (R378)
  ⟨0x211C, 4, 1, false, [⟨4, 2, .ro, .val 0⟩, ⟨0, 2, .ro, .val 3⟩]⟩, -- CMD_PROT (R378)
  ⟨0x2120, 4, 1, false, [⟨4, 2, .ro, .val 0⟩, ⟨0, 2, .ro, .val 3⟩]⟩, -- CMD_PROT (R378)
  ⟨0x2124, 4, 1, false, [⟨4, 2, .ro, .val 1⟩, ⟨0, 2, .ro, .val 3⟩]⟩, -- CMD_PROT (R378)
  ⟨0x2128, 4, 1, false, [⟨4, 2, .ro, .val 1⟩, ⟨0, 2, .ro, .val 3⟩]⟩, -- CMD_PROT (R378)
  ⟨0x212C, 4, 1, false, [⟨4, 2, .ro, .val 1⟩, ⟨0, 2, .ro, .val 3⟩]⟩, -- CMD_PROT (R378)
  ⟨0x2130, 4, 1, false, [⟨4, 2, .ro, .val 1⟩, ⟨0, 2, .ro, .val 3⟩]⟩, -- CMD_PROT (R378)
  ⟨0x2134, 4, 1, false, [⟨4, 2, .ro, .val 1⟩, ⟨0, 2, .ro, .val 3⟩]⟩, -- CMD_PROT (R378)
  ⟨0x2138, 4, 1, false, [⟨4, 2, .ro, .val 1⟩, ⟨0, 2, .ro, .val 3⟩]⟩] -- CMD_PROT (R378)

/-- Block CMD of R425. -/
def regsCmd1 : List RegRow := [
  ⟨0x213C, 4, 1, false, [⟨4, 2, .ro, .val 1⟩, ⟨0, 2, .ro, .val 3⟩]⟩, -- CMD_PROT (R378)
  ⟨0x2140, 4, 1, false, [⟨4, 2, .ro, .val 1⟩, ⟨0, 2, .ro, .val 3⟩]⟩, -- CMD_PROT (R378)
  ⟨0x2144, 4, 1, false, [⟨4, 2, .ro, .val 1⟩, ⟨0, 2, .ro, .val 3⟩]⟩, -- CMD_PROT (R378)
  ⟨0x2148, 4, 1, false, [⟨4, 2, .ro, .val 1⟩, ⟨0, 2, .ro, .val 3⟩]⟩, -- CMD_PROT (R378)
  ⟨0x214C, 4, 1, false, [⟨4, 2, .ro, .val 0⟩, ⟨0, 2, .ro, .val 3⟩]⟩, -- CMD_PROT (R378)
  ⟨0x2150, 4, 1, false, [⟨4, 2, .ro, .val 1⟩, ⟨0, 2, .ro, .val 3⟩]⟩, -- CMD_PROT (R378)
  ⟨0x2154, 4, 1, false, [⟨4, 2, .ro, .val 0⟩, ⟨0, 2, .ro, .val 3⟩]⟩, -- CMD_PROT (R378)
  ⟨0x2158, 4, 1, false, [⟨4, 2, .ro, .val 0⟩, ⟨0, 2, .ro, .val 3⟩]⟩, -- CMD_PROT (R378)
  ⟨0x215C, 4, 1, false, [⟨4, 2, .ro, .val 1⟩, ⟨0, 2, .ro, .val 3⟩]⟩, -- CMD_PROT (R378)
  ⟨0x2160, 4, 1, false, [⟨4, 2, .ro, .val 0⟩, ⟨0, 2, .ro, .val 3⟩]⟩, -- CMD_PROT (R378)
  ⟨0x2164, 4, 1, false, [⟨4, 2, .ro, .val 0⟩, ⟨0, 2, .ro, .val 3⟩]⟩, -- CMD_PROT (R378)
  ⟨0x2168, 4, 1, false, [⟨4, 2, .ro, .val 0⟩, ⟨0, 2, .ro, .val 3⟩]⟩, -- CMD_PROT (R378)
  ⟨0x216C, 4, 1, false, [⟨4, 2, .ro, .val 0⟩, ⟨0, 2, .ro, .val 3⟩]⟩, -- CMD_PROT (R378)
  ⟨0x2170, 4, 1, false, [⟨4, 2, .ro, .val 0⟩, ⟨0, 2, .ro, .val 3⟩]⟩, -- CMD_PROT (R378)
  ⟨0x2174, 4, 1, false, [⟨4, 2, .ro, .val 0⟩, ⟨0, 2, .ro, .val 3⟩]⟩, -- CMD_PROT (R378)
  ⟨0x2178, 4, 1, false, [⟨4, 2, .ro, .val 0⟩, ⟨0, 2, .ro, .val 3⟩]⟩, -- CMD_PROT (R378)
  ⟨0x217C, 4, 1, false, [⟨4, 2, .ro, .val 0⟩, ⟨0, 2, .ro, .val 3⟩]⟩, -- CMD_PROT (R378)
  ⟨0x2180, 4, 1, false, [⟨4, 2, .ro, .val 0⟩, ⟨0, 2, .ro, .val 3⟩]⟩, -- CMD_PROT (R378)
  ⟨0x2184, 4, 1, false, [⟨4, 2, .ro, .val 0⟩, ⟨0, 2, .ro, .val 3⟩]⟩, -- CMD_PROT (R378)
  ⟨0x2188, 4, 1, false, [⟨4, 2, .ro, .val 0⟩, ⟨0, 2, .ro, .val 3⟩]⟩, -- CMD_PROT (R378)
  ⟨0x218C, 4, 1, false, [⟨4, 2, .ro, .val 0⟩, ⟨0, 2, .ro, .val 3⟩]⟩, -- CMD_PROT (R378)
  ⟨0x2190, 4, 1, false, [⟨4, 2, .ro, .val 0⟩, ⟨0, 2, .ro, .val 3⟩]⟩, -- CMD_PROT (R378)
  ⟨0x2194, 4, 1, false, [⟨4, 2, .ro, .val 0⟩, ⟨0, 2, .ro, .val 3⟩]⟩, -- CMD_PROT (R378)
  ⟨0x2198, 4, 1, false, [⟨4, 2, .ro, .val 0⟩, ⟨0, 2, .ro, .val 3⟩]⟩, -- CMD_PROT (R378)
  ⟨0x219C, 4, 1, false, [⟨4, 2, .ro, .val 0⟩, ⟨0, 2, .ro, .val 3⟩]⟩, -- CMD_PROT (R378)
  ⟨0x21A0, 4, 1, false, [⟨4, 2, .ro, .val 0⟩, ⟨0, 2, .ro, .val 3⟩]⟩, -- CMD_PROT (R378)
  ⟨0x21A4, 4, 1, false, [⟨4, 2, .ro, .val 0⟩, ⟨0, 2, .ro, .val 3⟩]⟩, -- CMD_PROT (R378)
  ⟨0x21A8, 4, 1, false, [⟨4, 2, .ro, .val 0⟩, ⟨0, 2, .ro, .val 3⟩]⟩, -- CMD_PROT (R378)
  ⟨0x21AC, 4, 1, false, [⟨4, 2, .ro, .val 0⟩, ⟨0, 2, .ro, .val 3⟩]⟩, -- CMD_PROT (R378)
  ⟨0x21B0, 4, 1, false, [⟨4, 2, .ro, .val 0⟩, ⟨0, 2, .ro, .val 3⟩]⟩, -- CMD_PROT (R378)
  ⟨0x21B4, 4, 1, false, [⟨4, 2, .ro, .val 0⟩, ⟨0, 2, .ro, .val 3⟩]⟩, -- CMD_PROT (R378)
  ⟨0x21B8, 4, 1, false, [⟨4, 2, .ro, .val 0⟩, ⟨0, 2, .ro, .val 3⟩]⟩, -- CMD_PROT (R378)
  ⟨0x21BC, 4, 1, false, [⟨4, 2, .ro, .val 0⟩, ⟨0, 2, .ro, .val 3⟩]⟩, -- CMD_PROT (R378)
  ⟨0x21C0, 4, 1, false, [⟨4, 2, .ro, .val 1⟩, ⟨0, 2, .ro, .val 3⟩]⟩, -- CMD_PROT (R378)
  ⟨0x21C4, 4, 1, false, [⟨4, 2, .ro, .val 0⟩, ⟨0, 2, .ro, .val 3⟩]⟩, -- CMD_PROT (R378)
  ⟨0x21C8, 4, 1, false, [⟨4, 2, .ro, .val 1⟩, ⟨0, 2, .ro, .val 3⟩]⟩, -- CMD_PROT (R378)
  ⟨0x21CC, 4, 1, false, [⟨4, 2, .ro, .val 1⟩, ⟨0, 2, .ro, .val 3⟩]⟩, -- CMD_PROT (R378)
  ⟨0x21D0, 4, 1, false, [⟨4, 2, .ro, .val 0⟩, ⟨0, 2, .ro, .val 3⟩]⟩, -- CMD_PROT (R378)
  ⟨0x21D4, 4, 1, false, [⟨4, 2, .ro, .val 1⟩, ⟨0, 2, .ro, .val 3⟩]⟩, -- CMD_PROT (R378)
  ⟨0x21D8, 4, 1, false, [⟨4, 2, .ro, .val 0⟩, ⟨0, 2, .ro, .val 3⟩]⟩] -- CMD_PROT (R378)

/-- Block CMD of R425. -/
def regsCmd2 : List RegRow := [
  ⟨0x21DC, 4, 1, false, [⟨4, 2, .ro, .val 2⟩, ⟨0, 2, .ro, .val 3⟩]⟩, -- CMD_PROT (R378)
  ⟨0x21E0, 4, 1, false, [⟨4, 2, .ro, .val 0⟩, ⟨0, 2, .ro, .val 3⟩]⟩, -- CMD_PROT (R378)
  ⟨0x21E4, 4, 1, false, [⟨4, 2, .ro, .val 0⟩, ⟨0, 2, .ro, .val 3⟩]⟩, -- CMD_PROT (R378)
  ⟨0x21E8, 4, 1, false, [⟨4, 2, .ro, .val 0⟩, ⟨0, 2, .ro, .val 3⟩]⟩, -- CMD_PROT (R378)
  ⟨0x21EC, 4, 1, false, [⟨4, 2, .ro, .val 0⟩, ⟨0, 2, .ro, .val 3⟩]⟩, -- CMD_PROT (R378)
  ⟨0x21F0, 4, 1, false, [⟨4, 2, .ro, .val 0⟩, ⟨0, 2, .ro, .val 3⟩]⟩, -- CMD_PROT (R378)
  ⟨0x21F4, 4, 1, false, [⟨4, 2, .ro, .val 0⟩, ⟨0, 2, .ro, .val 3⟩]⟩, -- CMD_PROT (R378)
  ⟨0x21F8, 4, 1, false, [⟨4, 2, .ro, .val 0⟩, ⟨0, 2, .ro, .val 3⟩]⟩, -- CMD_PROT (R378)
  ⟨0x21FC, 4, 1, false, [⟨4, 2, .ro, .val 0⟩, ⟨0, 2, .ro, .val 3⟩]⟩, -- CMD_PROT (R378)
  ⟨0x2200, 4, 1, false, [⟨4, 2, .ro, .val 0⟩, ⟨0, 2, .ro, .val 0⟩]⟩] -- CMD_CEIL (R378)

/-- Block CMD of R425. -/
def regsCmd : List RegRow := regsCmd0 ++ regsCmd1 ++ regsCmd2

/-- Block EVT of R425. -/
def regsEvt0 : List RegRow := [
  ⟨0x3000, 4, 1, false, [⟨0, 16, .rws, .val 64⟩]⟩, -- EVT_CTL (R436)
  ⟨0x3004, 4, 1, false, [⟨16, 12, .ro, .val 0⟩, ⟨0, 12, .ro, .val 0⟩]⟩, -- EVT_SUMMARY (R436)
  ⟨0x3008, 4, 1, false, [⟨1, 1, .ro, .val 0⟩, ⟨0, 1, .ro, .val 0⟩]⟩, -- EVT_PIN (R436)
  ⟨0x300C, 4, 1, false, [⟨16, 9, .ro, .val 0⟩, ⟨0, 16, .ro, .val 0⟩]⟩, -- EVT_LAST (R436)
  ⟨0x3010, 4, 1, false, [⟨0, 32, .rc, .val 0⟩]⟩, -- EVT_PKT_CNT (R436)
  ⟨0x3014, 4, 1, false, [⟨0, 32, .rc, .val 0⟩]⟩, -- EVT_PKT_LOST (R436)
  ⟨0x3100, 4, 1, false, [⟨0, 14, .w1c, .val 0⟩]⟩, -- EVT_STAT (R436)
  ⟨0x3110, 4, 1, false, [⟨0, 10, .w1c, .val 0⟩]⟩, -- EVT_STAT (R436)
  ⟨0x3120, 4, 1, false, [⟨0, 23, .w1c, .val 0⟩]⟩, -- EVT_STAT (R436)
  ⟨0x3130, 4, 1, false, [⟨0, 16, .w1c, .val 0⟩]⟩, -- EVT_STAT (R436)
  ⟨0x3140, 4, 1, false, [⟨0, 5, .w1c, .val 0⟩]⟩, -- EVT_STAT (R436)
  ⟨0x3150, 4, 1, false, [⟨0, 10, .w1c, .val 0⟩]⟩, -- EVT_STAT (R436)
  ⟨0x3160, 4, 1, false, [⟨0, 9, .w1c, .val 0⟩]⟩, -- EVT_STAT (R436)
  ⟨0x3170, 4, 1, false, [⟨0, 3, .w1c, .val 0⟩]⟩, -- EVT_STAT (R436)
  ⟨0x3180, 4, 1, false, [⟨0, 5, .w1c, .val 0⟩]⟩, -- EVT_STAT (R436)
  ⟨0x3190, 4, 1, false, [⟨0, 6, .w1c, .val 0⟩]⟩, -- EVT_STAT (R436)
  ⟨0x31A0, 4, 1, false, [⟨0, 9, .w1c, .val 0⟩]⟩, -- EVT_STAT (R436)
  ⟨0x31B0, 4, 1, false, [⟨0, 19, .w1c, .val 0⟩]⟩, -- EVT_STAT (R436)
  ⟨0x3104, 4, 1, false, [⟨0, 14, .rws, .val 0⟩]⟩, -- EVT_EN (R436)
  ⟨0x3114, 4, 1, false, [⟨0, 10, .rws, .val 0⟩]⟩, -- EVT_EN (R436)
  ⟨0x3124, 4, 1, false, [⟨0, 23, .rws, .val 0⟩]⟩, -- EVT_EN (R436)
  ⟨0x3134, 4, 1, false, [⟨0, 16, .rws, .val 0⟩]⟩, -- EVT_EN (R436)
  ⟨0x3144, 4, 1, false, [⟨0, 5, .rws, .val 0⟩]⟩, -- EVT_EN (R436)
  ⟨0x3154, 4, 1, false, [⟨0, 10, .rws, .val 0⟩]⟩, -- EVT_EN (R436)
  ⟨0x3164, 4, 1, false, [⟨0, 9, .rws, .val 0⟩]⟩, -- EVT_EN (R436)
  ⟨0x3174, 4, 1, false, [⟨0, 3, .rws, .val 0⟩]⟩, -- EVT_EN (R436)
  ⟨0x3184, 4, 1, false, [⟨0, 5, .rws, .val 0⟩]⟩, -- EVT_EN (R436)
  ⟨0x3194, 4, 1, false, [⟨0, 6, .rws, .val 0⟩]⟩, -- EVT_EN (R436)
  ⟨0x31A4, 4, 1, false, [⟨0, 9, .rws, .val 0⟩]⟩, -- EVT_EN (R436)
  ⟨0x31B4, 4, 1, false, [⟨0, 19, .rws, .val 0⟩]⟩, -- EVT_EN (R436)
  ⟨0x3108, 4, 1, false, [⟨0, 28, .rws, .val 0⟩]⟩, -- EVT_RTE_LO (R436)
  ⟨0x3118, 4, 1, false, [⟨0, 20, .rws, .val 0⟩]⟩, -- EVT_RTE_LO (R436)
  ⟨0x3128, 4, 1, false, [⟨0, 32, .rws, .val 0⟩]⟩, -- EVT_RTE_LO (R436)
  ⟨0x3138, 4, 1, false, [⟨0, 32, .rws, .val 0⟩]⟩, -- EVT_RTE_LO (R436)
  ⟨0x3148, 4, 1, false, [⟨0, 10, .rws, .val 0⟩]⟩, -- EVT_RTE_LO (R436)
  ⟨0x3158, 4, 1, false, [⟨0, 20, .rws, .val 0⟩]⟩, -- EVT_RTE_LO (R436)
  ⟨0x3168, 4, 1, false, [⟨0, 18, .rws, .val 0⟩]⟩, -- EVT_RTE_LO (R436)
  ⟨0x3178, 4, 1, false, [⟨0, 6, .rws, .val 0⟩]⟩, -- EVT_RTE_LO (R436)
  ⟨0x3188, 4, 1, false, [⟨0, 10, .rws, .val 0⟩]⟩, -- EVT_RTE_LO (R436)
  ⟨0x3198, 4, 1, false, [⟨0, 12, .rws, .val 0⟩]⟩] -- EVT_RTE_LO (R436)

/-- Block EVT of R425. -/
def regsEvt1 : List RegRow := [
  ⟨0x31A8, 4, 1, false, [⟨0, 18, .rws, .val 0⟩]⟩, -- EVT_RTE_LO (R436)
  ⟨0x31B8, 4, 1, false, [⟨0, 32, .rws, .val 0⟩]⟩, -- EVT_RTE_LO (R436)
  ⟨0x310C, 4, 1, false, []⟩, -- EVT_RTE_HI (R436)
  ⟨0x311C, 4, 1, false, []⟩, -- EVT_RTE_HI (R436)
  ⟨0x312C, 4, 1, false, [⟨0, 14, .rws, .val 0⟩]⟩, -- EVT_RTE_HI (R436)
  ⟨0x313C, 4, 1, false, []⟩, -- EVT_RTE_HI (R436)
  ⟨0x314C, 4, 1, false, []⟩, -- EVT_RTE_HI (R436)
  ⟨0x315C, 4, 1, false, []⟩, -- EVT_RTE_HI (R436)
  ⟨0x316C, 4, 1, false, []⟩, -- EVT_RTE_HI (R436)
  ⟨0x317C, 4, 1, false, []⟩, -- EVT_RTE_HI (R436)
  ⟨0x318C, 4, 1, false, []⟩, -- EVT_RTE_HI (R436)
  ⟨0x319C, 4, 1, false, []⟩, -- EVT_RTE_HI (R436)
  ⟨0x31AC, 4, 1, false, []⟩, -- EVT_RTE_HI (R436)
  ⟨0x31BC, 4, 1, false, [⟨0, 6, .rws, .val 0⟩]⟩] -- EVT_RTE_HI (R436)

/-- Block EVT of R425. -/
def regsEvt : List RegRow := regsEvt0 ++ regsEvt1

/-- Block LNE of R425. -/
def regsLne : List RegRow := [
  ⟨0x4000, 4, 1, false, [⟨31, 1, .rws, .val 1⟩, ⟨30, 1, .rws, .val 1⟩, ⟨29, 1, .rws, .val 0⟩, ⟨25, 4, .rws, .val 0⟩, ⟨21, 4, .rws, .val 0⟩, ⟨16, 5, .rws, .val 0⟩, ⟨0, 10, .rws, .val 160⟩]⟩, -- LNE_CFG (R297)
  ⟨0x4004, 4, 1, false, [⟨28, 4, .ro, .val 0⟩, ⟨24, 4, .ro, .val 0⟩, ⟨20, 4, .ro, .val 0⟩, ⟨16, 4, .ro, .val 0⟩, ⟨12, 4, .ro, .val 0⟩, ⟨11, 1, .ro, .val 0⟩, ⟨10, 1, .ro, .val 0⟩, ⟨9, 1, .ro, .val 0⟩, ⟨8, 1, .ro, .val 0⟩, ⟨5, 3, .ro, .val 7⟩, ⟨0, 5, .ro, .val 0⟩]⟩, -- LNE_STAT (R297)
  ⟨0x4008, 4, 1, false, [⟨0, 24, .ro, .val 0⟩]⟩, -- LNE_NBR_NID (R297)
  ⟨0x400C, 4, 1, false, [⟨0, 24, .ro, .cal⟩]⟩, -- LNE_NID_OWN (R297)
  ⟨0x4010, 4, 1, false, [⟨16, 16, .ro, .val 0⟩, ⟨0, 16, .ro, .val 0⟩]⟩, -- LNE_LAT (R297)
  ⟨0x4014, 4, 1, false, [⟨16, 4, .rws, .val 12⟩, ⟨8, 4, .rws, .val 6⟩, ⟨0, 4, .rws, .val 2⟩]⟩, -- LNE_TXEQ (R297)
  ⟨0x4018, 4, 1, false, [⟨31, 1, .rws, .val 1⟩, ⟨30, 1, .rws, .val 1⟩, ⟨29, 1, .rws, .val 1⟩, ⟨0, 8, .rws, .val 16⟩]⟩, -- LNE_ADAPT (R297)
  ⟨0x40A0, 4, 1, false, [⟨16, 16, .rc, .val 0⟩, ⟨0, 16, .rc, .val 0⟩]⟩, -- LNE_LOSS_CNT (R297)
  ⟨0x40A4, 4, 1, false, [⟨0, 32, .rc, .val 0⟩]⟩, -- LNE_NBR_CNT (R297)
  ⟨0x40A8, 4, 1, false, [⟨0, 32, .rc, .val 0⟩]⟩, -- LNE_DESKEW_ERR (R297)
  ⟨0x40AC, 4, 1, false, [⟨0, 32, .rc, .val 0⟩]⟩, -- LNE_TRAIN_CNT (R297)
  ⟨0x40B0, 4, 1, false, [⟨4, 1, .ro, .val 0⟩, ⟨0, 2, .ro, .val 0⟩]⟩, -- LNE_TEST (R297)
  ⟨0x40C0, 4, 1, false, [⟨16, 16, .rws, .val 0⟩, ⟨1, 1, .ro, .val 0⟩, ⟨0, 1, .ro, .val 0⟩]⟩, -- LNE_RING (R297)
  ⟨0x4020, 32, 4, false, [⟨28, 4, .ro, .cal⟩, ⟨21, 7, .ro, .cal⟩, ⟨15, 6, .ro, .cal⟩, ⟨10, 5, .ro, .cal⟩, ⟨5, 5, .ro, .cal⟩, ⟨0, 5, .ro, .cal⟩]⟩, -- LNE_EQ (R297)
  ⟨0x4024, 32, 4, false, [⟨0, 32, .ro, .cal⟩]⟩, -- LNE_LKG (R297)
  ⟨0x4028, 32, 4, false, [⟨24, 8, .ro, .val 0⟩, ⟨16, 8, .ro, .val 0⟩, ⟨8, 8, .ro, .val 0⟩]⟩, -- LNE_EYE (R297)
  ⟨0x402C, 32, 4, false, [⟨0, 11, .ro, .val 0⟩]⟩, -- LNE_SKEW (R297)
  ⟨0x4030, 32, 4, false, [⟨0, 32, .rc, .val 0⟩]⟩, -- LNE_SHERR (R297)
  ⟨0x4034, 32, 4, false, [⟨16, 16, .rc, .val 0⟩, ⟨0, 16, .rc, .val 0⟩]⟩, -- LNE_AMERR (R297)
  ⟨0x4038, 32, 4, false, [⟨16, 16, .rc, .val 0⟩, ⟨0, 16, .rc, .val 0⟩]⟩, -- LNE_CNT (R297)
  ⟨0x403C, 32, 4, false, [⟨0, 32, .rc, .val 0⟩]⟩] -- LNE_PRBS (R297)

/-- Block LNW of R425. -/
def regsLnw : List RegRow := [
  ⟨0x5000, 4, 1, false, [⟨31, 1, .rws, .val 1⟩, ⟨30, 1, .rws, .val 1⟩, ⟨29, 1, .rws, .val 0⟩, ⟨25, 4, .rws, .val 0⟩, ⟨21, 4, .rws, .val 0⟩, ⟨0, 10, .rws, .val 160⟩]⟩, -- LNW_CFG (R297)
  ⟨0x5004, 4, 1, false, [⟨28, 4, .ro, .val 0⟩, ⟨24, 4, .ro, .val 0⟩, ⟨20, 4, .ro, .val 0⟩, ⟨16, 4, .ro, .val 0⟩, ⟨12, 4, .ro, .val 0⟩, ⟨11, 1, .ro, .val 0⟩, ⟨10, 1, .ro, .val 0⟩, ⟨9, 1, .ro, .val 0⟩, ⟨8, 1, .ro, .val 0⟩, ⟨5, 3, .ro, .val 7⟩, ⟨0, 5, .ro, .val 0⟩]⟩, -- LNW_STAT (R297)
  ⟨0x5008, 4, 1, false, [⟨0, 24, .ro, .val 0⟩]⟩, -- LNW_NBR_NID (R297)
  ⟨0x500C, 4, 1, false, [⟨0, 24, .ro, .cal⟩]⟩, -- LNW_NID_OWN (R297)
  ⟨0x5010, 4, 1, false, [⟨16, 16, .ro, .val 0⟩, ⟨0, 16, .ro, .val 0⟩]⟩, -- LNW_LAT (R297)
  ⟨0x5014, 4, 1, false, [⟨16, 4, .rws, .val 12⟩, ⟨8, 4, .rws, .val 6⟩, ⟨0, 4, .rws, .val 2⟩]⟩, -- LNW_TXEQ (R297)
  ⟨0x5018, 4, 1, false, [⟨31, 1, .rws, .val 1⟩, ⟨30, 1, .rws, .val 1⟩, ⟨29, 1, .rws, .val 1⟩, ⟨0, 8, .rws, .val 16⟩]⟩, -- LNW_ADAPT (R297)
  ⟨0x50A0, 4, 1, false, [⟨16, 16, .rc, .val 0⟩, ⟨0, 16, .rc, .val 0⟩]⟩, -- LNW_LOSS_CNT (R297)
  ⟨0x50A4, 4, 1, false, [⟨0, 32, .rc, .val 0⟩]⟩, -- LNW_NBR_CNT (R297)
  ⟨0x50A8, 4, 1, false, [⟨0, 32, .rc, .val 0⟩]⟩, -- LNW_DESKEW_ERR (R297)
  ⟨0x50AC, 4, 1, false, [⟨0, 32, .rc, .val 0⟩]⟩, -- LNW_TRAIN_CNT (R297)
  ⟨0x50B0, 4, 1, false, [⟨4, 1, .ro, .val 0⟩, ⟨0, 2, .ro, .val 0⟩]⟩, -- LNW_TEST (R297)
  ⟨0x5020, 32, 4, false, [⟨28, 4, .ro, .cal⟩, ⟨21, 7, .ro, .cal⟩, ⟨15, 6, .ro, .cal⟩, ⟨10, 5, .ro, .cal⟩, ⟨5, 5, .ro, .cal⟩, ⟨0, 5, .ro, .cal⟩]⟩, -- LNW_EQ (R297)
  ⟨0x5024, 32, 4, false, [⟨0, 32, .ro, .cal⟩]⟩, -- LNW_LKG (R297)
  ⟨0x5028, 32, 4, false, [⟨24, 8, .ro, .val 0⟩, ⟨16, 8, .ro, .val 0⟩, ⟨8, 8, .ro, .val 0⟩]⟩, -- LNW_EYE (R297)
  ⟨0x502C, 32, 4, false, [⟨0, 11, .ro, .val 0⟩]⟩, -- LNW_SKEW (R297)
  ⟨0x5030, 32, 4, false, [⟨0, 32, .rc, .val 0⟩]⟩, -- LNW_SHERR (R297)
  ⟨0x5034, 32, 4, false, [⟨16, 16, .rc, .val 0⟩, ⟨0, 16, .rc, .val 0⟩]⟩, -- LNW_AMERR (R297)
  ⟨0x5038, 32, 4, false, [⟨16, 16, .rc, .val 0⟩, ⟨0, 16, .rc, .val 0⟩]⟩, -- LNW_CNT (R297)
  ⟨0x503C, 32, 4, false, [⟨0, 32, .rc, .val 0⟩]⟩] -- LNW_PRBS (R297)

/-- Block RNG of R425. -/
def regsRng : List RegRow := [
  ⟨0x6000, 4, 1, false, [⟨31, 1, .rws, .val 1⟩, ⟨4, 5, .rws, .val 0⟩, ⟨0, 1, .rws, .val 0⟩]⟩, -- RNG_CFG (R322)
  ⟨0x6004, 4, 1, false, [⟨16, 10, .rws, .val 253⟩, ⟨0, 10, .rws, .val 61⟩]⟩, -- RNG_SEG (R322)
  ⟨0x6008, 4, 1, false, [⟨0, 16, .rws, .val 64⟩]⟩, -- RNG_HOLD (R322)
  ⟨0x600C, 4, 1, false, [⟨0, 24, .rws, .val 312500⟩]⟩, -- RNG_CRED_TMO (R322)
  ⟨0x6010, 4, 1, false, [⟨0, 16, .rws, .val 1024⟩]⟩, -- RNG_UNWRAP (R322)
  ⟨0x6014, 4, 1, false, [⟨3, 1, .ro, .val 0⟩, ⟨2, 1, .ro, .val 1⟩, ⟨1, 1, .ro, .val 0⟩, ⟨0, 1, .ro, .val 0⟩]⟩, -- RNG_STAT (R322)
  ⟨0x6020, 4, 4, false, [⟨0, 32, .rc, .val 0⟩]⟩, -- RNG_REFUSE (R322)
  ⟨0x6030, 4, 1, false, [⟨0, 32, .rc, .val 0⟩]⟩, -- RNG_DROP (R322)
  ⟨0x6034, 4, 1, false, [⟨0, 32, .rc, .val 0⟩]⟩, -- RNG_STRAY (R322)
  ⟨0x6038, 4, 1, false, [⟨0, 32, .rc, .val 0⟩]⟩, -- RNG_BADPKT (R322)
  ⟨0x603C, 4, 1, false, [⟨0, 32, .rc, .val 0⟩]⟩, -- RNG_DUP (R322)
  ⟨0x6040, 4, 1, false, [⟨0, 32, .rc, .val 0⟩]⟩, -- RNG_CRED_CNT (R322)
  ⟨0x6044, 4, 1, false, [⟨0, 32, .rc, .val 0⟩]⟩, -- RNG_CRED_CLIP (R322)
  ⟨0x6048, 4, 1, false, [⟨0, 32, .ro, .val 0⟩]⟩, -- RNG_PSEQ (R322)
  ⟨0x6100, 128, 2, false, [⟨16, 16, .rws, .val 32⟩, ⟨0, 16, .rws, .val 0⟩]⟩, -- RN_ALLOW (R323)
  ⟨0x6104, 128, 2, false, [⟨0, 16, .rws, .val 0⟩]⟩, -- RN_SHARE (R323)
  ⟨0x6108, 128, 2, false, [⟨16, 16, .ro, .val 0⟩, ⟨0, 16, .ro, .val 0⟩]⟩, -- RN_GRANT (R323)
  ⟨0x610C, 128, 2, false, [⟨16, 16, .ro, .val 0⟩, ⟨0, 16, .ro, .val 0⟩]⟩, -- RN_TOK01 (R323)
  ⟨0x6110, 128, 2, false, [⟨16, 16, .ro, .val 0⟩, ⟨0, 16, .ro, .val 0⟩]⟩, -- RN_TOK23 (R323)
  ⟨0x6114, 128, 2, false, [⟨0, 16, .ro, .val 0⟩]⟩, -- RN_FWD (R323)
  ⟨0x6118, 128, 2, false, [⟨0, 32, .rc, .val 0⟩]⟩, -- RN_TXPKT (R323)
  ⟨0x611C, 128, 2, false, [⟨0, 32, .rc, .val 0⟩]⟩, -- RN_RXPKT (R323)
  ⟨0x6120, 128, 2, false, [⟨0, 32, .rc, .val 0⟩]⟩, -- RN_FWDPKT (R323)
  ⟨0x6124, 128, 2, false, [⟨0, 32, .rc, .val 0⟩]⟩, -- RN_TXBLK (R323)
  ⟨0x6128, 128, 2, false, [⟨0, 32, .rc, .val 0⟩]⟩, -- RN_CRC_ERR (R323)
  ⟨0x612C, 128, 2, false, [⟨0, 32, .rc, .val 0⟩]⟩, -- RN_FRAMING (R323)
  ⟨0x6130, 128, 2, false, [⟨0, 32, .rc, .val 0⟩]⟩, -- RN_LOST (R323)
  ⟨0x6134, 128, 2, false, [⟨0, 32, .rc, .val 0⟩]⟩, -- RN_FWD_OVF (R323)
  ⟨0x6138, 128, 2, false, [⟨0, 32, .rc, .val 0⟩]⟩, -- RN_WRAP_CNT (R323)
  ⟨0x613C, 128, 2, false, [⟨0, 13, .rc, .val 0⟩]⟩] -- RN_BUF_HWM (R323)

/-- Block PAIR of R425. -/
def regsPair : List RegRow := [
  ⟨0x7000, 4, 1, true, [⟨31, 1, .rws, .val 0⟩, ⟨30, 1, .rws, .val 0⟩, ⟨16, 7, .rws, .val 64⟩, ⟨0, 5, .rws, .val 0⟩]⟩, -- PAIR_CFG (R410)
  ⟨0x7004, 4, 1, true, [⟨30, 2, .ro, .val 0⟩, ⟨29, 1, .ro, .val 0⟩, ⟨28, 1, .ro, .val 0⟩, ⟨27, 1, .ro, .val 0⟩, ⟨26, 1, .ro, .val 0⟩, ⟨25, 1, .ro, .val 0⟩, ⟨16, 6, .ro, .val 0⟩, ⟨0, 16, .ro, .val 0⟩]⟩, -- PAIR_STAT (R410)
  ⟨0x7008, 4, 1, true, [⟨30, 2, .ro, .val 0⟩, ⟨16, 8, .ro, .val 255⟩, ⟨0, 16, .ro, .val 0⟩]⟩, -- PAIR_PARTNER (R410)
  ⟨0x700C, 4, 1, true, [⟨0, 9, .ro, .val 0⟩]⟩, -- PAIR_TBL_LEVEL (R410)
  ⟨0x7010, 4, 1, true, [⟨0, 32, .rc, .val 0⟩]⟩, -- PAIR_TAKEOVER_CNT (R410)
  ⟨0x7014, 4, 1, true, [⟨0, 32, .rc, .val 0⟩]⟩, -- PAIR_SPLIT_CNT (R410)
  ⟨0x7018, 4, 1, true, [⟨0, 32, .rc, .val 0⟩]⟩, -- PAIR_HB_MISS (R410)
  ⟨0x701C, 4, 1, true, [⟨0, 32, .rc, .val 0⟩]⟩, -- PAIR_HB_DROP (R410)
  ⟨0x7020, 4, 1, true, [⟨0, 32, .rc, .val 0⟩]⟩, -- PAIR_BAD_HB (R410)
  ⟨0x7024, 4, 1, true, [⟨0, 32, .rc, .val 0⟩]⟩, -- PAIR_MIRROR_CNT (R410)
  ⟨0x7028, 4, 1, true, [⟨0, 32, .rc, .val 0⟩]⟩, -- PAIR_ACT_DROP (R410)
  ⟨0x702C, 4, 1, true, [⟨0, 32, .rc, .val 0⟩]⟩, -- PAIR_TBL_FULL (R410)
  ⟨0x7400, 8, 256, true, [⟨16, 16, .ro, .val 0⟩, ⟨0, 16, .ro, .val 0⟩]⟩, -- PAIR_TBL_LO (R410)
  ⟨0x7404, 8, 256, true, [⟨31, 1, .ro, .val 0⟩, ⟨0, 5, .ro, .val 0⟩]⟩] -- PAIR_TBL_HI (R410)

/-- Block MIN of R425. -/
def regsMin : List RegRow := [
  ⟨0x8000, 4, 1, false, [⟨31, 1, .rws, .val 1⟩, ⟨30, 1, .rw, .val 0⟩, ⟨29, 1, .rws, .val 1⟩]⟩, -- MIN_CTL (R396)
  ⟨0x8004, 4, 1, false, [⟨31, 1, .ro, .val 0⟩, ⟨30, 1, .ro, .val 0⟩, ⟨0, 4, .ro, .val 0⟩]⟩, -- MIN_STAT (R396)
  ⟨0x8008, 4, 1, false, [⟨0, 16, .rws, .val 2000⟩]⟩, -- MIN_SCRUB (R396)
  ⟨0x800C, 4, 1, false, [⟨0, 32, .rc, .val 0⟩]⟩, -- MIN_PASS_CNT (R396)
  ⟨0x8010, 4, 1, false, [⟨0, 32, .ro, .val 0⟩]⟩, -- MIN_PASS_FRAMES (R396)
  ⟨0x8014, 4, 1, false, [⟨0, 32, .rc, .val 0⟩]⟩, -- MIN_CORR_CNT (R396)
  ⟨0x8018, 4, 1, false, [⟨0, 32, .rc, .val 0⟩]⟩, -- MIN_UNC_CNT (R396)
  ⟨0x801C, 4, 1, false, [⟨0, 32, .rc, .val 0⟩]⟩, -- MIN_POISON_READ (R396)
  ⟨0x8020, 4, 1, false, [⟨0, 32, .rc, .val 0⟩]⟩, -- MIN_LOG_LOST (R396)
  ⟨0x8024, 4, 1, false, [⟨0, 32, .rc, .val 0⟩]⟩, -- MIN_EGRESS_POISON (R396)
  ⟨0x8028, 4, 1, false, [⟨0, 32, .rc, .val 0⟩]⟩, -- MIN_HIT_POISON (R396)
  ⟨0x802C, 4, 1, false, [⟨0, 32, .rc, .val 0⟩]⟩, -- MIN_DRIFT_CNT (R396)
  ⟨0x8030, 4, 1, false, [⟨0, 32, .rc, .val 0⟩]⟩, -- MIN_TMR_CNT (R396)
  ⟨0x8034, 4, 1, false, [⟨0, 9, .w1c, .val 0⟩]⟩, -- MIN_TMR_STAT (R396)
  ⟨0x8040, 4, 1, false, [⟨0, 32, .rc, .val 0⟩]⟩, -- MIN_LOG_LO (R396)
  ⟨0x8044, 4, 1, false, [⟨0, 32, .rc, .val 0⟩]⟩, -- MIN_LOG_HI (R396)
  ⟨0x8048, 4, 1, false, [⟨0, 5, .ro, .val 0⟩]⟩, -- MIN_LOG_LEVEL (R396)
  ⟨0x8100, 8, 12, false, [⟨0, 32, .rc, .val 0⟩]⟩, -- MIN_M_CORR (R396)
  ⟨0x8104, 8, 12, false, [⟨0, 32, .rc, .val 0⟩]⟩, -- MIN_M_UNC (R396)
  ⟨0x8200, 4, 12, false, [⟨0, 24, .ro, .val 0⟩]⟩] -- MIN_M_POISONED (R396)

/-- Block STO of R425. -/
def regsSto : List RegRow := [
  ⟨0x9000, 4, 1, false, [⟨31, 1, .rws, .val 0⟩, ⟨0, 2, .rws, .val 0⟩]⟩, -- STO_CTL (R353)
  ⟨0x9004, 4, 1, false, [⟨31, 1, .ro, .val 0⟩, ⟨30, 1, .ro, .val 0⟩, ⟨0, 18, .ro, .val 0⟩]⟩, -- STO_STAT (R353)
  ⟨0x9008, 4, 1, false, [⟨0, 18, .rw, .val 1⟩]⟩, -- STO_NEXT (R353)
  ⟨0x900C, 4, 1, false, [⟨16, 8, .rws, .val 4⟩, ⟨0, 16, .rws, .val 64⟩]⟩, -- STO_ACK_TMO (R353)
  ⟨0x9010, 4, 1, false, [⟨0, 32, .ro, .val 0⟩]⟩, -- STO_CSEQ (R353)
  ⟨0x9014, 4, 1, false, [⟨0, 16, .ro, .val 0⟩]⟩, -- STO_OUTST (R353)
  ⟨0x9018, 4, 1, false, [⟨0, 19, .ro, .val 262143⟩]⟩, -- STO_FREE (R353)
  ⟨0x901C, 4, 1, false, [⟨0, 19, .ro, .val 0⟩]⟩, -- STO_LOCKED (R353)
  ⟨0x9020, 4, 1, false, [⟨0, 32, .rc, .val 0⟩]⟩, -- STO_REFUSE (R353)
  ⟨0x9024, 4, 1, false, [⟨0, 32, .rc, .val 0⟩]⟩, -- STO_RESEND (R353)
  ⟨0x9028, 4, 1, false, [⟨0, 32, .rc, .val 0⟩]⟩, -- STO_LOST (R353)
  ⟨0x902C, 4, 1, false, [⟨0, 32, .rc, .val 0⟩]⟩, -- STO_REUSE (R353)
  ⟨0x9030, 4, 1, false, [⟨0, 32, .rc, .val 0⟩]⟩, -- STO_ACK_BAD (R353)
  ⟨0x9034, 4, 1, false, [⟨0, 32, .rc, .val 0⟩]⟩, -- STO_POISON (R353)
  ⟨0x9038, 4, 1, false, [⟨0, 32, .rc, .val 0⟩]⟩, -- STO_WRITTEN (R353)
  ⟨0x9080, 4, 1, false, [⟨0, 10, .rw, .val 0⟩]⟩, -- STO_TBL_PAGE (R353)
  ⟨0x9800, 4, 512, false, [⟨0, 32, .rw, .val 0⟩]⟩] -- STO_TBL_WIN (R353)

/-- Block PIX of R425. -/
def regsPix : List RegRow := [
  ⟨0x10000, 4, 16384, true, [⟨31, 1, .rws, .val 0⟩, ⟨30, 1, .rws, .val 0⟩, ⟨24, 6, .rws, .val 32⟩, ⟨23, 1, .rws, .val 0⟩, ⟨22, 1, .rws, .val 0⟩, ⟨16, 6, .rws, .val 32⟩, ⟨15, 1, .rws, .val 0⟩, ⟨14, 1, .rws, .val 0⟩, ⟨8, 6, .rws, .val 32⟩, ⟨7, 1, .rws, .val 0⟩, ⟨6, 1, .rws, .val 0⟩, ⟨0, 6, .rws, .val 32⟩]⟩] -- PIX (R69)

/-- Block PRT of R425. -/
def regsPrt : List RegRow := [
  ⟨0x20000, 64, 1024, false, [⟨3, 1, .rws, .val 0⟩, ⟨2, 1, .rws, .val 1⟩, ⟨1, 1, .rws, .val 1⟩, ⟨0, 1, .rws, .val 1⟩]⟩, -- PRT_CTL (R70)
  ⟨0x20004, 64, 1024, false, [⟨8, 1, .ro, .val 0⟩, ⟨7, 1, .ro, .val 0⟩, ⟨6, 1, .ro, .val 0⟩, ⟨5, 1, .ro, .val 0⟩, ⟨4, 1, .ro, .val 0⟩, ⟨0, 4, .ro, .val 0⟩]⟩, -- PRT_STAT (R70)
  ⟨0x20008, 64, 1024, false, [⟨0, 32, .rc, .val 0⟩]⟩, -- PRT_HITS (R70)
  ⟨0x2000C, 64, 1024, false, [⟨16, 16, .rc, .val 0⟩, ⟨0, 16, .rc, .val 0⟩]⟩, -- PRT_LOST (R70)
  ⟨0x20010, 64, 1024, false, [⟨16, 16, .rc, .val 0⟩, ⟨0, 16, .rc, .val 0⟩]⟩, -- PRT_FLAGCNT (R70)
  ⟨0x20014, 64, 1024, false, [⟨0, 4, .rc, .val 0⟩]⟩, -- PRT_FIFO_HWM (R70)
  ⟨0x20018, 64, 1024, false, [⟨8, 8, .ro, .val 0⟩, ⟨0, 8, .ro, .val 0⟩]⟩, -- PRT_DLL (R70)
  ⟨0x2001C, 64, 1024, false, [⟨0, 32, .rc, .val 0⟩]⟩, -- PRT_DLL_UNLOCK (R70)
  ⟨0x20020, 64, 1024, true, [⟨0, 13, .rws, .cal⟩]⟩, -- PRT_GAIN (R228)
  ⟨0x20024, 64, 1024, false, [⟨24, 8, .ro, .val 0⟩, ⟨16, 8, .ro, .val 0⟩, ⟨8, 8, .ro, .val 0⟩, ⟨0, 8, .ro, .val 0⟩]⟩, -- PRT_EQ_Q (R228)
  ⟨0x20028, 64, 1024, false, [⟨24, 8, .ro, .val 255⟩, ⟨16, 8, .ro, .val 255⟩, ⟨8, 8, .ro, .val 255⟩, ⟨0, 8, .ro, .val 255⟩]⟩, -- PRT_TDC_Q (R228)
  ⟨0x2002C, 64, 1024, false, [⟨16, 16, .ro, .val 0⟩, ⟨0, 16, .ro, .val 0⟩]⟩, -- PRT_ECAL_Q (R228)
  ⟨0x20030, 64, 1024, false, [⟨16, 16, .ro, .val 0⟩, ⟨0, 8, .ro, .val 0⟩]⟩, -- PRT_TP_Q (R228)
  ⟨0x20034, 64, 1024, false, [⟨8, 8, .ro, .val 0⟩, ⟨0, 8, .ro, .val 0⟩]⟩] -- PRT_PTO_Q (R228)

/-- Block HIT of R425. -/
def regsHit0 : List RegRow := [
  ⟨0x30000, 4, 1, false, [⟨2, 1, .rws, .val 1⟩, ⟨1, 1, .rws, .val 0⟩, ⟨0, 1, .rws, .val 0⟩]⟩, -- HIT_FE_CTL (R71)
  ⟨0x30004, 4, 1, false, [⟨0, 10, .rws, .val 40⟩]⟩, -- HIT_FE_THR (R71)
  ⟨0x30008, 4, 1, false, [⟨4, 4, .rws, .val 8⟩, ⟨0, 4, .rws, .val 8⟩]⟩, -- HIT_FE_BIAS (R71)
  ⟨0x3000C, 4, 1, false, [⟨0, 8, .rws, .val 8⟩]⟩, -- HIT_FE_SETTLE (R71)
  ⟨0x30010, 4, 1, false, [⟨16, 16, .rws, .val 0⟩, ⟨12, 1, .rws, .val 0⟩, ⟨0, 12, .rws, .val 0⟩]⟩, -- HIT_FE_TP (R71)
  ⟨0x30014, 4, 1, false, [⟨16, 16, .rws, .val 0⟩, ⟨0, 12, .rws, .val 0⟩]⟩, -- HIT_FE_TP_SCHED (R71)
  ⟨0x30018, 4, 1, false, [⟨16, 11, .ro, .val 0⟩, ⟨2, 1, .ro, .val 0⟩, ⟨1, 1, .ro, .val 0⟩, ⟨0, 1, .ro, .val 0⟩]⟩, -- HIT_FE_STAT (R71)
  ⟨0x3001C, 4, 1, false, [⟨0, 8, .rws, .val 16⟩]⟩, -- HIT_FE_STUCK (R71)
  ⟨0x30020, 4, 1, false, [⟨16, 1, .ro, .val 0⟩, ⟨0, 16, .ro, .val 0⟩]⟩, -- HIT_FE_STUCK_ADDR (R71)
  ⟨0x30024, 4, 1, false, [⟨0, 32, .rc, .val 0⟩]⟩, -- HIT_FE_STUCK_CNT (R71)
  ⟨0x30028, 4, 1, false, [⟨0, 32, .rc, .val 0⟩]⟩, -- HIT_FE_TP_CNT (R71)
  ⟨0x30040, 4, 1, false, [⟨0, 2, .rws, .val 0⟩]⟩, -- HIT_FOLLY_CTL (R71)
  ⟨0x30044, 4, 1, false, [⟨0, 16, .rws, .val 4096⟩]⟩, -- HIT_FOLLY_SPACING (R71)
  ⟨0x30048, 4, 1, false, [⟨6, 9, .rws, .val 32⟩, ⟨0, 6, .rws, .val 0⟩]⟩, -- HIT_FOLLY_HIT (R71)
  ⟨0x3004C, 4, 1, false, [⟨0, 32, .rws, .val 1⟩]⟩, -- HIT_FOLLY_SEED (R71)
  ⟨0x30050, 4, 1, false, [⟨0, 32, .rc, .val 0⟩]⟩, -- HIT_FOLLY_COUNT (R71)
  ⟨0x30054, 4, 1, false, [⟨0, 32, .rc, .val 0⟩]⟩, -- HIT_FOLLY_DROP (R71)
  ⟨0x30100, 4, 1, false, [⟨2, 1, .rws, .val 1⟩, ⟨1, 1, .rws, .val 0⟩, ⟨0, 1, .rws, .val 1⟩]⟩, -- HIT_FB_CTL (R99)
  ⟨0x30104, 4, 1, false, [⟨0, 12, .rws, .val 1024⟩]⟩, -- HIT_REORDER (R99)
  ⟨0x30108, 4, 1, false, [⟨0, 20, .rws, .val 0⟩]⟩, -- HIT_BUDGET_REC (R99)
  ⟨0x30110, 4, 1, false, [⟨28, 3, .rws, .val 7⟩, ⟨24, 3, .rws, .val 0⟩, ⟨20, 3, .rws, .val 7⟩, ⟨16, 3, .rws, .val 0⟩, ⟨12, 3, .rws, .val 7⟩, ⟨8, 3, .rws, .val 0⟩, ⟨4, 3, .rws, .val 7⟩, ⟨0, 3, .rws, .val 0⟩]⟩, -- HIT_RR_CTL (R99)
  ⟨0x30114, 4, 1, false, [⟨0, 8, .rws, .val 192⟩]⟩, -- HIT_RR_WM (R99)
  ⟨0x30118, 4, 1, false, [⟨16, 4, .ro, .val 0⟩, ⟨0, 12, .ro, .val 0⟩]⟩, -- HIT_RR_STAT (R99)
  ⟨0x3011C, 4, 1, false, [⟨16, 16, .rc, .val 0⟩, ⟨0, 16, .rc, .val 0⟩]⟩, -- HIT_RR_STEPS (R99)
  ⟨0x30120, 4, 1, false, [⟨0, 32, .rc, .val 0⟩]⟩, -- HIT_ACCEPT_CNT (R99)
  ⟨0x30124, 4, 1, false, [⟨0, 32, .rc, .val 0⟩]⟩, -- HIT_PRESCALE_CNT (R99)
  ⟨0x30128, 4, 1, false, [⟨0, 32, .rc, .val 0⟩]⟩, -- HIT_LATE_CNT (R99)
  ⟨0x3012C, 4, 1, false, [⟨0, 32, .rc, .val 0⟩]⟩, -- HIT_FUTURE_CNT (R99)
  ⟨0x30130, 4, 1, false, [⟨0, 32, .rc, .val 0⟩]⟩, -- HIT_ODROP_CNT (R99)
  ⟨0x30134, 4, 1, false, [⟨0, 32, .rc, .val 0⟩]⟩, -- HIT_OVF_CNT (R99)
  ⟨0x30138, 4, 1, false, [⟨0, 32, .rc, .val 0⟩]⟩, -- HIT_FORCED_REL (R99)
  ⟨0x3013C, 4, 1, false, [⟨0, 32, .rc, .val 0⟩]⟩, -- HIT_DISCARD_CNT (R99)
  ⟨0x30140, 4, 1, false, [⟨0, 16, .ro, .val 0⟩]⟩, -- HIT_HHIST_SPAN (R99)
  ⟨0x30180, 4, 1, false, [⟨16, 11, .rws, .val 64⟩, ⟨0, 10, .rws, .val 0⟩]⟩, -- HIT_STORE_R0 (R99)
  ⟨0x30184, 4, 1, false, [⟨16, 11, .rws, .val 256⟩, ⟨0, 10, .rws, .val 64⟩]⟩, -- HIT_STORE_R1 (R99)
  ⟨0x30188, 4, 1, false, [⟨16, 11, .rws, .val 64⟩, ⟨0, 10, .rws, .val 320⟩]⟩, -- HIT_STORE_R2 (R99)
  ⟨0x3018C, 4, 1, false, [⟨16, 11, .rws, .val 64⟩, ⟨0, 10, .rws, .val 384⟩]⟩, -- HIT_STORE_R3 (R99)
  ⟨0x30190, 4, 1, false, [⟨16, 11, .rws, .val 64⟩, ⟨0, 10, .rws, .val 448⟩]⟩, -- HIT_STORE_R4 (R99)
  ⟨0x30194, 4, 1, false, [⟨16, 11, .rws, .val 64⟩, ⟨0, 10, .rws, .val 512⟩]⟩, -- HIT_STORE_R5 (R99)
  ⟨0x30198, 4, 1, false, [⟨16, 11, .rws, .val 16⟩, ⟨0, 10, .rws, .val 576⟩]⟩] -- HIT_STORE_R6 (R99)

/-- Block HIT of R425. -/
def regsHit1 : List RegRow := [
  ⟨0x3019C, 4, 1, false, [⟨16, 11, .rws, .val 256⟩, ⟨0, 10, .rws, .val 592⟩]⟩, -- HIT_STORE_R7 (R99)
  ⟨0x301A0, 4, 1, false, [⟨16, 11, .rws, .val 96⟩, ⟨0, 10, .rws, .val 848⟩]⟩, -- HIT_STORE_R8 (R99)
  ⟨0x301A4, 4, 1, false, [⟨16, 11, .rws, .val 64⟩, ⟨0, 10, .rws, .val 944⟩]⟩, -- HIT_STORE_R9 (R99)
  ⟨0x301C0, 4, 10, false, [⟨8, 8, .rc, .val 0⟩, ⟨0, 8, .ro, .val 0⟩]⟩, -- HIT_STORE_FILL (R99)
  ⟨0x30200, 4, 32, true, [⟨16, 16, .rws, .cal⟩, ⟨0, 16, .rws, .cal⟩]⟩, -- HIT_TW (R99)
  ⟨0x30280, 4, 1, true, [⟨0, 16, .rws, .cal⟩]⟩, -- HIT_TW_LAST (R99)
  ⟨0x30300, 4, 32, true, [⟨16, 12, .rws, .cal⟩, ⟨0, 12, .rws, .cal⟩]⟩, -- HIT_EN (R99)
  ⟨0x30380, 4, 1, true, [⟨0, 12, .rws, .cal⟩]⟩, -- HIT_EN_LAST (R99)
  ⟨0x30400, 8, 32, false, [⟨0, 32, .rc, .val 0⟩]⟩, -- HIT_HEDGE_RECS (R99)
  ⟨0x30404, 8, 32, false, [⟨16, 16, .rc, .val 0⟩, ⟨0, 9, .rc, .val 0⟩]⟩] -- HIT_HEDGE_STAT (R99)

/-- Block HIT of R425. -/
def regsHit : List RegRow := regsHit0 ++ regsHit1

/-- Block TRG of R425. -/
def regsTrg : List RegRow := [
  ⟨0x38000, 4, 1, false, [⟨0, 1, .rws, .val 0⟩]⟩, -- TRG_CTL (R129)
  ⟨0x38004, 4, 1, false, [⟨24, 3, .ro, .val 0⟩, ⟨16, 8, .ro, .val 0⟩, ⟨8, 8, .ro, .val 0⟩, ⟨0, 5, .ro, .val 0⟩]⟩, -- TRG_STAT (R129)
  ⟨0x38008, 4, 1, false, [⟨0, 32, .ro, .val 0⟩]⟩, -- TRG_SEQ (R129)
  ⟨0x3800C, 4, 2, true, [⟨0, 24, .rws, .val 0⟩]⟩, -- TRG_FIRE_COMP (R129)
  ⟨0x38014, 4, 1, false, [⟨0, 16, .rws, .val 256⟩]⟩, -- TRG_SPILL (R129)
  ⟨0x38018, 4, 1, false, [⟨0, 32, .ro, .val 0⟩]⟩, -- TRG_CFG_ERR (R129)
  ⟨0x38020, 4, 1, false, [⟨0, 32, .rc, .val 0⟩]⟩, -- TRG_REC_CNT (R129)
  ⟨0x38024, 4, 1, false, [⟨0, 32, .rc, .val 0⟩]⟩, -- TRG_FORCED_CNT (R129)
  ⟨0x38028, 4, 1, false, [⟨0, 32, .rc, .val 0⟩]⟩, -- TRG_TRUNC_CNT (R129)
  ⟨0x3802C, 4, 1, false, [⟨0, 32, .rc, .val 0⟩]⟩, -- TRG_SPILL_CNT (R129)
  ⟨0x38030, 4, 1, false, [⟨0, 32, .rc, .val 0⟩]⟩, -- TRG_PRECLIP_CNT (R129)
  ⟨0x38034, 4, 1, false, [⟨0, 32, .rc, .val 0⟩]⟩, -- TRG_NOROOM_CNT (R129)
  ⟨0x38038, 4, 1, false, [⟨0, 32, .rc, .val 0⟩]⟩, -- TRG_FIRE_DROP (R129)
  ⟨0x3803C, 4, 1, false, [⟨0, 32, .rc, .val 0⟩]⟩, -- TRG_FIRE_DUP (R129)
  ⟨0x38040, 4, 1, false, [⟨0, 32, .rc, .val 0⟩]⟩, -- TRG_LATE_EV (R129)
  ⟨0x38044, 4, 1, false, [⟨0, 32, .rc, .val 0⟩]⟩, -- TRG_FIRE_CNT (R129)
  ⟨0x38100, 16, 32, false, [⟨28, 4, .rws, .val 0⟩, ⟨24, 1, .rws, .val 0⟩, ⟨0, 16, .rws, .val 0⟩]⟩, -- TRG_CCFG (R130)
  ⟨0x38104, 16, 32, false, [⟨0, 32, .rws, .val 0⟩]⟩, -- TRG_CP1 (R130)
  ⟨0x38108, 16, 32, false, [⟨0, 32, .rws, .val 0⟩]⟩, -- TRG_CP2 (R130)
  ⟨0x3810C, 16, 32, false, [⟨16, 12, .rws, .val 0⟩, ⟨0, 12, .rws, .val 0⟩]⟩, -- TRG_CP3 (R130)
  ⟨0x38300, 4, 32, false, [⟨0, 32, .rc, .val 0⟩]⟩, -- TRG_MET (R130)
  ⟨0x38400, 64, 8, false, [⟨31, 1, .rws, .val 0⟩, ⟨30, 1, .rws, .val 0⟩, ⟨29, 1, .rws, .val 0⟩, ⟨28, 1, .rws, .val 0⟩, ⟨27, 1, .rws, .val 0⟩, ⟨26, 1, .rws, .val 1⟩, ⟨25, 1, .rws, .val 0⟩, ⟨24, 1, .rws, .val 0⟩, ⟨20, 4, .rws, .val 0⟩, ⟨0, 5, .rws, .val 0⟩]⟩, -- TRG_OUT_CTL (R131)
  ⟨0x38404, 64, 8, false, [⟨0, 24, .rws, .val 0⟩]⟩, -- TRG_OUT_TERM0 (R131)
  ⟨0x38408, 64, 8, false, [⟨0, 24, .rws, .val 0⟩]⟩, -- TRG_OUT_TERM1 (R131)
  ⟨0x3840C, 64, 8, false, [⟨0, 24, .rws, .val 0⟩]⟩, -- TRG_OUT_TERM2 (R131)
  ⟨0x38410, 64, 8, false, [⟨0, 24, .rws, .val 0⟩]⟩, -- TRG_OUT_TERM3 (R131)
  ⟨0x38414, 64, 8, false, [⟨0, 18, .rws, .val 1⟩]⟩, -- TRG_OUT_AWIN (R131)
  ⟨0x38418, 64, 8, false, [⟨0, 32, .rws, .val 4096⟩]⟩, -- TRG_OUT_PRE (R131)
  ⟨0x3841C, 64, 8, false, [⟨0, 32, .rws, .val 4096⟩]⟩, -- TRG_OUT_POST (R131)
  ⟨0x38420, 64, 8, false, [⟨0, 24, .rws, .val 0⟩]⟩, -- TRG_OUT_AUTO (R131)
  ⟨0x38424, 64, 8, false, [⟨0, 16, .rws, .val 0⟩]⟩, -- TRG_OUT_LIMIT (R131)
  ⟨0x38428, 64, 8, false, [⟨16, 16, .ro, .val 0⟩, ⟨0, 8, .ro, .val 0⟩]⟩, -- TRG_OUT_ARM_STAT (R131)
  ⟨0x3842C, 64, 8, false, [⟨0, 32, .rc, .val 0⟩]⟩, -- TRG_OUT_REC_CNT (R131)
  ⟨0x38430, 64, 8, false, [⟨0, 32, .rc, .val 0⟩]⟩, -- TRG_OUT_RETRIG_CNT (R131)
  ⟨0x38434, 64, 8, false, [⟨0, 32, .ro, .val 0⟩]⟩] -- TRG_OUT_LAST_SEQ (R131)

/-- Block WAV of R425. -/
def regsWav : List RegRow := [
  ⟨0x40000, 4, 1, false, [⟨4, 4, .rws, .val 0⟩, ⟨0, 2, .rws, .val 0⟩]⟩, -- WAV_CTL (R152)
  ⟨0x40004, 4, 1, false, [⟨24, 4, .ro, .val 0⟩, ⟨20, 4, .ro, .val 0⟩, ⟨16, 4, .ro, .val 0⟩, ⟨0, 16, .ro, .val 0⟩]⟩, -- WAV_STAT (R152)
  ⟨0x40008, 4, 1, false, [⟨0, 8, .rws, .val 2⟩]⟩, -- WAV_SETTLE (R152)
  ⟨0x40010, 4, 1, false, [⟨16, 16, .rws, .val 0⟩, ⟨4, 4, .rws, .val 0⟩, ⟨0, 2, .rws, .val 0⟩]⟩, -- WAV_FOLLY_CTL (R152)
  ⟨0x40014, 4, 1, false, [⟨16, 16, .rws, .val 0⟩, ⟨0, 16, .rws, .val 0⟩]⟩, -- WAV_FOLLY_LVL (R152)
  ⟨0x40018, 4, 1, false, [⟨16, 16, .rws, .val 0⟩, ⟨0, 16, .rws, .val 0⟩]⟩, -- WAV_FOLLY_SHAPE (R152)
  ⟨0x40100, 32, 4, false, [⟨7, 1, .rws, .val 0⟩, ⟨6, 1, .rws, .val 0⟩, ⟨5, 1, .rws, .val 1⟩, ⟨4, 1, .rws, .val 0⟩]⟩, -- WAV_CH_CFG (R152)
  ⟨0x40104, 32, 4, false, [⟨0, 16, .rws, .val 0⟩]⟩, -- WAV_CH_DELAY (R152)
  ⟨0x40108, 32, 4, false, [⟨0, 32, .rc, .val 0⟩]⟩, -- WAV_CH_SAMP (R152)
  ⟨0x4010C, 32, 4, false, [⟨0, 32, .rc, .val 0⟩]⟩, -- WAV_CH_OVR (R152)
  ⟨0x40110, 32, 4, false, [⟨16, 16, .rc, .val 0⟩, ⟨0, 16, .rc, .val 0⟩]⟩, -- WAV_CH_DROP (R152)
  ⟨0x40114, 32, 4, false, [⟨0, 16, .ro, .val 0⟩]⟩] -- WAV_CH_SPAN (R152)

/-- Block XDC of R425. -/
def regsXdc : List RegRow := [
  ⟨0x48000, 4, 1, false, [⟨16, 16, .rws, .val 1000⟩, ⟨3, 1, .rws, .val 0⟩, ⟨2, 1, .rws, .val 1⟩, ⟨0, 2, .rws, .val 0⟩]⟩, -- XDC_SEQ_CTL (R179)
  ⟨0x48004, 4, 1, false, [⟨17, 6, .ro, .val 0⟩, ⟨16, 1, .ro, .val 0⟩, ⟨12, 4, .ro, .val 0⟩, ⟨0, 2, .ro, .val 0⟩]⟩, -- XDC_STAT (R179)
  ⟨0x48010, 4, 4, false, [⟨31, 1, .rws, .val 0⟩, ⟨25, 2, .rws, .val 0⟩, ⟨22, 3, .rws, .val 0⟩, ⟨0, 6, .rws, .val 0⟩]⟩, -- XDC_URG (R179)
  ⟨0x48020, 4, 1, false, [⟨0, 4, .wo, .val 0⟩]⟩, -- XDC_URG_REQ (R179)
  ⟨0x48024, 4, 1, false, [⟨0, 32, .ro, .cal⟩]⟩, -- XDC_VREF_INT (R179)
  ⟨0x48028, 4, 1, false, [⟨0, 32, .rws, .val 1073741824⟩]⟩, -- XDC_VREF_EXT (R179)
  ⟨0x4802C, 4, 1, false, [⟨0, 16, .rws, .val 0⟩]⟩, -- XDC_LIN_CTL (R179)
  ⟨0x48030, 4, 1, false, [⟨0, 32, .ro, .val 0⟩]⟩, -- XDC_CFG_ERR_LO (R179)
  ⟨0x48034, 4, 1, false, [⟨0, 32, .ro, .val 0⟩]⟩, -- XDC_CFG_ERR_HI (R179)
  ⟨0x48038, 4, 1, false, [⟨0, 32, .ro, .val 0⟩]⟩, -- XDC_OPEN_LO (R179)
  ⟨0x4803C, 4, 1, false, [⟨0, 32, .ro, .val 0⟩]⟩, -- XDC_OPEN_HI (R179)
  ⟨0x48040, 4, 1, false, [⟨0, 32, .rc, .val 0⟩]⟩, -- XDC_RESULT_CNT (R179)
  ⟨0x48044, 4, 1, false, [⟨0, 32, .rc, .val 0⟩]⟩, -- XDC_DISCARD_CNT (R179)
  ⟨0x48048, 4, 1, false, [⟨0, 32, .rc, .val 0⟩]⟩, -- XDC_OVR_CNT (R179)
  ⟨0x4804C, 4, 1, false, [⟨0, 32, .rc, .val 0⟩]⟩, -- XDC_OPEN_CNT (R179)
  ⟨0x48050, 4, 1, false, [⟨0, 32, .rc, .val 0⟩]⟩, -- XDC_URG_CNT (R179)
  ⟨0x48054, 4, 1, false, [⟨0, 32, .rc, .val 0⟩]⟩, -- XDC_URG_OVR (R179)
  ⟨0x48058, 4, 1, false, [⟨0, 32, .rc, .val 0⟩]⟩, -- XDC_PREEMPT_CNT (R179)
  ⟨0x4805C, 4, 1, false, [⟨0, 32, .rc, .val 0⟩]⟩, -- XDC_ABANDON_CNT (R179)
  ⟨0x48060, 4, 1, false, [⟨0, 32, .rc, .val 0⟩]⟩, -- XDC_SKIP_CNT (R179)
  ⟨0x48400, 16, 64, false, [⟨31, 1, .rws, .val 0⟩, ⟨30, 1, .rws, .val 0⟩, ⟨28, 2, .rws, .val 0⟩, ⟨26, 2, .rws, .val 0⟩, ⟨25, 1, .rws, .val 0⟩, ⟨24, 1, .rws, .val 0⟩, ⟨20, 4, .rws, .val 0⟩, ⟨16, 4, .rws, .val 0⟩, ⟨12, 4, .rws, .val 0⟩, ⟨8, 4, .rws, .val 0⟩, ⟨4, 4, .rws, .val 0⟩, ⟨0, 4, .rws, .val 0⟩]⟩, -- XDC_ROUTE (R180)
  ⟨0x48404, 16, 64, false, [⟨24, 4, .rws, .val 8⟩, ⟨20, 3, .rws, .val 0⟩, ⟨19, 1, .rws, .val 0⟩, ⟨18, 1, .rws, .val 0⟩, ⟨0, 16, .rws, .val 20⟩]⟩, -- XDC_CONV (R180)
  ⟨0x48408, 16, 64, false, [⟨16, 16, .rws, .val 1000⟩, ⟨8, 8, .rws, .val 0⟩, ⟨0, 8, .rws, .val 0⟩]⟩, -- XDC_EXC (R180)
  ⟨0x4840C, 16, 64, false, [⟨31, 1, .rws, .val 0⟩, ⟨26, 5, .rws, .val 0⟩, ⟨25, 1, .rws, .val 0⟩, ⟨19, 6, .rws, .val 0⟩, ⟨17, 2, .rws, .val 0⟩, ⟨16, 1, .rws, .val 1⟩]⟩, -- XDC_OUT (R180)
  ⟨0x48800, 8, 64, false, [⟨24, 8, .ro, .val 0⟩, ⟨0, 24, .ro, .val 0⟩]⟩, -- XDC_RES_LO (R180)
  ⟨0x48804, 8, 64, false, [⟨0, 32, .ro, .val 2143289344⟩]⟩] -- XDC_RES_HI (R180)

/-- Block LIN of R425. -/
def regsLin : List RegRow := [
  ⟨0x50000, 4, 1024, false, [⟨0, 32, .rws, .val 0⟩]⟩] -- LIN (R181)

/-- Block TIP of R425. -/
def regsTip : List RegRow := [
  ⟨0x60000, 4, 8, false, [⟨31, 1, .rws, .val 0⟩, ⟨30, 1, .rws, .val 0⟩, ⟨29, 1, .rws, .val 1⟩, ⟨0, 4, .rws, .val 0⟩]⟩, -- TIP_TI_CFG (R202)
  ⟨0x60020, 4, 8, false, [⟨0, 16, .rws, .val 0⟩]⟩, -- TIP_TI_DELAY (R202)
  ⟨0x60040, 4, 8, false, [⟨0, 32, .rc, .val 0⟩]⟩, -- TIP_TI_LOST (R202)
  ⟨0x60060, 4, 1, false, [⟨8, 4, .ro, .val 0⟩, ⟨0, 8, .ro, .val 0⟩]⟩, -- TIP_CFG_ERR (R202)
  ⟨0x60064, 4, 1, false, [⟨31, 1, .rws, .val 1⟩, ⟨30, 1, .rws, .val 1⟩, ⟨0, 4, .rws, .val 0⟩]⟩, -- TIP_FTO_CTL (R202)
  ⟨0x60100, 128, 4, false, [⟨31, 1, .rws, .val 0⟩, ⟨30, 1, .rws, .val 0⟩, ⟨29, 1, .rws, .val 0⟩, ⟨26, 2, .rws, .val 0⟩, ⟨12, 2, .rws, .val 0⟩, ⟨8, 3, .rws, .val 0⟩, ⟨4, 2, .rws, .val 0⟩, ⟨0, 3, .rws, .val 0⟩]⟩, -- TIP_CH_CTL (R202)
  ⟨0x60104, 128, 4, false, [⟨0, 25, .rws, .val 0⟩]⟩, -- TIP_CH_NSTAT (R202)
  ⟨0x60108, 128, 4, false, [⟨0, 24, .rws, .val 312500⟩]⟩, -- TIP_CH_TMO (R202)
  ⟨0x6010C, 128, 4, false, [⟨0, 24, .rws, .val 312500⟩]⟩, -- TIP_CH_GATE (R202)
  ⟨0x60110, 128, 4, false, [⟨0, 32, .ro, .val 0⟩]⟩, -- TIP_CH_LAST_LO (R202)
  ⟨0x60114, 128, 4, false, [⟨0, 32, .ro, .val 0⟩]⟩, -- TIP_CH_LAST_HI (R202)
  ⟨0x60118, 128, 4, false, [⟨0, 32, .ro, .val 0⟩]⟩, -- TIP_CH_MEAN_LO (R202)
  ⟨0x6011C, 128, 4, false, [⟨0, 32, .ro, .val 0⟩]⟩, -- TIP_CH_MEAN_HI (R202)
  ⟨0x60120, 128, 4, false, [⟨0, 32, .ro, .val 0⟩]⟩, -- TIP_CH_DEV (R202)
  ⟨0x60124, 128, 4, false, [⟨0, 32, .ro, .val 0⟩]⟩, -- TIP_CH_MIN_LO (R202)
  ⟨0x60128, 128, 4, false, [⟨0, 32, .ro, .val 0⟩]⟩, -- TIP_CH_MIN_HI (R202)
  ⟨0x6012C, 128, 4, false, [⟨0, 32, .ro, .val 0⟩]⟩, -- TIP_CH_MAX_LO (R202)
  ⟨0x60130, 128, 4, false, [⟨0, 32, .ro, .val 0⟩]⟩, -- TIP_CH_MAX_HI (R202)
  ⟨0x60134, 128, 4, false, [⟨0, 25, .ro, .val 0⟩]⟩, -- TIP_CH_STAT_N (R202)
  ⟨0x60138, 128, 4, false, [⟨0, 32, .rc, .val 0⟩]⟩, -- TIP_CH_RESULTS (R202)
  ⟨0x6013C, 128, 4, false, [⟨0, 32, .rc, .val 0⟩]⟩, -- TIP_CH_STOP_EARLY (R202)
  ⟨0x60140, 128, 4, false, [⟨0, 32, .rc, .val 0⟩]⟩, -- TIP_CH_SUB_RES (R202)
  ⟨0x60144, 128, 4, false, [⟨0, 32, .rc, .val 0⟩]⟩, -- TIP_CH_REARM (R202)
  ⟨0x60148, 128, 4, false, [⟨0, 32, .rc, .val 0⟩]⟩, -- TIP_CH_TIMEOUT (R202)
  ⟨0x6014C, 128, 4, false, [⟨0, 32, .rc, .val 0⟩]⟩, -- TIP_CH_STATS (R202)
  ⟨0x60400, 64, 8, false, [⟨31, 1, .rws, .val 0⟩, ⟨30, 1, .rws, .val 0⟩, ⟨29, 1, .rws, .val 0⟩, ⟨0, 24, .rws, .val 64⟩]⟩, -- TIP_PO_CTL (R202)
  ⟨0x60404, 64, 8, false, [⟨0, 32, .rws, .val 0⟩]⟩, -- TIP_PO_TIME0 (R202)
  ⟨0x60408, 64, 8, false, [⟨0, 32, .rws, .val 0⟩]⟩, -- TIP_PO_TIME1 (R202)
  ⟨0x6040C, 64, 8, false, [⟨0, 32, .rws, .val 0⟩]⟩, -- TIP_PO_TIME2 (R202)
  ⟨0x60410, 64, 8, false, [⟨0, 32, .rws, .val 0⟩]⟩, -- TIP_PO_TIME3 (R202)
  ⟨0x60414, 64, 8, false, [⟨0, 32, .rws, .val 0⟩]⟩, -- TIP_PO_PERIOD_LO (R202)
  ⟨0x60418, 64, 8, false, [⟨0, 12, .rws, .val 0⟩]⟩, -- TIP_PO_PERIOD_HI (R202)
  ⟨0x6041C, 64, 8, false, [⟨0, 32, .rws, .val 0⟩]⟩, -- TIP_PO_COUNT (R202)
  ⟨0x60420, 64, 8, false, [⟨0, 32, .rc, .val 0⟩]⟩, -- TIP_PO_FIRED (R202)
  ⟨0x60424, 64, 8, false, [⟨0, 32, .rc, .val 0⟩]⟩, -- TIP_PO_MISSED (R202)
  ⟨0x60428, 64, 8, false, [⟨0, 16, .rws, .val 0⟩]⟩] -- TIP_PO_DELAY (R202)

/-- Block CAL of R425. -/
def regsCal : List RegRow := [
  ⟨0x70000, 4, 1, false, [⟨31, 1, .rws, .val 1⟩, ⟨30, 1, .rws, .val 0⟩]⟩, -- CAL_CTL (R227)
  ⟨0x70004, 4, 1, false, [⟨16, 8, .ro, .val 0⟩, ⟨8, 8, .ro, .val 0⟩, ⟨0, 1, .ro, .val 0⟩]⟩, -- CAL_STAT (R227)
  ⟨0x70008, 4, 1, false, [⟨16, 16, .rws, .val 64⟩, ⟨0, 16, .rws, .val 16⟩]⟩, -- CAL_QUIET (R227)
  ⟨0x7000C, 4, 1, false, [⟨24, 8, .rws, .val 4⟩, ⟨16, 8, .rws, .val 1⟩, ⟨0, 16, .rws, .val 64⟩]⟩, -- CAL_RAMP (R227)
  ⟨0x70010, 4, 1, false, [⟨0, 7, .rw, .val 0⟩]⟩, -- CAL_TBL_PAGE (R227)
  ⟨0x70014, 4, 1, false, [⟨0, 32, .rc, .val 0⟩]⟩, -- CAL_TAKEN_CNT (R227)
  ⟨0x70018, 4, 1, false, [⟨0, 32, .rc, .val 0⟩]⟩, -- CAL_OVERRIDE_CNT (R227)
  ⟨0x7001C, 4, 1, false, [⟨0, 32, .rc, .val 0⟩]⟩, -- CAL_INTR_CNT (R227)
  ⟨0x70100, 16, 8, false, [⟨31, 1, .rws, .val 1⟩, ⟨0, 24, .rws, .val 0⟩]⟩, -- CAL_P_CTL (R227)
  ⟨0x70104, 16, 8, false, [⟨0, 24, .rws, .val 312500⟩]⟩, -- CAL_P_MAX (R227)
  ⟨0x70108, 16, 8, false, [⟨28, 4, .ro, .val 0⟩, ⟨27, 1, .ro, .val 0⟩, ⟨26, 1, .ro, .val 0⟩, ⟨25, 1, .ro, .val 0⟩, ⟨0, 16, .ro, .val 0⟩]⟩, -- CAL_P_STAT (R227)
  ⟨0x7010C, 16, 8, false, [⟨0, 32, .ro, .val 4294967295⟩]⟩, -- CAL_P_AGE (R227)
  ⟨0x70200, 4, 1, false, [⟨24, 8, .rws, .val 12⟩, ⟨16, 8, .rws, .val 32⟩, ⟨0, 16, .rws, .val 16⟩]⟩, -- CAL_THEQ_CFG (R227)
  ⟨0x70204, 4, 1, false, [⟨0, 24, .rws, .val 65536⟩]⟩, -- CAL_TDC_CFG (R227)
  ⟨0x70208, 4, 1, false, [⟨16, 16, .rws, .val 256⟩, ⟨0, 16, .rws, .val 3277⟩]⟩, -- CAL_TW_CFG (R227)
  ⟨0x7020C, 4, 1, false, [⟨16, 12, .rws, .val 3072⟩, ⟨0, 12, .rws, .val 1536⟩]⟩, -- CAL_TW_REF (R227)
  ⟨0x70210, 4, 1, false, [⟨16, 1, .rws, .val 1⟩, ⟨0, 12, .rws, .val 0⟩]⟩, -- CAL_ECAL_LINE (R227)
  ⟨0x70214, 4, 1, false, [⟨16, 12, .rws, .val 0⟩, ⟨0, 12, .rws, .val 0⟩]⟩, -- CAL_ECAL_WIN (R227)
  ⟨0x70218, 4, 1, false, [⟨0, 24, .rws, .val 4096⟩]⟩, -- CAL_ECAL_HITS (R227)
  ⟨0x7021C, 4, 1, false, [⟨16, 12, .rws, .val 1600⟩, ⟨8, 8, .rws, .val 16⟩, ⟨0, 1, .rws, .val 0⟩]⟩, -- CAL_PULSE_CFG (R227)
  ⟨0x70220, 4, 1, false, [⟨31, 1, .rws, .val 0⟩, ⟨16, 8, .rws, .val 64⟩, ⟨8, 8, .rws, .val 16⟩, ⟨0, 8, .rws, .val 32⟩]⟩, -- CAL_SLICE_CFG (R227)
  ⟨0x70224, 4, 1, false, [⟨0, 24, .rws, .val 65536⟩]⟩, -- CAL_TICD_CFG (R227)
  ⟨0x70228, 4, 1, false, [⟨8, 8, .ro, .val 0⟩, ⟨0, 8, .ro, .val 0⟩]⟩, -- CAL_TW_Q (R227)
  ⟨0x70300, 8, 8, true, [⟨20, 10, .rws, .cal⟩, ⟨10, 10, .rws, .cal⟩, ⟨0, 10, .rws, .cal⟩]⟩, -- CAL_SL_TRIM (R227)
  ⟨0x70304, 8, 8, false, [⟨31, 1, .ro, .val 0⟩, ⟨30, 1, .ro, .val 0⟩, ⟨0, 8, .ro, .val 0⟩]⟩, -- CAL_SL_Q (R227)
  ⟨0x70380, 4, 4, true, [⟨31, 1, .ro, .val 0⟩, ⟨0, 16, .rws, .cal⟩]⟩, -- CAL_WAV_AP (R227)
  ⟨0x71000, 4, 1024, false, [⟨0, 32, .rws, .cal⟩]⟩] -- CAL_TBL_WIN (R229)

/-- Block LOOP of R425. -/
def regsLoop0 : List RegRow := [
  ⟨0x80000, 4, 1, false, [⟨31, 1, .rws, .val 0⟩, ⟨1, 1, .rw, .val 0⟩, ⟨0, 1, .rw, .val 0⟩]⟩, -- LOOP_CTL (R250)
  ⟨0x80004, 4, 1, false, [⟨16, 16, .ro, .val 0⟩, ⟨0, 16, .ro, .val 0⟩]⟩, -- LOOP_SAFE_STAT (R250)
  ⟨0x80008, 4, 1, false, [⟨0, 16, .w1c, .val 0⟩]⟩, -- LOOP_SAFE_LATCH (R250)
  ⟨0x8000C, 4, 1, false, [⟨3, 1, .ro, .val 0⟩, ⟨2, 1, .ro, .val 0⟩, ⟨1, 1, .ro, .val 0⟩, ⟨0, 1, .ro, .val 0⟩]⟩, -- LOOP_PIN_STAT (R250)
  ⟨0x80010, 4, 1, false, [⟨0, 16, .ro, .val 0⟩]⟩, -- LOOP_ACT_SEQ (R250)
  ⟨0x80014, 4, 1, false, [⟨0, 16, .ro, .val 0⟩]⟩, -- LOOP_STOP_SEQ (R250)
  ⟨0x80018, 4, 1, false, [⟨0, 32, .rc, .val 0⟩]⟩, -- LOOP_ACT_CNT (R250)
  ⟨0x8001C, 4, 1, false, [⟨0, 32, .rc, .val 0⟩]⟩, -- LOOP_ACT_DROP (R250)
  ⟨0x80020, 4, 1, false, [⟨0, 32, .rc, .val 0⟩]⟩, -- LOOP_STOP_CNT (R250)
  ⟨0x80024, 4, 1, false, [⟨0, 32, .rc, .val 0⟩]⟩, -- LOOP_HOLD_CNT (R250)
  ⟨0x80028, 4, 1, false, [⟨0, 32, .rc, .val 0⟩]⟩, -- LOOP_ACK_REFUSE (R250)
  ⟨0x80030, 4, 4, false, [⟨0, 32, .ro, .val 0⟩]⟩, -- LOOP_MERR (R250)
  ⟨0x80040, 4, 1, false, [⟨0, 32, .ro, .val 0⟩]⟩, -- LOOP_LERR_LO (R250)
  ⟨0x80044, 4, 1, false, [⟨0, 32, .ro, .val 0⟩]⟩, -- LOOP_LERR_HI (R250)
  ⟨0x80048, 4, 1, false, [⟨0, 16, .ro, .val 0⟩]⟩, -- LOOP_SERR (R250)
  ⟨0x80050, 4, 4, false, [⟨0, 32, .ro, .val 0⟩]⟩, -- LOOP_MVALID (R250)
  ⟨0x80100, 16, 128, false, [⟨28, 4, .rws, .val 0⟩, ⟨23, 5, .rws, .val 0⟩, ⟨22, 1, .rws, .val 0⟩, ⟨21, 1, .rws, .val 0⟩, ⟨19, 2, .rws, .val 0⟩, ⟨16, 3, .rws, .val 0⟩]⟩, -- LOOP_M_CFG (R250)
  ⟨0x80104, 16, 128, false, [⟨24, 8, .rws, .val 0⟩, ⟨16, 8, .rws, .val 0⟩, ⟨8, 8, .rws, .val 0⟩, ⟨0, 8, .rws, .val 0⟩]⟩, -- LOOP_M_P1 (R250)
  ⟨0x80108, 16, 128, false, [⟨16, 12, .rws, .val 0⟩, ⟨12, 4, .rws, .val 0⟩, ⟨0, 12, .rws, .val 0⟩]⟩, -- LOOP_M_P2 (R250)
  ⟨0x8010C, 16, 128, false, [⟨24, 6, .rws, .val 0⟩, ⟨8, 7, .rws, .val 0⟩, ⟨0, 7, .rws, .val 0⟩]⟩, -- LOOP_M_P3 (R250)
  ⟨0x80900, 8, 128, false, [⟨0, 32, .ro, .val 0⟩]⟩, -- LOOP_M_FRAME (R250)
  ⟨0x80904, 8, 128, false, [⟨0, 32, .ro, .val 0⟩]⟩, -- LOOP_M_RUN (R250)
  ⟨0x81000, 64, 64, false, [⟨31, 1, .rws, .val 0⟩, ⟨30, 1, .rws, .val 0⟩, ⟨29, 1, .rws, .val 0⟩, ⟨28, 1, .rws, .val 0⟩, ⟨24, 4, .rws, .val 0⟩, ⟨23, 1, .rws, .val 0⟩, ⟨16, 7, .rws, .val 0⟩, ⟨0, 7, .rws, .val 0⟩]⟩, -- LOOP_L_CFG (R250)
  ⟨0x81004, 64, 64, false, [⟨0, 32, .rws, .val 0⟩]⟩, -- LOOP_L_SETPOINT (R250)
  ⟨0x81008, 64, 64, false, [⟨0, 32, .rws, .val 0⟩]⟩, -- LOOP_L_KP (R250)
  ⟨0x8100C, 64, 64, false, [⟨0, 32, .rws, .val 0⟩]⟩, -- LOOP_L_KI (R250)
  ⟨0x81010, 64, 64, false, [⟨0, 32, .rws, .val 0⟩]⟩, -- LOOP_L_OUTMIN (R250)
  ⟨0x81014, 64, 64, false, [⟨0, 32, .rws, .val 0⟩]⟩, -- LOOP_L_OUTMAX (R250)
  ⟨0x81018, 64, 64, false, [⟨0, 32, .rws, .val 0⟩]⟩, -- LOOP_L_SLEW (R250)
  ⟨0x8101C, 64, 64, false, [⟨0, 32, .rws, .val 0⟩]⟩, -- LOOP_L_DEADBAND (R250)
  ⟨0x81020, 64, 64, false, [⟨0, 32, .rws, .val 0⟩]⟩, -- LOOP_L_BIAS (R250)
  ⟨0x81024, 64, 64, false, [⟨0, 16, .rws, .val 0⟩]⟩, -- LOOP_L_SEG (R250)
  ⟨0x81028, 64, 64, false, [⟨0, 32, .rws, .val 0⟩]⟩, -- LOOP_L_GTHR (R250)
  ⟨0x8102C, 64, 64, false, [⟨0, 32, .rws, .val 0⟩]⟩, -- LOOP_L_PRESET (R250)
  ⟨0x81030, 64, 64, false, [⟨0, 32, .ro, .val 0⟩]⟩, -- LOOP_L_INTEG (R250)
  ⟨0x81034, 64, 64, false, [⟨0, 32, .ro, .val 0⟩]⟩, -- LOOP_L_OUT (R250)
  ⟨0x81038, 64, 64, false, [⟨0, 8, .ro, .val 0⟩]⟩, -- LOOP_L_STAT (R250)
  ⟨0x82000, 16, 16, false, [⟨28, 4, .rws, .val 0⟩, ⟨27, 1, .rws, .val 0⟩, ⟨26, 1, .rws, .val 0⟩, ⟨25, 1, .rws, .val 0⟩, ⟨24, 1, .rws, .val 0⟩, ⟨23, 1, .rws, .val 0⟩, ⟨0, 7, .rws, .val 0⟩]⟩, -- LOOP_SC_CFG (R250)
  ⟨0x82004, 16, 16, false, [⟨0, 32, .rws, .val 0⟩]⟩, -- LOOP_SC_THR (R250)
  ⟨0x82008, 16, 16, false, [⟨0, 16, .rws, .val 1⟩]⟩] -- LOOP_SC_MIN (R250)

/-- Block LOOP of R425. -/
def regsLoop1 : List RegRow := [
  ⟨0x8200C, 16, 16, false, [⟨0, 32, .rc, .val 0⟩]⟩] -- LOOP_SC_CNT (R250)

/-- Block LOOP of R425. -/
def regsLoop : List RegRow := regsLoop0 ++ regsLoop1

/-- Block CMP of R425. -/
def regsCmp : List RegRow := [
  ⟨0x90000, 4, 1, false, [⟨31, 1, .rws, .val 0⟩]⟩, -- CMP_CTL (R273)
  ⟨0x90004, 4, 1, false, [⟨16, 16, .ro, .val 0⟩, ⟨0, 16, .ro, .val 0⟩]⟩, -- CMP_STAT (R273)
  ⟨0x90008, 4, 1, false, [⟨0, 32, .ro, .val 0⟩]⟩, -- CMP_DICT_MAP (R273)
  ⟨0x90010, 4, 16, false, [⟨4, 1, .ro, .val 0⟩, ⟨0, 4, .ro, .val 0⟩]⟩, -- CMP_DICT_OWNER (R273)
  ⟨0x90050, 4, 1, false, [⟨0, 32, .rc, .val 0⟩]⟩, -- CMP_POISON_CNT (R273)
  ⟨0x90100, 64, 16, false, [⟨31, 1, .rws, .val 0⟩, ⟨28, 3, .rws, .val 0⟩, ⟨26, 2, .rws, .val 0⟩, ⟨25, 1, .rws, .val 1⟩, ⟨23, 2, .rws, .val 1⟩, ⟨21, 2, .rws, .val 0⟩, ⟨16, 4, .rws, .val 1⟩, ⟨12, 4, .rws, .val 0⟩, ⟨4, 8, .rws, .val 1⟩]⟩, -- CMP_CH_CFG (R273)
  ⟨0x90104, 64, 16, false, [⟨0, 8, .rws, .val 0⟩]⟩, -- CMP_CH_SEL (R273)
  ⟨0x90108, 64, 16, false, [⟨0, 16, .rws, .val 0⟩]⟩, -- CMP_CH_WIN (R273)
  ⟨0x9010C, 64, 16, false, [⟨0, 20, .rws, .val 0⟩]⟩, -- CMP_CH_RATE (R273)
  ⟨0x90110, 64, 16, false, [⟨0, 32, .ro, .val 0⟩]⟩, -- CMP_CH_BSEQ (R273)
  ⟨0x90114, 64, 16, false, [⟨0, 32, .rc, .val 0⟩]⟩, -- CMP_CH_IN (R273)
  ⟨0x90118, 64, 16, false, [⟨0, 32, .rc, .val 0⟩]⟩, -- CMP_CH_OUT (R273)
  ⟨0x9011C, 64, 16, false, [⟨0, 32, .rc, .val 0⟩]⟩, -- CMP_CH_DROP (R273)
  ⟨0x90120, 64, 16, false, [⟨0, 32, .rc, .val 0⟩]⟩, -- CMP_CH_NOGAIN (R273)
  ⟨0x90124, 64, 16, false, [⟨0, 32, .rc, .val 0⟩]⟩] -- CMP_CH_BLOCKS (R273)

/-- The rows of the block that holds an address (R425). -/
def regBlock (a : Nat) : List RegRow :=
  if a < 0x1000 then regsGlb
  else if a < 0x2000 then regsTim
  else if a < 0x3000 then regsCmd
  else if a < 0x4000 then regsEvt
  else if a < 0x5000 then regsLne
  else if a < 0x6000 then regsLnw
  else if a < 0x7000 then regsRng
  else if a < 0x8000 then regsPair
  else if a < 0x9000 then regsMin
  else if a < 0xA000 then regsSto
  else if a < 0x10000 then []
  else if a < 0x20000 then regsPix
  else if a < 0x30000 then regsPrt
  else if a < 0x38000 then regsHit
  else if a < 0x40000 then regsTrg
  else if a < 0x48000 then regsWav
  else if a < 0x50000 then regsXdc
  else if a < 0x60000 then regsLin
  else if a < 0x70000 then regsTip
  else if a < 0x80000 then regsCal
  else if a < 0x90000 then regsLoop
  else if a < 0xA0000 then regsCmp
  else []

/-- The register at an address: 4-byte aligned, inside its row's array (R9, R425). -/
def regRow? (a : Nat) : Option RegRow :=
  (regBlock a).find? fun r =>
    decide (r.base ≤ a) && decide ((a - r.base) % r.stride = 0) && decide ((a - r.base) / r.stride < r.count)

/-- The bits of a field. -/
def FieldDef.mask (f : FieldDef) : Nat := (2 ^ f.w - 1) <<< f.lo

/-- The bits of a register with one of the access codes. -/
def RegRow.mask (r : RegRow) (p : Access → Bool) : Nat :=
  r.fields.foldl (fun m f => if p f.acc then m ||| f.mask else m) 0

/-- Every register that holds an RWS field has a shadow bank (R8). -/
def RegRow.hasRws (r : RegRow) : Bool := r.fields.any fun f => f.acc == .rws

/-- A register whose writable fields are all RWS (R8): a write with bank 0 is DENIED. -/
def RegRow.onlyRws (r : RegRow) : Bool :=
  r.hasRws && !(r.fields.any fun f => f.acc == .rw || f.acc == .w1c || f.acc == .wo)

/-- The value of a register after reset (R11). -/
def RegRow.reset (r : RegRow) (a : Nat) : Nat :=
  r.fields.foldl (fun v f =>
    v ||| match f.rst with
      | .val n => place f.w f.lo n
      | .cal => (Config.calReg a).toNat &&& f.mask) 0

/-- The value of the register at an address after reset (R11); 0 where no register stands. -/
def regReset (a : Nat) : W32 :=
  match regRow? a with
  | some r => BitVec.ofNat 32 (r.reset a)
  | none => 0#32

/-- The RWS bits of the register at an address (R5, R374). -/
def rwsMask (a : Nat) : Nat :=
  match regRow? a with
  | some r => r.mask (· == .rws)
  | none => 0

end Sys2Proof.Machine
end

