-- ==== Sys2Proof/Machine/Fields.lean ====
section
/-! DEFINITION. Names for the register fields the machine reads and writes by itself: the address, the lowest bit and
the width of the field, and whether the field is banked (RWS). An array's name takes the index. The numbers are those of
the register tables of the spec, as in RegTable.lean. -/

namespace Sys2Proof.Machine

/-- A field of a register. -/
structure Fld where
  addr : Nat
  lo   : Nat
  w    : Nat
  rws  : Bool
deriving DecidableEq, Repr

def F.GLB_PWR_IDLE : Fld := ⟨0x10, 0, 1, true⟩
def F.GLB_STAT_PWR_ERR : Fld := ⟨0x14, 1, 1, false⟩
def F.GLB_STAT_IDLE : Fld := ⟨0x14, 0, 1, false⟩
def F.GLB_TEMP_VALID : Fld := ⟨0x18, 31, 1, false⟩
def F.GLB_TEMP_TEMP : Fld := ⟨0x18, 0, 16, false⟩
def F.GLB_TEMP_LIM_HYST : Fld := ⟨0x1C, 16, 8, true⟩
def F.GLB_TEMP_LIM_HIGH : Fld := ⟨0x1C, 0, 16, true⟩
def F.GLB_RST_STAT_READY : Fld := ⟨0x100, 31, 1, false⟩
def F.GLB_RST_STAT_ADDR_ERR : Fld := ⟨0x100, 30, 1, false⟩
def F.GLB_RST_STAT_STRAP : Fld := ⟨0x100, 16, 5, false⟩
def F.GLB_RST_STAT_CAUSE : Fld := ⟨0x100, 0, 2, false⟩
def F.GLB_RST_CTL_AUTOJOIN : Fld := ⟨0x104, 31, 1, false⟩
def F.GLB_INIT_US_US : Fld := ⟨0x108, 0, 16, false⟩
def F.GLB_DRST_STAT_MASK : Fld := ⟨0x10C, 0, 10, false⟩
def F.GLB_DRST_CNT_COUNT : Fld := ⟨0x110, 0, 32, false⟩
def F.GLB_CDC_DROP_COUNT : Fld := ⟨0x120, 0, 32, false⟩
def F.GLB_CDC_OVR_COUNT : Fld := ⟨0x124, 0, 32, false⟩
def F.GLB_CDC_STAT_DROP : Fld := ⟨0x128, 16, 11, false⟩
def F.GLB_CDC_STAT_OVR : Fld := ⟨0x128, 0, 11, false⟩
def F.TIM_CTL_TREF_TERM : Fld := ⟨0x1000, 0, 1, true⟩
def F.TIM_STAT_QUALITY : Fld := ⟨0x1004, 8, 8, false⟩
def F.TIM_STAT_STEP_HOLD : Fld := ⟨0x1004, 3, 1, false⟩
def F.TIM_STAT_HOLDOVER : Fld := ⟨0x1004, 2, 1, false⟩
def F.TIM_STAT_TPLL_LOCK : Fld := ⟨0x1004, 1, 1, false⟩
def F.TIM_STAT_TREF_PRESENT : Fld := ⟨0x1004, 0, 1, false⟩
def F.TIM_FRAME_IDX_INDEX : Fld := ⟨0x1008, 0, 19, false⟩
def F.TIM_FRAME_SEC_LO_SEC : Fld := ⟨0x100C, 0, 32, false⟩
def F.TIM_FRAME_SEC_HI_SEC : Fld := ⟨0x1010, 0, 32, false⟩
def F.TIM_RESIDUAL_RESIDUAL : Fld := ⟨0x1014, 0, 9, false⟩
def F.TIM_SLIP_CNT_LONG : Fld := ⟨0x1018, 16, 16, false⟩
def F.TIM_SLIP_CNT_SHORT : Fld := ⟨0x1018, 0, 16, false⟩
def F.TIM_TREF_LOSS_COUNT : Fld := ⟨0x101C, 0, 16, false⟩
def F.TIM_HOLD_FRAMES_FRAMES : Fld := ⟨0x1020, 0, 32, false⟩
def F.TIM_LOSS_IDX_INDEX : Fld := ⟨0x1024, 0, 19, false⟩
def F.TIM_LOSS_SEC_SEC : Fld := ⟨0x1028, 0, 32, false⟩
def F.TIM_RELOCK_FRAMES : Fld := ⟨0x102C, 0, 16, true⟩
def F.TIM_BUDGET_HITS_HITS : Fld := ⟨0x1030, 0, 13, true⟩
def F.TIM_BUDGET_STAT_FAIL_EPOCH : Fld := ⟨0x1034, 16, 16, false⟩
def F.TIM_BUDGET_STAT_FAIL_LEDGER : Fld := ⟨0x1034, 0, 8, false⟩
def F.TIM_BUDGET_REFUSE_COUNT : Fld := ⟨0x1038, 0, 32, false⟩
def F.TIM_STEP_DROP_COUNT : Fld := ⟨0x103C, 0, 32, false⟩
def F.TIM_LEDGER_SHADOW (i : Nat) : Fld := ⟨0x1040 + 4 * i, 16, 16, false⟩
def F.TIM_LEDGER_ACTIVE (i : Nat) : Fld := ⟨0x1040 + 4 * i, 0, 16, false⟩
def F.TIM_NET_CFG_DISC_EN : Fld := ⟨0x1100, 31, 1, true⟩
def F.TIM_NET_CFG_UPPORT : Fld := ⟨0x1100, 30, 1, true⟩
def F.TIM_NET_CFG_INTERVAL : Fld := ⟨0x1100, 16, 8, true⟩
def F.TIM_NET_CFG_TMO : Fld := ⟨0x1100, 8, 8, true⟩
def F.TIM_NET_CFG_KP_SH : Fld := ⟨0x1100, 4, 4, true⟩
def F.TIM_NET_CFG_KI_SH : Fld := ⟨0x1100, 0, 4, true⟩
def F.TIM_NET_LIM_SLEW_MAX : Fld := ⟨0x1104, 24, 8, true⟩
def F.TIM_NET_LIM_DWIN : Fld := ⟨0x1104, 0, 16, true⟩
def F.TIM_NET_STAT_UP : Fld := ⟨0x1108, 30, 2, false⟩
def F.TIM_NET_STAT_FROZEN : Fld := ⟨0x1108, 29, 1, false⟩
def F.TIM_NET_STAT_STRATUM : Fld := ⟨0x1108, 24, 5, false⟩
def F.TIM_NET_STAT_CONS : Fld := ⟨0x1108, 16, 7, false⟩
def F.TIM_NET_OFFS_E : Fld := ⟨0x110C, 0, 32, false⟩
def F.TIM_NET_FREQ_F : Fld := ⟨0x1110, 0, 32, false⟩
def F.TIM_REROUTE_CNT_COUNT : Fld := ⟨0x1114, 0, 32, false⟩
def F.TIM_DISCARD_CNT_COUNT : Fld := ⟨0x1118, 0, 32, false⟩
def F.TIM_X_DELAY_D (i : Nat) : Fld := ⟨0x1140 + 64 * i, 0, 32, false⟩
def F.TIM_X_OFFS_E (i : Nat) : Fld := ⟨0x1144 + 64 * i, 0, 32, false⟩
def F.TIM_X_NBR_QUALITY (i : Nat) : Fld := ⟨0x1148 + 64 * i, 16, 8, false⟩
def F.TIM_X_NBR_STRATUM (i : Nat) : Fld := ⟨0x1148 + 64 * i, 8, 5, false⟩
def F.TIM_X_NBR_UPSRC (i : Nat) : Fld := ⟨0x1148 + 64 * i, 0, 5, false⟩
def F.TIM_X_ASYM0_FTU (i : Nat) : Fld := ⟨0x114C + 64 * i, 0, 16, true⟩
def F.TIM_X_ASYM1_FTU (i : Nat) : Fld := ⟨0x1150 + 64 * i, 0, 16, true⟩
def F.TIM_X_ASYM2_FTU (i : Nat) : Fld := ⟨0x1154 + 64 * i, 0, 16, true⟩
def F.TIM_X_EXCH_COUNT (i : Nat) : Fld := ⟨0x1158 + 64 * i, 0, 32, false⟩
def F.TIM_X_VOID_COUNT (i : Nat) : Fld := ⟨0x115C + 64 * i, 0, 32, false⟩
def F.TIM_X_INCONS_COUNT (i : Nat) : Fld := ⟨0x1160 + 64 * i, 0, 32, false⟩
def F.CMD_STAT_PENDING : Fld := ⟨0x2000, 31, 1, false⟩
def F.CMD_STAT_DIRTY : Fld := ⟨0x2000, 30, 1, false⟩
def F.CMD_STAT_DIG_BUSY : Fld := ⟨0x2000, 29, 1, false⟩
def F.CMD_STAT_PRELOCK : Fld := ⟨0x2000, 28, 1, false⟩
def F.CMD_STAT_SIDE_Q : Fld := ⟨0x2000, 0, 5, false⟩
def F.CMD_EPOCH_ACTIVE : Fld := ⟨0x2004, 0, 32, false⟩
def F.CMD_PEND_EPOCH_EPOCH : Fld := ⟨0x2008, 0, 32, false⟩
def F.CMD_PEND_SEC_SEC_LO : Fld := ⟨0x200C, 0, 32, false⟩
def F.CMD_PEND_IDX_INDEX : Fld := ⟨0x2010, 0, 19, false⟩
def F.CMD_CDIG_A_LO_DIGEST : Fld := ⟨0x2018, 0, 32, false⟩
def F.CMD_CDIG_A_HI_DIGEST : Fld := ⟨0x201C, 0, 32, false⟩
def F.CMD_FDIG_A_LO_DIGEST : Fld := ⟨0x2020, 0, 32, false⟩
def F.CMD_FDIG_A_HI_DIGEST : Fld := ⟨0x2024, 0, 32, false⟩
def F.CMD_CDIG_S_LO_DIGEST : Fld := ⟨0x2028, 0, 32, false⟩
def F.CMD_CDIG_S_HI_DIGEST : Fld := ⟨0x202C, 0, 32, false⟩
def F.CMD_FDIG_S_LO_DIGEST : Fld := ⟨0x2030, 0, 32, false⟩
def F.CMD_FDIG_S_HI_DIGEST : Fld := ⟨0x2034, 0, 32, false⟩
def F.CMD_HB_CTL_EN : Fld := ⟨0x2040, 31, 1, true⟩
def F.CMD_LAST_ERR_STATUS : Fld := ⟨0x2044, 24, 8, false⟩
def F.CMD_LAST_ERR_OPCODE : Fld := ⟨0x2044, 16, 8, false⟩
def F.CMD_LAST_ERR_TAG : Fld := ⟨0x2044, 8, 8, false⟩
def F.CMD_LAST_ERR_PORT : Fld := ⟨0x2044, 0, 2, false⟩
def F.CMD_EXEC_CNT_COUNT : Fld := ⟨0x2050, 0, 32, false⟩
def F.CMD_REJECT_CNT_COUNT : Fld := ⟨0x2054, 0, 32, false⟩
def F.CMD_DENIED_CNT_COUNT : Fld := ⟨0x2058, 0, 32, false⟩
def F.CMD_COLLIDE_CNT_COUNT : Fld := ⟨0x205C, 0, 32, false⟩
def F.CMD_OVF_CNT_COUNT : Fld := ⟨0x2060, 0, 32, false⟩
def F.CMD_CRC_CNT_COUNT : Fld := ⟨0x2064, 0, 32, false⟩
def F.CMD_REPEAT_CNT_COUNT : Fld := ⟨0x2068, 0, 32, false⟩
def F.CMD_SIDE_OVF_COUNT : Fld := ⟨0x206C, 0, 32, false⟩
def F.CMD_HB_DROP_COUNT : Fld := ⟨0x2070, 0, 32, false⟩
def F.CMD_COMMIT_CNT_COUNT : Fld := ⟨0x2074, 0, 32, false⟩
def F.CMD_PROT_WRITE (i : Nat) : Fld := ⟨0x2100 + 4 * i, 4, 2, false⟩
def F.CMD_PROT_READ (i : Nat) : Fld := ⟨0x2100 + 4 * i, 0, 2, false⟩
def F.CMD_CEIL_SIDE : Fld := ⟨0x2200, 4, 2, false⟩
def F.CMD_CEIL_RING : Fld := ⟨0x2200, 0, 2, false⟩
def F.EVT_CTL_HOLDOFF : Fld := ⟨0x3000, 0, 16, true⟩
def F.EVT_SUMMARY_ANY : Fld := ⟨0x3004, 16, 12, false⟩
def F.EVT_SUMMARY_ENABLED : Fld := ⟨0x3004, 0, 12, false⟩
def F.EVT_PIN_SENSE : Fld := ⟨0x3008, 1, 1, false⟩
def F.EVT_PIN_DRIVE : Fld := ⟨0x3008, 0, 1, false⟩
def F.EVT_LAST_SOURCE : Fld := ⟨0x300C, 16, 9, false⟩
def F.EVT_LAST_INDEX : Fld := ⟨0x300C, 0, 16, false⟩
def F.EVT_PKT_CNT_COUNT : Fld := ⟨0x3010, 0, 32, false⟩
def F.EVT_PKT_LOST_COUNT : Fld := ⟨0x3014, 0, 32, false⟩
def F.EVT_STAT_STAT (i : Nat) : Fld := ⟨0x3100 + 16 * i, 0, 32, false⟩
def F.EVT_EN_EN (i : Nat) : Fld := ⟨0x3104 + 16 * i, 0, 32, true⟩
def F.EVT_RTE_LO_RTE (i : Nat) : Fld := ⟨0x3108 + 16 * i, 0, 32, true⟩
def F.EVT_RTE_HI_RTE (i : Nat) : Fld := ⟨0x310C + 16 * i, 0, 32, true⟩
def F.LN_CFG_EN (i : Nat) : Fld := ⟨0x4000 + 4096 * i, 31, 1, true⟩
def F.LN_CFG_FALLBACK_EN (i : Nat) : Fld := ⟨0x4000 + 4096 * i, 30, 1, true⟩
def F.LN_CFG_RATE (i : Nat) : Fld := ⟨0x4000 + 4096 * i, 29, 1, true⟩
def F.LN_CFG_TXPOL (i : Nat) : Fld := ⟨0x4000 + 4096 * i, 25, 4, true⟩
def F.LN_CFG_LAST (i : Nat) : Fld := ⟨0x4000 + 4096 * i, 16, 5, true⟩
def F.LN_CFG_ADAPT_US (i : Nat) : Fld := ⟨0x4000 + 4096 * i, 0, 10, true⟩
def F.LN_STAT_STATE (i : Nat) : Fld := ⟨0x4004 + 4096 * i, 28, 4, false⟩
def F.LN_STAT_LMASK_TX (i : Nat) : Fld := ⟨0x4004 + 4096 * i, 24, 4, false⟩
def F.LN_STAT_LMASK_RX (i : Nat) : Fld := ⟨0x4004 + 4096 * i, 20, 4, false⟩
def F.LN_STAT_RXOK_PART (i : Nat) : Fld := ⟨0x4004 + 4096 * i, 16, 4, false⟩
def F.LN_STAT_LANE_LOCK (i : Nat) : Fld := ⟨0x4004 + 4096 * i, 12, 4, false⟩
def F.LN_STAT_LOCAL (i : Nat) : Fld := ⟨0x4004 + 4096 * i, 11, 1, false⟩
def F.LN_STAT_FALLBACK (i : Nat) : Fld := ⟨0x4004 + 4096 * i, 10, 1, false⟩
def F.LN_STAT_PLL_LOCK (i : Nat) : Fld := ⟨0x4004 + 4096 * i, 9, 1, false⟩
def F.LN_STAT_MODE_BUSY (i : Nat) : Fld := ⟨0x4004 + 4096 * i, 8, 1, false⟩
def F.LN_STAT_GAP (i : Nat) : Fld := ⟨0x4004 + 4096 * i, 5, 3, false⟩
def F.LN_STAT_NBR_ADDR (i : Nat) : Fld := ⟨0x4004 + 4096 * i, 0, 5, false⟩
def F.LN_NBR_NID_NID (i : Nat) : Fld := ⟨0x4008 + 4096 * i, 0, 24, false⟩
def F.LN_NID_OWN_NID (i : Nat) : Fld := ⟨0x400C + 4096 * i, 0, 24, false⟩
def F.LN_LAT_RX (i : Nat) : Fld := ⟨0x4010 + 4096 * i, 16, 16, false⟩
def F.LN_LAT_TX (i : Nat) : Fld := ⟨0x4010 + 4096 * i, 0, 16, false⟩
def F.LN_TXEQ_SWING (i : Nat) : Fld := ⟨0x4014 + 4096 * i, 16, 4, true⟩
def F.LN_TXEQ_POST (i : Nat) : Fld := ⟨0x4014 + 4096 * i, 8, 4, true⟩
def F.LN_TXEQ_PRE (i : Nat) : Fld := ⟨0x4014 + 4096 * i, 0, 4, true⟩
def F.LN_ADAPT_DFE_EN (i : Nat) : Fld := ⟨0x4018 + 4096 * i, 31, 1, true⟩
def F.LN_ADAPT_CTLE_AUTO (i : Nat) : Fld := ⟨0x4018 + 4096 * i, 30, 1, true⟩
def F.LN_ADAPT_RESTORE_EN (i : Nat) : Fld := ⟨0x4018 + 4096 * i, 29, 1, true⟩
def F.LN_ADAPT_EW_MIN (i : Nat) : Fld := ⟨0x4018 + 4096 * i, 0, 8, true⟩
def F.LN_LOSS_CNT_HIBER (i : Nat) : Fld := ⟨0x40A0 + 4096 * i, 16, 16, false⟩
def F.LN_LOSS_CNT_LINK_DOWN (i : Nat) : Fld := ⟨0x40A0 + 4096 * i, 0, 16, false⟩
def F.LN_NBR_CNT_COUNT (i : Nat) : Fld := ⟨0x40A4 + 4096 * i, 0, 32, false⟩
def F.LN_DESKEW_ERR_COUNT (i : Nat) : Fld := ⟨0x40A8 + 4096 * i, 0, 32, false⟩
def F.LN_TRAIN_CNT_COUNT (i : Nat) : Fld := ⟨0x40AC + 4096 * i, 0, 32, false⟩
def F.LN_TEST_PRBS (i : Nat) : Fld := ⟨0x40B0 + 4096 * i, 4, 1, false⟩
def F.LN_TEST_LOOP (i : Nat) : Fld := ⟨0x40B0 + 4096 * i, 0, 2, false⟩
def F.LNE_RING_AUTOLEAVE : Fld := ⟨0x40C0, 16, 16, true⟩
def F.LNE_RING_JOINED : Fld := ⟨0x40C0, 1, 1, false⟩
def F.LNE_RING_INRING : Fld := ⟨0x40C0, 0, 1, false⟩
def F.RNG_CFG_WRAP_EN : Fld := ⟨0x6000, 31, 1, true⟩
def F.RNG_CFG_ACT_DEST : Fld := ⟨0x6000, 4, 5, true⟩
def F.RNG_CFG_HOME : Fld := ⟨0x6000, 0, 1, true⟩
def F.RNG_SEG_WORDS3 : Fld := ⟨0x6004, 16, 10, true⟩
def F.RNG_SEG_WORDS2 : Fld := ⟨0x6004, 0, 10, true⟩
def F.RNG_HOLD_FRAMES : Fld := ⟨0x6008, 0, 16, true⟩
def F.RNG_CRED_TMO_FRAMES : Fld := ⟨0x600C, 0, 24, true⟩
def F.RNG_UNWRAP_FRAMES : Fld := ⟨0x6010, 0, 16, true⟩
def F.RNG_STAT_CRED_VALID : Fld := ⟨0x6014, 3, 1, false⟩
def F.RNG_STAT_BYPASSED : Fld := ⟨0x6014, 2, 1, false⟩
def F.RNG_STAT_WRAP_W : Fld := ⟨0x6014, 1, 1, false⟩
def F.RNG_STAT_WRAP_E : Fld := ⟨0x6014, 0, 1, false⟩
def F.RNG_REFUSE_COUNT (i : Nat) : Fld := ⟨0x6020 + 4 * i, 0, 32, false⟩
def F.RNG_DROP_COUNT : Fld := ⟨0x6030, 0, 32, false⟩
def F.RNG_STRAY_COUNT : Fld := ⟨0x6034, 0, 32, false⟩
def F.RNG_BADPKT_COUNT : Fld := ⟨0x6038, 0, 32, false⟩
def F.RNG_DUP_COUNT : Fld := ⟨0x603C, 0, 32, false⟩
def F.RNG_CRED_CNT_COUNT : Fld := ⟨0x6040, 0, 32, false⟩
def F.RNG_CRED_CLIP_COUNT : Fld := ⟨0x6044, 0, 32, false⟩
def F.RNG_PSEQ_PSEQ : Fld := ⟨0x6048, 0, 32, false⟩
def F.RN_ALLOW_A1 (i : Nat) : Fld := ⟨0x6100 + 128 * i, 16, 16, true⟩
def F.RN_ALLOW_A0 (i : Nat) : Fld := ⟨0x6100 + 128 * i, 0, 16, true⟩
def F.RN_SHARE_SHARE (i : Nat) : Fld := ⟨0x6104 + 128 * i, 0, 16, true⟩
def F.RN_GRANT_G3 (i : Nat) : Fld := ⟨0x6108 + 128 * i, 16, 16, false⟩
def F.RN_GRANT_G2 (i : Nat) : Fld := ⟨0x6108 + 128 * i, 0, 16, false⟩
def F.RN_TOK01_C1 (i : Nat) : Fld := ⟨0x610C + 128 * i, 16, 16, false⟩
def F.RN_TOK01_C0 (i : Nat) : Fld := ⟨0x610C + 128 * i, 0, 16, false⟩
def F.RN_TOK23_C3 (i : Nat) : Fld := ⟨0x6110 + 128 * i, 16, 16, false⟩
def F.RN_TOK23_C2 (i : Nat) : Fld := ⟨0x6110 + 128 * i, 0, 16, false⟩
def F.RN_FWD_FTU (i : Nat) : Fld := ⟨0x6114 + 128 * i, 0, 16, false⟩
def F.RN_TXPKT_COUNT (i : Nat) : Fld := ⟨0x6118 + 128 * i, 0, 32, false⟩
def F.RN_RXPKT_COUNT (i : Nat) : Fld := ⟨0x611C + 128 * i, 0, 32, false⟩
def F.RN_FWDPKT_COUNT (i : Nat) : Fld := ⟨0x6120 + 128 * i, 0, 32, false⟩
def F.RN_TXBLK_COUNT (i : Nat) : Fld := ⟨0x6124 + 128 * i, 0, 32, false⟩
def F.RN_CRC_ERR_COUNT (i : Nat) : Fld := ⟨0x6128 + 128 * i, 0, 32, false⟩
def F.RN_FRAMING_COUNT (i : Nat) : Fld := ⟨0x612C + 128 * i, 0, 32, false⟩
def F.RN_LOST_COUNT (i : Nat) : Fld := ⟨0x6130 + 128 * i, 0, 32, false⟩
def F.RN_FWD_OVF_COUNT (i : Nat) : Fld := ⟨0x6134 + 128 * i, 0, 32, false⟩
def F.RN_WRAP_CNT_COUNT (i : Nat) : Fld := ⟨0x6138 + 128 * i, 0, 32, false⟩
def F.RN_BUF_HWM_BLOCKS (i : Nat) : Fld := ⟨0x613C + 128 * i, 0, 13, false⟩
def F.PAIR_CFG_EN : Fld := ⟨0x7000, 31, 1, true⟩
def F.PAIR_CFG_INIT_ROLE : Fld := ⟨0x7000, 30, 1, true⟩
def F.PAIR_CFG_NLOOP : Fld := ⟨0x7000, 16, 7, true⟩
def F.PAIR_CFG_PARTNER : Fld := ⟨0x7000, 0, 5, true⟩
def F.PAIR_STAT_ROLE : Fld := ⟨0x7004, 30, 2, false⟩
def F.PAIR_STAT_SYNC : Fld := ⟨0x7004, 29, 1, false⟩
def F.PAIR_STAT_MISMATCH : Fld := ⟨0x7004, 28, 1, false⟩
def F.PAIR_STAT_SAT : Fld := ⟨0x7004, 27, 1, false⟩
def F.PAIR_STAT_CFG_ERR : Fld := ⟨0x7004, 26, 1, false⟩
def F.PAIR_STAT_COLD : Fld := ⟨0x7004, 25, 1, false⟩
def F.PAIR_STAT_MISSED : Fld := ⟨0x7004, 16, 6, false⟩
def F.PAIR_STAT_CLAIM : Fld := ⟨0x7004, 0, 16, false⟩
def F.PAIR_PARTNER_ROLE : Fld := ⟨0x7008, 30, 2, false⟩
def F.PAIR_PARTNER_AGE : Fld := ⟨0x7008, 16, 8, false⟩
def F.PAIR_PARTNER_CLAIM : Fld := ⟨0x7008, 0, 16, false⟩
def F.PAIR_TBL_LEVEL_COUNT : Fld := ⟨0x700C, 0, 9, false⟩
def F.PAIR_TAKEOVER_CNT_COUNT : Fld := ⟨0x7010, 0, 32, false⟩
def F.PAIR_SPLIT_CNT_COUNT : Fld := ⟨0x7014, 0, 32, false⟩
def F.PAIR_HB_MISS_COUNT : Fld := ⟨0x7018, 0, 32, false⟩
def F.PAIR_HB_DROP_COUNT : Fld := ⟨0x701C, 0, 32, false⟩
def F.PAIR_BAD_HB_COUNT : Fld := ⟨0x7020, 0, 32, false⟩
def F.PAIR_MIRROR_CNT_COUNT : Fld := ⟨0x7024, 0, 32, false⟩
def F.PAIR_ACT_DROP_COUNT : Fld := ⟨0x7028, 0, 32, false⟩
def F.PAIR_TBL_FULL_COUNT : Fld := ⟨0x702C, 0, 32, false⟩
def F.PAIR_TBL_LO_CLAIM (i : Nat) : Fld := ⟨0x7400 + 8 * i, 16, 16, false⟩
def F.PAIR_TBL_LO_SEGMENT (i : Nat) : Fld := ⟨0x7400 + 8 * i, 0, 16, false⟩
def F.PAIR_TBL_HI_VALID (i : Nat) : Fld := ⟨0x7404 + 8 * i, 31, 1, false⟩
def F.PAIR_TBL_HI_SRC (i : Nat) : Fld := ⟨0x7404 + 8 * i, 0, 5, false⟩
def F.MIN_CTL_SCRUB_EN : Fld := ⟨0x8000, 31, 1, true⟩
def F.MIN_CTL_DIAG_EN : Fld := ⟨0x8000, 30, 1, false⟩
def F.MIN_CTL_DRIFT_CHK : Fld := ⟨0x8000, 29, 1, true⟩
def F.MIN_STAT_CFG_POISON : Fld := ⟨0x8004, 31, 1, false⟩
def F.MIN_STAT_SCRUBBING : Fld := ⟨0x8004, 30, 1, false⟩
def F.MIN_STAT_MEM : Fld := ⟨0x8004, 0, 4, false⟩
def F.MIN_SCRUB_PERIOD_MS : Fld := ⟨0x8008, 0, 16, true⟩
def F.MIN_PASS_CNT_COUNT : Fld := ⟨0x800C, 0, 32, false⟩
def F.MIN_PASS_FRAMES_FRAMES : Fld := ⟨0x8010, 0, 32, false⟩
def F.MIN_CORR_CNT_COUNT : Fld := ⟨0x8014, 0, 32, false⟩
def F.MIN_UNC_CNT_COUNT : Fld := ⟨0x8018, 0, 32, false⟩
def F.MIN_POISON_READ_COUNT : Fld := ⟨0x801C, 0, 32, false⟩
def F.MIN_LOG_LOST_COUNT : Fld := ⟨0x8020, 0, 32, false⟩
def F.MIN_EGRESS_POISON_COUNT : Fld := ⟨0x8024, 0, 32, false⟩
def F.MIN_HIT_POISON_COUNT : Fld := ⟨0x8028, 0, 32, false⟩
def F.MIN_DRIFT_CNT_COUNT : Fld := ⟨0x802C, 0, 32, false⟩
def F.MIN_TMR_CNT_COUNT : Fld := ⟨0x8030, 0, 32, false⟩
def F.MIN_TMR_STAT_ITEM : Fld := ⟨0x8034, 0, 9, false⟩
def F.MIN_LOG_LO_ENTRY : Fld := ⟨0x8040, 0, 32, false⟩
def F.MIN_LOG_HI_ENTRY : Fld := ⟨0x8044, 0, 32, false⟩
def F.MIN_LOG_LEVEL_COUNT : Fld := ⟨0x8048, 0, 5, false⟩
def F.MIN_M_CORR_COUNT (i : Nat) : Fld := ⟨0x8100 + 8 * i, 0, 32, false⟩
def F.MIN_M_UNC_COUNT (i : Nat) : Fld := ⟨0x8104 + 8 * i, 0, 32, false⟩
def F.MIN_M_POISONED_COUNT (i : Nat) : Fld := ⟨0x8200 + 4 * i, 0, 24, false⟩
def F.STO_CTL_EN : Fld := ⟨0x9000, 31, 1, true⟩
def F.STO_CTL_POLICY : Fld := ⟨0x9000, 0, 2, true⟩
def F.STO_STAT_ENABLED : Fld := ⟨0x9004, 31, 1, false⟩
def F.STO_STAT_FULL : Fld := ⟨0x9004, 30, 1, false⟩
def F.STO_STAT_OPEN : Fld := ⟨0x9004, 0, 18, false⟩
def F.STO_NEXT_EXTENT : Fld := ⟨0x9008, 0, 18, false⟩
def F.STO_ACK_TMO_RETRY : Fld := ⟨0x900C, 16, 8, true⟩
def F.STO_ACK_TMO_FRAMES : Fld := ⟨0x900C, 0, 16, true⟩
def F.STO_CSEQ_NEXT : Fld := ⟨0x9010, 0, 32, false⟩
def F.STO_OUTST_ITEMS : Fld := ⟨0x9014, 0, 16, false⟩
def F.STO_FREE_COUNT : Fld := ⟨0x9018, 0, 19, false⟩
def F.STO_LOCKED_COUNT : Fld := ⟨0x901C, 0, 19, false⟩
def F.STO_REFUSE_COUNT : Fld := ⟨0x9020, 0, 32, false⟩
def F.STO_RESEND_COUNT : Fld := ⟨0x9024, 0, 32, false⟩
def F.STO_LOST_COUNT : Fld := ⟨0x9028, 0, 32, false⟩
def F.STO_REUSE_COUNT : Fld := ⟨0x902C, 0, 32, false⟩
def F.STO_ACK_BAD_COUNT : Fld := ⟨0x9030, 0, 32, false⟩
def F.STO_POISON_COUNT : Fld := ⟨0x9034, 0, 32, false⟩
def F.STO_WRITTEN_COUNT : Fld := ⟨0x9038, 0, 32, false⟩
def F.STO_TBL_PAGE_PAGE : Fld := ⟨0x9080, 0, 10, false⟩
def F.PRT_CTL_FOLLY_EN (i : Nat) : Fld := ⟨0x20000 + 64 * i, 3, 1, true⟩
def F.PRT_CTL_TDC1_EN (i : Nat) : Fld := ⟨0x20000 + 64 * i, 2, 1, true⟩
def F.PRT_CTL_TDC0_EN (i : Nat) : Fld := ⟨0x20000 + 64 * i, 1, 1, true⟩
def F.PRT_CTL_EN (i : Nat) : Fld := ⟨0x20000 + 64 * i, 0, 1, true⟩
def F.PRT_STAT_STALL (i : Nat) : Fld := ⟨0x20004 + 64 * i, 8, 1, false⟩
def F.PRT_STAT_TDC1_LOCK (i : Nat) : Fld := ⟨0x20004 + 64 * i, 7, 1, false⟩
def F.PRT_STAT_TDC0_LOCK (i : Nat) : Fld := ⟨0x20004 + 64 * i, 6, 1, false⟩
def F.PRT_STAT_TDC1_BUSY (i : Nat) : Fld := ⟨0x20004 + 64 * i, 5, 1, false⟩
def F.PRT_STAT_TDC0_BUSY (i : Nat) : Fld := ⟨0x20004 + 64 * i, 4, 1, false⟩
def F.PRT_STAT_FIFO_LEVEL (i : Nat) : Fld := ⟨0x20004 + 64 * i, 0, 4, false⟩
def F.PRT_HITS_COUNT (i : Nat) : Fld := ⟨0x20008 + 64 * i, 0, 32, false⟩
def F.PRT_LOST_STALL (i : Nat) : Fld := ⟨0x2000C + 64 * i, 16, 16, false⟩
def F.PRT_LOST_BUSY (i : Nat) : Fld := ⟨0x2000C + 64 * i, 0, 16, false⟩
def F.PRT_FLAGCNT_SAT (i : Nat) : Fld := ⟨0x20010 + 64 * i, 16, 16, false⟩
def F.PRT_FLAGCNT_ORDER (i : Nat) : Fld := ⟨0x20010 + 64 * i, 0, 16, false⟩
def F.PRT_FIFO_HWM_LEVEL (i : Nat) : Fld := ⟨0x20014 + 64 * i, 0, 4, false⟩
def F.PRT_DLL_CODE1 (i : Nat) : Fld := ⟨0x20018 + 64 * i, 8, 8, false⟩
def F.PRT_DLL_CODE0 (i : Nat) : Fld := ⟨0x20018 + 64 * i, 0, 8, false⟩
def F.PRT_DLL_UNLOCK_COUNT (i : Nat) : Fld := ⟨0x2001C + 64 * i, 0, 32, false⟩
def F.PRT_GAIN_G (i : Nat) : Fld := ⟨0x20020 + 64 * i, 0, 13, true⟩
def F.PRT_EQ_Q_EDGE_RMS (i : Nat) : Fld := ⟨0x20024 + 64 * i, 24, 8, false⟩
def F.PRT_EQ_Q_EDGE_MEAN (i : Nat) : Fld := ⟨0x20024 + 64 * i, 16, 8, false⟩
def F.PRT_EQ_Q_UNSEEN (i : Nat) : Fld := ⟨0x20024 + 64 * i, 8, 8, false⟩
def F.PRT_EQ_Q_LIMIT (i : Nat) : Fld := ⟨0x20024 + 64 * i, 0, 8, false⟩
def F.PRT_ECAL_Q_CENTROID (i : Nat) : Fld := ⟨0x2002C + 64 * i, 16, 16, false⟩
def F.PRT_ECAL_Q_COUNT (i : Nat) : Fld := ⟨0x2002C + 64 * i, 0, 16, false⟩
def F.PRT_TP_Q_SCALE (i : Nat) : Fld := ⟨0x20030 + 64 * i, 16, 16, false⟩
def F.PRT_TP_Q_DETECT (i : Nat) : Fld := ⟨0x20030 + 64 * i, 0, 8, false⟩
def F.PRT_PTO_Q_RMS (i : Nat) : Fld := ⟨0x20034 + 64 * i, 8, 8, false⟩
def F.PRT_PTO_Q_LIMIT (i : Nat) : Fld := ⟨0x20034 + 64 * i, 0, 8, false⟩
def F.HIT_FE_CTL_GUARD_EN : Fld := ⟨0x30000, 2, 1, true⟩
def F.HIT_FE_CTL_POLARITY : Fld := ⟨0x30000, 1, 1, true⟩
def F.HIT_FE_CTL_LAWN_EN : Fld := ⟨0x30000, 0, 1, true⟩
def F.HIT_FE_THR_THR : Fld := ⟨0x30004, 0, 10, true⟩
def F.HIT_FE_BIAS_PA_BIAS : Fld := ⟨0x30008, 4, 4, true⟩
def F.HIT_FE_BIAS_IFB : Fld := ⟨0x30008, 0, 4, true⟩
def F.HIT_FE_SETTLE_FRAMES : Fld := ⟨0x3000C, 0, 8, true⟩
def F.HIT_FE_TP_COUNT : Fld := ⟨0x30010, 16, 16, true⟩
def F.HIT_FE_TP_SRC : Fld := ⟨0x30010, 12, 1, true⟩
def F.HIT_FE_TP_AMP : Fld := ⟨0x30010, 0, 12, true⟩
def F.HIT_FE_TP_SCHED_PERIOD : Fld := ⟨0x30014, 16, 16, true⟩
def F.HIT_FE_TP_SCHED_OFFSET : Fld := ⟨0x30014, 0, 12, true⟩
def F.HIT_FE_STAT_UNLOCKED : Fld := ⟨0x30018, 16, 11, false⟩
def F.HIT_FE_STAT_FOLLY_ACTIVE : Fld := ⟨0x30018, 2, 1, false⟩
def F.HIT_FE_STAT_TP_ACTIVE : Fld := ⟨0x30018, 1, 1, false⟩
def F.HIT_FE_STAT_SETTLING : Fld := ⟨0x30018, 0, 1, false⟩
def F.HIT_FE_STUCK_FRAMES : Fld := ⟨0x3001C, 0, 8, true⟩
def F.HIT_FE_STUCK_ADDR_VALID : Fld := ⟨0x30020, 16, 1, false⟩
def F.HIT_FE_STUCK_ADDR_ADDR : Fld := ⟨0x30020, 0, 16, false⟩
def F.HIT_FE_STUCK_CNT_COUNT : Fld := ⟨0x30024, 0, 32, false⟩
def F.HIT_FE_TP_CNT_COUNT : Fld := ⟨0x30028, 0, 32, false⟩
def F.HIT_FOLLY_CTL_MODE : Fld := ⟨0x30040, 0, 2, true⟩
def F.HIT_FOLLY_SPACING_TCLK : Fld := ⟨0x30044, 0, 16, true⟩
def F.HIT_FOLLY_HIT_TOT_C : Fld := ⟨0x30048, 6, 9, true⟩
def F.HIT_FOLLY_HIT_PIX : Fld := ⟨0x30048, 0, 6, true⟩
def F.HIT_FOLLY_SEED_SEED : Fld := ⟨0x3004C, 0, 32, true⟩
def F.HIT_FOLLY_COUNT_COUNT : Fld := ⟨0x30050, 0, 32, false⟩
def F.HIT_FOLLY_DROP_COUNT : Fld := ⟨0x30054, 0, 32, false⟩
def F.HIT_FB_CTL_HHIST_EN : Fld := ⟨0x30100, 2, 1, true⟩
def F.HIT_FB_CTL_RING_EN : Fld := ⟨0x30100, 1, 1, true⟩
def F.HIT_FB_CTL_STAGE_EN : Fld := ⟨0x30100, 0, 1, true⟩
def F.HIT_REORDER_WINDOW : Fld := ⟨0x30104, 0, 12, true⟩
def F.HIT_BUDGET_REC_BYTES : Fld := ⟨0x30108, 0, 20, true⟩
def F.HIT_RR_WM_HIGH : Fld := ⟨0x30114, 0, 8, true⟩
def F.HIT_RR_STAT_PRESS : Fld := ⟨0x30118, 16, 4, false⟩
def F.HIT_RR_STAT_K : Fld := ⟨0x30118, 0, 12, false⟩
def F.HIT_RR_STEPS_DOWN : Fld := ⟨0x3011C, 16, 16, false⟩
def F.HIT_RR_STEPS_UP : Fld := ⟨0x3011C, 0, 16, false⟩
def F.HIT_ACCEPT_CNT_COUNT : Fld := ⟨0x30120, 0, 32, false⟩
def F.HIT_PRESCALE_CNT_COUNT : Fld := ⟨0x30124, 0, 32, false⟩
def F.HIT_LATE_CNT_COUNT : Fld := ⟨0x30128, 0, 32, false⟩
def F.HIT_FUTURE_CNT_COUNT : Fld := ⟨0x3012C, 0, 32, false⟩
def F.HIT_ODROP_CNT_COUNT : Fld := ⟨0x30130, 0, 32, false⟩
def F.HIT_OVF_CNT_COUNT : Fld := ⟨0x30134, 0, 32, false⟩
def F.HIT_FORCED_REL_COUNT : Fld := ⟨0x30138, 0, 32, false⟩
def F.HIT_DISCARD_CNT_COUNT : Fld := ⟨0x3013C, 0, 32, false⟩
def F.HIT_HHIST_SPAN_FRAMES : Fld := ⟨0x30140, 0, 16, false⟩
def F.HIT_STORE_FILL_HWM (i : Nat) : Fld := ⟨0x301C0 + 4 * i, 8, 8, false⟩
def F.HIT_STORE_FILL_FILL (i : Nat) : Fld := ⟨0x301C0 + 4 * i, 0, 8, false⟩
def F.HIT_TW_VODD (i : Nat) : Fld := ⟨0x30200 + 4 * i, 16, 16, true⟩
def F.HIT_TW_VEVEN (i : Nat) : Fld := ⟨0x30200 + 4 * i, 0, 16, true⟩
def F.HIT_EN_EODD (i : Nat) : Fld := ⟨0x30300 + 4 * i, 16, 12, true⟩
def F.HIT_EN_EEVEN (i : Nat) : Fld := ⟨0x30300 + 4 * i, 0, 12, true⟩
def F.HIT_HEDGE_RECS_COUNT (i : Nat) : Fld := ⟨0x30400 + 8 * i, 0, 32, false⟩
def F.HIT_HEDGE_STAT_ODROP (i : Nat) : Fld := ⟨0x30404 + 8 * i, 16, 16, false⟩
def F.HIT_HEDGE_STAT_OCC_HWM (i : Nat) : Fld := ⟨0x30404 + 8 * i, 0, 9, false⟩
def F.TRG_CTL_EN : Fld := ⟨0x38000, 0, 1, true⟩
def F.TRG_STAT_PEND : Fld := ⟨0x38004, 24, 3, false⟩
def F.TRG_STAT_CAPTURING : Fld := ⟨0x38004, 16, 8, false⟩
def F.TRG_STAT_ARMED : Fld := ⟨0x38004, 8, 8, false⟩
def F.TRG_STAT_SLOTS : Fld := ⟨0x38004, 0, 5, false⟩
def F.TRG_SEQ_NEXT : Fld := ⟨0x38008, 0, 32, false⟩
def F.TRG_FIRE_COMP_FTU (i : Nat) : Fld := ⟨0x3800C + 4 * i, 0, 24, true⟩
def F.TRG_SPILL_CHUNK_FRAMES : Fld := ⟨0x38014, 0, 16, true⟩
def F.TRG_CFG_ERR_COND : Fld := ⟨0x38018, 0, 32, false⟩
def F.TRG_REC_CNT_COUNT : Fld := ⟨0x38020, 0, 32, false⟩
def F.TRG_FORCED_CNT_COUNT : Fld := ⟨0x38024, 0, 32, false⟩
def F.TRG_TRUNC_CNT_COUNT : Fld := ⟨0x38028, 0, 32, false⟩
def F.TRG_SPILL_CNT_COUNT : Fld := ⟨0x3802C, 0, 32, false⟩
def F.TRG_PRECLIP_CNT_COUNT : Fld := ⟨0x38030, 0, 32, false⟩
def F.TRG_NOROOM_CNT_COUNT : Fld := ⟨0x38034, 0, 32, false⟩
def F.TRG_FIRE_DROP_COUNT : Fld := ⟨0x38038, 0, 32, false⟩
def F.TRG_FIRE_DUP_COUNT : Fld := ⟨0x3803C, 0, 32, false⟩
def F.TRG_LATE_EV_COUNT : Fld := ⟨0x38040, 0, 32, false⟩
def F.TRG_FIRE_CNT_COUNT : Fld := ⟨0x38044, 0, 32, false⟩
def F.TRG_CCFG_TYPE (i : Nat) : Fld := ⟨0x38100 + 16 * i, 28, 4, true⟩
def F.TRG_CCFG_NOTEST (i : Nat) : Fld := ⟨0x38100 + 16 * i, 24, 1, true⟩
def F.TRG_CCFG_N (i : Nat) : Fld := ⟨0x38100 + 16 * i, 0, 16, true⟩
def F.TRG_CP1_VALUE (i : Nat) : Fld := ⟨0x38104 + 16 * i, 0, 32, true⟩
def F.TRG_CP2_VALUE (i : Nat) : Fld := ⟨0x38108 + 16 * i, 0, 32, true⟩
def F.TRG_CP3_EMAX (i : Nat) : Fld := ⟨0x3810C + 16 * i, 16, 12, true⟩
def F.TRG_CP3_EMIN (i : Nat) : Fld := ⟨0x3810C + 16 * i, 0, 12, true⟩
def F.TRG_MET_COUNT (i : Nat) : Fld := ⟨0x38300 + 4 * i, 0, 32, false⟩
def F.TRG_OUT_CTL_EN (i : Nat) : Fld := ⟨0x38400 + 64 * i, 31, 1, true⟩
def F.TRG_OUT_CTL_ARM_MODE (i : Nat) : Fld := ⟨0x38400 + 64 * i, 30, 1, true⟩
def F.TRG_OUT_CTL_RING_EN (i : Nat) : Fld := ⟨0x38400 + 64 * i, 29, 1, true⟩
def F.TRG_OUT_CTL_STORE_EN (i : Nat) : Fld := ⟨0x38400 + 64 * i, 28, 1, true⟩
def F.TRG_OUT_CTL_STREAM_EN (i : Nat) : Fld := ⟨0x38400 + 64 * i, 27, 1, true⟩
def F.TRG_OUT_CTL_HSEL (i : Nat) : Fld := ⟨0x38400 + 64 * i, 26, 1, true⟩
def F.TRG_OUT_CTL_XSEL (i : Nat) : Fld := ⟨0x38400 + 64 * i, 25, 1, true⟩
def F.TRG_OUT_CTL_HFILT_EN (i : Nat) : Fld := ⟨0x38400 + 64 * i, 24, 1, true⟩
def F.TRG_OUT_CTL_WSEL (i : Nat) : Fld := ⟨0x38400 + 64 * i, 20, 4, true⟩
def F.TRG_OUT_CTL_HFILT (i : Nat) : Fld := ⟨0x38400 + 64 * i, 0, 5, true⟩
def F.TRG_OUT_TERM0_SLOTS (i : Nat) : Fld := ⟨0x38404 + 64 * i, 0, 24, true⟩
def F.TRG_OUT_TERM1_SLOTS (i : Nat) : Fld := ⟨0x38408 + 64 * i, 0, 24, true⟩
def F.TRG_OUT_TERM2_SLOTS (i : Nat) : Fld := ⟨0x3840C + 64 * i, 0, 24, true⟩
def F.TRG_OUT_TERM3_SLOTS (i : Nat) : Fld := ⟨0x38410 + 64 * i, 0, 24, true⟩
def F.TRG_OUT_AWIN_FTU (i : Nat) : Fld := ⟨0x38414 + 64 * i, 0, 18, true⟩
def F.TRG_OUT_PRE_TCLK (i : Nat) : Fld := ⟨0x38418 + 64 * i, 0, 32, true⟩
def F.TRG_OUT_POST_TCLK (i : Nat) : Fld := ⟨0x3841C + 64 * i, 0, 32, true⟩
def F.TRG_OUT_AUTO_FRAMES (i : Nat) : Fld := ⟨0x38420 + 64 * i, 0, 24, true⟩
def F.TRG_OUT_LIMIT_UNITS (i : Nat) : Fld := ⟨0x38424 + 64 * i, 0, 16, true⟩
def F.TRG_OUT_ARM_STAT_ARM_ID (i : Nat) : Fld := ⟨0x38428 + 64 * i, 16, 16, false⟩
def F.TRG_OUT_ARM_STAT_COUNT (i : Nat) : Fld := ⟨0x38428 + 64 * i, 0, 8, false⟩
def F.TRG_OUT_REC_CNT_COUNT (i : Nat) : Fld := ⟨0x3842C + 64 * i, 0, 32, false⟩
def F.TRG_OUT_RETRIG_CNT_COUNT (i : Nat) : Fld := ⟨0x38430 + 64 * i, 0, 32, false⟩
def F.TRG_OUT_LAST_SEQ_SEQ (i : Nat) : Fld := ⟨0x38434 + 64 * i, 0, 32, false⟩
def F.WAV_CTL_CH_EN : Fld := ⟨0x40000, 4, 4, true⟩
def F.WAV_CTL_MODE : Fld := ⟨0x40000, 0, 2, true⟩
def F.WAV_STAT_CFG_ERR : Fld := ⟨0x40004, 24, 4, false⟩
def F.WAV_STAT_SETTLING : Fld := ⟨0x40004, 20, 4, false⟩
def F.WAV_STAT_ACTIVE : Fld := ⟨0x40004, 16, 4, false⟩
def F.WAV_STAT_OWNER : Fld := ⟨0x40004, 0, 16, false⟩
def F.WAV_SETTLE_FRAMES : Fld := ⟨0x40008, 0, 8, true⟩
def F.WAV_FOLLY_CTL_STEP : Fld := ⟨0x40010, 16, 16, true⟩
def F.WAV_FOLLY_CTL_CHMASK : Fld := ⟨0x40010, 4, 4, true⟩
def F.WAV_FOLLY_CTL_MODE : Fld := ⟨0x40010, 0, 2, true⟩
def F.WAV_FOLLY_LVL_AMP : Fld := ⟨0x40014, 16, 16, true⟩
def F.WAV_FOLLY_LVL_BASE : Fld := ⟨0x40014, 0, 16, true⟩
def F.WAV_FOLLY_SHAPE_PERIOD : Fld := ⟨0x40018, 16, 16, true⟩
def F.WAV_FOLLY_SHAPE_WIDTH : Fld := ⟨0x40018, 0, 16, true⟩
def F.WAV_CH_CFG_DEC (i : Nat) : Fld := ⟨0x40100 + 32 * i, 7, 1, true⟩
def F.WAV_CH_CFG_ALIGN (i : Nat) : Fld := ⟨0x40100 + 32 * i, 6, 1, true⟩
def F.WAV_CH_CFG_TERM (i : Nat) : Fld := ⟨0x40100 + 32 * i, 5, 1, true⟩
def F.WAV_CH_CFG_SE (i : Nat) : Fld := ⟨0x40100 + 32 * i, 4, 1, true⟩
def F.WAV_CH_DELAY_FTU (i : Nat) : Fld := ⟨0x40104 + 32 * i, 0, 16, true⟩
def F.WAV_CH_SAMP_COUNT (i : Nat) : Fld := ⟨0x40108 + 32 * i, 0, 32, false⟩
def F.WAV_CH_OVR_COUNT (i : Nat) : Fld := ⟨0x4010C + 32 * i, 0, 32, false⟩
def F.WAV_CH_DROP_HOLD (i : Nat) : Fld := ⟨0x40110 + 32 * i, 16, 16, false⟩
def F.WAV_CH_DROP_SLIP (i : Nat) : Fld := ⟨0x40110 + 32 * i, 0, 16, false⟩
def F.WAV_CH_SPAN_FRAMES (i : Nat) : Fld := ⟨0x40114 + 32 * i, 0, 16, false⟩
def F.XDC_SEQ_CTL_PERIOD : Fld := ⟨0x48000, 16, 16, true⟩
def F.XDC_SEQ_CTL_MARK : Fld := ⟨0x48000, 3, 1, true⟩
def F.XDC_SEQ_CTL_AUTO_EXT : Fld := ⟨0x48000, 2, 1, true⟩
def F.XDC_SEQ_CTL_PROFILE : Fld := ⟨0x48000, 0, 2, true⟩
def F.XDC_STAT_CUR : Fld := ⟨0x48004, 17, 6, false⟩
def F.XDC_STAT_RUN : Fld := ⟨0x48004, 16, 1, false⟩
def F.XDC_STAT_URG_PEND : Fld := ⟨0x48004, 12, 4, false⟩
def F.XDC_STAT_PROFILE : Fld := ⟨0x48004, 0, 2, false⟩
def F.XDC_URG_EN (i : Nat) : Fld := ⟨0x48010 + 4 * i, 31, 1, true⟩
def F.XDC_URG_SRC (i : Nat) : Fld := ⟨0x48010 + 4 * i, 25, 2, true⟩
def F.XDC_URG_SEL (i : Nat) : Fld := ⟨0x48010 + 4 * i, 22, 3, true⟩
def F.XDC_URG_ENTRY (i : Nat) : Fld := ⟨0x48010 + 4 * i, 0, 6, true⟩
def F.XDC_VREF_INT_VALUE : Fld := ⟨0x48024, 0, 32, false⟩
def F.XDC_VREF_EXT_VALUE : Fld := ⟨0x48028, 0, 32, true⟩
def F.XDC_LIN_CTL_TAGE : Fld := ⟨0x4802C, 0, 16, true⟩
def F.XDC_CFG_ERR_LO_ENTRY : Fld := ⟨0x48030, 0, 32, false⟩
def F.XDC_CFG_ERR_HI_ENTRY : Fld := ⟨0x48034, 0, 32, false⟩
def F.XDC_OPEN_LO_ENTRY : Fld := ⟨0x48038, 0, 32, false⟩
def F.XDC_OPEN_HI_ENTRY : Fld := ⟨0x4803C, 0, 32, false⟩
def F.XDC_RESULT_CNT_COUNT : Fld := ⟨0x48040, 0, 32, false⟩
def F.XDC_DISCARD_CNT_COUNT : Fld := ⟨0x48044, 0, 32, false⟩
def F.XDC_OVR_CNT_COUNT : Fld := ⟨0x48048, 0, 32, false⟩
def F.XDC_OPEN_CNT_COUNT : Fld := ⟨0x4804C, 0, 32, false⟩
def F.XDC_URG_CNT_COUNT : Fld := ⟨0x48050, 0, 32, false⟩
def F.XDC_URG_OVR_COUNT : Fld := ⟨0x48054, 0, 32, false⟩
def F.XDC_PREEMPT_CNT_COUNT : Fld := ⟨0x48058, 0, 32, false⟩
def F.XDC_ABANDON_CNT_COUNT : Fld := ⟨0x4805C, 0, 32, false⟩
def F.XDC_SKIP_CNT_COUNT : Fld := ⟨0x48060, 0, 32, false⟩
def F.XDC_ROUTE_EN (i : Nat) : Fld := ⟨0x48400 + 16 * i, 31, 1, true⟩
def F.XDC_ROUTE_URG_ONLY (i : Nat) : Fld := ⟨0x48400 + 16 * i, 30, 1, true⟩
def F.XDC_ROUTE_NEGSEL (i : Nat) : Fld := ⟨0x48400 + 16 * i, 28, 2, true⟩
def F.XDC_ROUTE_EXC (i : Nat) : Fld := ⟨0x48400 + 16 * i, 26, 2, true⟩
def F.XDC_ROUTE_SINK_EN (i : Nat) : Fld := ⟨0x48400 + 16 * i, 25, 1, true⟩
def F.XDC_ROUTE_BIAS_EN (i : Nat) : Fld := ⟨0x48400 + 16 * i, 24, 1, true⟩
def F.XDC_ROUTE_BIAS (i : Nat) : Fld := ⟨0x48400 + 16 * i, 20, 4, true⟩
def F.XDC_ROUTE_SINK (i : Nat) : Fld := ⟨0x48400 + 16 * i, 16, 4, true⟩
def F.XDC_ROUTE_SRC2 (i : Nat) : Fld := ⟨0x48400 + 16 * i, 12, 4, true⟩
def F.XDC_ROUTE_SRC (i : Nat) : Fld := ⟨0x48400 + 16 * i, 8, 4, true⟩
def F.XDC_ROUTE_NEG (i : Nat) : Fld := ⟨0x48400 + 16 * i, 4, 4, true⟩
def F.XDC_ROUTE_POS (i : Nat) : Fld := ⟨0x48400 + 16 * i, 0, 4, true⟩
def F.XDC_CONV_OSR (i : Nat) : Fld := ⟨0x48404 + 16 * i, 24, 4, true⟩
def F.XDC_CONV_GAIN (i : Nat) : Fld := ⟨0x48404 + 16 * i, 20, 3, true⟩
def F.XDC_CONV_REFSEL (i : Nat) : Fld := ⟨0x48404 + 16 * i, 19, 1, true⟩
def F.XDC_CONV_BURNOUT (i : Nat) : Fld := ⟨0x48404 + 16 * i, 18, 1, true⟩
def F.XDC_CONV_SETTLE (i : Nat) : Fld := ⟨0x48404 + 16 * i, 0, 16, true⟩
def F.XDC_EXC_PW (i : Nat) : Fld := ⟨0x48408 + 16 * i, 16, 16, true⟩
def F.XDC_EXC_IB (i : Nat) : Fld := ⟨0x48408 + 16 * i, 8, 8, true⟩
def F.XDC_EXC_IA (i : Nat) : Fld := ⟨0x48408 + 16 * i, 0, 8, true⟩
def F.XDC_OUT_LIN_EN (i : Nat) : Fld := ⟨0x4840C + 16 * i, 31, 1, true⟩
def F.XDC_OUT_TABLE (i : Nat) : Fld := ⟨0x4840C + 16 * i, 26, 5, true⟩
def F.XDC_OUT_TEMP_EN (i : Nat) : Fld := ⟨0x4840C + 16 * i, 25, 1, true⟩
def F.XDC_OUT_TEMP_ENTRY (i : Nat) : Fld := ⟨0x4840C + 16 * i, 19, 6, true⟩
def F.XDC_OUT_SCALE (i : Nat) : Fld := ⟨0x4840C + 16 * i, 17, 2, true⟩
def F.XDC_OUT_HIST (i : Nat) : Fld := ⟨0x4840C + 16 * i, 16, 1, true⟩
def F.XDC_RES_LO_FLAGS (i : Nat) : Fld := ⟨0x48800 + 8 * i, 24, 8, false⟩
def F.XDC_RES_LO_RAW (i : Nat) : Fld := ⟨0x48800 + 8 * i, 0, 24, false⟩
def F.XDC_RES_HI_LIN (i : Nat) : Fld := ⟨0x48804 + 8 * i, 0, 32, false⟩
def F.TIP_TI_CFG_EN (i : Nat) : Fld := ⟨0x60000 + 4 * i, 31, 1, true⟩
def F.TIP_TI_CFG_STD (i : Nat) : Fld := ⟨0x60000 + 4 * i, 30, 1, true⟩
def F.TIP_TI_CFG_TERM (i : Nat) : Fld := ⟨0x60000 + 4 * i, 29, 1, true⟩
def F.TIP_TI_CFG_PRESC (i : Nat) : Fld := ⟨0x60000 + 4 * i, 0, 4, true⟩
def F.TIP_TI_DELAY_FTU (i : Nat) : Fld := ⟨0x60020 + 4 * i, 0, 16, true⟩
def F.TIP_TI_LOST_COUNT (i : Nat) : Fld := ⟨0x60040 + 4 * i, 0, 32, false⟩
def F.TIP_CFG_ERR_CH : Fld := ⟨0x60060, 8, 4, false⟩
def F.TIP_CFG_ERR_PO : Fld := ⟨0x60060, 0, 8, false⟩
def F.TIP_FTO_CTL_EN : Fld := ⟨0x60064, 31, 1, true⟩
def F.TIP_FTO_CTL_SEC_MARK : Fld := ⟨0x60064, 30, 1, true⟩
def F.TIP_FTO_CTL_DIV : Fld := ⟨0x60064, 0, 4, true⟩
def F.TIP_CH_CTL_EN (i : Nat) : Fld := ⟨0x60100 + 128 * i, 31, 1, true⟩
def F.TIP_CH_CTL_HIST (i : Nat) : Fld := ⟨0x60100 + 128 * i, 30, 1, true⟩
def F.TIP_CH_CTL_SHIST (i : Nat) : Fld := ⟨0x60100 + 128 * i, 29, 1, true⟩
def F.TIP_CH_CTL_MODE (i : Nat) : Fld := ⟨0x60100 + 128 * i, 26, 2, true⟩
def F.TIP_CH_CTL_PEDGE (i : Nat) : Fld := ⟨0x60100 + 128 * i, 12, 2, true⟩
def F.TIP_CH_CTL_STOP (i : Nat) : Fld := ⟨0x60100 + 128 * i, 8, 3, true⟩
def F.TIP_CH_CTL_SEDGE (i : Nat) : Fld := ⟨0x60100 + 128 * i, 4, 2, true⟩
def F.TIP_CH_CTL_START (i : Nat) : Fld := ⟨0x60100 + 128 * i, 0, 3, true⟩
def F.TIP_CH_NSTAT_N (i : Nat) : Fld := ⟨0x60104 + 128 * i, 0, 25, true⟩
def F.TIP_CH_TMO_FRAMES (i : Nat) : Fld := ⟨0x60108 + 128 * i, 0, 24, true⟩
def F.TIP_CH_GATE_FRAMES (i : Nat) : Fld := ⟨0x6010C + 128 * i, 0, 24, true⟩
def F.TIP_CH_LAST_LO_VALUE (i : Nat) : Fld := ⟨0x60110 + 128 * i, 0, 32, false⟩
def F.TIP_CH_LAST_HI_VALUE (i : Nat) : Fld := ⟨0x60114 + 128 * i, 0, 32, false⟩
def F.TIP_CH_MEAN_LO_MEAN (i : Nat) : Fld := ⟨0x60118 + 128 * i, 0, 32, false⟩
def F.TIP_CH_MEAN_HI_MEAN (i : Nat) : Fld := ⟨0x6011C + 128 * i, 0, 32, false⟩
def F.TIP_CH_DEV_DEV (i : Nat) : Fld := ⟨0x60120 + 128 * i, 0, 32, false⟩
def F.TIP_CH_MIN_LO_MIN (i : Nat) : Fld := ⟨0x60124 + 128 * i, 0, 32, false⟩
def F.TIP_CH_MIN_HI_MIN (i : Nat) : Fld := ⟨0x60128 + 128 * i, 0, 32, false⟩
def F.TIP_CH_MAX_LO_MAX (i : Nat) : Fld := ⟨0x6012C + 128 * i, 0, 32, false⟩
def F.TIP_CH_MAX_HI_MAX (i : Nat) : Fld := ⟨0x60130 + 128 * i, 0, 32, false⟩
def F.TIP_CH_STAT_N_N (i : Nat) : Fld := ⟨0x60134 + 128 * i, 0, 25, false⟩
def F.TIP_CH_RESULTS_COUNT (i : Nat) : Fld := ⟨0x60138 + 128 * i, 0, 32, false⟩
def F.TIP_CH_STOP_EARLY_COUNT (i : Nat) : Fld := ⟨0x6013C + 128 * i, 0, 32, false⟩
def F.TIP_CH_SUB_RES_COUNT (i : Nat) : Fld := ⟨0x60140 + 128 * i, 0, 32, false⟩
def F.TIP_CH_REARM_COUNT (i : Nat) : Fld := ⟨0x60144 + 128 * i, 0, 32, false⟩
def F.TIP_CH_TIMEOUT_COUNT (i : Nat) : Fld := ⟨0x60148 + 128 * i, 0, 32, false⟩
def F.TIP_CH_STATS_COUNT (i : Nat) : Fld := ⟨0x6014C + 128 * i, 0, 32, false⟩
def F.TIP_PO_CTL_EN (i : Nat) : Fld := ⟨0x60400 + 64 * i, 31, 1, true⟩
def F.TIP_PO_CTL_PERIODIC (i : Nat) : Fld := ⟨0x60400 + 64 * i, 30, 1, true⟩
def F.TIP_PO_CTL_POL (i : Nat) : Fld := ⟨0x60400 + 64 * i, 29, 1, true⟩
def F.TIP_PO_CTL_WIDTH (i : Nat) : Fld := ⟨0x60400 + 64 * i, 0, 24, true⟩
def F.TIP_PO_TIME0_TIME (i : Nat) : Fld := ⟨0x60404 + 64 * i, 0, 32, true⟩
def F.TIP_PO_TIME1_TIME (i : Nat) : Fld := ⟨0x60408 + 64 * i, 0, 32, true⟩
def F.TIP_PO_TIME2_TIME (i : Nat) : Fld := ⟨0x6040C + 64 * i, 0, 32, true⟩
def F.TIP_PO_TIME3_TIME (i : Nat) : Fld := ⟨0x60410 + 64 * i, 0, 32, true⟩
def F.TIP_PO_PERIOD_LO_STEPS (i : Nat) : Fld := ⟨0x60414 + 64 * i, 0, 32, true⟩
def F.TIP_PO_PERIOD_HI_STEPS (i : Nat) : Fld := ⟨0x60418 + 64 * i, 0, 12, true⟩
def F.TIP_PO_COUNT_COUNT (i : Nat) : Fld := ⟨0x6041C + 64 * i, 0, 32, true⟩
def F.TIP_PO_FIRED_COUNT (i : Nat) : Fld := ⟨0x60420 + 64 * i, 0, 32, false⟩
def F.TIP_PO_MISSED_COUNT (i : Nat) : Fld := ⟨0x60424 + 64 * i, 0, 32, false⟩
def F.TIP_PO_DELAY_STEPS (i : Nat) : Fld := ⟨0x60428 + 64 * i, 0, 16, true⟩
def F.CAL_CTL_EN : Fld := ⟨0x70000, 31, 1, true⟩
def F.CAL_CTL_QFORCE : Fld := ⟨0x70000, 30, 1, true⟩
def F.CAL_STAT_PENDING : Fld := ⟨0x70004, 16, 8, false⟩
def F.CAL_STAT_RUNNING : Fld := ⟨0x70004, 8, 8, false⟩
def F.CAL_STAT_QUIET : Fld := ⟨0x70004, 0, 1, false⟩
def F.CAL_QUIET_FRAMES : Fld := ⟨0x70008, 16, 16, true⟩
def F.CAL_QUIET_HITS : Fld := ⟨0x70008, 0, 16, true⟩
def F.CAL_RAMP_GSTEP : Fld := ⟨0x7000C, 24, 8, true⟩
def F.CAL_RAMP_PIX : Fld := ⟨0x7000C, 16, 8, true⟩
def F.CAL_RAMP_FRAMES : Fld := ⟨0x7000C, 0, 16, true⟩
def F.CAL_TBL_PAGE_PAGE : Fld := ⟨0x70010, 0, 7, false⟩
def F.CAL_TAKEN_CNT_COUNT : Fld := ⟨0x70014, 0, 32, false⟩
def F.CAL_OVERRIDE_CNT_COUNT : Fld := ⟨0x70018, 0, 32, false⟩
def F.CAL_INTR_CNT_COUNT : Fld := ⟨0x7001C, 0, 32, false⟩
def F.CAL_P_CTL_AUTO (i : Nat) : Fld := ⟨0x70100 + 16 * i, 31, 1, true⟩
def F.CAL_P_CTL_INTERVAL (i : Nat) : Fld := ⟨0x70100 + 16 * i, 0, 24, true⟩
def F.CAL_P_MAX_FRAMES (i : Nat) : Fld := ⟨0x70104 + 16 * i, 0, 24, true⟩
def F.CAL_P_STAT_RESULT (i : Nat) : Fld := ⟨0x70108 + 16 * i, 28, 4, false⟩
def F.CAL_P_STAT_RUNNING (i : Nat) : Fld := ⟨0x70108 + 16 * i, 27, 1, false⟩
def F.CAL_P_STAT_PENDING (i : Nat) : Fld := ⟨0x70108 + 16 * i, 26, 1, false⟩
def F.CAL_P_STAT_FALLBACK (i : Nat) : Fld := ⟨0x70108 + 16 * i, 25, 1, false⟩
def F.CAL_P_STAT_RUNS (i : Nat) : Fld := ⟨0x70108 + 16 * i, 0, 16, false⟩
def F.CAL_P_AGE_FRAMES (i : Nat) : Fld := ⟨0x7010C + 16 * i, 0, 32, false⟩
def F.CAL_THEQ_CFG_PROBE : Fld := ⟨0x70200, 24, 8, true⟩
def F.CAL_THEQ_CFG_DWELL : Fld := ⟨0x70200, 16, 8, true⟩
def F.CAL_THEQ_CFG_COUNT : Fld := ⟨0x70200, 0, 16, true⟩
def F.CAL_TDC_CFG_HITS : Fld := ⟨0x70204, 0, 24, true⟩
def F.CAL_TW_CFG_MINPAIRS : Fld := ⟨0x70208, 16, 16, true⟩
def F.CAL_TW_CFG_PAIRWIN : Fld := ⟨0x70208, 0, 16, true⟩
def F.CAL_TW_REF_REF_HI : Fld := ⟨0x7020C, 16, 12, true⟩
def F.CAL_TW_REF_REF_LO : Fld := ⟨0x7020C, 0, 12, true⟩
def F.CAL_ECAL_LINE_ISOLATED : Fld := ⟨0x70210, 16, 1, true⟩
def F.CAL_ECAL_LINE_LINE : Fld := ⟨0x70210, 0, 12, true⟩
def F.CAL_ECAL_WIN_WHI : Fld := ⟨0x70214, 16, 12, true⟩
def F.CAL_ECAL_WIN_WLO : Fld := ⟨0x70214, 0, 12, true⟩
def F.CAL_ECAL_HITS_HITS : Fld := ⟨0x70218, 0, 24, true⟩
def F.CAL_PULSE_CFG_AMP : Fld := ⟨0x7021C, 16, 12, true⟩
def F.CAL_PULSE_CFG_PULSES : Fld := ⟨0x7021C, 8, 8, true⟩
def F.CAL_PULSE_CFG_SRC : Fld := ⟨0x7021C, 0, 1, true⟩
def F.CAL_SLICE_CFG_EXT : Fld := ⟨0x70220, 31, 1, true⟩
def F.CAL_SLICE_CFG_EXT_FRAMES : Fld := ⟨0x70220, 16, 8, true⟩
def F.CAL_SLICE_CFG_WIN : Fld := ⟨0x70220, 8, 8, true⟩
def F.CAL_SLICE_CFG_MINRMS : Fld := ⟨0x70220, 0, 8, true⟩
def F.CAL_TICD_CFG_HITS : Fld := ⟨0x70224, 0, 24, true⟩
def F.CAL_TW_Q_NODATA : Fld := ⟨0x70228, 8, 8, false⟩
def F.CAL_TW_Q_UPDATED : Fld := ⟨0x70228, 0, 8, false⟩
def F.CAL_SL_TRIM_SKEW (i : Nat) : Fld := ⟨0x70300 + 8 * i, 20, 10, true⟩
def F.CAL_SL_TRIM_GAIN (i : Nat) : Fld := ⟨0x70300 + 8 * i, 10, 10, true⟩
def F.CAL_SL_TRIM_OFFSET (i : Nat) : Fld := ⟨0x70300 + 8 * i, 0, 10, true⟩
def F.CAL_SL_Q_CONVERGED (i : Nat) : Fld := ⟨0x70304 + 8 * i, 31, 1, false⟩
def F.CAL_SL_Q_STALE (i : Nat) : Fld := ⟨0x70304 + 8 * i, 30, 1, false⟩
def F.CAL_SL_Q_SPUR (i : Nat) : Fld := ⟨0x70304 + 8 * i, 0, 8, false⟩
def F.CAL_WAV_AP_STALE (i : Nat) : Fld := ⟨0x70380 + 4 * i, 31, 1, false⟩
def F.CAL_WAV_AP_FTU (i : Nat) : Fld := ⟨0x70380 + 4 * i, 0, 16, true⟩
def F.LOOP_CTL_EN : Fld := ⟨0x80000, 31, 1, true⟩
def F.LOOP_CTL_FORCE_B : Fld := ⟨0x80000, 1, 1, false⟩
def F.LOOP_CTL_FORCE_A : Fld := ⟨0x80000, 0, 1, false⟩
def F.LOOP_SAFE_STAT_MET : Fld := ⟨0x80004, 16, 16, false⟩
def F.LOOP_SAFE_STAT_ASSERT : Fld := ⟨0x80004, 0, 16, false⟩
def F.LOOP_SAFE_LATCH_LATCH : Fld := ⟨0x80008, 0, 16, false⟩
def F.LOOP_PIN_STAT_SENSE_B : Fld := ⟨0x8000C, 3, 1, false⟩
def F.LOOP_PIN_STAT_SENSE_A : Fld := ⟨0x8000C, 2, 1, false⟩
def F.LOOP_PIN_STAT_DRIVE_B : Fld := ⟨0x8000C, 1, 1, false⟩
def F.LOOP_PIN_STAT_DRIVE_A : Fld := ⟨0x8000C, 0, 1, false⟩
def F.LOOP_ACT_SEQ_SEQ : Fld := ⟨0x80010, 0, 16, false⟩
def F.LOOP_STOP_SEQ_SEQ : Fld := ⟨0x80014, 0, 16, false⟩
def F.LOOP_ACT_CNT_COUNT : Fld := ⟨0x80018, 0, 32, false⟩
def F.LOOP_ACT_DROP_COUNT : Fld := ⟨0x8001C, 0, 32, false⟩
def F.LOOP_STOP_CNT_COUNT : Fld := ⟨0x80020, 0, 32, false⟩
def F.LOOP_HOLD_CNT_COUNT : Fld := ⟨0x80024, 0, 32, false⟩
def F.LOOP_ACK_REFUSE_COUNT : Fld := ⟨0x80028, 0, 32, false⟩
def F.LOOP_MERR_M (i : Nat) : Fld := ⟨0x80030 + 4 * i, 0, 32, false⟩
def F.LOOP_LERR_LO_L : Fld := ⟨0x80040, 0, 32, false⟩
def F.LOOP_LERR_HI_L : Fld := ⟨0x80044, 0, 32, false⟩
def F.LOOP_SERR_SC : Fld := ⟨0x80048, 0, 16, false⟩
def F.LOOP_MVALID_V (i : Nat) : Fld := ⟨0x80050 + 4 * i, 0, 32, false⟩
def F.LOOP_M_CFG_TYPE (i : Nat) : Fld := ⟨0x80100 + 16 * i, 28, 4, true⟩
def F.LOOP_M_CFG_SHIFT (i : Nat) : Fld := ⟨0x80100 + 16 * i, 23, 5, true⟩
def F.LOOP_M_CFG_NOTEST (i : Nat) : Fld := ⟨0x80100 + 16 * i, 22, 1, true⟩
def F.LOOP_M_CFG_EWIN (i : Nat) : Fld := ⟨0x80100 + 16 * i, 21, 1, true⟩
def F.LOOP_M_CFG_STAT (i : Nat) : Fld := ⟨0x80100 + 16 * i, 19, 2, true⟩
def F.LOOP_M_CFG_RW (i : Nat) : Fld := ⟨0x80100 + 16 * i, 16, 3, true⟩
def F.LOOP_M_P1_RMAX (i : Nat) : Fld := ⟨0x80104 + 16 * i, 24, 8, true⟩
def F.LOOP_M_P1_RMIN (i : Nat) : Fld := ⟨0x80104 + 16 * i, 16, 8, true⟩
def F.LOOP_M_P1_CMAX (i : Nat) : Fld := ⟨0x80104 + 16 * i, 8, 8, true⟩
def F.LOOP_M_P1_CMIN (i : Nat) : Fld := ⟨0x80104 + 16 * i, 0, 8, true⟩
def F.LOOP_M_P2_EMAX (i : Nat) : Fld := ⟨0x80108 + 16 * i, 16, 12, true⟩
def F.LOOP_M_P2_AGEHI (i : Nat) : Fld := ⟨0x80108 + 16 * i, 12, 4, true⟩
def F.LOOP_M_P2_EMIN (i : Nat) : Fld := ⟨0x80108 + 16 * i, 0, 12, true⟩
def F.LOOP_M_P3_SEL (i : Nat) : Fld := ⟨0x8010C + 16 * i, 24, 6, true⟩
def F.LOOP_M_P3_B (i : Nat) : Fld := ⟨0x8010C + 16 * i, 8, 7, true⟩
def F.LOOP_M_P3_A (i : Nat) : Fld := ⟨0x8010C + 16 * i, 0, 7, true⟩
def F.LOOP_M_FRAME_VALUE (i : Nat) : Fld := ⟨0x80900 + 8 * i, 0, 32, false⟩
def F.LOOP_M_RUN_VALUE (i : Nat) : Fld := ⟨0x80904 + 8 * i, 0, 32, false⟩
def F.LOOP_L_CFG_EN (i : Nat) : Fld := ⟨0x81000 + 64 * i, 31, 1, true⟩
def F.LOOP_L_CFG_DIR (i : Nat) : Fld := ⟨0x81000 + 64 * i, 30, 1, true⟩
def F.LOOP_L_CFG_URGENT (i : Nat) : Fld := ⟨0x81000 + 64 * i, 29, 1, true⟩
def F.LOOP_L_CFG_ONCHG (i : Nat) : Fld := ⟨0x81000 + 64 * i, 28, 1, true⟩
def F.LOOP_L_CFG_EMITDIV (i : Nat) : Fld := ⟨0x81000 + 64 * i, 24, 4, true⟩
def F.LOOP_L_CFG_GATE_EN (i : Nat) : Fld := ⟨0x81000 + 64 * i, 23, 1, true⟩
def F.LOOP_L_CFG_GATE (i : Nat) : Fld := ⟨0x81000 + 64 * i, 16, 7, true⟩
def F.LOOP_L_CFG_MEAS (i : Nat) : Fld := ⟨0x81000 + 64 * i, 0, 7, true⟩
def F.LOOP_L_SETPOINT_VALUE (i : Nat) : Fld := ⟨0x81004 + 64 * i, 0, 32, true⟩
def F.LOOP_L_KP_VALUE (i : Nat) : Fld := ⟨0x81008 + 64 * i, 0, 32, true⟩
def F.LOOP_L_KI_VALUE (i : Nat) : Fld := ⟨0x8100C + 64 * i, 0, 32, true⟩
def F.LOOP_L_OUTMIN_VALUE (i : Nat) : Fld := ⟨0x81010 + 64 * i, 0, 32, true⟩
def F.LOOP_L_OUTMAX_VALUE (i : Nat) : Fld := ⟨0x81014 + 64 * i, 0, 32, true⟩
def F.LOOP_L_SLEW_VALUE (i : Nat) : Fld := ⟨0x81018 + 64 * i, 0, 32, true⟩
def F.LOOP_L_DEADBAND_VALUE (i : Nat) : Fld := ⟨0x8101C + 64 * i, 0, 32, true⟩
def F.LOOP_L_BIAS_VALUE (i : Nat) : Fld := ⟨0x81020 + 64 * i, 0, 32, true⟩
def F.LOOP_L_SEG_SEGMENT (i : Nat) : Fld := ⟨0x81024 + 64 * i, 0, 16, true⟩
def F.LOOP_L_GTHR_VALUE (i : Nat) : Fld := ⟨0x81028 + 64 * i, 0, 32, true⟩
def F.LOOP_L_PRESET_VALUE (i : Nat) : Fld := ⟨0x8102C + 64 * i, 0, 32, true⟩
def F.LOOP_L_INTEG_I (i : Nat) : Fld := ⟨0x81030 + 64 * i, 0, 32, false⟩
def F.LOOP_L_OUT_OUT (i : Nat) : Fld := ⟨0x81034 + 64 * i, 0, 32, false⟩
def F.LOOP_L_STAT_FLAGS (i : Nat) : Fld := ⟨0x81038 + 64 * i, 0, 8, false⟩
def F.LOOP_SC_CFG_TYPE (i : Nat) : Fld := ⟨0x82000 + 16 * i, 28, 4, true⟩
def F.LOOP_SC_CFG_PIN_A (i : Nat) : Fld := ⟨0x82000 + 16 * i, 27, 1, true⟩
def F.LOOP_SC_CFG_PIN_B (i : Nat) : Fld := ⟨0x82000 + 16 * i, 26, 1, true⟩
def F.LOOP_SC_CFG_STOP_EN (i : Nat) : Fld := ⟨0x82000 + 16 * i, 25, 1, true⟩
def F.LOOP_SC_CFG_LATCH (i : Nat) : Fld := ⟨0x82000 + 16 * i, 24, 1, true⟩
def F.LOOP_SC_CFG_HOLDLOOPS (i : Nat) : Fld := ⟨0x82000 + 16 * i, 23, 1, true⟩
def F.LOOP_SC_CFG_MEAS (i : Nat) : Fld := ⟨0x82000 + 16 * i, 0, 7, true⟩
def F.LOOP_SC_THR_THR (i : Nat) : Fld := ⟨0x82004 + 16 * i, 0, 32, true⟩
def F.LOOP_SC_MIN_FRAMES (i : Nat) : Fld := ⟨0x82008 + 16 * i, 0, 16, true⟩
def F.LOOP_SC_CNT_COUNT (i : Nat) : Fld := ⟨0x8200C + 16 * i, 0, 32, false⟩
def F.CMP_CTL_EN : Fld := ⟨0x90000, 31, 1, true⟩
def F.CMP_STAT_CFG_ERR : Fld := ⟨0x90004, 16, 16, false⟩
def F.CMP_STAT_BACKLOG : Fld := ⟨0x90004, 0, 16, false⟩
def F.CMP_DICT_OWNER_USED (i : Nat) : Fld := ⟨0x90010 + 4 * i, 4, 1, false⟩
def F.CMP_DICT_OWNER_CH (i : Nat) : Fld := ⟨0x90010 + 4 * i, 0, 4, false⟩
def F.CMP_POISON_CNT_COUNT : Fld := ⟨0x90050, 0, 32, false⟩
def F.CMP_CH_CFG_EN (i : Nat) : Fld := ⟨0x90100 + 64 * i, 31, 1, true⟩
def F.CMP_CH_CFG_SRC (i : Nat) : Fld := ⟨0x90100 + 64 * i, 28, 3, true⟩
def F.CMP_CH_CFG_CODER (i : Nat) : Fld := ⟨0x90100 + 64 * i, 26, 2, true⟩
def F.CMP_CH_CFG_XFORM (i : Nat) : Fld := ⟨0x90100 + 64 * i, 25, 1, true⟩
def F.CMP_CH_CFG_DEST (i : Nat) : Fld := ⟨0x90100 + 64 * i, 23, 2, true⟩
def F.CMP_CH_CFG_LANES (i : Nat) : Fld := ⟨0x90100 + 64 * i, 21, 2, true⟩
def F.CMP_CH_CFG_LEVEL (i : Nat) : Fld := ⟨0x90100 + 64 * i, 16, 4, true⟩
def F.CMP_CH_CFG_BLKSZ (i : Nat) : Fld := ⟨0x90100 + 64 * i, 12, 4, true⟩
def F.CMP_CH_CFG_BFRAMES (i : Nat) : Fld := ⟨0x90100 + 64 * i, 4, 8, true⟩
def F.CMP_CH_SEL_SEL (i : Nat) : Fld := ⟨0x90104 + 64 * i, 0, 8, true⟩
def F.CMP_CH_WIN_RESET_BLOCKS (i : Nat) : Fld := ⟨0x90108 + 64 * i, 0, 16, true⟩
def F.CMP_CH_RATE_BYTES (i : Nat) : Fld := ⟨0x9010C + 64 * i, 0, 20, true⟩
def F.CMP_CH_BSEQ_NEXT (i : Nat) : Fld := ⟨0x90110 + 64 * i, 0, 32, false⟩
def F.CMP_CH_IN_COUNT (i : Nat) : Fld := ⟨0x90114 + 64 * i, 0, 32, false⟩
def F.CMP_CH_OUT_COUNT (i : Nat) : Fld := ⟨0x90118 + 64 * i, 0, 32, false⟩
def F.CMP_CH_DROP_COUNT (i : Nat) : Fld := ⟨0x9011C + 64 * i, 0, 32, false⟩
def F.CMP_CH_NOGAIN_COUNT (i : Nat) : Fld := ⟨0x90120 + 64 * i, 0, 32, false⟩
def F.CMP_CH_BLOCKS_COUNT (i : Nat) : Fld := ⟨0x90124 + 64 * i, 0, 32, false⟩

end Sys2Proof.Machine
end

