-- ==== Sys2Proof/Machine/StateParts.lean ====
section
/-! DEFINITION. The parts of the state: plain data, one structure for each unit of the block. Registers whose value is
not said to be elsewhere live in Regs. -/

namespace Sys2Proof.Machine

/-- The register file (R5, R8, R10, R26), each map against the reset values of RegTable.lean: an entry is the XOR of the
register with its reset value. `active` and `shadow` hold the RWS bits of the two banks, `direct` every other bit.
`old1` and `old2` are the active bank of the local frame before the current one and of the one before that, which the
data-frame rule needs. `hold` is the holding copy of each sender by upper address, bit 32 set while it is held. `before` is
`direct` as the CCLK in progress found it, with what reads of that CCLK cleared, and `setNow` the status bits that were set in that
CCLK, by address: the two sides of a race within one CCLK (R6). -/
structure Regs where
  active : SMap 32
  shadow : SMap 32
  direct : SMap 32
  old1   : SMap 32
  old2   : SMap 32
  holdE  : SMap 33
  holdW  : SMap 33
  holdS  : SMap 33
  before : SMap 32
  setNow : SMap 32
deriving DecidableEq, Repr

/-- A step of network time that waits for the next tick (R19): to a value in FTU (R335), by an offset in FTU (R336), or back by
an offset e in 2^-8 FTU, reduced to FTU (R334). -/
inductive TimeStep where
  | setTo (t : Nat)
  | shift (d : Int)
  | follow (e : Int)
deriving DecidableEq, Repr

/-- The time base (chapter 01). Network time is counted in units of 2^-19 FTU: `tick` is the network time at the last
local frame tick, `cc` the CCLK number of that tick and `cclk` the CCLK since. `frame` is seconds × 312,500 + index of
the frame in progress. `pendSteps` are the steps that wait for the tick, in command order; `lastEmit` is the last frame that
started to be emitted, `tstep` that the next frame emitted carries TSTEP;
`lastFrame` is the frame before the one in progress, `tuncs` the latest spans of TUNC (R38), the newest first, each from its loss frame to
the frame of its restoration (none: not restored), and `presentFrames` counts frames with TREF since it returned. -/
structure Clk where
  tick      : Nat
  cc        : Nat
  cclk      : Nat
  ltc0      : BitVec 16
  frame     : Nat
  ticks     : Nat
  counting  : Bool
  residual  : Nat
  steppedIn : Bool
  pendSteps : List TimeStep
  lastEmit  : Option Nat
  tstep     : Bool
  lastFrame : Nat
  tuncs     : List (Nat × Option Nat)
  everLock  : Bool
  presentFrames : Nat
deriving DecidableEq, Repr

/-- The TIME exchange of one port (R325 to R330): the number of the next TIME packet, the last TIME packet sent as (XSEQ,
ROLE, transmit stamp), the ticks since the port reached TRAINED facing a neighbour, the ticks since the last accepted
exchange, whether D restarts, inconsistent exchanges in a row, accepted exchanges in a row as a candidate, and whether this frame's INIT was
offered. -/
structure Exch where
  xseq    : Nat
  sent    : Option (Nat × Nat × Nat)
  ticks   : Option Nat
  since   : Option Nat
  restart : Bool
  incons  : Nat
  upRun   : Nat
  asked   : Bool
deriving DecidableEq, Repr

/-- The discipline of network time (chapter 13). `rate` is the correction of the frame in progress and `p` the phase term,
in 2^-8 FTU per frame, positive when the device is slowed; `pLeft` the frames p still acts; `slew` the rest of a TIME_ADJ
with MODE 0, in 2^-8 FTU, positive when the device must be slowed; `everSet` tells whether network time was set since
PORST_N; `nbrUp` that the upstream port completed a neighbour change. -/
structure NetTime where
  rate    : Int
  p       : Int
  pLeft   : Nat
  slew    : Int
  everSet : Bool
  nbrUp   : Bool
  exE     : Exch
  exW     : Exch
deriving DecidableEq, Repr

/-- A group's EVENT packet being gathered (R432): raisings so far, the events raised, the frame of the first raising, and
the ticks since the group's last EVENT was admitted (none: never). -/
structure EvtGroup where
  count  : Nat
  raised : Nat
  first  : Nat
  since  : Option Nat
deriving DecidableEq, Repr

/-- One coded memory (R379 to R382), each map against a clean memory of reset contents: `data` is the XOR of a word with
its reset value, `par` the failing parity bytes of a word, `colD` the syndrome S of a block and `colP` the failing parity
bytes of its column word. -/
structure Mem where
  data : SMap 64
  par  : SMap 8
  colD : SMap 64
  colP : SMap 8
deriving DecidableEq, Repr

/-- One safety condition (R244 to R246): whether its level is met, the frames that started since it last was met, and
whether a release of its latch was asked for. -/
structure ScState where
  met     : Bool
  frames  : Nat
  release : Bool
deriving DecidableEq, Repr

/-- Who built an own packet: what its admission or its discard must touch (R306, R310). -/
inductive Owner where
  | status
  | event (g : Nat)
  | time
  | configHb (id : Nat)
  | pairHb
  | mirror
  | actuate (loopIdx : Nat)
  | stop (id : Nat)
  | frame (obj : Nat)
  | record (obj : Nat)
  | stream (ch : Nat) (obj : Nat)
  | storeItem (pt : Nat) (cseq : Nat)
deriving DecidableEq, Repr

/-- An own packet as offered (R305, R310): `words` are its DATA words, or, for class 2 and 3, the content words of one
segment. `bad` marks content read as poisoned (R390). `held` is the CCLK of the first offer that was refused. -/
structure Offer where
  ptype : BitVec 8
  cls   : BitVec 2
  dest  : BitVec 5
  owner : Owner
  idx   : Nat
  words : List W64
  last  : Bool
  bad   : Bool
  refused : Bool
  held  : Nat
deriving DecidableEq, Repr

/-- A packet in a transmitter (R306). `own` is false for packets of others; `through` tells that it takes its place as
pass-through. `egress` is the EGRESS object of an own class-2 or class-3 packet, `slot` the place of a pass-through packet
in the forward buffer (memory 10). `sent` counts the blocks sent, START first. `badEnd` makes its END carry BAD. -/
structure TxPkt where
  ptype   : BitVec 8
  cls     : BitVec 2
  dest    : BitVec 5
  src     : BitVec 5
  hops    : BitVec 6
  wrapped : Bool
  len     : Nat
  pseq    : BitVec 16
  words   : List W64
  badEnd  : Bool
  own     : Bool
  through : Bool
  idx     : Nat
  stamp   : Nat
  egress  : Option Nat
  slot    : Option Nat
  owner   : Option Owner
  sent    : Nat
deriving DecidableEq, Repr

/-- A packet open on a receiver (R307): the START payload and the DATA words so far. -/
structure RxPkt where
  start : W64
  words : List W64
  first : Nat
deriving DecidableEq, Repr

/-- One ring port's traffic (chapter 12). Tokens are in 1/2,048 block. `txRow` is the network time of lane 0's last slot (R324). -/
structure PortSt where
  tok0 : Nat
  tok1 : Nat
  tok2 : Nat
  tok3 : Nat
  wait0 : List Offer
  wait1 : List Offer
  wait2 : List Offer
  wait3 : List Offer
  txq   : List TxPkt
  fwd   : List TxPkt
  started : List TxPkt
  rx    : List RxPkt
  rxIgnore : Bool
  lastTx : BitVec 66
  txLane : Nat
  txSlot : Nat
  txRow  : Nat
  fwdHead : Nat
  wrapping : Bool
  usableFrames : Nat
  usableAll : Bool
deriving DecidableEq, Repr

/-- A command as received (R354, R355): who sent it, its words from the header to the CRC word, and whether it exceeds the limit
of its batch (R363). -/
structure Command where
  sender  : Sender
  words   : List W64
  excess    : Bool
deriving DecidableEq, Repr

/-- A kept answer of an executed ring command (R365). -/
structure Kept where
  tag    : Nat
  crc    : Nat
  status : List W64
  frame  : Nat
deriving DecidableEq, Repr

/-- A word of PROT_WR waiting for its tick (R368), the commit target (R370), the batch (R363), the side port (R360 to
R362), the kept answers (R365), the registers written in the running batch with the privilege of the writer (R364), the
bits of the shadow bank that host software wrote since the last commit, by address (R224; table words at 0x100000 × memory +
byte), the host writes that COMMIT judges (R25, R54), the digests held (R375) and whether a bank changed since, and the
CAL_TBL_PAGE of each port (R229). -/
structure CmdSt where
  batch      : List Command
  sideQ      : List (List W64)
  kept       : List Kept
  written    : List (Nat × Nat)
  protNext   : List W64
  target     : Option Nat
  touched    : SMap 32
  tpWrite    : Bool
  shadowWritten : Bool
  digests    : List W64
  digDirty   : Bool
  calPageE   : Nat
  calPageW   : Nat
  calPageS   : Nat
deriving DecidableEq, Repr

/-- An item of the capture store that is not settled (R345 to R351): its packet type and CSEQ, its content words, its extent
(none for INDEX), its EGRESS object once admitted, the CCLK of its admission, its resends, and whether it waits in the
class-3 queue. -/
structure StoItem where
  pt      : Nat
  cseq    : Nat
  words   : List W64
  extent  : Option Nat
  egress  : Option Nat
  admitted : Nat
  resends : Nat
  waiting : Bool
deriving DecidableEq, Repr

/-- An object handed to the capture store (R343) that waits to be placed: its type, the region and the object that hold its
words, the frame of its handover, and whether it is a locked record. -/
structure StoObj where
  typ    : Nat
  region : Nat
  obj    : Nat
  frame  : Nat
  lock   : Bool
deriving DecidableEq, Repr

/-- The capture-store window (chapter 14): objects waiting to be placed, items not settled, the fill of the open extent in
bytes, the allocation count, the next CSEQ of STORE_WRITE and of INDEX with the number ever sent, extent entries whose
INDEX is still to be sent, STORE_CTL words waiting for the tick, and the window page of each sender. -/
structure StoSt where
  queue  : List StoObj
  items  : List StoItem
  fill   : Nat
  allocs : Nat
  csWrite : Nat
  csIndex : Nat
  dirty  : List Nat
  ctl    : List W64
  pageE  : Nat
  pageW  : Nat
  pageS  : Nat
deriving DecidableEq, Repr

/-- Pairing (chapter 17): whether this device is paired, an active heartbeat of the partner delivered in this frame, a
handover heard, the MIRRORs waiting for their tick, the frame of the last mirror applied, actions for the next tick, the frame last
evaluated, and that a tick found the takeover of a standby due (R406). -/
structure PairSt where
  paired   : Bool
  heard    : Bool
  handover : Bool
  mirrors  : List (List W64)
  lastMir  : Option Nat
  switchNext : Bool
  clearNext  : Bool
  demote   : Bool
  lastEval : Nat
  due      : Bool
deriving DecidableEq, Repr

/-- A duplicate record of a delivered broadcast (R300): SRC, CLASS, PSEQ, for STOP its STOP_SEQ, and the CCLK at delivery. -/
structure DupRec where
  src  : Nat
  cls  : Nat
  seq  : Nat
  stopSeq : Option Nat
  cc   : Nat
deriving DecidableEq, Repr

/-- Ring traffic that both ports share (chapter 12): sequence numbers per class, content numbers per packet type, the
duplicate list, CREDITs waiting for their tick as (frame, word 0), and the frames since the last CREDIT applied. -/
structure RingSt where
  pseq     : List Nat
  cseq     : List (Nat × Nat)
  dups     : List DupRec
  credits  : List (Nat × W64)
  sinceCredit : Nat
  joinAct  : Option Bool
  laneArgs : List W64
  leaveRun : Nat
  outNow   : Bool
  hbFrames : Option Nat
deriving DecidableEq, Repr

/-- One lane of a port (chapter 11): a scan was completed since the port entered TRAINED, the last scan showed a fall of more
than 20 % (R287), adaptation is frozen (R286), and the AMs in a row that were not valid (R283). -/
structure LaneOne where
  scanned : Bool
  fell    : Bool
  frozen  : Bool
  amBad   : Nat
deriving DecidableEq, Repr

/-- One port's lane layer (chapter 11): mode 0 FULL, 1 REDUCED, 2 SLEEP; the requested lane mask and a narrowing that waits for
its AM (R288); the SRC and NID of the last valid AM of lane 0, and whether the port holds a neighbour (R295); the partner's NMASK
and BYP (R279, R280). `rxok` are the receive lanes that are trained and deskewed, `wide` how far the lanes of a widening partner
are: 1 after their ACQUIRE, 2 after their ADAPT (R279, R288). `rateHeld` tells that the port changed its rate by itself and keeps it
until a RETRAIN names one (R284). `lastGood` gives, by lane, the last-good taps saved since PORST_N (R285). `rxRow` is the network time at
which lane 0 delivered its last block: the slot that stamps every block of the row (R324). -/
structure LaneSt where
  mode   : Nat
  nmask  : Nat
  narrowing : Bool
  lastAm : Option (Nat × Nat)
  hasNbr : Bool
  partnerNmask : Nat
  partnerByp : Nat
  rxok   : Nat
  wide   : Nat
  rateHeld : Bool
  lastGood : List (Option Nat)
  rxRow  : Nat
  lanes  : List LaneOne
deriving DecidableEq, Repr

/-- The bits of one lane of a port, both directions. `scr` and `prbs` are the transmitter's scrambler and PRBS31 generator, the newest bit
lowest (R278, R290), and `wire` the 66 bits it sent last, bit i the i-th on the line. `des` is the descrambler (R278). `slots` and
`toggles` count the slots and the toggling bit boundaries of the window in progress, and `last` is the last bit received (R286). -/
structure LineSt where
  scr  : BitVec 58
  prbs : BitVec 31
  wire : BitVec 66
  des  : BitVec 58
  slots : Nat
  toggles : Nat
  last : Bool
deriving DecidableEq, Repr

/-- A toggle crossing that is not idle (R422): the end of its acknowledge phase, in FTU of the device's clock, and the pulses that
wait for the next request. -/
structure Toggle where
  ends    : Nat
  pending : Nat
deriving DecidableEq, Repr

/-- A pixel that is not at rest (R49, R52): above threshold, dead, and the ticks it was found above threshold. -/
structure PixSt where
  above : Bool
  dead  : Bool
  run   : Nat
  told  : Bool
deriving DecidableEq, Repr

/-- A TDC of a parterre (R57 to R64). `t0` is the leading edge in FTU of the device's clock, `startC` its LTC count.
`close` is the trailing edge or saturation close: (TOT_C, saturated). `held` is a record that waits for a FIFO entry, with the CCLK of
its completion. `until` is the instant in FTU of the device's clock up to which the TDC is busy whatever becomes of its record (R57). -/
structure Tdc where
  busy   : Bool
  pix    : Nat
  startC : Nat
  t0     : Nat
  close  : Option (Nat × Bool)
  unc    : Bool
  test   : Bool
  held   : Option (BitVec 56 × Nat)
  until_ : Nat
deriving DecidableEq, Repr

/-- The charge of a test pulse (R53, R217): steps of 12.5 e⁻, or 10 fF times the voltage at TPIN as it is sampled at the injection. -/
inductive PulseCharge where
  | steps (amp : Nat)
  | tpin
deriving DecidableEq, Repr

/-- The Lawn (chapter 02). Tables list only what is not at rest: pixels by 256 × row + column, TDCs by 2 × parterre + TDC,
FIFOs by parterre (oldest record first), Folly generator states by parterre. `latch` holds the configuration latches of the
pixels, eight to a word as the PIX registers lay them out, each word as the XOR with its reset value (R69, R390). `written` gives, for
a parterre, a CCLK and the sources of the records written to its FIFO in it, oldest first: 0 and 1 the TDCs, 2 the Folly (R64, R68).
`charge` is what the test-pulse capacitors injected last, `injAt` are the injections that are due, in TCLK of the device's clock (R54). `follyBase` is the TCLK at which the Folly's cadence started,
and `follyLast` 1 more than the TCLK of a parterre's last synthetic record (R67). -/
structure Lawn where
  latch  : SMap 64
  pixels : Table PixSt
  tdcs   : Table Tdc
  fifos  : Table (List (BitVec 56))
  folly  : Table Nat
  written : Table (Nat × List Nat)
  settle : Nat
  tpCount : Nat
  tpPhase : Nat
  lastInj : Option Nat
  charge : Option PulseCharge
  injAt  : List Nat
  follyBase : Nat
  follyLast : Table Nat
deriving DecidableEq, Repr

/-- A record received by a hedge (R73, R74): the record, its parterre, and the frame, L and r latched at its entry. -/
structure RawIn where
  raw   : BitVec 56
  prt   : Nat
  frame : Nat
  ltc   : Nat
  resid : Nat
deriving DecidableEq, Repr

/-- A corrected hit in a reorder buffer (R78): its key and its hit word. -/
structure Buffered where
  frame : Nat
  toa   : Nat
  prt   : Nat
  pix   : Nat
  word  : W64
  slot  : Nat
deriving DecidableEq, Repr

/-- A hedge (R72, R78, R80): the grant pointer, the records on their way to the reorder buffer, the buffer in ascending
key order, and the key last released. -/
structure Hedge where
  grant : Nat
  inq   : List RawIn
  buf   : List Buffered
  last  : Option (Nat × Nat × Nat × Nat)
deriving DecidableEq, Repr

/-- A frame being gathered (R82, R87): its kept hits with their hedge, in acceptance order, and its header flags. `held` tells
that a condition with HOLDLOOPS asserted during the frame (R248); `emit` that the frame is delivered at its close, `stepHold` that it began in
step hold (R19), `passive` that it is a frame of a standby, whose loops it does not evaluate (R398, R406). -/
structure FrameAcc where
  id     : Nat
  hits   : List (Nat × W64)
  late   : Nat
  ks     : List Nat
  epoch  : Nat
  cdig   : Nat
  tstep  : Bool
  settle : Bool
  tp     : Bool
  folly  : Bool
  ovf    : Bool
  odrop  : Bool
  newcfg : Bool
  held   : Bool
  emit   : Bool
  stepHold : Bool
  passive  : Bool
deriving DecidableEq, Repr

/-- The frame builder and the rate reducer (R82 to R90): the two open frames, the closed frames without their hits, the newest first,
as far back as a trigger span may reach (R118), the counters n_p, and per quadrant the frames without pressure in a row and whether the
current frame is under pressure. -/
structure FrameBuilder where
  cur   : Option FrameAcc
  prev  : Option FrameAcc
  closed : List FrameAcc
  np    : Table Nat
  quiet : List Nat
  press : List Bool
deriving DecidableEq, Repr

/-- Who still reads an object of a queue region (R93). -/
inductive Reader where
  | ring
  | stream (ch : Nat)
  | store
deriving DecidableEq, Repr

/-- What a region of the acquisition store holds for one content: the runs of words it occupies as (offset, length) in the
region, `tag` the frame, the record or the block, `t0` and `t1` its span of network time in FTU; for a waveform block the
times of its first stored sample and of the next. -/
structure Obj where
  id      : Nat
  segs    : List (Nat × Nat)
  tag     : Nat
  t0      : Nat
  t1      : Nat
  readers : List Reader
deriving DecidableEq, Repr

/-- One region of the acquisition store (R92): the next word written, whether it wrapped, 1 more than the newest tag a
history has overwritten (0: none), and the objects it holds, oldest first. -/
structure Region where
  head    : Nat
  wrapped : Bool
  lost : Nat
  objs : List Obj
deriving DecidableEq, Repr

/-- The acquisition store's arbiter (R95): bytes that wait in each of the five requester classes. -/
structure Store where
  regions : List Region
  nextObj : Nat
  backlog : List Nat
deriving DecidableEq, Repr

/-- The reset sequence (chapter 18): pins asserted, what has happened since the release, and domain resets: waiting for
the tick, and in force; and whether the temperature sensor is armed (R428). -/
structure RstSt where
  porst   : Bool
  wrst    : Bool
  supply  : Bool
  calDone : Bool
  memDone : Bool
  ready   : Bool
  autoDone : Bool
  drstNext : Nat
  drstNow  : Nat
  therm    : Bool
deriving DecidableEq, Repr

/-- Pin levels that the outside drives (R431, R245): the open-drain wires pulled low by another driver. -/
structure Pins where
  extEvt   : Bool
  extBlankA : Bool
  extBlankB : Bool
  po       : List Bool
  fto      : Bool
deriving DecidableEq, Repr

/-- An entry of the correction log (R392, R393). -/
structure LogEntry where
  kind   : Nat
  source : Nat
  mem    : Nat
  count  : Nat
  word   : Nat
  bit    : Nat
  frame  : Nat
deriving DecidableEq, Repr

/-- What the active copies of the calibration tables and of the LIN tables held in the local frame before the current one and in
the one before that, as the XOR with their reset values: the data-frame rule for tables (R26). -/
structure TabSnap where
  cal1 : SMap 64
  cal2 : SMap 64
  lin1 : SMap 64
  lin2 : SMap 64
deriving DecidableEq, Repr

/-- The states of the TAP controller (R450, IEEE 1149.1). -/
inductive TapState where
  | testLogicReset
  | runTestIdle
  | selectDr
  | captureDr
  | shiftDr
  | exit1Dr
  | pauseDr
  | exit2Dr
  | updateDr
  | selectIr
  | captureIr
  | shiftIr
  | exit1Ir
  | pauseIr
  | exit2Ir
  | updateIr
deriving DecidableEq, Repr

/-- The JTAG port (R421, R450): the state of the TAP controller, the instruction register and its shift register, the selected
data register's shift register (next bit to leave first), the boundary-scan update latches in scan order (empty until they
are loaded), and the level of TDO (none: high impedance). -/
structure Tap where
  st    : TapState
  ir    : BitVec 8
  irSh  : BitVec 8
  drSh  : List Bool
  latch : List Bool
  tdo   : Option Bool
deriving DecidableEq, Repr

/-- The scrubber (R387): whether a pass is in progress, the next block, the ticks since the pass began, whether a pass has ended
whose digests are still to be recomputed (R389), and the correction log, oldest entry first (R392). -/
structure Scrub where
  running : Bool
  recheck : Bool
  mem     : Nat
  block   : Nat
  frames  : Nat
  log     : List LogEntry
deriving DecidableEq, Repr

end Sys2Proof.Machine
end

