-- ==== Sys2Proof/Machine/EngineParts.lean ====
section
/-! DEFINITION. The parts of the state that belong to the data engines: measures, triggers and records, waveform channels,
the transducer front end, time inputs and pulse outputs. -/

namespace Sys2Proof.Machine

/-- A running statistic of a measure (R230, R232, R235): the sum, the number of data, the extremes and the number at or
above LEVEL, and whether some hit in it had k > 0 (R242). -/
structure Stat where
  sum  : Int
  n    : Nat
  mx   : Int
  mn   : Int
  excess : Nat
  red  : Bool
deriving DecidableEq, Repr

/-- A measure (R230 to R236): the statistic of each frame not closed yet, the number of the newer open RUN block with the RW and TYPE it
was opened under, and the two open blocks. -/
structure Meas where
  acc    : List (Nat × Stat)
  rw     : Nat
  typ    : Nat
  blk    : Nat
  cur    : Stat
  old    : Stat
deriving DecidableEq, Repr

/-- A hit that a COINC condition may still pair (R103). -/
structure SeenHit where
  t    : Nat
  a    : Bool
  b    : Bool
  used : Bool
deriving DecidableEq, Repr

/-- A trigger condition at work (R102 to R105): the qualifying hits of its window as (time, weight), the hits seen for
pairing, the two armings of a WAVE condition, and whether the last XDC result taken into account lay in the zone. -/
structure CondSt where
  win   : List (Nat × Nat)
  seen  : List SeenHit
  rise  : Bool
  fall  : Bool
  zone  : Option Bool
deriving DecidableEq, Repr

/-- An event of a condition (R101): `used` lists the terms, as 4 × output + term, that have used it up (R110). -/
structure TrigEvent where
  cond  : Nat
  t     : Nat
  frame : Nat
  align : Bool
  used  : List Nat
deriving DecidableEq, Repr

/-- A pending fire time (R108); `cmd` tells a FIRE command from a FIRE packet. -/
structure PendFire where
  t    : Nat
  code : Nat
  cmd  : Bool
deriving DecidableEq, Repr

/-- An accepted fire that a duplicate would repeat (R108); `frame` is the tick count at its acceptance. -/
structure FireDup where
  code  : Nat
  sec   : Nat
  ns    : Nat
  sub   : Nat
  frame : Nat
deriving DecidableEq, Repr

/-- The per-record measurements (R128); a channel's MIN and MAX stay none while it has no sample. -/
structure RecMeas where
  whits  : Nat
  nhits  : Nat
  esum   : Nat
  rowsum : Nat
  colsum : Nat
  nsat   : Nat
  nshort : Nat
  emax   : Nat
  emin   : Option Nat
  mm     : List (Option (Int × Int))
deriving DecidableEq, Repr

/-- A record being captured (R113 to R124). `t0` is the start of the captured span, `t1` the end of the span and `tend` the
end captured so far, in FTU of network time; `next` is the next frame to append and `lastF` the last frame of the span. The
segments are those of the current chunk. `hits`, `filt`, `xsel`, `wsel`, `limit` and `dest` (bit 0 ring, bit 1 streams, bit 2
store) are the settings of its output. -/
structure RecSt where
  out     : Nat
  seq     : Nat
  tp      : Nat
  qual    : Nat
  epoch   : Nat
  cdig    : Nat
  cause   : Nat
  primary : Nat
  retrig  : Nat
  armId   : Nat
  forced  : Bool
  auto    : Bool
  armed   : Bool
  align   : Bool
  filter  : Bool
  trunc   : Bool
  spill   : Bool
  preClip : Bool
  poison  : Bool
  tunc    : Bool
  gap     : Bool
  t0      : Nat
  t1      : Nat
  tend    : Nat
  next    : Nat
  lastF   : Nat
  kmax    : Nat
  meas    : RecMeas
  chunk   : Nat
  frames  : Nat
  hseg    : List W64
  wseg    : List (List W64)
  xseg    : List W64
  hits    : Bool
  filt    : Option Nat
  xsel    : Bool
  wsel    : Nat
  limit   : Nat
  dest    : Nat
deriving DecidableEq, Repr

/-- A trigger output (R115 to R117): an ARM waiting for its tick, the frame from which the output is armed by an ARM, the
frames a FORCE triggers, the frame an auto trigger falls in, and the frame e from which the auto timer counts. -/
structure OutSt where
  armNext : Option (Nat × Nat)
  armFrom : Option Nat
  force   : List Nat
  auto    : Option Nat
  timer   : Option Nat
deriving DecidableEq, Repr

/-- A kept hit on its way to the merged stream (R100): its frame, its parterre and PIX, its hit word, the k of its quadrant, and the CCLK
of its acceptance. -/
structure Merging where
  frame : Nat
  prt   : Nat
  pix   : Nat
  word  : Nat
  kq    : Nat
  since : Nat
deriving DecidableEq, Repr

/-- The trigger engine (chapter 04): its conditions and their events, fires, outputs and records; the hits that wait to be merged, in
ascending key order (R100), and the latest spans of frames stepped over, as (last frame before, first frame after), the newest first
(R112). -/
structure Trg where
  merge  : List Merging
  passed : List (Nat × Nat)
  conds  : Table CondSt
  events : List TrigEvent
  pend   : List PendFire
  dups   : List FireDup
  outs   : Table OutSt
  recs   : List RecSt
deriving DecidableEq, Repr

/-- The full-rate samples of one frame of a waveform channel (R143): FIRST and the codes. -/
structure WavBlock where
  frame : Nat
  first : Nat
  codes : List Int
deriving DecidableEq, Repr

/-- A waveform channel (R133, R143, R149, R151): settling frames left, the device-clock time in FTU of conversion 0, the
conversion count, the frame its samples belong to, whether no instant of its was stamped since settling or a step, the blocks not closed yet, the last full-rate sample as (container value,
time), the synthetic samples since the Folly setting took effect, and the last frame
that raised WAV_OVR. -/
structure WavCh where
  settle : Nat
  began  : Nat
  n      : Nat
  frame  : Nat
  open_  : Bool
  fresh  : Bool
  blocks : List WavBlock
  prev   : Option (Int × Nat)
  folly  : Nat
  ovrAt  : Option Nat
deriving DecidableEq, Repr

/-- The entry that the transducer sequencer runs (R163): the urgent slot it serves, the slices that convert for it (R159), the device-clock
times in FTU of its start, of the closing of its switches (R155) and of its filter reset, whether the reset has come, outputs complete
since, the flags of R169, the sources, the times at which they switched on, and whether one was switched off before its end (R164). -/
structure XdcRun where
  entry   : Nat
  urgent  : Option Nat
  slices  : List Nat
  start   : Nat
  closeAt : Nat
  resetAt : Nat
  sampling : Bool
  outputs : Nat
  ext     : Bool
  nearOvr : Bool
  srcA    : Bool
  srcB    : Bool
  onA     : Nat
  onB     : Nat
  offA    : Bool
  offB    : Bool
deriving DecidableEq, Repr

/-- A result on its way to the linearisation engine (R171); `stale` tells that it is of an earlier profile (R176). -/
structure XdcRes where
  entry  : Nat
  time   : Nat
  raw    : Nat
  invalid : Bool
  ovr    : Bool
  near   : Bool
  opened : Bool
  urgent : Bool
  ext    : Bool
  rseq   : Nat
  stale  : Bool
deriving DecidableEq, Repr

/-- The transducer sequencer (R162 to R176): ticks since the period origin, a pass due at this tick, entries still to visit,
a new pass that waits for the running entry, slots pending and slots that accepted in this period, an overrange that
lengthens the next settle, the entry that an urgent one interrupted (R167), results that still carry NEAR_OVR, results in the engine, and the latest valid LIN of each
entry with its frame. `linInv` is XDC_LIN_INV_CNT. -/
structure Xdc where
  phase   : Nat
  due     : Bool
  run     : Option XdcRun
  todo    : List Nat
  newPass : Bool
  pend    : Nat
  took    : Nat
  ovr     : Bool
  redo    : Option Nat
  near    : Nat
  results : List XdcRes
  temps   : Table (Option (Nat × Nat))
  linInv  : Nat
deriving DecidableEq, Repr

/-- A time input (R183, R184): the prescaler count, the device-clock times in FTU of the last edge of each converter, and the stamped edges
that the interval channels have not taken yet, as (stamp, rising) (R186). -/
structure TiIn where
  count : Nat
  lastR : Option Nat
  lastF : Option Nat
  queue : List (Nat × Bool)
deriving DecidableEq, Repr

/-- An interval channel (R187 to R193): the time in FTU from which its settings take edges, the armed stamp, the previous stamp, the frequency
gate (its start in FTU, ticks since, edges, first and last stamp, and stamps that lie after it), the edge count, and the statistics set
with the frame of its last result. -/
structure TipCh where
  begun  : Nat
  armed  : Option Nat
  prev   : Option Nat
  gate0  : Nat
  gateN  : Nat
  edges  : Nat
  tFirst : Nat
  tLast  : Nat
  ahead  : List Nat
  count  : Nat
  setN   : Nat
  s1     : Int
  s2     : Nat
  mn     : Int
  mx     : Int
  setTunc : Bool
  setLast : Nat
deriving DecidableEq, Repr

/-- A pulse output (R196 to R198): a pulse in progress with its polarity and end, whether the schedule still runs, the index
of the next pulse, and the pulses fired by the schedule. -/
structure PoSt where
  on    : Option (Bool × Nat)
  live  : Bool
  next  : Nat
  fired : Nat
deriving DecidableEq, Repr

/-- A calibration procedure (R204, R205, R222): a start that waits for the tick, a run in progress, ticks since the run started, ticks since the previous run ended, whether the
fall-back was used, and the ticks until pending results are applied once that is decided. -/
structure CalProc where
  start    : Bool
  run      : Bool
  age      : Nat
  since    : Nat
  fallback : Bool
  pend     : Bool
  applyIn  : Option Nat
deriving DecidableEq, Repr

/-- Code-density counts of a converter (R211): samples, and the samples of each stage-1 and stage-2 code. -/
structure ConvCnt where
  n  : Nat
  n1 : List Nat
  n2 : List Nat
deriving DecidableEq, Repr

/-- The threshold probe of a parterre (R209): the probed pixel (64: finished), the search bounds, the hits of the dwell in
progress and its quiet frames so far. -/
structure Probe where
  pix    : Nat
  lo     : Int
  hi     : Int
  count  : Nat
  frames : Nat
deriving DecidableEq, Repr

/-- The test pulses of a parterre (R217): the pixel (64: finished), its injections, the ticks up to the last one, that injection while its
hit may come, as (pixel, network time), what its hit added, as (pixel by row and column, offset, energy), and the sums of the parterre. -/
structure PulsePrt where
  pix  : Nat
  shots : Nat
  at_  : Nat
  shot : Option (Nat × Nat)
  got  : Option (Nat × Int × Nat)
  det  : Nat
  esum : Nat
  total : Nat
deriving DecidableEq, Repr

/-- A slice under background calibration (R219): windows in a row inside the dead bands, and a window ready to be judged. -/
structure SliceSt where
  good : Nat
  due  : Bool
  offset : Int
  gain : Int
  skew : Int
deriving DecidableEq, Repr

/-- A pulse of the fall-back of TDCCD into a parterre (R211): the pixel injected last and the one before it (64: none), and the ticks up
to the injection. -/
structure TdcPulse where
  pix  : Nat
  prev : Nat
  at_  : Nat
deriving DecidableEq, Repr

/-- What a run takes from a frame (R206): the codes of a converter, or an accepted hit. -/
inductive CalItem where
  | code (conv f1 f2 : Nat)
  | hit (w : W64)
deriving DecidableEq, Repr

/-- Data of a run that waits for the header of its frame (R206), and whether a pulse of the engine gave it (R211). -/
structure CalDatum where
  frame : Nat
  shot  : Bool
  item  : CalItem
deriving DecidableEq, Repr

/-- The calibration engine (chapter 08). Converters are numbered 4 × parterre + v, those of time inputs 4,096 + 2 × input +
r; pixels by 256 × row + column. `waiting` holds the data of frames that have not closed, in order of arrival; `inj` lists the pulses of the
fall-back of R211, `holds` the pixels that the engine held in the frame before the current one, by parterre, for the procedure `holder`
(R208). `recent` are the accepted hits that a neighbour may still pair with in ECAL, as (time, word, a neighbour was seen), `mates` those
of TWFIT. `apAge` counts the frames of AP since its data began, `steps` holds the samples that AP took of a channel, as (time in FTU from
the start of its turn, code). The pend fields
are the pending results that no table memory holds, `pendTab` the units whose results the proposal copy holds, by procedure; `win`
lists the codes of each channel in the estimation window, with the number of the conversion; `ext` counts the frames left of the
foreground fall-back of SLICE, `extFirst` that its first tick is still to come (R220); the tgt fields are the targets of the ramps (R223). -/
structure Cal where
  procs   : Table CalProc
  quiet   : Nat
  accepted : Nat
  waiting : List CalDatum
  conv    : Table ConvCnt
  inj     : Table TdcPulse
  holder  : Option Nat
  holds   : Table Nat
  probes  : Table Probe
  edges   : Table Int
  pulses  : Table PulsePrt
  offs    : Table (Int × Nat)
  pairs   : Table (Int × Nat)
  ecal    : Table (Nat × Nat)
  recent  : List (Nat × W64 × Bool)
  mates   : List (Nat × W64)
  apAge   : Nat
  steps   : Table (List (Int × Int))
  pendTrim  : Table Nat
  pendGain  : Table Nat
  pendKnot  : Table Int
  pendAp    : Table Int
  pendTab   : Table (List Nat)
  tgtTrim : Table Nat
  tgtGain : Table Nat
  ramp    : Nat
  slices  : Table SliceSt
  win     : Table (List (Nat × Int))
  winReady : Table (List (Nat × Int))
  winFrames : Nat
  ext     : Option Nat
  extFirst : Bool
  extSeen : Bool
deriving DecidableEq, Repr

/-- The settings of a stream channel under the data-frame rule (R251, R257, R273), with the values that act. -/
structure StreamCfg where
  src    : Nat
  sel    : Nat
  coder  : Nat
  xform  : Bool
  dest   : Nat
  lanes  : Nat
  level  : Nat
  blk    : Nat
  frames : Nat
  win    : Nat
deriving DecidableEq, Repr

/-- Input of a lane that is not consumed yet (R252, R269): its words as delivered and, once its coder has read it, after the transform;
the words of memory 0 that it is read from, the samples before its own in the first sample word, whether it is still to be read, the
object of FRAME or RECORD it holds, the indices of poisoned words, its frame and epoch under R257, the tick count at its delivery, and the
time in 1/8 CCLK from which it can be read. -/
structure StreamIn where
  words : List W64
  src   : List Nat
  skip  : Nat
  unread : Bool
  obj   : Option Nat
  bad   : List Nat
  cfg   : StreamCfg
  frame : Nat
  epoch : Nat
  due   : Nat
  time  : Nat
deriving DecidableEq, Repr

/-- The open block of a lane (R258): its words, for each of them the bytes of the block that had been delivered when the coder
reached it, the frame and epoch of its first byte, the later places where those change, as (word, frame, epoch), the indices of its
poisoned words, and the tick count at the delivery that opened it. -/
structure StreamBlk where
  words  : List W64
  limits : List Nat
  cfg    : StreamCfg
  frame  : Nat
  epoch  : Nat
  starts : List (Nat × Nat × Nat)
  newcfg : Bool
  wreset : Bool
  bad    : List Nat
  since  : Nat
deriving DecidableEq, Repr

/-- A coded block on its way to CSTAGE (R269), with the BSEQ of its closing (R259). -/
structure StreamOut where
  cfg     : StreamCfg
  bseq    : Nat
  frame   : Nat
  epoch   : Nat
  kind    : Nat
  payload : List Nat
  raw     : Nat
  flags   : Nat
deriving DecidableEq, Repr

/-- A lane (R254, R258, R268, R269): the time in 1/8 CCLK up to which its coder has worked, its input, its open block, blocks
that wait for CSTAGE and whether they were found waiting, what the next block carries, the words that matches may reach, and the words its coder has taken in. -/
structure StreamLane where
  busy   : Nat
  inq    : List StreamIn
  open_  : Option StreamBlk
  outq   : List StreamOut
  waits  : Bool
  newcfg : Bool
  wreset : Bool
  hist   : List W64
  pos    : Nat
deriving DecidableEq, Repr

/-- A stream channel: the settings of its last input, the blocks since its last WRESET, and its lanes. -/
structure StreamCh where
  key   : Option StreamCfg
  since : Nat
  lanes : Table StreamLane
deriving DecidableEq, Repr

/-- The stream channels (chapter 10), and the channels that have reported backlog in this frame (R270). -/
structure Cmp where
  chans   : Table StreamCh
  backlog : Nat
deriving DecidableEq, Repr

end Sys2Proof.Machine
end

