-- ==== Sys2Proof/Machine/State.lean ====
section
/-! DEFINITION. The state of the CH734: everything the spec gives the block, the queue of waiting commands, the reset
state, and the reasons a step can stop. -/

namespace Sys2Proof.Machine

/-- The chip without its JTAG port: every unit of the block, and `free`, the counter of the model's free values. -/
structure Chip where
  regs   : Regs
  clk    : Clk
  net    : NetTime
  evtG   : List EvtGroup
  mems   : List Mem
  scrub  : Scrub
  sc     : List ScState
  cmd    : CmdSt
  ringE  : PortSt
  ringW  : PortSt
  ring   : RingSt
  laneE  : LaneSt
  laneW  : LaneSt
  line   : Table LineSt
  cdc    : Table Toggle
  lawn   : Lawn
  hedges : Table Hedge
  fb     : FrameBuilder
  store  : Store
  rst    : RstSt
  pins   : Pins
  sto    : StoSt
  pair   : PairSt
  meas   : Table Meas
  srcs   : Table (List (Nat × Option Int))
  trg    : Trg
  wav    : Table WavCh
  xdc    : Xdc
  tis    : Table TiIn
  tips   : Table TipCh
  pos    : Table PoSt
  cal    : Cal
  cmp    : Cmp
  tabs   : TabSnap
  free   : Nat
deriving DecidableEq, Repr

/-- The state of the model: the commands that wait, first in, first out, the chip, and its JTAG port. -/
structure State where
  pending : List Instr
  chip    : Chip
  tap     : Tap
deriving DecidableEq, Repr

/-! ### Reset (R11, R413 to R416): the state while PORST_N is asserted. Registers hold their reset values, memories are
clean and hold their reset contents, queues are empty. -/

/-- Registers at their reset values: no entry in any map. -/
def Regs.initial : Regs := ⟨[], [], [], [], [], [], [], [], [], []⟩

/-- The time base before lock (R20): frame (0, 0), nothing counted. -/
def Clk.initial : Clk :=
  { tick := 0, cc := 0, cclk := 0, ltc0 := 0#16, frame := 0, ticks := 0, counting := false, residual := 0, steppedIn := false,
    pendSteps := [], lastEmit := none, tstep := false, lastFrame := 0, tuncs := [], everLock := false,
    presentFrames := 0 }

/-- No TIME exchange yet: D restarts with the first one (R329). -/
def Exch.initial : Exch := ⟨0, none, none, none, true, 0, 0, false⟩

/-- Network time is not disciplined yet. -/
def NetTime.initial : NetTime := ⟨0, 0, 0, 0, false, false, Exch.initial, Exch.initial⟩

/-- No command waits, no answer is kept, and the digests are still to be computed. -/
def CmdSt.initial : CmdSt :=
  { batch := [], sideQ := [], kept := [], written := [], protNext := [], target := none, touched := [], tpWrite := false,
    shadowWritten := false, digests := [], digDirty := true, calPageE := 0, calPageW := 0, calPageS := 0 }

/-- A port with empty queues and buckets (R309). -/
def PortSt.initial : PortSt :=
  { tok0 := 0, tok1 := 0, tok2 := 0, tok3 := 0, wait0 := [], wait1 := [], wait2 := [], wait3 := [], txq := [], fwd := [],
    started := [], rx := [], rxIgnore := false, lastTx := 0#66, txLane := 0, txSlot := 0, txRow := 0, fwdHead := 0, wrapping := false,
    usableFrames := 0, usableAll := false }

/-- Ring traffic at its start: sequence numbers from 0 (R302, R304). -/
def RingSt.initial : RingSt :=
  { pseq := [0, 0, 0, 0], cseq := [], dups := [], credits := [], sinceCredit := 0, joinAct := none, laneArgs := [],
    leaveRun := 0, outNow := false, hbFrames := none }

/-- A port's lane layer in FULL mode, without a neighbour (R288, R295). -/
def LaneSt.initial : LaneSt :=
  { mode := 0, nmask := 15, narrowing := false, lastAm := none, hasNbr := false, partnerNmask := 15, partnerByp := 7, rxok := 0,
    wide := 0, rateHeld := false, lastGood := [none, none, none, none], rxRow := 0
    lanes := List.replicate 4 ⟨false, false, false, 0⟩ }

/-- The Lawn at rest. -/
def Lawn.initial : Lawn := ⟨[], [], [], [], [], [], 0, 0, 0, none, none, [], 0, []⟩

/-- No frame is open. -/
def FrameBuilder.initial : FrameBuilder :=
  { cur := none, prev := none, closed := [], np := [], quiet := [0, 0, 0, 0], press := [false, false, false, false] }

/-- Every region empty (R416). -/
def Store.initial : Store := ⟨List.replicate 10 ⟨0, false, 0, []⟩, 0, [0, 0, 0, 0, 0]⟩

/-- No object of the capture store, sequence numbers from 0. -/
def StoSt.initial : StoSt :=
  { queue := [], items := [], fill := 0, allocs := 0, csWrite := 0, csIndex := 0, dirty := [], ctl := [], pageE := 0,
    pageW := 0, pageS := 0 }

/-- Unpaired (R397). -/
def PairSt.initial : PairSt :=
  { paired := false, heard := false, handover := false, mirrors := [], lastMir := none, switchNext := false,
    clearNext := false, demote := false, lastEval := 0, due := false }

/-- No transducer pass. -/
def Xdc.initial : Xdc :=
  { phase := 0, due := false, run := none, todo := [], newPass := false, pend := 0, took := 0, ovr := false, redo := none, near := 0,
    results := [], temps := [], linInv := 0 }

/-- No calibration run, no result. -/
def Cal.initial : Cal :=
  { procs := [], quiet := 0, accepted := 0, waiting := [], conv := [], inj := [], holder := none, holds := [], probes := [], edges := [], pulses := [], offs := [],
    pairs := [], ecal := [], recent := [], mates := [], apAge := 0, steps := [], pendTrim := [], pendGain := [], pendKnot := [], pendAp := [], pendTab := [],
    tgtTrim := [], tgtGain := [], ramp := 0, slices := [], win := [], winReady := [], winFrames := 0, ext := none,
    extFirst := false, extSeen := false }

/-- The reset sequence with no reset asserted and nothing done yet (R417). -/
def RstSt.initial : RstSt :=
  { porst := false, wrst := false, supply := false, calDone := false, memDone := false, ready := false, autoDone := false,
    drstNext := 0, drstNow := 0, therm := false }

/-- The TAP after its reset: IDCODE selected (R450). -/
def Tap.initial : Tap := ⟨.testLogicReset, 0x01#8, 0#8, [], [], none⟩

/-- The chip in reset, no reset asserted yet. -/
def Chip.initial : Chip :=
  { regs := Regs.initial, clk := Clk.initial, net := NetTime.initial, evtG := List.replicate 12 ⟨0, 0, 0, none⟩,
    mems := List.replicate 12 ⟨[], [], [], []⟩, scrub := ⟨false, false, 0, 0, 0, []⟩,
    sc := List.replicate 16 ⟨false, 0, false⟩, cmd := CmdSt.initial, ringE := PortSt.initial, ringW := PortSt.initial,
    ring := RingSt.initial, laneE := LaneSt.initial, laneW := LaneSt.initial, line := [], cdc := [], lawn := Lawn.initial, hedges := [],
    fb := FrameBuilder.initial, store := Store.initial, rst := RstSt.initial,
    pins := ⟨false, false, false, List.replicate 8 false, false⟩, sto := StoSt.initial, pair := PairSt.initial, meas := [], srcs := [],
    trg := ⟨[], [], [], [], [], [], [], []⟩, wav := [], xdc := Xdc.initial, tis := [], tips := [], pos := [], cal := Cal.initial,
    cmp := ⟨[], 0⟩, tabs := ⟨[], [], [], []⟩, free := 0 }

/-- The machine right after reset (R413): PORST_N is asserted, as it must be from power-up on (R411). -/
def State.reset : State :=
  { pending := [], chip := { Chip.initial with rst := { RstSt.initial with porst := true } }, tap := Tap.initial }

/-- Why a step stops with a fault. No meaning raises one today. -/
inductive Fault where
  /-- Raised by nobody: the spec names no address, value or unit whose use stops the block. Safe. -/
  | absent
deriving DecidableEq, Repr

/-- Why a step refuses a command. -/
inductive Refusal where
  /-- Raised by the dispatch for a command that has no meaning yet. Safe. -/
  | notModelled (mnemonic : String)
deriving DecidableEq, Repr

end Sys2Proof.Machine
end

