-- ==== Sys2Proof/Machine/Ops.lean ====
section
/-! DEFINITION. The named operations over registers, time, and the parts of the chip. -/

namespace Sys2Proof.Machine

/-! ### Registers (R5 to R11, R26) -/

/-- A field read from a map of XOR differences against the reset values. -/
def fieldOf (m : SMap 32) (f : Fld) : Nat :=
  bits (regReset f.addr ^^^ m.get f.addr).toNat (f.lo + f.w - 1) f.lo

/-- A map with one field set. -/
def setFieldOf (m : SMap 32) (f : Fld) (v : Nat) : SMap 32 :=
  m.set f.addr (m.get f.addr ^^^ BitVec.ofNat 32 (place f.w f.lo (fieldOf m f ^^^ (v % 2 ^ f.w))))

/-- A field as the machine uses it: the active bank of an RWS field, the current value of any other. -/
def Chip.fld (s : Chip) (f : Fld) : Nat := fieldOf (if f.rws then s.regs.active else s.regs.direct) f

/-- A one-bit field. -/
def Chip.flag (s : Chip) (f : Fld) : Bool := s.fld f != 0

/-- An RWS field as it stood for the data of the frame in progress (0), of the frame before it (1), or of the one before
that (2): the data-frame rule (R26). -/
def Chip.fldAt (s : Chip) (k : Nat) (f : Fld) : Nat :=
  fieldOf (match k with | 0 => s.regs.active | 1 => s.regs.old1 | _ => s.regs.old2) f

/-- A one-bit field under the data-frame rule. -/
def Chip.flagAt (s : Chip) (k : Nat) (f : Fld) : Bool := s.fldAt k f != 0

/-- An RWS field of the shadow bank. -/
def Chip.shFld (s : Chip) (f : Fld) : Nat := fieldOf s.regs.shadow f

/-- Sets a field that is not RWS. -/
def Chip.setFld (s : Chip) (f : Fld) (v : Nat) : Chip :=
  { s with regs := { s.regs with direct := setFieldOf s.regs.direct f v } }

/-- Sets an RWS field of the active bank (an engine's write). -/
def Chip.setActive (s : Chip) (f : Fld) (v : Nat) : Chip :=
  { s with regs := { s.regs with active := setFieldOf s.regs.active f v }, cmd := { s.cmd with digDirty := true } }

/-- Sets an RWS field of the shadow bank (an engine's write). -/
def Chip.setShadow (s : Chip) (f : Fld) (v : Nat) : Chip :=
  { s with regs := { s.regs with shadow := setFieldOf s.regs.shadow f v }, cmd := { s.cmd with digDirty := true } }

/-- Sets or clears a one-bit field. -/
def Chip.setFlag (s : Chip) (f : Fld) (b : Bool) : Chip := s.setFld f (b2n b)

/-- Adds to a saturating counter field. -/
def Chip.bumpBy (s : Chip) (f : Fld) (n : Nat) : Chip := s.setFld f (satTo f.w (s.fld f + n))

/-- Adds 1 to a saturating counter field. -/
def Chip.bump (s : Chip) (f : Fld) : Chip := s.bumpBy f 1

/-- Raises a high-water mark. -/
def Chip.highWater (s : Chip) (f : Fld) (v : Nat) : Chip := if s.fld f < v then s.setFld f (satTo f.w v) else s

/-- Bit b of a field set or cleared. -/
def Chip.setBit (s : Chip) (f : Fld) (b : Nat) (v : Bool) : Chip :=
  s.setFld f (if v then s.fld f ||| 2 ^ b else s.fld f &&& (2 ^ f.w - 1 - 2 ^ b))

/-- A free value of the model and the counter's next place. -/
def Chip.drawFree (s : Chip) : W64 × Chip := (Config.freeValue s.free, { s with free := s.free + 1 })

/-- A new CCLK: what was set or counted so far is of a cycle that is over (R6). -/
def newCycle (s : Chip) : Chip := { s with regs := { s.regs with before := s.regs.direct, setNow := [] } }

/-- Bit b of a W1C register is set by the hardware: in the CCLK of its setting no write clears it (R6). -/
def Chip.noteSet (s : Chip) (a b : Nat) : Chip :=
  { s with regs := { s.regs with setNow := s.regs.setNow.set a (s.regs.setNow.get a ||| BitVec.ofNat 32 (2 ^ b)) } }

/-- A sticky bit of a field is set by the hardware (R6). -/
def Chip.latchBit (s : Chip) (f : Fld) (b : Nat) : Chip := (s.noteSet f.addr (f.lo + b)).setBit f b true

/-- The W1C bits of a register that the hardware set in the CCLK in progress (R6). Before the first tick no CCLK is told apart, and none
counts. -/
def Chip.setInCycle (s : Chip) (a : Nat) : W32 := if s.clk.counting then s.regs.setNow.get a else 0#32

/-! ### Folding -/

/-- Runs a step for each of the numbers 0 to n − 1 in ascending order. -/
def forN (n : Nat) (f : Nat → Chip → Chip) (s : Chip) : Chip := (List.range n).foldl (fun s i => f i s) s

/-- Runs a step for each element of a list, in order. -/
def forAll {α : Type} (l : List α) (f : α → Chip → Chip) (s : Chip) : Chip := l.foldl (fun s a => f a s) s

/-- Runs a step where a condition holds. -/
def cond (b : Bool) (f : Chip → Chip) (s : Chip) : Chip := if b then f s else s

/-! ### Time (R12, R15 to R17, R32, R35) -/

/-- FTU per frame (R12). -/
def frameFtu : Nat := 1048576

/-- Frames per second (R12). -/
def framesPerSec : Nat := 312500

/-- Units of the network-time counter per FTU. -/
def unitsPerFtu : Nat := 524288

/-- Network-time units per CCLK: 512 FTU less the correction in progress (R333). -/
def Chip.unitsPerCclk (s : Chip) : Nat := ((268435456 : Int) - s.net.rate).toNat

/-- Network time now, in units. -/
def Chip.nowUnits (s : Chip) : Nat := s.clk.tick + s.clk.cclk * s.unitsPerCclk

/-- Network time now, in FTU, truncated (R30). -/
def Chip.now (s : Chip) : Nat := s.nowUnits / unitsPerFtu

/-- Network time `sub` FTU into the current CCLK. -/
def Chip.nowAt (s : Chip) (sub : Nat) : Nat := s.now + sub

/-- The device's own clock in FTU, which no correction of network time touches. -/
def Chip.clockFtu (s : Chip) : Nat := 512 * (s.clk.cc + s.clk.cclk)

/-- The CCLK number now. -/
def Chip.cclkNow (s : Chip) : Nat := s.clk.cc + s.clk.cclk

/-- The TCLK number of an edge of TCLK in the current CCLK: two to a CCLK. -/
def Chip.tclkNow (s : Chip) (tclk : Nat) : Nat := 2 * s.cclkNow + tclk

/-- The local time counter now (R55): it counts TCLK modulo 65,536. -/
def Chip.ltcNow (s : Chip) : Nat := (s.clk.ltc0.toNat + 2 * (s.clk.cc + s.clk.cclk)) % 65536

/-- The LTC value of the last local frame tick, L_g (R74). -/
def Chip.ltcTick (s : Chip) : Nat := (s.clk.ltc0.toNat + 2 * s.clk.cc) % 65536

/-- CCLK in the local frame in progress: up to the first edge at or after the start of the next frame (R17). -/
def Chip.frameCclk (s : Chip) : Nat :=
  ceilDiv ((s.clk.frame + 1) * (frameFtu * unitsPerFtu) - s.clk.tick) s.unitsPerCclk

/-- The seconds of a frame (R15). -/
def frameSec (n : Nat) : Nat := n / framesPerSec

/-- The index of a frame within its second (R15). -/
def frameIdx (n : Nat) : Nat := n % framesPerSec

/-- The frame in progress as records carry it: (0, 0) until the first tick after lock (R20). -/
def Chip.frameNow (s : Chip) : Nat := if s.clk.counting then s.clk.frame else 0

/-- SEC_LO in [63:32] and INDEX in [31:13] of a frame. -/
def frameWord (n : Nat) : Nat := place 32 32 (frameSec n) ||| place 19 13 (frameIdx n)

/-- Nanoseconds of a network time in FTU within its second (R35). -/
def ftuNanos (t : Nat) : Nat :=
  let r := t % (framesPerSec * frameFtu)
  3200 * (r / frameFtu) + 200 * (r % frameFtu) / 65536

/-- SUBNS of a network time in FTU (R35). -/
def ftuSubns (t : Nat) : Nat := 200 * (t % frameFtu) % 65536

/-- Seconds of a network time in FTU. -/
def ftuSec (t : Nat) : Nat := t / (framesPerSec * frameFtu)

/-- The low word of a TIME128: NANOSECONDS, SUBNS and QUALITY (R32). -/
def time128Lo (t q : Nat) : Nat := place 32 32 (ftuNanos t) ||| place 16 16 (ftuSubns t) ||| place 8 8 q

/-- The two words of a TIME128, the low word first (R4, R32). -/
def time128 (t q : Nat) : List W64 := [w64 (time128Lo t q), w64 (ftuSec t)]

/-- Network time in FTU of seconds, nanoseconds and SUBNS, truncating (R35). -/
def ofTime128 (sec ns sub : Nat) : Nat :=
  (sec * framesPerSec + ns / 3200) * frameFtu + ((ns % 3200) * 65536 + sub) / 200

/-- The frame with an index whose seconds agree with 32 low bits and lie nearest to a frame (R312, R370). Of two equally
near ones, the earlier. -/
def nearestFrame (near secLo idx : Nat) : Nat :=
  let hi := frameSec near / 2 ^ 32
  let cands := [hi - 1, hi, hi + 1].map fun h => (h * 2 ^ 32 + secLo) * framesPerSec + idx
  let dist := fun n => if near ≤ n then n - near else near - n
  cands.foldl (fun best n => if dist n < dist best then n else best) ((hi * 2 ^ 32 + secLo) * framesPerSec + idx)

/-! ### Identity -/

/-- The ring address sampled from the straps (R415). -/
def Chip.addr (s : Chip) : Nat := s.fld F.GLB_RST_STAT_STRAP

/-- The time quality (R33). -/
def Chip.quality (s : Chip) : Nat := s.fld F.TIM_STAT_QUALITY

/-- The device runs: no reset is asserted. -/
def Chip.up (s : Chip) : Bool := !(s.rst.porst || s.rst.wrst || s.rst.supply)

/-- Pipeline stages run from ready (R417). -/
def Chip.running (s : Chip) : Bool := s.up && s.rst.ready

/-- Bit b of the domains in reset now (R419): 0 LAWN, 1 HIT, 2 TRG, 3 WAV, 4 XDC, 5 TIP, 6 CAL, 7 CMP, 8 PORT_E, 9 PORT_W. -/
def Chip.domainUp (s : Chip) (b : Nat) : Bool := s.running && !s.rst.drstNow.testBit b

/-- A frame lies in a span from a loss frame to the frame of the restoration. -/
def inSpan (frame : Nat) (x : Nat × Option Nat) : Bool :=
  decide (x.1 ≤ frame) && (match x.2 with | none => true | some b => decide (frame ≤ b))

/-- TUNC of the data of a frame (R38): it lies in a span between a loss of TREF and its restoration. -/
def Chip.tunc (s : Chip) (frame : Nat) : Bool := s.clk.tuncs.any (inSpan frame)

/-- A loss of TREF is not yet restored. -/
def Chip.tuncOpen (s : Chip) : Bool := match s.clk.tuncs with | x :: _ => x.2.isNone | [] => false

/-! ### Ring ports (R298, R299) -/

/-- The ring-traffic state of a port. -/
def Chip.port (s : Chip) : Port → PortSt
  | .east => s.ringE
  | .west => s.ringW

/-- Replaces the ring-traffic state of a port. -/
def Chip.setPort (s : Chip) (p : Port) (t : PortSt) : Chip :=
  match p with
  | .east => { s with ringE := t }
  | .west => { s with ringW := t }

/-- The lane state of a port. -/
def Chip.lane (s : Chip) : Port → LaneSt
  | .east => s.laneE
  | .west => s.laneW

/-- Replaces the lane state of a port. -/
def Chip.setLane (s : Chip) (p : Port) (t : LaneSt) : Chip :=
  match p with
  | .east => { s with laneE := t }
  | .west => { s with laneW := t }

/-- A port in TRAINED (R281). -/
def Chip.trained (s : Chip) (p : Port) : Bool := s.fld (F.LN_STAT_STATE p.ix) == 4

/-- INRING is high (R292). -/
def Chip.inring (s : Chip) : Bool := s.flag F.LNE_RING_INRING

/-- A port is usable for a class (R299): TRAINED with LOCAL = 0 and INRING high; in SLEEP for class 0 only. -/
def Chip.usable (s : Chip) (p : Port) (cls : Nat) : Bool :=
  s.trained p && !s.flag (F.LN_STAT_LOCAL p.ix) && s.inring && ((s.lane p).mode != 2 || cls == 0)

/-- RNG_CFG.HOME as a port (R298). -/
def Chip.homePort (s : Chip) : Port := if s.flag F.RNG_CFG_HOME then .east else .west

/-- The ports of an own packet to a destination (R298). The own address goes nowhere. -/
def Chip.routes (s : Chip) (dest : Nat) : List Port :=
  if dest = 31 then [.east, .west]
  else if dest = 0 then [s.homePort]
  else if dest < s.addr then [.west]
  else if s.addr < dest then [.east]
  else []

/-- The token bucket of a class, in 1/2,048 block (R309). -/
def PortSt.tok (t : PortSt) (cls : Nat) : Nat :=
  match cls with
  | 0 => t.tok0
  | 1 => t.tok1
  | 2 => t.tok2
  | _ => t.tok3

/-- Sets the token bucket of a class. -/
def PortSt.setTok (t : PortSt) (cls v : Nat) : PortSt :=
  match cls with
  | 0 => { t with tok0 := v }
  | 1 => { t with tok1 := v }
  | 2 => { t with tok2 := v }
  | _ => { t with tok3 := v }

/-- The WAIT queue of a class (R310). -/
def PortSt.wait (t : PortSt) (cls : Nat) : List Offer :=
  match cls with
  | 0 => t.wait0
  | 1 => t.wait1
  | 2 => t.wait2
  | _ => t.wait3

/-- Sets the WAIT queue of a class. -/
def PortSt.setWait (t : PortSt) (cls : Nat) (q : List Offer) : PortSt :=
  match cls with
  | 0 => { t with wait0 := q }
  | 1 => { t with wait1 := q }
  | 2 => { t with wait2 := q }
  | _ => { t with wait3 := q }

/-- The rate of a class's bucket, in blocks per frame (R309). -/
def Chip.tokRate (s : Chip) (p : Port) (cls : Nat) : Nat :=
  match cls with
  | 0 => s.fld (F.RN_ALLOW_A0 p.ix)
  | 1 => s.fld (F.RN_ALLOW_A1 p.ix)
  | 2 => s.fld (F.RN_GRANT_G2 p.ix)
  | _ => s.fld (F.RN_GRANT_G3 p.ix)

/-- The depth of a class's bucket, in blocks (R309). -/
def Chip.tokDepth (s : Chip) (p : Port) (cls : Nat) : Nat :=
  if cls = 3 then 12 * s.tokRate p 3 else s.tokRate p cls

/-- The sequence number of the next own packet of a class, and the counter moved on (R302). -/
def Chip.takePseq (s : Chip) (cls : Nat) : Nat × Chip :=
  let v := nth 0 s.ring.pseq cls
  (v, { s with ring := { s.ring with pseq := s.ring.pseq.set cls ((v + 1) % 65536) } })

/-- Blocks waiting in a forward buffer (R308): those of its packets, and what is not sent yet of the pass-through packets on the way. -/
def PortSt.fwdBlocks (t : PortSt) : Nat :=
  (t.fwd.map fun q => q.words.length + 2).sum + ((t.started.filter (·.through)).map fun q => q.words.length + 2 - q.sent).sum

end Sys2Proof.Machine
end

