-- ==== Sys2Proof/Machine/Events.lean ====
section
/-! DEFINITION. The event sources (R435) and the effects of a raising (R430), down to the BLANK pins and the STOP
message of a safety condition (R244 to R247). -/

namespace Sys2Proof.Machine

/-! ### Event numbers (R435). The events of EG2 with a port prefix take the port: EG3 holds those of port W. -/

def EV.SYS_READY : Nat := 0
def EV.STRAP_ERR : Nat := 1
def EV.DRST_DONE : Nat := 2
def EV.THERM_HIGH : Nat := 3
def EV.PWR_CFG_ERR : Nat := 4
def EV.EVT_LOST : Nat := 5
def EV.SAFE_MET : Nat := 6
def EV.SAFE_ACK_REFUSED : Nat := 7
def EV.LOOP_HOLD : Nat := 8
def EV.LOOP_ACT_DROP : Nat := 9
def EV.LOOP_CFG_ERR : Nat := 10
def EV.CAL_DONE : Nat := 11
def EV.CAL_INCOMPLETE : Nat := 12
def EV.CAL_OVERRIDE : Nat := 13
def EV.TREF_LOST : Nat := 32
def EV.TREF_RESTORED : Nat := 33
def EV.TPLL_UNLOCK : Nat := 34
def EV.FRAME_SLIP : Nat := 35
def EV.TIME_STEP : Nat := 36
def EV.BUDGET_REFUSED : Nat := 37
def EV.TIME_QUALITY : Nat := 38
def EV.TIME_REROUTE : Nat := 39
def EV.TIME_NO_UPSTREAM : Nat := 40
def EV.TIME_GAP_UNKNOWN : Nat := 41
def EV.LN_LINK_UP (p : Port) : Nat := 64 + 32 * p.ix + 0
def EV.LN_LINK_DOWN (p : Port) : Nat := 64 + 32 * p.ix + 1
def EV.LN_HIBER (p : Port) : Nat := 64 + 32 * p.ix + 2
def EV.LN_DESKEW_FAIL (p : Port) : Nat := 64 + 32 * p.ix + 3
def EV.LN_FALLBACK (p : Port) : Nat := 64 + 32 * p.ix + 4
def EV.LN_PLL_UNLOCK (p : Port) : Nat := 64 + 32 * p.ix + 5
def EV.LN_ADAPT_FREEZE (p : Port) : Nat := 64 + 32 * p.ix + 6
def EV.LN_TAP_RESTORE (p : Port) : Nat := 64 + 32 * p.ix + 7
def EV.LN_EYE_LOW (p : Port) : Nat := 64 + 32 * p.ix + 8
def EV.LN_MODE_TIMEOUT (p : Port) : Nat := 64 + 32 * p.ix + 9
def EV.LN_BYPASS_LIMIT (p : Port) : Nat := 64 + 32 * p.ix + 10
def EV.LN_NBR_CHANGE (p : Port) : Nat := 64 + 32 * p.ix + 11
def EV.RN_FRAMING (p : Port) : Nat := 64 + 32 * p.ix + 12
def EV.RN_FWD_OVF (p : Port) : Nat := 64 + 32 * p.ix + 13
def EV.RN_WRAP (p : Port) : Nat := 64 + 32 * p.ix + 14
def EV.RN_UNWRAP (p : Port) : Nat := 64 + 32 * p.ix + 15
def EV.RING_JOINED : Nat := 80
def EV.RING_LEFT : Nat := 81
def EV.RNG_REFUSED : Nat := 82
def EV.RNG_DROPPED : Nat := 83
def EV.RNG_STRAY : Nat := 84
def EV.RNG_BADPKT : Nat := 85
def EV.RNG_CREDIT_LAPSED : Nat := 86
def EV.LAWN_STUCK : Nat := 128
def EV.LAWN_TP_DONE : Nat := 129
def EV.LAWN_DLL_UNLOCK : Nat := 130
def EV.LAWN_STALL : Nat := 131
def EV.LAWN_FOLLY_DROP : Nat := 132
def EV.HIT_LATE : Nat := 160
def EV.HIT_FUTURE : Nat := 161
def EV.HIT_ODROP : Nat := 162
def EV.HIT_FORCED_RELEASE : Nat := 163
def EV.HIT_OVF : Nat := 164
def EV.HIT_RR_ACTIVE : Nat := 165
def EV.HIT_RR_MAX : Nat := 166
def EV.CMP_DROP : Nat := 167
def EV.CMP_POISON : Nat := 168
def EV.CMP_CFG_ERR : Nat := 169
def EV.TRG_FORCED : Nat := 192
def EV.TRG_TRUNCATED : Nat := 193
def EV.TRG_SPILL : Nat := 194
def EV.TRG_PRE_CLIP : Nat := 195
def EV.TRG_NOROOM : Nat := 196
def EV.TRG_FIRE_DROP : Nat := 197
def EV.TRG_LATE_EVENT : Nat := 198
def EV.TRG_CFG_ERR : Nat := 199
def EV.TRG_ARM_DONE : Nat := 200
def EV.WAV_OVR : Nat := 224
def EV.WAV_DROP : Nat := 225
def EV.WAV_CFG_ERR : Nat := 226
def EV.XDC_OVR : Nat := 256
def EV.XDC_OPEN : Nat := 257
def EV.XDC_CFG_ERR : Nat := 258
def EV.XDC_URG_OVR : Nat := 259
def EV.XDC_LIN_INV : Nat := 260
def EV.TI_EDGE_LOST : Nat := 288
def EV.TI_TIMEOUT : Nat := 289
def EV.TI_STAT_DONE : Nat := 290
def EV.TI_CFG_ERR : Nat := 291
def EV.PO_MISSED : Nat := 292
def EV.PO_DONE : Nat := 293
def EV.MEM_CORRECTED : Nat := 320
def EV.MEM_POISONED : Nat := 321
def EV.MEM_POISON_READ : Nat := 322
def EV.LOG_OVF : Nat := 323
def EV.EGRESS_POISON : Nat := 324
def EV.CFG_DRIFT : Nat := 325
def EV.TMR_FIX : Nat := 326
def EV.CDC_DROP : Nat := 327
def EV.CDC_OVERRUN : Nat := 328
def EV.CMD_DENIED : Nat := 352
def EV.CMD_CRC : Nat := 353
def EV.CMD_COLLIDE : Nat := 354
def EV.CMD_OVF : Nat := 355
def EV.COMMIT_APPLIED : Nat := 356
def EV.COMMIT_REFUSED : Nat := 357
def EV.PROT_CHANGED : Nat := 358
def EV.PAIR_LOST : Nat := 359
def EV.PAIR_TAKEOVER : Nat := 360
def EV.PAIR_DEMOTED : Nat := 361
def EV.PAIR_MISMATCH : Nat := 362
def EV.PAIR_CLAIM_SAT : Nat := 363
def EV.PAIR_TBL_FULL : Nat := 364
def EV.PAIR_CFG_ERR : Nat := 365
def EV.STO_FULL : Nat := 366
def EV.STO_REFUSED : Nat := 367
def EV.STO_RESEND : Nat := 368
def EV.STO_LOST : Nat := 369
def EV.STO_TBL_POISON : Nat := 370

/-! ### Raising (R430) -/

/-- The status bit set, and EVT_LAST (R430). No write in this CCLK clears the bit (R6). -/
def markEvent (e : Nat) (s : Chip) : Chip :=
  (((s.noteSet (F.EVT_STAT_STAT (e / 32)).addr (e % 32)).setBit (F.EVT_STAT_STAT (e / 32)) (e % 32) true).setFld F.EVT_LAST_SOURCE e)
    |>.setFld F.EVT_LAST_INDEX (frameIdx s.frameNow)

/-- The route of a source (R430): RTE_LO below 16, RTE_HI from 16. -/
def Chip.route (s : Chip) (e : Nat) : Nat :=
  let b := e % 32
  if b < 16 then bits (s.fld (F.EVT_RTE_LO_RTE (e / 32))) (2 * b + 1) (2 * b)
  else bits (s.fld (F.EVT_RTE_HI_RTE (e / 32))) (2 * b - 31) (2 * b - 32)

/-- The enable bit of a source. -/
def Chip.evtEnabled (s : Chip) (e : Nat) : Bool := (s.fld (F.EVT_EN_EN (e / 32))).testBit (e % 32)

/-- A raising joins its group's next EVENT packet (R432). -/
def joinPacket (e : Nat) (s : Chip) : Chip :=
  let g := nth ⟨0, 0, 0, none⟩ s.evtG (e / 32)
  let g' := { g with
    count := satTo 16 (g.count + 1)
    raised := g.raised ||| 2 ^ (e % 32)
    first := if g.count = 0 then s.frameNow else g.first }
  { s with evtG := s.evtG.set (e / 32) g' }

/-- Whether a class bucket of a port holds n blocks (R309). -/
def Chip.hasTokens (s : Chip) (p : Port) (cls n : Nat) : Bool := decide (2048 * n ≤ (s.port p).tok cls)

/-- Takes n blocks from a class bucket (R309). -/
def takeTokens (p : Port) (cls n : Nat) (s : Chip) : Chip :=
  s.setPort p ((s.port p).setTok cls ((s.port p).tok cls - 2048 * n))

/-- No wrap of the port is in force for a class (R317). A wrap that classes 1 to 3 started because of SLEEP leaves class 0 alone. -/
def Chip.unwrapped (s : Chip) (p : Port) (cls : Nat) : Bool :=
  !(s.port p).wrapping || ((s.lane p).mode == 2 && cls == 0)

/-- A port takes own packets of a class: it is usable (R299), and no wrap of it is in force. -/
def Chip.takes (s : Chip) (p : Port) (cls : Nat) : Bool := s.usable p cls && s.unwrapped p cls

/-- A port takes pass-through packets of a class: in SLEEP those of classes 1 to 3 wait in its forward buffer (R308). -/
def Chip.passes (s : Chip) (p : Port) (cls : Nat) : Bool := s.usable p 0 && s.unwrapped p cls

/-- A packet that must leave by a port that is not usable and wraps out of the other port (R316). One that was wrapped before, or
that would have to wrap there too, is removed: a broadcast uncounted, any other counted as stray. With room it joins the other
port's forward buffer as WRAPPED pass-through, without room it is dropped there (R308). -/
def wrapInto (rz : Nat → Chip → Chip) (o : Port) (q : TxPkt) (s : Chip) : Chip :=
  let t := s.port o
  if q.wrapped || !s.unwrapped o q.cls.toNat then (if q.dest = 31#5 then s else rz EV.RNG_STRAY (s.bump F.RNG_STRAY_COUNT))
  else if t.fwdBlocks + q.words.length + 2 ≤ 4096 then
    (s.setPort o { t with fwd := t.fwd ++ [{ q with wrapped := true, through := true }] }).highWater
      (F.RN_BUF_HWM_BLOCKS o.ix) (t.fwdBlocks + q.words.length + 2)
  else rz (EV.RN_FWD_OVF o) (s.bump (F.RN_FWD_OVF_COUNT o.ix))

/-- The start of a wrap (R316): the status bit, the count and the event; every packet queued for the port that cannot leave by it and
whose START has not been sent wraps. -/
def startWrap (rz : Nat → Chip → Chip) (p : Port) (s : Chip) : Chip :=
  let t := s.port p
  if t.wrapping then s
  else
    let s1 := s.setPort p { t with wrapping := true, usableFrames := 0, txq := t.txq.filter fun q => s.usable p q.cls.toNat,
                                   fwd := t.fwd.filter fun q => s.usable p q.cls.toNat }
    let s2 := (s1.setFlag (if p = .east then F.RNG_STAT_WRAP_E else F.RNG_STAT_WRAP_W) true).bump (F.RN_WRAP_CNT_COUNT p.ix)
    forAll ((t.fwd ++ t.txq).filter fun q => !s.usable p q.cls.toNat) (wrapInto rz p.other) (rz (EV.RN_WRAP p) s2)

/-- A port takes a packet that leaves by it. -/
def Chip.takesTx (s : Chip) (p : Port) (q : TxPkt) : Bool :=
  if q.through then s.passes p q.cls.toNat else s.takes p q.cls.toNat

/-- A packet that leaves by port p goes to its transmitter (R306), wraps where the port is not usable (R316), or, with
WRAP_EN = 0 or no usable port, is removed and counted. -/
def placeTx (rz : Nat → Chip → Chip) (p : Port) (q : TxPkt) (s : Chip) : Chip :=
  if s.takesTx p q then
    let t := s.port p
    if q.through then
      if t.fwdBlocks + q.words.length + 2 ≤ 4096 then
        (s.setPort p { t with fwd := t.fwd ++ [q] }).highWater (F.RN_BUF_HWM_BLOCKS p.ix) (t.fwdBlocks + q.words.length + 2)
      else rz (EV.RN_FWD_OVF p) (s.bump (F.RN_FWD_OVF_COUNT p.ix))
    else s.setPort p { t with txq := t.txq ++ [q] }
  else if s.flag F.RNG_CFG_WRAP_EN && s.usable p.other 0 then
    wrapInto rz p.other q (startWrap rz p s)
  else s.bump (F.RN_LOST_COUNT p.ix)

/-- A refusal (R310): counted once for its class, and announced. -/
def refuse (rz : Nat → Chip → Chip) (cls : Nat) (s : Chip) : Chip :=
  rz EV.RNG_REFUSED (s.bump (F.RNG_REFUSE_COUNT cls))

/-- One copy of a DROP packet of class 0 or 1, offered in the CCLK in which it is built (R310): admitted if some port is
usable and the bucket of its own port holds it, otherwise refused and discarded. Says whether it was admitted. -/
def offerDrop (rz : Nat → Chip → Chip) (p : Port) (o : Offer) (pseq : Nat) (s : Chip) : Bool × Chip :=
  let cls := o.cls.toNat
  let n := o.words.length + 2
  let some_usable := s.usable p cls || s.usable p.other cls
  if some_usable && s.hasTokens p cls n then
    let q : TxPkt :=
      { ptype := o.ptype, cls := o.cls, dest := o.dest, src := BitVec.ofNat 5 s.addr, hops := 0#6, wrapped := false,
        len := o.words.length, pseq := BitVec.ofNat 16 pseq, words := o.words, badEnd := o.bad, own := true,
        through := false, idx := o.idx, stamp := s.clk.cc + s.clk.cclk, egress := none, slot := none,
        owner := some o.owner, sent := 0 }
    (true, placeTx rz p q (takeTokens p cls n s))
  else if s.tokDepth p cls < n then
    -- longer than the depth of its bucket: discarded at once and counted in both counters
    (false, rz EV.RNG_DROPPED ((refuse rz cls s).bump F.RNG_DROP_COUNT))
  else (false, refuse rz cls s)

/-- Offers a DROP packet on the ports of its destination (R298); says whether a copy was admitted. -/
def sendDrop (rz : Nat → Chip → Chip) (o : Offer) (s : Chip) : Bool × Chip :=
  let (v, s1) := s.takePseq o.cls.toNat
  let r := (s.routes o.dest.toNat).foldl
    (fun (acc : Bool × Chip) p => let (a, t) := offerDrop rz p o v acc.2; (acc.1 || a, t)) (false, s1)
  if r.1 then r else (false, { r.2 with ring := { r.2.ring with pseq := s.ring.pseq } })

/-- The claim number of the device (chapter 17). -/
def Chip.claim (s : Chip) : Nat := s.fld F.PAIR_STAT_CLAIM

/-- The STOP of a condition that starts to assert (R247): three words, class 0, to all, on both ports. -/
def sendStop (rz : Nat → Chip → Chip) (c t : Nat) (s : Chip) : Chip :=
  let seq := (s.fld F.LOOP_STOP_SEQ_SEQ + 1) % 65536
  let s1 := s.setFld F.LOOP_STOP_SEQ_SEQ seq
  let w0 := place 16 48 s.claim ||| place 16 32 seq ||| place 5 27 s.addr ||| place 4 23 c
    ||| place 1 22 (s.fld (F.LOOP_SC_CFG_PIN_A c)) ||| place 1 21 (s.fld (F.LOOP_SC_CFG_PIN_B c))
  let o : Offer :=
    { ptype := 0x08#8, cls := 0#2, dest := 31#5, owner := .stop seq, idx := c, words := w64 w0 :: time128 t s.quality,
      last := true, bad := false, refused := false, held := 0 }
  let r := sendDrop rz o s1
  if r.1 then r.2.bump F.LOOP_STOP_CNT_COUNT else r.2

/-- A condition is asserting (R245). -/
def Chip.asserting (s : Chip) (c : Nat) : Bool := (s.fld F.LOOP_SAFE_STAT_ASSERT).testBit c

/-- A meeting of condition c by a datum at network time t (R245 to R247): the count of MIN frames starts again, a release
asked for is refused, and a condition that does not assert starts to. -/
def meetCond (rz : Nat → Chip → Chip) (c t : Nat) (s : Chip) : Chip :=
  let sc := nth ⟨false, 0, false⟩ s.sc c
  let s0 := { s with
    sc := s.sc.set c { sc with frames := 0, release := false }
    fb := if s.flag (F.LOOP_SC_CFG_HOLDLOOPS c) then
        { s.fb with cur := s.fb.cur.map fun (a : FrameAcc) => { a with held := true } }
      else s.fb }
  let s1 := if sc.release then rz EV.SAFE_ACK_REFUSED (s0.bump F.LOOP_ACK_REFUSE_COUNT) else s0
  let s1a := cond (s.flag (F.LOOP_SC_CFG_LATCH c)) (fun s => s.setBit F.LOOP_SAFE_LATCH_LATCH c true) s1
  if s.asserting c then s1a
  else
    let s2 := s1a.setBit F.LOOP_SAFE_STAT_ASSERT c true
    let s4 := rz EV.SAFE_MET (s2.bump (F.LOOP_SC_CNT_COUNT c))
    cond (s.flag (F.LOOP_SC_CFG_STOP_EN c)) (sendStop rz c t) s4

/-- A raising offered to the EVENT conditions (R430, R244): those whose THR selects its group and that are usable. -/
def offerSafety (rz : Nat → Chip → Chip) (e : Nat) (s : Chip) : Chip :=
  forN 16 (fun c s =>
    if s.fld (F.LOOP_SC_CFG_TYPE c) = 3 && (s.fld (F.LOOP_SC_THR_THR c)).testBit (e / 32) then meetCond rz c s.now s
    else s) s

/-- A raising, with fuel: a raising may meet a safety condition, whose assertion raises SAFE_MET and sends a STOP, whose
refusal raises RNG_REFUSED. Each condition starts to assert once, so 17 levels are enough. -/
def raiseFuel : Nat → Nat → Chip → Chip
  | 0, e, s => markEvent e s
  | n + 1, e, s =>
    let s1 := markEvent e s
    if !s.evtEnabled e then s1
    else
      match s.route e with
      | 1 => joinPacket e s1
      | 3 => if e = EV.SAFE_MET || e = EV.SAFE_ACK_REFUSED then s1 else offerSafety (raiseFuel n) e s1
      | _ => s1

/-- A raising of event e (R430). -/
def raise (e : Nat) (s : Chip) : Chip := raiseFuel 17 e s

/-- The EVT_N pin is driven low (R431): high impedance until ready (DEDUCED, notes/assumptions/44). -/
def Chip.evtDrive (s : Chip) : Bool :=
  s.running && (List.range 384).any fun e =>
    (s.fld (F.EVT_STAT_STAT (e / 32))).testBit (e % 32) && s.evtEnabled e && s.route e == 2

/-- A BLANK pin is driven low (R245): the OR of its asserting conditions and its FORCE bit. `b` selects pin B. -/
def Chip.blankDrive (s : Chip) (b : Bool) : Bool :=
  s.up && (s.flag (if b then F.LOOP_CTL_FORCE_B else F.LOOP_CTL_FORCE_A)
    || (List.range 16).any fun c => s.asserting c && s.flag (if b then F.LOOP_SC_CFG_PIN_B c else F.LOOP_SC_CFG_PIN_A c))

end Sys2Proof.Machine
end

