-- ==== Sys2Proof/Machine/Mem.lean ====
section
/-! DEFINITION. The coded memories (chapter 16): block checks, poison, reads and writes, and the correction log. -/

namespace Sys2Proof.Machine

/-- Data words of each memory (R379). -/
def memWords (m : Nat) : Nat :=
  nth 0 [8388608, 262144, 8192, 8192, 24640, 24640, 24640, 512, 512, 8192, 8192, 26624] m

/-- A configuration memory (R379). -/
def memIsConfig (m : Nat) : Bool := decide (2 ≤ m) && decide (m ≤ 8)

/-- Scrubbed memories (R379). -/
def memScrubbed (m : Nat) : Bool := m != 9 && m != 10

/-- What a word holds after initialisation (R416): PIX its reset value (R69), the calibration tables their cal values,
everything else 0. -/
def memReset (m w : Nat) : W64 :=
  if m = 2 || m = 3 then 0x2020202020202020#64
  else if m = 4 || m = 5 || m = 6 then Config.calTable w
  else 0#64

/-- An empty, clean memory. -/
def Mem.clean : Mem := ⟨[], [], [], []⟩

/-- The canonical form of a memory: each of its maps lists rising addresses, and nothing that an unlisted address reads as. -/
def Mem.wf (x : Mem) : Bool := x.data.wf && x.par.wf && x.colD.wf && x.colP.wf

/-- Memory m. -/
def Chip.mem (s : Chip) (m : Nat) : Mem := nth Mem.clean s.mems m

/-- Replaces memory m; a change of a configuration memory changes its bank's digest image (R375). -/
def Chip.setMem (s : Chip) (m : Nat) (x : Mem) : Chip := { s with mems := s.mems.set m x }

/-- The data of a word as held. -/
def Chip.memData (s : Chip) (m w : Nat) : Nat := (memReset m w ^^^ (s.mem m).data.get w).toNat

/-- The even byte parities of a word (R380). -/
def byteParity (x : Nat) : Nat :=
  (List.range 8).foldl (fun acc j => acc ||| place 1 j (popCount (bits x (8 * j + 7) (8 * j)))) 0

/-- At least five parity bits fail: the word is poisoned (R381). -/
def parPoisoned (par : Nat) : Bool := decide (5 ≤ popCount par)

/-- A word of a memory is poisoned. -/
def Chip.poisoned (s : Chip) (m w : Nat) : Bool := parPoisoned ((s.mem m).par.get w).toNat

/-- Sets the data and the failing parity of a word, and leaves the column word as the XOR of its block would have it. -/
def Mem.put (x : Mem) (m w data par : Nat) : Mem :=
  { x with data := x.data.set w (memReset m w ^^^ w64 data), par := x.par.set w (BitVec.ofNat 8 par) }

/-- The column word recomputed over the data as they stand (R381). -/
def Mem.fixColumn (x : Mem) (b : Nat) : Mem := { x with colD := x.colD.set b 0#64, colP := x.colP.set b 0#8 }

/-- Poisons a word (R381). -/
def Mem.poison (x : Mem) (w : Nat) : Mem := ({ x with par := x.par.set w 0xFF#8 }).fixColumn (w / 8)

/-- Matches of the log (R392). -/
def LogEntry.same (a b : LogEntry) : Bool :=
  a.mem == b.mem && a.word == b.word && a.bit == b.bit && a.kind == b.kind && a.source == b.source

/-- Counts a match in the first matching entry (R392). -/
def logCount (e : LogEntry) : List LogEntry → Option (List LogEntry)
  | [] => none
  | x :: xs => if x.same e then some ({ x with count := min 255 (x.count + 1) } :: xs) else (logCount e xs).map (x :: ·)

/-- Takes out the newest correctable entry (R392), given the log newest first. -/
def dropNewestCorrectable : List LogEntry → Option (List LogEntry)
  | [] => none
  | x :: xs => if x.kind < 3 then some xs else (dropNewestCorrectable xs).map (x :: ·)

/-- Makes or counts a log entry (R392). -/
def logEvent (e : LogEntry) (s : Chip) : Chip :=
  let setLog := fun (l : List LogEntry) (s : Chip) => { s with scrub := { s.scrub with log := l } }
  match logCount e s.scrub.log with
  | some l => setLog l s
  | none =>
    if s.scrub.log.length < 16 then setLog (s.scrub.log ++ [e]) s
    else
      let s1 := raise EV.LOG_OVF (s.bump F.MIN_LOG_LOST_COUNT)
      if e.kind = 3 then
        match dropNewestCorrectable s.scrub.log.reverse with
        | some l => setLog (l.reverse ++ [e]) s1
        | none => s1
      else s1

/-- A correction (R383): counted, logged, announced. -/
def noteCorrected (kind src m w bit : Nat) (s : Chip) : Chip :=
  let s1 := logEvent ⟨kind, src, m, 1, w, bit, frameIdx s.frameNow % 65536⟩ s
  raise EV.MEM_CORRECTED ((s1.bump F.MIN_CORR_CNT_COUNT).bump (F.MIN_M_CORR_COUNT m))

/-- An uncorrectable block (R383): counted, logged under its lowest poisoned word, announced. -/
def noteUncorrectable (src m w : Nat) (s : Chip) : Chip :=
  let s1 := logEvent ⟨3, src, m, 1, w, 0x7F, frameIdx s.frameNow % 65536⟩ s
  raise EV.MEM_POISONED ((s1.bump F.MIN_UNC_CNT_COUNT).bump (F.MIN_M_UNC_COUNT m))

/-- The failing parity bytes of a block (R382): (word 0 to 7, byte) of the words that are not poisoned, and (8, byte) of the
column word. -/
def Mem.failing (x : Mem) (b : Nat) : List (Nat × Nat) :=
  ((List.range 8).flatMap fun i =>
    let par := (x.par.get (8 * b + i)).toNat
    if parPoisoned par then [] else ((List.range 8).filter par.testBit).map fun j => (i, j)) ++
  ((List.range 8).filter (x.colP.get b).toNat.testBit).map fun j => (8, j)

/-- S is one bit, in byte j. -/
def oneBitIn (syn j : Nat) : Option Nat :=
  (List.range 8).findSome? fun k => if syn = 2 ^ (8 * j + k) then some (8 * j + k) else none

/-- Poisons every word of a block in the list (R383). -/
def poisonWords (x : Mem) (ws : List Nat) : Mem := ws.foldl Mem.poison x

/-- A block that cannot be corrected (R383). -/
def poisonBlock (src m b : Nat) (s : Chip) : Chip :=
  let x := s.mem m
  let bad := (List.range 8).filter fun i => (x.failing b).any fun p => p.1 == i
  let ws := (if bad.isEmpty then List.range 8 else bad).map (8 * b + ·)
  noteUncorrectable src m (ws.headD 0) (s.setMem m ((poisonWords x ws).fixColumn b))

/-- A block check (R382, R383) with its SOURCE (R393). -/
def blockCheck (src m b : Nat) (s : Chip) : Chip :=
  let x := s.mem m
  let syn := (x.colD.get b).toNat
  match x.failing b with
  | [] => if syn = 0 then s else poisonBlock src m b s
  | [(8, j)] =>
    if syn = 0 then noteCorrected 2 src m (8 * b) (64 + j) (s.setMem m (x.fixColumn b))
    else match oneBitIn syn j with
      | some k => noteCorrected 2 src m (8 * b) k (s.setMem m (x.fixColumn b))
      | none => poisonBlock src m b s
  | [(i, j)] =>
    let w := 8 * b + i
    if syn = 0 then noteCorrected 1 src m w (64 + j) (s.setMem m { x with par := x.par.set w 0#8 })
    else match oneBitIn syn j with
      | some k => noteCorrected 0 src m w k (s.setMem m ((x.put m w (s.memData m w ^^^ 2 ^ k) 0).fixColumn b))
      | none => poisonBlock src m b s
  | _ => poisonBlock src m b s

/-- A word read by a consumer as poisoned (R384). -/
def notePoisonRead (s : Chip) : Chip := raise EV.MEM_POISON_READ (s.bump F.MIN_POISON_READ_COUNT)

/-- A read (R384): the data, whether it is poisoned, and the chip after it. -/
def memRead (m w : Nat) (s : Chip) : Nat × Bool × Chip :=
  let par := ((s.mem m).par.get w).toNat
  let s1 := if par = 0 || parPoisoned par then s else blockCheck 1 m (w / 8) s
  if s1.poisoned m w then (s1.memData m w, true, notePoisonRead s1) else (s1.memData m w, false, s1)

/-- A read of a word of the active calibration or LIN tables as it stood for the data of age k (R26): an older word that a
commit has replaced since is read as it was. -/
def memReadAt (k m w : Nat) (s : Chip) : Nat × Bool × Chip :=
  let old := match k, m with
    | 0, _ => (s.mem m).data
    | 1, 4 => s.tabs.cal1
    | 1, _ => s.tabs.lin1
    | _, 4 => s.tabs.cal2
    | _, _ => s.tabs.lin2
  if old.get w = (s.mem m).data.get w then memRead m w s else ((memReset m w ^^^ old.get w).toNat, false, s)

/-- Bytes of `new` where the byte mask has a 1, of `old` elsewhere. -/
def mergeBytes (old new mask : Nat) : Nat :=
  (List.range 8).foldl (fun acc j =>
    acc ||| place 8 (8 * j) (bits (if mask.testBit j then new else old) (8 * j + 7) (8 * j))) 0

/-- A write of the bytes of a mask (R385). -/
def memWrite (m w mask data : Nat) (s : Chip) : Chip :=
  let par := ((s.mem m).par.get w).toNat
  let s1 := if par = 0 || parPoisoned par then s else blockCheck 2 m (w / 8) s
  let new := mergeBytes (s1.memData m w) data mask
  let s2 := if s1.poisoned m w && mask % 256 != 255 then s1.setMem m ((((s1.mem m).put m w new 0xFF)).fixColumn (w / 8))
    else s1.setMem m ((s1.mem m).put m w new 0)
  if memIsConfig m then { s2 with cmd := { s2.cmd with digDirty := true } } else s2

/-- Writes a word poisoned (R390, commit copy and copies of poisoned data). -/
def memWritePoisoned (m w data : Nat) (s : Chip) : Chip :=
  let s1 := memWrite m w 255 data s
  s1.setMem m ((s1.mem m).poison w)

/-- Words of memory m that are poisoned now (MIN_Mi_POISONED). -/
def Chip.poisonCount (s : Chip) (m : Nat) : Nat := (s.mem m).par.countP fun e => parPoisoned e.2.toNat

end Sys2Proof.Machine
end

