-- ==== Sys2Proof/Machine/StoreOps.lean ====
section
/-! DEFINITION. The acquisition store (R92 to R95): regions, the objects in them, their fill, and the arbiter. -/

namespace Sys2Proof.Machine

/-- HIT_STORE_Rn.SIZE (R99). -/
def regionSizeF (n : Nat) : Fld := ⟨0x30180 + 4 * n, 16, 11, true⟩

/-- HIT_STORE_Rn.BASE (R99). -/
def regionBaseF (n : Nat) : Fld := ⟨0x30180 + 4 * n, 0, 10, true⟩

/-- Words of a region: 8,192 for each 64 KiB unit (R92). -/
def Chip.regionCap (s : Chip) (n : Nat) : Nat := 8192 * s.fld (regionSizeF n)

/-- The word of memory 0 at an offset of a region (R92). -/
def Chip.regionWord (s : Chip) (n off : Nat) : Nat := (8192 * s.fld (regionBaseF n) + off) % memWords 0

/-- Region n. -/
def Chip.region (s : Chip) (n : Nat) : Region := nth ⟨0, false, 0, []⟩ s.store.regions n

/-- Replaces region n. -/
def Chip.setRegion (s : Chip) (n : Nat) (r : Region) : Chip :=
  { s with store := { s.store with regions := s.store.regions.set n r } }

/-- The length of an object in words. -/
def Obj.len (o : Obj) : Nat := (o.segs.map Prod.snd).sum

/-- The offsets of an object's words, in order. -/
def Obj.offsets (o : Obj) : List Nat := o.segs.flatMap fun g => (List.range g.2).map (g.1 + ·)

/-- Words of a region that objects hold. -/
def Region.used (r : Region) : Nat := (r.objs.map Obj.len).sum

/-- A history region (R93). -/
def isHistory (n : Nat) : Bool := decide (1 ≤ n) && decide (n ≤ 6)

/-- Words of the chunk that a record assembles (R120). -/
def RecSt.size (r : RecSt) : Nat := 18 + r.hseg.length + (r.wseg.map List.length).sum + r.xseg.length

/-- Words of a region in use: its objects, and in RECORD the chunks being assembled. -/
def Chip.regionUsed (s : Chip) (n : Nat) : Nat :=
  (s.region n).used + (if n = 7 then (s.trg.recs.map RecSt.size).sum else 0)

/-- The fill of a region in 1/256 of its size (R89, R99). -/
def Chip.regionFill (s : Chip) (n : Nat) : Nat :=
  if isHistory n && (s.region n).wrapped then 255
  else if s.regionCap n = 0 then 255
  else min 255 (256 * s.regionUsed n / s.regionCap n)

/-- Inserts a run into runs sorted by offset. -/
def insertRun (g : Nat × Nat) : List (Nat × Nat) → List (Nat × Nat)
  | [] => [g]
  | h :: t => if g.1 ≤ h.1 then g :: h :: t else h :: insertRun g t

/-- The free runs between sorted used runs, from an offset up to the capacity. -/
def gaps (cap : Nat) : Nat → List (Nat × Nat) → List (Nat × Nat)
  | at_, [] => if at_ < cap then [(at_, cap - at_)] else []
  | at_, g :: gs => (if at_ < g.1 then [(at_, g.1 - at_)] else []) ++ gaps cap (max at_ (g.1 + g.2)) gs

/-- The first n words of a list of runs. -/
def takeRuns : Nat → List (Nat × Nat) → List (Nat × Nat)
  | _, [] => []
  | n, g :: gs => if n = 0 then [] else if n ≤ g.2 then [(g.1, n)] else g :: takeRuns (n - g.2) gs

/-- Free runs of a region, from its next word on and then from its start. -/
def Chip.freeRuns (s : Chip) (n : Nat) : List (Nat × Nat) :=
  let r := s.region n
  let used := (r.objs.flatMap Obj.segs).foldr insertRun []
  let gs := gaps (s.regionCap n) 0 used
  let after := gs.filterMap fun g => if r.head ≤ g.1 then some g else if r.head < g.1 + g.2 then some (r.head, g.1 + g.2 - r.head) else none
  let before := gs.filterMap fun g => if g.1 + g.2 ≤ r.head then some g else if g.1 < r.head then some (g.1, r.head - g.1) else none
  after ++ before

/-- Free words of a queue region. -/
def Chip.regionFree (s : Chip) (n : Nat) : Nat := s.regionCap n - s.regionUsed n

/-- Requester classes of R95. -/
def addBacklog (cls bytes : Nat) (s : Chip) : Chip :=
  { s with store := { s.store with backlog := s.store.backlog.set cls (nth 0 s.store.backlog cls + bytes) } }

/-- Bytes that the arbiter has left for a requester class before the deadline of work that starts at this tick (R21, R95). -/
def Chip.bandwidthLeft (s : Chip) (cls : Nat) : Nat := 248 * (s.frameCclk - s.clk.cclk) - (s.store.backlog.take (cls + 1)).sum

/-- CCLK until the arbiter has served every class above one, as far as it is asked now (R95). -/
def Chip.storeWait (s : Chip) (cls : Nat) : Nat := ceilDiv (s.store.backlog.take cls).sum 248

/-- One CCLK of the arbiter (R95): 248 bytes in fixed priority. -/
def serve : Nat → List Nat → List Nat
  | _, [] => []
  | n, b :: bs => (b - n) :: serve (n - b) bs

/-- Writes words at offsets of a region (R95, R385). -/
def writeAt (n : Nat) (offs : List Nat) (ws : List W64) (s : Chip) : Chip :=
  forAll (offs.zip ws) (fun p s => memWrite 0 (s.regionWord n p.1) 255 p.2.toNat s) s

/-- The quadrants a full queue region presses (R89): all four while FRAME, RECORD, CSTAGE or EGRESS is at or above HIGH. -/
def notePressure (n : Nat) (s : Chip) : Chip :=
  let cap := s.regionCap n
  if (n = 0 || n = 7 || n = 8 || n = 9) && cap != 0 && decide (s.fld F.HIT_RR_WM_HIGH * cap ≤ 256 * s.regionUsed n) then
    { s with fb := { s.fb with press := [true, true, true, true] } }
  else s

/-- The high-water mark of a region (R99). -/
def noteFill (n : Nat) (s : Chip) : Chip :=
  notePressure n (s.highWater (F.HIT_STORE_FILL_HWM n) (s.regionFill n))

/-- Puts a content into a queue region (R93): none where it does not fit. -/
def putQueue (n : Nat) (ws : List W64) (tag t0 t1 : Nat) (readers : List Reader) (s : Chip) : Option (Nat × Chip) :=
  if s.regionFree n < ws.length then none
  else
    let segs := takeRuns ws.length (s.freeRuns n)
    let r := s.region n
    let o : Obj := { id := s.store.nextObj, segs := segs, tag := tag, t0 := t0, t1 := t1, readers := readers }
    let head := match segs.getLast? with | some g => (g.1 + g.2) % s.regionCap n | none => r.head
    let s1 := s.setRegion n { r with head := head, objs := r.objs ++ [o] }
    let s2 := { s1 with store := { s1.store with nextObj := o.id + 1 } }
    some (o.id, noteFill n (writeAt n o.offsets ws s2))

/-- An offset lies in a run. -/
def inRun (g : Nat × Nat) (x : Nat) : Bool := decide (g.1 ≤ x) && decide (x < g.1 + g.2)

/-- Two runs share a word. -/
def runsMeet (a b : Nat × Nat) : Bool := decide (a.1 < b.1 + b.2) && decide (b.1 < a.1 + a.2)

/-- Writes a content into a circular history region, over the oldest data (R93); `whole` keeps it in one run (R147, R172). A region of size 0 is absent; of a
content longer than the region nothing is held. -/
def putHistory (whole : Bool) (n : Nat) (ws : List W64) (tag t0 t1 : Nat) (s : Chip) : Chip :=
  let cap := s.regionCap n
  let len := ws.length
  if cap = 0 || cap < len then s.setRegion n { s.region n with lost := max (s.region n).lost (tag + 1) }
  else
    let r := s.region n
    let h := r.head % cap
    let segs := if h + len ≤ cap then [(h, len)] else if whole then [(0, len)] else [(h, cap - h), (0, h + len - cap)]
    let o : Obj := { id := s.store.nextObj, segs := segs, tag := tag, t0 := t0, t1 := t1, readers := [] }
    let keep := r.objs.filter fun q => !(q.segs.any fun a => segs.any (runsMeet a))
    let lost := (r.objs.filter fun q => q.segs.any fun a => segs.any (runsMeet a)).foldl (fun m q => max m (q.tag + 1)) r.lost
    let s1 := s.setRegion n
      { head := (if whole && cap < h + len then len else h + len) % cap, wrapped := r.wrapped || decide (cap ≤ h + len), lost := lost, objs := keep ++ [o] }
    let s2 := { s1 with store := { s1.store with nextObj := o.id + 1 } }
    noteFill n (writeAt n o.offsets ws s2)

/-- An object of a region by its number. -/
def Chip.findObj (s : Chip) (n id : Nat) : Option Obj := (s.region n).objs.find? fun o => o.id == id

/-- Words of memory 0 as a reader gets them (R384), with the indices of the poisoned ones. -/
def readStore (ws : List Nat) (s : Chip) : List W64 × List Nat × Chip :=
  let r := ws.foldl (fun (acc : List W64 × List Nat × Chip) w =>
    let (d, p, t) := memRead 0 w acc.2.2
    (w64 d :: acc.1, if p then acc.1.length :: acc.2.1 else acc.2.1, t)) ([], [], s)
  (r.1.reverse, r.2.1, r.2.2)

/-- The words of an object as its reader gets them, with the indices of the poisoned ones. -/
def readWords (n : Nat) (o : Obj) (s : Chip) : List W64 × List Nat × Chip :=
  readStore (o.offsets.map (s.regionWord n)) s

/-- The words of an object as its reader gets them (R384), whether one was poisoned, and the chip after the reads. -/
def readObj (n : Nat) (o : Obj) (s : Chip) : List W64 × Bool × Chip :=
  let r := readWords n o s
  (r.1, !r.2.1.isEmpty, r.2.2)

/-- The words of memory 0 that an object of a region holds. -/
def Chip.objWords (s : Chip) (n : Nat) (o : Option Obj) : List Nat :=
  match o with
  | some o => o.offsets.map (s.regionWord n)
  | none => []

/-- A content of this length fits a history region (R93): one that does not is not written. -/
def Chip.historyFits (s : Chip) (n len : Nat) : Bool := s.regionCap n != 0 && decide (len ≤ s.regionCap n)

/-- The object that a history received last. -/
def Chip.newestObj (s : Chip) (n : Nat) : Option Obj := (s.region n).objs.getLast?

/-- A reader has finished with an object (R93). -/
def doneReading (n id : Nat) (who : Reader) (s : Chip) : Chip :=
  let r := s.region n
  s.setRegion n { r with objs := r.objs.map fun o => if o.id = id then { o with readers := o.readers.erase who } else o }

/-- Takes an object out of a region: its space is freed. -/
def freeObj (n id : Nat) (s : Chip) : Chip :=
  let r := s.region n
  s.setRegion n { r with objs := r.objs.filter fun o => o.id != id }

/-- Empties a region (R94, R416). -/
def emptyRegion (n : Nat) (s : Chip) : Chip :=
  let r := s.region n
  s.setRegion n ⟨0, false, r.objs.foldl (fun m q => max m (q.tag + 1)) r.lost, []⟩

/-- STORE_BANDWIDTH_GRANT: one CCLK of the arbiter. -/
def grantStore (s : Chip) : Chip := { s with store := { s.store with backlog := serve 248 s.store.backlog } }

end Sys2Proof.Machine
end

