-- ==== Sys2Proof/Machine/RingOps.lean ====
section
/-! DEFINITION. The offer of own packets under the WAIT policy (R304, R309, R310), their admission and their discard. -/

namespace Sys2Proof.Machine

/-- The entry of an extent that is not poisoned is changed and must be sent in an INDEX (R351). -/
def markDirty (e : Nat) (s : Chip) : Chip :=
  if s.sto.dirty.contains e then s else { s with sto := { s.sto with dirty := s.sto.dirty ++ [e] } }

/-- Extent entry e (R341): entry 0 reads 0. -/
def Chip.extent (s : Chip) (e : Nat) : Nat := if e = 0 then 0 else s.memData 1 e

/-- Changes bits of an extent entry (R341, R351). Entry 0 never changes. -/
def setExtent (e v : Nat) (s : Chip) : Chip :=
  if e = 0 || s.extent e = v then s else markDirty e (memWrite 1 e 255 v s)

/-- The STATE of an extent: 0 FREE, 1 OPEN, 2 CLOSED, 3 DAMAGED. -/
def extState (v : Nat) : Nat := bits v 12 11

/-- An entry with its STATE replaced. -/
def withState (v st : Nat) : Nat := (v - place 2 11 (extState v)) ||| place 2 11 st

/-- Gives an item up (R350, R351): its space is freed, its extent becomes DAMAGED (and takes POISON where a poisoned word was
the cause), the loss is counted and announced. -/
def giveUpItem (pt cseq : Nat) (poison : Bool) (s : Chip) : Chip :=
  match s.sto.items.find? fun i => i.pt == pt && i.cseq == cseq with
  | none => s
  | some i =>
    let s1 := { s with sto := { s.sto with items := s.sto.items.filter fun j => !(j.pt == pt && j.cseq == cseq) } }
    let s2 := match i.egress with | some o => freeObj 9 o s1 | none => s1
    let s3 := match i.extent with
      | some e =>
        let v := withState (s2.extent e) 3
        setExtent e (if poison then v ||| 256 else v) s2
      | none => s2
    raise EV.STO_LOST (s3.bump F.STO_LOST_COUNT)

/-- The reader `ring` has finished with the content an offer was cut from, once its last segment left the queue (R93). -/
def contentDone (o : Owner) (s : Chip) : Chip :=
  match o with
  | .frame id => doneReading 0 id .ring s
  | .record id => doneReading 7 id .ring s
  | .stream _ id => doneReading 8 id .ring s
  | _ => s

/-- The payload of a group's EVENT packet, taken at admission (R432). -/
def Chip.eventWords (s : Chip) (g : Nat) : List W64 :=
  let e := nth ⟨0, 0, 0, none⟩ s.evtG g
  [w64 (place 16 32 e.count ||| place 5 27 s.addr ||| place 4 16 g), w64 (frameWord e.first),
   w64 (place 32 32 e.raised ||| s.fld (F.EVT_STAT_STAT g))]

/-- A group's gathering starts again, `since` ticks after an admitted EVENT (R432). -/
def clearGroup (g : Nat) (since : Option Nat) (s : Chip) : Chip :=
  { s with evtG := s.evtG.set g ⟨0, 0, 0, since⟩ }

/-- The CSEQ of a class-2 or class-3 packet (R304). -/
def offerCseq (o : Offer) : Nat := bits (o.words.headD 0#64).toNat 63 32

/-- What an admission touches beside the tokens (R306, R345, R432). -/
def onAdmit (o : Offer) (egress : Option Nat) (s : Chip) : Chip :=
  match o.owner with
  | .event g => (clearGroup g (some 0) s).bump F.EVT_PKT_CNT_COUNT
  | .storeItem pt cseq =>
    { s with sto := { s.sto with items := s.sto.items.map fun i =>
        if i.pt == pt && i.cseq == cseq then { i with egress := egress, admitted := s.cclkNow, waiting := false } else i } }
  | w => if o.last then contentDone w s else s

/-- What a discard touches (R310, R350, R432): the rest of the content goes with it, each segment counted. -/
def onDiscard (p : Port) (o : Offer) (s : Chip) : Chip :=
  let cls := o.cls.toNat
  let s1 := raise EV.RNG_DROPPED (s.bump F.RNG_DROP_COUNT)
  let same := fun (q : Offer) => decide (2 ≤ cls) && q.ptype == o.ptype && offerCseq q == offerCseq o
  let rest := (s1.port p).wait cls
  let s2 := (s1.setPort p ((s1.port p).setWait cls (rest.filter fun q => !same q))).bumpBy F.RNG_DROP_COUNT
    (rest.countP same)
  match o.owner with
  | .event g => raise EV.EVT_LOST ((clearGroup g ((nth ⟨0, 0, 0, none⟩ s.evtG g).since) s2).bump F.EVT_PKT_LOST_COUNT)
  | .storeItem pt cseq => giveUpItem pt cseq false s2
  | w => contentDone w s2

/-- An own FRAME or RECORD packet that stands refused presses all four quadrants (R89, R310). -/
def noteRefusedPressure (o : Offer) (s : Chip) : Chip :=
  if o.ptype = 0x10#8 || o.ptype = 0x11#8 then { s with fb := { s.fb with press := [true, true, true, true] } } else s

/-- A packet of the queue as a transmitter holds it. -/
def Offer.toTx (o : Offer) (s : Chip) (pseq : Nat) (egress : Option Nat) : TxPkt :=
  { ptype := o.ptype, cls := o.cls, dest := o.dest, src := BitVec.ofNat 5 s.addr, hops := 0#6, wrapped := false,
    len := o.words.length, pseq := BitVec.ofNat 16 pseq, words := o.words, badEnd := o.bad, own := true,
    through := false, idx := o.idx, stamp := s.clk.cc + s.clk.cclk, egress := egress, slot := none,
    owner := some o.owner, sent := 0 }

/-- An offer as it is built when it is offered: an EVENT packet takes its group's payload then (R432). -/
def Chip.fillOffer (s : Chip) (o : Offer) : Offer :=
  match o.owner with
  | .event g => { o with words := s.eventWords g }
  | _ => o

/-- The offer at the head of a WAIT queue (R309, R310): admitted when a port is usable, its bucket holds the packet and, for
classes 2 and 3, EGRESS has room. The second value tells whether the head left the queue. -/
def offerHead (p : Port) (cls : Nat) (s : Chip) : Bool × Chip :=
  match (s.port p).wait cls with
  | [] => (false, s)
  | o0 :: rest =>
    let o := s.fillOffer o0
    let n := o.words.length + 2
    let usableAny := s.usable p cls || s.usable p.other cls
    let pop := s.setPort p ((s.port p).setWait cls rest)
    let refused : Bool × Chip :=
      if o0.refused then (false, s)
      else
        let s1 := noteRefusedPressure o (refuse raise cls s)
        if s.tokDepth p cls < n then (true, onDiscard p o (s1.setPort p ((s1.port p).setWait cls rest)))
        else
          (false, (s1.setPort p ((s1.port p).setWait cls ({ o0 with refused := true, held := s.cclkNow } :: rest))))
    if usableAny && s.hasTokens p cls n then
      if cls < 2 then
        let (v, s1) := pop.takePseq cls
        (true, onAdmit o none (placeTx raise p (o.toTx s v none) (takeTokens p cls n s1)))
      else
        match putQueue 9 ([0#64] ++ o.words ++ [0#64]) 0 0 0 [.ring] pop with
        | none => refused
        | some (id, s1) =>
          let (v, s2) := s1.takePseq cls
          (true, onAdmit o (some id) (placeTx raise p (o.toTx s v (some id)) (takeTokens p cls n s2)))
    else refused

/-- Offers the heads of a WAIT queue until one stays (R310). -/
def pump : Nat → Port → Nat → Chip → Chip
  | 0, _, _, s => s
  | n + 1, p, cls, s => match offerHead p cls s with
    | (true, t) => pump n p cls t
    | (false, t) => t

/-- Offers what a WAIT queue holds. -/
def pumpQueue (p : Port) (cls : Nat) (s : Chip) : Chip := pump ((s.port p).wait cls).length p cls s

/-- Own packets join the WAIT queue of a class on a port; at its head they are offered in this CCLK (R310). -/
def enqueueAll (p : Port) (cls : Nat) (os : List Offer) (s : Chip) : Chip :=
  let q := (s.port p).wait cls
  let s1 := s.setPort p ((s.port p).setWait cls (q ++ os))
  if q.isEmpty then pumpQueue p cls s1 else s1

/-- An own packet joins the WAIT queue of its class on a port. -/
def enqueue (p : Port) (o : Offer) (s : Chip) : Chip := enqueueAll p o.cls.toNat [o] s

/-- An own packet under the WAIT policy to its destination (R298, R305). -/
def sendWait (o : Offer) (s : Chip) : Chip := forAll (s.routes o.dest.toNat) (fun p s => enqueue p o s) s

/-- Content words per class-3 packet (R322): RNG_SEG.WORDS3 from 13 to 1,021. -/
def Chip.segWords3 (s : Chip) : Nat := max 13 (min 1021 (s.fld F.RNG_SEG_WORDS3))

/-- Content words per class-2 packet: RNG_SEG.WORDS2 from 13 to 1,021. -/
def Chip.segWords2 (s : Chip) : Nat := max 13 (min 1021 (s.fld F.RNG_SEG_WORDS2))

/-- Cuts a list into pieces of k elements, the last one shorter; the number of pieces is at most the fuel. -/
def chunks {α : Type} : Nat → Nat → List α → List (List α)
  | 0, _, _ => []
  | n + 1, k, l => if l.isEmpty then [] else l.take k :: chunks n k (l.drop k)

/-- The next content number of a packet type (R304). -/
def takeCseq (pt : Nat) (s : Chip) : Nat × Chip :=
  let v := Table.get 0 s.ring.cseq pt
  (v, { s with ring := { s.ring with cseq := Table.set s.ring.cseq pt ((v + 1) % 2 ^ 32) } })

/-- The content word (R304). -/
def contentWord (cseq seg : Nat) (last : Bool) : W64 := w64 (place 32 32 cseq ||| place 16 16 seg ||| place 1 15 (b2n last))

/-- Offers a content to the head in segments of one packet type, which join the queue together: where one is discarded the later ones are
never offered (R304, R310). -/
def sendContent (pt cls : Nat) (owner : Owner) (idx : Nat) (ws : List W64) (bad : Bool) (s : Chip) : Chip :=
  let (c, s1) := takeCseq pt s
  let q := BitVec.ofNat 2 cls
  let k := if cls = 2 then s.segWords2 else s.segWords3
  let parts := chunks ws.length k ws
  let n := parts.length
  enqueueAll s1.homePort q.toNat ((parts.zip (List.range n)).map fun x =>
    { ptype := BitVec.ofNat 8 pt, cls := q, dest := 0#5, owner := owner, idx := idx,
      words := contentWord c x.2 (x.2 + 1 == n) :: x.1, last := x.2 + 1 == n, bad := bad, refused := false, held := 0 }) s1

/-- PACKET_ADMISSION: the WAIT packet at the head of a class queue is offered in this CCLK (R310). -/
def admitQueue (p : Port) (cls : Nat) (s : Chip) : Chip := if s.up then pumpQueue p cls s else s

/-- RNG_DROPPED: the WAIT packet at the head of a class queue was refused for RNG_HOLD.FRAMES frames and is discarded
(R310); the next one is offered. -/
def dropHead (p : Port) (cls : Nat) (s : Chip) : Chip :=
  match (s.port p).wait cls with
  | [] => s
  | o :: rest =>
    if o.refused && decide (o.held + 2048 * max 1 (s.fld F.RNG_HOLD_FRAMES) ≤ s.cclkNow) then
      pumpQueue p cls (onDiscard p o (s.setPort p ((s.port p).setWait cls rest)))
    else s

/-- One tick for the WAIT queues: an own FRAME or RECORD packet that stands refused presses the quadrants (R89, R310). -/
def tickQueues (s : Chip) : Chip :=
  forAll [Port.east, Port.west] (fun p s => forN 4 (fun cls s =>
    match (s.port p).wait cls with
    | [] => s
    | o :: _ => if o.refused then noteRefusedPressure o s else s) s) s

/-- Tokens gained over n CCLK (R309): rate / 2,048 block each, up to the depth. -/
def gainTokens (n : Nat) (s : Chip) : Chip :=
  forAll [Port.east, Port.west] (fun p s => forN 4 (fun cls s =>
    s.setPort p ((s.port p).setTok cls (min (2048 * s.tokDepth p cls) ((s.port p).tok cls + n * s.tokRate p cls)))) s) s

end Sys2Proof.Machine
end

