-- ==== Sys2Proof/Machine/Pairing.lean ====
section
/-! DEFINITION. Active and standby pairs (chapter 17): roles, claims, the claim table, heartbeats, mirrors, takeover. -/

namespace Sys2Proof.Machine

/-- PARTNER is usable (R397). -/
def Chip.partnerOk (s : Chip) : Bool :=
  let p := s.fld F.PAIR_CFG_PARTNER
  decide (1 ≤ p) && decide (p ≤ 30) && p != s.addr

/-- The device is the standby of a pair. -/
def Chip.standby (s : Chip) : Bool := s.fld F.PAIR_STAT_ROLE == 2

/-- NLOOP: 1 to 64 (R410). -/
def Chip.nloop (s : Chip) : Nat := max 1 (min 64 (s.fld F.PAIR_CFG_NLOOP))

/-- Sets the claim and, at 0xFFFF, SAT (R399). -/
def setClaim (c : Nat) (s : Chip) : Chip :=
  let s1 := s.setFld F.PAIR_STAT_CLAIM c
  if c = 65535 then raise EV.PAIR_CLAIM_SAT (s1.setFlag F.PAIR_STAT_SAT true) else s1

/-- Forming and leaving a pair at a tick at which a commit took effect (R397). -/
def pairFormation (oldEn : Bool) (s : Chip) : Chip :=
  let en := s.flag F.PAIR_CFG_EN
  if en && s.partnerOk then
    let s1 := { s with pair := { s.pair with paired := true } }.setFlag F.PAIR_STAT_CFG_ERR false
    if oldEn && s.pair.paired then s1
    else
      ({ s1 with pair := { s1.pair with mirrors := [], lastMir := none, heard := false, handover := false, demote := false, due := false } }.setFld
        F.PAIR_STAT_ROLE (if s.flag F.PAIR_CFG_INIT_ROLE then 1 else 2)).setFlag F.PAIR_STAT_SYNC false
        |>.setFld F.PAIR_STAT_MISSED 0
  else
    let s1 := { s with pair := { s.pair with paired := false } }.setFld F.PAIR_STAT_ROLE 0
    if en then (if s.flag F.PAIR_STAT_CFG_ERR then s1 else raise EV.PAIR_CFG_ERR (s1.setFlag F.PAIR_STAT_CFG_ERR true))
    else s1.setFlag F.PAIR_STAT_CFG_ERR false

/-- Entry e of the claim table: (segment, claim, source) while it is in use (R401). -/
def Chip.claimEntry (s : Chip) (e : Nat) : Option (Nat × Nat × Nat) :=
  if s.flag (F.PAIR_TBL_HI_VALID e) then
    some (s.fld (F.PAIR_TBL_LO_SEGMENT e), s.fld (F.PAIR_TBL_LO_CLAIM e), s.fld (F.PAIR_TBL_HI_SRC e))
  else none

/-- Writes an entry of the claim table. -/
def setClaimEntry (e seg claim src : Nat) (s : Chip) : Chip :=
  (((s.setFld (F.PAIR_TBL_LO_SEGMENT e) seg).setFld (F.PAIR_TBL_LO_CLAIM e) claim).setFld (F.PAIR_TBL_HI_SRC e) src).setFlag
    (F.PAIR_TBL_HI_VALID e) true

/-- Empties the claim table (R400). -/
def clearClaims (s : Chip) : Chip :=
  (forN (s.fld F.PAIR_TBL_LEVEL_COUNT) (fun e s =>
    (((s.setFld (F.PAIR_TBL_LO_SEGMENT e) 0).setFld (F.PAIR_TBL_LO_CLAIM e) 0).setFld (F.PAIR_TBL_HI_SRC e) 0).setFlag
      (F.PAIR_TBL_HI_VALID e) false) s).setFld F.PAIR_TBL_LEVEL_COUNT 0

/-- The highest-claim rule on an ACTUATE by its DATA word 0 (R401): whether it passes. -/
def claimCheck (w0 : W64) (s : Chip) : Bool × Chip :=
  let x := w0.toNat
  let claim := bits x 63 48
  let src := bits x 31 27
  let seg := bits x 15 0
  let n := s.fld F.PAIR_TBL_LEVEL_COUNT
  match (List.range n).find? fun e => match s.claimEntry e with | some (g, _, _) => g == seg | none => false with
  | none =>
    if claim = 0 then (true, s)
    else if n < 256 then (true, (setClaimEntry n seg claim src s).setFld F.PAIR_TBL_LEVEL_COUNT (n + 1))
    else (true, raise EV.PAIR_TBL_FULL (s.bump F.PAIR_TBL_FULL_COUNT))
  | some e =>
    match s.claimEntry e with
    | some (_, c, r) =>
      if c < claim then (true, setClaimEntry e seg claim src s)
      else if c = claim && r = src then (true, s)
      else (false, s.bump F.PAIR_ACT_DROP_COUNT)
    | none => (true, s)

/-- The HEARTBEAT of a tick (R403), with HANDOVER when the active hands over (R407). -/
def sendPairHb (handover : Bool) (s : Chip) : Chip :=
  if !s.pair.paired then s
  else
    let w0 := place 8 56 1 ||| place 2 54 (s.fld F.PAIR_STAT_ROLE) ||| place 1 53 (b2n handover)
      ||| place 1 52 (s.fld F.PAIR_STAT_SYNC) ||| place 16 32 s.claim ||| place 5 27 s.addr
      ||| place 5 22 (s.fld F.PAIR_CFG_PARTNER)
    let w2 := place 32 32 (nth 0#64 s.cmd.digests 0).toNat ||| s.fld F.CMD_EPOCH_ACTIVE
    let o : Offer :=
      { ptype := 0x05#8, cls := 1#2, dest := BitVec.ofNat 5 (s.fld F.PAIR_CFG_PARTNER), owner := .pairHb, idx := 0,
        words := [w64 w0, w64 (frameWord s.frameNow), w64 w2], last := true, bad := false, refused := false, held := 0 }
    let r := sendDrop raise o s
    if r.1 then r.2 else r.2.bump F.PAIR_HB_DROP_COUNT

/-- Pulse output j. -/
def Chip.po (s : Chip) (j : Nat) : PoSt := Table.get ⟨none, false, 0, 0⟩ s.pos j

/-- FIRED of pulse output j: pulses fired under its current schedule (R404). -/
def Chip.poFired (s : Chip) (j : Nat) : Nat := (s.po j).fired

/-- The MIRROR of an evaluated frame (R404). -/
def sendMirror (frame : Nat) (s : Chip) : Chip :=
  let n := s.nloop
  let w0 := place 16 48 (s.fld F.LOOP_ACT_SEQ_SEQ) ||| place 16 32 s.claim ||| place 5 27 s.addr ||| place 7 16 n
  let loops := (List.range n).map fun l => w64 (place 32 32 (s.fld (F.LOOP_L_INTEG_I l)) ||| s.fld (F.LOOP_L_OUT_OUT l))
  let fired := (List.range 4).map fun j => w64 (place 32 32 (s.poFired (2 * j + 1)) ||| place 32 0 (s.poFired (2 * j)))
  let o : Offer :=
    { ptype := 0x06#8, cls := 1#2, dest := BitVec.ofNat 5 (s.fld F.PAIR_CFG_PARTNER), owner := .mirror, idx := 0,
      words := [w64 w0, w64 (frameWord frame)] ++ loops ++ fired, last := true, bad := false, refused := false, held := 0 }
  (sendDrop raise o s).2

/-- MIRROR_SEND: the active's MIRROR after the ACTUATE messages of a frame (R404). -/
def mirrorAfterEval (frame : Nat) (s : Chip) : Chip :=
  let s1 := { s with pair := { s.pair with lastEval := frame } }
  if s.pair.paired && s.fld F.PAIR_STAT_ROLE = 1 then sendMirror frame s1 else s1

/-- A delivered HEARTBEAT (R403, R406 to R408). KIND 0 is ignored; a KIND 1 that is not the partner's is counted. One of an active ends the
missed frames in either role (DEDUCED, notes/assumptions/41). -/
def hearHeartbeat (ws : List W64) (s : Chip) : Chip :=
  let w0 := (ws.headD 0#64).toNat
  let w2 := (nth 0#64 ws 2).toNat
  let kind := bits w0 63 56
  if kind = 0 then s
  else if kind != 1 || !s.pair.paired || bits w0 31 27 != s.fld F.PAIR_CFG_PARTNER || bits w0 26 22 != s.addr then
    s.bump F.PAIR_BAD_HB_COUNT
  else
    let role := bits w0 55 54
    let claim := bits w0 47 32
    let s1 := ((s.setFld F.PAIR_PARTNER_ROLE role).setFld F.PAIR_PARTNER_CLAIM claim).setFld F.PAIR_PARTNER_AGE 0
    let own := (nth 0#64 s.cmd.digests 0).toNat % 2 ^ 32
    let s2 :=
      if bits w2 31 0 = s.fld F.CMD_EPOCH_ACTIVE then
        if bits w2 63 32 = own then s1.setFlag F.PAIR_STAT_MISMATCH false
        else raise EV.PAIR_MISMATCH (s1.setFlag F.PAIR_STAT_MISMATCH true)
      else s1
    let wanted := if s.standby then role == 1 else role == 2
    let s3 := if wanted || role == 1 then
        { s2 with pair := { s2.pair with heard := s2.pair.heard || wanted } }.setFld F.PAIR_STAT_MISSED 0
      else s2
    let s4 := if s.standby && role == 1 && w0.testBit 53 then { s3 with pair := { s3.pair with handover := true } } else s3
    if s.fld F.PAIR_STAT_ROLE = 1 && role == 1 && (decide (s.claim < claim)
        || (claim == s.claim && decide (s.fld F.PAIR_CFG_PARTNER < s.addr))) then
      { s4 with pair := { s4.pair with demote := true } }
    else s4

/-- A delivered MIRROR of the partner waits for the next tick (R404). -/
def hearMirror (ws : List W64) (s : Chip) : Chip :=
  let src := bits (ws.headD 0#64).toNat 31 27
  if s.standby && src == s.fld F.PAIR_CFG_PARTNER then { s with pair := { s.pair with mirrors := s.pair.mirrors ++ [ws] } } else s

/-- Applies a MIRROR to a standby (R404) when its frame is later than that of the last mirror applied. -/
def applyMirror (ws : List W64) (s : Chip) : Chip :=
    let w0 := (ws.headD 0#64).toNat
    let w1 := (nth 0#64 ws 1).toNat
    let frame := nearestFrame s.frameNow (bits w1 63 32) (bits w1 31 13)
    let n := bits w0 22 16
    if !s.standby || (match s.pair.lastMir with | some f => decide (frame ≤ f) | none => false) then s
    else
      let s1 := forN (min s.nloop n) (fun l s =>
        let w := (nth 0#64 ws (2 + l)).toNat
        (s.setFld (F.LOOP_L_INTEG_I l) (bits w 63 32)).setFld (F.LOOP_L_OUT_OUT l) (bits w 31 0)) s
      let fired := (List.range 8).map fun j =>
        let w := (nth 0#64 ws (n + 2 + j / 2)).toNat
        bits w (32 * (j % 2) + 31) (32 * (j % 2))
      let s2 := { s1 with
        pos := (List.range 8).map fun j => (j, { s1.po j with fired := nth 0 fired j })
        pair := { s1.pair with lastMir := some frame } }
      let s3 := ((s2.setFld F.LOOP_ACT_SEQ_SEQ (bits w0 63 48)).setFlag F.PAIR_STAT_SYNC true).bump F.PAIR_MIRROR_CNT_COUNT
      if n != s.nloop then
        raise EV.PAIR_MISMATCH (s3.setFlag F.PAIR_STAT_MISMATCH true)
      else s3

/-- MIRROR_APPLY (R404): the MIRRORs delivered since the last tick, in their order. -/
def applyMirrors (s : Chip) : Chip := forAll s.pair.mirrors applyMirror { s with pair := { s.pair with mirrors := [] } }

/-- The frame that a tick ends was missed, or not (R406). -/
def countMissed (s : Chip) : Chip :=
  if !s.pair.paired then s
  else if s.pair.heard then { s with pair := { s.pair with heard := false } }
  else
    let m := s.fld F.PAIR_STAT_MISSED
    let s1 := (s.setFld F.PAIR_STAT_MISSED (min 32 (m + 1))).bump F.PAIR_HB_MISS_COUNT
    if m = 31 then raise EV.PAIR_LOST s1 else s1

/-- Pairing at a local frame tick: the missed frame, whether a standby takes over at this tick (R406, R407), demotion (R408), PAIR_CTL
actions (R400), the MIRRORs applied and the age of the partner's last heartbeat. -/
def tickPair (s : Chip) : Chip :=
  let s0 := countMissed (s.setFld F.PAIR_PARTNER_AGE (satTo 8 (s.fld F.PAIR_PARTNER_AGE + 1)))
  let due := s0.standby && (decide (32 ≤ s0.fld F.PAIR_STAT_MISSED) || s0.pair.handover)
  let s1 := { s0 with pair := { s0.pair with due := due, handover := false } }
  let s2 := if s1.pair.clearNext then
      clearClaims ((s1.setFld F.PAIR_STAT_CLAIM 0).setFlag F.PAIR_STAT_SAT false)
    else s1
  let s3 := if s2.pair.demote && s2.fld F.PAIR_STAT_ROLE = 1 then
      raise EV.PAIR_DEMOTED (((s2.setFld F.PAIR_STAT_ROLE 2).setFlag F.PAIR_STAT_SYNC false).bump F.PAIR_SPLIT_CNT_COUNT)
    else s2
  let s4 := { s3 with pair := { s3.pair with clearNext := false, demote := false } }
  applyMirrors s4

/-- The heartbeat of a tick, and the planned handover (R403, R407): a final MIRROR, the HEARTBEAT with HANDOVER, then
standby. -/
def tickPairSend (s : Chip) : Chip :=
  if s.pair.switchNext then
    let s0 := { s with pair := { s.pair with switchNext := false } }
    if s0.pair.paired && s0.fld F.PAIR_STAT_ROLE = 1 then
      (sendPairHb true (sendMirror s0.pair.lastEval s0)).setFld F.PAIR_STAT_ROLE 2
    else sendPairHb false s0
  else sendPairHb false s

end Sys2Proof.Machine
end

