-- ==== Sys2Proof/Machine/CapStore.lean ====
section
/-! DEFINITION. The capture-store window (chapter 14): placement of objects, items, acknowledgement, locks, and INDEX. -/

namespace Sys2Proof.Machine

/-- Bytes of an extent (R340). -/
def extBytes : Nat := 16777216

/-- The window is enabled (R342). -/
def Chip.stoEnabled (s : Chip) : Bool := s.flag F.STO_CTL_EN && !s.flag F.STO_STAT_FULL

/-- An object refused (R342). -/
def refuseObject (s : Chip) : Chip := raise EV.STO_REFUSED (s.bump F.STO_REFUSE_COUNT)

/-- The store has finished with an object of a queue region (R93). -/
def storeDone (o : StoObj) (s : Chip) : Chip := doneReading o.region o.obj .store s

/-- An object handed to the store (R342, R343): queued while the window is enabled, otherwise refused. -/
def handStore (o : StoObj) (s : Chip) : Chip :=
  if s.stoEnabled then { s with sto := { s.sto with queue := s.sto.queue ++ [o] } } else storeDone o (refuseObject s)

/-- Whether an item that waits in the class-3 queue is being resent (R350). -/
def Chip.isResend (s : Chip) (o : Offer) : Bool :=
  match o.owner with
  | .storeItem pt c => s.sto.items.any fun i => i.pt == pt && i.cseq == c && i.resends != 0
  | _ => false

/-- The offer of an item or of an INDEX packet (R345, R351): one segment, SEG 0 and LAST 1. -/
def itemOffer (i : StoItem) : Offer :=
  { ptype := BitVec.ofNat 8 i.pt, cls := 3#2, dest := 0#5, owner := .storeItem i.pt i.cseq, idx := 0,
    words := contentWord i.cseq 0 true :: i.words, last := true, bad := false, refused := false, held := 0 }

/-- A new item or INDEX packet: numbered, remembered until it is settled, and offered (R345, R351). -/
def newItem (pt : Nat) (extent : Option Nat) (ws : List W64) (s : Chip) : Chip :=
  let n := if pt = 0x13 then s.sto.csWrite else s.sto.csIndex
  let i : StoItem :=
    { pt := pt, cseq := n % 2 ^ 32, words := ws, extent := extent, egress := none, admitted := 0, resends := 0, waiting := true }
  let sto := { s.sto with items := s.sto.items ++ [i] }
  sendWait (itemOffer i)
    { s with sto := if pt = 0x13 then { sto with csWrite := n + 1 } else { sto with csIndex := n + 1 } }

/-- Sends the changed extent entries in INDEX packets of up to floor(WORDS3 / 2) pairs (R351). -/
def flushIndex (s : Chip) : Chip :=
  let es := s.sto.dirty
  let s1 := { s with sto := { s.sto with dirty := [] } }
  forAll (chunks es.length (s.segWords3 / 2) es)
    (fun part s => newItem 0x14 none (part.flatMap fun e => [w64 (e % 2 ^ 18), w64 (s.extent e)]) s) s1

/-- The first extent the allocator may take, from e upward (R346); each entry is read, a poisoned one is announced and
skipped. -/
def findExtent : Nat → Nat → Chip → Option Nat × Chip
  | 0, _, s => (none, s)
  | n + 1, e, s =>
    let (v, bad, s1) := memRead 1 e s
    let next := if e = 262143 then 1 else e + 1
    let free := if s.fld F.STO_CTL_POLICY = 1 then extState v == 0 else extState v == 0 || extState v == 2
    if bad then findExtent n next (raise EV.STO_TBL_POISON s1)
    else if free && !v.testBit 10 then (some e, s1)
    else findExtent n next s1

/-- Opens the next extent for an object of a frame (R346): none is found when FULL is set. -/
def openExtent (frame : Nat) (lock cont : Bool) (s : Chip) : Option Nat × Chip :=
  let (r, s1) := findExtent 262143 (max 1 (s.fld F.STO_NEXT_EXTENT)) s
  match r with
  | none => (none, raise EV.STO_FULL (s1.setFlag F.STO_STAT_FULL true))
  | some e =>
    let s2 := if extState (s1.extent e) = 2 then s1.bump F.STO_REUSE_COUNT else s1
    let n := s2.sto.allocs + 1
    let v := frameWord frame ||| place 2 11 1 ||| place 1 10 (b2n lock) ||| place 1 9 (b2n cont) ||| place 8 0 n
    let s3 := { s2 with sto := { s2.sto with allocs := n, fill := 0 } }
    let s4 := (s3.setFlag F.STO_STAT_FULL false).setFld F.STO_STAT_OPEN e
    let s5 := s4.setFld F.STO_NEXT_EXTENT (if e = 262143 then 1 else e + 1)
    (some e, flushIndex (setExtent e v s5))

/-- Closes the open extent (R344): with at least 8 bytes left, one zero word marks its end. A DAMAGED one stays so (R350). -/
def closeExtent (s : Chip) : Chip :=
  let e := s.fld F.STO_STAT_OPEN
  if e = 0 then s
  else
    let s1 := if s.sto.fill + 8 ≤ extBytes then
        newItem 0x13 (some e) [w64 (place 42 22 (e * extBytes + s.sto.fill) ||| 1), 0#64] s
      else s
    let v := s1.extent e
    flushIndex ((setExtent e (if extState v = 3 then v else withState v 2) s1).setFld F.STO_STAT_OPEN 0)

/-- Sends words at the fill of the open extent as items (R345); a word of an index in `poison` marks its item. -/
def sendItems : Nat → List W64 → Nat → List Nat → Chip → Chip
  | 0, _, _, _, s => s
  | n + 1, ws, at_, poison, s =>
    if ws.isEmpty then s
    else
      let k := s.segWords3 - 1
      let part := ws.take k
      let e := s.fld F.STO_STAT_OPEN
      let bad := poison.any fun i => decide (at_ ≤ i) && decide (i < at_ + part.length)
      let h := place 42 22 (e * extBytes + s.sto.fill) ||| place 1 20 (b2n bad) ||| place 10 0 part.length
      let s1 := newItem 0x13 (some e) (w64 h :: part) s
      sendItems n (ws.drop k) (at_ + part.length) poison { s1 with sto := { s1.sto with fill := s1.sto.fill + 8 * part.length } }

/-- An object as it is placed: its frame and lock, its words with the object header, and the indices of poisoned ones. -/
structure Placing where
  frame  : Nat
  lock   : Bool
  words  : List W64
  poison : List Nat
deriving DecidableEq, Repr

/-- What an object leaves in the entry of the open extent: FIRST where it is the first object, LOCK, POISON (R341, R347,
R352). -/
def touchOpen (o : Placing) (poisoned : Bool) (s : Chip) : Chip :=
  let e := s.fld F.STO_STAT_OPEN
  let v := s.extent e
  let v1 := if s.sto.fill = 0 then (v % 2 ^ 13) ||| frameWord o.frame else v
  setExtent e (v1 ||| place 1 10 (b2n o.lock) ||| place 1 8 (b2n poisoned)) s

/-- Words of an object from index `at_` placed into the open extent and, as long as they do not fit, into newly opened ones
(R344). -/
def placeWords : Nat → Placing → List W64 → Nat → Chip → Chip
  | 0, _, _, _, s => s
  | n + 1, o, ws, at_, s =>
    let room := (extBytes - s.sto.fill) / 8
    let part := ws.take room
    let bad := o.poison.any fun i => decide (at_ ≤ i) && decide (i < at_ + part.length)
    let s1 := flushIndex (touchOpen o bad s)
    let s2 := sendItems part.length part at_ o.poison s1
    let s3 := if s2.sto.fill = extBytes then closeExtent s2 else s2
    let rest := ws.drop room
    if rest.isEmpty then s3
    else match openExtent o.frame o.lock true s3 with
      | (some _, t) => placeWords n o rest (at_ + part.length) t
      | (none, t) => t

/-- How many extents the allocator could take now, counted up to a need. -/
def countFree (need : Nat) (s : Chip) : Nat :=
  let used := (s.mem 1).data.filter fun x =>
    let v := x.2.toNat
    let free := if s.fld F.STO_CTL_POLICY = 1 then extState v == 0 else extState v == 0 || extState v == 2
    x.1 != 0 && !(free && !v.testBit 10 && !s.poisoned 1 x.1)
  let bad := (s.mem 1).par.filter fun x => x.1 != 0 && parPoisoned x.2.toNat && ((s.mem 1).data.get x.1 = 0#64)
  min need (262143 - used.length - bad.length)

/-- An object's words as written: the two header words and its own (R343). -/
def objectWords (o : StoObj) (ws : List W64) (bad : List Nat) (addr : Nat) (span : Bool) : Placing :=
  { frame := o.frame, lock := o.lock, poison := bad.map (· + 2)
    words := [w64 (place 8 56 o.typ ||| place 24 32 ws.length ||| place 5 27 addr ||| place 1 15 (b2n o.lock)
      ||| place 1 14 (b2n (!bad.isEmpty)) ||| place 1 13 (b2n span)), w64 (frameWord o.frame)] ++ ws }

/-- The open extent's entry is poisoned: its extent receives no further data (R352). -/
def leavePoisonedExtent (s : Chip) : Chip :=
  let e := s.fld F.STO_STAT_OPEN
  if e = 0 then s
  else
    let (_, bad, s1) := memRead 1 e s
    if bad then (raise EV.STO_TBL_POISON s1).setFld F.STO_STAT_OPEN 0 else s1

/-- An object's words are placed and cut into items (R343 to R345). -/
def placeRead (o : StoObj) (ws : List W64) (bad : List Nat) (s0 : Chip) : Chip :=
  let size := 8 * (ws.length + 2)
  let fits := s0.fld F.STO_STAT_OPEN != 0 && decide (s0.sto.fill + size ≤ extBytes)
  let count := fun (s : Chip) => if bad.isEmpty then s else s.bump F.STO_POISON_COUNT
  let p := objectWords o ws bad s0.addr (!fits && decide (extBytes < size))
  if fits then placeWords 1 p p.words 0 (count s0)
  else
    let need := ceilDiv size extBytes
    let s1 := closeExtent s0
    if countFree need s1 < need then
      refuseObject (raise EV.STO_FULL (s1.setFlag F.STO_STAT_FULL true))
    else match openExtent o.frame o.lock false s1 with
      | (none, t) => refuseObject t
      | (some _, t) => placeWords (need + 1) p p.words 0 (count t)

/-- STORE_OBJECT_PLACE: the oldest queued object is read from its region and placed (R343 to R345). An object whose region
was emptied is gone. -/
def placeObject (s : Chip) : Chip :=
  match s.sto.queue with
  | [] => s
  | o :: rest =>
    let s0 := leavePoisonedExtent { s with sto := { s.sto with queue := rest } }
    match s0.findObj o.region o.obj with
    | none => s0
    | some ob =>
      storeDone o (if !s0.stoEnabled then refuseObject s0
        else
          let r := readWords o.region ob s0
          placeRead o r.1 r.2.1 r.2.2)

/-- The attempt at each tick while FULL is set (R346). -/
def retryFull (s : Chip) : Chip :=
  if s.flag F.STO_STAT_FULL then (openExtent s.frameNow false false s).2 else s

/-- An item is offered again (R350), ahead of new class-3 packets, with RESENT set; after RETRY resends it is given up. -/
def resendItem (pt cseq : Nat) (s : Chip) : Chip :=
  match s.sto.items.find? fun i => i.pt == pt && i.cseq == cseq && !i.waiting with
  | none => s
  | some i =>
    if s.fld F.STO_ACK_TMO_RETRY ≤ i.resends then giveUpItem pt cseq false s
    else
      let ws := if pt = 0x13 then
          match i.words with | h :: t => (h ||| 0x200000#64) :: t | [] => []
        else i.words
      let j := { i with words := ws, egress := none, resends := i.resends + 1, waiting := true }
      let s1 := match i.egress with | some o => freeObj 9 o s | none => s
      let s2 := { s1 with sto := { s1.sto with items := s1.sto.items.map fun (x : StoItem) => if x.pt == pt && x.cseq == cseq then j else x } }
      let s3 := raise EV.STO_RESEND (s2.bump F.STO_RESEND_COUNT)
      forAll (s3.routes 0) (fun p s =>
        let q := (s.port p).wait 3
        let ahead := q.takeWhile s.isResend
        pumpQueue p 3 (s.setPort p ((s.port p).setWait 3 (ahead ++ [itemOffer j] ++ q.drop ahead.length)))) s3

/-- STORE_ITEM_TIMEOUT (R350): an admitted item not settled within STO_ACK_TMO.FRAMES. -/
def itemTimeout (pt cseq : Nat) (s : Chip) : Chip :=
  match s.sto.items.find? fun i => i.pt == pt && i.cseq == cseq && !i.waiting with
  | none => s
  | some i => if i.admitted + 2048 * max 1 (s.fld F.STO_ACK_TMO_FRAMES) ≤ s.cclkNow then flushIndex (resendItem pt cseq s) else s

/-- An item is settled (R349): its space is freed, and an offer of it that waits to be resent goes. -/
def settleItem (i : StoItem) (s : Chip) : Chip :=
  let s1 := { s with sto := { s.sto with items := s.sto.items.filter fun j => !(j.pt == i.pt && j.cseq == i.cseq) } }
  let s2 := match i.egress with | some o => freeObj 9 o s1 | none => s1
  let s3 := if i.waiting then forAll [Port.east, Port.west] (fun p s =>
      s.setPort p ((s.port p).setWait 3 (((s.port p).wait 3).filter fun o => o.owner != .storeItem i.pt i.cseq))) s2 else s2
  if i.pt = 0x13 then s3.bump F.STO_WRITTEN_COUNT else s3

/-- One CSEQ covered by a STORE_ACK (R349). An item that waits for its first admission has never been sent; one that waits to be resent is
outstanding. -/
def ackOne (pt : Nat) (stored : Bool) (c : Nat) (s : Chip) : Chip :=
  let total := if pt = 0x13 then s.sto.csWrite else s.sto.csIndex
  match s.sto.items.find? fun i => i.pt == pt && i.cseq == c with
  | some i =>
    if i.waiting && i.resends == 0 then s.bump F.STO_ACK_BAD_COUNT
    else if stored then settleItem i s
    else resendItem pt c s
  | none => if total ≤ c then s.bump F.STO_ACK_BAD_COUNT else s

/-- A packet dropped as malformed (R305). -/
def badPacket (s : Chip) : Chip := raise EV.RNG_BADPKT (s.bump F.RNG_BADPKT_COUNT)

/-- A delivered STORE_ACK (R349): bit i answers the packet of CSEQ + i. -/
def storeAck (ws : List W64) (s : Chip) : Chip :=
  let a := (ws.headD 0#64).toNat
  flushIndex (forN 64 (fun i s =>
    if (nth 0#64 ws 1).toNat.testBit i then ackOne (bits a 31 24) (bits a 23 16 == 0) ((bits a 63 32 + i) % 2 ^ 32) s else s) s)

/-- The action of one STORE_CTL word at its tick (R348). -/
def storeCtl (w : W64) (s : Chip) : Chip :=
  let x := w.toNat
  let first := max 1 (bits x 41 24)
  let last := bits x 61 44
  let n := last + 1 - first
  let each := fun (f : Nat → Chip → Chip) (s : Chip) => forN n (fun i s => f (first + i) s) s
  let s1 := match bits x 3 0 with
    | 1 => each (fun e s => setExtent e (s.extent e ||| 1024) s) s
    | 2 => each (fun e s => if extState (s.extent e) = 1 then s else setExtent e (s.extent e - place 1 10 (bits (s.extent e) 10 10)) s) s
    | 3 => each (fun e s =>
        if extState (s.extent e) = 1 || (s.extent e).testBit 10 then s else setExtent e (withState (s.extent e) 0) s) s
    | 4 => each markDirty s
    | _ => s
  flushIndex s1

/-- The capture store at a local frame tick (R346, R348). -/
def tickStore (s : Chip) : Chip :=
  let s2 := forAll s.sto.ctl storeCtl { s with sto := { s.sto with ctl := [] } }
  retryFull (flushIndex s2)

end Sys2Proof.Machine
end

