-- ==== Sys2Proof/Machine/Coders.lean ====
section
/-! DEFINITION. The coders of the stream channels (chapter 10) as functions of bytes: the record transform, the dictionary
coder with its packing and its no-gain path, and the window coder. -/

namespace Sys2Proof.Machine

/-! ### The record transform (R260) -/

/-- One transformed hit word: ROW, COL and TOA against the previous word as read. -/
def hitDelta (x p : Nat) : Nat :=
  place 8 56 (bits x 63 56 + 256 - bits p 63 56) ||| place 8 48 (bits x 55 48 + 256 - bits p 55 48)
    ||| place 20 28 (bits x 47 28 + 2 ^ 20 - bits p 47 28) ||| bits x 27 0

/-- A run of hit words after the word p. -/
def hitRun : Nat → List W64 → List W64
  | _, [] => []
  | p, x :: xs => w64 (hitDelta x.toNat p) :: hitRun x.toNat xs

/-- The frame blocks of a hit segment: two header words and the HITS words that follow, as far as the words reach. -/
def hitSegment : Nat → List W64 → List W64
  | 0, ws => ws
  | _, [] => []
  | _, [a] => [a]
  | n + 1, a :: b :: rest =>
    let k := bits b.toNat 47 32
    a :: b :: (hitRun 0 (rest.take k) ++ hitSegment n (rest.drop k))

/-- Differences of 16-bit containers; `n` samples are left, padding stays 0. -/
def sampleDeltas : Nat → Nat → List Nat → List Nat
  | _, _, [] => []
  | 0, _, xs => xs
  | n + 1, p, x :: xs => (x + 65536 - p) % 65536 :: sampleDeltas n x xs

/-- The four containers of a word. -/
def wordSamples (w : W64) : List Nat := (List.range 4).map fun i => bits w.toNat (16 * i + 15) (16 * i)

/-- Words of containers. -/
def samplesWords : List Nat → List W64
  | a :: b :: c :: d :: xs => w64 (a + 65536 * (b + 65536 * (c + 65536 * d))) :: samplesWords xs
  | [] => []
  | xs => [w64 (xs.foldr (fun x acc => x + 65536 * acc) 0)]

/-- The waveform blocks of a segment: two header words and NSAMP packed samples. -/
def waveSegment : Nat → List W64 → List W64
  | 0, ws => ws
  | _, [] => []
  | _, [a] => [a]
  | n + 1, a :: b :: rest =>
    let ns := bits b.toNat 63 32
    let k := ceilDiv ns 4
    a :: b :: (samplesWords (sampleDeltas ns 0 ((rest.take k).flatMap wordSamples)) ++ waveSegment n (rest.drop k))

/-- A record chunk: its segments are found by HSEG and WSEG0 to WSEG3 (R123, R125); a header-only copy holds none. -/
def recordTransform (ws : List W64) : List W64 :=
  let w := fun (i : Nat) => (nth 0#64 ws i).toNat
  let hs := bits (w 7) 63 32
  let body := ws.drop 18
  let lens := [bits (w 8) 31 0, bits (w 8) 63 32, bits (w 9) 31 0, bits (w 9) 63 32]
  let (done, rest) := lens.foldl (fun (acc : List W64 × List W64) n =>
    (acc.1 ++ waveSegment n (acc.2.take n), acc.2.drop n)) (hitSegment hs (body.take hs), body.drop hs)
  ws.take 18 ++ done ++ rest

/-! ### Dictionary coder (R261, R262, R264) -/

/-- The state of the dictionary coder: the codes so far newest first, the number of them, the added entries as
256 × code of w + byte, the next code, and the code of w. -/
structure Lzw where
  codes : List Nat
  count : Nat
  dict  : List (Nat × Nat)
  next  : Nat
  w     : Option Nat
deriving DecidableEq, Repr

/-- At the start of a block: RESET. -/
def Lzw.start : Lzw := ⟨[256], 1, [], 258, none⟩

/-- One raw byte. A single byte is its own code. -/
def Lzw.byte (z : Lzw) (b : Nat) : Lzw :=
  match z.w with
  | none => { z with w := some b }
  | some w =>
    match z.dict.lookup (256 * w + b) with
    | some c => { z with w := some c }
    | none =>
      let y := { z with codes := w :: z.codes, count := z.count + 1, w := some b }
      if z.next < 4096 then { y with dict := (256 * w + b, z.next) :: z.dict, next := z.next + 1 } else y

/-- All codes if the block ended here: the pending w, and END. -/
def Lzw.final (z : Lzw) : List Nat := ((257 :: z.w.toList) ++ z.codes).reverse

/-- Bytes of n codes of 12 bits. -/
def codeBytes (n : Nat) : Nat := (12 * n + 7) / 8

/-- CLEN if the block ended here. -/
def Lzw.clen (z : Lzw) : Nat := codeBytes (z.count + (if z.w.isSome then 1 else 0) + 1)

/-- Codes packed from the least significant bit on (R262). -/
def packCodes : List Nat → List Nat
  | a :: b :: cs => a % 256 :: (a / 256 + 16 * (b % 16)) :: b / 16 :: packCodes cs
  | [a] => [a % 256, a / 256]
  | [] => []

/-- The no-gain path (R264) over segments of 4,096 bytes: the state at the last segment end that coding reached and the raw
bytes before it, and the bytes from there on when coding did not shrink the block. -/
def lzwSegments : Nat → Lzw → Nat → List Nat → Lzw × Nat × List Nat
  | 0, z, n, rest => (z, n, rest)
  | fuel + 1, z, n, rest =>
    if rest.isEmpty then (z, n, [])
    else
      let y := (rest.take 4096).foldl Lzw.byte z
      let m := n + (rest.take 4096).length
      if m < y.clen then (z, n, rest) else lzwSegments fuel y m (rest.drop 4096)

/-- The blocks of a dictionary coder for the raw bytes of one block: (KIND, payload, RAWLEN). -/
def dictBlocks (raw : List Nat) : List (Nat × List Nat × Nat) :=
  let (z, n, rest) := lzwSegments (raw.length + 1) Lzw.start 0 raw
  (if n = 0 then [] else [(1, packCodes z.final, n)]) ++ (if rest.isEmpty then [] else [(0, rest, rest.length)])

/-! ### Window coder (R265 to R267, RFC 1951) -/

/-- A token of the window coder. -/
inductive Token where
  | lit (b : Nat)
  | copy (len dist : Nat)
deriving DecidableEq, Repr

/-- CL of a LEVEL (R266). -/
def chainLength (level : Nat) : Nat := nth 4096 [4, 4, 8, 16, 32, 64, 256, 1024, 2048, 4096] level

/-- Eighths of a CCLK per byte of a LEVEL (R266). -/
def levelCost (level : Nat) : Nat := nth 1024 [1, 1, 2, 4, 8, 16, 64, 256, 512, 1024] level

/-- The hash of a position (R266). -/
def winHash (buf : Array Nat) (p : Nat) : Nat :=
  ((buf.getD p 0 % 32) * 1024) ^^^ (buf.getD (p + 1) 0 * 32) ^^^ buf.getD (p + 2) 0

/-- Equal bytes from two positions on, up to a bound. -/
def matchLen (buf : Array Nat) : Nat → Nat → Nat → Nat
  | 0, _, _ => 0
  | n + 1, c, p => if buf.getD c 0 = buf.getD p 0 then matchLen buf n (c + 1) (p + 1) + 1 else 0

/-- The candidates of a position, newest first: the positions below q that lie in the same chain, at most `cl` of them, up to
the first more than 32,768 bytes back. -/
def winChain (buf : Array Nat) (h p dl : Nat) : Nat → Nat → List Nat
  | 0, _ => []
  | _, 0 => []
  | q + 1, cl + 1 =>
    if 32768 < p - q then []
    else if q + 2 < dl && winHash buf q == h then q :: winChain buf h p dl q cl
    else winChain buf h p dl q (cl + 1)

/-- The longest match at position p (R266); `dl` is the end of the bytes delivered and `top` the bound of a match. -/
def bestMatch (buf : Array Nat) (cl p dl top : Nat) : Nat × Nat :=
  if dl ≤ p + 2 then (0, 0)
  else
    (winChain buf (winHash buf p) p dl p cl).foldl (fun (best : Nat × Nat) c =>
      let n := matchLen buf (min 258 (min dl top - p)) c p
      if best.1 < n then (n, p - c) else best) (0, 0)

/-- The tokens of the positions p up to `top` (R266). -/
def winTokens (buf : Array Nat) (cl : Nat) (dl : Nat → Nat) (top : Nat) : Nat → Nat → List Token
  | 0, _ => []
  | n + 1, p =>
    if top ≤ p then []
    else
      let m := bestMatch buf cl p (dl p) top
      if 3 ≤ m.1 then .copy m.1 m.2 :: winTokens buf cl dl top n (p + m.1)
      else .lit (buf.getD p 0) :: winTokens buf cl dl top n (p + 1)

/-- The n low bits of a value, least significant first. -/
def lsbBits (v n : Nat) : List Bool := (List.range n).map v.testBit

/-- The n low bits of a Huffman code, most significant first. -/
def msbBits (v n : Nat) : List Bool := (lsbBits v n).reverse

/-- The fixed code of a literal or length symbol. -/
def fixedCode (v : Nat) : List Bool :=
  if v < 144 then msbBits (0x30 + v) 8
  else if v < 256 then msbBits (0x190 + v - 144) 9
  else if v < 280 then msbBits (v - 256) 7
  else msbBits (0xC0 + v - 280) 8

/-- The last entry of a table of (base, extra bits) whose base does not exceed v, with its index. -/
def codeFor (v : Nat) : List (Nat × Nat) → Nat → Nat × Nat × Nat → Nat × Nat × Nat
  | [], _, best => best
  | (b, e) :: t, i, best => codeFor v t (i + 1) (if b ≤ v then (i, b, e) else best)

/-- Length codes from 257 on. -/
def lengthTable : List (Nat × Nat) :=
  [(3, 0), (4, 0), (5, 0), (6, 0), (7, 0), (8, 0), (9, 0), (10, 0), (11, 1), (13, 1), (15, 1), (17, 1), (19, 2), (23, 2),
   (27, 2), (31, 2), (35, 3), (43, 3), (51, 3), (59, 3), (67, 4), (83, 4), (99, 4), (115, 4), (131, 5), (163, 5), (195, 5),
   (227, 5), (258, 0)]

/-- Distance codes. -/
def distTable : List (Nat × Nat) :=
  [(1, 0), (2, 0), (3, 0), (4, 0), (5, 1), (7, 1), (9, 2), (13, 2), (17, 3), (25, 3), (33, 4), (49, 4), (65, 5), (97, 5),
   (129, 6), (193, 6), (257, 7), (385, 7), (513, 8), (769, 8), (1025, 9), (1537, 9), (2049, 10), (3073, 10), (4097, 11),
   (6145, 11), (8193, 12), (12289, 12), (16385, 13), (24577, 13)]

/-- The bits of a token. -/
def Token.bits : Token → List Bool
  | .lit b => fixedCode b
  | .copy n d =>
    let (li, lb, le) := codeFor n lengthTable 0 (0, 3, 0)
    let (di, db, de) := codeFor d distTable 0 (0, 1, 0)
    fixedCode (257 + li) ++ lsbBits (n - lb) le ++ msbBits di 5 ++ lsbBits (d - db) de

/-- Zero bits up to the next byte boundary. -/
def padBits (n : Nat) : List Bool := List.replicate ((8 - n % 8) % 8) false

/-- Bits packed into bytes, the first one in bit 0; the last byte is filled with zeros. -/
def packBits : List Bool → List Nat
  | a :: b :: c :: d :: e :: f :: g :: h :: t =>
    (b2n a + 2 * b2n b + 4 * b2n c + 8 * b2n d + 16 * b2n e + 32 * b2n f + 64 * b2n g + 128 * b2n h) :: packBits t
  | [] => []
  | l => [l.foldr (fun b acc => b2n b + 2 * acc) 0]

/-- One DEFLATE block for the bytes of a segment (R265, R267), given the bits already written: its bits, and whether it is
stored. -/
def deflateSegment (buf : Array Nat) (cl : Nat) (dl : Nat → Nat) (from_ till written : Nat) (last : Bool) : List Bool × Bool :=
  let fixed := [true, false] ++ (winTokens buf cl dl till (till - from_) from_).flatMap Token.bits ++ fixedCode 256
  let n := till - from_
  let stored := [false, false] ++ padBits (written + 3) ++ lsbBits n 16 ++ lsbBits (65535 - n) 16
    ++ ((List.range n).flatMap fun i => lsbBits (buf.getD (from_ + i) 0) 8)
  if fixed.length ≤ stored.length then (last :: fixed, false) else (last :: stored, true)

/-- The DEFLATE blocks of the segments from a position on. -/
def deflateSegments (buf : Array Nat) (cl : Nat) (dl : Nat → Nat) : Nat → Nat → List Bool × Bool → List Bool × Bool
  | 0, _, acc => acc
  | n + 1, p, acc =>
    if buf.size ≤ p then acc
    else
      let till := min (p + 4096) buf.size
      let (b, st) := deflateSegment buf cl dl p till acc.1.length (decide (till = buf.size))
      deflateSegments buf cl dl n till (acc.1 ++ b, acc.2 && st)

/-- The payload of a stream block of the window coder, and whether every segment of it is stored (R265 to R268). `hist` holds
the raw bytes before the block that matches may reach, `dl` gives for a raw byte of the block how many of its bytes had been
delivered when the coder reached it. -/
def deflate (hist raw : List Nat) (dl : Nat → Nat) (level : Nat) : List Nat × Bool :=
  let base := hist.length
  let buf := (hist ++ raw).toArray
  let r := deflateSegments buf (chainLength level) (fun p => base + dl (p - base)) (raw.length + 1) base ([], true)
  (packBits r.1, r.2)

end Sys2Proof.Machine
end

