-- ==== Sys2Proof/Machine/Lawn.lean ====
section
/-! DEFINITION. The Lawn (chapter 02): pixels, TDCs, FIFOs, the vertical links and the Folly's synthetic hits. -/

namespace Sys2Proof.Machine

/-- The parterre of a pixel (R42). -/
def parterreOf (row col : Nat) : Nat := 32 * (row / 8) + col / 8

/-- The local position of a pixel in its parterre (R42). -/
def localPix (row col : Nat) : Nat := 8 * (row % 8) + col % 8

/-- The row of a local position (R42). -/
def rowOf (p pix : Nat) : Nat := 8 * (p / 32) + pix / 8

/-- The column of a local position (R42). -/
def colOf (p pix : Nat) : Nat := 8 * (p % 32) + pix % 8

/-- The key of a pixel: its address. -/
def pixKey (row col : Nat) : Nat := 256 * row + col

/-- The configuration latch of a pixel: TEST_EN in bit 7, MASK in bit 6, TRIM below (R69). -/
def Chip.pixLatch (s : Chip) (key : Nat) : Nat :=
  bits (memReset 2 (key / 8) ^^^ s.lawn.latch.get (key / 8)).toNat (8 * (key % 8) + 7) (8 * (key % 8))

/-- Loads the latches of one word of PIX (R390): a poisoned word loads its eight pixels masked. -/
def loadLatch (w : Nat) (s : Chip) : Chip :=
  let (d, bad, s1) := memRead 2 w s
  let v := if bad then d ||| 0x4040404040404040 else d
  { s1 with lawn := { s1.lawn with latch := s1.lawn.latch.set w (memReset 2 w ^^^ w64 v) } }

/-- A pixel that is at rest. -/
def PixSt.rest : PixSt := ⟨false, false, 0, false⟩

/-- The state of a pixel. -/
def Chip.pixel (s : Chip) (key : Nat) : PixSt := Table.get PixSt.rest s.lawn.pixels key

/-- Sets the state of a pixel. -/
def setPixel (key : Nat) (x : PixSt) (s : Chip) : Chip :=
  { s with lawn := { s.lawn with pixels := Table.set s.lawn.pixels key x } }

/-- An idle TDC. -/
def Tdc.idle : Tdc := ⟨false, 0, 0, 0, none, false, false, none, 0⟩

/-- TDC i of parterre p. -/
def Chip.tdc (s : Chip) (p i : Nat) : Tdc := Table.get Tdc.idle s.lawn.tdcs (2 * p + i)

/-- Sets TDC i of parterre p. -/
def setTdc (p i : Nat) (x : Tdc) (s : Chip) : Chip :=
  { s with lawn := { s.lawn with tdcs := Table.set s.lawn.tdcs (2 * p + i) x } }

/-- The records in the FIFO of a parterre, oldest first (R64). -/
def Chip.fifo (s : Chip) (p : Nat) : List (BitVec 56) := Table.get [] s.lawn.fifos p

/-- Sets the FIFO of a parterre and its high-water mark. -/
def setFifo (p : Nat) (q : List (BitVec 56)) (s : Chip) : Chip :=
  { s with lawn := { s.lawn with fifos := Table.set s.lawn.fifos p q } }.highWater (F.PRT_FIFO_HWM_LEVEL p) q.length

/-- A stage-1 line is locked (R63). -/
def Chip.tdcLocked (s : Chip) (p i : Nat) : Bool :=
  s.flag (if i = 0 then F.PRT_STAT_TDC0_LOCK p else F.PRT_STAT_TDC1_LOCK p)

/-- A TDC is enabled: its parterre and itself in service (R70). -/
def Chip.tdcEnabled (s : Chip) (p i : Nat) : Bool :=
  s.flag (F.PRT_CTL_EN p) && s.flag (if i = 0 then F.PRT_CTL_TDC0_EN p else F.PRT_CTL_TDC1_EN p)

/-- A TDC is busy at an instant of the device's clock (R57): it converts, holds a record, or its 28 ns are not over. -/
def Tdc.busyAt (x : Tdc) (t : Nat) : Bool := x.busy || decide (t < x.until_)

/-- A TDC that can take an edge at an instant (R58). -/
def Chip.tdcFree (s : Chip) (p i t : Nat) : Bool := s.tdcEnabled p i && s.tdcLocked p i && !(s.tdc p i).busyAt t

/-- A TDC of the parterre holds a record for a full FIFO (R64). -/
def Chip.stalled (s : Chip) (p : Nat) : Bool := (s.tdc p 0).held.isSome || (s.tdc p 1).held.isSome

/-- The discriminator of a pixel reaches its parterre (R50, R51, R70): analogue powered, no settling, parterre enabled,
pixel not masked. -/
def Chip.gateOpen (s : Chip) (key p : Nat) : Bool :=
  s.domainUp 0 && s.flag F.HIT_FE_CTL_LAWN_EN && !s.flag F.HIT_FE_STAT_SETTLING && s.flag (F.PRT_CTL_EN p)
    && !(s.pixLatch key).testBit 6

/-- A leading edge in the test window of its pixel (R55). -/
def Chip.inTestWindow (s : Chip) (key t0 : Nat) : Bool :=
  (s.pixLatch key).testBit 7 &&
    match s.lawn.lastInj with
    | some t => decide (t ≤ t0) && decide (t0 < t + 640 * 256)
    | none => false

/-- 28 ns in FTU, rounded up (R57). -/
def conversionFtu : Nat := 9176

/-- The arbiter's resolution of 20 ps in FTU, rounded down (R58). -/
def arbiterFtu : Nat := 6

/-- An edge that a TDC converts beats another one by its lower PIX, where the two arrive within the arbiter's resolution (R58): the TDC
of the lower number whose edge gives way. -/
def Chip.tieTdc (s : Chip) (p : Nat) (e : Tdc) : Option Nat :=
  (List.range 2).find? fun i =>
    let d := s.tdc p i
    d.busy && d.close.isNone && d.held.isNone && decide (e.t0 ≤ d.t0 + arbiterFtu) && decide (d.t0 ≤ e.t0 + arbiterFtu)
      && decide (e.pix < d.pix)

/-- An edge at the arbiter (R58): where it ties with an edge of a higher PIX it takes that one's TDC and the other is placed again;
otherwise the lowest free TDC takes it, or it is lost. Two TDCs give at most two rounds. -/
def placeEdge (p : Nat) : Nat → Tdc → Chip → Chip
  | 0, _, s => s.bump (F.PRT_LOST_BUSY p)
  | n + 1, e, s =>
    match s.tieTdc p e with
    | some i => placeEdge p n (s.tdc p i) (setTdc p i e s)
    | none =>
      if s.tdcFree p 0 e.t0 then setTdc p 0 e s
      else if s.tdcFree p 1 e.t0 then setTdc p 1 e s
      else if s.stalled p then s.bump (F.PRT_LOST_STALL p)
      else s.bump (F.PRT_LOST_BUSY p)

/-- HIT_LEADING_EDGE (R49, R50, R58): the edge of a pixel at rest reaches the arbiter of its parterre. -/
def leadingEdge (row col sub : Nat) (s : Chip) : Chip :=
  let key := pixKey row col
  let p := parterreOf row col
  let x := s.pixel key
  if x.above || x.dead || !s.domainUp 0 || !s.flag F.HIT_FE_CTL_LAWN_EN then s
  else
    let s1 := setPixel key { x with above := true, dead := true } s
    if !s.gateOpen key p then s1
    else
      let t0 := s.clockFtu + sub
      placeEdge p 3
        { busy := true, pix := localPix row col, startC := (s.ltcNow + sub / 256) % 65536, t0 := t0, close := none,
          unc := false, test := s.inTestWindow key t0, held := none, until_ := t0 + conversionFtu } s1

/-- Whether a TDC waits for the trailing edge of a local position. -/
def Tdc.waitsFor (x : Tdc) (pix : Nat) : Bool := x.busy && x.pix == pix && x.close.isNone && x.held.isNone

/-- TRAILING_EDGE (R57, R60): the stop of the TDC that took the pixel; after the saturation edge it is not converted. -/
def trailingEdge (row col sub : Nat) (s : Chip) : Chip :=
  let key := pixKey row col
  let p := parterreOf row col
  let x := s.pixel key
  if !x.above then s
  else
    let s1 := setPixel key { x with above := false } s
    let stop := fun (i : Nat) (s : Chip) =>
      let d := s.tdc p i
      if d.waitsFor (localPix row col) then
        let tot := ((s.ltcNow + sub / 256) % 65536 + 65536 - d.startC) % 65536
        setTdc p i { d with close := some (if tot < 512 then (tot, false) else (511, true))
                            until_ := max d.until_ (s.clockFtu + sub + conversionFtu) } s
      else s
    stop 1 (stop 0 s1)

/-- TDC_SATURATION_CLOSE (R60): no trailing edge before the TCLK edge at START_C + 512. -/
def saturationClose (p i : Nat) (s : Chip) : Chip :=
  let d := s.tdc p i
  if d.busy && d.close.isNone && d.held.isNone && decide (512 ≤ (s.ltcNow + 65536 - d.startC) % 65536) then
    setTdc p i { d with close := some (511, true), until_ := max d.until_ (d.t0 / 256 * 256 + 512 * 256 + conversionFtu) } s
  else s

/-- The raw record (R64). -/
def rawRecord (pix tdc startC f1 f2 totC s1 s2 : Nat) (order sat test folly unc : Bool) : BitVec 56 :=
  BitVec.ofNat 56 (place 6 50 pix ||| place 1 49 tdc ||| place 16 33 startC ||| place 4 29 f1 ||| place 4 25 f2
    ||| place 9 16 totC ||| place 4 12 s1 ||| place 4 8 s2 ||| place 1 7 (b2n order) ||| place 1 6 (b2n sat)
    ||| place 1 5 (b2n test) ||| place 1 4 (b2n folly) ||| place 1 3 (b2n unc))

/-- The sources of the records at the end of a FIFO that were written in the CCLK in progress, oldest first (R64). -/
def Chip.writtenNow (s : Chip) (p : Nat) : List Nat :=
  let x := Table.get (0, []) s.lawn.written p
  if x.1 = s.cclkNow then x.2.drop (x.2.length - (s.fifo p).length) else []

/-- Writes a record to a FIFO (R64, R68): among the records of one CCLK, TDC 0 comes first, then TDC 1, then the Folly. -/
def fifoPut (p src : Nat) (r : BitVec 56) (s : Chip) : Chip :=
  let q := s.fifo p
  let l := s.writtenNow p
  let after := l.countP fun x => decide (src < x)
  let cut := q.length - after
  let s1 := setFifo p (q.take cut ++ r :: q.drop cut) s
  let srcs := l.take (l.length - after) ++ src :: l.drop (l.length - after)
  { s1 with lawn := { s1.lawn with written := Table.set s1.lawn.written p (s.cclkNow, srcs) } }

/-- A synthetic record of this CCLK gives its entry up to a real one (R68): it finds the FIFO full and is dropped. -/
def evictFolly (p : Nat) (s : Chip) : Chip :=
  let l := s.writtenNow p
  let s1 := { s with lawn := { s.lawn with
    fifos := Table.set s.lawn.fifos p (s.fifo p).dropLast, written := Table.set s.lawn.written p (s.cclkNow, l.dropLast) } }
  let s2 := s1.setFld F.HIT_FOLLY_COUNT_COUNT (s1.fld F.HIT_FOLLY_COUNT_COUNT - 1)
  raise EV.LAWN_FOLLY_DROP (s2.bump F.HIT_FOLLY_DROP_COUNT)

/-- A real record is written to its FIFO, and its TDC is free once its 28 ns are over (R57, R64). -/
def writeRecord (p i : Nat) (r : BitVec 56) (s : Chip) : Chip :=
  (setTdc p i { Tdc.idle with until_ := (s.tdc p i).until_ } (fifoPut p i r s)).bump (F.PRT_HITS_COUNT p)

/-- The FIFO of a parterre has an entry for a new real record, which no record held before it waits for (R64). -/
def Chip.fifoTakes (s : Chip) (p : Nat) : Bool := decide ((s.fifo p).length < 8) && !s.stalled p

/-- TDC_CONVERSION_DONE (R56, R57, R61, R64, R68): the record, written or held behind the records held before it. -/
def conversionDone (p i startF1 startF2 stopF1 stopF2 : Nat) (order : Bool) (s : Chip) : Chip :=
  let d := s.tdc p i
  if !d.busy || d.held.isSome || (!order && d.close.isNone) then s
  else
    let (totC, sat) := if order then (0, false) else d.close.getD (0, false)
    let r := rawRecord d.pix i d.startC startF1 startF2 totC (if order || sat then 0 else stopF1)
      (if order || sat then 0 else stopF2) order sat d.test false d.unc
    let s0 := if order then
        let key := pixKey (rowOf p d.pix) (colOf p d.pix)
        setPixel key { s.pixel key with above := false } s
      else s
    let s1 := if order then s0.bump (F.PRT_FLAGCNT_ORDER p) else if sat then s0.bump (F.PRT_FLAGCNT_SAT p) else s0
    if s1.fifoTakes p then writeRecord p i r s1
    else if !s1.stalled p && (s1.writtenNow p).getLast? == some 2 then writeRecord p i r (evictFolly p s1)
    else raise EV.LAWN_STALL (setTdc p i { d with held := some (r, s1.cclkNow) } s1)

/-- The held record of a TDC comes before that of the other one (R64): it completed first, or in the same CCLK and is of TDC 0. -/
def Chip.heldFirst (s : Chip) (p i t : Nat) : Bool :=
  match (s.tdc p (1 - i)).held with
  | some (_, u) => decide (t < u) || (t == u && i == 0)
  | none => true

/-- STALLED_RECORD_WRITE (R64): a held record takes an entry that is free, in order of completion. -/
def stalledWrite (p i : Nat) (s : Chip) : Chip :=
  match (s.tdc p i).held with
  | some (r, t) => if (s.fifo p).length < 8 && s.heldFirst p i t then writeRecord p i r s else s
  | none => s

/-- PIXEL_REARM (R49): 30 ns after the trailing edge the pixel can fire again. -/
def pixelRearm (row col : Nat) (s : Chip) : Chip :=
  let x := s.pixel (pixKey row col)
  if x.above then s else setPixel (pixKey row col) { x with dead := false } s

/-- LAWN_SETTLING_END (R51): the programmed number of frames has passed. -/
def settlingEnd (s : Chip) : Chip :=
  if s.flag F.HIT_FE_STAT_SETTLING && s.lawn.settle == 0 then s.setFlag F.HIT_FE_STAT_SETTLING false else s

/-- LAWN_STUCK (R52): a pixel found above threshold at HIT_FE_STUCK.FRAMES consecutive ticks. -/
def declareStuck (row col : Nat) (s : Chip) : Chip :=
  let key := pixKey row col
  let x := s.pixel key
  let n := s.fld F.HIT_FE_STUCK_FRAMES
  if n != 0 && decide (n ≤ x.run) && !x.told then
    let s1 := (setPixel key { x with told := true } s).bump F.HIT_FE_STUCK_CNT_COUNT
    let s2 := if s1.flag F.HIT_FE_STUCK_ADDR_VALID then s1
      else (s1.setFld F.HIT_FE_STUCK_ADDR_ADDR key).setFlag F.HIT_FE_STUCK_ADDR_VALID true
    raise EV.LAWN_STUCK s2
  else s

/-- The frame that a tick starts is one of the schedule's (R54): it injects OFFSET TCLK after the tick. -/
def schedulePulse (s : Chip) : Chip :=
  let n := s.fld F.HIT_FE_TP_SCHED_PERIOD
  let m := s.fld F.HIT_FE_TP_COUNT
  if s.flag F.HIT_FE_STAT_TP_ACTIVE && n != 0 && s.lawn.tpPhase % n == 0
      && (m == 0 || decide (s.lawn.tpCount + s.lawn.injAt.length < m)) then
    { s with lawn := { s.lawn with injAt := s.lawn.injAt ++ [2 * s.clk.cc + s.fld F.HIT_FE_TP_SCHED_OFFSET] } }
  else s

/-- An injection of the schedule is due at a TCLK edge of the current CCLK (R54). -/
def Chip.injectsNow (s : Chip) (tclk : Nat) : Bool := s.flag F.HIT_FE_STAT_TP_ACTIVE && s.lawn.injAt.contains (s.tclkNow tclk)

/-- The charge of a test pulse (R53). -/
def Chip.tpCharge (s : Chip) : PulseCharge := if s.flag F.HIT_FE_TP_SRC then .tpin else .steps (s.fld F.HIT_FE_TP_AMP)

/-- TEST_PULSE_INJECTION (R54): counted; the moment opens the test window of R55. -/
def injectPulse (tclk : Nat) (s : Chip) : Chip :=
  if s.domainUp 0 && s.injectsNow tclk then
    let s1 := { s with
      lawn := { s.lawn with lastInj := some (256 * s.tclkNow tclk), charge := some s.tpCharge, tpCount := s.lawn.tpCount + 1
                            injAt := s.lawn.injAt.erase (s.tclkNow tclk) }
      fb := { s.fb with cur := s.fb.cur.map fun (a : FrameAcc) => { a with tp := true } } }
    s1.bump F.HIT_FE_TP_CNT_COUNT
  else s

/-- LAWN_TP_DONE (R54): COUNT pulses were injected since the start. -/
def pulsesDone (s : Chip) : Chip :=
  let n := s.fld F.HIT_FE_TP_COUNT
  if s.flag F.HIT_FE_STAT_TP_ACTIVE && n != 0 && decide (n ≤ s.lawn.tpCount) then
    raise EV.LAWN_TP_DONE (({ s with lawn := { s.lawn with injAt := [] } }).setFlag F.HIT_FE_STAT_TP_ACTIVE false)
  else s

/-- LAWN_DLL_UNLOCK (R63): a conversion in progress carries UNC. -/
def dllUnlock (p i : Nat) (s : Chip) : Chip :=
  if !s.tdcLocked p i then s
  else
    let d := s.tdc p i
    let s1 := if d.busy && d.held.isNone then setTdc p i { d with unc := true } s else s
    let s2 := s1.setFlag (if i = 0 then F.PRT_STAT_TDC0_LOCK p else F.PRT_STAT_TDC1_LOCK p) false
    raise EV.LAWN_DLL_UNLOCK (s2.bump (F.PRT_DLL_UNLOCK_COUNT p))

/-- TDC_DLL_RELOCK (R63): the line has locked, with its control code. It locks outside a reset, before ready as well. -/
def dllRelock (p i code : Nat) (s : Chip) : Chip :=
  if s.up && !s.rst.drstNow.testBit 0 then
    (s.setFlag (if i = 0 then F.PRT_STAT_TDC0_LOCK p else F.PRT_STAT_TDC1_LOCK p) true).setFld
      (if i = 0 then F.PRT_DLL_CODE0 p else F.PRT_DLL_CODE1 p) code
  else s

/-- Hedge h. -/
def Chip.hedge (s : Chip) (h : Nat) : Hedge := Table.get ⟨0, [], [], none⟩ s.hedges h

/-- Replaces hedge h. -/
def setHedge (h : Nat) (x : Hedge) (s : Chip) : Chip := { s with hedges := Table.set s.hedges h x }

/-- The parterre that the round robin of a hedge grants next, as its index among the 32 (R72). -/
def Chip.nextGrant (s : Chip) (h : Nat) : Option Nat :=
  ((List.range 32).map fun i => ((s.hedge h).grant + i) % 32).find? fun j => !(s.fifo (h + 32 * j)).isEmpty

/-- VERTICAL_LINK_TRANSFER (R65, R72, R74): the oldest record of the granted parterre crosses to the hedge, which takes
the latched values of the last tick with it. -/
def linkTransfer (h : Nat) (s : Chip) : Chip :=
  if !s.domainUp 1 then s
  else match s.nextGrant h with
  | none => s
  | some j =>
    let p := h + 32 * j
    match s.fifo p with
    | [] => s
    | r :: q =>
      let x := s.hedge h
      let raw : RawIn := { raw := r, prt := p, frame := s.clk.frame, ltc := s.ltcTick, resid := s.clk.residual }
      (setHedge h { x with grant := (j + 1) % 32, inq := x.inq ++ [raw] }
        { s with lawn := { s.lawn with fifos := Table.set s.lawn.fifos p q } }).bump (F.HIT_HEDGE_RECS_COUNT h)

/-! ### The Folly (R67, R68) -/

/-- One step of the RANDOM generator. -/
def follyStep (x : Nat) : Nat := if x % 2 = 1 then (x / 2) ^^^ 0x80200003 else x / 2

/-- The generator advanced for one record. -/
def follyNext (x : Nat) : Nat := (List.range 32).foldl (fun v _ => follyStep v) x

/-- The generator state of a parterre: the seed XOR p, or 1, until it first advances. -/
def Chip.follyState (s : Chip) (p : Nat) : Nat :=
  let v := s.fld F.HIT_FOLLY_SEED_SEED ^^^ p
  Table.get (if v = 0 then 1 else v) s.lawn.folly p

/-- The Folly generates: MODE 1 or 2; 3 acts as 0. -/
def Chip.follyOn (s : Chip) : Bool := s.fld F.HIT_FOLLY_CTL_MODE == 1 || s.fld F.HIT_FOLLY_CTL_MODE == 2

/-- A synthetic record of a parterre is due at a TCLK edge of the current CCLK (R67): a multiple of SPACING after the start of the
cadence, at least 16 TCLK, and none was made at this edge yet. -/
def Chip.follyDue (s : Chip) (p tclk : Nat) : Bool :=
  let t := s.tclkNow tclk
  decide (s.lawn.follyBase ≤ t) && (t - s.lawn.follyBase) % max 16 (s.fld F.HIT_FOLLY_SPACING_TCLK) == 0
    && Table.get 0 s.lawn.follyLast p != t + 1

/-- FOLLY_RECORD (R67, R68): a synthetic record at the FIFO input. Entries that held records wait for are none of its own. -/
def follyRecord (p tclk : Nat) (s0 : Chip) : Chip :=
  if !s0.domainUp 0 || !s0.follyOn || !s0.flag (F.PRT_CTL_FOLLY_EN p) || !s0.follyDue p tclk then s0
  else
    let s := { s0 with lawn := { s0.lawn with follyLast := Table.set s0.lawn.follyLast p (s0.tclkNow tclk + 1) } }
    let ltc := (s.ltcNow + tclk) % 65536
    let random := s.fld F.HIT_FOLLY_CTL_MODE == 2
    let v := follyNext (s.follyState p)
    let s1 := if random then { s with lawn := { s.lawn with folly := Table.set s.lawn.folly p v } } else s
    let r := if random then
        rawRecord (bits v 5 0) 0 ltc (bits v 9 6) (bits v 13 10) (bits v 22 14) (bits v 26 23) (bits v 30 27)
          false false false true false
      else
        rawRecord (s.fld F.HIT_FOLLY_HIT_PIX) 0 ltc 0 0 (s.fld F.HIT_FOLLY_HIT_TOT_C) 0 0 false false false true false
    if s1.fifoTakes p then (fifoPut p 2 r s1).bump F.HIT_FOLLY_COUNT_COUNT
    else raise EV.LAWN_FOLLY_DROP (s1.bump F.HIT_FOLLY_DROP_COUNT)

/-! ### The Lawn at a local frame tick -/

/-- Lawn settling starts when a change of R51 takes effect: `old` is the chip as it was before the commit. While the Lawn settles
already, the count of FRAMES starts again (DESIGN CHOICE, notes/assumptions/51). -/
def settlingStart (old s : Chip) : Chip :=
  let d := fun (f : Fld) => decide (old.fld f ≠ s.fld f)
  let thr := (s.fld F.HIT_FE_THR_THR : Int) - (old.fld F.HIT_FE_THR_THR : Int)
  if d F.HIT_FE_CTL_POLARITY || d F.HIT_FE_BIAS_IFB || d F.HIT_FE_BIAS_PA_BIAS
      || (!old.flag F.HIT_FE_CTL_LAWN_EN && s.flag F.HIT_FE_CTL_LAWN_EN) || decide (8 < thr.natAbs) then
    ({ s with lawn := { s.lawn with settle := max 1 (s.fld F.HIT_FE_SETTLE_FRAMES) } }).setFlag F.HIT_FE_STAT_SETTLING true
  else s

/-- The cadence of the Folly starts at the last tick (R67). -/
def startFolly (s : Chip) : Chip := { s with lawn := { s.lawn with follyBase := 2 * s.clk.cc, follyLast := [] } }

/-- The Folly at a commit (R67): a mode that takes effect and a new SPACING start the cadence; the states load when RANDOM takes effect
or a new seed does while it is in force. -/
def follyCommit (old s0 : Chip) : Chip :=
  let m := s0.fld F.HIT_FOLLY_CTL_MODE
  let s := if m != old.fld F.HIT_FOLLY_CTL_MODE || s0.fld F.HIT_FOLLY_SPACING_TCLK != old.fld F.HIT_FOLLY_SPACING_TCLK then startFolly s0
    else s0
  if m = 2 && (old.fld F.HIT_FOLLY_CTL_MODE != 2 || old.fld F.HIT_FOLLY_SEED_SEED != s.fld F.HIT_FOLLY_SEED_SEED) then
    { s with lawn := { s.lawn with folly := [] } }
  else s

/-- The test-pulse schedule at a tick (R54): a commit that carries a host write of PERIOD or COUNT starts it when PERIOD is
not 0; PERIOD 0 stops it. -/
def pulseSchedule (started : Bool) (s : Chip) : Chip :=
  if s.fld F.HIT_FE_TP_SCHED_PERIOD = 0 then ({ s with lawn := { s.lawn with injAt := [] } }).setFlag F.HIT_FE_STAT_TP_ACTIVE false
  else if started then
    ({ s with lawn := { s.lawn with tpPhase := 0, tpCount := 0, injAt := [] } }).setFlag F.HIT_FE_STAT_TP_ACTIVE true
  else s

/-- The guard-ring pads are driven at the amplifier-input DC level (R44); otherwise they are high impedance. -/
def Chip.guardDrive (s : Chip) : Bool := s.flag F.HIT_FE_CTL_GUARD_EN

/-- One tick of the Lawn (R51, R52, R54): settling frames, the phase of the schedule, and the samples of the stuck
detector. A masked pixel and one of a disabled parterre are not sampled: their run of ticks ends, and a declaration stands until a
sample below threshold. A discriminator that settling, LAWN_EN or the domain's reset gates is sampled below threshold. Ticks above
threshold count toward FRAMES while FRAMES is 0 as well (DESIGN CHOICE, notes/assumptions/51). -/
def tickLawn (s : Chip) : Chip :=
  let sample := fun (e : Nat × PixSt) =>
    let key := e.1
    let p := parterreOf (key / 256) (key % 256)
    let seen := e.2.above && s.gateOpen key p
    (key, if (s.pixLatch key).testBit 6 || !s.flag (F.PRT_CTL_EN p) then { e.2 with run := 0 } else if seen then { e.2 with run := e.2.run + 1 } else { e.2 with run := 0, told := false })
  { s with lawn := { s.lawn with
      settle := s.lawn.settle - 1
      tpPhase := s.lawn.tpPhase + 1
      pixels := (s.lawn.pixels.map sample).filter fun e => e.2 != PixSt.rest } }

/-! ### The commands -/

/-- HIT_LEADING_EDGE (R58). -/
def execHitLeadingEdge (row col : Fin 256) (sub : Fin 512) (s : State) : Host.Outcome State Fault Refusal :=
  .next { s with chip := leadingEdge row col sub s.chip }

/-- TRAILING_EDGE (R57, R61). -/
def execTrailingEdge (row col : Fin 256) (sub : Fin 512) (s : State) : Host.Outcome State Fault Refusal :=
  .next { s with chip := trailingEdge row col sub s.chip }

/-- TDC_CONVERSION_DONE (R64). -/
def execTdcConversionDone (p : Fin 1024) (tdc : Fin 2) (startF1 startF2 stopF1 stopF2 : Fin 16) (order : Bool) (s : State) :
    Host.Outcome State Fault Refusal :=
  .next { s with chip := conversionDone p tdc startF1 startF2 stopF1 stopF2 order s.chip }

/-- TDC_SATURATION_CLOSE (R60). -/
def execTdcSaturationClose (p : Fin 1024) (tdc : Fin 2) (s : State) : Host.Outcome State Fault Refusal :=
  .next { s with chip := saturationClose p tdc s.chip }

/-- STALLED_RECORD_WRITE (R64). -/
def execStalledRecordWrite (p : Fin 1024) (tdc : Fin 2) (s : State) : Host.Outcome State Fault Refusal :=
  .next { s with chip := stalledWrite p tdc s.chip }

/-- PIXEL_REARM (R49). -/
def execPixelRearm (row col : Fin 256) (s : State) : Host.Outcome State Fault Refusal :=
  .next { s with chip := pixelRearm row col s.chip }

/-- LAWN_SETTLING_END (R51). -/
def execLawnSettlingEnd (s : State) : Host.Outcome State Fault Refusal :=
  .next { s with chip := settlingEnd s.chip }

/-- LAWN_STUCK (R52). -/
def execLawnStuck (row col : Fin 256) (s : State) : Host.Outcome State Fault Refusal :=
  .next { s with chip := declareStuck row col s.chip }

/-- TEST_PULSE_INJECTION (R54). -/
def execTestPulseInjection (s : State) (tclk : Fin 2 := 0) : Host.Outcome State Fault Refusal :=
  .next { s with chip := injectPulse tclk s.chip }

/-- LAWN_TP_DONE (R54). -/
def execLawnTpDone (s : State) : Host.Outcome State Fault Refusal :=
  .next { s with chip := pulsesDone s.chip }

/-- LAWN_DLL_UNLOCK (R63). -/
def execLawnDllUnlock (p : Fin 1024) (tdc : Fin 2) (s : State) : Host.Outcome State Fault Refusal :=
  .next { s with chip := dllUnlock p tdc s.chip }

/-- TDC_DLL_RELOCK (R63). -/
def execTdcDllRelock (p : Fin 1024) (tdc : Fin 2) (code : Fin 256) (s : State) : Host.Outcome State Fault Refusal :=
  .next { s with chip := dllRelock p tdc code s.chip }

/-- VERTICAL_LINK_TRANSFER (R72). -/
def execVerticalLinkTransfer (h : Fin 32) (s : State) : Host.Outcome State Fault Refusal :=
  .next { s with chip := linkTransfer h s.chip }

/-- FOLLY_RECORD (R67). -/
def execFollyRecord (p : Fin 1024) (s : State) (tclk : Fin 2 := 0) : Host.Outcome State Fault Refusal :=
  .next { s with chip := follyRecord p tclk s.chip }

end Sys2Proof.Machine
end

