-- ==== Sys2Proof/Machine/Float32.lean ====
section
/-! DEFINITION. Binary32 arithmetic (R105, R175, R177): every operation is exact and then rounded to nearest with ties to
even; subnormals are kept. A number is its 32 bits. -/

namespace Sys2Proof.Machine

/-- The quiet NaN of R178. -/
def f32NaN : Nat := 0x7FC00000

/-- Infinity of a sign. -/
def f32Inf (neg : Bool) : Nat := place 1 31 (b2n neg) ||| 0x7F800000

/-- A NaN. -/
def f32IsNaN (x : Nat) : Bool := decide (0x7F800000 < x % 2 ^ 31)

/-- An infinity. -/
def f32IsInf (x : Nat) : Bool := x % 2 ^ 31 == 0x7F800000

/-- A zero. -/
def f32IsZero (x : Nat) : Bool := x % 2 ^ 31 == 0

/-- The sign of a number. -/
def f32Neg (x : Nat) : Bool := x.testBit 31

/-- The significand of a finite number, an integer. -/
def f32Mant (x : Nat) : Nat := if bits x 30 23 = 0 then bits x 22 0 else 2 ^ 23 + bits x 22 0

/-- The exponent of a finite number: its value is the significand times 2 to this power. -/
def f32Exp (x : Nat) : Int := (max 1 (bits x 30 23) : Nat) - 150

/-- num / den rounded to binary32, den not 0. -/
def f32Round (neg : Bool) (num den : Nat) : Nat :=
  if num = 0 then place 1 31 (b2n neg)
  else
    let e0 : Int := (Nat.log2 num : Int) - (Nat.log2 den : Int) - 23
    let scale := fun (e : Int) => if 0 ≤ e then (num, den * 2 ^ e.toNat) else (num * 2 ^ (-e).toNat, den)
    let low := (scale e0).1 / (scale e0).2 < 2 ^ 23
    let e : Int := max (-149) (if low then e0 - 1 else e0)
    let n := (scale e).1
    let d := (scale e).2
    let q := n / d
    let r := n % d
    let up := decide (d < 2 * r) || (decide (d = 2 * r) && q % 2 == 1)
    let q1 := if up then q + 1 else q
    let v := if q1 < 2 ^ 23 then q1 else (e + 149).toNat * 2 ^ 23 + q1
    place 1 31 (b2n neg) ||| (if 0x7F800000 ≤ v then 0x7F800000 else v)

/-- An exact value m × 2^e rounded to binary32. -/
def f32OfExact (neg : Bool) (m : Nat) (e : Int) : Nat :=
  if 0 ≤ e then f32Round neg (m * 2 ^ e.toNat) 1 else f32Round neg m (2 ^ (-e).toNat)

/-- An integer rounded to binary32. -/
def f32OfInt (i : Int) : Nat := f32Round (decide (i < 0)) i.natAbs 1

/-- 2 to the power −k, k up to 126. -/
def f32Pow2Neg (k : Nat) : Nat := (127 - k) * 2 ^ 23

/-- The product. -/
def f32Mul (a b : Nat) : Nat :=
  let neg := f32Neg a != f32Neg b
  if f32IsNaN a || f32IsNaN b then f32NaN
  else if f32IsInf a || f32IsInf b then (if f32IsZero a || f32IsZero b then f32NaN else f32Inf neg)
  else f32OfExact neg (f32Mant a * f32Mant b) (f32Exp a + f32Exp b)

/-- A finite number as an integer multiple of 2^e, e not above its own exponent. -/
def f32Scaled (x : Nat) (e : Int) : Int :=
  let m : Int := (f32Mant x * 2 ^ (f32Exp x - e).toNat : Nat)
  if f32Neg x then -m else m

/-- The sum. -/
def f32Add (a b : Nat) : Nat :=
  if f32IsNaN a || f32IsNaN b then f32NaN
  else if f32IsInf a then (if f32IsInf b && f32Neg a != f32Neg b then f32NaN else a % 2 ^ 32)
  else if f32IsInf b then b % 2 ^ 32
  else
    let e := min (f32Exp a) (f32Exp b)
    let v := f32Scaled a e + f32Scaled b e
    if v = 0 then (if f32Neg a && f32Neg b then 0x80000000 else 0)
    else f32OfExact (decide (v < 0)) v.natAbs e

/-- The quotient. -/
def f32Div (a b : Nat) : Nat :=
  let neg := f32Neg a != f32Neg b
  if f32IsNaN a || f32IsNaN b then f32NaN
  else if f32IsInf a then (if f32IsInf b then f32NaN else f32Inf neg)
  else if f32IsInf b then place 1 31 (b2n neg)
  else if f32IsZero b then (if f32IsZero a then f32NaN else f32Inf neg)
  else
    let e := f32Exp a - f32Exp b
    f32Round neg (f32Mant a * 2 ^ e.toNat) (f32Mant b * 2 ^ (-e).toNat)

/-- A number that is not a NaN as a key in numeric order; −0 and +0 have one key. -/
def f32Key (x : Nat) : Int := if f32Neg x then -((x % 2 ^ 31 : Nat) : Int) else ((x % 2 ^ 31 : Nat) : Int)

/-- Numerically below; false where one is a NaN. -/
def f32Lt (a b : Nat) : Bool := !f32IsNaN a && !f32IsNaN b && decide (f32Key a < f32Key b)

/-- Numerically at or above; false where one is a NaN. -/
def f32Ge (a b : Nat) : Bool := !f32IsNaN a && !f32IsNaN b && decide (f32Key b ≤ f32Key a)

/-- floor(x × 2^k), an infinity as a value beyond ±2^31; 0 for a NaN, which no measure takes. -/
def f32FloorScaled (x : Nat) (k : Int) : Int :=
  if f32IsNaN x then 0
  else if f32IsInf x then (if f32Neg x then -(2 ^ 40 : Nat) else ((2 ^ 40 : Nat) : Int))
  else
    let m : Int := if f32Neg x then -(f32Mant x : Int) else (f32Mant x : Int)
    let e := f32Exp x + k
    if 0 ≤ e then m * (2 ^ e.toNat : Nat) else m / ((2 ^ (-e).toNat : Nat) : Int)

end Sys2Proof.Machine
end

