-- ==== Sys2Proof/Machine/Measures.lean ====
section
/-! DEFINITION. The measures M0 to M127 and the level conditions that watch them (chapter 09). The Nat argument k selects
the configuration of the data-frame rule (R26): 0 for the frame in progress, 1 for the one before, 2 for the one before
that. -/

namespace Sys2Proof.Machine

/-! ### The hit word (R77) -/

/-- ROW of a hit word. -/
def hitRow (w : Nat) : Nat := bits w 63 56
/-- COL of a hit word. -/
def hitCol (w : Nat) : Nat := bits w 55 48
/-- TOA of a hit word. -/
def hitToa (w : Nat) : Nat := bits w 47 28
/-- SHORT of a hit word. -/
def hitShort (w : Nat) : Bool := w.testBit 15
/-- SAT of a hit word. -/
def hitSat (w : Nat) : Bool := w.testBit 14
/-- TEST of a hit word. -/
def hitTest (w : Nat) : Bool := w.testBit 12
/-- ENERGY of a hit word. -/
def hitEnergy (w : Nat) : Nat := bits w 11 0

/-- The quadrant of a pixel (chapter 03, Rate reducer). -/
def quadrantOf (row col : Nat) : Nat := 2 * (row / 128) + col / 128

/-- The age of the configuration that the data-frame rule gives the data of a frame (R26). -/
def Chip.ageOf (s : Chip) (frame : Nat) : Nat :=
  if s.clk.frame ≤ frame then 0
  else if frame + 1 = s.clk.frame then 1
  else match s.fb.prev with
    | some a => if a.id = frame then 1 else 2
    | none => 2

/-! ### Usability (R134, R230, R237, R240, R244) -/

/-- Waveform channels that a mode provides (R133). -/
def modeChannels (mode : Nat) : Nat := nth 0 [0, 1, 2, 4] mode

/-- A waveform channel is enabled (R134). -/
def Chip.wavEnabled (s : Chip) (k ch : Nat) : Bool :=
  (s.fldAt k F.WAV_CTL_CH_EN).testBit ch && decide (ch < modeChannels (s.fldAt k F.WAV_CTL_MODE))

/-- TYPE of a measure; 0 for a code that switches it off (R230). -/
def Chip.measType (s : Chip) (k n : Nat) : Nat :=
  let t := s.fldAt k (F.LOOP_M_CFG_TYPE n)
  if t ≤ 8 then t else 0

/-- Whether a measure that is on is usable, given the usability of those below it (R237). -/
def Chip.measUsable (s : Chip) (k n : Nat) (below : List Bool) : Bool :=
  let f := fun (x : Nat → Fld) => s.fldAt k (x n)
  let sel := f F.LOOP_M_P3_SEL
  match s.measType k n with
  | 1 | 2 =>
    decide (f F.LOOP_M_P1_RMIN ≤ f F.LOOP_M_P1_RMAX) && decide (f F.LOOP_M_P1_CMIN ≤ f F.LOOP_M_P1_CMAX)
      && (f F.LOOP_M_CFG_EWIN == 0 || decide (f F.LOOP_M_P2_EMIN < f F.LOOP_M_P2_EMAX))
  | 3 => s.wavEnabled k sel
  | 4 => s.flagAt k (F.XDC_ROUTE_EN sel)
  | 5 => decide (sel < 4) && s.flagAt k (F.TIP_CH_CTL_EN sel)
  | 6 => decide (sel < 8) && s.flagAt k F.TRG_CTL_EN && s.flagAt k (F.TRG_OUT_CTL_EN sel)
  | 7 | 8 => nth false below (f F.LOOP_M_P3_A) && nth false below (f F.LOOP_M_P3_B)
  | _ => false

/-- For each measure whether it is on and usable, in ascending index (R230, R237). -/
def Chip.measTable (s : Chip) (k : Nat) : List Bool :=
  (List.range 128).foldl (fun acc n => acc ++ [s.measUsable k n acc]) []

/-- A measure is on and usable. -/
def Chip.measOk (s : Chip) (k n : Nat) : Bool := nth false (s.measTable k) n

/-- A loop with EN = 1 is usable (R240). -/
def Chip.loopUsable (s : Chip) (k l : Nat) (ok : List Bool) : Bool :=
  decide (sext 32 (s.fldAt k (F.LOOP_L_OUTMIN_VALUE l)) ≤ sext 32 (s.fldAt k (F.LOOP_L_OUTMAX_VALUE l)))
    && nth false ok (s.fldAt k (F.LOOP_L_CFG_MEAS l))
    && (!s.flagAt k (F.LOOP_L_CFG_GATE_EN l) || nth false ok (s.fldAt k (F.LOOP_L_CFG_GATE l)))

/-- A safety condition that is on is usable (R244). -/
def Chip.scUsable (s : Chip) (c : Nat) (ok : List Bool) : Bool :=
  match s.fld (F.LOOP_SC_CFG_TYPE c) with
  | 1 | 2 => nth false ok (s.fld (F.LOOP_SC_CFG_MEAS c))
  | 4 => !(s.fld (F.LOOP_SC_THR_THR c)).testBit s.addr
  | _ => true

/-! ### Values -/

/-- An empty statistic. -/
def Stat.empty : Stat := ⟨0, 0, 0, 0, 0, false⟩

/-- A statistic with one datum more (R230, R232). -/
def Stat.add (x : Stat) (v : Int) (excess red : Bool) : Stat :=
  { sum := x.sum + v, n := x.n + 1, mx := if x.n = 0 then v else max x.mx v, mn := if x.n = 0 then v else min x.mn v,
    excess := x.excess + b2n excess, red := x.red || red }

/-- sat(floor(S × 2^(16 − SHIFT))) (R230). -/
def scaleQ (x : Int) (shift : Nat) : Int :=
  sat32 (if shift ≤ 16 then x * (2 ^ (16 - shift) : Nat) else x / ((2 ^ (shift - 16) : Nat) : Int))

/-- The raw quantity of a statistic by TYPE and STAT (R230, R232); none where a WAVE statistic has no sample. -/
def Stat.raw (x : Stat) (typ stat : Nat) : Option Int :=
  if typ = 3 then
    match stat with
    | 0 => if x.n = 0 then none else some (x.sum / (x.n : Int))
    | 1 => if x.n = 0 then none else some x.mx
    | 2 => if x.n = 0 then none else some x.mn
    | _ => some x.excess
  else some x.sum

/-- The value of the latest result of an XDC or TIN source (R230). -/
def latestValue (typ shift : Nat) (raw : Int) : Int :=
  if typ = 4 then sat32 (f32FloorScaled raw.toNat (16 - (shift : Int))) else scaleQ raw shift

/-- A measure at rest. -/
def Meas.rest : Meas := ⟨[], 0, 0, 0, Stat.empty, Stat.empty⟩

/-- Measure n. -/
def Chip.measure (s : Chip) (n : Nat) : Meas := Table.get Meas.rest s.meas n

/-- Replaces measure n. -/
def setMeasure (n : Nat) (m : Meas) (s : Chip) : Chip := { s with meas := Table.set s.meas n m }

/-- The latest results of a source, a transducer entry (`typ` 4) or an interval channel (`typ` 5), as (frame, raw value) newest first; an
entry without a value is the enabling of the source in that frame (R234, R236). -/
def Chip.source (s : Chip) (typ sel : Nat) : List (Nat × Option Int) := Table.get [] s.srcs (64 * typ + sel)

/-- A source has one result or enabling more. -/
def noteSource (typ sel frame : Nat) (v : Option Int) (s : Chip) : Chip :=
  { s with srcs := Table.set s.srcs (64 * typ + sel) ((frame, v) :: s.source typ sel) }

/-- The RUN value of a measure with data of its own (R235). -/
def Chip.runOf (s : Chip) (n : Nat) : Int :=
  let m := s.measure n
  let typ := s.measType 0 n
  let shift := s.fld (F.LOOP_M_CFG_SHIFT n)
  let stat := s.fld (F.LOOP_M_CFG_STAT n)
  if typ = 4 || typ = 5 then
    match s.source typ (s.fld (F.LOOP_M_P3_SEL n)) with
    | (_, some v) :: _ => latestValue typ shift v
    | _ => 0
  else
    match m.cur.raw typ stat, m.old.raw typ stat with
    | some a, some b => scaleQ (if typ = 3 && stat = 2 then min a b else max a b) shift
    | some a, none => scaleQ a shift
    | none, some b => scaleQ b shift
    | none, none => 0

/-- LOOP_Mn_RUN as a signed number. -/
def Chip.runVal (s : Chip) (n : Nat) : Int := sext 32 (s.fld (F.LOOP_M_RUN_VALUE n))

/-- The RUN value of a measure as it should stand (R230, R235). -/
def Chip.runNow (s : Chip) (n : Nat) (ok : List Bool) : Int :=
  if !nth false ok n then 0
  else
    let a := s.runVal (s.fld (F.LOOP_M_P3_A n))
    let b := s.runVal (s.fld (F.LOOP_M_P3_B n))
    match s.measType 0 n with
    | 7 => sat32 (a - b)
    | 8 => sat32 (a + b)
    | _ => s.runOf n

/-! ### Level conditions (R244, R245) -/

/-- Evaluates the RUN_HI and RUN_LO conditions of a measure with the time of the datum or boundary that changed it. A level that stays met is
no new meeting. -/
def evalLevel (ok : List Bool) (n t : Nat) (s : Chip) : Chip :=
  forN 16 (fun c s =>
    let typ := s.fld (F.LOOP_SC_CFG_TYPE c)
    if (typ = 1 || typ = 2) && s.fld (F.LOOP_SC_CFG_MEAS c) = n then
      let thr := sext 32 (s.fld (F.LOOP_SC_THR_THR c))
      let level := nth false ok n && (if typ = 1 then decide (thr ≤ s.runVal n) else decide (s.runVal n < thr))
      let x := nth ⟨false, 0, false⟩ s.sc c
      let s1 := { s with sc := s.sc.set c { x with met := level } }
      if level && !x.met then meetCond raise c t s1 else s1
    else s) s

/-- RUN of the measures that one datum, result or boundary changed, each with the time of its change, is brought up to date in ascending
index, with that of the DIFF and SUM measures that name a changed one; then come the conditions (R233, R235, R244). -/
def updateRuns (ns : List (Nat × Nat)) (s : Chip) : Chip :=
  if ns.isEmpty then s
  else
    let ok := s.measTable 0
    let r := (List.range 128).foldl (fun (acc : List (Nat × Nat) × Chip) i =>
      let typ := acc.2.measType 0 i
      let a := acc.2.fld (F.LOOP_M_P3_A i)
      let b := acc.2.fld (F.LOOP_M_P3_B i)
      let time := match ns.find? fun x => x.1 == i with
        | some x => some x.2
        | none => if (typ == 7 || typ == 8) && nth false ok i then (acc.1.find? fun x => x.1 == a || x.1 == b).map Prod.snd else none
      match time with
      | some t => (acc.1 ++ [(i, t)], acc.2.setFld (F.LOOP_M_RUN_VALUE i) (unsext 32 (acc.2.runNow i ok)))
      | none => acc) ([], s)
    forAll r.1 (fun x s => evalLevel ok x.1 x.2 s) r.2

/-! ### Data in (R231 to R235) -/

/-- Length of a RUN block in FTU: 2^(RW + 7) TCLK, RW above 5 acting as 5. -/
def blockFtu (rw : Nat) : Nat := 2 ^ (min 5 rw + 7) * 256

/-- The two open blocks of a measure at block number b (R235): the blocks advance with network time. -/
def Meas.toBlock (m : Meas) (b : Nat) : Meas :=
  if m.blk = b then m else { m with blk := b, cur := Stat.empty, old := if m.blk + 1 = b then m.cur else Stat.empty }

/-- A datum of TYPE `typ` joins a measure: the statistic of its frame, and the open block that holds its time; the first value tells
whether RUN changes. -/
def addDatum (typ n frame t : Nat) (v : Int) (excess red : Bool) (s : Chip) : Bool × Chip :=
  let m := s.measure n
  let st := (m.acc.find? fun a => a.1 == frame).map Prod.snd |>.getD Stat.empty
  let acc := Table.set m.acc frame (st.add v excess red)
  let b := t / blockFtu m.rw
  if typ != m.typ then (false, setMeasure n { m with acc := acc } s)
  else if b = m.blk then (true, setMeasure n { m with acc := acc, cur := m.cur.add v excess red } s)
  else if b + 1 = m.blk then (true, setMeasure n { m with acc := acc, old := m.old.add v excess red } s)
  else (false, setMeasure n { m with acc := acc } s)

/-- LOOP_CTL.EN for the data of a frame. -/
def Chip.loopsOn (s : Chip) (k : Nat) : Bool := s.flagAt k F.LOOP_CTL_EN

/-- The blocks of the measures with a selected RW advance with network time, and RUN with them (R235). -/
def advanceBlocks (sel : Nat → Bool) (s : Chip) : Chip :=
  if !s.loopsOn 0 then s
  else
    let ok := s.measTable 0
    let r := (List.range 128).foldl (fun (acc : List (Nat × Nat) × Chip) n =>
      let m := acc.2.measure n
      let len := blockFtu m.rw
      let b := acc.2.now / len
      if nth false ok n && [1, 2, 3, 6].contains (acc.2.measType 0 n) && sel m.rw && m.blk != b then
        (acc.1 ++ [(n, b * len)], setMeasure n (m.toBlock b) acc.2)
      else acc) ([], s)
    updateRuns r.1 r.2

/-- One datum at time t reaches the measures of a TYPE that are on and usable for the data of its frame, in ascending index (R233). -/
def forMeasures (k t : Nat) (p : Nat → Bool) (f : Nat → Chip → Bool × Chip) (s : Chip) : Chip :=
  if !s.loopsOn k then s
  else
    let ok := s.measTable k
    let r := (List.range 128).foldl (fun (acc : List (Nat × Nat) × Chip) n =>
      if nth false ok n && p (acc.2.measType k n) then
        let x := f n acc.2
        (if x.1 then acc.1 ++ [(n, t)] else acc.1, x.2)
      else acc) ([], advanceBlocks (fun _ => true) s)
    updateRuns r.1 r.2

/-- A kept hit reaches the measures (R231, R84). -/
def measureHit (frame w kq : Nat) (s : Chip) : Chip :=
  let k := s.ageOf frame
  let t := frame * frameFtu + hitToa w
  let weight := 2 ^ kq
  forMeasures k t (fun ty => ty == 1 || ty == 2) (fun n s =>
    let f := fun (x : Nat → Fld) => s.fldAt k (x n)
    let inside := decide (f F.LOOP_M_P1_RMIN ≤ hitRow w) && decide (hitRow w ≤ f F.LOOP_M_P1_RMAX)
      && decide (f F.LOOP_M_P1_CMIN ≤ hitCol w) && decide (hitCol w ≤ f F.LOOP_M_P1_CMAX)
    let test := f F.LOOP_M_CFG_NOTEST == 0 || !hitTest w
    let window := f F.LOOP_M_CFG_EWIN == 0
      || (decide (f F.LOOP_M_P2_EMIN ≤ hitEnergy w) && decide (hitEnergy w < f F.LOOP_M_P2_EMAX))
    if inside && test && window then
      if s.measType k n = 1 then addDatum 1 n frame t (weight : Nat) false (kq != 0) s
      else if hitShort w || hitSat w then (false, s)
      else addDatum 2 n frame t (hitEnergy w * weight : Nat) false (kq != 0) s
    else (false, s)) s

/-- A full-rate sample reaches the measures as its container value (R232). -/
def measureSample (ch frame t : Nat) (v : Int) (signed : Bool) (s : Chip) : Chip :=
  let k := s.ageOf frame
  forMeasures k t (· == 3) (fun n s =>
    if s.fldAt k (F.LOOP_M_P3_SEL n) = ch then
      let lv := 256 * s.fldAt k (F.LOOP_M_P1_CMAX n) + s.fldAt k (F.LOOP_M_P1_CMIN n)
      let level : Int := if signed then sext 16 lv else lv
      addDatum 3 n frame t v (decide (level ≤ v)) false s
    else (false, s)) s

/-- A record decided by an output reaches the REC measures, in the frame of its decision (R234). -/
def measureRecord (out : Nat) (s : Chip) : Chip :=
  forMeasures 0 s.now (· == 6) (fun n s =>
    if s.fld (F.LOOP_M_P3_SEL n) = out then addDatum 6 n s.clk.frame s.now 1 false false s else (false, s)) s

/-- A result of a transducer entry (`typ` 4, its LIN) or an interval channel (`typ` 5, its VALUE) reaches the measures
(R233, R234). -/
def measureResult (typ sel time : Nat) (raw : Int) (s : Chip) : Chip :=
  forMeasures 0 time (· == typ) (fun n s => (s.fld (F.LOOP_M_P3_SEL n) == sel, s)) (noteSource typ sel (time / frameFtu) (some raw) s)

/-- MEASURE_BLOCK_BOUNDARY (R235): the older open block closes and an empty one opens, for every measure of this RW. -/
def blockBoundaryOf (rw : Nat) (s : Chip) : Chip := advanceBlocks (· == rw) s

/-! ### FRAME values (R234, R236) -/

/-- The FRAME value of a measure with data of its own: value, validity and whether some hit had k > 0. -/
def Chip.frameOf (s : Chip) (k n frame : Nat) : Int × Bool × Bool :=
  let m := s.measure n
  let typ := s.measType k n
  let shift := s.fldAt k (F.LOOP_M_CFG_SHIFT n)
  if typ = 4 || typ = 5 then
    let age := 4096 * s.fldAt k (F.LOOP_M_P2_AGEHI n) + s.fldAt k (F.LOOP_M_P2_EMIN n)
    match (s.source typ (s.fldAt k (F.LOOP_M_P3_SEL n))).find? fun r => decide (r.1 ≤ frame) with
    | some (f, some v) => (latestValue typ shift v, age == 0 || decide (frame - f ≤ age), false)
    | _ => (0, false, false)
  else
    let st := (m.acc.find? fun a => a.1 == frame).map Prod.snd |>.getD Stat.empty
    match st.raw typ (s.fldAt k (F.LOOP_M_CFG_STAT n)) with
    | some v => (scaleQ v shift, !(typ == 3 && st.n == 0), st.red)
    | none => (0, false, false)

/-- The FRAME values of all measures of frame f, with the configuration of age k, in ascending index. -/
def Chip.frameValues (s : Chip) (k frame : Nat) : List (Int × Bool × Bool) :=
  let ok := s.measTable k
  (List.range 128).foldl (fun acc n =>
    let v : Int × Bool × Bool :=
      if !nth false ok n then (0, false, false)
      else
        let a := nth (0, false, false) acc (s.fldAt k (F.LOOP_M_P3_A n))
        let b := nth (0, false, false) acc (s.fldAt k (F.LOOP_M_P3_B n))
        match s.measType k n with
        | 7 => (sat32 (a.1 - b.1), a.2.1 && b.2.1, a.2.2 || b.2.2)
        | 8 => (sat32 (a.1 + b.1), a.2.1 && b.2.1, a.2.2 || b.2.2)
        | _ => s.frameOf k n frame
    acc ++ [v]) []

/-- Forgets what a closed frame no longer needs. -/
def dropFrame (frame : Nat) (s : Chip) : Chip :=
  let young := fun (r : Nat × Option Int) => decide (frame < r.1)
  { s with
    meas := s.meas.map fun e => (e.1, { e.2 with acc := e.2.acc.filter fun a => decide (frame < a.1) })
    srcs := s.srcs.map fun e => (e.1, e.2.takeWhile young ++ (e.2.dropWhile young).take 1) }

/-- A commit took effect (R235, R236, R237): a measure whose TYPE or RW changed, or that is not usable, starts with empty
blocks; sources that were enabled have no result yet; RUN of every measure is brought up to date; new unusable measures are announced. -/
def measuresCommit (old s0 : Chip) : Chip :=
  let was := old.measTable 0
  let ok := s0.measTable 0
  let on := fun (typ : Nat) (f : Nat → Fld) (n : Nat) (s : Chip) =>
    if s0.flag (f n) && !old.flag (f n) then noteSource typ n s0.clk.frame none s else s
  let s := forN 4 (on 5 F.TIP_CH_CTL_EN) (forN 64 (on 4 F.XDC_ROUTE_EN) s0)
  let s1 := forN 128 (fun n s =>
    let m := s.measure n
    let typ := s.measType 0 n
    let rw := min 5 (s.fld (F.LOOP_M_CFG_RW n))
    if m.typ != typ || m.rw != rw || !nth false ok n || !nth false was n then
      if m = Meas.rest && typ = 0 then s
      else setMeasure n
        { m with rw := rw, typ := typ, blk := s.now / blockFtu rw, cur := Stat.empty, old := Stat.empty } s
    else s) s
  let s2 := forN 128 (fun n s => if s.runVal n = s.runNow n ok then s else updateRuns [(n, s.now)] s) s1
  let bad := fun (w : Nat) => (List.range 32).foldl (fun v b =>
    v ||| place 1 b (b2n (s2.measType 0 (32 * w + b) != 0 && !nth false ok (32 * w + b)))) 0
  let fresh := (List.range 4).any fun w => bad w &&& (2 ^ 32 - 1 - s2.fld (F.LOOP_MERR_M w)) != 0
  let s3 := forN 4 (fun w s => s.setFld (F.LOOP_MERR_M w) (bad w)) s2
  cond fresh (raise EV.LOOP_CFG_ERR) s3

end Sys2Proof.Machine
end

