-- ==== Sys2Proof/Machine/TrigConds.lean ====
section
/-! DEFINITION. The trigger conditions C0 to C31 (R100 to R109): what meets them, and the events they leave for the
combiner. -/

namespace Sys2Proof.Machine

/-- TYPE of a condition (R101); 0 for a code that switches it off. -/
def Chip.condType (s : Chip) (k n : Nat) : Nat :=
  let t := s.fldAt k (F.TRG_CCFG_TYPE n)
  if t ≤ 8 then t else 0

/-- Bits of TRG_CnCFG below its TYPE. -/
def Chip.condCfg (s : Chip) (k n hi lo : Nat) : Nat := bits (s.fldAt k (F.TRG_CCFG_N n)) hi lo

/-- Bits of TRG_CnP1. -/
def Chip.condP1 (s : Chip) (k n hi lo : Nat) : Nat := bits (s.fldAt k (F.TRG_CP1_VALUE n)) hi lo

/-- Bits of TRG_CnP2. -/
def Chip.condP2 (s : Chip) (k n hi lo : Nat) : Nat := bits (s.fldAt k (F.TRG_CP2_VALUE n)) hi lo

/-- OCC or EWIN (R102). -/
def Chip.condOnHits (s : Chip) (k n : Nat) : Bool := s.condType k n == 1 || s.condType k n == 2

/-- A condition that is on is usable (R109). -/
def Chip.condUsable (s : Chip) (k n : Nat) : Bool :=
  match s.condType k n with
  | 1 | 2 =>
    decide (s.condP1 k n 23 16 ≤ s.condP1 k n 31 24) && decide (s.condP1 k n 7 0 ≤ s.condP1 k n 15 8)
      && (s.condType k n == 1 || decide (s.fldAt k (F.TRG_CP3_EMIN n) < s.fldAt k (F.TRG_CP3_EMAX n)))
  | 3 => s.condOnHits k (s.condCfg k n 4 0) && s.condOnHits k (s.condCfg k n 9 5)
  | 4 => s.wavEnabled k (s.condCfg k n 1 0)
  | 5 => s.flagAt k (F.XDC_ROUTE_EN (s.condCfg k n 5 0))
  | 6 => s.flagAt k (F.TIP_TI_CFG_EN (s.condCfg k n 2 0))
  | 7 | 8 => true
  | _ => false

/-- A condition that can be met by data of configuration age k. -/
def Chip.condLive (s : Chip) (k n : Nat) : Bool := s.domainUp 2 && s.flagAt k F.TRG_CTL_EN && s.condUsable k n

/-- Condition n at work. -/
def Chip.condSt (s : Chip) (n : Nat) : CondSt := Table.get ⟨[], [], false, false, none⟩ s.trg.conds n

/-- Replaces the working state of condition n. -/
def setCond (n : Nat) (c : CondSt) (s : Chip) : Chip :=
  { s with trg := { s.trg with conds := Table.set s.trg.conds n c } }

/-- An event of condition n (R101, R112): counted, and left for the combiner. An event in a frame that a forward step passed
over belongs to the first frame emitted after the step and takes its start as its time, whenever it comes. -/
def postEvent (n t : Nat) (align : Bool) (s : Chip) : Chip :=
  let f := t / frameFtu
  let t' := match s.trg.passed.find? fun x => decide (x.1 < f) && decide (f < x.2) with
    | some x => x.2 * frameFtu
    | none => t
  let e : TrigEvent := { cond := n, t := t', frame := t' / frameFtu, align := align, used := [] }
  { s with trg := { s.trg with events := s.trg.events ++ [e] } }.bump (F.TRG_MET_COUNT n)

/-- A hit qualifies for an OCC or EWIN condition (R102). -/
def Chip.qualifies (s : Chip) (k n w : Nat) : Bool :=
  decide (s.condP1 k n 23 16 ≤ hitRow w) && decide (hitRow w ≤ s.condP1 k n 31 24)
    && decide (s.condP1 k n 7 0 ≤ hitCol w) && decide (hitCol w ≤ s.condP1 k n 15 8)
    && (!s.flagAt k (F.TRG_CCFG_NOTEST n) || !hitTest w)
    && (s.condType k n != 2
      || (decide (s.fldAt k (F.TRG_CP3_EMIN n) ≤ hitEnergy w) && decide (hitEnergy w < s.fldAt k (F.TRG_CP3_EMAX n))))

/-- LEN of an OCC or EWIN condition: 0 acts as 1, above 1,048,576 as 1,048,576. -/
def Chip.condLen (s : Chip) (k n : Nat) : Nat := max 1 (min 1048576 (s.condP2 k n 20 0))

/-- A qualifying hit of weight w at time t enters the window of an OCC or EWIN condition (R102). -/
def occHit (k n t w : Nat) (s : Chip) : Chip :=
  let c := s.condSt n
  let len := s.condLen k n
  let win := (c.win.dropWhile fun h => decide (h.1 + len ≤ t)) ++ [(t, w)]
  if max 1 (s.fldAt k (F.TRG_CCFG_N n)) ≤ (win.map Prod.snd).sum then
    postEvent n t false (setCond n { c with win := [] } s)
  else setCond n { c with win := win } s

/-- Marks the first element equal to y as used. -/
def markUsed (y : SeenHit) : List SeenHit → List SeenHit
  | [] => []
  | x :: xs => if x = y then { x with used := true } :: xs else x :: markUsed y xs

/-- A hit that qualifies for source A, source B or both is taken by a COINC condition (R103). -/
def coincHit (k n t : Nat) (a b : Bool) (s : Chip) : Chip :=
  let c := s.condSt n
  let w := max 1 (s.condP1 k n 17 0)
  let near := c.seen.filter fun y => decide (t < y.t + w)
  let can := near.filter fun y => !y.used && ((a && y.b) || (b && y.a)) && decide (y.t ≤ t)
  let best := can.foldl (fun (m : Option SeenHit) y =>
    match m with | none => some y | some x => if y.t < x.t then some y else some x) none
  match best with
  | some y => postEvent n y.t false (setCond n { c with seen := markUsed y near ++ [⟨t, a, b, true⟩] } s)
  | none => setCond n { c with seen := near ++ [⟨t, a, b, false⟩] } s

/-- A kept hit enters the merged stream (R100, R102, R103). `kq` is the k of its quadrant for its frame. -/
def triggerHit (frame w kq : Nat) (s : Chip) : Chip :=
  let k := s.ageOf frame
  let t := frame * frameFtu + hitToa w
  forN 32 (fun n s =>
    if !s.condLive k n then s
    else match s.condType k n with
    | 1 | 2 => if s.qualifies k n w then occHit k n t (2 ^ kq) s else s
    | 3 =>
      let a := s.qualifies k (s.condCfg k n 4 0) w
      let b := s.qualifies k (s.condCfg k n 9 5) w
      if a || b then coincHit k n t a b s else s
    | _ => s) s

/-- Order of the sort key (frame, ToA, parterre, PIX) (R78). -/
def keyLt (a b : Nat × Nat × Nat × Nat) : Bool :=
  decide (a.1 < b.1) || (a.1 == b.1 && (decide (a.2.1 < b.2.1) || (a.2.1 == b.2.1 &&
    (decide (a.2.2.1 < b.2.2.1) || (a.2.2.1 == b.2.2.1 && decide (a.2.2.2 < b.2.2.2))))))

/-- The key of a hit that waits to be merged. -/
def Merging.key (m : Merging) : Nat × Nat × Nat × Nat := (m.frame, hitToa m.word, m.prt, m.pix)

/-- Inserts a hit in ascending key order. -/
def insertMerging (m : Merging) : List Merging → List Merging
  | [] => [m]
  | c :: cs => if keyLt m.key c.key then m :: c :: cs else c :: insertMerging m cs

/-- A kept hit is on its way to the merged stream (R100). -/
def mergeHit (m : Merging) (s : Chip) : Chip := { s with trg := { s.trg with merge := insertMerging m s.trg.merge } }

/-- The hits up to the last one that `due` names enter the merged stream, in ascending key order (R100). -/
def mergeUpTo (due : Merging → Bool) (s : Chip) : Chip :=
  let later := (s.trg.merge.reverse.takeWhile fun m => !due m).length
  let n := s.trg.merge.length - later
  forAll (s.trg.merge.take n) (fun m s => triggerHit m.frame m.word m.kq s)
    { s with trg := { s.trg with merge := s.trg.merge.drop n } }

/-- CCLK after its acceptance by which a hit has entered the merged stream (R100). A hit waits that long for a lower key of another hedge;
one that comes later still follows it (DEDUCED, notes/assumptions/24). -/
def mergeCclk : Nat := 16

/-- The hits whose wait is over enter the merged stream. -/
def mergeDue (s : Chip) : Chip := mergeUpTo (fun m => decide (m.since + mergeCclk ≤ s.cclkNow)) s

/-- EDGE with 3 acting as 0 (R130): 0 rising, 1 falling, 2 either. -/
def edgeSel (e : Nat) : Nat := if e = 3 then 0 else e

/-- One kind of crossing (R104, R146): the armed state after sample v, and the time of a crossing. `rising` selects the
kind, `p` is the sample before v at time tp, and `per` the sample period. -/
def crossing (rising : Bool) (level hyst lo hi : Int) (armed : Bool) (before : Option (Int × Nat)) (v : Int) (per : Nat) :
    Bool × Option Nat :=
  let arms := if rising then decide (v < max lo (level - hyst)) else decide (min hi (level + hyst) < v)
  match before with
  | none => (armed || arms, none)
  | some (p, tp) =>
    let crosses := armed && (if rising then decide (p < level) && decide (level ≤ v) else decide (level < p) && decide (v ≤ level))
    if crosses then
      let q := if rising then 256 * (level - p) / (v - p) else 256 * (p - level) / (p - v)
      (arms, some (tp + q.toNat * per / 256))
    else (armed || arms, none)

/-- A full-rate sample reaches the WAVE conditions of its channel (R104, R146). -/
def triggerSample (ch frame : Nat) (before : Option (Int × Nat)) (v : Int) (per : Nat) (signed : Bool) (s : Chip) : Chip :=
  let k := s.ageOf frame
  let lo : Int := if signed then -32768 else 0
  let hi : Int := if signed then 32767 else 65535
  forN 32 (fun n s =>
    if s.condType k n = 4 && s.condLive k n && s.condCfg k n 1 0 = ch then
      let c := s.condSt n
      let raw := s.condP1 k n 15 0
      let level : Int := if signed then sext 16 raw else raw
      let hyst : Int := s.condP1 k n 31 16
      let e := edgeSel (s.condCfg k n 3 2)
      let r := if e = 1 then (false, none) else crossing true level hyst lo hi c.rise before v per
      let f := if e = 0 then (false, none) else crossing false level hyst lo hi c.fall before v per
      let s1 := setCond n { c with rise := r.1, fall := f.1 } s
      let post := fun (x : Option Nat) (s : Chip) => match x with | some t => postEvent n t false s | none => s
      post f.2 (post r.2 s1)
    else s) s

/-- Clears the armings of the WAVE conditions of a channel (R104). -/
def clearArmings (ch : Nat) (s : Chip) : Chip :=
  forN 32 (fun n s =>
    if s.condType 0 n = 4 && s.condCfg 0 n 1 0 = ch then setCond n { s.condSt n with rise := false, fall := false } s else s) s

/-- Whether a value lies in the zone of an XDC condition (R105), given the two comparisons value ≥ HIGH and value < LOW. -/
def inZone (mode : Nat) (geHigh ltLow geLow ltHigh : Bool) : Bool :=
  match mode with
  | 0 => geHigh
  | 1 => ltLow
  | 2 => ltLow || geHigh
  | _ => geLow && ltHigh

/-- A result of a sequencer entry reaches the XDC conditions (R105), at its event time. -/
def triggerResult (r : XdcRes) (lin : Nat) (linInv : Bool) (s : Chip) : Chip :=
  let frame := r.time / frameFtu
  let k := s.ageOf frame
  forN 32 (fun n s =>
    if s.condType k n = 5 && s.condLive k n && s.condCfg k n 5 0 = r.entry then
      let useLin := s.condCfg k n 10 10 = 1
      let fault := s.condCfg k n 11 11 = 1
      let hi := s.fldAt k (F.TRG_CP1_VALUE n)
      let lo := s.fldAt k (F.TRG_CP2_VALUE n)
      let mode := s.condCfg k n 9 8
      let z : Option Bool :=
        if r.invalid then none
        else if r.ovr || r.opened then (if fault then some true else none)
        else if useLin then
          (if linInv then none else some (inZone mode (f32Ge lin hi) (f32Lt lin lo) (f32Ge lin lo) (f32Lt lin hi)))
        else
          let v := sext 24 r.raw
          some (inZone mode (decide (sext 24 hi ≤ v)) (decide (v < sext 24 lo)) (decide (sext 24 lo ≤ v)) (decide (v < sext 24 hi)))
      match z with
      | none => s
      | some b =>
        let c := s.condSt n
        let s1 := setCond n { c with zone := some b } s
        if b && c.zone != some true then postEvent n (r.time + 131072) false s1 else s1
    else s) s

/-- A delivered edge meets the TIN conditions of its input (R106). -/
def triggerEdge (input : Nat) (rising : Bool) (t : Nat) (s : Chip) : Chip :=
  let k := s.ageOf (t / frameFtu)
  forN 32 (fun n s =>
    let e := edgeSel (s.condCfg k n 4 3)
    if s.condType k n = 6 && s.condLive k n && s.condCfg k n 2 0 = input && (e == 2 || (e == 0) == rising) then
      postEvent n t false s
    else s) s

/-- An accepted fire meets the FIRE conditions, or the CMD conditions, of its code (R107). -/
def triggerFire (cmd : Bool) (code t : Nat) (align : Bool) (s : Chip) : Chip :=
  let k := s.ageOf (t / frameFtu)
  forN 32 (fun n s =>
    if s.condType k n = (if cmd then 8 else 7) && s.condLive k n && (s.condCfg k n 4 4 = 1 || s.condCfg k n 3 0 = code) then
      postEvent n t align s
    else s) s

/-- The fields of a condition that its TYPE lists (R130): only these act. -/
def Chip.condFields (s : Chip) (n : Nat) : List Nat :=
  match s.condType 0 n with
  | 1 => [s.fld (F.TRG_CCFG_NOTEST n), s.fld (F.TRG_CCFG_N n), s.fld (F.TRG_CP1_VALUE n), s.condP2 0 n 20 0]
  | 2 => [s.fld (F.TRG_CCFG_NOTEST n), s.fld (F.TRG_CCFG_N n), s.fld (F.TRG_CP1_VALUE n), s.condP2 0 n 20 0,
      s.fld (F.TRG_CP3_EMAX n), s.fld (F.TRG_CP3_EMIN n)]
  | 3 => [s.condCfg 0 n 9 0, s.condP1 0 n 17 0]
  | 4 => [s.condCfg 0 n 3 0, s.fld (F.TRG_CP1_VALUE n)]
  | 5 => [s.condCfg 0 n 11 8, s.condCfg 0 n 5 0, s.fld (F.TRG_CP1_VALUE n), s.fld (F.TRG_CP2_VALUE n)]
  | 6 | 7 | 8 => [s.condCfg 0 n 4 0]
  | _ => []

/-- A commit took effect (R105, R109): conditions whose registers changed start afresh, and new unusable conditions are
announced. -/
def triggersCommit (old s : Chip) : Chip :=
  let s1 := forN 32 (fun n s =>
    if old.condType 0 n = s.condType 0 n && old.condFields n = s.condFields n then s
    else { s with trg := { s.trg with conds := s.trg.conds.filter fun e => e.1 != n } }) s
  let bad := (List.range 32).foldl (fun v n => v ||| place 1 n (b2n (s1.condType 0 n != 0 && !s1.condUsable 0 n))) 0
  let fresh := bad &&& (2 ^ 32 - 1 - s1.fld F.TRG_CFG_ERR_COND) != 0
  cond fresh (raise EV.TRG_CFG_ERR) (s1.setFld F.TRG_CFG_ERR_COND bad)

end Sys2Proof.Machine
end

