-- ==== Sys2Proof/Machine/HedgeOps.lean ====
section
/-! DEFINITION. The hedges (chapter 03): from a raw record to a corrected hit word, and the reorder buffers. -/

namespace Sys2Proof.Machine

/-- A byte of the calibration table memory, active copy (R229) for data of age k, whether its word is poisoned, and the chip after the read. -/
def calByte (k a : Nat) (s : Chip) : Nat × Bool × Chip :=
  let (d, bad, s1) := memReadAt k 4 (a / 8) s
  (bits d (8 * (a % 8) + 7) (8 * (a % 8)), bad, s1)

/-- The fine time of a converter whose tables start at a byte (R212): min(255, C1 + C2); a poisoned word gives the nominal
tables and an uncertain hit (R390). -/
def fineTime (k base f1 f2 : Nat) (s : Chip) : Nat × Bool × Chip :=
  let (c1, b1, s1) := calByte k (base + f1) s
  let (c2, b2, s2) := calByte k (base + 16 + f2) s1
  if b1 || b2 then (16 * f1 + f2, true, s2) else (min 255 (c1 + c2), false, s2)

/-- PTO of a pixel in FTU (R229); 0 where its word is poisoned. -/
def pixelOffset (k row col : Nat) (s : Chip) : Int × Bool × Chip :=
  let (v, bad, s1) := calByte k (0x20000 + pixKey row col) s
  if bad then (0, true, s1) else (sext 8 v, false, s1)

/-- Knot V[i] of the timewalk table (R99). -/
def Chip.knotV (s : Chip) (k i : Nat) : Int :=
  sext 16 (s.fldAt k (if i % 2 = 0 then F.HIT_TW_VEVEN (i / 2) else F.HIT_TW_VODD (i / 2)))

/-- Knot E[i] of the energy table (R99). -/
def Chip.knotE (s : Chip) (k i : Nat) : Int :=
  ((s.fldAt k (if i % 2 = 0 then F.HIT_EN_EEVEN (i / 2) else F.HIT_EN_EODD (i / 2)) : Nat) : Int)

/-- TW(t) (R75); a SAT hit takes V[64]. -/
def Chip.timewalk (s : Chip) (k t : Nat) (sat : Bool) : Int :=
  if sat then s.knotV k 64
  else s.knotV k (t / 64) + (s.knotV k (t / 64 + 1) - s.knotV k (t / 64)) * ((t % 64 : Nat) : Int) / 64

/-- EN(t) (R76). -/
def Chip.preGain (s : Chip) (k t : Nat) : Int :=
  s.knotE k (t / 64) + (s.knotE k (t / 64 + 1) - s.knotE k (t / 64)) * ((t % 64 : Nat) : Int) / 64

/-- The energy code of a hit with neither SHORT nor SAT (R76). -/
def Chip.energyCode (s : Chip) (k p t : Nat) : Nat :=
  (max 0 (min 0xFFE (s.preGain k t * (s.fldAt k (F.PRT_GAIN_G p) : Int) / 4096))).toNat

/-- The hit word (R77). -/
def hitWord (row col toa tot : Nat) (short sat tunc test : Bool) (energy : Nat) : W64 :=
  w64 (place 8 56 row ||| place 8 48 col ||| place 20 28 toa ||| place 12 16 tot ||| place 1 15 (b2n short)
    ||| place 1 14 (b2n sat) ||| place 1 13 (b2n tunc) ||| place 1 12 (b2n test) ||| place 12 0 energy)

/-- What the hedge makes of a record (R74): the frame, the corrected offset within it, the hit word, and the corrected
offset plus PTO from the start of frame g, which calibration uses. -/
structure Corrected where
  frame : Nat
  toa   : Nat
  word  : W64
  row   : Nat
  col   : Nat
  short : Bool
  sat   : Bool
  raw   : Int
  energy : Nat
deriving DecidableEq, Repr

/-- R62, R74 to R77: the record converted in exact integer arithmetic, with the tables and settings of age k (R26). -/
def correctWith (k : Nat) (x : RawIn) (s : Chip) : Corrected × Chip :=
  let r := x.raw.toNat
  let p := x.prt
  let pix := bits r 55 50
  let tdc := bits r 49 49
  let row := rowOf p pix
  let col := colOf p pix
  let order := r.testBit 7
  let sat := r.testBit 6
  let startC := bits r 48 33
  let (b1, bad1, s1) := fineTime k (128 * p + 64 * tdc) (bits r 32 29) (bits r 28 25) s
  let (b2, bad2, s2) := if order || sat then (0, false, s1)
    else fineTime k (128 * p + 64 * tdc + 32) (bits r 15 12) (bits r 11 8) s1
  let (pto, bad3, s3) := pixelOffset k row col s2
  let tStart : Int := ((256 * startC + b1 : Nat) : Int)
  let tStop : Int := ((256 * (startC + bits r 24 16) + b2 : Nat) : Int)
  let tot : Int := tStop - tStart
  let short := order || (!sat && decide (tot < 1))
  let t : Nat := if sat && !order then 0xFFF else if short then 0 else min 0xFFE (tot / 32).toNat
  let d := sext 24 (unsext 24 (tStart - 256 * (x.ltc : Int)))
  let u : Int := (x.resid : Int) + d
  let off := u - s.timewalk k t (sat && !order)
  let tc := off - pto
  let frame := ((x.frame : Int) + tc / (frameFtu : Int)).toNat
  let toa := (tc % (frameFtu : Int)).toNat
  let energy := if order || short then 0 else if sat then 0xFFF else s.energyCode k p t
  let tunc := r.testBit 3 || bad1 || bad2 || bad3 || s.tunc frame
  let test := r.testBit 5 || r.testBit 4
  ({ frame := frame, toa := toa, word := hitWord row col toa t short (sat && !order) tunc test energy, row := row, col := col,
     short := short, sat := sat && !order, raw := off, energy := energy }, s3)

/-- The data-frame rule for a record (R26): a hit belongs to the frame that its own correction gives, so the settings of an age are the
right ones where the hit they make is of a frame of that age; the newest such ones apply. Where no age fits its own hit, those of the hit that
the settings in force make apply (DEDUCED, notes/assumptions/21). -/
def correctRecord (x : RawIn) (s : Chip) : Corrected × Chip :=
  match (List.range 3).find? fun k => s.ageOf (correctWith k x s).1.frame == k with
  | some k => correctWith k x s
  | none => correctWith (s.ageOf (correctWith 0 x s).1.frame) x s

/-- The key of a buffered hit. -/
def Buffered.key (b : Buffered) : Nat × Nat × Nat × Nat := (b.frame, b.toa, b.prt, b.pix)

/-- Inserts a hit in ascending key order, after equal keys. -/
def insertHit (b : Buffered) : List Buffered → List Buffered
  | [] => [b]
  | c :: cs => if keyLt b.key c.key then b :: c :: cs else c :: insertHit b cs

/-- The lowest word of its hedge's part of memory 9 that holds no buffered hit. -/
def freeSlot (q : List Buffered) : Nat := ((List.range 256).find? fun i => !(q.any fun b => b.slot == i)).getD 0

/-- The word of memory 9 of a slot of hedge h (R379). -/
def slotWord (h slot : Nat) : Nat := 256 * h + slot

end Sys2Proof.Machine
end

