-- ==== Sys2Proof/Machine/CalData.lean ====
section
/-! DEFINITION. What the calibration engine takes from the hit path and the time inputs (R206 to R217). -/

namespace Sys2Proof.Machine

/-- A procedure that has not run. -/
def CalProc.rest : CalProc := ⟨false, false, 0, 0, false, false, none⟩

/-- Procedure i. -/
def Chip.calProc (s : Chip) (i : Nat) : CalProc := Table.get CalProc.rest s.cal.procs i

/-- Replaces procedure i. -/
def setProc (i : Nat) (x : CalProc) (s : Chip) : Chip := { s with cal := { s.cal with procs := Table.set s.cal.procs i x } }

/-- A procedure is running. -/
def Chip.calRuns (s : Chip) (i : Nat) : Bool := (s.calProc i).run && s.flag F.CAL_CTL_EN && s.domainUp 6

/-- The procedure that acts in this frame when it is quiet: one at a time, in ascending index (R207). -/
def Chip.quietProc (s : Chip) : Option Nat :=
  if !s.flag F.CAL_STAT_QUIET then none
  else if s.calRuns 0 then some 0
  else if s.calRuns 1 && (s.calProc 1).fallback then some 1
  else if s.calRuns 4 then some 4
  else none

/-- The probe of a parterre. -/
def Chip.probe (s : Chip) (p : Nat) : Probe := Table.get ⟨64, -1, 64, 0, 0⟩ s.cal.probes p

/-- The test pulses of a parterre. -/
def Chip.pulsePrt (s : Chip) (p : Nat) : PulsePrt := Table.get ⟨64, 0, 0, none, none, 0, 0, 0⟩ s.cal.pulses p

/-- The pulse of the fall-back of TDCCD in a parterre. -/
def Chip.tdcPulse (s : Chip) (p : Nat) : TdcPulse := Table.get ⟨64, 64, 0⟩ s.cal.inj p

/-- A pixel that the engine may probe or inject into (R208): unmasked, of an enabled parterre. -/
def Chip.calMay (s : Chip) (p pix : Nat) : Bool :=
  s.flag (F.PRT_CTL_EN p) && pix != 64 && !(s.pixLatch (pixKey (rowOf p pix) (colOf p pix))).testBit 6

/-- The pixel of a parterre that the engine probes or injects into in the frame after tick number `n` (R208); 64: none. -/
def Chip.heldPix (s : Chip) (n p : Nat) : Nat :=
  let x := match s.quietProc with
    | some 0 => (s.probe p).pix
    | some 1 => if (s.tdcPulse p).at_ = n + 1 then (s.tdcPulse p).pix else 64
    | some 4 => (s.pulsePrt p).pix
    | _ => 64
  if s.calMay p x then x else 64

/-- A hit of the frame before the current one. -/
def Chip.isOld (s : Chip) (frame : Nat) : Bool := frame + 1 == s.clk.frame

/-- A pixel that the engine probed or injected into in a frame (R208). -/
def Chip.calHolds (s : Chip) (frame p pix : Nat) : Bool :=
  (if s.isOld frame then Table.get 64 s.cal.holds p else s.heldPix s.clk.ticks p) == pix

/-- The procedure that acted in a quiet frame, the current one or the one before it (R207). -/
def Chip.calActor (s : Chip) (frame : Nat) : Option Nat := if s.isOld frame then s.cal.holder else s.quietProc

/-- The trial trim of the pixel that THEQ probes (R209). -/
def Probe.trial (q : Probe) : Int := (q.lo + q.hi) / 2

/-- The trim code on the analogue latch of a pixel (R209): the trial code during a dwell, else that of its PIX register. -/
def Chip.analogTrim (s : Chip) (p pix : Nat) : Int :=
  if s.quietProc = some 0 && s.heldPix s.clk.ticks p == pix then (s.probe p).trial
  else ((s.pixLatch (pixKey (rowOf p pix) (colOf p pix)) % 64 : Nat) : Int)

/-- The effective threshold of a pixel in electrons above baseline (R46), lowered for the pixel that THEQ probes (R209). -/
def Chip.threshold (s : Chip) (p pix : Nat) : Int :=
  let probed := s.quietProc = some 0 && s.heldPix s.clk.ticks p == pix
  25 * (s.fld F.HIT_FE_THR_THR : Int) + 6 * (s.analogTrim p pix - 32) + Config.pixelOffset (pixKey (rowOf p pix) (colOf p pix))
    - (if probed then 25 * (s.fld F.CAL_THEQ_CFG_PROBE : Int) else 0)

/-- The charge of an injection of PULSE (R217). -/
def Chip.calCharge (s : Chip) : PulseCharge :=
  if s.flag F.CAL_PULSE_CFG_SRC then .tpin else .steps (s.fld F.CAL_PULSE_CFG_AMP)

/-- The header of a frame shows none of SETTLE, TUNC, TSTEP, FOLLY and TP (R206). -/
def Chip.calFrameOk (s : Chip) (a : FrameAcc) : Bool := a.emit && !(a.settle || s.tunc a.id || a.tstep || a.folly || a.tp)

/-- Data of a frame wait for its header (R206; DEDUCED, notes/assumptions/58). -/
def calWait (frame : Nat) (shot : Bool) (x : CalItem) (s : Chip) : Chip :=
  { s with cal := { s.cal with waiting := s.cal.waiting ++ [⟨frame, shot, x⟩] } }

/-- An empty code count. -/
def ConvCnt.empty : ConvCnt := ⟨0, List.replicate 16 0, List.replicate 16 0⟩

/-- One sample of a converter that still lacks some (R211). -/
def countCode (c m f1 f2 : Nat) (s : Chip) : Chip :=
  let x := Table.get ConvCnt.empty s.cal.conv c
  if m ≤ x.n then s
  else
    let y : ConvCnt := ⟨x.n + 1, x.n1.set f1 (nth 0 x.n1 f1 + 1), x.n2.set f2 (nth 0 x.n2 f2 + 1)⟩
    { s with cal := { s.cal with conv := Table.set s.cal.conv c y } }

/-- Samples per converter of TDCCD and of TICD (R227): below 4,096 acts as 4,096. -/
def Chip.tdcM (s : Chip) : Nat := max 4096 (s.fld F.CAL_TDC_CFG_HITS)

/-- Samples per converter of TICD. -/
def Chip.ticdM (s : Chip) : Nat := max 4096 (s.fld F.CAL_TICD_CFG_HITS)

/-- A record at the hedge input, of a frame, reaches TDCCD (R206, R211). After the end of MAX.FRAMES data are of quiet frames only. -/
def calRecord (x : RawIn) (frame : Nat) (taken : Bool) (s : Chip) : Chip :=
  let r := x.raw.toNat
  if !s.calRuns 1 || r.testBit 5 || r.testBit 4 || r.testBit 3 || !s.flag (F.PRT_CTL_EN x.prt)
      || ((s.calProc 1).fallback && s.calActor frame != some 1) then s
  else
    let c := 4 * x.prt + 2 * bits r 49 49
    let s1 := calWait frame taken (.code c (bits r 32 29) (bits r 28 25)) s
    if r.testBit 7 || r.testBit 6 then s1 else calWait frame taken (.code (c + 1) (bits r 15 12) (bits r 11 8)) s1

/-- An edge of a time input, or of the oscillator for a disabled one, reaches TICD (R206, R213). -/
def calEdge (conv f1 f2 frame : Nat) (s : Chip) : Chip := if s.calRuns 6 then calWait frame false (.code conv f1 f2) s else s

/-- A hit taken by the engine (R208): counted, and used by the procedure that holds its pixel (R209, R217). -/
def calTake (x : RawIn) (c : Corrected) (s : Chip) : Chip :=
  let p := x.prt
  let pix := bits x.raw.toNat 55 50
  let s1 := s.bump F.CAL_TAKEN_CNT_COUNT
  match s.calActor c.frame with
  | some 0 =>
    let q := s1.probe p
    if q.pix != pix || (s.isOld c.frame && q.frames == 0) then s1
    else { s1 with cal := { s1.cal with probes := Table.set s1.cal.probes p { q with count := q.count + 1 } } }
  | some 4 =>
    let q := s1.pulsePrt p
    match q.shot with
    | none => s1
    | some (px, t0) =>
      if px != pix || c.short || c.sat then s1
      else
        let key := pixKey c.row c.col
        let o := Table.get (0, 0) s1.cal.offs key
        let v : Int := ((x.frame * frameFtu : Nat) : Int) + c.raw - (t0 : Int)
        { s1 with cal := { s1.cal with
            pulses := Table.set s1.cal.pulses p
              { q with shot := none, got := some (key, v, c.energy), det := q.det + 1, esum := q.esum + c.energy }
            offs := Table.set s1.cal.offs key (o.1 + v, o.2 + 1) } }
  | _ => s1

/-- ToT code of a hit word. -/
def hitTot (w : Nat) : Nat := bits w 27 16

/-- Edge-adjacent pixels (R214). -/
def adjacent (a b : Nat) : Bool :=
  decide (((hitRow a : Int) - (hitRow b : Int)).natAbs + ((hitCol a : Int) - (hitCol b : Int)).natAbs = 1)

/-- The distance of two times. -/
def timeDist (a b : Nat) : Nat := if a ≤ b then b - a else a - b

/-- A ToT code inside the reference band (R214). -/
def Chip.inRef (s : Chip) (t : Nat) : Bool :=
  decide (s.fld F.CAL_TW_REF_REF_LO ≤ t) && decide (t < s.fld F.CAL_TW_REF_REF_HI)

/-- A pair of adjacent hits adds D to its knot (R214). -/
def twPair (ta a tb b : Nat) (s : Chip) : Chip :=
  if hitShort a || hitSat a || hitShort b || hitSat b || s.inRef (hitTot a) == s.inRef (hitTot b) then s
  else
    let (till, o, tr, r) := if s.inRef (hitTot a) then (tb, b, ta, a) else (ta, a, tb, b)
    -- u − PTO of a hit is its corrected time plus its own timewalk
    let d : Int := ((till : Int) + s.timewalk 0 (hitTot o) false) - ((tr : Int) + s.timewalk 0 (hitTot r) false)
      + s.timewalk 0 (hitTot r) false
    let j := (hitTot o + 32) / 64
    let x := Table.get (0, 0) s.cal.pairs j
    { s with cal := { s.cal with pairs := Table.set s.cal.pairs j (x.1 + d, x.2 + 1) } }

/-- A hit that no neighbour can pair with any more reaches ECAL (R216). -/
def ecalHit (w : Nat) (shared : Bool) (s : Chip) : Chip :=
  let e := s.preGain 0 (hitTot w)
  let p := parterreOf (hitRow w) (hitCol w)
  if !s.calRuns 3 || hitShort w || hitSat w || (shared && s.flag F.CAL_ECAL_LINE_ISOLATED)
      || !(decide ((s.fld F.CAL_ECAL_WIN_WLO : Int) ≤ e) && decide (e < (s.fld F.CAL_ECAL_WIN_WHI : Int))) then s
  else
    let x := Table.get (0, 0) s.cal.ecal p
    if max 1 (s.fld F.CAL_ECAL_HITS_HITS) ≤ x.2 then s
    else { s with cal := { s.cal with ecal := Table.set s.cal.ecal p (x.1 + e.toNat, x.2 + 1) } }

/-- An accepted hit counts toward the next quiet frame, and waits for its frame where TWFIT or ECAL runs (R206, R207). A hit with TUNC is
UNC, or of a frame with TUNC. -/
def calAccepted (frame w : Nat) (s : Chip) : Chip :=
  let s0 := { s with cal := { s.cal with accepted := s.cal.accepted + 1 } }
  if (!s.calRuns 2 && !s.calRuns 3) || hitTest w || w.testBit 13 || !s.flag (F.PRT_CTL_EN (parterreOf (hitRow w) (hitCol w))) then s0
  else calWait frame false (.hit (w64 w)) s0

/-- A hit at time t for TWFIT (R214). -/
def twHit (t w : Nat) (s : Chip) : Chip :=
  let near := s.cal.mates.filter fun q => decide (timeDist q.1 t ≤ s.fld F.CAL_TW_CFG_PAIRWIN)
  let s1 := forAll (near.filter fun q => adjacent q.2.toNat w) (fun q s => twPair q.1 q.2.toNat t w s) s
  { s1 with cal := { s1.cal with mates := near ++ [(t, w64 w)] } }

/-- A hit at time t for ECAL (R216): those that no neighbour can pair with any more are judged. -/
def ecalSee (t w : Nat) (s : Chip) : Chip :=
  let win := s.fld F.CAL_TW_CFG_PAIRWIN
  let gone := s.cal.recent.filter fun q => decide (win < timeDist q.1 t)
  let near := s.cal.recent.filter fun q => decide (timeDist q.1 t ≤ win)
  let s1 := forAll gone (fun q s => ecalHit q.2.1.toNat q.2.2 s) s
  let kept := (near.map fun q => if adjacent q.2.1.toNat w then (q.1, q.2.1, true) else q)
    ++ [(t, w64 w, near.any fun q => adjacent q.2.1.toNat w)]
  { s1 with cal := { s1.cal with recent := kept } }

/-- One hit of a closed frame. -/
def calHit (frame w : Nat) (s : Chip) : Chip :=
  let t := frame * frameFtu + hitToa w
  let s1 := if s.calRuns 2 then twHit t w s else s
  if s.calRuns 3 then ecalSee t w s1 else s1

/-- Puts a hit word in ascending order of time of arrival. -/
def insertToa (w : W64) : List W64 → List W64
  | [] => [w]
  | c :: cs => if hitToa w.toNat < hitToa c.toNat then w :: c :: cs else c :: insertToa w cs

/-- A frame closes for the runs (R206): its codes, then its hits in the order of their times, where its header allows. -/
def calCloses (a : FrameAcc) (s : Chip) : Chip :=
  let mine := s.cal.waiting.filter fun (d : CalDatum) => d.frame == a.id
  let s0 := { s with cal := { s.cal with waiting := s.cal.waiting.filter fun (d : CalDatum) => decide (a.id < d.frame) } }
  if !s.calFrameOk a then s0
  else
    let s1 := forAll mine (fun (d : CalDatum) s => match d.item with
      | .code c f1 f2 =>
        if s.calRuns (if c < 4096 then 1 else 6) then countCode c (if c < 4096 then s.tdcM else s.ticdM) f1 f2 s else s
      | .hit _ => s) s0
    let hits := mine.foldl (fun (acc : List W64) (d : CalDatum) => match d.item with
      | .hit w => insertToa w acc
      | .code _ _ _ => acc) []
    forAll hits (fun w s => calHit a.id w.toNat s) s1

end Sys2Proof.Machine
end

