-- ==== Sys2Proof/Machine/FrameBuild.lean ====
section
/-! DEFINITION. The reorder buffers, the frame builder and the rate reducer (chapter 03). -/

namespace Sys2Proof.Machine

/-! ### Acceptance (R82 to R85, R88) -/

/-- Sets the open frame that holds an id. -/
def setAcc (a : FrameAcc) (s : Chip) : Chip :=
  match s.fb.cur with
  | some c => if c.id = a.id then { s with fb := { s.fb with cur := some a } } else { s with fb := { s.fb with prev := some a } }
  | none => { s with fb := { s.fb with prev := some a } }

/-- The open frame of an identity (R82). -/
def Chip.openFrame (s : Chip) (id : Nat) : Option FrameAcc :=
  match s.fb.cur with
  | some a => if a.id = id then some a else s.fb.prev.filter fun b => b.id == id
  | none => s.fb.prev.filter fun b => b.id == id

/-- A kept hit reaches the measures, and takes its way to the merged stream of the trigger engine (R84, R100). -/
def deliverHit (b : Buffered) (frame w kq : Nat) (s : Chip) : Chip :=
  mergeHit ⟨frame, b.prt, b.pix, w, kq, s.cclkNow⟩ (measureHit frame w kq s)

/-- An accepted hit passes the rate reducer (R88) and the frame cap (R85). -/
def acceptHit (h : Nat) (b : Buffered) (a : FrameAcc) (w : W64) (s : Chip) : Chip :=
  let x := w.toNat
  let p := parterreOf (hitRow x) (hitCol x)
  let kq := nth 0 a.ks (quadrantOf (hitRow x) (hitCol x))
  let n := Table.get 0 s.fb.np p
  let s0 := calAccepted a.id x (s.bump F.HIT_ACCEPT_CNT_COUNT)
  let s1 := { s0 with fb := { s0.fb with np := Table.set s0.fb.np p ((n + 1) % 128) } }
  if n % 2 ^ kq != 0 then s1.bump F.HIT_PRESCALE_CNT_COUNT
  else if 32768 ≤ a.hits.length then
    raise EV.HIT_OVF ((setAcc { a with ovf := true } s1).bump F.HIT_OVF_CNT_COUNT)
  else deliverHit b a.id x kq (setAcc { a with hits := a.hits ++ [(h, w)] } s1)

/-- A released hit at the frame builder (R82): accepted, late or future. A hit of an open frame that is never emitted, one from before
ready, is dropped (R417). -/
def releaseToFrame (h : Nat) (b : Buffered) (w : W64) (s : Chip) : Chip :=
  match s.openFrame b.frame with
  | some a => if a.emit then acceptHit h b a w s else s
  | none =>
    if s.clk.frame < b.frame then raise EV.HIT_FUTURE (s.bump F.HIT_FUTURE_CNT_COUNT)
    else
      let s1 := match s.fb.cur with
        | some a => setAcc { a with late := satTo 8 (a.late + 1) } s
        | none => s
      raise EV.HIT_LATE (s1.bump F.HIT_LATE_CNT_COUNT)

/-- A hit that is dropped for step hold (R19): it is released in step hold, or belongs to an open frame that began in it. -/
def Chip.heldBack (s : Chip) (frame : Nat) : Bool :=
  s.flag F.TIM_STAT_STEP_HOLD || (match s.openFrame frame with | some a => a.stepHold && !a.emit | none => false)

/-- A release in key order (R80). In step hold a hit is dropped and counted as such, whatever its key (R19). -/
def judgeRelease (h : Nat) (b : Buffered) (w : W64) (s : Chip) : Chip :=
  let x := s.hedge h
  let low := match x.last with | some k => keyLt b.key k | none => false
  if s.heldBack b.frame then s.bump F.TIM_STEP_DROP_COUNT
  else if low then
    let s1 := (s.bump F.HIT_ODROP_CNT_COUNT).bump (F.HIT_HEDGE_STAT_ODROP h)
    let s2 := match s1.openFrame b.frame with
      | some a => setAcc { a with odrop := true } s1
      | none => s1
    raise EV.HIT_ODROP s2
  else releaseToFrame h b w (setHedge h { x with last := some b.key } s)

/-- A buffered hit leaves its buffer: its word is read, and a poisoned one drops the hit (R390). -/
def releaseBuffered (h : Nat) (b : Buffered) (s : Chip) : Chip :=
  let x := s.hedge h
  let s0 := setHedge h { x with buf := x.buf.filter fun c => c.slot != b.slot } s
  let (d, bad, s1) := memRead 9 (slotWord h b.slot) s0
  if bad then s1.bump F.MIN_HIT_POISON_COUNT else judgeRelease h b (w64 d) s1

/-- A corrected hit enters the reorder buffer of its hedge, or forces a release (R78, R79). -/
def enterBuffer (h : Nat) (b : Buffered) (s : Chip) : Chip :=
  let put := fun (b : Buffered) (s : Chip) =>
    let x := s.hedge h
    let c := { b with slot := freeSlot x.buf }
    let s1 := memWrite 9 (slotWord h c.slot) 255 c.word.toNat (setHedge h { x with buf := insertHit c x.buf } s)
    s1.highWater (F.HIT_HEDGE_STAT_OCC_HWM h) (x.buf.length + 1)
  let x := s.hedge h
  if x.buf.length < 256 then put b s
  else
    let forced := fun (s : Chip) => raise EV.HIT_FORCED_RELEASE (s.bump F.HIT_FORCED_REL_COUNT)
    match x.buf with
    | low :: _ =>
      if keyLt b.key low.key then judgeRelease h b b.word (forced s)
      else put b (releaseBuffered h low (forced s))
    | [] => put b s

/-- HEDGE_CORRECTION (R73 to R79, R208): the oldest received record becomes a hit of the reorder buffer, unless the
calibration engine takes it. -/
def hedgeCorrection (h : Nat) (s : Chip) : Chip :=
  if !s.domainUp 1 then s
  else match (s.hedge h).inq with
  | [] => s
  | x :: rest =>
    let s0 := setHedge h { s.hedge h with inq := rest } s
    let folly := x.raw.toNat.testBit 4
    let (c, s1) := correctRecord x s0
    let taken := !folly && s.calHolds c.frame x.prt (bits x.raw.toNat 55 50)
    let s2 := calRecord x c.frame taken s1
    if taken then calTake x c s2
    else enterBuffer h
      { frame := c.frame, toa := c.toa, prt := x.prt, pix := bits x.raw.toNat 55 50, word := c.word, slot := 0 } s2

/-- WINDOW in FTU (R78): below 128 TCLK acts as 128, above 2,048 as 2,048. -/
def Chip.reorderFtu (s : Chip) (k : Nat) : Nat := 256 * max 128 (min 2048 (s.fldAt k F.HIT_REORDER_WINDOW))

/-- REORDER_RELEASE (R78): the lowest-key hit of a hedge whose window has expired. -/
def reorderRelease (h : Nat) (s : Chip) : Chip :=
  match (s.hedge h).buf with
  | b :: _ =>
    if s.domainUp 1 && decide (b.frame * frameFtu + b.toa + s.reorderFtu (s.ageOf b.frame) ≤ s.now) then releaseBuffered h b s
    else s
  | [] => s

/-! ### Closing a frame (R83, R85 to R87, R93) -/

/-- Header word 0 (R87). -/
def Chip.headerWord0 (s : Chip) (a : FrameAcc) : Nat :=
  frameWord a.id ||| place 5 8 s.addr ||| place 8 0 a.epoch

/-- Header word 1 (R87) with a number of hit words and the OVF flag of this copy. -/
def Chip.headerWord1 (s : Chip) (a : FrameAcc) (n : Nat) (ovf : Bool) : Nat :=
  place 16 48 a.cdig ||| place 16 32 n ||| place 8 24 a.late ||| place 3 21 (nth 0 a.ks 3) ||| place 3 18 (nth 0 a.ks 2)
    ||| place 3 15 (nth 0 a.ks 1) ||| place 3 12 (nth 0 a.ks 0) ||| place 1 11 (b2n a.tstep) ||| place 1 10 (b2n (s.tunc a.id))
    ||| place 1 9 (b2n a.settle) ||| place 1 8 (b2n a.tp) ||| place 1 7 (b2n a.folly) ||| place 1 6 (b2n ovf)
    ||| place 1 5 (b2n a.odrop) ||| place 1 4 (b2n a.newcfg) ||| place 2 2 s.quality

/-- A frame as written (R83): the two header words, then the hits of hedge 0 in release order, then those of hedge 1, and so
on, as many hedges in full as the number of words allows. -/
def Chip.frameWords (s : Chip) (a : FrameAcc) (room : Nat) : List W64 × Bool :=
  let hedges := (List.range 32).map fun h => (a.hits.filter fun x => x.1 == h).map Prod.snd
  let (hits, cut) := hedges.foldl (fun (acc : List W64 × Bool) q =>
    if acc.2 || room < acc.1.length + q.length + 2 then (acc.1, acc.2 || !q.isEmpty) else (acc.1 ++ q, acc.2)) ([], false)
  ([w64 (s.headerWord0 a), w64 (s.headerWord1 a hits.length (a.ovf || cut))] ++ hits, cut)

/-- The hit history at a close (R93). -/
def writeHistory (k : Nat) (a : FrameAcc) (s : Chip) : Chip :=
  if s.flagAt k F.HIT_FB_CTL_HHIST_EN then
    let ws := (s.frameWords a (a.hits.length + 2)).1
    putHistory false 1 ws a.id (a.id * frameFtu) ((a.id + 1) * frameFtu) (addBacklog 0 (8 * ws.length) s)
  else s

/-- Copies the frame to FRAME (R83, R85): the object's number and words, where anything was written. What the arbiter cannot write before
the stage's deadline counts as lack of space (R21, R95; DESIGN CHOICE, notes/assumptions/52). -/
def writeFrame (a : FrameAcc) (readers : List Reader) (s : Chip) : Option (Nat × List W64) × Chip :=
  let room := min (s.regionFree 0) (s.bandwidthLeft 0 / 8)
  if room < 2 then
    let s1 := (s.bump F.HIT_DISCARD_CNT_COUNT).bumpBy F.HIT_OVF_CNT_COUNT a.hits.length
    (none, raise EV.HIT_OVF s1)
  else
    let (ws, cut) := s.frameWords a room
    let s1 := if cut then raise EV.HIT_OVF (s.bumpBy F.HIT_OVF_CNT_COUNT (a.hits.length + 2 - ws.length)) else s
    match putQueue 0 ws a.id (a.id * frameFtu) ((a.id + 1) * frameFtu) readers (addBacklog 0 (8 * ws.length) s1) with
    | some (id, s2) => (some (id, ws), s2)
    | none => (none, s1)

/-! ### The rate reducer (R89, R90) -/

/-- HIT_RR_CTL.KMAX of quadrant q (R99). -/
def kMaxF (q : Nat) : Fld := ⟨0x30110, 8 * q + 4, 3, true⟩

/-- HIT_RR_CTL.KMIN of quadrant q (R99). -/
def kMinF (q : Nat) : Fld := ⟨0x30110, 8 * q, 3, true⟩

/-- KMIN of a quadrant. -/
def Chip.kMin (s : Chip) (q : Nat) : Nat := s.fld (kMinF q)

/-- KMAX of a quadrant; below KMIN acts as KMIN (R90). -/
def Chip.kMax (s : Chip) (q : Nat) : Nat := max (s.fld (kMaxF q)) (s.kMin q)

/-- k of a quadrant for the current frame. -/
def Chip.kNow (s : Chip) (q : Nat) : Nat := bits (s.fld F.HIT_RR_STAT_K) (3 * q + 2) (3 * q)

/-- One quadrant at the tick that starts a frame (R90): k of the frame, and the frames without pressure in a row. A commit of KMIN or
KMAX that moves k by several codes is one step of HIT_RR_STEPS (DESIGN CHOICE, notes/assumptions/53). -/
def tickQuadrant (q : Nat) (s : Chip) : Chip :=
  let k := s.kNow q
  let press := nth false s.fb.press q
  let quiet := if press then 0 else nth 0 s.fb.quiet q + 1
  let step := if press then min (k + 1) (max k (s.kMax q))
    else if 64 ≤ quiet && s.kMin q < k then k - 1 else k
  let k' := max (s.kMin q) (min (s.kMax q) step)
  let quiet' := if k' = k then quiet else 0
  let kk := s.fld F.HIT_RR_STAT_K
  let s1 := ({ s with fb := { s.fb with quiet := s.fb.quiet.set q quiet' } }).setFld F.HIT_RR_STAT_K
    ((kk - place 3 (3 * q) k) ||| place 3 (3 * q) k')
  let s2 := if k < k' then s1.bump F.HIT_RR_STEPS_UP else if k' < k then s1.bump F.HIT_RR_STEPS_DOWN else s1
  let s3 := if k = 0 && 0 < k' then raise EV.HIT_RR_ACTIVE s2 else s2
  if press && k = s.kMax q then raise EV.HIT_RR_MAX s3 else s3

/-- RATE_REDUCER_K_UPDATE: every quadrant, and the pressure of the frame that ended. -/
def tickReducer (s : Chip) : Chip :=
  let press := (List.range 4).foldl (fun v q => v ||| place 1 q (b2n (nth false s.fb.press q))) 0
  let s1 := forN 4 tickQuadrant s
  ({ s1 with fb := { s1.fb with press := [false, false, false, false] } }).setFld F.HIT_RR_STAT_PRESS press

/-- Pressure of the regions that are at or above HIGH as a frame starts (R89). -/
def standingPressure (s : Chip) : Chip := forAll [0, 7, 8, 9] notePressure s

/-! ### The commands -/

/-- HEDGE_CORRECTION (R74). -/
def execHedgeCorrection (h : Fin 32) (s : State) : Host.Outcome State Fault Refusal :=
  .next { s with chip := hedgeCorrection h s.chip }

/-- REORDER_RELEASE (R78). -/
def execReorderRelease (h : Fin 32) (s : State) : Host.Outcome State Fault Refusal :=
  .next { s with chip := reorderRelease h s.chip }

/-- STORE_BANDWIDTH_GRANT (R95). -/
def execStoreBandwidthGrant (s : State) : Host.Outcome State Fault Refusal :=
  .next { s with chip := if s.chip.up then grantStore s.chip else s.chip }

/-- A packet of EGRESS that a transmitter or an unsettled item of the capture store still holds (R92, R345). -/
def Chip.egressInUse (s : Chip) (id : Nat) : Bool :=
  ([s.ringE, s.ringW].any fun (t : PortSt) => (t.txq ++ t.fwd ++ t.started).any fun (q : TxPkt) => q.egress == some id) ||
    s.sto.items.any fun (i : StoItem) => i.egress == some id

/-- Frees the objects of a queue region that every reader has finished with (R93); in EGRESS those of packets that were removed before
they were sent. -/
def freeDone (n : Nat) (s : Chip) : Chip :=
  if isHistory n then s
  else s.setRegion n { s.region n with objs := (s.region n).objs.filter fun (o : Obj) =>
    !o.readers.isEmpty && (n != 9 || s.egressInUse o.id) }

/-- QUEUE_SPACE_FREED (R93). -/
def execQueueSpaceFreed (region : Fin 10) (s : State) : Host.Outcome State Fault Refusal :=
  .next { s with chip := freeDone region s.chip }

end Sys2Proof.Machine
end

