-- ==== Sys2Proof/Machine/Wave.lean ====
section
/-! DEFINITION. Converter slices and waveform capture (chapter 05). -/

namespace Sys2Proof.Machine

/-- Sample period of a mode in FTU (R133). -/
def modePeriod (mode : Nat) : Nat := nth 512 [512, 128, 256, 512] mode

/-- Slices of channel c in a mode (R133). -/
def modeSlices (mode c : Nat) : List Nat :=
  match mode with
  | 1 => List.range 8
  | 2 => (List.range 4).map (4 * c + ·)
  | 3 => [2 * c, 2 * c + 1]
  | _ => []

/-- Slices of the enabled waveform channels, from the bank that `get` reads (R134, R136). -/
def waveSlices (get : Fld → Nat) : List Nat :=
  (List.range 4).flatMap fun c =>
    if (get F.WAV_CTL_CH_EN).testBit c && decide (c < modeChannels (get F.WAV_CTL_MODE)) then modeSlices (get F.WAV_CTL_MODE) c
    else []

/-- Slices that a sequencer profile borrows (R135): 3 acts as 0. -/
def profileSlices (profile : Nat) : Nat := nth 0 [0, 1, 3, 0] profile

/-- The slices lent to the transducer front end, in the order of their roles (R135). -/
def Chip.lent (s : Chip) : List Nat :=
  let own := waveSlices s.fld
  (((List.range 8).reverse).filter fun i => !own.contains i).take (profileSlices (s.fld F.XDC_SEQ_CTL_PROFILE))

/-- WAV_STAT.OWNER (R132). -/
def Chip.owners (s : Chip) : Nat :=
  (List.range 8).foldl (fun v i =>
    v ||| place 2 (2 * i) (if (waveSlices s.fld).contains i then 1 else if s.lent.contains i then 2 else 0)) 0

/-- Waveform channel c. -/
def Chip.wch (s : Chip) (c : Nat) : WavCh := Table.get ⟨0, 0, 0, 0, false, true, [], none, 0, none⟩ s.wav c

/-- Replaces waveform channel c. -/
def setWch (c : Nat) (x : WavCh) (s : Chip) : Chip := { s with wav := Table.set s.wav c x }

/-- The code of a signal limited to the range of R138. -/
def limitCode (se : Bool) (v : Int) : Int := if se then max 0 (min 16383 v) else max (-8192) (min 8191 v)

/-- A limit code of R138. -/
def atLimit (se : Bool) (v : Int) : Bool := if se then v == 0 || v == 16383 else v == -8192 || v == 8191

/-- The container value of a code (R142). -/
def container (align : Bool) (v : Int) : Int := if align then 4 * v else v

/-- The Folly replaces the samples of a channel (R151). -/
def Chip.wavFolly (s : Chip) (c : Nat) : Bool :=
  (s.fld F.WAV_FOLLY_CTL_MODE == 1 || s.fld F.WAV_FOLLY_CTL_MODE == 2) && (s.fld F.WAV_FOLLY_CTL_CHMASK).testBit c

/-- The m-th synthetic code (R151). -/
def Chip.follyCode (s : Chip) (se : Bool) (m : Nat) : Int :=
  let base := sext 16 (s.fld F.WAV_FOLLY_LVL_BASE)
  if s.fld F.WAV_FOLLY_CTL_MODE = 1 then
    let x := base + sext 16 (s.fld F.WAV_FOLLY_CTL_STEP) * (m : Int)
    if se then x % 16384 else (x + 8192) % 16384 - 8192
  else
    let per := s.fld F.WAV_FOLLY_SHAPE_PERIOD
    if per != 0 && decide (m % per < s.fld F.WAV_FOLLY_SHAPE_WIDTH) then
      limitCode se (base + sext 16 (s.fld F.WAV_FOLLY_LVL_AMP))
    else limitCode se base

/-- Conversion number n of channel c joins its estimation window (R219). -/
def sampleForCal (c n : Nat) (code : Int) (s : Chip) : Chip :=
  { s with cal := { s.cal with win := Table.set s.cal.win c (Table.get [] s.cal.win c ++ [(n, code)]) } }

/-- Frames AP takes per channel (R221). -/
def Chip.apFrames (s : Chip) : Nat := 2 + max 1 (s.fld F.WAV_SETTLE_FRAMES)

/-- Enabled waveform channels. -/
def Chip.waveUnits (s : Chip) : List Nat := (List.range 4).filter (s.wavEnabled 0)

/-- The internal step generator drives the input path of a channel (R221). -/
def Chip.apDrives (s : Chip) (c : Nat) : Bool :=
  s.calRuns 7 && decide (s.cal.apAge % s.apFrames < 2) && s.waveUnits[s.cal.apAge / s.apFrames]? == some c

/-- A conversion of a channel that the step generator drives (R221): its time from the start of the turn, without AP_c, and its code. -/
def stepSample (c : Nat) (code : Int) (s : Chip) : Chip :=
  let w := s.wch c
  let t : Int := ((w.n * modePeriod (s.fld F.WAV_CTL_MODE) : Nat) : Int) + sext 16 (s.fld (F.WAV_CH_DELAY_FTU c))
  setWch c { w with n := w.n + 1 }
    { s with cal := { s.cal with steps := Table.set s.cal.steps c (Table.get [] s.cal.steps c ++ [(t, code)]) } }

/-- The sample becomes part of a frame and reaches conditions and measures (R104, R232). -/
def takeSample (c : Nat) (w : WavCh) (b : WavBlock) (code : Int) (t : Nat) (s : Chip) : Chip :=
  let k := s.ageOf b.frame
  let se := s.flagAt k (F.WAV_CH_CFG_SE c)
  let v := container (s.flagAt k (F.WAV_CH_CFG_ALIGN c)) code
  let rest := w.blocks.filter fun x => x.frame != b.frame
  let s1 := setWch c { w with frame := b.frame, open_ := true, fresh := false, blocks := rest ++ [b], prev := some (v, t) } s
  let s2 := sampleForCal c (w.n - 1) code s1
  measureSample c b.frame t v (!se)
    (triggerSample c b.frame w.prev v (modePeriod (s.fldAt k F.WAV_CTL_MODE)) (!se) s2)

/-- AP_c plus DELAY for data of age k (R143). -/
def Chip.wavDelay (s : Chip) (k c : Nat) : Int := sext 16 (s.fldAt k (F.CAL_WAV_AP_FTU c)) + sext 16 (s.fldAt k (F.WAV_CH_DELAY_FTU c))

/-- A candidate `rel` FTU from the start of its frame was put before it by a correction of network time (R143). The first instants after
settling or a step, and those that a smaller AP or DELAY puts there, are of no frame: they are no samples, and no drops (DEDUCED,
notes/assumptions/56). -/
def Chip.slipped (s : Chip) (c : Nat) (fresh : Bool) (rel : Int) : Bool :=
  !fresh && decide (rel - (s.wavDelay 0 c - s.wavDelay 1 c) < 0)

/-- WAVEFORM_CONVERSION (R133, R138, R140, R143, R144, R151): one full-rate conversion, floor of the signal over the LSB. -/
def waveConversion (c : Nat) (raw : Int) (s0 : Chip) : Chip :=
  if !s0.domainUp 3 || !s0.wavEnabled 0 c then s0
  else
  -- every conversion made in step hold is counted (R144)
  let s := if s0.flag F.TIM_STAT_STEP_HOLD then s0.bump (F.WAV_CH_DROP_HOLD c) else s0
  if (s.fld F.WAV_STAT_SETTLING).testBit c then
    -- during the foreground fall-back the slices sample CAL_P/N (R220)
    if s.cal.ext.isNone then (if s.apDrives c then stepSample c (limitCode (s.flag (F.WAV_CH_CFG_SE c)) raw) s else s)
    else setWch c { s.wch c with n := (s.wch c).n + 1 } (sampleForCal c (s.wch c).n (limitCode (s.flag (F.WAV_CH_CFG_SE c)) raw) s)
  else
    let w0 := s.wch c
    let se := s.flag (F.WAV_CH_CFG_SE c)
    let per := modePeriod (s.fld F.WAV_CTL_MODE)
    let synth := s.wavFolly c
    let code := if synth then s.follyCode se w0.folly else limitCode se raw
    let stamp : Int := ((s.now + w0.began + w0.n * per : Nat) : Int) - (s.clockFtu : Int)
      + sext 16 (s.fld (F.CAL_WAV_AP_FTU c)) + sext 16 (s.fld (F.WAV_CH_DELAY_FTU c))
    let excess := !synth && atLimit se code
    let w := { w0 with n := w0.n + 1, folly := if synth then w0.folly + 1 else w0.folly,
                       ovrAt := if excess then some s.clk.frame else w0.ovrAt }
    let s1 := (setWch c w s).bump (F.WAV_CH_SAMP_COUNT c)
    let s2 := if excess then
        let t := s1.bump (F.WAV_CH_OVR_COUNT c)
        if w0.ovrAt = some s.clk.frame then t else raise EV.WAV_OVR t
      else s1
    if s.flag F.TIM_STAT_STEP_HOLD then s2
    else
      let cur := if w.open_ then w.blocks.find? fun b => b.frame == w.frame else none
      let fits := match cur with
        | some b => decide (b.first + b.codes.length * per < frameFtu)
        | none => false
      match cur, fits with
      | some b, true =>
        takeSample c w { b with codes := b.codes ++ [code] } code (b.frame * frameFtu + b.first + b.codes.length * per) s2
      | _, _ =>
        let f := if cur.isSome then w.frame + 1 else w.frame
        let rel := stamp - ((f * frameFtu : Nat) : Int)
        if rel < 0 && !s.slipped c w.fresh rel then setWch c { w with frame := f, open_ := false, prev := none } s2
        else if rel < 0 then
          raise EV.WAV_DROP ((setWch c { w with frame := f, open_ := false, prev := none } s2).bump (F.WAV_CH_DROP_SLIP c))
        else
          let t := stamp.toNat
          takeSample c w ⟨t / frameFtu, t % frameFtu, [code]⟩ code t s2

/-- WAV_SETTLING_END (R149): the settling frames of a channel have passed; its conversions count from the tick of that. -/
def waveSettled (c : Nat) (s : Chip) : Chip :=
  let m := s.fld F.WAV_STAT_SETTLING
  if m.testBit c && (s.wch c).settle == 0 && s.cal.ext.isNone then
    setWch c { s.wch c with began := 512 * s.clk.cc, n := 0, frame := s.clk.frame, open_ := false, fresh := true, prev := none }
      (s.setBit F.WAV_STAT_SETTLING c false)
  else s

/-- A channel starts settling (R149). -/
def startSettling (c : Nat) (s : Chip) : Chip :=
  setWch c { s.wch c with settle := max 1 (s.fld F.WAV_SETTLE_FRAMES), open_ := false, prev := none }
    (({ s with cal := { s.cal with win := Table.set s.cal.win c [] } }).setBit F.WAV_STAT_SETTLING c true)

/-- A commit took effect (R134, R149, R151, R221). -/
def waveCommit (old s : Chip) : Chip :=
  let d := fun (f : Fld) => decide (old.fld f ≠ s.fld f)
  let mode := d F.WAV_CTL_MODE
  let s1 := forN 4 (fun c s =>
    let on := s.wavEnabled 0 c
    let fresh := on && (mode || !old.wavEnabled 0 c)
    let s1 := if fresh || (on && (d (F.WAV_CH_CFG_SE c) || d (F.WAV_CH_CFG_TERM c))) then startSettling c s
      else if !on then (setWch c { s.wch c with settle := 0, open_ := false, prev := none } s).setBit F.WAV_STAT_SETTLING c false
      else s
    if mode || old.wavEnabled 0 c != on then clearArmings c (s1.setFlag (F.CAL_WAV_AP_STALE c) true) else s1) s
  let folly := d F.WAV_FOLLY_CTL_MODE || d F.WAV_FOLLY_CTL_CHMASK || d F.WAV_FOLLY_CTL_STEP || d F.WAV_FOLLY_LVL_AMP
    || d F.WAV_FOLLY_LVL_BASE || d F.WAV_FOLLY_SHAPE_PERIOD || d F.WAV_FOLLY_SHAPE_WIDTH
  let s2 := if folly then forN 4 (fun c s => setWch c { s.wch c with folly := 0 } s) s1 else s1
  let bad := (List.range 4).foldl (fun v c =>
    v ||| place 1 c (b2n ((s.fld F.WAV_CTL_CH_EN).testBit c && !s.wavEnabled 0 c))) 0
  let news := bad &&& (15 - s2.fld F.WAV_STAT_CFG_ERR) != 0
  cond news (raise EV.WAV_CFG_ERR) (s2.setFld F.WAV_STAT_CFG_ERR bad)

/-- A tick counts settling frames; a step of network time breaks the sequence of every channel (R143, R144). -/
def tickWave (stepped : Bool) (s : Chip) : Chip :=
  forN 4 (fun c s =>
    let w := s.wch c
    let w1 := { w with settle := w.settle - 1 }
    if w = w1 && !stepped then s
    else setWch c (if stepped then { w1 with frame := s.clk.frame, open_ := false, fresh := true, prev := none } else w1) s) s

/-- The stored samples of a frame (R145): decimation by 2^K of its codes. -/
def decimate (mean : Bool) (n : Nat) (codes : List Int) : List Int :=
  (chunksOf codes.length n codes).map fun g =>
    if mean then g.sum / (g.length : Int) else g.headD 0
where
  /-- Groups of n, the last one shorter. -/
  chunksOf : Nat → Nat → List Int → List (List Int)
    | 0, _, _ => []
    | m + 1, n, l => if l.isEmpty then [] else l.take n :: chunksOf m n (l.drop n)

/-- Samples packed as 16-bit containers (R126, R4). -/
def packSamples (vs : List Int) : List W64 :=
  packBytes (vs.flatMap fun v => let u := unsext 16 v; [u % 256, u / 256])

/-- The block of a frame as stored (R126, R147). -/
def Chip.waveBlock (s : Chip) (k c frame kk : Nat) : List W64 :=
  let b := ((s.wch c).blocks.find? fun b => b.frame == frame).getD ⟨frame, 0, []⟩
  let vs := (decimate (s.flagAt k (F.WAV_CH_CFG_DEC c)) (2 ^ kk) b.codes).map
    (container (s.flagAt k (F.WAV_CH_CFG_ALIGN c)))
  [w64 (frameWord frame ||| place 3 0 kk), w64 (place 32 32 vs.length ||| place 20 0 b.first)] ++ packSamples vs

/-- WHIST_BLOCK_WRITE (R147, R148): the block of a channel that was enabled for a closed frame; the words written. A block that the region
cannot hold, or that the arbiter cannot write before the deadline (R21, R95), is dropped with the frame's full-rate samples. -/
def closeWave (k c frame kk : Nat) (s : Chip) : Option (List W64) × Chip :=
  let tidy := fun (s : Chip) => setWch c { s.wch c with blocks := (s.wch c).blocks.filter fun b => decide (frame < b.frame) } s
  if !s.wavEnabled k c then (none, tidy s)
  else
    let ws := s.waveBlock k c frame kk
    let n := ((s.wch c).blocks.find? fun b => b.frame == frame).elim 0 fun b => b.codes.length
    let t0 := frame * frameFtu + bits (nth 0#64 ws 1).toNat 19 0
    let per := modePeriod (s.fldAt k F.WAV_CTL_MODE) * 2 ^ kk
    if s.regionCap (2 + c) < ws.length || decide (s.bandwidthLeft 1 < 8 * ws.length) then
      (none, tidy (raise EV.WAV_DROP (s.bumpBy (F.WAV_CH_DROP_HOLD c) n)))
    else
      (some ws, tidy (putHistory true (2 + c) ws frame t0 (t0 + per) (addBacklog 1 (8 * ws.length) s)))

/-- WAVEFORM_CONVERSION (R133). -/
def execWaveformConversion (ch : Fin 4) (v : Int) (s : State) : Host.Outcome State Fault Refusal :=
  .next { s with chip := waveConversion ch v s.chip }

/-- WAV_SETTLING_END (R149). -/
def execWavSettlingEnd (ch : Fin 4) (s : State) : Host.Outcome State Fault Refusal :=
  .next { s with chip := waveSettled ch s.chip }

end Sys2Proof.Machine
end

