-- ==== Sys2Proof/Machine/Xdcr.lean ====
section
/-! DEFINITION. The transducer front end (chapter 06): sequencer, urgent slots, results and linearisation. -/

namespace Sys2Proof.Machine

/-- FTU in a microsecond (R12). -/
def usFtu : Nat := 327680

/-- The active profile (R162): 3 acts as 0. -/
def Chip.xprofile (s : Chip) : Nat := if s.fld F.XDC_SEQ_CTL_PROFILE = 3 then 0 else s.fld F.XDC_SEQ_CTL_PROFILE

/-- The filter input sample period in FTU (R159). -/
def samplePeriod (profile : Nat) (urgent : Bool) : Nat := if profile = 1 || urgent then 131072 else 65536

/-- OSR of an entry (R180): below 4 acts as 4, above 14 as 14. -/
def Chip.xosr (s : Chip) (k n : Nat) : Nat := max 4 (min 14 (s.fldAt k (F.XDC_CONV_OSR n)))

/-- SETTLE of an entry in microseconds: below 2 acts as 2. -/
def Chip.xsettle (s : Chip) (n : Nat) : Nat := max 2 (s.fld (F.XDC_CONV_SETTLE n))

/-- PW of an entry in microseconds (R156). -/
def Chip.xpw (s : Chip) (n : Nat) : Nat := max 20 (min 10000 (s.fld (F.XDC_EXC_PW n)))

/-- An enabled urgent slot names the entry. -/
def Chip.xnamed (s : Chip) (n : Nat) : Bool :=
  (List.range 4).any fun u => s.flag (F.XDC_URG_EN u) && s.fld (F.XDC_URG_ENTRY u) == n

/-- A list without repeats. -/
def noRepeat : List Nat → Bool
  | [] => true
  | x :: xs => !xs.contains x && noRepeat xs

/-- Time of three outputs and their settle in FTU, for a sample period. -/
def Chip.xconvFtu (s : Chip) (n extra ts : Nat) : Nat := (s.xsettle n + extra) * usFtu + 3 * 2 ^ s.xosr 0 n * ts

/-- The sample period by which an entry's pulse is judged: 400 ns where it can run on the urgent slice. -/
def Chip.xjudgeTs (s : Chip) (n : Nat) : Nat := samplePeriod s.xprofile (s.xnamed n || s.flag (F.XDC_ROUTE_URG_ONLY n))

/-- An entry is usable (R154). -/
def Chip.xusable (s : Chip) (n : Nat) : Bool :=
  let r := fun (f : Nat → Fld) => s.fld (f n)
  let exc := r F.XDC_ROUTE_EXC
  let a := exc == 1 || exc == 3
  let b := exc == 2 || exc == 3
  let adc := [r F.XDC_ROUTE_POS] ++ (if r F.XDC_ROUTE_NEGSEL = 0 then [r F.XDC_ROUTE_NEG] else [])
  let ex := (if a then [r F.XDC_ROUTE_SRC] else []) ++ (if b then [r F.XDC_ROUTE_SRC2] else [])
    ++ (if r F.XDC_ROUTE_SINK_EN = 1 then [r F.XDC_ROUTE_SINK] else [])
  let codeOk := fun (c : Nat) => decide (1 ≤ c) && decide (c ≤ 200)
  let wide := decide (8 < s.xosr 0 n)
  noRepeat adc && noRepeat ex && !(r F.XDC_ROUTE_BIAS_EN == 1 && (adc ++ ex).contains (r F.XDC_ROUTE_BIAS))
    && (!a || codeOk (r F.XDC_EXC_IA)) && (!b || codeOk (r F.XDC_EXC_IB))
    && !(r F.XDC_OUT_SCALE == 2 && !a)
    && !(exc != 0 && decide (s.xpw n * usFtu < s.xconvFtu n 0 (s.xjudgeTs n)))
    && !(s.xprofile == 1 && wide) && !(s.xnamed n && wide)
    && !(r F.XDC_OUT_LIN_EN == 1 && r F.XDC_OUT_TEMP_EN == 1 && r F.XDC_OUT_TEMP_ENTRY == n)

/-- The entries that a pass visits (R162). -/
def Chip.xpass (s : Chip) : List Nat :=
  (List.range 64).filter fun n => s.flag (F.XDC_ROUTE_EN n) && !s.flag (F.XDC_ROUTE_URG_ONLY n) && s.xusable n

/-! ### Results (R168 to R171) -/

/-- A result is emitted (R163, R171): counted, its OPEN bit kept, and sent through the linearisation engine. -/
def emitResult (r : XdcRes) (s : Chip) : Chip :=
  let s1 := s.bump F.XDC_RESULT_CNT_COUNT
  let q := { r with rseq := s1.fld F.XDC_RESULT_CNT_COUNT % 65536 }
  let s2 := s1.setBit (if r.entry < 32 then F.XDC_OPEN_LO_ENTRY else F.XDC_OPEN_HI_ENTRY) (r.entry % 32) r.opened
  let s3 := { s2 with xdc := { s2.xdc with results := s2.xdc.results ++ [q] } }
  let s4 := if r.opened then raise EV.XDC_OPEN (s3.bump F.XDC_OPEN_CNT_COUNT)
    else if r.ovr then raise EV.XDC_OVR (s3.bump F.XDC_OVR_CNT_COUNT) else s3
  if r.opened || r.ovr then
    if s.flag F.XDC_SEQ_CTL_AUTO_EXT then { s4 with xdc := { s4.xdc with ovr := true } }
    else { s4 with xdc := { s4.xdc with near := 2 } }
  else s4

/-- FTU between the opening of the crosspoint's switches and the closing of the new entry's: 50 ns (R155). -/
def breakFtu : Nat := 16384

/-- The lent slices that convert for an entry (R159, R166): the first one in the compact profile; in the full profile the first two in turn,
or the third for an urgent entry. -/
def Chip.runSlices (s : Chip) (urgent : Bool) : List Nat :=
  if s.xprofile = 1 then s.lent.take 1 else if urgent then (s.lent.drop 2).take 1 else s.lent.take 2

/-- An entry starts at a device-clock time (R155, R163, R169): every switch of the crosspoint opens, and the new ones close 50 ns later. -/
def startEntry (n : Nat) (slot : Option Nat) (at_ : Nat) (s : Chip) : Chip :=
  let exc := s.fld (F.XDC_ROUTE_EXC n)
  let want := s.xdc.ovr && s.flag F.XDC_SEQ_CTL_AUTO_EXT
  let tooLong := exc != 0 && decide (s.xpw n * usFtu < s.xconvFtu n 15 (samplePeriod s.xprofile slot.isSome))
  let ext := want && !tooLong
  let run : XdcRun :=
    { entry := n, urgent := slot, slices := s.runSlices slot.isSome, start := at_, closeAt := at_ + breakFtu
      resetAt := at_ + (s.xsettle n + (if ext then 15 else 0)) * usFtu
      sampling := false, outputs := 0, ext := ext, nearOvr := want && tooLong
      srcA := exc == 1 || exc == 3, srcB := exc == 2 || exc == 3, onA := at_, onB := at_, offA := false, offB := false }
  { s with xdc := { s.xdc with run := some run, ovr := false } }

/-- The slot served next, in ascending order (R166). -/
def Chip.nextUrgent (s : Chip) : Option Nat :=
  (List.range 4).find? fun u => s.xdc.pend.testBit u && s.flag (F.XDC_URG_EN u) && s.xusable (s.fld (F.XDC_URG_ENTRY u))

/-- What runs from a device-clock time on, after an entry ended or on an idle sequencer (R162, R165 to R167): a pending urgent entry, an
interrupted entry from its start, a new pass that waits, or the next entry of the pass. -/
def xdcNext (at_ : Nat) (s : Chip) : Chip :=
  let s0 := { s with xdc := { s.xdc with run := none } }
  if s.xprofile = 0 || s.lent.isEmpty then s0
  else match s0.nextUrgent with
  | some u => startEntry (s.fld (F.XDC_URG_ENTRY u)) (some u) at_ s0
  | none =>
  match s0.xdc.redo.filter s0.xpass.contains with
  | some n => startEntry n none at_ { s0 with xdc := { s0.xdc with redo := none } }
  | none =>
    let todo := if s0.xdc.newPass then s0.xpass else s0.xdc.todo
    let s1 := { s0 with xdc := { s0.xdc with newPass := false, redo := none } }
    match todo with
    | n :: rest => startEntry n none at_ { s1 with xdc := { s1.xdc with todo := rest } }
    | [] => { s1 with xdc := { s1.xdc with todo := [] } }

/-- The running entry ends at a device-clock time: its slot is free again, and the next one starts. -/
def endEntry (at_ : Nat) (s : Chip) : Chip :=
  match s.xdc.run with
  | none => s
  | some r =>
    let pend := match r.urgent with
      | some u => s.xdc.pend &&& (15 - 2 ^ u)
      | none => s.xdc.pend
    xdcNext at_ { s with xdc := { s.xdc with run := none, pend := pend } }

/-- The running entry is abandoned (R165). -/
def abandonEntry (s : Chip) : Chip := if s.xdc.run.isSome then endEntry s.clockFtu (s.bump F.XDC_ABANDON_CNT_COUNT) else s

/-- XDC_PASS_START (R162, R165): a pass is due at this tick. -/
def passStart (s : Chip) : Chip :=
  if !s.domainUp 4 || s.xprofile = 0 || !s.xdc.due then s
  else
    let s0 := { s with xdc := { s.xdc with due := false } }
    match s.xdc.run with
    | some _ =>
      ({ s0 with xdc := { s0.xdc with todo := [], newPass := true } }).bumpBy F.XDC_SKIP_CNT_COUNT s.xdc.todo.length
    | none => xdcNext s.clockFtu { s0 with xdc := { s0.xdc with newPass := true } }

/-- XDC_FILTER_RESET (R163): the settle time of the running entry has passed. -/
def filterReset (s : Chip) : Chip :=
  match s.xdc.run with
  | some r =>
    if !r.sampling && decide (r.resetAt ≤ s.clockFtu) then
      { s with xdc := { s.xdc with run := some { r with sampling := true, outputs := 0 } } }
    else s
  | none => s

/-- Network time of an instant of the device's clock that has passed. -/
def Chip.timeOfClock (s : Chip) (t : Nat) : Nat := s.now + t - s.clockFtu

/-- A result of the running entry with its flags. -/
def runResult (r : XdcRun) (time raw : Nat) (invalid ovr near opened : Bool) : XdcRes :=
  { entry := r.entry, time := time, raw := raw, invalid := invalid, ovr := ovr, near := near, opened := opened,
    urgent := r.urgent.isSome, ext := r.ext, rseq := 0, stale := false }

/-- An invalid output (R163): emitted under mark mode, discarded otherwise. -/
def invalidOutput (r : XdcRun) (time raw : Nat) (s : Chip) : Chip :=
  if s.flag F.XDC_SEQ_CTL_MARK then emitResult (runResult r time raw true false false false) s
  else s.bump F.XDC_DISCARD_CNT_COUNT

/-- The sample period of the running entry. -/
def Chip.runTs (s : Chip) (r : XdcRun) : Nat := samplePeriod s.xprofile r.urgent.isSome

/-- The code of a filtered input voltage in pV before any limit (R158, R160): floor(v × 2^GAIN × 2^23 / VREF), where the internal reference
is the voltage that XDC_VREF_INT holds, and `xdref` the voltage on XDREF in pV. -/
def Chip.xcode (s : Chip) (n : Nat) (v : Int) (xdref : Nat) : Int :=
  let x := v * (2 ^ (23 + s.fld (F.XDC_CONV_GAIN n)) : Nat)
  if s.flag (F.XDC_CONV_REFSEL n) then x / (xdref : Int)
  else
    let ref := s.fld F.XDC_VREF_INT_VALUE
    x * (2 ^ (-(f32Exp ref)).toNat : Nat) / ((f32Mant ref * 2 ^ (f32Exp ref).toNat * 10 ^ 12 : Nat) : Int)

/-- XDC_OUTPUT_COMPLETE (R158, R160, R163, R168 to R170): `volt` is the filtered input voltage in pV and `xdref` the voltage on XDREF in
pV; `limit` tells that a sample reached a limit code of its slice, and on which side the first one did. The entry ends, and the next one
starts, at the instant at which output 3 is complete. -/
def outputComplete (volt : Int) (xdref : Nat) (limit : Option Bool) (s : Chip) : Chip :=
  match s.xdc.run with
  | none => s
  | some r =>
    let n := 2 ^ s.xosr 0 r.entry
    let v := s.xcode r.entry volt xdref
    let ts := s.runTs r
    let done := r.resetAt + (r.outputs + 1) * n * ts
    if !r.sampling || s.clockFtu < done then s
    else
      let time := s.timeOfClock (done - ts)
      let regular := unsext 24 (max (-8388606) (min 8388606 v))
      if r.outputs < 2 then
        invalidOutput r time regular { s with xdc := { s.xdc with run := some { r with outputs := r.outputs + 1 } } }
      else
        let side : Option Bool := match limit with
          | some b => some b
          | none => if 8388606 < v then some true else if v < -8388606 then some false else none
        let burn := s.flag (F.XDC_CONV_BURNOUT r.entry)
        let near := r.nearOvr || s.xdc.near != 0
        let s1 := { s with xdc := { s.xdc with near := s.xdc.near - 1 } }
        let res := match side with
          | some true => if burn then runResult r time 0x800001 false false near true else runResult r time 0x7FFFFF false true near false
          | some false => runResult r time 0x800000 false true near false
          | none => runResult r time regular false false near false
        endEntry done (emitResult res s1)

/-- A restart of the running entry's count (R164): the output being accumulated is emitted or discarded, and the filter is reset SETTLE µs
after the change. The spec gives no code for an output cut short: its RAW is a free value among the codes of regular outputs (R160). -/
def restartEntry (s : Chip) : Chip :=
  match s.xdc.run with
  | none => s
  | some r =>
    let s1 := if r.sampling then
        let (v, s0) := s.drawFree
        let ts := s.runTs r
        let last := r.resetAt + (s.clockFtu - r.resetAt - 1) / ts * ts
        invalidOutput r (s.timeOfClock last) (unsext 24 (max (-8388606) (min 8388606 (sext 24 (v.toNat % 2 ^ 24))))) s0
      else s
    let r' : XdcRun :=
      { r with sampling := false, outputs := 0, resetAt := s.clockFtu + s.xsettle r.entry * usFtu }
    { s1 with xdc := { s1.xdc with run := some r' } }

/-- EXCITATION_PULSE_END (R156, R164): PW has passed for a source; it stays off until the entry ends. -/
def pulseEnd (s : Chip) : Chip :=
  match s.xdc.run with
  | some r =>
    let endA := r.srcA && decide (r.onA + s.xpw r.entry * usFtu ≤ s.clockFtu)
    let endB := r.srcB && decide (r.onB + s.xpw r.entry * usFtu ≤ s.clockFtu)
    if endA || endB then
      let r' : XdcRun := { r with srcA := r.srcA && !endA, srcB := r.srcB && !endB, offA := r.offA || endA, offB := r.offB || endB }
      restartEntry { s with xdc := { s.xdc with run := some r' } }
    else s
  | none => s

/-- XDC_OPEN (R157, R171): the compliance monitor declares an open circuit, at an edge of TCLK. -/
def complianceOpen (tclk : Nat) (s : Chip) : Chip :=
  match s.xdc.run with
  | some r =>
    if r.srcA || r.srcB then
      endEntry (s.clockFtu + 256 * tclk) (emitResult (runResult r (s.nowAt (256 * tclk)) 0x800001 false false false true) s) else s
  | none => s

/-! ### The pins (R153, R155, R159, R170) -/

/-- A role of an XD pin (R153). -/
inductive XdRole where
  | adcPos
  | adcNeg
  | sourceA
  | sourceB
  | sink
  | bias
deriving DecidableEq, Repr

/-- The roles that an entry names for a pin (R153). -/
def Chip.xnames (s : Chip) (n p : Nat) : List XdRole :=
  let r := fun (f : Nat → Fld) => s.fld (f n)
  let exc := r F.XDC_ROUTE_EXC
  (if r F.XDC_ROUTE_POS = p then [.adcPos] else [])
    ++ (if r F.XDC_ROUTE_NEGSEL = 0 && r F.XDC_ROUTE_NEG = p then [.adcNeg] else [])
    ++ (if (exc == 1 || exc == 3) && r F.XDC_ROUTE_SRC = p then [.sourceA] else [])
    ++ (if (exc == 2 || exc == 3) && r F.XDC_ROUTE_SRC2 = p then [.sourceB] else [])
    ++ (if r F.XDC_ROUTE_SINK_EN = 1 && r F.XDC_ROUTE_SINK = p then [.sink] else [])
    ++ (if r F.XDC_ROUTE_BIAS_EN = 1 && r F.XDC_ROUTE_BIAS = p then [.bias] else [])

/-- The running entry whose switches of the crosspoint are closed now (R155). -/
def Chip.xclosed (s : Chip) : Option XdcRun := s.xdc.run.filter fun r => decide (r.closeAt ≤ s.clockFtu)

/-- The roles of an XD pin now (R153, R155): none, which is off, unless the running entry names it and its switches are closed. -/
def Chip.xdRoles (s : Chip) (p : Nat) : List XdRole :=
  match s.xclosed with
  | some r => s.xnames r.entry p
  | none => []

/-- Where the PGA's negative input goes (R153). -/
inductive PgaNeg where
  | pin (p : Nat)
  | ground
  | bias
deriving DecidableEq, Repr

/-- The PGA's negative input now: NEGSEL 3 acts as 1; none while every switch is open. -/
def Chip.pgaNeg (s : Chip) : Option PgaNeg :=
  s.xclosed.map fun r => match s.fld (F.XDC_ROUTE_NEGSEL r.entry) with
    | 0 => .pin (s.fld (F.XDC_ROUTE_NEG r.entry))
    | 2 => .bias
    | _ => .ground

/-- The pin into which the burn-out current flows (R163, R170): from the start of the entry to its end. -/
def Chip.burnoutPin (s : Chip) : Option Nat :=
  (s.xdc.run.filter fun r => s.flag (F.XDC_CONV_BURNOUT r.entry)).map fun r => s.fld (F.XDC_ROUTE_POS r.entry)

/-- The slice that converts sample m of the running entry (R159): its slices in turn. -/
def XdcRun.sliceOf (r : XdcRun) (m : Nat) : Option Nat := r.slices[m % r.slices.length]?

/-- The slice that is lent and does not power down between conversions (R135, R159, R162): the third of the full profile. Every other lent
slice wakes for each of its conversions only. -/
def Chip.staysPowered (s : Chip) : Option Nat := if s.xprofile = 2 then s.lent[2]? else none

/-! ### Urgent requests (R166, R167) -/

/-- A request on slot u. -/
def urgentRequest (u : Nat) (s : Chip) : Chip :=
  let n := s.fld (F.XDC_URG_ENTRY u)
  let drop := fun (s : Chip) => raise EV.XDC_URG_OVR (s.bump F.XDC_URG_OVR_COUNT)
  if !s.domainUp 4 || !s.flag (F.XDC_URG_EN u) then s
  else if s.xprofile = 0 then drop s
  else if !s.xusable n then s
  else if s.xdc.took.testBit u then drop s
  else
    let s1 := { s with xdc := { s.xdc with took := s.xdc.took ||| 2 ^ u, pend := s.xdc.pend ||| 2 ^ u } }.bump F.XDC_URG_CNT_COUNT
    match s1.xdc.run with
    | none => xdcNext s1.clockFtu s1
    | some r =>
      if s1.xprofile = 2 && r.urgent.isNone then
        let s2 := s1.bump F.XDC_PREEMPT_CNT_COUNT
        -- at the next TCLK; the interrupted entry is redone afterwards
        startEntry n (some u) (s2.clockFtu + 256) { s2 with xdc := { s2.xdc with redo := some r.entry } }
      else s1

/-- Requests on the slots of a mask, in ascending order. -/
def urgentRequests (mask : Nat) (s : Chip) : Chip := forN 4 (fun u s => if mask.testBit u then urgentRequest u s else s) s

/-- Requests of a time input (src 1) or of a trigger output (src 2). -/
def urgentFrom (src sel : Nat) (s : Chip) : Chip :=
  forN 4 (fun u s => if s.fld (F.XDC_URG_SRC u) = src && s.fld (F.XDC_URG_SEL u) = sel then urgentRequest u s else s) s

/-! ### Linearisation (R175 to R178) -/

/-- A coefficient c[i][j] of a table of the active bank (R181), whether its word is poisoned, and the chip after the read. -/
def coefficient (k t i j : Nat) (s : Chip) : Nat × Bool × Chip :=
  let a := 128 * t + 16 * i + 4 * j
  let (d, bad, s1) := memReadAt k 7 (a / 8) s
  (if a % 8 = 0 then d % 2 ^ 32 else d / 2 ^ 32, bad, s1)

/-- a[j] of R177: Horner's rule in x over c[7][j] to c[0][j]. -/
def hornerX (k t j x : Nat) (s : Chip) : Nat × Bool × Chip :=
  (List.range 7).foldl (fun (acc : Nat × Bool × Chip) i =>
    let (c, bad, s1) := coefficient k t (6 - i) j acc.2.2
    (f32Add (f32Mul acc.1 x) c, acc.2.1 || bad, s1)) (coefficient k t 7 j s)

/-- The polynomial of R177. -/
def polynomial (k t x temp : Nat) (s : Chip) : Nat × Bool × Chip :=
  (List.range 3).foldl (fun (acc : Nat × Bool × Chip) i =>
    let (a, bad, s1) := hornerX k t (2 - i) x acc.2.2
    (f32Add (f32Mul acc.1 temp) a, acc.2.1 || bad, s1)) (hornerX k t 3 x s)

/-- x of R175. -/
def Chip.xvalue (s : Chip) (k n raw : Nat) : Nat :=
  let c := f32OfInt (sext 24 raw)
  let vref := if s.flagAt k (F.XDC_CONV_REFSEL n) then s.fldAt k F.XDC_VREF_EXT_VALUE else s.fld F.XDC_VREF_INT_VALUE
  let volt := f32Mul (f32Mul c vref) (f32Pow2Neg (23 + s.fldAt k (F.XDC_CONV_GAIN n)))
  match s.fldAt k (F.XDC_OUT_SCALE n) with
  | 1 => volt
  | 2 => f32Div volt (f32Round false (s.fldAt k (F.XDC_EXC_IA n)) 100000)
  | _ => f32Mul c (f32Pow2Neg 23)

/-- The temperature input of R176: none when it is not valid. -/
def Chip.xtemp (s : Chip) (k n frame : Nat) : Option Nat :=
  if s.flagAt k (F.XDC_OUT_TEMP_EN n) then
    let tage := s.fldAt k F.XDC_LIN_CTL_TAGE
    match Table.get none s.xdc.temps (s.fldAt k (F.XDC_OUT_TEMP_ENTRY n)) with
    | some (v, f) => if tage = 0 || frame ≤ f + tage then some v else none
    | none => none
  else some 0

/-- What a result in the engine leaves for R176: the latest LIN of its entry that is valid, since the profile started. -/
def noteTemp (r : XdcRes) (lin frame : Nat) (s : Chip) : Chip :=
  if r.stale then s else { s with xdc := { s.xdc with temps := Table.set s.xdc.temps r.entry (some (lin, frame)) } }

/-- XDC_RESULT (R171 to R178): the oldest result leaves the linearisation engine 131,072 FTU after its TIME. The words of its
XHIST entry are returned where it wrote one. -/
def resultOut (s : Chip) : Option (List W64) × Chip :=
  match s.xdc.results with
  | [] => (none, s)
  | r :: rest =>
    if s.now < r.time + 131072 then (none, s)
    else
      let frame := r.time / frameFtu
      let k := s.ageOf frame
      let n := r.entry
      let s0 := { s with xdc := { s.xdc with results := rest } }
      let lin := s.flagAt k (F.XDC_OUT_LIN_EN n)
      let fault := r.invalid || r.ovr || r.opened
      let temp := s.xtemp k n frame
      let tnv := temp.isNone
      let (y, poison, s1) := if lin && !fault && !tnv then
          polynomial k (s.fldAt k (F.XDC_OUT_TABLE n)) (s.xvalue k n r.raw) (temp.getD 0) s0
        else (f32NaN, false, s0)
      let inv := !lin || fault || tnv || f32IsNaN y || f32IsInf y || poison
      let linv := if inv then f32NaN else y
      let s2 := if inv then
          raise EV.XDC_LIN_INV ({ s1 with xdc := { s1.xdc with linInv := satTo 32 (s1.xdc.linInv + 1) } })
        else noteTemp r y frame s1
      let flags := place 1 15 (b2n r.invalid) ||| place 1 14 (b2n r.ovr) ||| place 1 13 (b2n r.near) ||| place 1 12 (b2n r.opened)
        ||| place 1 11 (b2n r.urgent) ||| place 1 10 (b2n inv) ||| place 1 9 (b2n poison) ||| place 1 8 (b2n (s.tunc frame))
        ||| place 1 7 (b2n r.ext) ||| place 1 6 (b2n tnv)
      let s3 := ((s2.setFld (F.XDC_RES_LO_FLAGS n) (flags / 256)).setFld (F.XDC_RES_LO_RAW n) r.raw).setFld (F.XDC_RES_HI_LIN n) linv
      let words := [w64 (frameWord frame ||| place 4 4 1 ||| 4),
        w64 (place 20 44 (r.time % frameFtu) ||| place 6 38 n ||| place 16 16 flags ||| place 16 0 r.rseq),
        w64 (place 32 32 linv ||| place 24 0 r.raw),
        w64 (place 32 32 (if s.flagAt k (F.XDC_OUT_TEMP_EN n) then temp.getD 0 else 0) ||| place 4 28 (s.xosr k n)
          ||| place 3 25 (s.fldAt k (F.XDC_CONV_GAIN n)) ||| place 5 20 (s.fldAt k (F.XDC_OUT_TABLE n)))]
      let hist := s.flagAt k (F.XDC_OUT_HIST n)
      let held := hist && s.historyFits 6 4
      let s4 := if hist then putHistory true 6 words frame r.time r.time (addBacklog 1 32 s3) else s3
      let s5 := triggerResult r linv inv s4
      (if held then some words else none, if inv then s5 else measureResult 4 n r.time (linv : Nat) s5)

/-! ### Ticks -/

/-- A commit took effect (R137, R154, R162, R164, R165). The running entry is abandoned where it becomes unusable, as where its EN goes
(DEDUCED, notes/assumptions/57). -/
def xdcCommit (old s : Chip) : Chip :=
  let judged := fun (n : Nat) => s.flag (F.XDC_ROUTE_EN n) || s.xnamed n
  let bad := fun (w : Nat) => (List.range 32).foldl (fun v b =>
    v ||| place 1 b (b2n (judged (32 * w + b) && !s.xusable (32 * w + b)))) 0
  let news := bad 0 &&& (2 ^ 32 - 1 - s.fld F.XDC_CFG_ERR_LO_ENTRY) != 0 || bad 1 &&& (2 ^ 32 - 1 - s.fld F.XDC_CFG_ERR_HI_ENTRY) != 0
  let s1 := cond news (raise EV.XDC_CFG_ERR) ((s.setFld F.XDC_CFG_ERR_LO_ENTRY (bad 0)).setFld F.XDC_CFG_ERR_HI_ENTRY (bad 1))
  if old.xprofile != s.xprofile then
    let s2 := if s1.xdc.run.isSome then s1.bump F.XDC_ABANDON_CNT_COUNT else s1
    { s2 with xdc := { s2.xdc with
        run := none, todo := [], newPass := false, pend := 0, took := 0, redo := none, temps := [], phase := 0, due := s.xprofile != 0
        results := s2.xdc.results.map fun (r : XdcRes) => { r with stale := true } } }
  else
  -- the pass goes on over the entries that it may visit now (R162)
  let from_ := match s1.xdc.run, s1.xdc.todo with
    | some r, todo => if r.urgent.isNone then r.entry + 1 else todo.headD 64
    | none, todo => todo.headD 64
  let s1 := if s1.xdc.newPass then s1
    else { s1 with xdc := { s1.xdc with todo := s1.xpass.filter fun n => decide (from_ ≤ n) } }
  match s1.xdc.run with
  | none => s1
  | some r =>
    let n := r.entry
    let gone := (!s.flag (F.XDC_ROUTE_EN n) && old.flag (F.XDC_ROUTE_EN n)) || !s.xusable n
    let withdrawn := r.slices.any fun i => !s.lent.contains i
    let changed := (List.range 3).any fun j =>
      decide (fieldOf old.regs.active ⟨0x48400 + 16 * n + 4 * j, 0, 32, true⟩ ≠ fieldOf s.regs.active ⟨0x48400 + 16 * n + 4 * j, 0, 32, true⟩)
    if gone || withdrawn then abandonEntry s1
    else if changed then
      let exc := s.fld (F.XDC_ROUTE_EXC n)
      let a := exc == 1 || exc == 3
      let b := exc == 2 || exc == 3
      let r' : XdcRun := { r with
        srcA := a && !r.offA, srcB := b && !r.offB, onA := if r.srcA then r.onA else s.clockFtu, onB := if r.srcB then r.onB else s.clockFtu
        offA := r.offA || (r.srcA && !a), offB := r.offB || (r.srcB && !b) }
      restartEntry { s1 with xdc := { s1.xdc with run := some r' } }
    else s1

/-- A tick counts toward the next pass (R162); a new period lets every slot accept again (R166). -/
def tickXdc (s : Chip) : Chip :=
  if s.xprofile = 0 then s
  else
    let n := (s.xdc.phase + 1) % max 1 (s.fld F.XDC_SEQ_CTL_PERIOD)
    if n = 0 then { s with xdc := { s.xdc with phase := 0, due := true, took := 0 } }
    else { s with xdc := { s.xdc with phase := n } }

/-! ### The commands -/

/-- XDC_PASS_START (R162). -/
def execXdcPassStart (s : State) : Host.Outcome State Fault Refusal := .next { s with chip := passStart s.chip }

/-- XDC_FILTER_RESET (R163). -/
def execXdcFilterReset (s : State) : Host.Outcome State Fault Refusal := .next { s with chip := filterReset s.chip }

/-- XDC_OUTPUT_COMPLETE (R163). -/
def execXdcOutputComplete (v : Int) (limit : Option Bool) (s : State) (xdref : Fin 2000001 := 0) : Host.Outcome State Fault Refusal :=
  .next { s with chip := outputComplete v ((500000 + xdref) * 1000000) limit s.chip }

/-- EXCITATION_PULSE_END (R156). -/
def execExcitationPulseEnd (s : State) : Host.Outcome State Fault Refusal := .next { s with chip := pulseEnd s.chip }

/-- XDC_OPEN (R157). -/
def execXdcOpen (s : State) (tclk : Fin 2 := 0) : Host.Outcome State Fault Refusal := .next { s with chip := complianceOpen tclk s.chip }

end Sys2Proof.Machine
end

