-- ==== Sys2Proof/Machine/Streams.lean ====
section
/-! DEFINITION. The stream channels (chapter 10): input, lanes, blocks, the frame budget, and the destinations. -/

namespace Sys2Proof.Machine

/-- The settings of a channel for data of configuration age k; none while it is not active (R251, R253 to R255, R273). -/
def Chip.streamCfg (s : Chip) (k n : Nat) : Option StreamCfg :=
  let f := fun (x : Nat → Fld) => s.fldAt k (x n)
  let src := f F.CMP_CH_CFG_SRC
  let coder := if f F.CMP_CH_CFG_CODER = 3 then 0 else f F.CMP_CH_CFG_CODER
  let sel := f F.CMP_CH_SEL_SEL
  let usable := !(coder == 2 && decide (3 < n)) && !(src == 2 && !s.wavEnabled k (sel % 4))
  if s.flagAt k F.CMP_CTL_EN && f F.CMP_CH_CFG_EN == 1 && decide (1 ≤ src) && decide (src ≤ 4) && usable then
    some
      { src := src, sel := sel, coder := coder, xform := f F.CMP_CH_CFG_XFORM == 1, dest := f F.CMP_CH_CFG_DEST
        lanes := if coder = 1 && src ≤ 2 then 2 ^ f F.CMP_CH_CFG_LANES else 1
        level := max 1 (min 9 (f F.CMP_CH_CFG_LEVEL))
        blk := if f F.CMP_CH_CFG_BLKSZ = 0 then 16 else f F.CMP_CH_CFG_BLKSZ
        frames := max 1 (f F.CMP_CH_CFG_BFRAMES), win := f F.CMP_CH_WIN_RESET_BLOCKS }
  else none

/-- A channel is unusable (R255), whether or not it is switched on. -/
def Chip.streamBad (s : Chip) (n : Nat) : Bool :=
  (s.fld (F.CMP_CH_CFG_CODER n) == 2 && decide (3 < n))
    || (s.fld (F.CMP_CH_CFG_SRC n) == 2 && !s.wavEnabled 0 (s.fld (F.CMP_CH_SEL_SEL n) % 4))

/-- A channel. -/
def Chip.stream (s : Chip) (n : Nat) : StreamCh := Table.get ⟨none, 0, []⟩ s.cmp.chans n

/-- Replaces a channel. -/
def setStream (n : Nat) (c : StreamCh) (s : Chip) : Chip := { s with cmp := { s.cmp with chans := Table.set s.cmp.chans n c } }

/-- A lane that has done nothing. -/
def StreamLane.rest : StreamLane := ⟨0, [], none, [], false, false, false, [], 0⟩

/-- A lane of a channel. -/
def Chip.slane (s : Chip) (n l : Nat) : StreamLane := Table.get StreamLane.rest (s.stream n).lanes l

/-- Replaces a lane of a channel. -/
def setSlane (n l : Nat) (x : StreamLane) (s : Chip) : Chip :=
  setStream n { s.stream n with lanes := Table.set (s.stream n).lanes l x } s

/-- The time in 1/8 CCLK. -/
def Chip.time8 (s : Chip) : Nat := 8 * (s.clk.cc + s.clk.cclk)

/-- 1/8 CCLK per word of a coder (R263, R266). The spec gives CODER 0 no rate: it consumes its input at delivery. -/
def StreamCfg.cost (c : StreamCfg) : Nat :=
  match c.coder with
  | 1 => 8
  | 2 => 8 * levelCost c.level
  | _ => 0

/-- Presses the quadrants of a mask (R89). -/
def pressQuadrants (mask : Nat) (s : Chip) : Chip :=
  { s with fb := { s.fb with press := (List.range 4).map fun q => nth false s.fb.press q || mask.testBit q } }

/-- A channel with a hit source reports backlog (R270). -/
def reportBacklog (n : Nat) (c : StreamCfg) (s : Chip) : Chip :=
  if c.src = 1 then pressQuadrants (c.sel % 16) { s with cmp := { s.cmp with backlog := s.cmp.backlog ||| 2 ^ n } } else s

/-! ### Blocks out (R256, R259) -/

/-- Packet type and class of a source (R256). -/
def streamPacket (src : Nat) : Nat × Nat := nth (0x10, 3) [(0x10, 3), (0x10, 3), (0x10, 3), (0x11, 2), (0x12, 2)] src

/-- A block as a content: the three header words and its payload (R259). -/
def Chip.blockWords (s : Chip) (n l : Nat) (o : StreamOut) : List W64 :=
  [w64 (place 32 32 o.bseq ||| place 5 27 s.addr ||| place 4 23 n ||| place 3 20 l ||| place 2 18 o.kind
      ||| place 2 16 (o.cfg.src - 1) ||| place 16 0 o.flags),
   w64 (place 32 32 o.raw ||| place 32 0 o.payload.length), w64 (frameWord o.frame ||| place 8 0 o.epoch)] ++ packBytes o.payload

/-- A block takes its space in CSTAGE, and is offered to its destinations; none where it does not fit. -/
def emitBlock (n l : Nat) (o : StreamOut) (s : Chip) : Option Chip :=
  let ws := s.blockWords n l o
  let ring := o.cfg.dest % 2 = 1
  let store := decide (2 ≤ o.cfg.dest)
  match putQueue 8 ws 0 0 0 ((if ring then [Reader.ring] else []) ++ if store then [Reader.store] else []) (addBacklog 3 (8 * ws.length) s) with
  | none => none
  | some (id, s1) =>
    let s2 := s1.bump (F.CMP_CH_BLOCKS_COUNT n)
    let s3 := s2.bumpBy (F.CMP_CH_OUT_COUNT n) o.payload.length
    let s4 := if o.flags.testBit 15 then s3.bump (F.CMP_CH_NOGAIN_COUNT n) else s3
    let s5 := if ring then
        sendContent (streamPacket o.cfg.src).1 (streamPacket o.cfg.src).2 (.stream n id) n ws false s4
      else s4
    some (if store then handStore ⟨1, 8, id, s.clk.frame, false⟩ s5 else s5)

/-- Blocks that wait leave in order while CSTAGE has room (R269). The wait takes its time from the lane's frame: a lane that was found
waiting works on from the time at which its last block leaves. -/
def flushLane (n l : Nat) : Nat → Chip → Chip
  | 0, s => s
  | fuel + 1, s =>
    match (s.slane n l).outq with
    | [] => s
    | o :: rest =>
      match emitBlock n l o s with
      | none => reportBacklog n o.cfg (setSlane n l { s.slane n l with waits := true } s)
      | some t =>
        let x := t.slane n l
        let y := if rest.isEmpty then { x with outq := [], waits := false, busy := if x.waits then max x.busy t.time8 else x.busy }
          else { x with outq := rest }
        flushLane n l fuel (setSlane n l y t)

/-! ### Coding (R258, R264 to R268, R272) -/

/-- The buffer of a lane's coder in memory 11: its first word and its size (R264, R266, R379). Dictionary coder d holds one
segment, window coder w its window and a segment. -/
def Chip.coderBuffer (s : Chip) (n l : Nat) (c : StreamCfg) : Option (Nat × Nat) :=
  match c.coder with
  | 1 => ((List.range 16).find? fun d => s.flag (F.CMP_DICT_OWNER_USED d) && s.fld (F.CMP_DICT_OWNER_CH d) == n).map
      fun d => (512 * ((d + l) % 16), 512)
  | 2 => some (8192 + 4608 * (n % 4), 4608)
  | _ => none

/-- A word enters the buffer of its coder. -/
def bufferWord (n l pos : Nat) (c : StreamCfg) (w : W64) (s : Chip) : Chip :=
  match s.coderBuffer n l c with
  | some (base, size) => memWrite 11 (base + pos % size) 255 w.toNat s
  | none => s

/-- The last words of a lane as its coder reads them back from its buffer (R390): coded as read; the second value holds the indices of
the poisoned ones. -/
def bufferRead (n l pos : Nat) (c : StreamCfg) (ws : List W64) (s : Chip) : List W64 × List Nat × Chip :=
  match s.coderBuffer n l c with
  | none => (ws, [], s)
  | some (base, size) =>
    let m := min ws.length size
    let r := (List.range m).foldl (fun (acc : List W64 × List Nat × Chip) i =>
      let (d, bad, t) := memRead 11 (base + (pos - m + i) % size) acc.2.2
      (acc.1 ++ [w64 d], acc.2.1 ++ (if bad then [ws.length - m + i] else []), t)) ([], [], s)
    (ws.take (ws.length - m) ++ r.1, r.2.1, r.2.2)

/-- Poisoned words consumed (R272). -/
def notePoison (n : Nat) (s : Chip) : Chip :=
  if n = 0 then s else raise EV.CMP_POISON (s.bumpBy F.CMP_POISON_CNT_COUNT n)

/-- The blocks that a coder makes of one block (R253, R258, R264, R265): KIND, payload, RAWLEN and NO_GAIN of each. -/
def codedParts (b : StreamBlk) (old words : List W64) : List (Nat × List Nat × Nat × Bool) :=
  let raw := words.flatMap wordBytes
  match b.cfg.coder with
  | 1 => (dictBlocks raw).map fun o => (o.1, o.2.1, o.2.2, o.1 == 0)
  | 2 =>
    let r := deflate (old.flatMap wordBytes) raw (fun p => nth raw.length b.limits (p / 8)) b.cfg.level
    [(2, r.1, raw.length, r.2)]
  | _ => [(0, raw, raw.length, false)]

/-- Frame and epoch of a byte of a block (R259). -/
def StreamBlk.at_ (b : StreamBlk) (byte : Nat) : Nat × Nat :=
  (b.starts.filter fun x => decide (8 * x.1 ≤ byte)).foldl (fun _ x => x.2) (b.frame, b.epoch)

/-- The stream blocks of the parts of a block, in order, with what the next one starts from: the first BSEQ, the blocks since the last
WRESET, and the first byte. `bad` are the poisoned words, `first` tells the first part, and `drop` that input was dropped after the block. -/
def numberParts (b : StreamBlk) (fresh drop : Bool) (bad : List Nat) :
    Bool → Nat → Nat → Nat → List (Nat × List Nat × Nat × Bool) → List StreamOut × Nat
  | _, _, since, _, [] => ([], since)
  | first, bseq, since, byte, o :: rest =>
    let w := if first then fresh else b.cfg.win != 0 && decide (b.cfg.win ≤ since + 1)
    let hit := bad.any fun i => decide (byte ≤ 8 * i) && decide (8 * i < byte + o.2.2.1)
    let flags := place 1 15 (b2n o.2.2.2) ||| place 1 14 (b2n hit) ||| place 1 13 (b2n (b.cfg.xform && decide (b.cfg.src ≤ 3)))
      ||| place 1 12 (b2n w) ||| place 1 11 (b2n (drop && rest.isEmpty)) ||| place 1 10 (b2n (b.newcfg && first))
    let r := numberParts b fresh drop bad false ((bseq + 1) % 2 ^ 32) (if w then 0 else since + 1) (byte + o.2.2.1) rest
    (⟨b.cfg, bseq, (b.at_ byte).1, (b.at_ byte).2, o.1, o.2.1, o.2.2.1, flags⟩ :: r.1, r.2)

/-- A lane's open block closes (R258): it is coded, numbered, and leaves if CSTAGE has room. A window that no match reaches any more is not
read. A poisoned word of the window counts as the first of the block that reads it (R272). -/
def closeBlock (n l : Nat) (drop : Bool) (s : Chip) : Chip :=
  let x := s.slane n l
  match x.open_ with
  | none => s
  | some b =>
    let since := (s.stream n).since
    let fresh := b.wreset || (b.cfg.win != 0 && decide (b.cfg.win ≤ since + 1))
    let hist := if fresh then [] else x.hist
    let (all, found, s0) := bufferRead n l x.pos b.cfg (hist ++ b.words) s
    let old := all.take hist.length
    let words := all.drop hist.length
    let bad := b.bad ++ found.map (· - hist.length)
    let outs := codedParts b old words
    let coded := numberParts b fresh drop bad true (s.fld (F.CMP_CH_BSEQ_NEXT n)) since 0 outs
    let keep := if b.cfg.coder = 2 then (old ++ words).drop ((old ++ words).length - 4096) else []
    let y := { x with open_ := none, outq := x.outq ++ coded.1, wreset := x.wreset || drop || !bad.isEmpty, hist := keep }
    let s1 := setSlane n l y (setStream n { s0.stream n with since := coded.2 } s0)
    let s2 := s1.setFld (F.CMP_CH_BSEQ_NEXT n) ((s1.fld (F.CMP_CH_BSEQ_NEXT n) + outs.length) % 2 ^ 32)
    flushLane n l y.outq.length (notePoison found.length s2)

/-! ### Consumption (R258, R263, R266, R269) -/

/-- The words of the input queue that had been delivered by a time, beyond the first unit. -/
def deliveredBy (t : Nat) (us : List StreamIn) : Nat := ((us.filter fun u => decide (u.time ≤ t)).map fun u => u.words.length).sum

/-- The region that holds what a source reads: FRAME or RECORD; a history has no readers (R93). -/
def srcRegion (src : Nat) : Nat := if src = 3 then 7 else 0

/-- A channel has finished with the object of a unit (R93). -/
def leaveUnit (n : Nat) (u : StreamIn) (s : Chip) : Chip :=
  match u.obj with
  | some id => doneReading (srcRegion u.cfg.src) id (.stream n) s
  | none => s

/-- The words of a unit from the words of the store that it is read from (R251, R254): header word 1 carries what was rewritten at the
delivery, and a lane of a waveform source takes its own samples. -/
def StreamIn.assemble (u : StreamIn) (rs : List W64) : List W64 :=
  let r1 := (nth 0#64 rs 1).toNat
  let d1 := (nth 0#64 u.words 1).toNat
  match u.cfg.src with
  | 1 => [rs.headD 0#64, w64 ((r1 - place 16 32 (bits r1 47 32)) ||| place 16 32 (bits d1 47 32))] ++ rs.drop 2
  | 2 => [rs.headD 0#64, w64 (place 32 32 (bits d1 63 32) ||| place 12 20 (bits r1 31 20) ||| place 20 0 (bits d1 19 0))] ++
      samplesWords ((((rs.drop 2).flatMap wordSamples).drop u.skip).take (bits d1 63 32))
  | _ => rs

/-- The record transform of a unit (R260). -/
def StreamIn.transform (u : StreamIn) (ws : List W64) : List W64 :=
  if !u.cfg.xform then ws
  else match u.cfg.src with
  | 1 => ws.take 2 ++ hitRun 0 (ws.drop 2)
  | 2 =>
    let ns := bits (nth 0#64 ws 1).toNat 63 32
    ws.take 2 ++ samplesWords (sampleDeltas ns 0 (((ws.drop 2).flatMap wordSamples).take ns))
  | 3 => recordTransform ws
  | _ => ws

/-- The words of a unit that hold a word of the store: a word of shifted samples holds parts of two. -/
def StreamIn.places (u : StreamIn) (i : Nat) : List Nat :=
  if u.cfg.src = 2 && decide (2 ≤ i) && u.skip != 0 then (if i = 2 then [2] else [i - 1, i]) else [i]

/-- A coder reads a unit from the store as it takes its first word (R272, R390; DESIGN CHOICE, notes/assumptions/55). -/
def readUnit (u : StreamIn) (s : Chip) : StreamIn × Chip :=
  if !u.unread then (u, s)
  else if u.src.isEmpty then ({ u with words := u.transform u.words, unread := false }, s)
  else
    let (rs, bad, s1) := readStore u.src s
    let ws := u.transform (u.assemble rs)
    ({ u with words := ws, unread := false, bad := (bad.flatMap u.places).filter fun i => decide (i < ws.length) }, s1)

/-- A lane takes k words of its first input unit. -/
def takeWords (n l k start : Nat) (s0 : Chip) : Chip :=
  let x := s0.slane n l
  match x.inq with
  | [] => s0
  | u0 :: rest =>
    let (u, s) := readUnit u0 s0
    let b := x.open_.getD
      { words := [], limits := [], cfg := u.cfg, frame := u.frame, epoch := u.epoch, starts := [], newcfg := x.newcfg
        wreset := x.wreset, bad := [], since := u.due }
    let fresh := x.open_.isNone
    let part := u.words.take k
    let hit := u.bad.filter fun i => decide (i < k)
    let limits := (List.range part.length).map fun i =>
      8 * (b.words.length + u.words.length + deliveredBy (start + i * u.cfg.cost) rest)
    let b' := { b with
      words := b.words ++ part, limits := b.limits ++ limits, bad := b.bad ++ hit.map (b.words.length + ·)
      starts := b.starts ++ [(b.words.length, u.frame, u.epoch)] }
    let u' := { u with words := u.words.drop k, bad := (u.bad.filter fun i => decide (k ≤ i)).map (· - k) }
    let y := { x with
      busy := start + part.length * u.cfg.cost, inq := u' :: rest, open_ := some b', pos := x.pos + part.length
      newcfg := x.newcfg && !fresh, wreset := x.wreset && !fresh }
    let s1 := (setSlane n l y s).bumpBy (F.CMP_CH_IN_COUNT n) (8 * part.length)
    let s2 := ((List.range part.length).zip part).foldl (fun s p => bufferWord n l (x.pos + p.1) u.cfg p.2 s) s1
    notePoison hit.length s2

/-- Words that a lane may take of a unit from a time on, with room for `room` words in its block: all it has time for by now. -/
def Chip.wordsNow (s : Chip) (u : StreamIn) (start room : Nat) : Nat :=
  if u.cfg.cost = 0 then (if start ≤ s.time8 then min u.words.length room else 0) else min ((s.time8 - start) / u.cfg.cost) room

/-- A lane works up to now: it consumes what its rate allows and closes what is due. A lane that waits for CSTAGE consumes
nothing. -/
def runLane (n l : Nat) : Nat → Chip → Chip
  | 0, s => s
  | fuel + 1, s =>
    let x := s.slane n l
    match x.outq, x.inq with
    | [], u :: rest =>
      if u.words.isEmpty then
        -- a hit or waveform source delivers once in a frame, so its unit ends the frame's input
        let ends := match x.open_ with
          | some b => decide (u.cfg.src ≤ 2) && (!b.bad.isEmpty || decide (b.cfg.frames ≤ u.due + 1 - b.since))
          | none => false
        let s1 := setSlane n l { x with inq := rest } (leaveUnit n u s)
        runLane n l fuel (if ends then closeBlock n l false s1 else s1)
      else match x.open_ with
      | some b =>
        if b.cfg != u.cfg then runLane n l fuel (closeBlock n l false s)
        else if 512 * b.cfg.blk ≤ b.words.length then runLane n l fuel (closeBlock n l false s)
        else
          let start := max x.busy u.time
          let k := s.wordsNow u start (512 * b.cfg.blk - b.words.length)
          if k = 0 then s else runLane n l fuel (takeWords n l k start s)
      | none =>
        let start := max x.busy u.time
        let k := s.wordsNow u start (512 * u.cfg.blk)
        if k = 0 then s else runLane n l fuel (takeWords n l k start s)
    | [], [] =>
      match x.open_ with
      | some b => if 512 * b.cfg.blk ≤ b.words.length then closeBlock n l false s else s
      | none => s
    | _, _ => s

/-- Fuel for the work of a lane. -/
def Chip.laneFuel (s : Chip) (n l : Nat) : Nat := (((s.slane n l).inq.map fun u => 3 + u.words.length)).sum + 8

/-- A lane works up to now. -/
def workLane (n l : Nat) (s : Chip) : Chip := if s.domainUp 7 then runLane n l (s.laneFuel n l) s else s

/-- The numbers of the lanes of a channel. -/
def Chip.laneNumbers (s : Chip) (n : Nat) : List Nat := (s.stream n).lanes.map Prod.fst

/-- Every open block of a channel closes, and the next ones carry NEWCFG and WRESET (R257). -/
def newSettings (n : Nat) (key : Option StreamCfg) (s : Chip) : Chip :=
  let s1 := forAll (s.laneNumbers n) (closeBlock n · false) s
  let s2 := forN 8 (fun l s => setSlane n l { s.slane n l with newcfg := true, wreset := true } s) s1
  setStream n { s2.stream n with key := key } s2

/-! ### Input (R252, R254, R260) -/

/-- A unit reaches a lane of a channel under its settings. Its coder can read it when the arbiter has served what goes before coders
(R95). -/
def deliverUnit (n l : Nat) (c : StreamCfg) (frame epoch : Nat) (obj : Option Nat) (ws : List W64) (src : List Nat) (skip : Nat)
    (s : Chip) : Chip :=
  let s1 := if (s.stream n).key = some c then s else newSettings n (some c) s
  let x := s1.slane n l
  let time := s.time8 + 8 * s.storeWait 3
  let u : StreamIn :=
    { words := ws, src := src, skip := skip, unread := true, obj := obj, bad := [], cfg := c, frame := frame, epoch := epoch
      due := s.clk.ticks, time := time }
  let s2 := addBacklog 3 (8 * src.length) (setSlane n l { x with inq := x.inq ++ [u] } s1)
  let todo := ((x.inq ++ [u]).map fun v => v.words.length * v.cfg.cost).sum
  let late := decide (8 * (s.clk.cc + s.frameCclk) < max x.busy time + todo)
  workLane n l (if late then reportBacklog n c s2 else s2)

/-- The stream channels that read a closed frame from FRAME, once for each of their lanes (R93). -/
def Chip.hitReaders (s : Chip) (k : Nat) : List Reader :=
  if !s.domainUp 7 then []
  else (List.range 16).flatMap fun n =>
    match s.streamCfg k n with
    | some c => if c.src = 1 then List.replicate c.lanes (.stream n) else []
    | none => []

/-- The stream channels that read a record of an output from RECORD. -/
def Chip.recordReaders (s : Chip) (out : Nat) : List Reader :=
  if !s.domainUp 7 then []
  else (List.range 16).flatMap fun n =>
    match s.streamCfg 0 n with
    | some c => if c.src = 3 && c.sel.testBit out then [.stream n] else []
    | none => []

/-- A closed frame reaches the hit sources (R251, R252, R254): `id` is its object in FRAME and `ws` its words, k the age of its settings. -/
def streamHits (k frame epoch id : Nat) (ws : List W64) (s : Chip) : Chip :=
  if !s.domainUp 7 then s
  else forN 16 (fun n s =>
    match s.streamCfg k n with
    | some c =>
      if c.src != 1 then s
      else
        let h0 := ws.headD 0#64
        let h1 := (nth 0#64 ws 1).toNat
        let at_ := s.objWords 0 (s.findObj 0 id)
        let mine := ((ws.drop 2).zip (at_.drop 2)).filter fun w => (c.sel % 16).testBit (quadrantOf (hitRow w.1.toNat) (hitCol w.1.toNat))
        forN c.lanes (fun l s =>
          let part := mine.filter fun w => hitCol w.1.toNat / 8 * c.lanes / 32 == l
          let head := [h0, w64 ((h1 - place 16 32 (bits h1 47 32)) ||| place 16 32 part.length)]
          deliverUnit n l c frame epoch (some id) (head ++ part.map Prod.fst) (at_.take 2 ++ part.map Prod.snd) 0 s) s
    | none => s) s

/-- A WHIST block reaches the waveform sources of its channel (R252, R254). -/
def streamWave (k ch frame epoch : Nat) (ws : List W64) (s : Chip) : Chip :=
  if !s.domainUp 7 then s
  else forN 16 (fun n s =>
    match s.streamCfg k n with
    | some c =>
      if c.src != 2 || c.sel % 4 != ch then s
      else
        let h0 := ws.headD 0#64
        let h1 := (nth 0#64 ws 1).toNat
        let ns := bits h1 63 32
        let samples := ((ws.drop 2).flatMap wordSamples).take ns
        let m := ceilDiv ns c.lanes
        let at_ := s.objWords (2 + ch) (s.newestObj (2 + ch))
        let step := modePeriod (s.fldAt k F.WAV_CTL_MODE) * 2 ^ bits h0.toNat 2 0
        forN c.lanes (fun l s =>
          let part := (samples.drop (l * m)).take m
          let head := [h0, w64 (place 32 32 part.length ||| place 20 0 (bits h1 19 0 + l * m * step))]
          let from_ := at_.take 2 ++ ((at_.drop 2).drop (l * m / 4)).take (ceilDiv (l * m % 4 + part.length) 4)
          deliverUnit n l c frame epoch none (head ++ samplesWords part) from_ (l * m % 4) s) s
    | none => s) s

/-- A record chunk or header-only copy reaches the record sources that take its output (R252): `id` is its object in RECORD. -/
def streamRecord (out : Nat) (id : Option Nat) (ws : List W64) (s : Chip) : Chip :=
  let at_ := (s.objWords 7 (id.bind (s.findObj 7))).take ws.length
  if !s.domainUp 7 then s
  else forN 16 (fun n s =>
    match s.streamCfg 0 n with
    | some c =>
      if c.src != 3 || !c.sel.testBit out then s
      else
        deliverUnit n 0 c s.frameNow (s.fld F.CMD_EPOCH_ACTIVE % 256) id ws at_ 0 s
    | none => s) s

/-- An XHIST entry of a KIND reaches the result sources as it is written (R252). -/
def streamResult (kind : Nat) (ws : List W64) (s : Chip) : Chip :=
  if !s.domainUp 7 then s
  else forN 16 (fun n s =>
    match s.streamCfg 0 n with
    | some c =>
      if c.src != 4 || !c.sel.testBit (kind - 1) then s
      else deliverUnit n 0 c s.frameNow (s.fld F.CMD_EPOCH_ACTIVE % 256) none ws (s.objWords 6 (s.newestObj 6)) 0 s
    | none => s) s

/-! ### Ticks (R255, R258, R269, R270) -/

/-- What a lane has not consumed by the tick that ends the frame of its delivery is dropped (R269). -/
def dropUnconsumed (n l : Nat) (s : Chip) : Chip :=
  let x := s.slane n l
  let left := (x.inq.map fun u => u.words.length).sum
  let s := forAll x.inq (leaveUnit n) s
  if left = 0 then setSlane n l { x with inq := [] } s
  else
    let s1 := setSlane n l { x with inq := [] } (s.bumpBy (F.CMP_CH_DROP_COUNT n) left)
    let s2 := closeBlock n l true s1
    raise EV.CMP_DROP (setSlane n l { s2.slane n l with wreset := true } s2)

/-- The end of a frame's input for the open block of a lane (R258, R272). -/
def endFrameInput (n l : Nat) (s : Chip) : Chip :=
  match (s.slane n l).open_ with
  | some b => if !b.bad.isEmpty || b.cfg.frames + b.since ≤ s.clk.ticks then closeBlock n l false s else s
  | none => s

/-- The channels at the end of a frame, before the rate reducer looks at its pressure (R89): the input of the frame is consumed or dropped.
Blocks that the tick finds due close in ascending lane order. -/
def endStreams (s : Chip) : Chip :=
  let s1 := forN 16 (fun n s => forAll (s.laneNumbers n) (fun l s =>
    endFrameInput n l (dropUnconsumed n l (workLane n l s))) s) s
  let s2 := s1.setFld F.CMP_STAT_BACKLOG s1.cmp.backlog
  { s2 with cmp := { s2.cmp with backlog := 0 } }

/-- The settings of a channel that the input at this tick comes under (R257): those of the frame that closes for hit and waveform sources,
those in force for the others. -/
def Chip.streamNow (s : Chip) (n : Nat) (key : StreamCfg) : Option StreamCfg := s.streamCfg (if key.src ≤ 2 then 2 else 0) n

/-- The channels as a frame starts, before new input arrives: at a change of settings every open block closes (R257), and a lane that waits
for CSTAGE reports backlog from the frame's first CCLK on (R270). -/
def tickStreams (s : Chip) : Chip :=
  let s1 := forN 16 (fun n s =>
    match (s.stream n).key with
    | some key => if s.streamNow n key = some key then s else newSettings n none s
    | none => s) s
  forN 16 (fun n s => forAll (s.laneNumbers n) (fun l s =>
    match (s.slane n l).outq with
    | o :: _ => reportBacklog n o.cfg s
    | [] => s) s) s1

/-- A commit took effect (R253, R255): coders are bound, and unusable channels announced. -/
def streamsCommit (s : Chip) : Chip :=
  let owners := (List.range 16).flatMap fun n =>
    match s.streamCfg 0 n with
    | some c => if c.coder = 1 then List.replicate c.lanes n else []
    | none => []
  let s1 := forN 16 (fun d s =>
    (s.setFlag (F.CMP_DICT_OWNER_USED d) (decide (d < owners.length))).setFld (F.CMP_DICT_OWNER_CH d) (nth 0 owners d)) s
  let bad := (List.range 16).foldl (fun v n => v ||| place 1 n (b2n (s1.streamBad n))) 0
  let fresh := bad &&& (65535 - s1.fld F.CMP_STAT_CFG_ERR) != 0
  cond fresh (raise EV.CMP_CFG_ERR) (s1.setFld F.CMP_STAT_CFG_ERR bad)

/-- The CMP domain is reset (R419): open blocks and input are discarded; the next block of every lane carries WRESET. BSEQ
stands. -/
def resetStreams (s0 : Chip) : Chip :=
  let s := forN 16 (fun n s => forAll (s.laneNumbers n) (fun l s => forAll (s.slane n l).inq (leaveUnit n) s) s) s0
  { s with cmp := { chans := s.cmp.chans.map fun e =>
      (e.1, { e.2 with lanes := (List.range 8).map fun l => (l, { StreamLane.rest with wreset := true }) }), backlog := 0 } }

/-! ### The commands -/

/-- STREAM_BLOCK_CLOSE (R258): a lane works up to now and closes what is due. -/
def execStreamBlockClose (ch : Fin 16) (lane : Fin 8) (s : State) : Host.Outcome State Fault Refusal :=
  .next { s with chip := workLane ch lane s.chip }

/-- A lane that waits for CSTAGE tries again, and works on (R269). -/
def laneRoom (n l : Nat) (s : Chip) : Chip :=
  if s.domainUp 7 then workLane n l (flushLane n l (s.slane n l).outq.length s) else s

/-- CSTAGE_ROOM (R269). -/
def execCstageRoom (ch : Fin 16) (lane : Fin 8) (s : State) : Host.Outcome State Fault Refusal :=
  .next { s with chip := laneRoom ch lane s.chip }

/-- XDC_RESULT (R171, R252): the result and, where it wrote an XHIST entry, the stream channels. -/
def resultToStreams (s : Chip) : Chip :=
  match resultOut s with
  | (some ws, t) => streamResult 1 ws t
  | (none, t) => t

/-- XDC_RESULT (R171). -/
def execXdcResult (s : State) : Host.Outcome State Fault Refusal := .next { s with chip := resultToStreams s.chip }

end Sys2Proof.Machine
end

