-- ==== Sys2Proof/Machine/Tip.lean ====
section
/-! DEFINITION. Time inputs, interval channels and pulse outputs (chapter 07). -/

namespace Sys2Proof.Machine

/-! ### Results (R186, R193 to R195) -/

/-- Channel k. -/
def Chip.tip (s : Chip) (k : Nat) : TipCh :=
  Table.get ⟨0, none, none, 0, 0, 0, 0, 0, [], 0, 0, 0, 0, 0, 0, false, 0⟩ s.tips k

/-- Replaces channel k. -/
def setTip (k : Nat) (c : TipCh) (s : Chip) : Chip := { s with tips := Table.set s.tips k c }

/-- The set of a channel starts empty. -/
def TipCh.noSet (c : TipCh) : TipCh := { c with setN := 0, s1 := 0, s2 := 0, mn := 0, mx := 0, setTunc := false, setLast := 0 }

/-- A channel that starts afresh at a time: no edge before it counts (R188, R189, R192, R194). -/
def TipCh.restart (c : TipCh) (t : Nat) : TipCh :=
  TipCh.noSet { c with begun := t, armed := none, prev := none, gate0 := t, gateN := 0, edges := 0, tFirst := 0, tLast := 0, ahead := [] }

/-- The floor of the square root, bit by bit from bit n down. -/
def isqrtFrom : Nat → Nat → Nat → Nat
  | 0, _, r => r
  | n + 1, x, r => isqrtFrom n x (if (r + 2 ^ n) * (r + 2 ^ n) ≤ x then r + 2 ^ n else r)

/-- isqrt of R193; its argument stays below 2^200. -/
def isqrt (x : Nat) : Nat := isqrtFrom 100 x 0

/-- A 64-bit register pair set. -/
def setPair (lo hi : Fld) (v : Nat) (s : Chip) : Chip := (s.setFld lo (v % 2 ^ 32)).setFld hi (v / 2 ^ 32 % 2 ^ 32)

/-- A time input is terminated by 100 Ω across its pair (R182): in LVDS with TERM = 1. -/
def Chip.tiTerminated (s : Chip) (n : Nat) : Bool := !s.flag (F.TIP_TI_CFG_STD n) && s.flag (F.TIP_TI_CFG_TERM n)

/-- An entry is written to XHIST and reaches the stream channels (R172, R195, R252). -/
def writeXhist (kind time : Nat) (ws : List W64) (s : Chip) : Chip :=
  let s1 := putHistory true 6 ws (time / frameFtu) time time (addBacklog 1 (8 * ws.length) s)
  if s.historyFits 6 ws.length then streamResult kind ws s1 else s1

/-- Words 0 and 1 of an entry (R195). -/
def tipHead (k typ len time flags rseq : Nat) : List W64 :=
  [w64 (frameWord (time / frameFtu) ||| place 4 4 2 ||| len),
   w64 (place 20 44 (time % frameFtu) ||| place 2 42 k ||| place 3 39 typ ||| place 16 16 flags ||| place 16 0 rseq)]

/-- N of the statistics (R193). -/
def Chip.setSize (s : Chip) (k : Nat) : Nat := min (2 ^ 24) (s.fld (F.TIP_CH_NSTAT_N k))

/-- A set completes (R193, R194). -/
def completeSet (k time : Nat) (c : TipCh) (s : Chip) : Chip :=
  let n := c.setN
  let mean := 256 * c.s1 / (n : Int)
  let var := (n : Int) * (c.s2 : Int) - c.s1 * c.s1
  let dev := isqrt (65536 * var.toNat) / n
  let s1 := setPair (F.TIP_CH_MEAN_LO_MEAN k) (F.TIP_CH_MEAN_HI_MEAN k) (unsext 64 mean) s
  let s2 := s1.setFld (F.TIP_CH_DEV_DEV k) (satTo 32 dev)
  let s3 := setPair (F.TIP_CH_MIN_LO_MIN k) (F.TIP_CH_MIN_HI_MIN k) (unsext 64 c.mn) s2
  let s4 := setPair (F.TIP_CH_MAX_LO_MAX k) (F.TIP_CH_MAX_HI_MAX k) (unsext 64 c.mx) s3
  let s5 := (s4.setFld (F.TIP_CH_STAT_N_N k) n).bump (F.TIP_CH_STATS_COUNT k)
  let s6 := if s.flagAt (s.ageOf (time / frameFtu)) (F.TIP_CH_CTL_SHIST k) then
      let t := s5.bump (F.TIP_CH_RESULTS_COUNT k)
      writeXhist 2 time (tipHead k 4 6 time (place 1 8 (b2n c.setTunc)) (t.fld (F.TIP_CH_RESULTS_COUNT k)) ++
        [w64 (unsext 64 mean), w64 (place 24 40 (n - 1) ||| satTo 40 dev), w64 (unsext 64 c.mn), w64 (unsext 64 c.mx)]) t
    else s5
  raise EV.TI_STAT_DONE (setTip k c.noSet s6)

/-- A result joins the statistics of an INTERVAL or PERIOD channel (R193). -/
def addToSet (k time : Nat) (v : Int) (s : Chip) : Chip :=
  let size := s.setSize k
  if size = 0 then s
  else
    let c := s.tip k
    let d : TipCh :=
      { c with setN := c.setN + 1, s1 := c.s1 + v, s2 := c.s2 + (v * v).toNat
               mn := if c.setN = 0 then v else min c.mn v, mx := if c.setN = 0 then v else max c.mx v
               setTunc := c.setTunc || s.tunc (time / frameFtu), setLast := time / frameFtu }
    if size ≤ d.setN then completeSet k time d s else setTip k d s

/-- A result of a channel (R186, R195, R202): `typ` is its MODE; `n` and `gate` belong to FREQUENCY. The settings are those of the frame of
its TIME (R26), and an entry counts where one is made. -/
def tipResult (k typ : Nat) (v : Int) (time : Nat) (subRes noEdge : Bool) (n gate : Nat) (s : Chip) : Chip :=
  let hist := s.flagAt (s.ageOf (time / frameFtu)) (F.TIP_CH_CTL_HIST k)
  let s1 := setPair (F.TIP_CH_LAST_LO_VALUE k) (F.TIP_CH_LAST_HI_VALUE k) (unsext 64 v) (cond hist (·.bump (F.TIP_CH_RESULTS_COUNT k)) s)
  let flags := place 1 15 (b2n subRes) ||| place 1 14 (b2n noEdge) ||| place 1 8 (b2n (s.tunc (time / frameFtu)))
  let s2 := if hist then
      writeXhist 2 time (tipHead k typ 4 time flags (s1.fld (F.TIP_CH_RESULTS_COUNT k)) ++
        [w64 (unsext 64 v), w64 (place 32 32 n ||| gate)]) s1
    else s1
  let s3 := if typ < 2 then addToSet k time v s2 else s2
  measureResult 5 k time v s3

/-! ### Edges (R182 to R184, R186 to R192) -/

/-- A channel is usable (R191): the inputs that its START and STOP name are enabled, whatever its MODE. -/
def Chip.tipUsable (s : Chip) (k : Nat) : Bool :=
  s.flag (F.TIP_TI_CFG_EN (s.fld (F.TIP_CH_CTL_START k))) && s.flag (F.TIP_TI_CFG_EN (s.fld (F.TIP_CH_CTL_STOP k)))

/-- A channel makes results now (R191, R192). -/
def Chip.tipOn (s : Chip) (k : Nat) : Bool :=
  s.domainUp 5 && s.flag (F.TIP_CH_CTL_EN k) && s.tipUsable k && !s.flag F.TIM_STAT_STEP_HOLD

/-- An edge selection takes an edge. -/
def takesEdge (e : Nat) (rising : Bool) : Bool := edgeSel e == 2 || (edgeSel e == 0) == rising

/-- A stop edge of an INTERVAL channel (R187). -/
def stopEdge (k t : Nat) (s : Chip) : Chip :=
  let c := s.tip k
  match c.armed with
  | some a =>
    if t < a then s.bump (F.TIP_CH_STOP_EARLY_COUNT k)
    else
      let s1 := setTip k { c with armed := none } s
      let s2 := if t = a then s1.bump (F.TIP_CH_SUB_RES_COUNT k) else s1
      tipResult k 0 ((t : Int) - (a : Int)) t (t == a) false 0 0 s2
  | none => s.bump (F.TIP_CH_STOP_EARLY_COUNT k)

/-- A start edge of an INTERVAL channel (R187). -/
def startEdge (k t : Nat) (s : Chip) : Chip :=
  let c := s.tip k
  let s1 := if c.armed.isSome then s.bump (F.TIP_CH_REARM_COUNT k) else s
  setTip k { c with armed := some t } s1

/-- GATE of a FREQUENCY channel (R189). -/
def Chip.tipGate (s : Chip) (k : Nat) : Nat := max 1 (s.fld (F.TIP_CH_GATE_FRAMES k))

/-- The end of the gate of a FREQUENCY channel, which is not of it (R29, R189). -/
def Chip.tipGateEnd (s : Chip) (k : Nat) : Nat := (s.tip k).gate0 + s.tipGate k * frameFtu

/-- A selected edge of a FREQUENCY channel (R189): it counts in the gate that holds its stamp; one of a gate that is over counts in none. -/
def gateEdge (stop : Nat) (c : TipCh) (t : Nat) : TipCh :=
  if t < c.gate0 then c
  else if stop ≤ t then { c with ahead := c.ahead ++ [t] }
  else { c with edges := c.edges + 1, tFirst := if c.edges = 0 then t else c.tFirst, tLast := t }

/-- The stamp or the armed stamp of a channel times out at a time (R187, R188): TMO frames without a stop, or without an edge, have passed
before it. -/
def Chip.tipExpired (s : Chip) (k t : Nat) : Bool :=
  let c := s.tip k
  let tmo := s.fld (F.TIP_CH_TMO_FRAMES k)
  tmo != 0 && match c.armed.or c.prev with
    | some a => decide (a + tmo * frameFtu ≤ t)
    | none => false

/-- The channel forgets its stamp (R187, R188). -/
def expireTip (k : Nat) (s : Chip) : Chip :=
  raise EV.TI_TIMEOUT ((setTip k { s.tip k with armed := none, prev := none } s).bump (F.TIP_CH_TIMEOUT_COUNT k))

/-- Channel k takes an edge (R186 to R190): 0 of its START, 1 of both, 2 of its STOP. A timeout that fell before the edge comes first. -/
def takeEdge (k : Nat) (e : Nat × Nat) (s0 : Chip) : Chip :=
  let t := e.1
  let s := if s0.tipExpired k t then expireTip k s0 else s0
  let c := s.tip k
  match s.fld (F.TIP_CH_CTL_MODE k) with
  | 0 => cond (decide (e.2 < 2)) (startEdge k t) (cond (decide (0 < e.2)) (stopEdge k t) s)
  | 1 =>
    let s1 := setTip k { c with prev := some t } s
    match c.prev with
    | some p => tipResult k 1 ((t : Int) - (p : Int)) t false false 0 0 s1
    | none => s1
  | 2 => setTip k (gateEdge (s.tipGateEnd k) c t) s
  | _ =>
    let m := (c.count + 1) % 2 ^ 64
    tipResult k 3 (m : Nat) t false false 0 0 (setTip k { c with count := m } s)

/-- What an edge is to channel k: 0 an edge of its START, 1 of both, 2 of its STOP; STOP plays a part in INTERVAL only. -/
def Chip.edgeRole (s : Chip) (k n : Nat) (rising : Bool) : Option Nat :=
  let start := s.fld (F.TIP_CH_CTL_START k) == n && takesEdge (s.fld (F.TIP_CH_CTL_SEDGE k)) rising
  let stop := s.fld (F.TIP_CH_CTL_MODE k) == 0 && s.fld (F.TIP_CH_CTL_STOP k) == n && takesEdge (s.fld (F.TIP_CH_CTL_PEDGE k)) rising
  if start && stop then some 1 else if start then some 0 else if stop then some 2 else none

/-- Time input n. -/
def Chip.ti (s : Chip) (n : Nat) : TiIn := Table.get ⟨0, none, none, []⟩ s.tis n

/-- Replaces time input n. -/
def setTi (n : Nat) (x : TiIn) (s : Chip) : Chip := { s with tis := Table.set s.tis n x }

/-- Inserts an edge of a channel in ascending stamp order; of equal stamps a start edge goes first, then one that is both (R186). -/
def insertEdge (e : Nat × Nat) : List (Nat × Nat) → List (Nat × Nat)
  | [] => [e]
  | x :: xs => if e.1 < x.1 || (e.1 == x.1 && e.2 < x.2) then e :: x :: xs else x :: insertEdge e xs

/-- The waiting edges that channel k takes, with stamps from its beginning on and before a time, in the order in which it takes them. -/
def Chip.channelEdges (s : Chip) (k : Nat) (upto : Int) : List (Nat × Nat) :=
  ((List.range 8).flatMap fun n => (s.ti n).queue.filterMap fun e =>
    if (e.1 : Int) < upto && (s.tip k).begun ≤ e.1 then (s.edgeRole k n e.2).map fun r => (e.1, r) else none).foldl (fun l e => insertEdge e l) []

/-- Channel k takes its waiting edges with stamps before a time (R186). -/
def channelTakes (upto : Int) (k : Nat) (s : Chip) : Chip :=
  if s.tipOn k then forAll (s.channelEdges k upto) (takeEdge k) s else s

/-- Times before this one have no edge any more that is still to be stamped: DELAY is all that a stamp can lie before its edge (R184). -/
def Chip.tiHorizon (s : Chip) : Int :=
  let delay := fun (k n : Nat) => if s.flagAt k (F.TIP_TI_CFG_EN n) then sext 16 (s.fldAt k (F.TIP_TI_DELAY_FTU n)) else -32768
  let top := (List.range 8).foldl (fun m n => max m (max (delay 0 n) (delay 1 n))) (-32768)
  (s.now : Int) - top

/-- Every channel takes its edges in ascending stamp order (R186): those with stamps that no later edge can precede (DEDUCED,
notes/assumptions/30). -/
def drainTips (s : Chip) : Chip :=
  let h := s.tiHorizon
  if (List.range 8).any fun n => (s.ti n).queue.any fun e => decide ((e.1 : Int) < h) then
    forN 8 (fun n s => setTi n { s.ti n with queue := (s.ti n).queue.filter fun e => decide (h ≤ (e.1 : Int)) } s)
      (forN 4 (channelTakes h) s)
  else s

/-- Before a commit that changes the settings of a channel, it takes its waiting edges of the frames before the tick under the old ones
(R26). -/
def settleTips (s : Chip) : Chip :=
  forN 4 (fun k s =>
    let ctl : Fld := ⟨0x60100 + 128 * k, 0, 32, true⟩
    if fieldOf s.regs.active ctl = fieldOf s.regs.shadow ctl then s else channelTakes ((s.clk.frame * frameFtu : Nat) : Int) k s) s

/-- What the prescaler makes of an edge at the pin (R183): an output edge with its direction, and the count after it. -/
def prescale (p : Nat) (count : Nat) (rising : Bool) : Option Bool × Nat :=
  let d := 2 ^ min 8 p
  if d = 1 then (some rising, 0)
  else if !rising then (none, count)
  else (if count = 0 then some true else if count = d / 2 then some false else none, (count + 1) % d)

/-- 28 ns in FTU (R184). -/
def busyFtu : Nat := 9175

/-- An edge of the prescaler output (R184): lost while its converter is busy, otherwise stamped, with the tables and the DELAY of the frame
that its stamp falls in (R26), and delivered: to TIN conditions and urgent slots at once, to the interval channels in stamp order. -/
def stampEdge (n : Nat) (rising : Bool) (tclk f1 f2 : Nat) (s : Chip) : Chip :=
  let x := s.ti n
  let here := s.clockFtu + 256 * tclk + 16 * f1 + f2
  let last := if rising then x.lastR else x.lastF
  let busy := match last with | some t => decide (here < t + busyFtu) | none => false
  if busy then raise EV.TI_EDGE_LOST (s.bump (F.TIP_TI_LOST_COUNT n))
  else
    let s0 := setTi n (if rising then { x with lastR := some here } else { x with lastF := some here }) s
    let conv := 4096 + 2 * n + b2n (!rising)
    let at_ := fun (k : Nat) =>
      let (b, _, s2) := fineTime k (0x30000 + 64 * n + 32 * b2n (!rising)) f1 f2 s0
      ((((s.now + 256 * tclk + b : Nat) : Int) - sext 16 (s.fldAt k (F.TIP_TI_DELAY_FTU n))).toNat, s2)
    let (t, s2) := at_ (((List.range 3).find? fun k => s.ageOf ((at_ k).1 / frameFtu) == k).getD 0)
    let s1 := calEdge conv f1 f2 (t / frameFtu) s2
    let s3 := urgentFrom 1 n (triggerEdge n rising t s1)
    setTi n { s3.ti n with queue := (s3.ti n).queue ++ [(t, rising)] } s3

/-- TI_EDGE (R182 to R184, R213): an edge at the pin of input n, or, for a disabled input while TICD runs, an edge of the
internal oscillator. -/
def tiEdge (n : Nat) (rising : Bool) (tclk f1 f2 : Nat) (s : Chip) : Chip :=
  if !s.domainUp 5 then s
  else if !s.flag (F.TIP_TI_CFG_EN n) then
    calEdge (4096 + 2 * n + b2n (!rising)) f1 f2 s.clk.frame s
  else
    let (e, c) := prescale (s.fld (F.TIP_TI_CFG_PRESC n)) (s.ti n).count rising
    let s1 := setTi n { s.ti n with count := c } s
    match e with
    | some r => stampEdge n r tclk f1 f2 s1
    | none => s1

/-- TI_TIMEOUT (R187, R188): TMO frames without a stop, or without an edge. -/
def tiTimeout (k : Nat) (s : Chip) : Chip :=
  if s.tipExpired k s.tiHorizon.toNat then expireTip k s else s

/-- FREQUENCY_GATE_END (R189): a gate of GATE frames has ended, and no edge with a stamp in it is still to come. -/
def gateEnd (k : Nat) (s : Chip) : Chip :=
  let c := s.tip k
  let stop := s.tipGateEnd k
  if s.tipOn k && s.fld (F.TIP_CH_CTL_MODE k) == 2 && decide (s.tipGate k ≤ c.gateN) && decide ((stop : Int) ≤ s.tiHorizon) then
    let d : TipCh := { c with gate0 := stop, gateN := c.gateN - s.tipGate k, edges := 0, tFirst := 0, tLast := 0, ahead := [] }
    let s1 := setTip k (c.ahead.foldl (gateEdge (stop + s.tipGate k * frameFtu)) d) s
    let v := if c.edges < 2 then 0 else c.tLast - c.tFirst
    let time := if c.edges = 0 then stop - frameFtu else c.tLast
    tipResult k 2 (v : Nat) time false (decide (c.edges < 2)) c.edges (s.tipGate k) s1
  else s

/-! ### Pulse outputs (R196 to R199) -/

/-- Replaces pulse output j. -/
def setPo (j : Nat) (x : PoSt) (s : Chip) : Chip := { s with pos := Table.set s.pos j x }

/-- Drives the pin of a pulse output. -/
def drivePo (j : Nat) (level : Bool) (s : Chip) : Chip := { s with pins := { s.pins with po := s.pins.po.set j level } }

/-- PERIOD of a pulse output in steps. -/
def Chip.poPeriod (s : Chip) (j : Nat) : Nat := s.fld (F.TIP_PO_PERIOD_LO_STEPS j) + 2 ^ 32 * s.fld (F.TIP_PO_PERIOD_HI_STEPS j)

/-- WIDTH in steps; below 64 acts as 64. -/
def Chip.poWidth (s : Chip) (j : Nat) : Nat := max 64 (s.fld (F.TIP_PO_CTL_WIDTH j))

/-- The schedule of an output is usable (R199). -/
def Chip.poUsable (s : Chip) (j : Nat) : Bool :=
  decide (s.fld (F.TIP_PO_TIME1_TIME j) ≤ 999999999)
    && !(s.flag (F.TIP_PO_CTL_PERIODIC j) && decide (s.poPeriod j ≤ s.poWidth j + 64))

/-- The start of pulse i in FTU (R196). -/
def Chip.poStart (s : Chip) (j i : Nat) : Int :=
  let sec := s.fld (F.TIP_PO_TIME2_TIME j) + 2 ^ 32 * s.fld (F.TIP_PO_TIME3_TIME j)
  let t0 := ofTime128 sec (s.fld (F.TIP_PO_TIME1_TIME j)) (bits (s.fld (F.TIP_PO_TIME0_TIME j)) 31 16)
  ((t0 / 16 * 16 + 16 * (if s.flag (F.TIP_PO_CTL_PERIODIC j) then i * s.poPeriod j else 0) : Nat) : Int)
    - 16 * sext 16 (s.fld (F.TIP_PO_DELAY_STEPS j))

/-- The first pulse whose start lies at or after a time. A once-only schedule has no pulse after pulse 0: 1 stands for none. -/
def Chip.poFirst (s : Chip) (j t : Nat) : Nat :=
  let a := s.poStart j 0
  if (t : Int) ≤ a then 0
  else if s.flag (F.TIP_PO_CTL_PERIODIC j) then ceilDiv ((t : Int) - a).toNat (16 * s.poPeriod j)
  else 1

/-- Pulses before number n are skipped: one occasion where any was left (R197, R198). -/
def skipTo (j n : Nat) (s : Chip) : Chip :=
  let x := s.po j
  if !x.live || n ≤ x.next then s
  else
    let live := s.flag (F.TIP_PO_CTL_PERIODIC j)
    raise EV.PO_MISSED ((setPo j { x with next := n, live := live } s).bump (F.TIP_PO_MISSED_COUNT j))

/-- A new schedule (R196, R197): it replaces the old one; a pulse in progress completes. -/
def newSchedule (j : Nat) (s : Chip) : Chip :=
  let x := s.po j
  let live := s.flag (F.TIP_PO_CTL_EN j) && s.poUsable j
  let s1 := setPo j { x with live := live, next := 0, fired := 0 } s
  let s2 := skipTo j (s.poFirst j (s.now + frameFtu)) s1
  if x.on.isSome then s2 else drivePo j (s.flag (F.TIP_PO_CTL_POL j)) s2

/-- A schedule has pulses left: the one pulse of a once-only schedule, or fewer than COUNT fired. -/
def Chip.poLeft (s : Chip) (j : Nat) : Bool :=
  let x := s.po j
  if s.flag (F.TIP_PO_CTL_PERIODIC j) then
    s.fld (F.TIP_PO_COUNT_COUNT j) == 0 || decide (x.fired < s.fld (F.TIP_PO_COUNT_COUNT j))
  else x.next == 0 && x.fired == 0

/-- PULSE_START (R196, R198): the next pulse of a running schedule is due. A standby fires nothing. -/
def pulseStart (j : Nat) (s : Chip) : Chip :=
  let x := s.po j
  let t := s.poStart j x.next
  if !s.domainUp 5 || s.standby || !x.live || !s.poLeft j || x.on.isSome || (s.now : Int) + 511 < t then s
  else
    let pol := s.flag (F.TIP_PO_CTL_POL j)
    let periodic := s.flag (F.TIP_PO_CTL_PERIODIC j)
    let count := s.fld (F.TIP_PO_COUNT_COUNT j)
    let done := periodic && count != 0 && decide (count ≤ x.fired + 1)
    let y : PoSt :=
      { on := some (pol, t.toNat + 16 * s.poWidth j), live := periodic && !done, next := x.next + 1, fired := x.fired + 1 }
    let s1 := (drivePo j (!pol) (setPo j y s)).bump (F.TIP_PO_FIRED_COUNT j)
    cond done (raise EV.PO_DONE) s1

/-- PULSE_END (R196): the pulse has reached its width; the pin takes the idle level of the schedule in force. -/
def pulseEndOut (j : Nat) (s : Chip) : Chip :=
  match (s.po j).on with
  | some (_, t) =>
    if t ≤ s.now + 511 then drivePo j (s.flag (F.TIP_PO_CTL_POL j)) (setPo j { s.po j with on := none } s) else s
  | none => s

/-- The output is driven from now on (R406): pulses that do not meet the lead of R197 are skipped. -/
def driveFrom (j : Nat) (s : Chip) : Chip := if s.poLeft j then skipTo j (s.poFirst j (s.now + frameFtu)) s else s

/-- The pulse outputs of a standby or of a device that ceases to be one at this tick (R397, R398, R404, R408): `old` is the chip
before the tick. -/
def trackPulses (old s : Chip) : Chip :=
  forN 8 (fun j s =>
    if s.standby then
      let s1 := drivePo j (s.flag (F.TIP_PO_CTL_POL j)) (setPo j { s.po j with on := none } s)
      if old.pair.lastMir = s.pair.lastMir then s1
      else setPo j { s1.po j with next := max (s1.po j).next (s1.poFirst j s.now) } s1
    else if old.standby then driveFrom j s
    else s) s

/-- PAIR_TAKEOVER (R406, R399): at the tick that ended the 32nd missed frame, or at the first one after a HANDOVER, a standby becomes the
active from the frame that the tick started. -/
def takeOver (s : Chip) : Chip :=
  if s.standby && s.pair.due then
    let c := min 65535 (max s.claim (s.fld F.PAIR_PARTNER_CLAIM) + 1)
    let s1 := (s.setFld F.PAIR_STAT_ROLE 1).setFlag F.PAIR_STAT_COLD (!s.flag F.PAIR_STAT_SYNC)
    let s2 := setClaim c { s1 with
      pair := { s1.pair with due := false }
      fb := { s1.fb with cur := s1.fb.cur.map fun a => { a with passive := false } } }
    raise EV.PAIR_TAKEOVER (forN 8 driveFrom (s2.bump F.PAIR_TAKEOVER_CNT_COUNT))
  else s

/-! ### FTO (R201) -/

/-- FTO_RISE: the network-time start of a frame whose index is a multiple of 2^DIV. A frame that a step entered after its start
has none (R19). -/
def ftoRise (s : Chip) : Chip :=
  if !s.rst.porst && !s.rst.supply && s.flag F.TIP_FTO_CTL_EN && s.clk.everLock && s.clk.counting && s.clk.cclk == 0
      && !(s.clk.steppedIn && decide (512 ≤ s.clk.residual))
      && frameIdx s.clk.frame % 2 ^ min 8 (s.fld F.TIP_FTO_CTL_DIV) == 0 then
    { s with pins := { s.pins with fto := true } }
  else s

/-- FTO_FALL: 1.6 µs after the start of the frame, or 2.4 µs at index 0 with SEC_MARK. -/
def ftoFall (s : Chip) : Chip :=
  let mark := s.flag F.TIP_FTO_CTL_SEC_MARK && frameIdx s.clk.frame == 0
  if (if mark then 1536 else 1024) ≤ s.clk.cclk then { s with pins := { s.pins with fto := false } } else s

/-! ### Commits and ticks -/

/-- A commit took effect (R183, R189 to R191, R194, R196, R199, R201). A channel whose selection of edges changes starts afresh; its edge count
runs on while its mode stands (DEDUCED, notes/assumptions/30). -/
def tipCommit (old s : Chip) : Chip :=
  let word := fun (a : Nat) => decide (fieldOf old.regs.active ⟨a, 0, 32, true⟩ ≠ fieldOf s.regs.active ⟨a, 0, 32, true⟩)
  let d := fun (f : Fld) => decide (old.fld f ≠ s.fld f)
  let s1 := forN 8 (fun n s =>
    if d (F.TIP_TI_CFG_EN n) || d (F.TIP_TI_CFG_PRESC n) then setTi n { s.ti n with count := 0 } s else s) s
  let s2 := forN 4 (fun k s =>
    let c := s.tip k
    let mode := d (F.TIP_CH_CTL_EN k) || d (F.TIP_CH_CTL_MODE k)
    if mode || d (F.TIP_CH_CTL_START k) || d (F.TIP_CH_CTL_STOP k) || d (F.TIP_CH_CTL_SEDGE k) || d (F.TIP_CH_CTL_PEDGE k) then
      setTip k (TipCh.restart { c with count := if mode then 0 else c.count } (s.clk.frame * frameFtu)) s
    else if word (0x60100 + 128 * k) || word (0x60104 + 128 * k) then setTip k c.noSet s
    else s) s1
  let s3 := forN 8 (fun j s =>
    if (List.range 11).any fun i => i != 8 && i != 9 && word (0x60400 + 64 * j + 4 * i) then newSchedule j s else s) s2
  let bad := fun (n : Nat) (p : Nat → Bool) => (List.range n).foldl (fun v i => v ||| place 1 i (b2n (p i))) 0
  let ch := bad 4 fun k => s3.flag (F.TIP_CH_CTL_EN k) && !s3.tipUsable k
  let po := bad 8 fun j => s3.flag (F.TIP_PO_CTL_EN j) && !s3.poUsable j
  let fresh := ch &&& (15 - s3.fld F.TIP_CFG_ERR_CH) != 0 || po &&& (255 - s3.fld F.TIP_CFG_ERR_PO) != 0
  let s4 := cond fresh (raise EV.TI_CFG_ERR) ((s3.setFld F.TIP_CFG_ERR_CH ch).setFld F.TIP_CFG_ERR_PO po)
  if s4.flag F.TIP_FTO_CTL_EN then s4 else { s4 with pins := { s4.pins with fto := false } }

/-- One tick (R189, R192, R198): gates count, with the network time that a step gives them; in step hold, and at the tick that ends it,
channels forget; a forward step skips the pulses it passed over. -/
def tickTip (wasHold stepped : Bool) (s : Chip) : Chip :=
  let hold := wasHold || s.flag F.TIM_STAT_STEP_HOLD
  let s1 := forN 4 (fun k s =>
    let c := s.tip k
    if hold then setTip k (c.restart (s.clk.frame * frameFtu)) s
    else setTip k { c with gateN := c.gateN + 1, gate0 := if stepped then (s.clk.frame - c.gateN - 1) * frameFtu else c.gate0 } s) s
  if stepped then forN 8 (fun j s => skipTo j (s.poFirst j s.now) s) s1 else s1

/-! ### The commands -/

/-- TI_EDGE (R184). -/
def execTiEdge (n : Fin 8) (rising : Bool) (tclk : Fin 2) (f1 f2 : Fin 16) (s : State) : Host.Outcome State Fault Refusal :=
  .next { s with chip := tiEdge n rising tclk f1 f2 s.chip }

/-- TI_TIMEOUT (R187). -/
def execTiTimeout (k : Fin 4) (s : State) : Host.Outcome State Fault Refusal := .next { s with chip := tiTimeout k s.chip }

/-- FREQUENCY_GATE_END (R189). -/
def execFrequencyGateEnd (k : Fin 4) (s : State) : Host.Outcome State Fault Refusal := .next { s with chip := gateEnd k s.chip }

/-- PULSE_START (R196). -/
def execPulseStart (j : Fin 8) (s : State) : Host.Outcome State Fault Refusal := .next { s with chip := pulseStart j s.chip }

/-- PULSE_END (R196). -/
def execPulseEnd (j : Fin 8) (s : State) : Host.Outcome State Fault Refusal := .next { s with chip := pulseEndOut j s.chip }

/-- FTO_RISE (R201). -/
def execFtoRise (s : State) : Host.Outcome State Fault Refusal := .next { s with chip := ftoRise s.chip }

/-- FTO_FALL (R201). -/
def execFtoFall (s : State) : Host.Outcome State Fault Refusal := .next { s with chip := ftoFall s.chip }

end Sys2Proof.Machine
end

