-- ==== Sys2Proof/Machine/Clock.lean ====
section
/-! DEFINITION. The local clock between two ticks (R12, R17, R95, R309), and a step of network time at a tick (R18, R19). -/

namespace Sys2Proof.Machine

/-- n CCLK pass inside a frame: the buckets gain, the acquisition store serves its requesters, kept hits enter the merged
stream, and interval channels take their edges. -/
def passCclk (n : Nat) (s : Chip) : Chip :=
  let s1 := newCycle { s with clk := { s.clk with cclk := s.clk.cclk + n } }
  if s.up then
    let s2 := gainTokens n s1
    drainTips <| mergeDue { s2 with store := { s2.store with backlog := serve (248 * n) s2.store.backlog } }
  else s1

/-- One CCLK with no command (DESIGN CHOICE, see notes/assumptions/3): the clock moves on, up to the last CCLK of the frame. Without
a frame in progress nothing moves. -/
def idleCclk (s : Chip) : Chip :=
  if s.clk.counting && decide (s.clk.cclk + 1 < s.frameCclk) then passCclk 1 s else s

/-- Units of network time in a frame. -/
def frameUnits : Nat := frameFtu * unitsPerFtu

/-- One step of network time (R334 to R336). A result below second 0 is cut to it. -/
def TimeStep.apply (u : Nat) : TimeStep → Nat
  | .setTo t => t * unitsPerFtu
  | .shift d => ((u : Int) + d * (unitsPerFtu : Nat)).toNat
  | .follow e => ((u : Int) - e * 2048).toNat / unitsPerFtu * unitsPerFtu

/-- A slip of the frame that ended after n CCLK is counted and announced (R18). A stepped-in frame has the length that its step
gave it. -/
def noteSlip (n : Nat) (steppedIn : Bool) (s : Chip) : Chip :=
  if steppedIn || n = 2048 then s
  else raise EV.FRAME_SLIP (s.bump (if n < 2048 then F.TIM_SLIP_CNT_SHORT else F.TIM_SLIP_CNT_LONG))

/-- The frame in progress would repeat an identity or go back behind one that was emitted (R19). -/
def Chip.inStepHold (s : Chip) : Bool :=
  match s.clk.lastEmit with
  | some l => decide (s.clk.frame ≤ l)
  | none => false

/-- The time base at a local frame tick (R17 to R20): `n` CCLK of the old frame have passed when the new one starts. The first
tick after lock starts frame (0, 0). -/
def moveTick (n : Nat) (s : Chip) : Chip :=
  let c := s.clk
  let u := c.tick + n * s.unitsPerCclk
  let stepped := c.counting && !c.pendSteps.isEmpty
  let u' := if c.counting then c.pendSteps.foldl TimeStep.apply u else c.tick
  let f := if !c.counting then c.frame else if stepped then u' / frameUnits else c.frame + 1
  let c' : Clk := { c with
    tick := u', cc := c.cc + n, cclk := 0, frame := f, ticks := c.ticks + 1, counting := true,
    lastFrame := c.frame, residual := (u' - f * frameUnits) / unitsPerFtu, steppedIn := stepped, pendSteps := if c.counting then [] else c.pendSteps
    tstep := c.tstep || stepped }
  let s1 := { s with clk := c', net := { s.net with everSet := s.net.everSet || stepped } }
  let s2 := s1.setFlag F.TIM_STAT_STEP_HOLD s1.inStepHold
  if stepped then raise EV.TIME_STEP s2 else s2

end Sys2Proof.Machine
end

