-- ==== Sys2Proof/Machine/CalRun.lean ====
section
/-! DEFINITION. The calibration engine (chapter 08): runs, results, their application, quiet windows and ramps. -/

namespace Sys2Proof.Machine

/-! ### Units -/

/-- Enabled parterres. -/
def Chip.enabledPrts (s : Chip) : List Nat := (List.range 1024).filter fun p => s.flag (F.PRT_CTL_EN p)

/-- The lowest unmasked PIX of a parterre at or above one; 64: none. -/
def Chip.nextPix (s : Chip) (p from_ : Nat) : Nat :=
  ((List.range 64).find? fun i => decide (from_ ≤ i) && !(s.pixLatch (pixKey (rowOf p i) (colOf p i))).testBit 6).getD 64

/-- The converters TDCCD calibrates: those of the enabled TDCs of enabled parterres. -/
def Chip.tdcUnits (s : Chip) : List Nat :=
  s.enabledPrts.flatMap fun p => (List.range 4).filterMap fun v => if s.tdcEnabled p (v / 2) then some (4 * p + v) else none

/-- The converters of the time inputs. -/
def ticdUnits : List Nat := (List.range 16).map (4096 + ·)

/-- The knots TWFIT may refit (R215): 1 to 64 outside the reference band. -/
def Chip.knotUnits (s : Chip) : List Nat := (List.range 65).filter fun j => decide (1 ≤ j) && !s.inRef (64 * j)

/-- Samples of a converter. -/
def Chip.convN (s : Chip) (c : Nat) : Nat := (Table.get ConvCnt.empty s.cal.conv c).n

/-- Every unit of a procedure has collected its data (R205). -/
def Chip.calComplete (s : Chip) (i : Nat) : Bool :=
  match i with
  | 0 => s.enabledPrts.all fun p => (s.probe p).pix == 64
  | 1 => s.tdcUnits.all fun c => decide (s.tdcM ≤ s.convN c)
  | 2 => s.knotUnits.all fun j => decide (max 1 (s.fld F.CAL_TW_CFG_MINPAIRS) ≤ (Table.get (0, 0) s.cal.pairs j).2)
  | 3 => s.enabledPrts.all fun p => decide (max 1 (s.fld F.CAL_ECAL_HITS_HITS) ≤ (Table.get (0, 0) s.cal.ecal p).2)
  | 4 => s.enabledPrts.all fun p => (s.pulsePrt p).pix == 64
  | 6 => ticdUnits.all fun c => decide (s.ticdM ≤ s.convN c)
  | 7 => decide (s.apFrames * s.waveUnits.length ≤ s.cal.apAge)
  | _ => false

/-! ### Starting (R204, R216) -/

/-- ECAL cannot run with its parameters (R216). -/
def Chip.ecalBad (s : Chip) : Bool :=
  let line := s.fld F.CAL_ECAL_LINE_LINE
  let lo := s.fld F.CAL_ECAL_WIN_WLO
  let hi := s.fld F.CAL_ECAL_WIN_WHI
  let prts := s.enabledPrts
  let outside := prts.countP fun p =>
    let g := s.fld (F.PRT_GAIN_G p)
    !(decide (4096 * lo ≤ line * g) && decide (line * g < 4096 * hi))
  line == 0 || decide (hi ≤ lo) || decide (prts.length < 2 * outside)

/-- RUNNING of a procedure, in both registers (R226, R227). -/
def showRunning (i : Nat) (b : Bool) (s : Chip) : Chip :=
  (s.setFlag (F.CAL_P_STAT_RUNNING i) b).setBit F.CAL_STAT_RUNNING i b

/-- PENDING of a procedure, in both registers. -/
def showPending (i : Nat) (b : Bool) (s : Chip) : Chip :=
  (s.setFlag (F.CAL_P_STAT_PENDING i) b).setBit F.CAL_STAT_PENDING i b

/-- The search of the lowest unmasked pixel of a parterre at or above one begins (R209). -/
def freshProbe (p from_ : Nat) (s : Chip) : Probe := ⟨s.nextPix p from_, -1, 64, 0, 0⟩

/-- A procedure has no data (R206). -/
def clearData (i : Nat) (s : Chip) : Chip :=
  let lo := fun (d : CalDatum) => match d.item with | .code c _ _ => decide (c < 4096) | .hit _ => false
  let hi := fun (d : CalDatum) => match d.item with | .code c _ _ => decide (4096 ≤ c) | .hit _ => false
  let c := s.cal
  match i with
  | 0 =>
    { s with cal := { c with
        probes := s.enabledPrts.map fun p => (p, (freshProbe p 0 s))
        edges := [] } }
  | 1 => { s with cal := { c with conv := c.conv.filter fun e => decide (4096 ≤ e.1), inj := [], waiting := c.waiting.filter fun d => !lo d } }
  | 2 => { s with cal := { c with pairs := [], mates := [] } }
  | 3 => { s with cal := { c with ecal := [], recent := [] } }
  | 4 =>
    { s with cal := { c with
        pulses := s.enabledPrts.map fun p => (p, (⟨s.nextPix p 0, 0, 0, none, none, 0, 0, 0⟩ : PulsePrt))
        offs := [] } }
  | 6 => { s with cal := { c with conv := c.conv.filter fun e => decide (e.1 < 4096), waiting := c.waiting.filter fun d => !hi d } }
  | 7 => { s with cal := { c with apAge := 0, steps := [] } }
  | _ => s

/-- A run begins at a tick (R204), or the run is CONFIG (R216). -/
def beginRun (i : Nat) (s : Chip) : Chip :=
  let x := s.calProc i
  let s0 := setProc i { x with start := false } s
  if !x.start || x.run then s0
  else if i = 3 && s.ecalBad then
    raise EV.CAL_INCOMPLETE ((setProc i { x with start := false, since := 0 } s).setFld (F.CAL_P_STAT_RESULT 3) 5)
  else showRunning i true (clearData i (setProc i { x with start := false, run := true, age := 0, fallback := false } s0))

/-- A start is asked for (R204); a procedure that runs already is not affected. SLICE has no runs. -/
def askStart (i : Nat) (s : Chip) : Chip :=
  if i = 5 || (s.calProc i).run || !s.flag F.CAL_CTL_EN || !s.domainUp 6 then s else setProc i { s.calProc i with start := true } s

/-- The foreground fall-back of SLICE (R220) begins at the next tick. -/
def askExt (s : Chip) : Chip :=
  if s.flag F.CAL_SLICE_CFG_EXT && s.flag F.CAL_CTL_EN && s.domainUp 6 && s.cal.ext.isNone then
    { s with cal := { s.cal with ext := some 0, extFirst := true, extSeen := false } }
  else s

/-- The channels leave the foreground fall-back (R220): they settle again and return to their pins. -/
def leaveExt (s : Chip) : Chip :=
  showRunning 5 false (forAll s.waveUnits startSettling
    { s with cal := { s.cal with ext := none, extFirst := false, win := [], winFrames := 0 } })

/-- CAL_START with bit 8 at 0: the named procedures start. -/
def startRuns (mask : Nat) (s : Chip) : Chip :=
  cond (mask.testBit 5) askExt (forN 8 (fun i s => if mask.testBit i then askStart i s else s) s)

/-- A run ends ABORTED (R204, R205). -/
def aborted (i : Nat) (s : Chip) : Chip := (s.setFld (F.CAL_P_STAT_RESULT i) 4).bump (F.CAL_P_STAT_RUNS i)

/-- CAL_START with bit 8 at 1: the named runs are aborted (R204), the foreground fall-back of SLICE among them. -/
def abortRuns (mask : Nat) (s : Chip) : Chip :=
  let s1 := forN 8 (fun i s =>
    let x := s.calProc i
    if mask.testBit i && (x.run || x.start) then
      aborted i (showRunning i false (clearData i (setProc i { x with run := false, start := false, since := 0 } s)))
    else s) s
  if mask.testBit 5 && s1.cal.ext.isSome then aborted 5 (leaveExt s1) else s1

/-! ### Results (R205, R210 to R218) -/

/-- Sets a register field to a signed value limited to it, and tells whether the limit acted. -/
def limitTo (lo hi v : Int) : Int × Bool := (max lo (min hi v), decide (v < lo) || decide (hi < v))

/-- A count into 8 bits. -/
def byteSat (n : Nat) : Nat := min 255 n

/-- A figure for which a run has no data: the spec states none, a free value (notes/assumptions/58). -/
def noFigure (f : Fld) (s : Chip) : Chip :=
  let (v, t) := s.drawFree
  t.setFld f (v.toNat % 2 ^ f.w)

/-- THEQ (R210): the targets and the figures of every parterre. -/
def theqResults (s : Chip) : Nat × Bool × Bool × Chip :=
  let es := s.cal.edges
  let seen := es.filter fun e => decide (0 ≤ e.2) && decide (e.2 ≤ 62)
  let n : Int := seen.length
  let sum : Int := (seen.map Prod.snd).sum
  let delta : Int := if seen.isEmpty then 0 else 32 - (2 * sum + n) / (2 * n)
  let targets := seen.map fun e => (e.1, limitTo 0 63 (e.2 + delta))
  let s1 := { s with cal := { s.cal with pendTrim := targets.map fun t => (t.1, t.2.1.toNat) } }
  let of_ := fun (p : Nat) (key : Nat) => parterreOf (key / 256) (key % 256) == p
  let s2 := forAll s.enabledPrts (fun p s =>
    let mine := seen.filter fun e => of_ p e.1
    let m : Int := mine.length
    let sm : Int := (mine.map Prod.snd).sum
    let sq : Int := (mine.map fun e => e.2 * e.2).sum
    let limit := targets.countP (fun t => of_ p t.1 && t.2.2) + es.countP fun e => of_ p e.1 && e.2 == 63
    let unseen := es.countP fun e => of_ p e.1 && e.2 == -1
    let s1 := (s.setFld (F.PRT_EQ_Q_LIMIT p) (byteSat limit)).setFld (F.PRT_EQ_Q_UNSEEN p) (byteSat unseen)
    if mine.isEmpty then noFigure (F.PRT_EQ_Q_EDGE_RMS p) (noFigure (F.PRT_EQ_Q_EDGE_MEAN p) s1)
    else (s1.setFld (F.PRT_EQ_Q_EDGE_MEAN p) (byteSat (4 * sm / m).toNat)).setFld (F.PRT_EQ_Q_EDGE_RMS p)
      (byteSat (isqrtNat (256 * (m * sq - sm * sm)).toNat / mine.length))) s1
  let lacking := seen.isEmpty || es.any (fun e => e.2 == -1) || s.enabledPrts.any fun p => (s.probe p).pix != 64
  (seen.length, lacking, targets.any (fun t => t.2.2) || es.any (fun e => e.2 == 63), s2)
where
  /-- The floor of the square root of a number below 2^80. -/
  isqrtNat (x : Nat) : Nat :=
    (List.range 40).reverse.foldl (fun r b => if (r + 2 ^ b) * (r + 2 ^ b) ≤ x then r + 2 ^ b else r) 0

/-- Writes a byte of the proposal copy. A result clears the poison of a word that it is written to (R391). -/
def proposeByte (a v : Nat) (s : Chip) : Chip :=
  let w := a / 8
  let x := place 8 (8 * (a % 8)) v
  if s.poisoned 6 w then memWrite 6 w 255 (mergeBytes (s.memData 6 w) x (2 ^ (a % 8))) s else memWrite 6 w (2 ^ (a % 8)) x s

/-- The first byte of the tables of a converter (R229). -/
def convBase (c : Nat) : Nat := if c < 4096 then 32 * c else 0x30000 + 32 * (c - 4096)

/-- Sums of the first k elements. -/
def sumBelow (l : List Nat) (k : Nat) : Nat := (l.take k).sum

/-- One converter (R212): its tables are proposed, or rejected; the second value tells which. -/
def converterResult (c m : Nat) (s : Chip) : Bool × Chip :=
  let x := Table.get ConvCnt.empty s.cal.conv c
  let dnl := (x.n1.map fun (v : Nat) => (16 * (256 * (v : Int) - 16 * (m : Int)) / (m : Int)).natAbs).foldl max 0
  let s0 := if c < 4096 then s.setFld ⟨0x20000 + 64 * (c / 4) + 0x28, 8 * (c % 4), 8, false⟩ (byteSat dnl) else s
  let bad := x.n1.any (fun v => decide (256 * v < 8 * m) || decide (24 * m < 256 * v))
    || x.n2.any fun v => decide (64 * v < m) || decide (m < 4 * v)
  if bad then (false, s0)
  else (true, forN 16 (fun k s =>
    proposeByte (convBase c + 16 + k) (min 255 (16 * sumBelow x.n2 k / m))
      (proposeByte (convBase c + k) (min 255 (256 * sumBelow x.n1 k / m)) s)) s0)

/-- TDCCD and TICD (R211 to R213): (units, lacking, rejected, chip); the new units are those whose tables were proposed. -/
def densityResults (i m : Nat) (units : List Nat) (s : Chip) : Nat × Bool × Bool × Chip :=
  let full := units.filter fun c => decide (m ≤ s.convN c)
  let r := full.foldl (fun (acc : List Nat × Chip) c =>
    let (ok, t) := converterResult c m acc.2
    (if ok then acc.1 ++ [c] else acc.1, t)) ([], s)
  let none_ := fun (c : Nat) (s : Chip) => s.setFld ⟨0x20000 + 64 * (c / 4) + 0x28, 8 * (c % 4), 8, false⟩ 255
  let s0 := forAll (units.filter fun c => decide (c < 4096) && decide (s.convN c < m)) none_ r.2
  let s1 := { s0 with cal := { s0.cal with pendTab := Table.set s0.cal.pendTab i r.1 } }
  (r.1.length, decide (full.length < units.length), decide (r.1.length < full.length), s1)

/-- TWFIT (R215). -/
def twResults (s : Chip) : Nat × Bool × Bool × Chip :=
  let need := max 1 (s.fld F.CAL_TW_CFG_MINPAIRS)
  let units := s.knotUnits
  let full := units.filter fun j => decide (need ≤ (Table.get (0, 0) s.cal.pairs j).2)
  let vals := full.map fun j =>
    let x := Table.get (0, 0) s.cal.pairs j
    (j, limitTo (-32768) 32767 (x.1 / (x.2 : Int)))
  let s1 := { s with cal := { s.cal with pendKnot := vals.map fun (v : Nat × Int × Bool) => (v.1, v.2.1) } }
  let s2 := (s1.setFld F.CAL_TW_Q_UPDATED full.length).setFld F.CAL_TW_Q_NODATA (units.length - full.length)
  (full.length, decide (full.length < units.length), vals.any fun v => v.2.2, s2)

/-- ECAL (R216). -/
def ecalResults (s0 : Chip) : Nat × Bool × Bool × Chip :=
  let s := { (forAll s0.cal.recent (fun q s => ecalHit q.2.1.toNat q.2.2 s) s0) with cal :=
    { (forAll s0.cal.recent (fun q s => ecalHit q.2.1.toNat q.2.2 s) s0).cal with recent := [] } }
  let need := max 1 (s.fld F.CAL_ECAL_HITS_HITS)
  let prts := s.enabledPrts
  let full := prts.filter fun p => decide (need ≤ (Table.get (0, 0) s.cal.ecal p).2)
  let vals := full.map fun p =>
    let x := Table.get (0, 0) s.cal.ecal p
    (p, limitTo 3072 5120 (if x.1 = 0 then 5121 else ((4096 * s.fld F.CAL_ECAL_LINE_LINE * x.2 / x.1 : Nat) : Int)))
  let s1 := forAll prts (fun p s =>
    let x := Table.get (0, 0) s.cal.ecal p
    let s1 := if x.2 = 0 then noFigure (F.PRT_ECAL_Q_CENTROID p) s else s.setFld (F.PRT_ECAL_Q_CENTROID p) (satTo 16 (16 * x.1 / x.2))
    s1.setFld (F.PRT_ECAL_Q_COUNT p) (satTo 16 x.2)) s
  let s2 := { s1 with cal := { s1.cal with pendGain := vals.map fun v => (v.1, v.2.1.toNat) } }
  (full.length, decide (full.length < prts.length), vals.any fun v => v.2.2, s2)

/-- PULSE (R218): means as exact rational numbers. -/
def pulseResults (s : Chip) : Nat × Bool × Bool × Chip :=
  let shots := max 1 (s.fld F.CAL_PULSE_CFG_PULSES)
  let good := s.cal.offs.filter fun e => decide (shots ≤ 2 * e.2.2)
  let means := good.map fun e => (e.1, (e.2.1 : Rat) / (e.2.2 : Rat))
  let lawn : Rat := if means.isEmpty then 0 else (means.map Prod.snd).sum / (means.length : Rat)
  let diffs := means.map fun e => (e.1, e.2 - lawn)
  let vals := diffs.map fun e => (e.1, limitTo (-128) 127 (e.2 + 1 / 2).floor)
  let s1 := forAll vals (fun v s => proposeByte (0x20000 + v.1) (unsext 8 v.2.1) s) s
  let s2 := { s1 with cal := { s1.cal with pendTab := Table.set s1.cal.pendTab 4 (vals.map Prod.fst) } }
  let of_ := fun (p : Nat) (key : Nat) => parterreOf (key / 256) (key % 256) == p
  let s3 := forAll s.enabledPrts (fun p s =>
    let q := s.pulsePrt p
    let mine := diffs.filter fun e => of_ p e.1
    let sq : Rat := (mine.map fun e => e.2 * e.2).sum
    let s0 := s.setFld (F.PRT_PTO_Q_LIMIT p) (byteSat (vals.countP fun v => of_ p v.1 && v.2.2))
    let s1 := if mine.isEmpty then noFigure (F.PRT_PTO_Q_RMS p) s0
      else s0.setFld (F.PRT_PTO_Q_RMS p) (byteSat (theqResults.isqrtNat (16 * sq / (mine.length : Rat)).floor.toNat))
    let s2 := if q.det = 0 then noFigure (F.PRT_TP_Q_SCALE p) s1 else s1.setFld (F.PRT_TP_Q_SCALE p) (satTo 16 (16 * q.esum / q.det))
    if q.total = 0 then noFigure (F.PRT_TP_Q_DETECT p) s2
    else s2.setFld (F.PRT_TP_Q_DETECT p) (byteSat (256 * q.det / q.total))) s2
  let probed := (s.enabledPrts.map fun p => (List.range 64).countP fun i =>
    !(s.pixLatch (pixKey (rowOf p i) (colOf p i))).testBit 6).sum
  (good.length, decide (good.length < probed), vals.any fun v => v.2.2, s3)

/-- The crossings of a level in a list of samples (R146): the time of each from sample to sample. -/
def crossingsOf (level : Int) (per : Nat) : List (Int × Int) → List Int
  | a :: b :: rest =>
    let up := decide (a.2 < level) && decide (level ≤ b.2)
    let down := decide (level < a.2) && decide (b.2 ≤ level)
    let q := if up then 256 * (level - a.2) / (b.2 - a.2) else 256 * (a.2 - level) / (a.2 - b.2)
    (if up || down then [a.1 + q * (per : Int) / 256] else []) ++ crossingsOf level per (b :: rest)
  | _ => []

/-- The aperture delay of a channel from the samples of its turn (R221): the step instants less the crossing times in the mean, for 16
steps; none where the samples do not show them. The 50 % level is the middle of the codes (DEDUCED, notes/assumptions/58). -/
def Chip.apOf (s : Chip) (c : Nat) : Option Int :=
  let l := Table.get [] s.cal.steps c
  let codes := l.map Prod.snd
  let level := (codes.foldl max (codes.headD 0) + codes.foldl min (codes.headD 0)) / 2
  let xs := crossingsOf level (modePeriod (s.fld F.WAV_CTL_MODE)) l
  if xs.length != 16 then none
  else some (((List.range 16).zip xs |>.map fun e => ((256 * Config.stepInstant e.1 : Nat) : Int) - e.2).sum / 16)

/-- AP (R221). -/
def apResults (s : Chip) : Nat × Bool × Bool × Chip :=
  let turns := s.waveUnits.take (s.cal.apAge / s.apFrames)
  let vals := turns.filterMap fun c => (s.apOf c).map fun v => (c, limitTo (-32768) 32767 v)
  (vals.length, decide (vals.length < s.waveUnits.length), vals.any fun v => v.2.2,
    { s with cal := { s.cal with pendAp := vals.map fun v => (v.1, v.2.1) } })

/-- The end of a run may come now (R205). -/
def Chip.calEnds (s : Chip) (i : Nat) : Bool :=
  let max_ := max 1 (s.fld (F.CAL_P_MAX_FRAMES i))
  let age := (s.calProc i).age
  s.calRuns i && (s.calComplete i || decide ((if i = 1 then 2 * max_ else max_) ≤ age))

/-- A run used its fall-back (R203, R226): the pulses of R211, TPIN as the reference of PULSE, or oscillator edges for a time input. -/
def Chip.usedFallback (s : Chip) (i : Nat) : Bool :=
  match i with
  | 4 => s.flag F.CAL_PULSE_CFG_SRC
  | 6 => (List.range 8).any fun n => !s.flag (F.TIP_TI_CFG_EN n)
  | _ => (s.calProc i).fallback

/-- CAL_RUN_END (R205, R222). -/
def runEnd (i : Nat) (s : Chip) : Chip :=
  if !s.calEnds i then s
  else
    let (n, lacking, outside, s1) := match i with
      | 0 => theqResults s
      | 1 => densityResults 1 s.tdcM s.tdcUnits s
      | 2 => twResults s
      | 3 => ecalResults s
      | 4 => pulseResults s
      | 6 => densityResults 6 s.ticdM ticdUnits s
      | _ => apResults s
    let code := if outside then 3 else if lacking then 2 else 1
    let x := s1.calProc i
    let auto := s1.flag (F.CAL_P_CTL_AUTO i)
    let s2 := showRunning i false (setProc i { x with run := false, since := 0, pend := true, applyIn := if auto then some 2 else none } s1)
    let s3 := ((showPending i true s2).setFld (F.CAL_P_STAT_RESULT i) code).bump (F.CAL_P_STAT_RUNS i)
    let s4 := s3.setFlag (F.CAL_P_STAT_FALLBACK i) (s.usedFallback i)
    if code = 1 then raise EV.CAL_DONE s4
    else raise EV.CAL_INCOMPLETE (if n = 0 && i = 0 then s4.setFld (F.CAL_P_STAT_RESULT 0) 2 else s4)

/-- CAL_APPLY (R222): whether some named procedure has pending results, and their schedule. -/
def applyRuns (mask : Nat) (s : Chip) : Bool × Chip :=
  let named := (List.range 8).filter fun i => mask.testBit i && (s.calProc i).pend
  (!named.isEmpty, forAll named (fun i s =>
    setProc i { s.calProc i with applyIn := if (s.calProc i).applyIn.isNone then some 2 else (s.calProc i).applyIn } s) s)

/-! ### Engine writes (R224) -/

/-- An engine target is withdrawn. -/
def noteOverride (s : Chip) : Chip := raise EV.CAL_OVERRIDE (s.bump F.CAL_OVERRIDE_CNT_COUNT)

/-- A host write touched bits of a register. -/
def touchedBits (m : SMap 32) (key mask : Nat) : Bool := (m.get key).toNat &&& mask != 0

/-- An engine value for a register field: to both banks, or to the active one only where host software has written the field
since the last commit, or to none where the commit of this tick carries it. The second value tells that the target is
withdrawn. -/
def engineField (f : Fld) (v : Nat) (done : SMap 32) (s : Chip) : Bool × Chip :=
  let mask := place f.w f.lo (2 ^ f.w - 1)
  if touchedBits done f.addr mask then (true, noteOverride s)
  else if touchedBits s.cmd.touched f.addr mask then (true, noteOverride (s.setActive f v))
  else (false, (s.setActive f v).setShadow f v)

/-- Byte a of a table memory. -/
def setTableByte (m a v : Nat) (s : Chip) : Chip := memWrite m (a / 8) (2 ^ (a % 8)) (place 8 (8 * (a % 8)) v) s

/-- Bits of byte a of a table memory: those of a mask take `v`, the others stay. -/
def setTableBits (m a mask v : Nat) (s : Chip) : Chip :=
  let old := bits (s.memData m (a / 8)) (8 * (a % 8) + 7) (8 * (a % 8))
  setTableByte m a ((old - (old &&& mask)) ||| (v &&& mask)) s

/-- An engine value for bits of a byte of a table, active memory `m` and shadow memory `m + 1`. -/
def engineByte (m a bits_ v : Nat) (done : SMap 32) (s : Chip) : Bool × Chip :=
  let key := 0x100000 * (m + 1) + a / 4 * 4
  let mask := bits_ * 2 ^ (8 * (a % 4))
  if touchedBits done key mask then (true, noteOverride s)
  else if touchedBits s.cmd.touched key mask then (true, noteOverride (setTableBits m a bits_ v s))
  else (false, setTableBits (m + 1) a bits_ v (setTableBits m a bits_ v s))

/-- Applies the tables of one converter from the proposal copy, register by register; a poisoned word leaves the unit at its old
values (R390). -/
def applyConverter (i c : Nat) (done : SMap 32) (s : Chip) : Chip :=
  let a := convBase c
  let r := (List.range 4).foldl (fun (acc : List Nat × Bool × Chip) w =>
    let (d, bad, t) := memRead 6 (a / 8 + w) acc.2.2
    (acc.1 ++ (List.range 8).map fun b => bits d (8 * b + 7) (8 * b), acc.2.1 || bad, t)) ([], false, s)
  if r.2.1 then r.2.2.setFld (F.CAL_P_STAT_RESULT i) 3
  else forN 8 (fun w s =>
    let key := 0x500000 + a + 4 * w
    let bytes := fun (m : Nat) (s : Chip) => forN 4 (fun b s => setTableByte m (a + 4 * w + b) (nth 0 r.1 (4 * w + b)) s) s
    if touchedBits done key 0xFFFFFFFF then noteOverride s
    else if touchedBits s.cmd.touched key 0xFFFFFFFF then noteOverride (bytes 4 s)
    else bytes 5 (bytes 4 s)) r.2.2

/-- Applies PTO of one pixel. -/
def applyOffset (key : Nat) (done : SMap 32) (s : Chip) : Chip :=
  let a := 0x20000 + key
  let (d, bad, s1) := memRead 6 (a / 8) s
  if bad then s1.setFld (F.CAL_P_STAT_RESULT 4) 3
  else (engineByte 4 a 255 (bits d (8 * (a % 8) + 7) (8 * (a % 8))) done s1).2

/-- CAL_RESULT_APPLIED (R222, R223): the pending results of a procedure take effect or become the targets of ramps. -/
def applyResults (i : Nat) (done : SMap 32) (s : Chip) : Chip :=
  let x := s.calProc i
  let s0 := (showPending i false (setProc i { x with pend := false, applyIn := none } s)).setFld (F.CAL_P_AGE_FRAMES i) 0
  let tab := Table.get [] s.cal.pendTab i
  match i with
  | 0 => { s0 with cal := { s0.cal with tgtTrim := s0.cal.pendTrim, pendTrim := [] } }
  | 1 | 6 => forAll tab (fun c s => applyConverter i c done s) s0
  | 2 => forAll s.cal.pendKnot (fun v s =>
      let f := if v.1 % 2 = 0 then F.HIT_TW_VEVEN (v.1 / 2) else F.HIT_TW_VODD (v.1 / 2)
      (engineField f (unsext 16 v.2) done s).2) { s0 with cal := { s0.cal with pendKnot := [] } }
  | 3 => { s0 with cal := { s0.cal with tgtGain := s0.cal.pendGain, pendGain := [] } }
  | 4 => forAll tab (fun key s => applyOffset key done s) s0
  | 7 => forAll s.cal.pendAp (fun v s =>
      ((engineField (F.CAL_WAV_AP_FTU v.1) (unsext 16 v.2) done s).2).setFlag (F.CAL_WAV_AP_STALE v.1) false)
      { s0 with cal := { s0.cal with pendAp := [] } }
  | _ => s0

/-! ### Ramps (R223) -/

/-- A value one step of at most `n` nearer to its target. -/
def stepTo (n : Nat) (v t : Int) : Int := if v < t then min t (v + n) else max t (v - n)

/-- One trim step of a pixel. -/
def trimStep (key target : Nat) (s : Chip) : Chip :=
  let (d, bad, s0) := memRead 2 (key / 8) s
  let old := bits d (8 * (key % 8) + 7) (8 * (key % 8))
  let drop := fun (s : Chip) => { s with cal := { s.cal with tgtTrim := s.cal.tgtTrim.filter fun e => e.1 != key } }
  if bad then s0
  else
    let v := (stepTo 1 (old % 64 : Nat) target).toNat
    let (gone, s1) := engineByte 2 key 63 v [] s0
    let s2 := loadLatch (key / 8) s1
    if gone || v = target then drop s2 else s2

/-- CAL_RAMP_STEP (R223): trims and gains move one step. -/
def rampStep (s : Chip) : Chip :=
  if !s.flag F.CAL_CTL_EN || !s.domainUp 6 || s.cal.ramp < max 1 (s.fld F.CAL_RAMP_FRAMES) then s
  else
    let s0 := { s with cal := { s.cal with ramp := 0 } }
    let per := max 1 (s.fld F.CAL_RAMP_PIX)
    let off := s.cal.tgtTrim.filter fun e => s.pixLatch e.1 % 64 != e.2
    let gains := s.cal.tgtGain.any fun e => s.fld (F.PRT_GAIN_G e.1) != e.2
    let s1 := forN 1024 (fun p s =>
      let mine := (List.range 64).filterMap fun i =>
        let key := pixKey (rowOf p i) (colOf p i)
        (off.find? fun e => e.1 == key)
      forAll (mine.take per) (fun e s => trimStep e.1 e.2 s) s) s0
    -- a gain that moves starts the runs that read it again (R206)
    let again := fun (i : Nat) (s : Chip) => if gains && (s.calProc i).run then clearData i s else s
    again 3 <| again 2 <| forAll s1.cal.tgtGain (fun e s =>
      let v := stepTo (max 1 (s.fld F.CAL_RAMP_GSTEP)) (s.fld (F.PRT_GAIN_G e.1) : Nat) (e.2 : Nat)
      let (gone, t) := engineField (F.PRT_GAIN_G e.1) v.toNat [] s
      if gone || v.toNat = e.2 then { t with cal := { t.cal with tgtGain := t.cal.tgtGain.filter fun q => q.1 != e.1 } } else t) s1

/-! ### Quiet windows (R207 to R211, R217) -/

/-- THEQ_DWELL_END (R209). -/
def dwellEnd (p : Nat) (s : Chip) : Chip :=
  let q := s.probe p
  if !s.calRuns 0 || !s.calMay p q.pix || q.frames < max 1 (s.fld F.CAL_THEQ_CFG_DWELL) then s
  else
    let mid := q.trial
    let hit := decide (max 1 (s.fld F.CAL_THEQ_CFG_COUNT) ≤ q.count)
    let lo := if hit then mid else q.lo
    let hi := if hit then q.hi else mid
    if hi - lo > 1 then { s with cal := { s.cal with probes := Table.set s.cal.probes p ⟨q.pix, lo, hi, 0, 0⟩ } }
    else
      { s with cal := { s.cal with
          probes := Table.set s.cal.probes p (freshProbe p (q.pix + 1) s)
          edges := Table.set s.cal.edges (pixKey (rowOf p q.pix) (colOf p q.pix)) lo } }

/-- CAL_TDC_INJECTION (R211): one pulse per quiet frame into the next unmasked pixel of a parterre that lacks samples. -/
def tdcInjection (p : Nat) (s : Chip) : Chip :=
  let lacking := (List.range 4).any fun v => s.tdcUnits.contains (4 * p + v) && decide (s.convN (4 * p + v) < s.tdcM)
  let j := s.tdcPulse p
  let n := s.nextPix p (if j.pix = 64 then 0 else j.pix + 1)
  let pix := if n = 64 then s.nextPix p 0 else n
  if s.quietProc != some 1 || !s.calMay p pix || !lacking || j.at_ == s.clk.ticks + 1 then s
  else { s with cal := { s.cal with inj := Table.set s.cal.inj p ⟨pix, j.pix, s.clk.ticks + 1⟩ } }

/-- CAL_PULSE_INJECTION (R217): one pulse per quiet frame, 1,024 TCLK after the tick. -/
def pulseInjection (p : Nat) (s : Chip) : Chip :=
  let q := s.pulsePrt p
  if s.quietProc != some 4 || !s.calMay p q.pix || q.at_ == s.clk.ticks + 1 || s.clk.cclk < 512
      || max 1 (s.fld F.CAL_PULSE_CFG_PULSES) ≤ q.shots then s
  else
    let t := s.clk.frame * frameFtu + s.clk.residual + 1024 * 256
    let x : PulsePrt := { q with shots := q.shots + 1, at_ := s.clk.ticks + 1, shot := some (q.pix, t), got := none, total := q.total + 1 }
    { s with
      lawn := { s.lawn with charge := some s.calCharge }
      cal := { s.cal with pulses := Table.set s.cal.pulses p x } }

/-- What the quiet-window procedures did in the frame that ended (R209, R217): dwells grow, and pixels that had all their
injections give way to the next ones. -/
def quietFrameEnds (act : Option Nat) (s : Chip) : Chip :=
  match act with
  | some 0 =>
    { s with cal := { s.cal with probes := s.cal.probes.map fun e =>
        (e.1, if s.calMay e.1 e.2.pix then { e.2 with frames := e.2.frames + 1 } else e.2) } }
  | some 4 =>
    let n := max 1 (s.fld F.CAL_PULSE_CFG_PULSES)
    { s with cal := { s.cal with pulses := s.cal.pulses.map fun (e : Nat × PulsePrt) =>
        (e.1, if e.2.pix ≠ 64 ∧ n ≤ e.2.shots then { e.2 with pix := s.nextPix e.1 (e.2.pix + 1), shots := 0 } else e.2) } }
  | _ => s

/-- The injection of PULSE in the frame that ended is as if it had not been made, with what its hit added. -/
def PulsePrt.undo (q : PulsePrt) : PulsePrt :=
  let e := match q.got with | some g => g.2.2 | none => 0
  { q with shots := q.shots - 1, total := q.total - 1, shot := none, got := none, det := q.det - b2n q.got.isSome, esum := q.esum - e }

/-- CAL_QUIET_INTERRUPT (R207): the dwell in progress, or the injections of the frame that ended, are discarded and made again with the
same pixel. A dwell that has just reached its length stands. -/
def interrupt (act : Option Nat) (s : Chip) : Chip :=
  let mine := fun (n : Nat) => n == s.clk.ticks
  match act with
  | some 0 =>
    let n := max 1 (s.fld F.CAL_THEQ_CFG_DWELL)
    { s with cal := { s.cal with probes := s.cal.probes.map fun (e : Nat × Probe) =>
        (e.1, if e.2.frames < n then { e.2 with frames := 0, count := 0 } else e.2) } }.bump F.CAL_INTR_CNT_COUNT
  | some 1 =>
    let ended := s.fb.prev.map FrameAcc.id
    { s with cal := { s.cal with
        inj := s.cal.inj.map fun (e : Nat × TdcPulse) => (e.1, if mine e.2.at_ then ⟨e.2.prev, e.2.prev, 0⟩ else e.2)
        waiting := s.cal.waiting.filter fun (d : CalDatum) => !(d.shot && some d.frame == ended) } }.bump F.CAL_INTR_CNT_COUNT
  | some 4 =>
    let gone := (s.cal.pulses.filter fun (e : Nat × PulsePrt) => mine e.2.at_).filterMap fun (e : Nat × PulsePrt) => e.2.got
    { s with cal := { s.cal with
        pulses := s.cal.pulses.map fun (e : Nat × PulsePrt) => (e.1, if mine e.2.at_ then e.2.undo else e.2)
        offs := gone.foldl (fun t (g : Nat × Int × Nat) => let o := Table.get (0, 0) t g.1; Table.set t g.1 (o.1 - g.2.1, o.2 - 1)) s.cal.offs } }.bump
      F.CAL_INTR_CNT_COUNT
  | _ => s

/-- Pixels that were masked while they were probed or injected into give way to the next ones; a dwell in a parterre that was disabled
starts again (R208). -/
def skipMasked (s : Chip) : Chip :=
  { s with cal := { s.cal with
      probes := s.cal.probes.map fun (e : Nat × Probe) =>
        (e.1, if e.2.pix = 64 ∨ s.calMay e.1 e.2.pix then e.2
              else if s.flag (F.PRT_CTL_EN e.1) then freshProbe e.1 e.2.pix s else { e.2 with frames := 0, count := 0 })
      pulses := s.cal.pulses.map fun (e : Nat × PulsePrt) =>
        (e.1, if e.2.pix = 64 ∨ s.calMay e.1 e.2.pix ∨ !s.flag (F.PRT_CTL_EN e.1) then e.2
              else { e.2 with pix := s.nextPix e.1 e.2.pix, shots := 0, shot := none }) } }

/-- CAL_STAT.QUIET for the frame that a tick starts (R207); `old` is the chip before the commit of the tick. -/
def tickQuiet (old s : Chip) : Chip :=
  let run := if s.cal.accepted ≤ s.fld F.CAL_QUIET_HITS then s.cal.quiet + 1 else 0
  let clear := !s.flag F.HIT_FE_STAT_SETTLING && !s.flag F.HIT_FE_STAT_TP_ACTIVE
  let quiet := clear && (s.flag F.CAL_CTL_QFORCE || decide (max 1 (s.fld F.CAL_QUIET_FRAMES) ≤ run))
  let act := s.quietProc
  let held := if act.isNone then [] else
    (s.cal.probes.map Prod.fst ++ s.cal.pulses.map Prod.fst ++ s.cal.inj.map Prod.fst).map fun p => (p, old.heldPix (s.clk.ticks - 1) p)
  let s1 := { s with cal := { s.cal with quiet := run, accepted := 0, holder := act, holds := held } }
  let s2 := if quiet then quietFrameEnds act s1
    else if act = some 0 then interrupt act (quietFrameEnds act s1) else quietFrameEnds act (interrupt act s1)
  skipMasked (s2.setFlag F.CAL_STAT_QUIET quiet)

/-! ### Slices (R219 to R221) -/

/-- A slice's state with its targets at its trims to begin with. -/
def Chip.sliceSt (s : Chip) (i : Nat) : SliceSt :=
  Table.get ⟨0, false, sext 10 (s.fld (F.CAL_SL_TRIM_OFFSET i)), sext 10 (s.fld (F.CAL_SL_TRIM_GAIN i)),
    sext 10 (s.fld (F.CAL_SL_TRIM_SKEW i))⟩ s.cal.slices i

/-- Replaces a slice's state. -/
def setSlice (i : Nat) (x : SliceSt) (s : Chip) : Chip := { s with cal := { s.cal with slices := Table.set s.cal.slices i x } }

/-- The mean of a list of codes. -/
def meanOf (l : List Int) : Rat := if l.isEmpty then 0 else (l.sum : Rat) / (l.length : Rat)

/-- A trim target moved against an error, within ten bits. -/
def moveTrim (t : Int) (above below : Bool) : Int := max (-512) (min 511 (if above then t - 1 else if below then t + 1 else t))

/-- The difference of the mean products of a slice with the following and with the preceding slice, over the conversions of a channel in
their order (R219). `at_` tells whether a conversion is the slice's own. -/
def skewOf (at_ : Nat → Bool) (l : List (Nat × Int)) : Rat :=
  let pairs := (l.zip (l.drop 1)).filter fun x => x.1.1 + 1 == x.2.1
  let prod := fun (own : (Nat × Int) × (Nat × Int) → Bool) => meanOf ((pairs.filter own).map fun x => x.1.2 * x.2.2)
  prod (fun x => at_ x.1.1) - prod (fun x => at_ x.2.1)

/-- The estimates of a slice and its targets (R219), over the conversions of a window by channel. The spec gives no slope from the products
to time, so whether a skew lies outside its dead band of one code is a free value where the products differ, and so is the spur estimate; a
slice whose product with its follower is the larger one samples late (DEDUCED, notes/assumptions/58). -/
def judgeSlice (i : Nat) (win : Table (List (Nat × Int))) (s : Chip) : Chip :=
  match (List.range 4).find? fun c => s.wavEnabled 0 c && (modeSlices (s.fld F.WAV_CTL_MODE) c).contains i with
  | none => s
  | some c =>
    let slices := modeSlices (s.fld F.WAV_CTL_MODE) c
    let l := Table.get [] win c
    let isAt := fun (j n : Nat) => nth 0 slices (n % max 1 slices.length) == j
    let codesOf := fun (j : Nat) => (l.filter fun x => isAt j x.1).map Prod.snd
    let all := l.map Prod.snd
    let mean := meanOf all
    let sq : Rat := (all.map fun (v : Int) => ((v : Rat) - mean) * ((v : Rat) - mean)).sum
    let minrms : Rat := (s.fld F.CAL_SLICE_CFG_MINRMS : Nat)
    if all.isEmpty || decide (sq < minrms * minrms * (all.length : Rat)) then s.setFlag (F.CAL_SL_Q_STALE i) true
    else
      let absOf := fun (j : Nat) =>
        let q := codesOf j
        if q.isEmpty then (0 : Rat) else (q.map fun (v : Int) => if (v : Rat) < mean then mean - v else (v : Rat) - mean).sum / (q.length : Rat)
      let low := slices.headD 0
      let off := meanOf (codesOf i) - mean
      let skew := skewOf (isAt i) l
      let a := absOf i
      let a0 := absOf low
      let (fv, s0) := s.drawFree
      let (spur, s1) := s0.drawFree
      let offHi := decide (1 / 4 < off)
      let offLo := decide (off < -1 / 4)
      let gainHi := i != low && decide (a0 < 10000 * (a - a0))
      let gainLo := i != low && decide (10000 * (a - a0) < -a0)
      let skewHi := i != low && decide (0 < skew) && fv.toNat.testBit 0
      let skewLo := i != low && decide (skew < 0) && fv.toNat.testBit 0
      let inside := !(offHi || offLo || gainHi || gainLo || skewHi || skewLo)
      let x := s1.sliceSt i
      let y : SliceSt :=
        { good := if inside then x.good + 1 else 0, due := x.due, offset := moveTrim x.offset offHi offLo
          gain := moveTrim x.gain gainHi gainLo, skew := moveTrim x.skew skewHi skewLo }
      -- the results of a window are applied at once (R222)
      let s2 := ((setSlice i y s1).setFlag (F.CAL_SL_Q_STALE i) false).setFld (F.CAL_P_AGE_FRAMES 5) 0
      let s3 := if !inside then s2.setFlag (F.CAL_SL_Q_CONVERGED i) false
        else if 16 ≤ y.good then s2.setFlag (F.CAL_SL_Q_CONVERGED i) true else s2
      s3.setFld (F.CAL_SL_Q_SPUR i) (spur.toNat % 256)

/-- SLICE_WINDOW_END (R219): a window of a slice is judged. -/
def sliceWindowEnd (i : Nat) (s : Chip) : Chip :=
  if !(s.sliceSt i).due then s
  else judgeSlice i s.cal.winReady (setSlice i { s.sliceSt i with due := false } s)

/-- One trim of a slice moves one code toward its target (R150, R223). -/
def sliceStep (f : Fld) (target : Int) (done : SMap 32) (s : Chip) : Bool × Chip :=
  let v := sext 10 (s.fld f)
  if v = target then (false, s) else engineField f (unsext 10 (stepTo 1 v target)) done s

/-- The trims of a slice follow their targets; a withdrawn target stands at the trim. -/
def followSlice (i : Nat) (done : SMap 32) (s : Chip) : Chip :=
  let x := s.sliceSt i
  let (g1, s1) := sliceStep (F.CAL_SL_TRIM_OFFSET i) x.offset done s
  let (g2, s2) := sliceStep (F.CAL_SL_TRIM_GAIN i) x.gain done s1
  let (g3, s3) := sliceStep (F.CAL_SL_TRIM_SKEW i) x.skew done s2
  if g1 || g2 || g3 then
    setSlice i { x with
      offset := if g1 then sext 10 (s3.fld (F.CAL_SL_TRIM_OFFSET i)) else x.offset
      gain := if g2 then sext 10 (s3.fld (F.CAL_SL_TRIM_GAIN i)) else x.gain
      skew := if g3 then sext 10 (s3.fld (F.CAL_SL_TRIM_SKEW i)) else x.skew } s3
  else s3

/-- A committed trim takes the place of its target (R224); a target that the trim had not reached is withdrawn. -/
def adoptSlice (i : Nat) (old : Chip) (done : SMap 32) (s : Chip) : Chip :=
  let x := s.sliceSt i
  let moving := fun (f : Nat → Fld) (v : Int) =>
    touchedBits done (f i).addr (place (f i).w (f i).lo 1023) && sext 10 (old.fld (f i)) != v
  let s := if moving F.CAL_SL_TRIM_OFFSET x.offset || moving F.CAL_SL_TRIM_GAIN x.gain || moving F.CAL_SL_TRIM_SKEW x.skew then
    noteOverride s else s
  let t := fun (f : Nat → Fld) (v : Int) =>
    if touchedBits done (f i).addr (place (f i).w (f i).lo 1023) then sext 10 (s.fld (f i)) else v
  if touchedBits done (0x70300 + 8 * i) 0x3FFFFFFF then
    setSlice i { x with
      offset := t F.CAL_SL_TRIM_OFFSET x.offset, gain := t F.CAL_SL_TRIM_GAIN x.gain, skew := t F.CAL_SL_TRIM_SKEW x.skew } s
  else s

/-- SLICE at a tick (R219, R220): windows end every WIN frames, trims follow, and the foreground fall-back runs. -/
def tickSlices (old : Chip) (done : SMap 32) (s : Chip) : Chip :=
  if !s.flag F.CAL_CTL_EN || !s.domainUp 6 then s
  else match s.cal.ext with
  | some n =>
    if s.cal.extFirst then
      let n := max 1 (s.fld F.CAL_SLICE_CFG_EXT_FRAMES)
      let s1 := showRunning 5 true { s with cal := { s.cal with ext := some n, extFirst := false, win := [], winFrames := 0 } }
      forAll s.waveUnits (fun c s => setWch c { s.wch c with settle := n, n := 0, open_ := false, prev := none }
        (s.setBit F.WAV_STAT_SETTLING c true)) s1
    else if n = 0 then s
    else
      let slices := waveSlices s.fld
      let seen := s.waveUnits.any fun c => !(Table.get [] s.cal.win c).isEmpty
      let win := s.cal.win
      let s1 := if seen then forAll slices (fun i s => judgeSlice i win s) s else s
      let live := slices.any fun i => !s1.flag (F.CAL_SL_Q_STALE i)
      let s2 := { s1 with cal := { s1.cal with ext := some (n - 1), win := [], extSeen := s1.cal.extSeen || (seen && live) } }
      forAll slices (fun i s => followSlice i done (adoptSlice i old done s)) s2
  | none =>
    let slices := waveSlices s.fld
    let s1 := forAll slices (fun i s => followSlice i done (adoptSlice i old done s)) s
    if s1.cal.winFrames + 1 < max 1 (s.fld F.CAL_SLICE_CFG_WIN) then
      { s1 with cal := { s1.cal with winFrames := s1.cal.winFrames + 1 } }
    else
      let s2 := { s1 with cal := { s1.cal with winFrames := 0, winReady := s1.cal.win, win := [] } }
      forAll slices (fun i s => setSlice i { s.sliceSt i with due := true } s) s2

/-- SLICE_FALLBACK_END (R220): after EXT_FRAMES frames the channels settle again and return to their pins. -/
def fallbackEnd (s : Chip) : Chip :=
  if s.cal.ext != some 0 || s.cal.extFirst then s
  else
    let ok := s.cal.extSeen
    let s1 := leaveExt s
    let s2 := ((s1.setFld (F.CAL_P_STAT_RESULT 5) (if ok then 1 else 2)).bump (F.CAL_P_STAT_RUNS 5)).setFlag (F.CAL_P_STAT_FALLBACK 5) ok
    raise (if ok then EV.CAL_DONE else EV.CAL_INCOMPLETE) s2

/-- AP drives the channel whose turn it is (R221): it behaves as in settling. -/
def tickAp (s : Chip) : Chip :=
  if !s.calRuns 7 || s.cal.apAge % s.apFrames != 0 then s
  else match s.waveUnits[s.cal.apAge / s.apFrames]? with
  | some c =>
    setWch c { s.wch c with settle := s.apFrames, n := 0, open_ := false, prev := none }
      (({ s with cal := { s.cal with steps := Table.set s.cal.steps c [], win := Table.set s.cal.win c [] } }).setBit F.WAV_STAT_SETTLING c true)
  | none => s

/-! ### The engine at a tick -/

/-- A table or field that a running procedure reads has changed (R206). -/
def readsChanged (i : Nat) (old s : Chip) : Bool :=
  let d := fun (f : Fld) => decide (old.fld f ≠ s.fld f)
  let tables := decide ((old.mem 4).data ≠ (s.mem 4).data)
  let hitCal := fun (_ : Unit) =>
    tables || (List.range 33).any (fun j => d (F.HIT_TW_VEVEN j) || d (F.HIT_TW_VODD j) || d (F.HIT_EN_EEVEN j) || d (F.HIT_EN_EODD j))
      || (List.range 1024).any (fun p => d (F.PRT_GAIN_G p)) || d F.HIT_FE_BIAS_IFB || d F.HIT_FE_BIAS_PA_BIAS
  match i with
  | 0 => d F.CAL_THEQ_CFG_PROBE || d F.CAL_THEQ_CFG_DWELL || d F.CAL_THEQ_CFG_COUNT
  | 1 => d F.CAL_TDC_CFG_HITS
  | 2 => hitCal () || d F.CAL_TW_CFG_MINPAIRS || d F.CAL_TW_CFG_PAIRWIN || d F.CAL_TW_REF_REF_HI || d F.CAL_TW_REF_REF_LO
  | 3 => hitCal () || d F.CAL_ECAL_LINE_ISOLATED || d F.CAL_ECAL_LINE_LINE || d F.CAL_ECAL_WIN_WHI || d F.CAL_ECAL_WIN_WLO
      || d F.CAL_ECAL_HITS_HITS || d F.CAL_TW_CFG_PAIRWIN
  | 4 => hitCal () || d F.CAL_PULSE_CFG_AMP || d F.CAL_PULSE_CFG_PULSES || d F.CAL_PULSE_CFG_SRC
  | 6 => d F.CAL_TICD_CFG_HITS
  | 7 => d F.WAV_SETTLE_FRAMES || d F.WAV_CTL_MODE || d F.WAV_CTL_CH_EN
  | _ => false

/-- One procedure at a tick: ages, the fall-back of TDCCD, the application, and the start. -/
def tickProc (done : SMap 32) (i : Nat) (s : Chip) : Chip :=
  let x := s.calProc i
  let age := s.fld (F.CAL_P_AGE_FRAMES i)
  let s1 := if age = 2 ^ 32 - 1 then s else s.setFld (F.CAL_P_AGE_FRAMES i) (min (2 ^ 32 - 2) (age + 1))
  let max_ := max 1 (s.fld (F.CAL_P_MAX_FRAMES i))
  let fall := i == 1 && x.run && !x.fallback && decide (max_ ≤ x.age + 1) && !s.calComplete 1
  let s2 := setProc i
    { x with age := if x.run then x.age + 1 else x.age, since := if x.run then 0 else x.since + 1, fallback := x.fallback || fall } s1
  let s3 := match x.applyIn with
    | some 0 | some 1 => applyResults i done s2
    | some (n + 2) => setProc i { s2.calProc i with applyIn := some (n + 1) } s2
    | none => s2
  beginRun i s3

/-- A run restarts from zero when what it reads has changed at the tick (R206). -/
def restartRun (old : Chip) (i : Nat) (s : Chip) : Chip :=
  if (s.calProc i).run && readsChanged i old s then clearData i s else s

/-- Committed bits of a field that a ramp still moves withdraw its target (R224). -/
def dropTargets (done : SMap 32) (s : Chip) : Chip :=
  let trim := fun (e : Nat × Nat) => touchedBits done (0x300000 + e.1 / 4 * 4) (63 * 2 ^ (8 * (e.1 % 4)))
  let gain := fun (e : Nat × Nat) => touchedBits done (F.PRT_GAIN_G e.1).addr 0x1FFF
  let n := s.cal.tgtTrim.countP trim + s.cal.tgtGain.countP gain
  forN n (fun _ s => noteOverride s) { s with cal := { s.cal with
    tgtTrim := s.cal.tgtTrim.filter fun e => !trim e
    tgtGain := s.cal.tgtGain.filter fun e => !gain e } }

/-- The calibration engine at a tick: `old` is the chip before the commit of the tick, `done` the bits that the commit carried. -/
def tickCal (old : Chip) (done : SMap 32) (s : Chip) : Chip :=
  let s1 := dropTargets done (tickQuiet old s)
  let s2 := forN 8 (tickProc done) { s1 with cal := { s1.cal with ramp := s1.cal.ramp + 1, apAge := s1.cal.apAge + 1 } }
  tickAp (tickSlices old done (forN 8 (restartRun old) s2))

/-- CAL_INTERVAL_START (R204): INTERVAL frames after the end of the previous run. -/
def intervalStart (i : Nat) (s : Chip) : Chip :=
  let n := s.fld (F.CAL_P_CTL_INTERVAL i)
  if n != 0 && decide (n ≤ (s.calProc i).since) && !(s.calProc i).run then askStart i s else s

/-! ### The commands -/

/-- CAL_INTERVAL_START (R204). -/
def execCalIntervalStart (i : Fin 8) (s : State) : Host.Outcome State Fault Refusal :=
  .next { s with chip := intervalStart i s.chip }

/-- CAL_RUN_END (R205). -/
def execCalRunEnd (i : Fin 8) (s : State) : Host.Outcome State Fault Refusal := .next { s with chip := runEnd i s.chip }

/-- THEQ_DWELL_END (R209). -/
def execTheqDwellEnd (p : Fin 1024) (s : State) : Host.Outcome State Fault Refusal := .next { s with chip := dwellEnd p s.chip }

/-- CAL_TDC_INJECTION (R211). -/
def execCalTdcInjection (p : Fin 1024) (s : State) : Host.Outcome State Fault Refusal :=
  .next { s with chip := tdcInjection p s.chip }

/-- CAL_PULSE_INJECTION (R217). -/
def execCalPulseInjection (p : Fin 1024) (s : State) : Host.Outcome State Fault Refusal :=
  .next { s with chip := pulseInjection p s.chip }

/-- SLICE_WINDOW_END (R219). -/
def execSliceWindowEnd (slice : Fin 8) (s : State) : Host.Outcome State Fault Refusal :=
  .next { s with chip := sliceWindowEnd slice s.chip }

/-- SLICE_FALLBACK_END (R220). -/
def execSliceFallbackEnd (s : State) : Host.Outcome State Fault Refusal := .next { s with chip := fallbackEnd s.chip }

/-- CAL_RAMP_STEP (R223). -/
def execCalRampStep (s : State) : Host.Outcome State Fault Refusal := .next { s with chip := rampStep s.chip }

end Sys2Proof.Machine
end

