-- ==== Sys2Proof/Machine/Crc.lean ====
section
/-! DEFINITION. The check sequences: CRC-32 of packets and commands (R303, R355), CRC-64 of the digests (R374), CRC-8 of the
alignment markers (R279). -/

namespace Sys2Proof.Machine

/-- One bit of a reflected CRC-32. -/
def crc32Bit (c : Nat) : Nat := if c % 2 = 1 then (c >>> 1) ^^^ 0xEDB88320 else c >>> 1

/-- One byte of CRC-32. -/
def crc32Byte (c b : Nat) : Nat := (List.range 8).foldl (fun c _ => crc32Bit c) (c ^^^ b)

/-- CRC-32 of IEEE 802.3 over bytes (R303, R355). -/
def crc32 (bs : List Nat) : Nat := (bs.foldl crc32Byte 0xFFFFFFFF) ^^^ 0xFFFFFFFF

/-- One bit of CRC-64. -/
def crc64Bit (c : Nat) : Nat :=
  if c.testBit 63 then ((2 * c) % 2 ^ 64) ^^^ 0x42F0E1EBA9EA3693 else 2 * c

/-- One byte of CRC-64. -/
def crc64Byte (c b : Nat) : Nat := (List.range 8).foldl (fun c _ => crc64Bit c) (c ^^^ (b <<< 56))

/-- CRC-64 of the ECMA-182 polynomial over bytes (R374). -/
def crc64 (bs : List Nat) : Nat := bs.foldl crc64Byte 0

/-- One bit of CRC-8. -/
def crc8Bit (c : Nat) : Nat := if 128 ≤ c then ((2 * c) % 256) ^^^ 7 else 2 * c

/-- CRC-8 of polynomial x^8 + x^2 + x + 1 over bytes (R279). -/
def crc8 (bs : List Nat) : Nat := bs.foldl (fun c b => (List.range 8).foldl (fun c _ => crc8Bit c) (c ^^^ b)) 0

end Sys2Proof.Machine
end

