-- ==== Sys2Proof/Machine/NetTimeOps.lean ====
section
/-! DEFINITION. Network time over the ring (chapter 13): TIME exchanges, the upstream, the quality, and the correction. -/

namespace Sys2Proof.Machine

/-- The index of a port in the TIM_x registers: 0 W, 1 E (R339). -/
def timIx : Port → Nat
  | .west => 0
  | .east => 1

/-- The exchange state of a port. -/
def Chip.exch (s : Chip) : Port → Exch
  | .east => s.net.exE
  | .west => s.net.exW

/-- Replaces the exchange state of a port. -/
def Chip.setExch (s : Chip) (p : Port) (x : Exch) : Chip :=
  match p with
  | .east => { s with net := { s.net with exE := x } }
  | .west => { s with net := { s.net with exW := x } }

/-- INTERVAL; 0 acts as 1 (R339). -/
def Chip.timInterval (s : Chip) : Nat := max 1 (s.fld F.TIM_NET_CFG_INTERVAL)

/-- SLEW_MAX in 2^-8 FTU per frame; 0 acts as 1 (R339). -/
def Chip.slewMax (s : Chip) : Int := 256 * (max 1 (s.fld F.TIM_NET_LIM_SLEW_MAX) : Nat)

/-- A value limited to ±SLEW_MAX. -/
def Chip.slewLimit (s : Chip) (x : Int) : Int := max (-s.slewMax) (min s.slewMax x)

/-- F of R333, in 2^-8 FTU per frame. -/
def Chip.netF (s : Chip) : Int := sext 32 (s.fld F.TIM_NET_FREQ_F)

/-- TIM_NET_STAT.UP as a port: 0 none, 1 W, 2 E. -/
def Chip.upstream (s : Chip) : Option Port :=
  match s.fld F.TIM_NET_STAT_UP with
  | 1 => some .west
  | 2 => some .east
  | _ => none

/-- The device initiates on a link when its address is lower than its neighbour's (R326). -/
def Chip.initiates (s : Chip) (p : Port) : Bool := decide (s.addr < s.fld (F.LN_STAT_NBR_ADDR p.ix))

/-- A TIME packet offered on a port (R325, R326): XSEQ and T_TX are filled in when its START is sent. -/
def offerTime (p : Port) (role eseq : Nat) (trx : List W64) (s : Chip) : Chip :=
  if !s.trained p || s.flag (F.LN_STAT_LOCAL p.ix) then s
  else
    let up := match s.upstream with | some q => s.fld (F.LN_STAT_NBR_ADDR q.ix) | none => 31
    let w0 := place 16 32 eseq ||| place 2 30 role ||| place 8 16 s.quality ||| place 5 11 (s.fld F.TIM_NET_STAT_STRATUM)
      ||| place 5 6 up ||| place 3 3 (s.fld (F.LN_STAT_GAP p.ix))
    enqueue p
      { ptype := 0x04#8, cls := 1#2, dest := BitVec.ofNat 5 (s.fld (F.LN_STAT_NBR_ADDR p.ix)), owner := .time, idx := 0,
        words := [w64 w0, 0#64, 0#64] ++ trx, last := true, bad := false, refused := false, held := 0 } s

/-- TIME_INIT (R326): the initiator's INIT, once in every INTERVAL-th frame after the one in which the port reached TRAINED. -/
def timeInit (p : Port) (s : Chip) : Chip :=
  let x := s.exch p
  match x.ticks with
  | some n =>
    if s.initiates p && n != 0 && n % s.timInterval = 0 && !x.asked && s.trained p && !s.flag (F.LN_STAT_LOCAL p.ix) then
      offerTime p 0 0xFFFF [0#64, 0#64] (s.setExch p { x with asked := true })
    else s
  | none => s

/-- The START of a TIME packet is sent: XSEQ, the transmit stamp at the lane-0 slot of its row, and the quality (R324, R325, R337). -/
def stampTime (p : Port) (q : TxPkt) (s : Chip) : TxPkt × Chip :=
  let x := s.exch p
  let t := (s.port p).txRow + s.fld (F.LN_LAT_TX p.ix)
  match q.words with
  | w0 :: _ :: _ :: rest =>
    let role := bits w0.toNat 31 30
    let kept := w0.toNat % 2 ^ 48 - place 8 16 (bits w0.toNat 23 16)
    let w := w64 (kept ||| place 16 48 x.xseq ||| place 8 16 s.quality)
    ({ q with words := w :: (time128 t s.quality ++ rest) },
     s.setExch p { x with xseq := (x.xseq + 1) % 65536, sent := some (x.xseq, role, t) })
  | _ => (q, s)

/-- A TIME128 as FTU; none when it is malformed (R34). -/
def readTime128 (lo hi : W64) : Option Nat :=
  let ns := bits lo.toNat 63 32
  if 999999999 < ns then none else some (ofTime128 hi.toNat ns (bits lo.toNat 31 16))

/-- A received quality: any code that is not one of R33 is UNSET. -/
def cleanQuality (q : Nat) : Nat := if q ≤ 3 then q else 3

/-- α of a port (R327): TIM_x_ASYM of its GAP, 0 for a GAP of 3 or more. -/
def Chip.alpha (s : Chip) (p : Port) : Int :=
  match s.fld (F.LN_STAT_GAP p.ix) with
  | 0 => sext 16 (s.fld (F.TIM_X_ASYM0_FTU (timIx p)))
  | 1 => sext 16 (s.fld (F.TIM_X_ASYM1_FTU (timIx p)))
  | 2 => sext 16 (s.fld (F.TIM_X_ASYM2_FTU (timIx p)))
  | _ => 0

/-- The correction on an accepted exchange of the upstream port (R333). -/
def correct (e : Int) (s : Chip) : Chip :=
  let s1 := s.setFld F.TIM_NET_OFFS_E (unsext 32 e)
  if s.flag F.TIM_NET_STAT_FROZEN then s1
  else
    let f := s.slewLimit (s.netF + e / (2 ^ s.fld F.TIM_NET_CFG_KI_SH : Nat))
    let ph := e / (2 ^ s.fld F.TIM_NET_CFG_KP_SH : Nat)
    let s2 := s1.setFld F.TIM_NET_FREQ_F (unsext 32 f)
    { s2 with net := { s2.net with p := ph / (s.timInterval : Int), pLeft := s.timInterval } }

/-- An accepted exchange (R328, R329, R331, R334): D, e, consistency, CONS, and the correction, or the one step of the
discipline, after which it converges as after a re-route. -/
def acceptExchange (p : Port) (d e : Int) (s : Chip) : Chip :=
  let ix := timIx p
  let x := s.exch p
  let dOld := s.fld (F.TIM_X_DELAY_D ix)
  let restart := x.restart
  let ok := restart || decide ((d - (dOld : Int)).natAbs ≤ 256 * s.fld F.TIM_NET_LIM_DWIN)
  let dNew : Int := if restart then d else if ok then (dOld : Int) + (d - (dOld : Int)) / 16 else (dOld : Int)
  let s1 := ((s.setFld (F.TIM_X_DELAY_D ix) (unsext 32 dNew)).setFld (F.TIM_X_OFFS_E ix) (unsext 32 e)).bump
    (F.TIM_X_EXCH_COUNT ix)
  let s2 := if ok then s1 else s1.bump (F.TIM_X_INCONS_COUNT ix)
  let s3 := s2.setExch p { x with since := some 0, restart := false, incons := if ok then 0 else x.incons + 1,
                                  upRun := x.upRun + 1, sent := none }
  let s4 := if 3 ≤ s.fld (F.LN_STAT_GAP p.ix) then raise EV.TIME_GAP_UNKNOWN s3 else s3
  if s.upstream != some p then s4
  else if s.quality = 3 && !s.net.everSet && s.flag F.TIM_NET_CFG_DISC_EN && s.fld (F.TIM_X_NBR_QUALITY ix) != 3
      && s.clk.pendSteps.isEmpty then
    -- the step of the discipline (R334)
    let s5 := { s4 with clk := { s4.clk with pendSteps := [.follow e] }, net := { s4.net with p := 0, pLeft := 0 } }
    ((s5.setFlag F.TIM_NET_STAT_FROZEN true).setFld F.TIM_NET_STAT_CONS 0).setFld F.TIM_NET_OFFS_E (unsext 32 e)
  else
    let cons := if ok then min 64 (s4.fld F.TIM_NET_STAT_CONS + 1) else 0
    let s5 := s4.setFld F.TIM_NET_STAT_CONS cons
    if s5.flag F.TIM_NET_STAT_FROZEN then
      (if cons = 64 then s5.setFlag F.TIM_NET_STAT_FROZEN false else s5).setFld F.TIM_NET_OFFS_E (unsext 32 e)
    else correct e s5

/-- A void exchange (R328). -/
def voidExchange (p : Port) (s : Chip) : Chip :=
  (s.bump (F.TIM_X_VOID_COUNT (timIx p))).setExch p { s.exch p with sent := none }

/-- The end of an exchange on the answering packet (R326 to R328): t1 the stamp of the own packet, t2 the neighbour's T_RX of
it, t3 the neighbour's T_TX, t4 the own receive stamp. -/
def completeExchange (p : Port) (t1 t2 t3 t4 : Nat) (s : Chip) : Chip :=
  let gapN : Int := (t3 : Int) - (t2 : Int)
  let span : Int := ((t4 : Int) - (t1 : Int)) - gapN
  if gapN < 0 || (frameFtu : Int) < gapN || span < 0 || (2 * frameFtu : Int) < (t4 : Int) - (t1 : Int) then voidExchange p s
  else
    let a : Int := (t4 : Int) - (t3 : Int)
    let b : Int := (t2 : Int) - (t1 : Int)
    acceptExchange p ((a + b) * 128) ((a - b - s.alpha p) * 128) s

/-- A delivered TIME packet (R326 to R329), whose START was delivered `first` FTU ago. -/
def timePacketIn (p : Port) (pkt : Packet) (first : Nat) (s : Chip) : Chip :=
  let ix := timIx p
  if pkt.hops != 0#6 || pkt.src.toNat != s.fld (F.LN_STAT_NBR_ADDR p.ix) then
    voidExchange p (s.bump F.TIM_DISCARD_CNT_COUNT)
  else
    match pkt.words with
    | [w0, txLo, txHi, rxLo, rxHi] =>
      let x := w0.toNat
      let role := bits x 31 30
      let xseq := bits x 63 48
      let eseq := bits x 47 32
      let t4 := s.now - first - s.fld (F.LN_LAT_RX p.ix)
      let s1 := ((s.setFld (F.TIM_X_NBR_QUALITY ix) (cleanQuality (bits x 23 16))).setFld (F.TIM_X_NBR_STRATUM ix)
        (bits x 15 11)).setFld (F.TIM_X_NBR_UPSRC ix) (bits x 10 6)
      let answer := fun (r : Nat) (s : Chip) => offerTime p r xseq (time128 t4 s.quality) s
      match role with
      | 0 =>
        if s.initiates p || (readTime128 txLo txHi).isNone || (readTime128 rxLo rxHi).isNone then voidExchange p s1
        else answer 1 s1
      | 3 => voidExchange p s1
      | _ =>
        let fits := if role = 1 then s.initiates p else !s.initiates p
        match (s.exch p).sent, readTime128 txLo txHi, readTime128 rxLo rxHi with
        | some (q, sentRole, t1), some t3, some t2 =>
          if fits && q == eseq && sentRole + 1 == role then
            let s2 := completeExchange p t1 t2 t3 t4 s1
            if role = 1 then answer 2 s2 else s2
          else voidExchange p s1
        | _, _, _ => voidExchange p s1
    | _ => s

/-- A port is a candidate for the upstream (R330). -/
def Chip.candidate (s : Chip) (p : Port) : Bool :=
  let ix := timIx p
  let recent := match (s.exch p).since with
    | some n => decide (n ≤ max 1 (s.fld F.TIM_NET_CFG_TMO) * s.timInterval)
    | none => false
  s.trained p && !s.flag (F.LN_STAT_LOCAL p.ix) && recent && decide (s.fld (F.TIM_X_NBR_STRATUM ix) < 31)
    && s.fld (F.TIM_X_NBR_QUALITY ix) != 3 && s.fld (F.TIM_X_NBR_UPSRC ix) != s.addr

/-- TIM_NET_CFG.UPPORT as a port. -/
def Chip.upPort (s : Chip) : Port := if s.flag F.TIM_NET_CFG_UPPORT then .east else .west

/-- UPSTREAM_SELECT (R330): the upstream at a tick. -/
def Chip.chooseUpstream (s : Chip) : Option Port :=
  let pref := s.upPort
  let other := pref.other
  let prefLong := s.candidate pref && decide (64 ≤ (s.exch pref).upRun)
  let strat := fun (p : Port) => s.fld (F.TIM_X_NBR_STRATUM (timIx p))
  let fresh :=
    if s.candidate pref && s.candidate other then (if strat other < strat pref then some other else some pref)
    else if s.candidate pref then some pref
    else if s.candidate other then some other
    else none
  match s.upstream with
  | some u => if s.candidate u then (if u != pref && prefLong then some pref else some u) else fresh
  | none => fresh

/-- A re-route (R331). -/
def reroute (up : Option Port) (s : Chip) : Chip :=
  let s1 := ((s.setFlag F.TIM_NET_STAT_FROZEN true).setFld F.TIM_NET_STAT_CONS 0).bump F.TIM_REROUTE_CNT_COUNT
  let s2 := { s1 with net := { s1.net with p := 0, pLeft := 0 } }
  let s3 := match up with
    | some p => s2.setExch p { s2.exch p with restart := true, incons := 0 }
    | none => s2
  raise EV.TIME_REROUTE s3

/-- UPSTREAM_SELECT and TIME_REROUTE at a tick (R330, R331). -/
def tickUpstream (s : Chip) : Chip :=
  let age := fun (p : Port) (s : Chip) =>
    let x := s.exch p
    s.setExch p { x with since := x.since.map (· + 1), ticks := x.ticks.map (· + 1), asked := false, upRun := if s.candidate p then x.upRun else 0 }
  let s0 := age .west (age .east s)
  let old := s0.upstream
  let new := s0.chooseUpstream
  let s1 := s0.setFld F.TIM_NET_STAT_UP (match new with | none => 0 | some .west => 1 | some .east => 2)
  let s2 := s1.setFld F.TIM_NET_STAT_STRATUM
    (match new with | none => 31 | some p => min 31 (s1.fld (F.TIM_X_NBR_STRATUM (timIx p)) + 1))
  let incons := match new with | some p => decide (4 ≤ (s2.exch p).incons) | none => false
  let nbr := s0.net.nbrUp && new.isSome
  let s3 := { s2 with net := { s2.net with nbrUp := false } }
  let s4 := if old != new || incons || nbr then reroute new s3 else s3
  if old.isSome && new.isNone then raise EV.TIME_NO_UPSTREAM s4 else s4

/-- TIME_QUALITY at a tick (R332). -/
def tickQuality (s : Chip) : Chip :=
  let upq := match s.upstream with | some p => s.fld (F.TIM_X_NBR_QUALITY (timIx p)) | none => 3
  let q :=
    if !s.net.everSet then 3
    else if s.flag F.TIM_STAT_HOLDOVER || s.upstream.isNone || !s.flag F.TIM_NET_CFG_DISC_EN || 2 ≤ upq then 2
    else if s.flag F.TIM_NET_STAT_FROZEN || upq = 1 then 1
    else 0
  if q = s.quality then s else raise EV.TIME_QUALITY (s.setFld F.TIM_STAT_QUALITY q)

/-- The rate of the frame that a tick starts (R333): F + p limited to ±SLEW_MAX, and the slew of a TIME_ADJ with MODE 0
(R336), which acts at SLEW_MAX until its offset is removed. -/
def tickRate (s : Chip) : Chip :=
  let p : Int := if s.flag F.TIM_NET_STAT_FROZEN || s.upstream.isNone || s.net.pLeft = 0 then 0 else s.net.p
  let base := s.netF + p
  let adj := s.slewLimit s.net.slew
  let r := s.slewLimit (base + adj)
  let used := r - s.slewLimit base
  { s with net := { s.net with rate := r, pLeft := s.net.pLeft - 1, slew := s.net.slew - (if s.net.slew = 0 then 0 else used) } }

end Sys2Proof.Machine
end

