-- ==== Sys2Proof/Machine/Digest.lean ====
section
/-! DEFINITION. The configuration digests (R374, R375, R389) and the heartbeat that carries them (R376). -/

namespace Sys2Proof.Machine

/-- Bytes of a 32-bit value, least significant first. -/
def regBytes (v : Nat) : List Nat := (List.range 4).map fun i => bits v (8 * i + 7) (8 * i)

/-- The RWS value of a PIX or LIN register in one bank: it lives in a coded memory. -/
def Chip.tableReg (s : Chip) (mem a base : Nat) : Nat :=
  bits (s.memData mem ((a - base) / 8)) (32 * ((a / 4) % 2) + 31) (32 * ((a / 4) % 2))

/-- A register of a bank with every non-RWS bit read as 0 (R374). -/
def Chip.rwsValue (s : Chip) (shadow : Bool) (a : Nat) (r : RegRow) : Nat :=
  if 0x10000 ≤ a && a < 0x20000 then s.tableReg (if shadow then 3 else 2) a 0x10000
  else if 0x50000 ≤ a && a < 0x60000 then s.tableReg (if shadow then 8 else 7) a 0x50000
  else (BitVec.ofNat 32 (r.reset a) ^^^ (if shadow then s.regs.shadow else s.regs.active).get a).toNat &&& r.mask (· == .rws)

/-- The registers of the digest image (R374): those that hold an RWS field, CAL_TBL_WIN apart, ascending. -/
def digestRegs : List (Nat × RegRow) :=
  (List.range 0x28000).filterMap fun i =>
    match regRow? (4 * i) with
    | some r => if r.hasRws && r.base != 0x71000 then some (4 * i, r) else none
    | none => none

/-- The protection part of the image (R374). -/
def Chip.protBytes (s : Chip) : List Nat :=
  ((List.range 64).map fun g => 16 * s.fld (F.CMD_PROT_WRITE g) + s.fld (F.CMD_PROT_READ g)) ++
    [s.fld F.CMD_CEIL_RING, s.fld F.CMD_CEIL_SIDE]

/-- The digest image of a bank (R374). -/
def Chip.digestImage (s : Chip) (shadow full : Bool) : List Nat :=
  (if full then [s.addr, 0, 0, 0] else []) ++
  (digestRegs.flatMap fun x => if !full && x.2.inst then [] else regBytes (s.rwsValue shadow x.1 x.2)) ++
  (if full then (List.range 24640).flatMap fun w => wordBytes (w64 (s.memData (if shadow then 5 else 4) w)) else []) ++
  s.protBytes

/-- The four digests of the banks as they stand: active common, active full, shadow common, shadow full (R374, R375). -/
def Chip.computeDigests (s : Chip) : List W64 :=
  [s.digestImage false false, s.digestImage false true, s.digestImage true false, s.digestImage true true].map fun b => w64 (crc64 b)

/-- The digests as the device holds them (R375): up to date with the banks at once. -/
def Chip.digestsNow (s : Chip) : List W64 := if s.cmd.digDirty then s.computeDigests else s.cmd.digests

/-- Brings the digests held up to date (R375). -/
def refreshDigests (s : Chip) : Chip := { s with cmd := { s.cmd with digests := s.digestsNow, digDirty := false } }

/-- Digest i of digestsNow. -/
def Chip.digestOf (s : Chip) (i : Nat) : Nat := (nth 0#64 s.digestsNow i).toNat

/-- CMD_STAT.DIRTY (R375). -/
def Chip.bankDirty (s : Chip) : Bool := s.digestOf 1 != s.digestOf 3

/-- DIGEST_RECHECK (R389), at the end of a pass: each digest that differs from the banks is replaced, counted and announced. -/
def digestRecheck (s : Chip) : Chip :=
  if !s.running || !s.scrub.recheck || !s.flag F.MIN_CTL_DRIFT_CHK || s.cmd.digDirty then s
  else
    let l := s.computeDigests
    let s := { s with scrub := { s.scrub with recheck := false } }
    let old := s.cmd.digests
    forN 4 (fun i s => if nth 0#64 l i = nth 0#64 old i then s else raise EV.CFG_DRIFT (s.bump F.MIN_DRIFT_CNT_COUNT))
      { s with cmd := { s.cmd with digests := l } }

/-- The configuration HEARTBEAT (R376). -/
def sendConfigHb (s : Chip) : Chip :=
  let w0 := place 5 27 s.addr
  let w1 := place 32 32 (s.fld F.CMD_EPOCH_ACTIVE) ||| s.fld F.CMD_PEND_EPOCH_EPOCH
  let o : Offer :=
    { ptype := 0x05#8, cls := 1#2, dest := 31#5, owner := .configHb 0, idx := 0,
      words := [w64 w0, w64 w1, w64 (frameWord s.frameNow), w64 (s.digestOf 0), w64 (s.digestOf 1)], last := true,
      bad := false, refused := false, held := 0 }
  let r := sendDrop raise o s
  if r.1 then r.2 else r.2.bump F.CMD_HB_DROP_COUNT

/-- CONFIG_HEARTBEAT (R376): in a frame of the schedule of the frames since INRING rose, a heartbeat goes out with EN = 1. -/
def configHeartbeat (s : Chip) : Chip :=
  match s.ring.hbFrames with
  | some 0 =>
    let s1 := { s with ring := { s.ring with hbFrames := some 1024 } }
    if s.inring && s.running && s.flag F.CMD_HB_CTL_EN then sendConfigHb s1 else s1
  | _ => s

/-- One frame of the heartbeat schedule: the frames to the next heartbeat. A frame of the schedule in which none was sent
counts as well. -/
def tickHeartbeat (s : Chip) : Chip :=
  { s with ring := { s.ring with hbFrames := s.ring.hbFrames.map fun n => (if n = 0 then 1024 else n) - 1 } }

/-! ### The commands -/

/-- CONFIG_HEARTBEAT (R376). -/
def execConfigHeartbeat (s : State) : Host.Outcome State Fault Refusal := .next { s with chip := configHeartbeat s.chip }

/-- DIGEST_RECHECK (R389). -/
def execDigestRecheck (s : State) : Host.Outcome State Fault Refusal := .next { s with chip := digestRecheck s.chip }

end Sys2Proof.Machine
end

