-- ==== Sys2Proof/Machine/Loops.lean ====
section
/-! DEFINITION. Correction loops, ACTUATE messages and safety conditions (chapter 09). -/

namespace Sys2Proof.Machine

/-! ### PI loops (R238 to R240) -/

/-- What one evaluation of a loop gives (R239): I, OUT, e and bits [7:3] of FLAGS. -/
structure LoopOut where
  i     : Int
  out   : Int
  err   : Int
  flags : Nat
deriving DecidableEq, Repr

/-- sat() limits a value. -/
def limits (x : Int) : Bool := sat32 x != x

/-- A running loop (R239) with the configuration of age k, integrator i, last output `out` and FRAME value m. -/
def Chip.evalLoop (s : Chip) (k l : Nat) (i out m : Int) : LoopOut :=
  let v := fun (f : Nat → Fld) => sext 32 (s.fldAt k (f l))
  let e0 := if s.flagAt k (F.LOOP_L_CFG_DIR l) then m - v F.LOOP_L_SETPOINT_VALUE else v F.LOOP_L_SETPOINT_VALUE - m
  let e1 := sat32 e0
  let dead := decide ((e1.natAbs : Nat) < s.fldAt k (F.LOOP_L_DEADBAND_VALUE l))
  let e := if dead then 0 else e1
  let p0 := v F.LOOP_L_KP_VALUE * e / 65536
  let di := v F.LOOP_L_KI_VALUE * e / 65536
  let p := sat32 p0
  let i0 := i + di
  let u0 := p + sat32 i0 + v F.LOOP_L_BIAS_VALUE
  let lo := v F.LOOP_L_OUTMIN_VALUE
  let hi := v F.LOOP_L_OUTMAX_VALUE
  let stop := (decide (hi < sat32 u0) && decide (0 < di)) || (decide (sat32 u0 < lo) && decide (di < 0))
  let iNew := if stop then i else sat32 i0
  let u1 := p + i + v F.LOOP_L_BIAS_VALUE
  let u := if stop then sat32 u1 else sat32 u0
  let c0 := min (max u lo) hi
  let slew : Int := (s.fldAt k (F.LOOP_L_SLEW_VALUE l) : Nat)
  let slewed := slew != 0 && decide (slew < ((c0 - out).natAbs : Nat))
  let c := if slewed then (if out < c0 then out + slew else out - slew) else c0
  let sat := limits e0 || limits p0 || limits i0 || limits u0 || (stop && limits u1)
  { i := iNew, out := c, err := e,
    flags := place 1 6 (b2n (c0 != u)) ||| place 1 5 (b2n slewed) ||| place 1 4 (b2n dead) ||| place 1 3 (b2n sat) }

/-- ACTUATE (R241, R242): offered once under the DROP policy to ACT_DEST; the own address is a local delivery. -/
def sendActuate (l : Nat) (urgent : Bool) (seg : Nat) (a : FrameAcc) (out m e : Int) (flags : Nat) (s : Chip) : Chip :=
  let seq := (s.fld F.LOOP_ACT_SEQ_SEQ + 1) % 65536
  let s1 := s.setFld F.LOOP_ACT_SEQ_SEQ seq
  let d := s.fld F.RNG_CFG_ACT_DEST
  let dest := if d = 31 then 0 else d
  let w0 := w64 (place 16 48 s.claim ||| place 16 32 seq ||| place 5 27 s.addr ||| place 6 21 l ||| place 1 20 (b2n urgent)
    ||| place 16 0 seg)
  let ws := [w0, w64 (frameWord a.id), w64 (place 32 32 (unsext 32 out) ||| unsext 32 m),
    w64 (place 32 32 (unsext 32 e) ||| place 8 24 a.epoch ||| place 8 0 flags)]
  let o : Offer :=
    { ptype := 0x07#8, cls := if urgent then 0#2 else 1#2, dest := BitVec.ofNat 5 dest, owner := .actuate l, idx := l,
      words := ws, last := true, bad := false, refused := false, held := 0 }
  let r := if dest = s.addr then (true, (claimCheck w0 s1).2) else sendDrop raise o s1
  if r.1 then r.2.bump F.LOOP_ACT_CNT_COUNT else raise EV.LOOP_ACT_DROP (r.2.bump F.LOOP_ACT_DROP_COUNT)

/-- One loop at the close of a frame (R238 to R241), given the FRAME values. -/
def closeLoop (k : Nat) (a : FrameAcc) (vals : List (Int × Bool × Bool)) (l : Nat) (s : Chip) : Chip × Option (Chip → Chip) :=
  let m := nth (0, false, false) vals (s.fldAt k (F.LOOP_L_CFG_MEAS l))
  let g := nth (0, false, false) vals (s.fldAt k (F.LOOP_L_CFG_GATE l))
  let gated := s.flagAt k (F.LOOP_L_CFG_GATE_EN l) && !(g.2.1 && decide (sext 32 (s.fldAt k (F.LOOP_L_GTHR_VALUE l)) ≤ g.1))
  let hold := gated || !m.2.1 || a.held
  let i := sext 32 (s.fld (F.LOOP_L_INTEG_I l))
  let out := sext 32 (s.fld (F.LOOP_L_OUT_OUT l))
  let r := if hold then ⟨i, out, 0, 128⟩ else s.evalLoop k l i out m.1
  let flags := r.flags ||| place 1 2 (b2n m.2.2) ||| place 1 1 (b2n (s.tunc a.id))
  let s1 := if m.2.1 then s else raise EV.LOOP_HOLD (s.bump F.LOOP_HOLD_CNT_COUNT)
  let s2 := ((s1.setFld (F.LOOP_L_INTEG_I l) (unsext 32 r.i)).setFld (F.LOOP_L_OUT_OUT l) (unsext 32 r.out)).setFld
    (F.LOOP_L_STAT_FLAGS l) flags
  let emit := frameIdx a.id % 2 ^ min 10 (s.fldAt k (F.LOOP_L_CFG_EMITDIV l)) == 0
    || (s.flagAt k (F.LOOP_L_CFG_ONCHG l) && r.out != out)
  (s2, if emit then
      some (sendActuate l (s.flagAt k (F.LOOP_L_CFG_URGENT l)) (s.fldAt k (F.LOOP_L_SEG_SEGMENT l)) a r.out
        (if m.2.1 then m.1 else 0) r.err flags)
    else none)

/-- With LOOP_CTL.EN = 0 no FRAME value is made; those of measures that are off or unusable read 0 and are invalid (R230, R237). -/
def clearOff (ok : List Bool) (s : Chip) : Chip :=
  forN 128 (fun n s =>
    if nth false ok n then s else (s.setFld (F.LOOP_M_FRAME_VALUE n) 0).setBit (F.LOOP_MVALID_V (n / 32)) (n % 32) false) s

/-- LOOP_EVALUATION (R234, R236, R238, R241, R404): the measures of a closed frame become final, the loops are evaluated in
ascending index, their ACTUATE messages leave in that order, and the active sends its MIRROR. A standby evaluates nothing, and a device
that took over nothing of the frames before (R406). -/
def evaluateLoops (k : Nat) (a : FrameAcc) (s : Chip) : Chip :=
  if !s.loopsOn k then clearOff (s.measTable k) s
  else
    let vals := s.frameValues k a.id
    let s1 := forN 128 (fun n s => s.setFld (F.LOOP_M_FRAME_VALUE n) (unsext 32 (nth (0, false, false) vals n).1)) s
    let s2 := forN 4 (fun w s => s.setFld (F.LOOP_MVALID_V w)
      ((List.range 32).foldl (fun v b => v ||| place 1 b (b2n (nth (0, false, false) vals (32 * w + b)).2.1)) 0)) s1
    if s.standby || a.passive then s2
    else
      let ok := s.measTable k
      let r := (List.range 64).foldl (fun (acc : Chip × List (Chip → Chip)) l =>
        if s.flagAt k (F.LOOP_L_CFG_EN l) && s.loopUsable k l ok then
          let c := closeLoop k a vals l acc.1
          (c.1, acc.2 ++ c.2.toList)
        else acc) (s2, [])
      mirrorAfterEval a.id (r.2.foldl (fun s f => f s) r.1)

/-- The loops at a commit (R240): a loop that EN starts loads I and OUT; new unusable loops are announced. -/
def loopsCommit (old s : Chip) : Chip :=
  let ok := s.measTable 0
  let s1 := forN 64 (fun l s =>
    if s.flag (F.LOOP_L_CFG_EN l) && !old.flag (F.LOOP_L_CFG_EN l) then
      let v := fun (f : Nat → Fld) => sext 32 (s.fld (f l))
      let i := v F.LOOP_L_PRESET_VALUE
      let out := min (max (sat32 (i + v F.LOOP_L_BIAS_VALUE)) (v F.LOOP_L_OUTMIN_VALUE)) (v F.LOOP_L_OUTMAX_VALUE)
      (s.setFld (F.LOOP_L_INTEG_I l) (unsext 32 i)).setFld (F.LOOP_L_OUT_OUT l) (unsext 32 out)
    else s) s
  let bad := fun (w : Nat) => (List.range 32).foldl (fun v b =>
    v ||| place 1 b (b2n (s1.flag (F.LOOP_L_CFG_EN (32 * w + b)) && !s1.loopUsable 0 (32 * w + b) ok))) 0
  let fresh := bad 0 &&& (2 ^ 32 - 1 - s1.fld F.LOOP_LERR_LO_L) != 0 || bad 1 &&& (2 ^ 32 - 1 - s1.fld F.LOOP_LERR_HI_L) != 0
  cond fresh (raise EV.LOOP_CFG_ERR) ((s1.setFld F.LOOP_LERR_LO_L (bad 0)).setFld F.LOOP_LERR_HI_L (bad 1))

/-! ### Safety conditions (R244 to R248) -/

/-- Condition c at work. -/
def Chip.scState (s : Chip) (c : Nat) : ScState := nth ⟨false, 0, false⟩ s.sc c

/-- Replaces the working state of condition c. -/
def setSc (c : Nat) (x : ScState) (s : Chip) : Chip := { s with sc := s.sc.set c x }

/-- A condition is latched. -/
def Chip.latched (s : Chip) (c : Nat) : Bool := (s.fld F.LOOP_SAFE_LATCH_LATCH).testBit c

/-- Whether a condition that asserts now holds the loops (R248). -/
def Chip.holdsLoops (s : Chip) : Bool := (List.range 16).any fun c => s.asserting c && s.flag (F.LOOP_SC_CFG_HOLDLOOPS c)

/-- A condition stops asserting, at a tick: its pins are released where no other condition drives them, and the loops are held in the frame
that the tick starts only where another condition holds them (R248). -/
def stopAsserting (c : Nat) (s : Chip) : Chip :=
  let s1 := setSc c { s.scState c with release := false } (s.setBit F.LOOP_SAFE_STAT_ASSERT c false)
  { s1 with fb := { s1.fb with cur := s1.fb.cur.map fun (a : FrameAcc) => { a with held := s1.holdsLoops } } }

/-- MIN of a condition; 0 acts as 1. -/
def Chip.scMin (s : Chip) (c : Nat) : Nat := max 1 (s.fld (F.LOOP_SC_MIN_FRAMES c))

/-- SAFETY_RELEASE (R246): a condition that is neither latched nor met stops asserting at the tick that completes MIN frames. -/
def safetyRelease (c : Nat) (s : Chip) : Chip :=
  let x := s.scState c
  if s.asserting c && !s.latched c && !s.flag (F.LOOP_SC_CFG_LATCH c) && !x.met && decide (s.scMin c ≤ x.frames)
      && s.clk.cclk == 0 then
    stopAsserting c s
  else s

/-- A refused release (R246). -/
def refuseRelease (s : Chip) : Chip := raise EV.SAFE_ACK_REFUSED (s.bump F.LOOP_ACK_REFUSE_COUNT)

/-- A write of 1 to latch bits (R246): each asks for a release at the next tick, and one that is met now is refused. -/
def askRelease (mask : Nat) (s : Chip) : Chip :=
  forN 16 (fun c s =>
    if mask.testBit c && s.latched c then
      let x := s.scState c
      if x.met then refuseRelease s else setSc c { x with release := true } s
    else s) s

/-- One tick of the conditions (R246): the frames since each last came to be met, and the releases asked for. A latch that is
released ends the assertion; where LATCH has been set to 0 meanwhile, the rule of LATCH = 0 judges the assertion. -/
def tickSafety (s : Chip) : Chip :=
  forN 16 (fun c s =>
    let x := s.scState c
    let s1 := setSc c { x with frames := x.frames + 1, release := false } s
    if !x.release then s1
    else if x.met then refuseRelease s1
    else
      let s2 := s1.setBit F.LOOP_SAFE_LATCH_LATCH c false
      if s.flag (F.LOOP_SC_CFG_LATCH c) then stopAsserting c s2 else s2) s

/-- A commit took effect (R244, R246): an asserting condition with LATCH = 1 is latched, levels are judged under the new
settings, and new unusable conditions are announced. -/
def safetyCommit (s : Chip) : Chip :=
  let ok := s.measTable 0
  let s1 := forN 16 (fun c s =>
    cond (s.asserting c && s.flag (F.LOOP_SC_CFG_LATCH c)) (fun s => s.setBit F.LOOP_SAFE_LATCH_LATCH c true) s) s
  let s2 := forN 16 (fun c s =>
    let t := s.fld (F.LOOP_SC_CFG_TYPE c)
    if t = 1 || t = 2 then s else setSc c { s.scState c with met := false } s) s1
  let s3 := forN 128 (fun n s => evalLevel ok n s.now s) s2
  let bad := (List.range 16).foldl (fun v c => v ||| place 1 c (b2n (!s3.scUsable c ok))) 0
  let fresh := bad &&& (65535 - s3.fld F.LOOP_SERR_SC) != 0
  cond fresh (raise EV.LOOP_CFG_ERR) (s3.setFld F.LOOP_SERR_SC bad)

/-- A received STOP meets RSTOP conditions (R244, R247); `t` is the time its first block completed. -/
def hearStop (src t : Nat) (s : Chip) : Chip :=
  let ok := s.measTable 0
  forN 16 (fun c s =>
    if s.fld (F.LOOP_SC_CFG_TYPE c) = 4 && (s.fld (F.LOOP_SC_THR_THR c)).testBit src && decide (1 ≤ src) && decide (src ≤ 30)
        && s.scUsable c ok then
      meetCond raise c t s
    else s) s

/-! ### The commands -/

/-- MEASURE_BLOCK_BOUNDARY (R235). -/
def execMeasureBlockBoundary (rw : Fin 6) (s : State) : Host.Outcome State Fault Refusal :=
  .next { s with chip := blockBoundaryOf rw s.chip }

/-- SAFETY_RELEASE (R246). -/
def execSafetyRelease (c : Fin 16) (s : State) : Host.Outcome State Fault Refusal :=
  .next { s with chip := safetyRelease c s.chip }

end Sys2Proof.Machine
end

