-- ==== Sys2Proof/Machine/Record.lean ====
section
/-! DEFINITION. Trigger outputs and records (chapter 04): the combiner, arming, fires, capture, and the record format. -/

namespace Sys2Proof.Machine

/-- Trigger output n. -/
def Chip.out (s : Chip) (n : Nat) : OutSt := Table.get ⟨none, none, [], none, none⟩ s.trg.outs n

/-- Replaces trigger output n. -/
def setOut (n : Nat) (o : OutSt) (s : Chip) : Chip := { s with trg := { s.trg with outs := Table.set s.trg.outs n o } }

/-- An output is enabled for data of configuration age k. -/
def Chip.outEnabled (s : Chip) (k n : Nat) : Bool := s.flagAt k F.TRG_CTL_EN && s.flagAt k (F.TRG_OUT_CTL_EN n)

/-- An output is armed for a frame (R115). -/
def Chip.outArmed (s : Chip) (k n frame : Nat) : Bool :=
  s.outEnabled k n && (!s.flagAt k (F.TRG_OUT_CTL_ARM_MODE n)
    || (s.fld (F.TRG_OUT_ARM_STAT_COUNT n) != 0 && match (s.out n).armFrom with | some a => decide (a ≤ frame) | none => false))

/-- A record of the output is being captured (R113). -/
def Chip.capturing (s : Chip) (n : Nat) : Bool := s.trg.recs.any fun r => r.out == n

/-! ### Terms (R110, R111) -/

/-- The raw slots of a term. -/
def Chip.termSlots (s : Chip) (k n j : Nat) : Nat :=
  s.fldAt k (match j with
    | 0 => F.TRG_OUT_TERM0_SLOTS n
    | 1 => F.TRG_OUT_TERM1_SLOTS n
    | 2 => F.TRG_OUT_TERM2_SLOTS n
    | _ => F.TRG_OUT_TERM3_SLOTS n)

/-- The conditions of a term, each once. -/
def Chip.termConds (s : Chip) (k n j : Nat) : List Nat :=
  let x := s.termSlots k n j
  ((List.range 4).filterMap fun i => if x.testBit (6 * i + 5) then some (bits x (6 * i + 4) (6 * i)) else none).eraseDups

/-- A met term: its trigger time, its leading condition, its conditions as a mask, and the alignment of its leading event. -/
structure Met where
  t     : Nat
  lead  : Nat
  cause : Nat
  align : Bool
deriving DecidableEq, Repr

/-- Orders events by time, then by condition. -/
def evBefore (a b : TrigEvent) : Bool := decide (a.t < b.t) || (a.t == b.t && decide (a.cond < b.cond))

/-- The first event of a list in that order. -/
def firstEvent (es : List TrigEvent) : Option TrigEvent :=
  es.foldl (fun (m : Option TrigEvent) e => match m with | none => some e | some b => if evBefore e b then some e else some b) none

/-- The events that meet a term with t1 at event e: one for each condition, the earliest in [t1, t1 + AWIN). -/
def matchAt (conds : List Nat) (awin : Nat) (free : List TrigEvent) (e : TrigEvent) : Option (List TrigEvent) :=
  conds.foldl (fun (acc : Option (List TrigEvent)) c =>
    match acc with
    | none => none
    | some l =>
      if c = e.cond then some (e :: l)
      else (firstEvent (free.filter fun x => x.cond == c && decide (e.t ≤ x.t) && decide (x.t < e.t + awin))).map (· :: l)) (some [])

/-- Marks an event as used up by a term. -/
def useEvent (key : Nat) (e : TrigEvent) : List TrigEvent → List TrigEvent
  | [] => []
  | x :: xs => if x = e then { x with used := key :: x.used } :: xs else x :: useEvent key e xs

/-- The met term of a set of events. -/
def metOf (es : List TrigEvent) : Option Met :=
  (firstEvent es).map fun e => ⟨e.t, e.cond, es.foldl (fun m x => m ||| 2 ^ x.cond) 0, e.align⟩

/-- The ways a term is met with t1 in a frame, and the events after. -/
def meetTerm (conds : List Nat) (awin key frame : Nat) : Nat → List TrigEvent → List Met × List TrigEvent
  | 0, es => ([], es)
  | n + 1, es =>
    let free := es.filter fun e => conds.contains e.cond && !e.used.contains key
    let starts := free.filter fun e => e.frame == frame
    let found := starts.foldl (fun (m : Option (TrigEvent × List TrigEvent)) e =>
      match m with
      | some (b, _) => if evBefore e b then (matchAt conds awin free e).map (fun l => (e, l)) |>.or m else m
      | none => (matchAt conds awin free e).map fun l => (e, l)) none
    match found with
    | none => ([], es)
    | some (_, l) =>
      let r := meetTerm conds awin key frame n (l.foldl (fun es e => useEvent key e es) es)
      ((metOf l).toList ++ r.1, r.2)

/-- All met terms of an output for a frame (R110). -/
def outputTerms (k n frame : Nat) (s : Chip) : List Met × Chip :=
  let awin := max 1 (s.fldAt k (F.TRG_OUT_AWIN_FTU n))
  (List.range 4).foldl (fun (acc : List Met × Chip) j =>
    let conds := acc.2.termConds k n j
    if conds.isEmpty then acc
    else
      let es := acc.2.trg.events
      let r := meetTerm conds awin (4 * n + j) frame es.length es
      (acc.1 ++ r.1, { acc.2 with trg := { acc.2.trg with events := r.2 } })) ([], s)

/-- Trigger point, PRIMARY and CAUSE of the met terms of a frame (R111). -/
def combine (ms : List Met) : Option Met :=
  ms.foldl (fun (acc : Option Met) m =>
    match acc with
    | none => some m
    | some a =>
      let first := decide (m.t < a.t) || (m.t == a.t && decide (m.lead < a.lead))
      some { (if first then m else a) with cause := a.cause ||| m.cause }) none

/-! ### Decisions (R112 to R117) -/

/-- Why a record is made: by its conditions, by a FORCE, or by the auto timer. -/
inductive Why where
  | met
  | force
  | auto
deriving DecidableEq, Repr

/-- Measurements of an empty record (R128). -/
def RecMeas.empty : RecMeas := ⟨0, 0, 0, 0, 0, 0, 0, 0, none, [none, none, none, none]⟩

/-- The header of a closed frame, without hits. -/
def Chip.closedFrame (s : Chip) (frame : Nat) : Option FrameAcc := s.fb.closed.find? fun a => a.id == frame

/-- EPOCH and the digest as a frame carries them. Of a frame with none of its own (one before the first frame), those of the oldest frame
kept, or as they stand. -/
def Chip.frameConfig (s : Chip) (frame : Nat) : Nat × Nat :=
  match ((s.openFrame frame).or (s.closedFrame frame)).or s.fb.closed.getLast? with
  | some a => (a.epoch, a.cdig)
  | none => (s.fld F.CMD_EPOCH_ACTIVE % 256, (nth 0#64 s.cmd.digests 0).toNat % 65536)

/-- A record at its decision (R113, R118, R123). Under HHIST_EN = 0 it carries no hits. A span that reaches back before network time 0 starts
there, and is clipped (R119). -/
def Chip.newRecord (s : Chip) (k n frame : Nat) (m : Met) (why : Why) : RecSt :=
  let fl := fun (x : Nat → Fld) => s.flagAt k (x n)
  let t0 := m.t - 256 * s.fldAt k (F.TRG_OUT_PRE_TCLK n)
  let t1 := m.t + 256 * s.fldAt k (F.TRG_OUT_POST_TCLK n)
  let filtOn := fl F.TRG_OUT_CTL_HFILT_EN
  let hf := s.fldAt k (F.TRG_OUT_CTL_HFILT n)
  let armed := fl F.TRG_OUT_CTL_ARM_MODE
  let cfg := s.frameConfig frame
  { out := n, seq := s.fld F.TRG_SEQ_NEXT, tp := m.t, qual := s.quality, epoch := cfg.1, cdig := cfg.2, cause := m.cause,
    primary := m.lead, retrig := 0, armId := if armed then s.fld (F.TRG_OUT_ARM_STAT_ARM_ID n) else 0,
    forced := why != .met, auto := why == .auto, armed := armed, align := m.align, filter := filtOn && s.condOnHits k hf,
    trunc := false, spill := false, preClip := decide (m.t < 256 * s.fldAt k (F.TRG_OUT_PRE_TCLK n)), poison := false, tunc := false, gap := false,
    t0 := t0, t1 := t1, tend := t0, next := t0 / frameFtu, lastF := (t1 - 1) / frameFtu, kmax := 0, meas := RecMeas.empty,
    chunk := 0, frames := 0, hseg := [], wseg := [[], [], [], []], xseg := [],
    hits := s.flagAt k F.HIT_FB_CTL_HHIST_EN && fl F.TRG_OUT_CTL_HSEL && (!filtOn || s.condOnHits k hf), filt := if filtOn then some hf else none,
    xsel := fl F.TRG_OUT_CTL_XSEL, wsel := s.fldAt k (F.TRG_OUT_CTL_WSEL n), limit := 64 * s.fldAt k (F.TRG_OUT_LIMIT_UNITS n),
    dest := b2n (fl F.TRG_OUT_CTL_RING_EN) + 2 * b2n (fl F.TRG_OUT_CTL_STREAM_EN) + 4 * b2n (fl F.TRG_OUT_CTL_STORE_EN) }

/-- Marks a retrigger in the newest record whose span holds the trigger point (R113). -/
def markRetrig (n t : Nat) : List RecSt → List RecSt
  | [] => []
  | r :: rs => if r.out = n && decide (t < r.t1) then { r with retrig := min 255 (r.retrig + 1) } :: rs else r :: markRetrig n t rs

/-- A trigger point of an output (R113 to R117). A record stops the auto timer; the tick that ends its capture starts it again (R117). The
frames of a new record before its decision are copied by the caller. -/
def takeTrigger (k n frame : Nat) (m : Met) (why : Why) (s : Chip) : Chip :=
  if s.trg.recs.any fun r => r.out == n && decide (m.t < r.t1) then
    { s with trg := { s.trg with recs := (markRetrig n m.t s.trg.recs.reverse).reverse } }.bump (F.TRG_OUT_RETRIG_CNT_COUNT n)
  else if 16 ≤ s.trg.recs.length then
    raise EV.TRG_NOROOM ((setOut n { s.out n with timer := some s.clk.frame } s).bump F.TRG_NOROOM_CNT_COUNT)
  else
    let r := s.newRecord k n frame m why
    let s1 := noteFill 7 (setOut n { s.out n with timer := none } { s with trg := { s.trg with recs := s.trg.recs ++ [r] } })
    let s2 := (s1.setFld F.TRG_SEQ_NEXT ((r.seq + 1) % 2 ^ 32)).setFld (F.TRG_OUT_LAST_SEQ_SEQ n) r.seq
    let s3 := (s2.bump F.TRG_REC_CNT_COUNT).bump (F.TRG_OUT_REC_CNT_COUNT n)
    let s4 := if why = .met then s3 else s3.bump F.TRG_FORCED_CNT_COUNT
    let s5 := if why = .auto then raise EV.TRG_FORCED s4 else s4
    let s6 := if r.armed then
        let c := s5.fld (F.TRG_OUT_ARM_STAT_COUNT n) - 1
        let t := s5.setFld (F.TRG_OUT_ARM_STAT_COUNT n) c
        if c = 0 then raise EV.TRG_ARM_DONE (setOut n { t.out n with armFrom := none } t) else t
      else s5
    urgentFrom 2 n (measureRecord n s6)

/-- The decision of one output for a frame (R110 to R117). A trigger point of any kind ends the wait for an auto trigger. -/
def decideOutput (k frame n : Nat) (s : Chip) : Chip :=
  let (ms, s1) := outputTerms k n frame s
  let o := s1.out n
  let s2 := setOut n { o with force := o.force.filter fun f => decide (frame < f),
                              auto := if o.auto = some frame then none else o.auto } s1
  if !s2.outArmed k n frame then s2
  else
    let start : Met := ⟨frame * frameFtu, 255, 0, false⟩
    let done := setOut n { s2.out n with auto := none } s2
    match combine ms with
    | some m => takeTrigger k n frame m .met done
    | none =>
      if o.force.contains frame then takeTrigger k n frame start .force done
      else if o.auto = some frame && !s2.capturing n then takeTrigger k n frame start .auto s2
      else s2

/-- The first frame whose decisions are not fixed (R112). -/
def Chip.openFrom (s : Chip) : Nat :=
  match s.fb.prev, s.fb.cur with
  | some a, _ => a.id
  | none, some a => a.id
  | none, none => s.clk.frame

/-- A term with one enabled slot, which names a condition (R112). -/
def Chip.singleTerm (s : Chip) (k n j c : Nat) : Bool :=
  let x := s.termSlots k n j
  ((List.range 4).countP fun i => x.testBit (6 * i + 5)) == 1 && s.termConds k n j == [c]

/-- A late event (R112): judged alone, against the terms with one enabled slot. -/
def lateEvent (e : TrigEvent) (s : Chip) : Chip :=
  let k := s.ageOf e.frame
  let r := (List.range 8).foldl (fun (acc : Bool × Chip) n =>
    let hit := (List.range 4).any fun j => acc.2.singleTerm k n j e.cond
    if hit && acc.2.outArmed k n e.frame then
      (true, takeTrigger k n e.frame ⟨e.t, e.cond, 2 ^ e.cond, e.align⟩ .met acc.2)
    else acc) (false, s)
  if r.1 then r.2 else raise EV.TRG_LATE_EVENT (r.2.bump F.TRG_LATE_EV_COUNT)

/-! ### Reading the histories (R118, R119, R125 to R127) -/

/-- The object of a frame in a history. -/
def Chip.heldFrame (s : Chip) (n frame : Nat) : Option Obj :=
  ((s.region n).objs.reverse).find? fun o => o.tag == frame

/-- What one frame adds to a record: hit words, waveform words, result words, whether a word was poisoned, the measurements,
and the chip after the reads. -/
structure Part where
  hseg : List W64
  wseg : List (List W64)
  xseg : List W64
  bad  : Bool
  meas : RecMeas
deriving DecidableEq, Repr

/-- The measurements with one hit more (R128). -/
def RecMeas.addHit (m : RecMeas) (w weight : Nat) : RecMeas :=
  let plain := !hitShort w && !hitSat w
  let e := hitEnergy w
  { m with
    whits := satTo 32 (m.whits + weight), nhits := satTo 32 (m.nhits + 1)
    esum := if plain then satTo 64 (m.esum + e * weight) else m.esum
    rowsum := satTo 64 (m.rowsum + hitRow w * weight), colsum := satTo 64 (m.colsum + hitCol w * weight)
    nsat := satTo 16 (m.nsat + b2n (hitSat w)), nshort := satTo 16 (m.nshort + b2n (hitShort w))
    emax := if plain then max m.emax e else m.emax
    emin := if plain then some (match m.emin with | some x => min x e | none => e) else m.emin }

/-- The measurements with stored samples of a channel more (R128). -/
def RecMeas.addSamples (m : RecMeas) (c : Nat) (vs : List Int) : RecMeas :=
  let step := fun (x : Option (Int × Int)) (v : Int) => match x with | none => some (v, v) | some (a, b) => some (min a v, max b v)
  { m with mm := m.mm.set c (vs.foldl step (nth none m.mm c)) }

/-- The hit segment's part of a frame (R125). -/
def hitPart (r : RecSt) (frame : Nat) (p : Part) (s : Chip) : Part × Chip :=
  if !r.hits then (p, s)
  else match s.heldFrame 1 frame with
  | none => (p, s)
  | some o =>
    let (ws, bad, s1) := readObj 1 o s
    let h1 := (nth 0#64 ws 1).toNat
    let k := s.ageOf frame
    let keep := (ws.drop 2).filter fun w =>
      let t := frame * frameFtu + hitToa w.toNat
      decide (r.t0 ≤ t) && decide (t < r.t1) && (match r.filt with | some c => s.qualifies k c w.toNat | none => true)
    let meas := keep.foldl (fun (m : RecMeas) w =>
      m.addHit w.toNat (2 ^ bits h1 (14 + 3 * quadrantOf (hitRow w.toNat) (hitCol w.toNat)) (12 + 3 * quadrantOf (hitRow w.toNat) (hitCol w.toNat)))) p.meas
    let head := [ws.headD 0#64, w64 ((h1 - place 16 32 (bits h1 47 32)) ||| place 16 32 keep.length)]
    ({ p with hseg := p.hseg ++ head ++ keep, bad := p.bad || bad, meas := meas }, s1)

/-- The samples of stored words. -/
def storedSamples (signed : Bool) (ws : List W64) : List Int :=
  (ws.flatMap fun w => (List.range 4).map fun i => bits w.toNat (16 * i + 15) (16 * i)).map fun x => if signed then sext 16 x else (x : Int)

/-- A waveform segment's part of a frame (R126, R147). -/
def wavePart (r : RecSt) (frame c : Nat) (p : Part) (s : Chip) : Part × Chip :=
  if !r.wsel.testBit c then (p, s)
  else match s.heldFrame (2 + c) frame with
  | none => (p, s)
  | some o =>
    let (ws, bad, s1) := readObj (2 + c) o s
    let n := bits (nth 0#64 ws 1).toNat 63 32
    let per := max 1 (o.t1 - o.t0)
    let signed := !s.flagAt (s.ageOf frame) (F.WAV_CH_CFG_SE c)
    let all := (storedSamples signed (ws.drop 2)).take n
    let lo := min n (ceilDiv (r.t0 - o.t0) per)
    let hi := min n (ceilDiv (r.t1 - o.t0) per)
    let vs := (all.take hi).drop lo
    let first := if vs.isEmpty then 0 else o.t0 + lo * per - frame * frameFtu
    let block := [ws.headD 0#64, w64 (place 32 32 vs.length ||| place 20 0 first)] ++ packSamples vs
    ({ p with wseg := p.wseg.set c (nth [] p.wseg c ++ block), bad := p.bad || bad, meas := p.meas.addSamples c vs }, s1)

/-- The result segment's part of a frame (R127). Frames are appended one by one (R120), so the entries stand in XHIST order within a frame,
and a frame's after those of the frame before it (DEDUCED, notes/assumptions/54). -/
def resultPart (r : RecSt) (frame : Nat) (p : Part) (s : Chip) : Part × Chip :=
  if !r.xsel then (p, s)
  else
    let os := (s.region 6).objs.filter fun o => o.tag == frame && decide (r.t0 ≤ o.t0) && decide (o.t0 < r.t1)
    os.foldl (fun (acc : Part × Chip) o =>
      let (ws, bad, t) := readObj 6 o acc.2
      ({ acc.1 with xseg := acc.1.xseg ++ ws, bad := acc.1.bad || bad }, t)) (p, s)

/-- Everything a frame adds to a record. -/
def framePart (r : RecSt) (frame : Nat) (s : Chip) : Part × Chip :=
  let p0 : Part := ⟨[], [[], [], [], []], [], false, r.meas⟩
  let (p1, s1) := hitPart r frame p0 s
  let (p2, s2) := (List.range 4).foldl (fun (acc : Part × Chip) c => wavePart r frame c acc.1 acc.2) (p1, s1)
  resultPart r frame p2 s2

/-- Words of a part. -/
def Part.size (p : Part) : Nat := p.hseg.length + (p.wseg.map List.length).sum + p.xseg.length

/-- The first frame from which on every history a record includes holds the span up to a frame (R119): HHIST holds each frame that was
written to it and not overwritten, and no frame before the first closed one; WHIST and XHIST hold every frame that was not overwritten.
Where HHIST holds frames on both sides of one that it does not hold, the captured span starts after it (DEDUCED,
notes/assumptions/54). -/
def Chip.clipFrom (s : Chip) (r : RecSt) (upto : Nat) : Nat :=
  let hs := (((List.range 4).filter r.wsel.testBit).map (2 + ·)) ++ (if r.xsel then [6] else [])
  let old := match s.fb.closed.getLast? with | some a => a.id | none => 0
  let gaps := s.fb.closed.filter fun a => decide (r.next ≤ a.id) && decide (a.id ≤ upto) && (s.heldFrame 1 a.id).isNone
  let held := if r.hits then gaps.foldl (fun m a => max m (a.id + 1)) old else 0
  hs.foldl (fun m n => max m (s.region n).lost) held

/-! ### The record format (R123, R124, R128) -/

/-- FLAGS of a chunk (R124). -/
def RecSt.flags (r : RecSt) (last : Bool) : Nat :=
  place 1 15 (b2n r.forced) ||| place 1 14 (b2n r.auto) ||| place 1 13 (b2n r.trunc) ||| place 1 12 (b2n r.spill)
    ||| place 1 11 (b2n last) ||| place 1 10 (b2n r.preClip) ||| place 1 9 (b2n r.poison) ||| place 1 8 (b2n r.tunc)
    ||| place 1 7 (b2n r.align) ||| place 1 6 (b2n r.armed) ||| place 1 5 (b2n r.gap) ||| place 1 4 (b2n r.filter)

/-- MAX and MIN of a channel in 32 bits (R128). -/
def RecMeas.mmWord (m : RecMeas) (c : Nat) : Nat :=
  match nth none m.mm c with
  | some (lo, hi) => place 16 16 (unsext 16 hi) ||| unsext 16 lo
  | none => 0

/-- The 18 header words of a chunk (R123). -/
def recordHeader (r : RecSt) (last : Bool) (s : Chip) : List W64 :=
  let m := r.meas
  let seg := fun c => (nth [] r.wseg c).length
  [w64 (place 32 32 r.seq ||| place 5 27 s.addr ||| place 3 24 r.out ||| place 8 16 r.epoch ||| r.flags last),
   w64 (place 32 32 r.cause ||| place 16 16 r.cdig ||| place 8 8 r.primary ||| place 8 0 r.retrig)]
  ++ time128 r.tp r.qual ++
  [w64 (unsext 64 ((r.t0 : Int) - (r.tp : Int))), w64 (unsext 64 ((r.tend : Int) - (r.tp : Int))),
   w64 (place 16 48 (if r.armed then r.armId else 0) ||| place 16 32 r.chunk ||| place 3 29 r.kmax),
   w64 (place 32 32 r.hseg.length ||| place 32 0 r.xseg.length),
   w64 (place 32 32 (seg 1) ||| place 32 0 (seg 0)), w64 (place 32 32 (seg 3) ||| place 32 0 (seg 2)),
   w64 (place 32 32 m.whits ||| place 32 0 m.nhits), w64 m.esum, w64 m.rowsum, w64 m.colsum,
   w64 (place 16 48 m.nsat ||| place 16 32 m.nshort ||| place 12 20 m.emax ||| place 12 8 (m.emin.getD 0xFFF)),
   w64 (place 32 32 (m.mmWord 1) ||| m.mmWord 0), w64 (place 32 32 (m.mmWord 3) ||| m.mmWord 2),
   w64 (place 32 32 r.size)]

/-! ### Delivery (R121, R122) -/

/-- A chunk is complete: it takes its place in RECORD and goes to its destinations. -/
def deliverChunk (r : RecSt) (last : Bool) (s : Chip) : Chip :=
  let ws := recordHeader r last s ++ r.hseg ++ r.wseg.flatten ++ r.xseg
  let store := r.dest.testBit 2
  let ring := r.dest.testBit 0
  let whole := !r.spill
  let readers := (if ring && whole then [Reader.ring] else []) ++ (if store then [Reader.store] else [])
    ++ (if r.dest.testBit 1 then s.recordReaders r.out else [])
  let (id, s1) := match putQueue 7 ws r.seq r.t0 r.tend readers (addBacklog 2 (8 * ws.length) s) with
    | some (id, t) => (some id, t)
    | none => (none, s)
  let copy := if whole then ws else ws.take 18
  let s2 := if ring then sendContent 0x11 2 (.record (id.getD 0)) r.out copy false s1 else s1
  let s3 := if r.dest.testBit 1 then streamRecord r.out id copy s2 else s2
  if store then
    match id with
    | some i => handStore ⟨2, 7, i, s3.clk.frame, true⟩ s3
    | none => refuseObject s3
  else s3

/-- Replaces the record of a sequence number; none takes it out of assembly. What it holds counts in the fill of RECORD (R89, R99). -/
def setRec (seq : Nat) (r : Option RecSt) (s : Chip) : Chip :=
  noteFill 7 { s with trg := { s.trg with recs := s.trg.recs.flatMap fun x => if x.seq = seq then r.toList else [x] } }

/-- A record ends: its last chunk is delivered and its slot is free (R113, R122). -/
def endRecord (r : RecSt) (s : Chip) : Chip := deliverChunk r true (setRec r.seq none s)

/-- A record is cut before a frame (R120, R121). It is no longer captured, so a later trigger point inside the span it would have had makes a
new record (DESIGN CHOICE, notes/assumptions/53). -/
def truncateRecord (r : RecSt) (frame : Nat) (s : Chip) : Chip :=
  let t := max r.t0 (frame * frameFtu)
  endRecord { r with trunc := true, tend := t } (raise EV.TRG_TRUNCATED (s.bump F.TRG_TRUNC_CNT_COUNT))

/-- The next chunk of a spilling record, still empty (R121). -/
def RecSt.nextChunk (r : RecSt) : RecSt :=
  { r with chunk := r.chunk + 1, frames := 0, hseg := [], wseg := [[], [], [], []], xseg := [] }

/-- A part joins the chunk of a record (R120). -/
def RecSt.take (r : RecSt) (p : Part) (frame : Nat) : RecSt :=
  { r with
    hseg := r.hseg ++ p.hseg, wseg := (r.wseg.zip p.wseg).map fun x => x.1 ++ x.2, xseg := r.xseg ++ p.xseg
    poison := r.poison || p.bad, meas := p.meas, frames := r.frames + 1, next := frame + 1
    tend := min r.t1 ((frame + 1) * frameFtu) }

/-- What the header of a frame of the span gives a record (R123, R124), whether or not a history holds the frame. -/
def RecSt.see (s : Chip) (r : RecSt) (a : FrameAcc) : RecSt :=
  { r with tunc := r.tunc || s.tunc a.id, gap := r.gap || a.ovf || a.odrop, kmax := max r.kmax (a.ks.foldl max 0) }

/-- The closed frames of the span give a record their flags. -/
def RecSt.seeFrames (s : Chip) (r : RecSt) : RecSt :=
  (s.fb.closed.filter fun a => decide (r.next ≤ a.id) && decide (a.id ≤ r.lastF)).foldl (RecSt.see s) r

/-- Words that a chunk may still take: the LIMIT of its output, and the free space of RECORD (R120). -/
def Chip.recordRoom (s : Chip) (r : RecSt) : Nat :=
  let space := s.regionFree 7
  if r.limit = 0 then space else min space (r.limit - r.size)

/-- A frame is appended to a record, or ends the record or its chunk (R120, R121). A chunk that ends the record is delivered
by the caller. -/
def appendFrame (seq frame : Nat) (s : Chip) : Chip :=
  match s.trg.recs.find? fun r => r.seq == seq with
  | none => s
  | some r0 =>
    let (p, s1) := framePart r0 frame s
    let put := fun (r : RecSt) (s : Chip) =>
      let r1 := (s.closedFrame frame).toList.foldl (RecSt.see s) (r.take p frame)
      if r1.spill && decide (max 1 (s.fld F.TRG_SPILL_CHUNK_FRAMES) ≤ r1.frames) && decide (frame < r1.lastF) then
        deliverChunk r1 false (setRec seq (some r1.nextChunk) s)
      else setRec seq (some r1) s
    if p.size ≤ s1.recordRoom r0 then put r0 s1
    else if r0.dest.testBit 2 && s1.stoEnabled then
      let s2 := if r0.spill then s1 else raise EV.TRG_SPILL (s1.bump F.TRG_SPILL_CNT_COUNT)
      let r1 : RecSt := { r0 with spill := true, tend := max r0.t0 (frame * frameFtu) }
      let r2 := r1.nextChunk
      let s3 := deliverChunk r1 false (setRec seq (some r2) s2)
      if p.size ≤ s3.recordRoom r2 then put r2 s3 else truncateRecord r2 frame s3
    else truncateRecord r0 frame s1

/-- A record whose last frame has closed ends (R113, R122). -/
def finishRecord (seq frame : Nat) (s : Chip) : Chip :=
  match s.trg.recs.find? fun r => r.seq == seq with
  | some r => if r.lastF ≤ frame || r.t1 ≤ r.t0 then endRecord { r with tend := r.t1 } s else s
  | none => s

/-- The frames before a new record's decision (R119): clipped to what the histories hold, and copied oldest first. -/
def assembleStart (seq frame : Nat) (s : Chip) : Chip :=
  match s.trg.recs.find? fun r => r.seq == seq with
  | none => s
  | some r0 =>
    let clip := s.clipFrom r0 frame
    let clipped := (decide (r0.next < clip) || r0.preClip) && decide (r0.t0 < r0.t1)
    let start := max r0.t0 (min r0.t1 (clip * frameFtu))
    let r := { r0.seeFrames s with preClip := false }
    let first := max r.next clip
    let s1 := if clipped then
        raise EV.TRG_PRE_CLIP ((setRec seq (some { r with preClip := true, t0 := start, tend := start, next := first }) s).bump
          F.TRG_PRECLIP_CNT_COUNT)
      else setRec seq (some r) s
    let upto := min frame r.lastF
    let s2 := if r.t1 ≤ r.t0 then s1
      else forN (upto + 1 - first) (fun i s => appendFrame seq (first + i) s) s1
    finishRecord seq frame s2

/-- The records decided since a sequence number was next are assembled up to a closed frame. -/
def assembleNew (seqs : List Nat) (frame : Nat) (s : Chip) : Chip :=
  forAll ((s.trg.recs.map RecSt.seq).filter fun q => !seqs.contains q) (fun q s => assembleStart q frame s) s

/-- RECORD_DECISION and RECORD_APPEND at the close of a frame (R112, R113, R120): every hit of the frame is in the merged stream before the
decision (R84, R100). -/
def closeTriggers (k frame : Nat) (s0 : Chip) : Chip :=
  let s := mergeUpTo (fun m => decide (m.frame ≤ frame)) s0
  if !s.domainUp 2 then s
  else
    let old := s.trg.recs.map RecSt.seq
    let s1 := forN 8 (fun n s => decideOutput k frame n s) s
    let s2 := { s1 with trg := { s1.trg with events := s1.trg.events.filter fun e => decide (frame < e.frame) } }
    let s3 := forAll old (fun q s =>
      match s.trg.recs.find? fun r => r.seq == q with
      | some r => finishRecord q frame (if r.next ≤ frame && frame ≤ r.lastF then appendFrame q frame s else s)
      | none => s) s2
    assembleNew old frame s3

/-! ### Fires (R107, R108) -/

/-- The late events among those that wait (R112). -/
def judgeLate (s : Chip) : Chip :=
  let from_ := s.openFrom
  let late := s.trg.events.filter fun e => decide (e.frame < from_)
  let old := s.trg.recs.map RecSt.seq
  let s1 := { s with trg := { s.trg with events := s.trg.events.filter fun e => decide (from_ ≤ e.frame) } }
  if late.isEmpty then s else assembleNew old (from_ - 1) (forAll late lateEvent s1)

/-- A fire that is dropped (R108). -/
def dropFire (s : Chip) : Chip := raise EV.TRG_FIRE_DROP (s.bump F.TRG_FIRE_DROP_COUNT)

/-- An accepted fire (R108). -/
def acceptFire (d : FireDup) (s : Chip) : Chip :=
  { s with trg := { s.trg with dups := s.trg.dups ++ [d] } }.bump F.TRG_FIRE_CNT_COUNT

/-- A FIRE packet or command (R107, R108): its argument words, and the event time of arrival alignment. -/
def fireIn (cmd : Bool) (w0 w1 w2 : W64) (arrival : Nat) (s : Chip) : Chip :=
  if !s.domainUp 2 || !s.flag F.TRG_CTL_EN then s
  else
    let code := bits w0.toNat 3 0
    let ns := bits w1.toNat 63 32
    let sub := bits w1.toNat 31 16
    let sec := w2.toNat
    let d : FireDup := ⟨code, sec, ns, sub, s.clk.ticks⟩
    if 999999999 < ns then (if cmd then s else dropFire s)
    else if s.trg.dups.any fun x => x.code == code && x.sec == sec && x.ns == ns && x.sub == sub then s.bump F.TRG_FIRE_DUP_COUNT
    else if (sec != 0 || ns != 0 || sub != 0) && s.quality != 3 then
      let t := ofTime128 sec ns sub
      if (s.clk.frame + 1) * frameFtu < t then
        if s.now + framesPerSec * frameFtu < t || 4 ≤ s.trg.pend.length then dropFire s
        else acceptFire d { s with trg := { s.trg with pend := s.trg.pend ++ [⟨t, code, cmd⟩] } }
      else judgeLate (triggerFire cmd code t false (acceptFire d s))
    else judgeLate (triggerFire cmd code arrival true (acceptFire d s))

/-- FIRE_PENDING_DUE (R108): the pending fires whose frame is open are met. -/
def firePending (s : Chip) : Chip :=
  if !s.domainUp 2 || s.flag F.TIM_STAT_STEP_HOLD then s
  else
    let due := s.trg.pend.filter fun p => decide (p.t / frameFtu ≤ s.clk.frame)
    let s1 := { s with trg := { s.trg with pend := s.trg.pend.filter fun p => !decide (p.t / frameFtu ≤ s.clk.frame) } }
    judgeLate (forAll due (fun p s => triggerFire p.cmd p.code p.t false s) s1)

/-! ### ARM, FORCE and the auto timer (R115 to R117) -/

/-- An ARM argument word waits for the tick (R115). -/
def armIn (w : W64) (s : Chip) : Chip :=
  if !s.domainUp 2 then s
  else
    let x := w.toNat
    forN 8 (fun n s =>
      if (bits x 15 8).testBit n && s.flag (F.TRG_OUT_CTL_ARM_MODE n) then
        setOut n { s.out n with armNext := some (bits x 47 32, bits x 7 0) } s
      else s) s

/-- A FORCE argument word (R116). -/
def forceIn (w : W64) (s : Chip) : Chip :=
  if !s.domainUp 2 then s
  else forN 8 (fun n s =>
    if w.toNat.testBit n && s.outArmed 0 n s.clk.frame then
      setOut n { s.out n with force := if (s.out n).force.contains s.clk.frame then (s.out n).force else s.clk.frame :: (s.out n).force } s
    else s) s

/-- AUTO_TRIGGER (R117): the frame e + AUTO has begun and the output had no trigger point. -/
def autoTrigger (n : Nat) (s : Chip) : Chip :=
  let a := s.fld (F.TRG_OUT_AUTO_FRAMES n)
  match (s.out n).timer with
  | some e =>
    if s.domainUp 2 && a != 0 && s.clk.frame == e + a && s.outArmed 0 n s.clk.frame && !s.capturing n then
      setOut n { s.out n with auto := some s.clk.frame } s
    else s
  | none => s

/-- ARM_LOAD at the tick that starts the frame in progress (R115). What it loads also governs the trigger points of earlier frames that are
not decided yet (DESIGN CHOICE, notes/assumptions/53). And fires that no duplicate can repeat any more. -/
def tickArm (s : Chip) : Chip :=
  let s1 := forN 8 (fun n s =>
    let o := s.out n
    match o.armNext with
    | some (id, c) =>
      let was := s.fld (F.TRG_OUT_ARM_STAT_COUNT n) != 0
      ((setOut n { o with armNext := none, armFrom := if c = 0 then none else if was then o.armFrom else some s.clk.frame } s).setFld
        (F.TRG_OUT_ARM_STAT_ARM_ID n) id).setFld (F.TRG_OUT_ARM_STAT_COUNT n) c
    | none => s) s
  { s1 with trg := { s1.trg with dups := s1.trg.dups.filter fun d => decide (s1.clk.ticks < d.frame + 16) } }

/-- The auto timers at a tick, after the captures that it ends (R117). -/
def tickAuto (s : Chip) : Chip :=
  forN 8 (fun n s =>
    let o := s.out n
    let runs := s.fld (F.TRG_OUT_AUTO_FRAMES n) != 0 && s.outArmed 0 n s.clk.frame && !s.capturing n
    let timer := if runs then (match o.timer with | some e => some e | none => some s.clk.frame) else none
    if timer = o.timer then s else setOut n { o with timer := timer } s) s

/-- RECORD is emptied: the records in assembly lose their contents and end without a chunk (R94; DESIGN CHOICE, notes/assumptions/53). -/
def dropRecords (s : Chip) : Chip := { s with trg := { s.trg with recs := [] } }

/-! ### The commands -/

/-- FIRE_PENDING_DUE (R108). -/
def execFirePendingDue (s : State) : Host.Outcome State Fault Refusal := .next { s with chip := firePending s.chip }

/-- AUTO_TRIGGER (R117). -/
def execAutoTrigger (out : Fin 8) (s : State) : Host.Outcome State Fault Refusal :=
  .next { s with chip := autoTrigger out s.chip }

end Sys2Proof.Machine
end

