-- ==== Sys2Proof/Machine/RegIo.lean ====
section
/-! DEFINITION. Reads and writes of registers by commands (R5 to R11, R229, R353): windows and tables, live values, captures,
clearing reads, and the effect of a write. -/

namespace Sys2Proof.Machine

/-! ### What belongs to one sender (R10, R229, R353) -/

/-- The holding copies of a sender: bit 32 is set while a copy is held (R10). -/
def Chip.hold (s : Chip) : Sender → SMap 33
  | .ring .east => s.regs.holdE
  | .ring .west => s.regs.holdW
  | .side => s.regs.holdS

/-- Replaces the holding copies of a sender. -/
def setHold (x : Sender) (m : SMap 33) (s : Chip) : Chip :=
  match x with
  | .ring .east => { s with regs := { s.regs with holdE := m } }
  | .ring .west => { s with regs := { s.regs with holdW := m } }
  | .side => { s with regs := { s.regs with holdS := m } }

/-- CAL_TBL_PAGE of a sender (R229). -/
def Chip.calPage (s : Chip) : Sender → Nat
  | .ring .east => s.cmd.calPageE
  | .ring .west => s.cmd.calPageW
  | .side => s.cmd.calPageS

/-- Sets CAL_TBL_PAGE of a sender. -/
def setCalPage (x : Sender) (v : Nat) (s : Chip) : Chip :=
  match x with
  | .ring .east => { s with cmd := { s.cmd with calPageE := v } }
  | .ring .west => { s with cmd := { s.cmd with calPageW := v } }
  | .side => { s with cmd := { s.cmd with calPageS := v } }

/-- STO_TBL_PAGE of a sender (R353). -/
def Chip.stoPage (s : Chip) : Sender → Nat
  | .ring .east => s.sto.pageE
  | .ring .west => s.sto.pageW
  | .side => s.sto.pageS

/-- Sets STO_TBL_PAGE of a sender. -/
def setStoPage (x : Sender) (v : Nat) (s : Chip) : Chip :=
  match x with
  | .ring .east => { s with sto := { s.sto with pageE := v } }
  | .ring .west => { s with sto := { s.sto with pageW := v } }
  | .side => { s with sto := { s.sto with pageS := v } }

/-! ### Registers that a coded memory holds -/

/-- The half word of a memory behind a register; `ro` where the register is RO. -/
structure TabRef where
  mem  : Nat
  word : Nat
  hi   : Bool
  ro   : Bool
deriving DecidableEq, Repr

/-- In the CAL_TBL_WIN window. -/
def inCalWin (a : Nat) : Bool := decide (0x71000 ≤ a) && decide (a < 0x72000)

/-- In the STO_TBL_WIN window. -/
def inStoWin (a : Nat) : Bool := decide (0x9800 ≤ a) && decide (a < 0xA000)

/-- A window register of CAL_TBL_WIN covers table bytes on this page (R229). -/
def calAssigned (page a : Nat) : Bool :=
  decide (page < 48) || (decide (64 ≤ page) && decide (page < 112)) || ((page == 48 || page == 112) && decide (a < 0x71200))

/-- An address is assigned to a register (R9, R425), as the sender's page stands. -/
def Chip.assigned (s : Chip) (x : Sender) (a : Nat) : Bool :=
  (regRow? a).isSome && (!inCalWin a || calAssigned (s.calPage x) a)

/-- The half word behind a register of PIX, LIN, CAL_TBL_WIN or STO_TBL_WIN, in one bank (R69, R181, R229, R353, R379). -/
def Chip.tabRef (s : Chip) (x : Sender) (shadow : Bool) (a : Nat) : Option TabRef :=
  let at_ := fun (mem byte : Nat) (ro : Bool) => some (TabRef.mk mem (byte / 8) (decide (4 ≤ byte % 8)) ro)
  if 0x10000 ≤ a && a < 0x20000 then at_ (if shadow then 3 else 2) (a - 0x10000) false
  else if 0x50000 ≤ a && a < 0x51000 then at_ (if shadow then 8 else 7) (a - 0x50000) false
  else if inCalWin a then
    let b := 4096 * s.calPage x + (a - 0x71000)
    if b < 0x40000 then at_ (if shadow then 5 else 4) b false else at_ 6 (b - 0x40000) true
  else if inStoWin a then at_ 1 (2048 * s.stoPage x + (a - 0x9800)) false
  else none

/-- A half of a word. -/
def halfOf (hi : Bool) (d : Nat) : Nat := if hi then d / 2 ^ 32 % 2 ^ 32 else d % 2 ^ 32

/-! ### Live values -/

/-- Replaces a field in a register value. -/
def putFld (v : Nat) (f : Fld) (x : Nat) : Nat := v ^^^ place f.w f.lo (bits v (f.lo + f.w - 1) f.lo ^^^ (x % 2 ^ f.w))

/-- Replaces fields in a register value. -/
def putFlds (v : Nat) (l : List (Fld × Nat)) : Nat := l.foldl (fun v p => putFld v p.1 p.2) v

/-- Extent entries that are not FREE, and entries with LOCK (R353). -/
def Chip.extentCounts (s : Chip) : Nat × Nat :=
  let l := (s.mem 1).data.filter fun e => e.1 != 0
  (l.countP fun e => extState e.2.toNat != 0, l.countP fun e => e.2.toNat.testBit 10)

/-- The oldest log entry as MIN_LOG_LO and MIN_LOG_HI show it (R393); 0 with an empty log. -/
def Chip.logHead (s : Chip) : Nat :=
  match s.scrub.log with
  | [] => 0
  | e :: _ => place 1 63 1 ||| place 3 60 e.kind ||| place 2 58 e.source ||| place 4 54 e.mem ||| place 8 46 e.count
      ||| place 23 23 e.word ||| place 7 16 e.bit ||| place 16 0 e.frame

/-- A configuration word is poisoned (MIN_STAT.CFG_POISON). -/
def Chip.cfgPoison (s : Chip) : Bool := (List.range 12).any fun m => memIsConfig m && s.poisonCount m != 0

/-- Groups of events with a status bit set, and with one whose EN is 1 (R436). -/
def Chip.evtSummary (s : Chip) : Nat × Nat :=
  (List.range 12).foldl (fun (acc : Nat × Nat) g =>
    (acc.1 ||| place 1 g (b2n (s.fld (F.EVT_STAT_STAT g) != 0)),
     acc.2 ||| place 1 g (b2n (s.fld (F.EVT_STAT_STAT g) &&& s.fld (F.EVT_EN_EN g) != 0)))) (0, 0)

/-- Live fields of the blocks below 0x01_0000. -/
def Chip.liveLow (s : Chip) (x : Sender) (a : Nat) : List (Fld × Nat) :=
  let dig := fun (i : Nat) (lo : Bool) => halfOf (!lo) (s.digestOf i)
  let tok := fun (p : Port) (c : Nat) => (s.port p).tok c / 2048
  if a = 0x1008 then [(F.TIM_FRAME_IDX_INDEX, frameIdx s.frameNow)]
  else if a = 0x100C then [(F.TIM_FRAME_SEC_LO_SEC, frameSec s.frameNow % 2 ^ 32)]
  else if a = 0x1010 then [(F.TIM_FRAME_SEC_HI_SEC, frameSec s.frameNow / 2 ^ 32)]
  else if a = 0x1014 then [(F.TIM_RESIDUAL_RESIDUAL, min 511 s.clk.residual)]
  else if a = 0x2000 then
    [(F.CMD_STAT_PENDING, b2n s.cmd.target.isSome), (F.CMD_STAT_DIRTY, b2n s.bankDirty), (F.CMD_STAT_DIG_BUSY, 0),
     (F.CMD_STAT_PRELOCK, b2n !s.clk.counting), (F.CMD_STAT_SIDE_Q, s.cmd.sideQ.length)]
  else if a = 0x2018 then [(F.CMD_CDIG_A_LO_DIGEST, dig 0 true)]
  else if a = 0x201C then [(F.CMD_CDIG_A_HI_DIGEST, dig 0 false)]
  else if a = 0x2020 then [(F.CMD_FDIG_A_LO_DIGEST, dig 1 true)]
  else if a = 0x2024 then [(F.CMD_FDIG_A_HI_DIGEST, dig 1 false)]
  else if a = 0x2028 then [(F.CMD_CDIG_S_LO_DIGEST, dig 2 true)]
  else if a = 0x202C then [(F.CMD_CDIG_S_HI_DIGEST, dig 2 false)]
  else if a = 0x2030 then [(F.CMD_FDIG_S_LO_DIGEST, dig 3 true)]
  else if a = 0x2034 then [(F.CMD_FDIG_S_HI_DIGEST, dig 3 false)]
  else if a = 0x3004 then [(F.EVT_SUMMARY_ANY, s.evtSummary.1), (F.EVT_SUMMARY_ENABLED, s.evtSummary.2)]
  else if a = 0x3008 then [(F.EVT_PIN_SENSE, b2n (s.evtDrive || s.pins.extEvt)), (F.EVT_PIN_DRIVE, b2n s.evtDrive)]
  else if a = 0x610C then [(F.RN_TOK01_C0 0, tok .east 0), (F.RN_TOK01_C1 0, tok .east 1)]
  else if a = 0x6110 then [(F.RN_TOK23_C2 0, tok .east 2), (F.RN_TOK23_C3 0, tok .east 3)]
  else if a = 0x618C then [(F.RN_TOK01_C0 1, tok .west 0), (F.RN_TOK01_C1 1, tok .west 1)]
  else if a = 0x6190 then [(F.RN_TOK23_C2 1, tok .west 2), (F.RN_TOK23_C3 1, tok .west 3)]
  else if a = 0x8004 then
    [(F.MIN_STAT_CFG_POISON, b2n s.cfgPoison), (F.MIN_STAT_SCRUBBING, b2n s.scrub.running), (F.MIN_STAT_MEM, s.scrub.mem)]
  else if a = 0x8040 then [(F.MIN_LOG_LO_ENTRY, halfOf false s.logHead)]
  else if a = 0x8044 then [(F.MIN_LOG_HI_ENTRY, halfOf true s.logHead)]
  else if a = 0x8048 then [(F.MIN_LOG_LEVEL_COUNT, s.scrub.log.length)]
  else if 0x8200 ≤ a && a < 0x8230 then [(F.MIN_M_POISONED_COUNT ((a - 0x8200) / 4), s.poisonCount ((a - 0x8200) / 4))]
  else if a = 0x9004 then [(F.STO_STAT_ENABLED, b2n s.stoEnabled)]
  else if a = 0x9010 then [(F.STO_CSEQ_NEXT, s.sto.csWrite % 2 ^ 32)]
  else if a = 0x9014 then [(F.STO_OUTST_ITEMS, min 65535 (s.sto.items.countP fun i => !i.waiting || i.resends != 0))]
  else if a = 0x9018 then [(F.STO_FREE_COUNT, 262143 - s.extentCounts.1)]
  else if a = 0x901C then [(F.STO_LOCKED_COUNT, s.extentCounts.2)]
  else if a = 0x9080 then [(F.STO_TBL_PAGE_PAGE, s.stoPage x)]
  else []

/-- Live fields of the blocks from 0x02_0000 on. -/
def Chip.liveHigh (s : Chip) (x : Sender) (a : Nat) : List (Fld × Nat) :=
  if 0x20000 ≤ a && a < 0x30000 then
    let p := (a - 0x20000) / 64
    if a % 64 = 4 then
      [(F.PRT_STAT_STALL p, b2n (s.stalled p)), (F.PRT_STAT_TDC0_BUSY p, b2n ((s.tdc p 0).busyAt s.clockFtu)),
       (F.PRT_STAT_TDC1_BUSY p, b2n ((s.tdc p 1).busyAt s.clockFtu)), (F.PRT_STAT_FIFO_LEVEL p, (s.fifo p).length)]
    else []
  else if a = 0x30018 then
    [(F.HIT_FE_STAT_UNLOCKED, (List.range 1024).countP fun p =>
        (List.range 2).any fun i => s.tdcEnabled p i && !s.tdcLocked p i),
     (F.HIT_FE_STAT_FOLLY_ACTIVE, b2n s.follyOn)]
  else if a = 0x30140 then [(F.HIT_HHIST_SPAN_FRAMES, min 0xFFFF (s.region 1).objs.length)]
  else if 0x301C0 ≤ a && a < 0x301E8 then [(F.HIT_STORE_FILL_FILL ((a - 0x301C0) / 4), s.regionFill ((a - 0x301C0) / 4))]
  else if a = 0x38004 then
    let mask := fun (f : Nat → Bool) => (List.range 8).foldl (fun v n => v ||| place 1 n (b2n (f n))) 0
    [(F.TRG_STAT_PEND, s.trg.pend.length), (F.TRG_STAT_CAPTURING, mask s.capturing),
     (F.TRG_STAT_ARMED, mask fun n => s.outArmed 0 n s.clk.frame), (F.TRG_STAT_SLOTS, s.trg.recs.length)]
  else if a = 0x40004 then
    [(F.WAV_STAT_ACTIVE, (List.range 4).foldl (fun v c =>
        v ||| place 1 c (b2n (s.wavEnabled 0 c && !(s.fld F.WAV_STAT_SETTLING).testBit c))) 0),
     (F.WAV_STAT_OWNER, s.owners)]
  else if 0x40100 ≤ a && a < 0x40180 && (a - 0x40100) % 32 = 20 then
    [(F.WAV_CH_SPAN_FRAMES ((a - 0x40100) / 32), min 0xFFFF (s.region (2 + (a - 0x40100) / 32)).objs.length)]
  else if a = 0x48004 then
    let run := s.xdc.run
    let urgent := match run with | some r => (match r.urgent with | some u => 2 ^ u | none => 0) | none => 0
    [(F.XDC_STAT_CUR, match run with | some r => r.entry | none => 0), (F.XDC_STAT_RUN, b2n run.isSome),
     (F.XDC_STAT_URG_PEND, s.xdc.pend ||| urgent), (F.XDC_STAT_PROFILE, s.xprofile)]
  else if a = 0x70010 then [(F.CAL_TBL_PAGE_PAGE, s.calPage x)]
  else if a = 0x80004 then
    [(F.LOOP_SAFE_STAT_MET, (List.range 16).foldl (fun v c => v ||| place 1 c (b2n (s.scState c).met)) 0)]
  else if a = 0x8000C then
    [(F.LOOP_PIN_STAT_SENSE_A, b2n (s.blankDrive false || s.pins.extBlankA)),
     (F.LOOP_PIN_STAT_SENSE_B, b2n (s.blankDrive true || s.pins.extBlankB)),
     (F.LOOP_PIN_STAT_DRIVE_A, b2n (s.blankDrive false)), (F.LOOP_PIN_STAT_DRIVE_B, b2n (s.blankDrive true))]
  else []

/-- `direct` as reads see its RC fields: as the CCLK in progress found it (R6). Before the first tick no CCLK is told apart. -/
def Chip.rcView (s : Chip) : SMap 32 := if s.clk.counting then s.regs.before else s.regs.direct

/-- The value of a register that no table holds, in one bank (R5, R8): its RC fields as they stood before this CCLK (R6). -/
def Chip.regValue (s : Chip) (x : Sender) (shadow : Bool) (a : Nat) : Nat :=
  match regRow? a with
  | none => 0
  | some r =>
    let rst := BitVec.ofNat 32 (r.reset a)
    let rws := r.mask (· == .rws)
    let rest := r.mask fun c => c != .rws && c != .wo && c != .rc
    let bank := (rst ^^^ (if shadow then s.regs.shadow else s.regs.active).get a).toNat
    let v := (bank &&& rws) ||| ((rst ^^^ s.regs.direct.get a).toNat &&& rest) ||| ((rst ^^^ s.rcView.get a).toNat &&& r.mask fun c => c == .rc)
    putFlds v (if a < 0x10000 then s.liveLow x a else s.liveHigh x a)

/-! ### Reads -/

/-- The upper words that a read of a lower address captures (R10, R41, R202). LOOP_LERR_LO and _HI count as one 64-bit quantity, as
their names say; the four LOOP_MERR and the four LOOP_MVALID registers hold bits of their own sources and are none (DESIGN CHOICE,
notes/assumptions/38). The two RTE registers of a group hold separate routes (R429) and are no 64-bit quantity. -/
def captures (a : Nat) : List Nat :=
  if a = 0x4 || a = 0x100C || a = 0x2018 || a = 0x2020 || a = 0x2028 || a = 0x2030 || a = 0x8040 || a = 0x48030
      || a = 0x48038 || a = 0x80040 then [a + 4]
  else if a = 0x1008 then [0x100C, 0x1010]
  else if 0x7400 ≤ a && a < 0x7C00 && a % 8 = 0 then [a + 4]
  else if inStoWin a && a % 8 = 0 then [a + 4]
  else if 0x48800 ≤ a && a < 0x48A00 && a % 8 = 0 then [a + 4]
  else if 0x60100 ≤ a && a < 0x60300 then
    match (a - 0x60100) % 128 with
    | 0x10 => [a + 4]
    | 0x18 => [a + 4, a + 8, a + 12, a + 16, a + 20, a + 24, a + 28]
    | 0x24 => [a + 4]
    | 0x2C => [a + 4]
    | _ => []
  else if 0x60400 ≤ a && a < 0x60600 then
    match (a - 0x60400) % 64 with
    | 0x04 => [a + 4, a + 8, a + 12]
    | 0x14 => [a + 4]
    | _ => []
  else []

/-- A holding copy is taken (R10). -/
def holdAt (x : Sender) (a v : Nat) (s : Chip) : Chip :=
  setHold x ((s.hold x).set a (BitVec.ofNat 33 (2 ^ 32 + v % 2 ^ 32))) s

/-- The holding copy of an address, where one is held: a sender has one copy for each upper address, whatever page was selected when
it was taken (DESIGN CHOICE, notes/assumptions/38). -/
def Chip.held? (s : Chip) (x : Sender) (a : Nat) : Option Nat :=
  let v := ((s.hold x).get a).toNat
  if 2 ^ 32 ≤ v then some (v % 2 ^ 32) else none

/-- An RC field that holds a high-water mark and no count: PRT_FIFO_HWM, HIT_STORE_FILL.HWM, HIT_HEDGE_STAT.OCC_HWM, RN_BUF_HWM. -/
def isMark (a lo : Nat) : Bool :=
  (decide (0x20000 ≤ a) && decide (a < 0x30000) && a % 64 == 0x14) || (decide (0x301C0 ≤ a) && decide (a < 0x301E8))
    || a == 0x613C || a == 0x61BC || (decide (0x30404 ≤ a) && decide (a < 0x30504) && a % 8 == 4 && lo == 0)

/-- What an RC field keeps after a read (R6): the counts made in the CCLK of the read, or the mark that was reached in it. -/
def rcKept (a : Nat) (f : FieldDef) (before now : Nat) : Nat :=
  let b := bits before (f.lo + f.w - 1) f.lo
  let n := bits now (f.lo + f.w - 1) f.lo
  place f.w f.lo (if isMark a f.lo then (if n = b then 0 else n) else n - b)

/-- Clears the RC fields of a register after a read (R5): what was counted in the CCLK of the read stays (R6). A mark reads 0 until
the next write raises it, however high the fill stands (DESIGN CHOICE, notes/assumptions/38). -/
def clearRc (a : Nat) (s : Chip) : Chip :=
  match regRow? a with
  | none => s
  | some r =>
    let m := BitVec.ofNat 32 (r.mask (· == .rc))
    let old := (s.rcView.get a).toNat
    let now := s.regs.direct.get a
    let kept := (r.fields.filter fun f => f.acc == .rc).foldl (fun v f => v ||| rcKept a f old now.toNat) 0
    { s with regs := { s.regs with
        direct := s.regs.direct.set a ((now &&& ~~~m) ||| (BitVec.ofNat 32 kept &&& m))
        before := s.regs.before.set a (s.regs.before.get a &&& ~~~m) } }

/-- What a read does beside returning the value: RC fields clear, the log gives up its oldest entry (R392), and the read of
the stuck counter clears the address's VALID (R71). -/
def readEffects (a : Nat) (s : Chip) : Chip :=
  if a = 0x8040 then { s with scrub := { s.scrub with log := s.scrub.log.tail } }
  else if a = 0x8044 then s
  else if a = 0x30024 then (clearRc a s).setFlag F.HIT_FE_STUCK_ADDR_VALID false
  else clearRc a s

/-- A read of a register: its value, whether a poisoned word was touched, and the chip after it (R5, R8, R10, R384). Three points that
the spec leaves open follow the first words of R10, 'a read of the upper address returns that holding copy' (DESIGN CHOICE,
notes/assumptions/38): a held copy is returned in either bank, even where it was taken from the active bank and bank 1 asks for the
shadow value (TIP_POj_TIME1 to TIME3, PERIOD_HI); a register that is both a captured word and the lower word of a pair
(TIM_FRAME_SEC_LO, TIP_CHk_MIN_LO, MAX_LO) is returned from its copy once it is held; and then its read captures nothing anew. -/
def readReg (x : Sender) (shadow : Bool) (a : Nat) (s : Chip) : Nat × Bool × Chip :=
  match s.held? x a with
  | some v => (v, false, s)
  | none =>
    match s.tabRef x shadow a with
    | some t =>
      let (d, bad, s1) := memRead t.mem t.word s
      let d' := if t.mem = 1 && t.word = 0 then 0 else d
      (halfOf t.hi d', bad, forAll (captures a) (fun b s => holdAt x b (halfOf true d') s) s1)
    | none =>
      let v := s.regValue x shadow a
      let s1 := forAll (captures a) (fun b t => holdAt x b (s.regValue x shadow b) t) s
      (v, false, readEffects a s1)

/-- Reads registers in ascending order (R7): the values, whether a poisoned word was touched, and the chip. -/
def readRegs (x : Sender) (shadow : Bool) (as : List Nat) (s : Chip) : List Nat × Bool × Chip :=
  let r := as.foldl (fun (acc : List Nat × Bool × Chip) a =>
    let (v, bad, t) := readReg x shadow a acc.2.2
    (v :: acc.1, acc.2.1 || bad, t)) ([], false, s)
  (r.1.reverse, r.2.1, r.2.2)

/-- The old value that WRM merges with (R356), without the side effects of a read. -/
def peekReg (x : Sender) (shadow : Bool) (a : Nat) (s : Chip) : Nat × Chip :=
  match s.tabRef x shadow a with
  | some t => let (d, _, s1) := memRead t.mem t.word s; (halfOf t.hi d, s1)
  | none => (s.regValue x shadow a, s)

/-! ### Writes -/

/-- Bytes of a shadow table word were written by host software (R224). -/
def noteTouchedTable (mem word : Nat) (hi : Bool) (s : Chip) : Chip :=
  let key := 0x100000 * mem + 8 * word + (if hi then 4 else 0)
  { s with cmd := { s.cmd with touched := s.cmd.touched.set key 0xFFFFFFFF#32, shadowWritten := true } }

/-- A write of the halves `mask` (1 low, 2 high, 3 both) of a table word (R229, R353, R385). Only the shadow copy of an RWS table
can be written; entry 0 of the extent table never changes. -/
def writeTable (mem word mask v : Nat) (s : Chip) : Chip :=
  let bytes := (if mask.testBit 0 then 0x0F else 0) ||| (if mask.testBit 1 then 0xF0 else 0)
  if mem = 1 then
    if word = 0 then s
    else
      let s1 := memWrite 1 word bytes v s
      if s1.memData 1 word = s.memData 1 word then s1 else markDirty word s1
  else
    let s1 := memWrite mem word bytes v s
    let s2 := if mask.testBit 0 then noteTouchedTable mem word false s1 else s1
    if mask.testBit 1 then noteTouchedTable mem word true s2 else s2

/-- A write of the shadow of a register's RWS fields (R8). -/
def writeShadow (a v : Nat) (r : RegRow) (s : Chip) : Chip :=
  let m := BitVec.ofNat 32 (r.mask (· == .rws))
  let rst := BitVec.ofNat 32 (r.reset a)
  let new := (s.regs.shadow.get a &&& ~~~m) ||| ((BitVec.ofNat 32 v ^^^ rst) &&& m)
  { s with
    regs := { s.regs with shadow := s.regs.shadow.set a new }
    cmd := { s.cmd with
      touched := s.cmd.touched.set a (s.cmd.touched.get a ||| m), shadowWritten := true, digDirty := true,
      tpWrite := s.cmd.tpWrite || a == 0x30010 || a == 0x30014 } }

/-- A write of a register's fields that are not RWS (R5, R6, R28): RW takes the value, W1C clears where a 1 is written and
the hardware did not set the bit in the same CCLK, WO acts.
A write of 1 to LOOP_SAFE_LATCH asks for a release and clears nothing by itself (R246). -/
def writeDirect (a v : Nat) (r : RegRow) (s : Chip) : Chip :=
  let rw := BitVec.ofNat 32 (r.mask (· == .rw))
  let w1c := BitVec.ofNat 32 (r.mask (· == .w1c))
  let rst := BitVec.ofNat 32 (r.reset a)
  let x := BitVec.ofNat 32 v
  if a = 0x80008 then askRelease (bits v 15 0) s
  else if a = 0x48020 then urgentRequests (bits v 3 0) s
  else
    let cur := rst ^^^ s.regs.direct.get a
    let new := ((cur &&& ~~~rw) ||| (x &&& rw)) &&& ~~~(x &&& w1c &&& ~~~s.setInCycle a)
    { s with regs := { s.regs with direct := s.regs.direct.set a (new ^^^ rst) } }

/-- A write of one register (R5, R8, R9). A write with bank 1 to a register that holds RWS fields writes their shadow, any other
write acts on the fields that are not RWS. -/
def writeReg (x : Sender) (shadow : Bool) (a v : Nat) (s : Chip) : Chip :=
  match regRow? a with
  | none => s
  | some r =>
    if a = 0x70010 then setCalPage x (bits v 6 0) s
    else if a = 0x9080 then setStoPage x (bits v 9 0) s
    else match s.tabRef x true a with
      | some t =>
        if t.ro || (t.mem != 1 && !shadow) then s
        else writeTable t.mem t.word (if t.hi then 2 else 1) (v % 2 ^ 32 * (if t.hi then 2 ^ 32 else 1)) s
      | none => if r.hasRws && shadow then writeShadow a v r s else writeDirect a v r s

/-- The writes of a command, in ascending order (R356). Two registers that make up one table word are written together. -/
def writeRegs (x : Sender) (shadow : Bool) : List (Nat × Nat) → Chip → Chip
  | [], s => s
  | [p], s => writeReg x shadow p.1 p.2 s
  | p :: q :: rest, s =>
    match s.tabRef x true p.1 with
    | some t =>
      if !t.hi && !t.ro && (t.mem == 1 || shadow) && q.1 == p.1 + 4 && (s.assigned x q.1) then
        writeRegs x shadow rest (writeTable t.mem t.word 3 (p.2 % 2 ^ 32 + 2 ^ 32 * (q.2 % 2 ^ 32)) s)
      else writeRegs x shadow (q :: rest) (writeReg x shadow p.1 p.2 s)
    | none => writeRegs x shadow (q :: rest) (writeReg x shadow p.1 p.2 s)

end Sys2Proof.Machine
end

