-- ==== Sys2Proof/Machine/Integrity.lean ====
section
/-! DEFINITION. The scrubber (R387, R388), DIAG_WR (R394) and the voted state (R395). -/

namespace Sys2Proof.Machine

/-- The memory after m that is scrubbed (R379), 12 when there is none. -/
def nextScrubbed (m : Nat) : Nat := ((List.range 12).find? fun k => decide (m < k) && memScrubbed k).getD 12

/-- MIN_SCRUB.PERIOD_MS between 250 and 60,000 (R387). -/
def Chip.scrubPeriod (s : Chip) : Nat := max 250 (min 60000 (s.fld F.MIN_SCRUB_PERIOD_MS))

/-- The end of a pass (R387, R389). -/
def endPass (s : Chip) : Chip :=
  let s1 := (s.bump F.MIN_PASS_CNT_COUNT).setFld F.MIN_PASS_FRAMES_FRAMES (satTo 32 s.scrub.frames)
  { s1 with scrub := { s1.scrub with running := false, mem := 0, block := 0, recheck := true } }

/-- SCRUB_BLOCK_CHECK (R387): the next block of the pass in progress. -/
def scrubCheck (s : Chip) : Chip :=
  if !s.running || !s.flag F.MIN_CTL_SCRUB_EN || !s.scrub.running then s
  else
    let m := s.scrub.mem
    let b := s.scrub.block
    let s1 := blockCheck 0 m b s
    if 8 * (b + 1) < memWords m then { s1 with scrub := { s1.scrub with block := b + 1 } }
    else if nextScrubbed m = 12 then endPass s1
    else { s1 with scrub := { s1.scrub with mem := nextScrubbed m, block := 0 } }

/-- One tick of the scrubber (R387): the frames since the pass began; the next pass starts at the next multiple of PERIOD_MS
(312.5 frames to the millisecond) after the start of the one before. -/
def tickScrub (s : Chip) : Chip :=
  let n := s.scrub.frames + 1
  let per := 625 * s.scrubPeriod
  let starts := !s.scrub.running && s.flag F.MIN_CTL_SCRUB_EN && decide (2 * s.scrub.frames / per < 2 * n / per)
  { s with scrub := { s.scrub with frames := if starts then 0 else n, running := s.scrub.running || starts } }

/-- DIAG_WR arguments out of range (R394): BAD_ADDR. -/
def diagBad (w0 : Nat) : Bool :=
  let m := bits w0 63 60
  decide (bits w0 7 0 = 0) || decide (3 < bits w0 7 0) || decide (11 < m) || decide (memWords m ≤ bits w0 54 32)

/-- FLIP (R394): bits of the target change under their parity and column word. -/
def diagFlip (m w : Nat) (col : Bool) (pmask dmask : Nat) (s0 : Chip) : Chip :=
  let s := refreshDigests s0
  let x := s.mem m
  let b := w / 8
  let par := byteParity dmask ^^^ pmask
  let x1 := { x with colD := x.colD.set b (x.colD.get b ^^^ w64 dmask) }
  s.setMem m (if col then { x1 with colP := x1.colP.set b (x1.colP.get b ^^^ BitVec.ofNat 8 par) }
    else { x1 with data := x1.data.set w (x1.data.get w ^^^ w64 dmask), par := x1.par.set w (x1.par.get w ^^^ BitVec.ofNat 8 par) })

/-- POISON (R394): the word is poisoned, with a KIND 3 entry. -/
def diagPoison (m w : Nat) (s : Chip) : Chip :=
  logEvent ⟨3, 3, m, 1, w, 0x7F, frameIdx s.frameNow % 65536⟩ (s.setMem m ((s.mem m).poison w))

/-- A DIAG_WR that runs (R394). -/
def diagWr (w0 w1 : Nat) (s : Chip) : Chip :=
  let m := bits w0 63 60
  let w := bits w0 54 32
  match bits w0 7 0 with
  | 1 => diagFlip m w (w0.testBit 31) (bits w0 23 16) w1 s
  | 2 => diagPoison m w s
  | _ => blockCheck 3 m (w / 8) s

/-- TMR_FIX (R395): the copies of an item disagree and take the majority; the voted value does not change. -/
def tmrFix (i : Nat) (s : Chip) : Chip :=
  if s.up then raise EV.TMR_FIX ((s.latchBit F.MIN_TMR_STAT_ITEM i).bump F.MIN_TMR_CNT_COUNT) else s

/-! ### The commands -/

/-- SCRUB_BLOCK_CHECK (R387). -/
def execScrubBlockCheck (s : State) : Host.Outcome State Fault Refusal := .next { s with chip := scrubCheck s.chip }

/-- TMR_FIX (R395). -/
def execTmrFix (item : Fin 9) (s : State) : Host.Outcome State Fault Refusal := .next { s with chip := tmrFix item.val s.chip }

end Sys2Proof.Machine
end

