-- ==== Sys2Proof/Machine/Jtag.lean ====
section
/-! DEFINITION. The JTAG port (R421, R450): the TAP controller of IEEE 1149.1 (PRESUMED, see notes/assumptions/8: the spec names
the standard and not its state table), its instructions, and what they make of the lands. -/

namespace Sys2Proof.Machine

/-- The next state of the TAP controller at a rising edge of TCK, by TMS. -/
def TapState.next (st : TapState) (tms : Bool) : TapState :=
  match st with
  | .testLogicReset => if tms then .testLogicReset else .runTestIdle
  | .runTestIdle => if tms then .selectDr else .runTestIdle
  | .selectDr => if tms then .selectIr else .captureDr
  | .captureDr => if tms then .exit1Dr else .shiftDr
  | .shiftDr => if tms then .exit1Dr else .shiftDr
  | .exit1Dr => if tms then .updateDr else .pauseDr
  | .pauseDr => if tms then .exit2Dr else .pauseDr
  | .exit2Dr => if tms then .updateDr else .shiftDr
  | .updateDr => if tms then .selectDr else .runTestIdle
  | .selectIr => if tms then .testLogicReset else .captureIr
  | .captureIr => if tms then .exit1Ir else .shiftIr
  | .shiftIr => if tms then .exit1Ir else .shiftIr
  | .exit1Ir => if tms then .updateIr else .pauseIr
  | .pauseIr => if tms then .exit2Ir else .pauseIr
  | .exit2Ir => if tms then .updateIr else .shiftIr
  | .updateIr => if tms then .selectDr else .runTestIdle

/-- The instructions of R450. EXTEST_PULSE and EXTEST_TRAIN stand together: they differ only in the signal on the ring lanes. -/
inductive TapInstr where
  | extest
  | idcode
  | sample
  | clamp
  | highz
  | extestPulse
  | extestTrain
  | bypass
deriving DecidableEq, Repr

/-- The instruction of a code (R450): codes without a row act as BYPASS. -/
def tapInstr (ir : BitVec 8) : TapInstr :=
  match ir.toNat with
  | 0x00 => .extest
  | 0x01 => .idcode
  | 0x02 => .sample
  | 0x04 => .clamp
  | 0x05 => .highz
  | 0x08 => .extestPulse
  | 0x09 => .extestTrain
  | _ => .bypass

/-- The instruction selects the boundary-scan register. -/
def TapInstr.scansBoundary : TapInstr → Bool
  | .extest | .sample | .extestPulse | .extestTrain => true
  | _ => false

/-- IDCODE (R450): version 0x1, part 0x0734, manufacturer 0x55A, and 1. -/
def idCode : Nat := 0x10734AB5

/-- Reset of the TAP (R421): TRST_N, PORST_N, or five TCK with TMS high. IDCODE is loaded as the instruction. -/
def Tap.toReset (t : Tap) : Tap := { t with st := .testLogicReset, ir := 0x01#8, tdo := none }

/-- What the selected data register captures, next bit to leave first, and the counter of free values after it. The levels that
the boundary-scan cells find on their lands are free values. -/
def captureDr (ir : BitVec 8) (free : Nat) : List Bool × Nat :=
  match tapInstr ir with
  | .idcode => ((List.range 32).map idCode.testBit, free)
  | .bypass | .clamp | .highz => ([false], free)
  | _ =>
    ((List.range Config.boundaryCells).map fun i => (Config.freeValue (free + i / 64)).toNat.testBit (i % 64),
     free + Config.boundaryCells / 64 + 1)

/-- What a rising edge of TCK does in a state of the controller: captures and shifts. Of the bits that the instruction register
captures, the two lowest are 01 and the others free. -/
def tapRising (tdi : Bool) (t : Tap) (free : Nat) : Tap × Nat :=
  match t.st with
  | .captureIr => ({ t with irSh := BitVec.ofNat 8 ((Config.freeValue free).toNat % 64 * 4 + 1) }, free + 1)
  | .shiftIr => ({ t with irSh := BitVec.ofNat 8 (t.irSh.toNat / 2 + 128 * b2n tdi) }, free)
  | .captureDr => ({ t with drSh := (captureDr t.ir free).1 }, (captureDr t.ir free).2)
  | .shiftDr => ({ t with drSh := t.drSh.drop 1 ++ [tdi] }, free)
  | _ => (t, free)

/-- What the falling edge of TCK does in the state just entered: updates, and TDO. -/
def tapFalling (t : Tap) : Tap :=
  match t.st with
  | .testLogicReset => t.toReset
  | .updateIr => { t with ir := t.irSh, tdo := none }
  | .updateDr => { t with latch := if (tapInstr t.ir).scansBoundary then t.drSh else t.latch, tdo := none }
  | .shiftIr => { t with tdo := some (t.irSh.toNat.testBit 0) }
  | .shiftDr => { t with tdo := some (t.drSh.headD false) }
  | _ => { t with tdo := none }

/-- One cycle of TCK: a rising edge with TMS and TDI, then the falling edge. -/
def Tap.clock (tms tdi : Bool) (t : Tap) (free : Nat) : Tap × Nat :=
  let r := tapRising tdi t free
  (tapFalling { r.1 with st := r.1.st.next tms }, r.2)

/-- Who drives the output lands that have a boundary-scan cell (R450): the device, the update latches, or nobody. -/
inductive LandControl where
  | device
  | latches
  | highZ
deriving DecidableEq, Repr

/-- The control of the output lands with a driving cell. INRING, BLANK_A_N and BLANK_B_N have observe-only cells: they are under
device control in every instruction (R421). -/
def Tap.landControl (t : Tap) : LandControl :=
  match tapInstr t.ir with
  | .extest | .extestPulse | .extestTrain | .clamp => .latches
  | .highz => .highZ
  | _ => .device

/-- TRST_N (R421). -/
def execTrstN (s : State) : Host.Outcome State Fault Refusal := .next { s with tap := s.tap.toReset }

/-- TCK (R450). While PORST_N or a supply monitor holds the TAP in reset, nothing happens. -/
def execTck (tms tdi : Bool) (s : State) : Host.Outcome State Fault Refusal :=
  if s.chip.rst.porst || s.chip.rst.supply then .next s
  else
    let r := s.tap.clock tms tdi s.chip.free
    .next { s with chip := { s.chip with free := r.2 }, tap := r.1 }

end Sys2Proof.Machine
end

