-- ==== Sys2Proof/Machine/Line.lean ====
section
/-! DEFINITION. The lines of the ring ports: scrambling, PRBS31, the bits on the transmit lands, transition density (R278, R286, R288 to
R290), and the toggle crossings that carry what the lanes count and announce (R422). -/

namespace Sys2Proof.Machine

/-! ### Toggle crossings (R421, R422) -/

/-- The acknowledge phase of the crossings of a port, in FTU: 14.93 ns at full rate and 30.29 ns at fall-back. -/
def Chip.ackPhase (s : Chip) (p : Port) : Nat := if s.flag (F.LN_STAT_FALLBACK p.ix) then 9925 else 4892

/-- The crossing at an instant: a phase that ended with pulses pending has sent them with the next request. -/
def Toggle.advance (len now : Nat) (x : Toggle) : Option Toggle :=
  if now < x.ends then some x
  else if x.pending = 0 || x.ends + len ≤ now then none
  else some ⟨x.ends + len, 0⟩

/-- `n` pulses at an instant: how many are lost, and the crossing after them. A counted crossing holds up to `room` pulses back, a
single one none. -/
def Toggle.pulse (len now room n : Nat) (x : Option Toggle) : Nat × Option Toggle :=
  if n = 0 then (0, x)
  else
    let y := x.getD ⟨now + len, 0⟩
    let more := match x with | none => n - 1 | some _ => n
    (y.pending + more - room, some { y with pending := min room (y.pending + more) })

/-- Pulses lost in a crossing (R422). -/
def noteOverrun (bit lost : Nat) (s : Chip) : Chip :=
  if lost = 0 then s else raise EV.CDC_OVERRUN ((s.bumpBy F.GLB_CDC_OVR_COUNT lost).latchBit F.GLB_CDC_STAT_OVR bit)

/-- `n` pulses cross: the number of them that arrive, and the chip after them. `key` names the toggle, `bit` the crossing. -/
def cross (p : Port) (key bit room n : Nat) (s : Chip) : Nat × Chip :=
  let now := s.clockFtu
  let len := s.ackPhase p
  let x := ((s.cdc.find? fun e => e.1 == key).bind fun e => e.2.advance len now)
  let r := Toggle.pulse len now room n x
  let rest := s.cdc.filter fun e => e.1 != key
  (n - r.1, noteOverrun bit r.1 { s with cdc := match r.2 with | some y => Table.set rest key y | none => rest })

/-- The error counts of a lane that cross by counted toggles (R421). -/
inductive LaneCount where
  | sherr | amCrc | amPos | prbs
deriving DecidableEq, Repr

/-- The number of a port's toggle for a count of a lane; 16 is its single toggle. -/
def toggleKey (p : Port) (c : LaneCount) (lane : Nat) : Nat :=
  32 * p.ix + 4 * (match c with | .sherr => 0 | .amCrc => 1 | .amPos => 2 | .prbs => 3) + lane

/-- `n` errors of a lane are counted in a register, over their counted crossing: 4 for port E, 5 for port W. -/
def crossCount (p : Port) (c : LaneCount) (lane : Nat) (f : Fld) (n : Nat) (s : Chip) : Chip :=
  let r := cross p (toggleKey p c lane) (4 + p.ix) 15 n s
  r.2.bumpBy f r.1

/-- A state pulse of a port over its single crossing. -/
def crossState (p : Port) (s : Chip) : Chip := (cross p (32 * p.ix + 16) 6 0 1 s).2

/-- The crossings of a port hold nothing any more (R423). -/
def dropToggles (p : Port) (s : Chip) : Chip := { s with cdc := s.cdc.filter fun e => e.1 / 32 != p.ix }

/-! ### Bits of a lane (R278, R290) -/

/-- A bit into a shift register, lowest. -/
def shiftIn {w : Nat} (st : BitVec w) (b : Bool) : BitVec w := (st <<< 1) ||| (BitVec.ofBool b).setWidth w

/-- The scrambler's feedback, x³⁹ and x⁵⁸. -/
def scrTap (st : BitVec 58) : Bool := xor (st.getLsbD 38) (st.getLsbD 57)

/-- Bits through the scrambler G(x) = 1 + x³⁹ + x⁵⁸, and its state after them. -/
def scramble : BitVec 58 → List Bool → List Bool × BitVec 58
  | st, [] => ([], st)
  | st, b :: bs =>
    let o := xor b (scrTap st)
    let r := scramble (shiftIn st o) bs
    (o :: r.1, r.2)

/-- Bits through the descrambler, and its state after them. -/
def descramble : BitVec 58 → List Bool → List Bool × BitVec 58
  | st, [] => ([], st)
  | st, b :: bs =>
    let r := descramble (shiftIn st b) bs
    (xor b (scrTap st) :: r.1, r.2)

/-- Bits of the PRBS31 generator x³¹ + x²⁸ + 1, and its state after them. -/
def prbs31 : Nat → BitVec 31 → List Bool × BitVec 31
  | 0, st => ([], st)
  | n + 1, st =>
    let o := xor (st.getLsbD 30) (st.getLsbD 27)
    let r := prbs31 n (shiftIn st o)
    (o :: r.1, r.2)

/-- A payload as the line carries it: bit 0 first. -/
def payloadBits (x : Nat) : List Bool := (List.range 64).map x.testBit

/-- A sync header as the line carries it: its upper bit first, as in IEEE 802.3 clause 49. -/
def syncBits (sync : Nat) : List Bool := [sync.testBit 1, sync.testBit 0]

/-- The bits of a slot as one vector, the first lowest. -/
def slotBits (l : List Bool) : BitVec 66 := (l.zip (List.range 66)).foldl (fun v x => if x.1 then v ||| BitVec.twoPow 66 x.2 else v) 0#66

/-- A lane whose registers hold ones and that received nothing yet. -/
def LineSt.rest : LineSt := ⟨BitVec.allOnes 58, BitVec.allOnes 31, 0#66, BitVec.allOnes 58, 0, 0, false⟩

/-- Lane k of a port. -/
def Chip.lineOf (s : Chip) (p : Port) (k : Nat) : LineSt := s.line.get LineSt.rest (4 * p.ix + k)

/-- Replaces lane k of a port. -/
def setLine (p : Port) (k : Nat) (x : LineSt) (s : Chip) : Chip := { s with line := s.line.set (4 * p.ix + k) x }

/-! ### Transmission (R278, R279, R288 to R290) -/

/-- A loopback or PRBS is active (R290). -/
def Chip.inTest (s : Chip) (p : Port) : Bool :=
  s.fld (F.LN_TEST_LOOP p.ix) != 0 || s.flag (F.LN_TEST_PRBS p.ix)

/-- The transmitter waits for the lanes of a widening (R288). -/
def Chip.widening (s : Chip) (p : Port) : Bool :=
  s.trained p && s.fld (F.LN_STAT_LMASK_TX p.ix) == 1 && (s.lane p).nmask == 15

/-- A transmit lane is powered: an active lane, or one that a widening brings up (R288). -/
def Chip.txPowered (s : Chip) (p : Port) (k : Nat) : Bool :=
  s.running && s.fld (F.LN_STAT_STATE p.ix) != 0 && ((s.fld (F.LN_STAT_LMASK_TX p.ix)).testBit k || s.widening p)

/-- What the transmit lands of a lane carry in its last slot, with the polarity of TXPOL (R274): nothing where the lane is powered down,
or held at common mode by NES or NEP (R289). -/
def Chip.lands (s : Chip) (p : Port) (k : Nat) : Option (BitVec 66) :=
  let loop := s.fld (F.LN_TEST_LOOP p.ix)
  if !s.txPowered p k || loop = 1 || loop = 2 then none
  else
    let w := (s.lineOf p k).wire
    some (if (s.fld (F.LN_CFG_TXPOL p.ix)).testBit k then ~~~w else w)

/-- The typical drive of the transmit lanes of a port (R447): swing in mV, pre-cursor de-emphasis in 0.5 dB and post-cursor de-emphasis in
dB, from the codes of LNx_TXEQ. -/
def Chip.txDrive (s : Chip) (p : Port) : Nat × Nat × Nat :=
  (400 + 50 * s.fld (F.LN_TXEQ_SWING p.ix), min 8 (s.fld (F.LN_TXEQ_PRE p.ix)), min 12 (s.fld (F.LN_TXEQ_POST p.ix)))

/-- The line side of a block: sync header and scrambled payload. -/
def LineSt.send (x : LineSt) (b : BitVec 66) : LineSt :=
  let r := scramble x.scr (payloadBits b.toNat)
  { x with scr := r.2, wire := slotBits (syncBits (b.toNat >>> 64) ++ r.1) }

/-- The line side of an AM, which the scrambler does not see. -/
def LineSt.sendAm (x : LineSt) (b : BitVec 66) : LineSt :=
  { x with wire := slotBits (syncBits (b.toNat >>> 64) ++ payloadBits b.toNat) }

/-- A slot of PRBS31 in place of a block. -/
def LineSt.sendPrbs (x : LineSt) : LineSt :=
  let r := prbs31 66 x.prbs
  { x with prbs := r.2, wire := slotBits r.1 }

/-! ### Reception (R278, R286, R289) -/

/-- The toggling bit boundaries of bits that follow a bit. -/
def togglesOf : Bool → List Bool → Nat
  | _, [] => 0
  | p, b :: bs => b2n (xor p b) + togglesOf b bs

/-- A received slot counts towards the window in progress; at 4,096 slots the next window starts. The flag tells that the window that
ended had at least 1/4 of its bit boundaries toggling. -/
def LineSt.count (bitsIn : List Bool) (x : LineSt) : Bool × LineSt :=
  let n := x.toggles + togglesOf x.last bitsIn
  let l := bitsIn.getLastD x.last
  if 4096 ≤ x.slots + 1 then (decide (270336 ≤ 4 * n), { x with slots := 0, toggles := 0, last := l })
  else (false, { x with slots := x.slots + 1, toggles := n, last := l })

/-- A lane at rest. -/
def LaneOne.rest : LaneOne := ⟨false, false, false, 0⟩

/-- Lane k of a port. -/
def Chip.laneOne (s : Chip) (p : Port) (k : Nat) : LaneOne := nth LaneOne.rest (s.lane p).lanes k

/-- Replaces lane k of a port. -/
def setLaneOne (p : Port) (k : Nat) (x : LaneOne) (s : Chip) : Chip :=
  s.setLane p { s.lane p with lanes := (s.lane p).lanes.set k x }

/-- The receiver of a port takes bits that the model sees: a pattern of PRBS31 has none (R290). -/
def Chip.hearsBits (s : Chip) (p : Port) : Bool :=
  s.running && s.fld (F.LN_STAT_STATE p.ix) != 0 && !s.flag (F.LN_TEST_PRBS p.ix)

/-- The bits of a received slot: they count towards the window, whose end may end a freeze (R286), and far-end loopback sends them out of
the same lane (R289). -/
def lineSlot (p : Port) (k : Nat) (bitsIn : List Bool) (x : LineSt) (s : Chip) : Chip :=
  if !s.hearsBits p then s else
  let r := x.count bitsIn
  let y := if s.fld (F.LN_TEST_LOOP p.ix) = 3 then { r.2 with wire := slotBits bitsIn } else r.2
  let s1 := setLine p k y s
  if r.1 && (s1.laneOne p k).frozen then setLaneOne p k { s1.laneOne p k with frozen := false } s1 else s1

/-- The slot of lane 0 stamps its row (R324). -/
def noteRow (p : Port) (k : Nat) (s : Chip) : Chip :=
  if k = 0 && s.hearsBits p then s.setLane p { s.lane p with rxRow := s.now } else s

/-- A received block on its way through the descrambler, given as it leaves it: the line carried its scrambled form. -/
def lineIn (p : Port) (k sync : Nat) (w : W64) (s : Chip) : Chip :=
  let x := s.lineOf p k
  let r := scramble x.des (payloadBits w.toNat)
  lineSlot p k (syncBits sync ++ r.1) { x with des := r.2 } (noteRow p k s)

/-- A received AM, which the descrambler does not see. -/
def lineAm (p : Port) (k : Nat) (w : W64) (s : Chip) : Chip :=
  lineSlot p k (syncBits 2 ++ payloadBits w.toNat) (s.lineOf p k) s

end Sys2Proof.Machine
end

