-- ==== Sys2Proof/Machine/Lane.lean ====
section
/-! DEFINITION. The lanes of the ring ports, their training, power modes and markers, and INRING (chapter 11), with what a
port that leaves TRAINED does to ring traffic (R316, R318). -/

namespace Sys2Proof.Machine

/-! ### Registers of a lane, by port -/

/-- A field of lane k of a port: offset of its register in the lane, low bit and width (R297). -/
def laneF (p : Port) (k off lo w : Nat) : Fld := ⟨0x4020 + 0x1000 * p.ix + 32 * k + off, lo, w, false⟩

/-- LNx_Lk_EQ as one number. -/
def eqF (p : Port) (k : Nat) : Fld := laneF p k 0x00 0 32
/-- LNx_Lk_LKG. -/
def lkgF (p : Port) (k : Nat) : Fld := laneF p k 0x04 0 32
/-- LNx_Lk_EYE.LG. -/
def lgF (p : Port) (k : Nat) : Fld := laneF p k 0x08 24 8
/-- LNx_Lk_EYE.EW. -/
def ewF (p : Port) (k : Nat) : Fld := laneF p k 0x08 16 8
/-- LNx_Lk_EYE.EH. -/
def ehF (p : Port) (k : Nat) : Fld := laneF p k 0x08 8 8
/-- LNx_Lk_SKEW. -/
def skewF (p : Port) (k : Nat) : Fld := laneF p k 0x0C 0 11
/-- LNx_Lk_SHERR. -/
def sherrF (p : Port) (k : Nat) : Fld := laneF p k 0x10 0 32
/-- LNx_Lk_AMERR.CRC. -/
def amCrcF (p : Port) (k : Nat) : Fld := laneF p k 0x14 16 16
/-- LNx_Lk_AMERR.POS. -/
def amPosF (p : Port) (k : Nat) : Fld := laneF p k 0x14 0 16
/-- LNx_Lk_CNT.RESTORE. -/
def restoreF (p : Port) (k : Nat) : Fld := laneF p k 0x18 16 16
/-- LNx_Lk_CNT.FREEZE. -/
def freezeF (p : Port) (k : Nat) : Fld := laneF p k 0x18 0 16
/-- LNx_Lk_PRBS. -/
def prbsF (p : Port) (k : Nat) : Fld := laneF p k 0x1C 0 32

/-- LNx_STAT.STATE (R281): 0 OFF, 1 ACQUIRE, 2 ADAPT, 3 ALIGN, 4 TRAINED, 5 TEST. -/
def Chip.lnState (s : Chip) (p : Port) : Nat := s.fld (F.LN_STAT_STATE p.ix)

/-- Sets LNx_STAT.STATE. -/
def setLnState (p : Port) (v : Nat) (s : Chip) : Chip := s.setFld (F.LN_STAT_STATE p.ix) v

/-- The port is enabled (R281, R415). -/
def Chip.lnEnabled (s : Chip) (p : Port) : Bool := s.flag (F.LN_CFG_EN p.ix) && !s.flag F.GLB_RST_STAT_ADDR_ERR

/-- Lanes that a mode uses (R288). -/
def modeMask (mode : Nat) : Nat := if mode = 0 then 15 else 1

/-! ### Ring traffic at a port that leaves TRAINED (R316, R318) -/

/-- EGRESS space of an own packet that will not be sent is freed. An item of the capture store keeps it until it is settled. -/
def freeEgress (q : TxPkt) (s : Chip) : Chip :=
  match q.owner, q.egress with
  | some (.storeItem _ _), _ => s
  | _, some id => freeObj 9 id s
  | _, none => s

/-- Packets lost with a port (R318). -/
def loseAll (p : Port) (qs : List TxPkt) (s : Chip) : Chip :=
  forAll qs freeEgress (s.bumpBy (F.RN_LOST_COUNT p.ix) qs.length)

/-- What happens to ring traffic when a port leaves TRAINED (R316, R318): open and started packets are lost; queued ones wrap
out of the other port, or are lost where none is usable or WRAP_EN is 0. -/
def portDown (p : Port) (s : Chip) : Chip :=
  let t := s.port p
  let s1 := loseAll p t.started (s.bumpBy (F.RN_LOST_COUNT p.ix) t.rx.length)
  let s2 := s1.setPort p { s1.port p with rx := [], rxIgnore := false, started := [], usableAll := false }
  if s.inring && !s.flag (F.LN_STAT_LOCAL p.ix) && s.flag F.RNG_CFG_WRAP_EN && s2.usable p.other 0 then startWrap raise p s2
  else
    let qs := (s2.port p).fwd ++ (s2.port p).txq
    loseAll p qs (s2.setPort p { s2.port p with fwd := [], txq := [] })

/-! ### Training (R275, R281 to R285) -/

/-- The port leaves TRAINED (R283), abandons a change of lanes (R288), and stops exchanging TIME. -/
def leaveTrained (p : Port) (s : Chip) : Chip :=
  let x := s.lane p
  let s0 := (s.setLane p { x with nmask := modeMask x.mode, narrowing := false }).setFlag (F.LN_STAT_MODE_BUSY p.ix) false
  let s1 := s0.setExch p { s0.exch p with ticks := none }
  if s.trained p then
    let s2 := portDown p (setLnState p 1 s1)
    let s3 := raise (EV.LN_LINK_DOWN p) (s2.bump (F.LN_LOSS_CNT_LINK_DOWN p.ix))
    { s3 with ring := { s3.ring with outNow := true } }
  else s1

/-- The port starts training, or stays OFF or in TEST (R281, R417). No lane is locked and no AM was received since. -/
def startTraining (p : Port) (s : Chip) : Chip :=
  let s1 := leaveTrained p s
  let s1 := s1.setLane p { s1.lane p with rxok := 0, wide := 0 }
  let s2 := ((s1.setFld (F.LN_STAT_LANE_LOCK p.ix) 0).setFld (F.LN_STAT_LMASK_RX p.ix) 0).setFld (F.LN_STAT_RXOK_PART p.ix) 0
  if !s1.lnEnabled p || !s1.flag (F.LN_STAT_PLL_LOCK p.ix) || !s1.running then
    (setLnState p 0 s2).setFld (F.LN_STAT_LMASK_TX p.ix) 0
  else
    setLnState p (if s1.inTest p then 5 else 1) (s2.setFld (F.LN_STAT_LMASK_TX p.ix) (modeMask (s1.lane p).mode))

/-- INRING rises (R292): the schedule of configuration heartbeats starts (R376). -/
def raiseInring (s : Chip) : Chip :=
  let s1 := ((s.setFlag F.LNE_RING_INRING true).setFlag F.LNE_RING_JOINED true).setFlag F.RNG_STAT_BYPASSED false
  raise EV.RING_JOINED { s1 with ring := { s1.ring with hbFrames := some (32 * s.addr), leaveRun := 0 } }

/-- INRING falls (R292). -/
def lowerInring (s : Chip) : Chip :=
  if !s.inring then s
  else
    let s1 := ((s.setFlag F.LNE_RING_INRING false).setFlag F.LNE_RING_JOINED false).setFlag F.RNG_STAT_BYPASSED true
    raise EV.RING_LEFT { s1 with
      ring := { s1.ring with hbFrames := none, leaveRun := 0 }
      ringE := { s1.ringE with usableAll := false }
      ringW := { s1.ringW with usableAll := false } }

/-- Crossings of a port (R421): its receive and transmit FIFOs, its error counts, and the single toggles. -/
def portCrossings : Port → List Nat
  | .east => [0, 2, 4, 6]
  | .west => [1, 3, 5, 6]

/-- CDC_DROP (R423): a one-sided reset of a port's lane domain couples across each of its crossings, which then hold nothing. -/
def couple (p : Port) (s : Chip) : Chip :=
  forAll (portCrossings p) (fun n s => raise EV.CDC_DROP ((s.bump F.GLB_CDC_DROP_COUNT).latchBit F.GLB_CDC_STAT_DROP n))
    (dropToggles p s)

/-- LANE_PLL_LOCK (R275): from ready, the port trains (R418). -/
def pllLock (p : Port) (s : Chip) : Chip :=
  if !s.up || s.flag (F.LN_STAT_PLL_LOCK p.ix) then s
  else
    let s1 := s.setFlag (F.LN_STAT_PLL_LOCK p.ix) true
    if s1.running then startTraining p s1 else s1

/-- PLL_UNLOCK (R275, R283, R292, R423): the port goes OFF, and INRING falls. -/
def pllUnlock (p : Port) (s : Chip) : Chip :=
  if !s.flag (F.LN_STAT_PLL_LOCK p.ix) then s
  else
    let s1 := startTraining p (s.setFlag (F.LN_STAT_PLL_LOCK p.ix) false)
    lowerInring (couple p (raise (EV.LN_PLL_UNLOCK p) s1))

/-- The taps of an equaliser in the layout of EQ (R297). -/
def tapsWord (e : EqTaps) : Nat :=
  place 4 28 e.ctle.toNat ||| place 7 21 e.tap1.toNat ||| place 6 15 e.tap2.toNat ||| place 5 10 e.tap3.toNat |||
    place 5 5 e.tap4.toNat ||| place 5 0 e.tap5.toNat

/-- What taps become, given those before them: DFE_EN = 0 holds the DFE taps at 0, CTLE_AUTO = 0 holds the CTLE code (R285). -/
def eqWord (dfe auto : Bool) (old new : Nat) : Nat :=
  place 4 28 (bits (if auto then new else old) 31 28) ||| (if dfe then bits new 27 0 else 0)

/-- Lane k's equaliser goes to other taps, as far as LNx_ADAPT lets it. -/
def moveTaps (p : Port) (k new : Nat) (s : Chip) : Chip :=
  s.setFld (eqF p k) (eqWord (s.flag (F.LN_ADAPT_DFE_EN p.ix)) (s.flag (F.LN_ADAPT_CTLE_AUTO p.ix)) (s.fld (eqF p k)) new)

/-- The taps a lane's adaptation starts from: the last-good ones since PORST_N, or the factory cal values (R285). -/
def Chip.startTaps (s : Chip) (p : Port) (k : Nat) : Nat :=
  (nth none (s.lane p).lastGood k).getD (regReset (eqF p k).addr).toNat

/-- The lanes of a mask, 0 to 3. -/
def lanesOf (mask : Nat) : List Nat := (List.range 4).filter mask.testBit

/-- The lanes of a widening partner that the receiver brings up: requested in NMASK, not active yet (R288). -/
def Chip.newLanes (s : Chip) (p : Port) : Nat :=
  if s.trained p then bits ((s.lane p).partnerNmask &&& (15 - s.fld (F.LN_STAT_LMASK_RX p.ix))) 3 0 else 0

/-- LANE_ACQUIRE_DONE (R281, R285, R288): the lanes that carry signal are block-locked, and their adaptation starts. -/
def acquireDone (p : Port) (lanes : Nat) (s : Chip) : Chip :=
  let more := lanes &&& s.newLanes p
  if s.lnState p = 1 && lanes != 0 then
    forAll (lanesOf lanes) (fun k s => moveTaps p k (s.startTaps p k) s) (setLnState p 2 (s.setFld (F.LN_STAT_LANE_LOCK p.ix) lanes))
  else if more != 0 then
    let s1 := s.setFld (F.LN_STAT_LANE_LOCK p.ix) (s.fld (F.LN_STAT_LANE_LOCK p.ix) ||| more)
    forAll (lanesOf more) (fun k s => moveTaps p k (s.startTaps p k) s) (s1.setLane p { s1.lane p with wide := 1 })
  else s

/-- The microseconds that ADAPT lasts, from the end of ACQUIRE to LANE_ADAPT_DONE (R285, R297): ADAPT_US between 20 and 1,000. -/
def Chip.adaptUs (s : Chip) (p : Port) : Nat := max 20 (min 1000 (s.fld (F.LN_CFG_ADAPT_US p.ix)))

/-- The locked lanes of a mask hold the taps their adaptation reached (R285). -/
def holdTaps (p : Port) (mask : Nat) (eqs : List EqTaps) (s : Chip) : Chip :=
  forAll ((List.range 4).zip eqs) (fun x s =>
    if (mask &&& s.fld (F.LN_STAT_LANE_LOCK p.ix)).testBit x.1 then moveTaps p x.1 (tapsWord x.2) s else s) s

/-- LANE_ADAPT_DONE (R285, R288). -/
def adaptDone (p : Port) (eqs : List EqTaps) (s : Chip) : Chip :=
  if s.lnState p = 2 then setLnState p 3 (holdTaps p 15 eqs s)
  else if (s.lane p).wide = 1 && s.newLanes p != 0 then
    holdTaps p (s.newLanes p) eqs (s.setLane p { s.lane p with wide := 2 })
  else s

/-- In TRAINED, adaptation goes on in every lane that is not frozen (R285): where it stands at a tick is open. -/
def adaptLanes (p : Port) (s : Chip) : Chip :=
  if !s.trained p then s
  else forAll (lanesOf (s.lane p).rxok) (fun k s =>
    if (s.laneOne p k).frozen then s
    else
      let (v, t) := s.drawFree
      moveTaps p k (v.toNat % 2 ^ 32) t) s

/-- RNx_FWD (R321). -/
def Chip.forwardLatency (s : Chip) (p : Port) : Nat :=
  4096 + (if s.flag (F.LN_STAT_FALLBACK p.ix) then 1048 else 419) + s.fld (F.LN_LAT_TX p.ix)

/-- A port in TRAINED faces a neighbour (R281): its TIME exchanges start (R326). -/
def linkUp (p : Port) (s : Chip) : Chip :=
  let s1 := s.setExch p { s.exch p with ticks := some 0 }
  raise (EV.LN_LINK_UP p) (s1.bump (F.LN_TRAIN_CNT_COUNT p.ix))

/-- A lead above 64 ns (R282). -/
def Chip.leadTooLong (s : Chip) (p : Port) (u : Nat) : Bool :=
  decide ((if s.flag (F.LN_STAT_FALLBACK p.ix) then 660 else 1650) < u)

/-- Lanes of a mask are deskewed by their leads (R282). -/
def deskew (p : Port) (mask : Nat) (leads : List Nat) (s : Chip) : Chip :=
  forAll ((List.range 4).zip leads) (fun x s => if mask.testBit x.1 then s.setFld (skewF p x.1) x.2 else s) s

/-- The port returns to ACQUIRE after a loss (R283). -/
def reacquire (p : Port) (s : Chip) : Chip :=
  let st := s.lnState p
  if st = 4 then startTraining p s else if st = 2 || st = 3 then setLnState p 1 s else s

/-- The lane is active in the receive direction of the port. -/
def Chip.rxLane (s : Chip) (p : Port) (k : Nat) : Bool :=
  (s.fld (F.LN_STAT_LMASK_RX p.ix)).testBit k || s.fld (F.LN_STAT_LMASK_RX p.ix) == 0

/-- The lanes active in the receive direction; all, before an AM named them. -/
def Chip.rxMask (s : Chip) (p : Port) : Nat :=
  if s.fld (F.LN_STAT_LMASK_RX p.ix) = 0 then 15 else s.fld (F.LN_STAT_LMASK_RX p.ix)

/-- The lanes outside a mask power down (R281, R288). -/
def keepLanes (p : Port) (mask : Nat) (s : Chip) : Chip :=
  let s1 := s.setFld (F.LN_STAT_LANE_LOCK p.ix) (s.fld (F.LN_STAT_LANE_LOCK p.ix) &&& mask)
  s1.setLane p { s1.lane p with rxok := (s1.lane p).rxok &&& mask }

/-- The lanes of a widening partner are deskewed against lane 0, or fail it (R282, R288). -/
def wideDone (p : Port) (leads : List Nat) (s : Chip) : Chip :=
  let new := s.newLanes p &&& s.fld (F.LN_STAT_LANE_LOCK p.ix)
  if (lanesOf new).any fun k => s.leadTooLong p (nth 0 leads k) then
    reacquire p (raise (EV.LN_DESKEW_FAIL p) (s.bump (F.LN_DESKEW_ERR_COUNT p.ix)))
  else
    let s1 := deskew p new leads s
    s1.setLane p { s1.lane p with rxok := (s1.lane p).rxok ||| new, wide := 0 }

/-- LANE_ALIGN_DONE (R281, R282, R288, R321): a lead above 64 ns fails deskew; otherwise the port is TRAINED, with the lanes of lane 0's
LMASK. -/
def alignDone (p : Port) (leads : List Nat) (tx rx : Nat) (s : Chip) : Chip :=
  if s.lnState p != 3 then (if s.newLanes p != 0 && (s.lane p).wide = 2 then wideDone p leads s else s)
  else if leads.any (s.leadTooLong p) then
    raise (EV.LN_DESKEW_FAIL p) (setLnState p 1 (s.bump (F.LN_DESKEW_ERR_COUNT p.ix)))
  else
    let s1 := deskew p 15 leads (keepLanes p (s.rxMask p) s)
    let s2 := (s1.setFld (F.LN_LAT_TX p.ix) tx).setFld (F.LN_LAT_RX p.ix) rx
    let s3 := setLnState p 4 (s2.setFld (F.RN_FWD_FTU p.ix) (s2.forwardLatency p))
    let s4 := s3.setLane p { s3.lane p with
      rxok := s3.fld (F.LN_STAT_LANE_LOCK p.ix), lanes := (s3.lane p).lanes.map fun (x : LaneOne) => { LaneOne.rest with frozen := x.frozen } }
    let s5 := s4.setPort p { s4.port p with usableAll := false }
    if s5.flag (F.LN_STAT_LOCAL p.ix) then s5 else linkUp p s5

/-- LANE_SIGNAL_LOSS (R283): the lane's lock goes, over its crossing (R422); a lane of LMASK takes the port out of TRAINED. -/
def signalLoss (p : Port) (k : Nat) (s : Chip) : Chip :=
  let s1 := keepLanes p (15 - 2 ^ k) (cond ((s.fld (F.LN_STAT_LANE_LOCK p.ix)).testBit k) (crossState p) s)
  if s.rxLane p k then reacquire p s1 else s1

/-- HIBER (R283). -/
def hiberLoss (p : Port) (s : Chip) : Chip :=
  if s.trained p then reacquire p (raise (EV.LN_HIBER p) (s.bump (F.LN_LOSS_CNT_HIBER p.ix))) else s

/-- The rate of a port, true for fall-back: a change raises FALLBACK (R284). -/
def setRate (p : Port) (v : Bool) (s : Chip) : Chip :=
  if s.flag (F.LN_STAT_FALLBACK p.ix) = v then s else raise (EV.LN_FALLBACK p) (s.setFlag (F.LN_STAT_FALLBACK p.ix) v)

/-- FALLBACK (R284): three failures to train change the rate, once until a RETRAIN. -/
def fallBack (p : Port) (s : Chip) : Chip :=
  let st := s.lnState p
  if s.flag (F.LN_CFG_FALLBACK_EN p.ix) && !(s.lane p).rateHeld && decide (1 ≤ st) && decide (st ≤ 3) then
    setRate p (!s.flag (F.LN_STAT_FALLBACK p.ix)) (setLnState p 1 (s.setLane p { s.lane p with rateHeld := true }))
  else s

/-- ADAPT_FREEZE (R286): the window that showed it is over. -/
def adaptFreeze (p : Port) (k : Nat) (s : Chip) : Chip :=
  let x := s.laneOne p k
  if (s.lnState p = 2 || s.trained p) && !x.frozen then
    let s1 := setLine p k { s.lineOf p k with slots := 0, toggles := 0 } (setLaneOne p k { x with frozen := true } s)
    raise (EV.LN_ADAPT_FREEZE p) (s1.bump (freezeF p k))
  else s

/-- The current taps become the last-good taps, and EW the last-good EW (R285, R287). -/
def saveTaps (p : Port) (k ew : Nat) (s : Chip) : Chip :=
  let s1 := s.setLane p { s.lane p with lastGood := (s.lane p).lastGood.set k (some (s.fld (eqF p k))) }
  (s1.setFld (lkgF p k) (s1.fld (eqF p k))).setFld (lgF p k) ew

/-- BELVEDERE_SCAN (R287): a scan of a lane completes. -/
def belvedere (p : Port) (k ew eh : Nat) (s : Chip) : Chip :=
  if !s.trained p || !s.rxLane p k then s
  else
    let x := s.laneOne p k
    let lg := s.fld (lgF p k)
    let s0 := (s.setFld (ewF p k) ew).setFld (ehF p k) eh
    let low := decide (ew < s.fld (F.LN_ADAPT_EW_MIN p.ix))
    let eye := fun (b : Bool) (s : Chip) => if b then raise (EV.LN_EYE_LOW p) s else s
    if !x.scanned then eye low (setLaneOne p k { x with scanned := true, fell := false } (saveTaps p k ew s0))
    else if 4 * lg ≤ 5 * ew then
      eye low (setLaneOne p k { x with fell := false } (if x.frozen then s0 else saveTaps p k ew s0))
    else if x.fell then
      eye true (setLaneOne p k { x with fell := false } (saveTaps p k ew s0))
    else
      let s1 := setLaneOne p k { x with fell := true } s0
      eye low (if s.flag (F.LN_ADAPT_RESTORE_EN p.ix) then
          raise (EV.LN_TAP_RESTORE p) ((s1.setFld (eqF p k) (eqWord (s1.flag (F.LN_ADAPT_DFE_EN p.ix)) true 0 (s1.fld (lkgF p k)))).bump (restoreF p k))
        else s1)

/-! ### Lane modes (R288) -/

/-- MODE of LANE_CTL at its tick. -/
def setMode (p : Port) (m : Nat) (s : Chip) : Chip :=
  let x := s.lane p
  let tx := s.fld (F.LN_STAT_LMASK_TX p.ix)
  let want := modeMask m
  let busy := tx != want
  (s.setLane p { x with mode := m, nmask := want, narrowing := busy && want == 1 }).setFlag (F.LN_STAT_MODE_BUSY p.ix) busy

/-- LANE_NARROW: lane 0 alone from this AM on. -/
def laneNarrow (p : Port) (s : Chip) : Chip :=
  let x := s.lane p
  if s.trained p && x.narrowing then
    ((s.setLane p { x with narrowing := false }).setFld (F.LN_STAT_LMASK_TX p.ix) 1).setFlag (F.LN_STAT_MODE_BUSY p.ix) false
  else s

/-- LANE_WIDEN: RXOK covers NMASK. -/
def laneWiden (p : Port) (s : Chip) : Chip :=
  if s.widening p && s.fld (F.LN_STAT_RXOK_PART p.ix) == 15 then
    (s.setFld (F.LN_STAT_LMASK_TX p.ix) 15).setFlag (F.LN_STAT_MODE_BUSY p.ix) false
  else s

/-- MODE_TIMEOUT. -/
def modeTimeout (p : Port) (s : Chip) : Chip :=
  if s.widening p then
    raise (EV.LN_MODE_TIMEOUT p) ((s.setLane p { s.lane p with nmask := 1 }).setFlag (F.LN_STAT_MODE_BUSY p.ix) false)
  else s

/-! ### Alignment markers (R279, R280, R294, R295) -/

/-- GAP of a port whose neighbour has address `src` (R294). -/
def Chip.gapOf (s : Chip) (p : Port) (src : Nat) : Nat :=
  let a := s.addr
  let g :=
    if s.flag (F.LN_STAT_LOCAL p.ix) then 0
    else match p with
      | .west => if src < a then a - src - 1 else 7
      | .east => if a < src then src - a - 1
          else if src = 0 && decide (a ≤ s.fld (F.LN_CFG_LAST 0)) then s.fld (F.LN_CFG_LAST 0) - a else 7
  min 7 g

/-- GAP is derived again; 3 to 6 raises BYPASS_LIMIT. -/
def deriveGap (p : Port) (s : Chip) : Chip :=
  let g := if (s.lane p).hasNbr then s.gapOf p (s.fld (F.LN_STAT_NBR_ADDR p.ix)) else 7
  let s1 := s.setFld (F.LN_STAT_GAP p.ix) g
  if 3 ≤ g && g ≤ 6 && g != s.fld (F.LN_STAT_GAP p.ix) then raise (EV.LN_BYPASS_LIMIT p) s1 else s1

/-- The payload of an AM on a lane of a port (R279). -/
def Chip.amPayload (s : Chip) (p : Port) (k : Nat) : Nat :=
  let x := s.lane p
  let tx := s.fld (F.LN_STAT_LMASK_TX p.ix)
  let rxok := if s.trained p then x.rxok else 0
  let lmask := if x.narrowing then 1 else if s.widening p && s.fld (F.LN_STAT_RXOK_PART p.ix) == 15 then 15 else tx
  let body := place 24 32 (s.fld (F.LN_NID_OWN_NID p.ix)) ||| place 4 26 x.nmask ||| place 3 23 (s.fld (F.LN_STAT_GAP p.other.ix))
    ||| place 5 18 s.addr ||| place 4 14 rxok ||| place 4 10 lmask ||| place 2 8 k ||| 0xA5
  place 8 56 (crc8 ((List.range 7).map fun i => bits body (8 * i + 7) (8 * i))) ||| body

/-- An AM is valid on a lane (R280). -/
def amValid (k x : Nat) : Bool :=
  bits x 7 0 == 0xA5 && bits x 9 8 == k && crc8 ((List.range 7).map fun i => bits x (8 * i + 7) (8 * i)) == bits x 63 56

/-- A change of neighbour (R295). -/
def neighbourChange (p : Port) (src nid : Nat) (s : Chip) : Chip :=
  let s1 := (s.setFld (F.LN_STAT_NBR_ADDR p.ix) src).setFld (F.LN_NBR_NID_NID p.ix) nid
  let local_ := src == s.addr && nid == s.fld (F.LN_NID_OWN_NID p.ix)
  let s2 := s1.setFlag (F.LN_STAT_LOCAL p.ix) local_
  let s2a := if local_ then s2.setPort p { s2.port p with usableAll := false } else s2
  let s3 := deriveGap p (s2a.setLane p { s2a.lane p with hasNbr := true })
  let s4 := s3.setExch p { s3.exch p with sent := none, restart := true, incons := 0, upRun := 0 }
  let s5 := if s4.upstream = some p then { s4 with net := { s4.net with nbrUp := true } } else s4
  let s6 := raise (EV.LN_NBR_CHANGE p) (s5.bump (F.LN_NBR_CNT_COUNT p.ix))
  if s.flag (F.LN_STAT_LOCAL p.ix) && !local_ && s.trained p then linkUp p s6 else s6

/-- An AM that is not valid: four in a row on a lane end TRAINED (R283). -/
def badAm (p : Port) (k : Nat) (s : Chip) : Chip :=
  let x := s.laneOne p k
  let s1 := setLaneOne p k { x with amBad := x.amBad + 1 } s
  if s.trained p && s.rxLane p k && decide (4 ≤ x.amBad + 1) then reacquire p (crossState p s1) else s1

/-- The fields of a valid AM of lane 0 (R280, R288): a receiver that is trained keeps the lanes that are active or requested. -/
def amFields (p : Port) (x : Nat) (s : Chip) : Chip :=
  let s1 := ((s.setFld (F.LN_STAT_LMASK_RX p.ix) (bits x 13 10)).setFld (F.LN_STAT_RXOK_PART p.ix) (bits x 17 14)).setLane p
    { s.lane p with partnerNmask := bits x 29 26, partnerByp := bits x 25 23, lastAm := some (bits x 22 18, bits x 55 32)
                    wide := if (bits x 29 26 &&& (15 - bits x 13 10)) = 0 then 0 else (s.lane p).wide }
  if s.trained p then keepLanes p (bits x 13 10 ||| bits x 29 26) s1 else s1

/-- ALIGNMENT_MARKER (R280, R283, R294, R295): an AM is due at a lane's slot; lane 0 alone gives the fields. -/
def alignmentMarker (p : Port) (k : Nat) (found : Bool) (x : Nat) (s : Chip) : Chip :=
  let st := s.lnState p
  if st = 0 || s.flag (F.LN_TEST_PRBS p.ix) then s
  else if !found then badAm p k (crossCount p .amPos k (amPosF p k) 1 s)
  else if !amValid k x then badAm p k (crossCount p .amCrc k (amCrcF p k) 1 s)
  else
    let s0 := setLaneOne p k { s.laneOne p k with amBad := 0 } s
    if k != 0 then s0
    else
      let who := (bits x 22 18, bits x 55 32)
      let y := s0.lane p
      let s1 := amFields p x s0
      let new := !y.hasNbr || who.1 != s.fld (F.LN_STAT_NBR_ADDR p.ix) || who.2 != s.fld (F.LN_NBR_NID_NID p.ix)
      if y.lastAm = some who && new then neighbourChange p who.1 who.2 s1 else s1

/-! ### LANE_CTL and INRING (R292, R296, R418) -/

/-- The conditions of a JOIN (R292, R415). -/
def Chip.joinOk (s : Chip) : Bool :=
  !s.flag F.GLB_RST_STAT_ADDR_ERR && [Port.east, Port.west].all fun p =>
    s.trained p && !s.inTest p && s.flag (F.LN_STAT_PLL_LOCK p.ix)

/-- The ports a LANE_CTL word names. -/
def laneCtlPorts (x : Nat) : List Port := (if x.testBit 4 then [.east] else []) ++ if x.testBit 5 then [.west] else []

/-- A LANE_CTL word is refused (R296). -/
def Chip.laneCtlRefused (s : Chip) (w : W64) : Bool :=
  let x := w.toNat
  match bits x 3 0 with
  | 1 => !s.joinOk
  | 2 | 3 => false
  | 4 => bits x 9 8 == 3 || (laneCtlPorts x).any fun p => !s.trained p
  | 5 => bits x 13 12 != 0 && s.inring
  | 6 => x.testBit 17 && s.inring
  | _ => true

/-- A LANE_CTL that answers OK waits for the tick (R296). -/
def laneCtl (w : W64) (s : Chip) : Chip :=
  match bits w.toNat 3 0 with
  | 1 => { s with ring := { s.ring with joinAct := some true } }
  | 2 => { s with ring := { s.ring with joinAct := some false } }
  | _ => { s with ring := { s.ring with laneArgs := s.ring.laneArgs ++ [w] } }

/-- One port's action of a LANE_CTL word at its tick (R284, R288 to R290, R296). -/
def laneAction (x : Nat) (p : Port) (s : Chip) : Chip :=
  match bits x 3 0 with
  | 3 => startTraining p (setRate p (x.testBit 16) (s.setLane p { s.lane p with rateHeld := false }))
  | 4 => if s.trained p then setMode p (bits x 9 8) s else s
  | 5 => if s.fld (F.LN_TEST_LOOP p.ix) = bits x 13 12 then s
      else startTraining p (s.setFld (F.LN_TEST_LOOP p.ix) (bits x 13 12))
  | 6 => if s.flag (F.LN_TEST_PRBS p.ix) = x.testBit 17 then s
      else startTraining p (s.setFlag (F.LN_TEST_PRBS p.ix) (x.testBit 17))
  | _ => s

/-- The lanes at a tick: their adaptation, LANE_CTL in command order, then the pending ring action (R285, R296). -/
def tickLanes (s : Chip) : Chip :=
  let s0 := adaptLanes .west (adaptLanes .east s)
  let s1 := forAll s0.ring.laneArgs (fun w s => forAll (laneCtlPorts w.toNat) (laneAction w.toNat) s) s0
  let s2 := { s1 with ring := { s1.ring with laneArgs := [], joinAct := none } }
  match s1.ring.joinAct with
  | some true => if s2.inring then s2 else raiseInring s2
  | some false => lowerInring s2
  | none => s2

/-- The frame that a tick ends, for AUTOLEAVE (R292) and for the wraps (R317). -/
def countPorts (s : Chip) : Chip :=
  let out := s.ring.outNow || !s.trained .east || !s.trained .west
  let s1 := { s with ring := { s.ring with leaveRun := if out then s.ring.leaveRun + 1 else 0, outNow := false } }
  forAll [Port.east, Port.west] (fun p s =>
    let t := s.port p
    s.setPort p { t with usableFrames := if t.wrapping && t.usableAll && s.usable p 3 then t.usableFrames + 1 else 0,
                         usableAll := s.usable p 3 }) s1

/-- RING_AUTOLEAVE (R292). -/
def ringAutoleave (s : Chip) : Chip :=
  let n := s.fld F.LNE_RING_AUTOLEAVE
  if n != 0 && decide (n ≤ s.ring.leaveRun) && s.clk.cclk == 0 then lowerInring s else s

/-- AUTOJOIN (R418): once after each release, at the first tick at which the conditions of a JOIN hold. -/
def autoJoin (s : Chip) : Chip :=
  if s.running && s.flag F.GLB_RST_CTL_AUTOJOIN && !s.rst.autoDone && s.joinOk && s.clk.counting && s.clk.cclk == 0 then
    let s1 := { s with rst := { s.rst with autoDone := true } }
    if s1.inring then s1 else raiseInring s1
  else s

/-- RING_UNWRAP (R317): the port was usable through RNG_UNWRAP.FRAMES frames. -/
def ringUnwrap (p : Port) (s : Chip) : Chip :=
  let t := s.port p
  if t.wrapping && decide (max 1 (s.fld F.RNG_UNWRAP_FRAMES) ≤ t.usableFrames) && s.clk.cclk == 0 then
    let s1 := s.setPort p { t with wrapping := false, usableFrames := 0 }
    raise (EV.RN_UNWRAP p) (s1.setFlag (if p = .east then F.RNG_STAT_WRAP_E else F.RNG_STAT_WRAP_W) false)
  else s

/-- The rate after a commit (R284): RATE where it changed, unless the port holds another by itself; and RATE again where
FALLBACK_EN went to 0. -/
def rateCommit (old : Chip) (p : Port) (s : Chip) : Chip :=
  let changed := old.fld (F.LN_CFG_RATE p.ix) != s.fld (F.LN_CFG_RATE p.ix)
  let off := old.flag (F.LN_CFG_FALLBACK_EN p.ix) && !s.flag (F.LN_CFG_FALLBACK_EN p.ix)
  let s1 := if off then s.setLane p { s.lane p with rateHeld := false } else s
  if off || (changed && !(s.lane p).rateHeld) then setRate p (s.flag (F.LN_CFG_RATE p.ix)) s1 else s1

/-- A commit took effect: EN and RATE of a port, DFE_EN, and the GAP that LAST enters (R281, R284, R285, R294). -/
def lanesCommit (old s : Chip) : Chip :=
  forAll [Port.east, Port.west] (fun p s =>
    let en := old.lnEnabled p != s.lnEnabled p
    let s0 := if s.flag (F.LN_ADAPT_DFE_EN p.ix) then s else forN 4 (fun k s => moveTaps p k (s.fld (eqF p k)) s) s
    let s1 := rateCommit old p s0
    let s2 := if en || s.flag (F.LN_STAT_FALLBACK p.ix) != s1.flag (F.LN_STAT_FALLBACK p.ix) then startTraining p s1 else s1
    if old.fld (F.LN_CFG_LAST 0) = s.fld (F.LN_CFG_LAST 0) then s2 else deriveGap p s2) s

/-! ### The commands -/

/-- LANE_PLL_LOCK (R275). -/
def execLanePllLock (port : Port) (s : State) : Host.Outcome State Fault Refusal := .next { s with chip := pllLock port s.chip }

/-- PLL_UNLOCK (R275). -/
def execPllUnlock (port : Port) (s : State) : Host.Outcome State Fault Refusal := .next { s with chip := pllUnlock port s.chip }

/-- LANE_ACQUIRE_DONE (R281). -/
def execLaneAcquireDone (port : Port) (lanes : Fin 16) (s : State) : Host.Outcome State Fault Refusal :=
  .next { s with chip := acquireDone port lanes s.chip }

/-- LANE_ADAPT_DONE (R285). -/
def execLaneAdaptDone (port : Port) (eq0 eq1 eq2 eq3 : EqTaps) (s : State) : Host.Outcome State Fault Refusal :=
  .next { s with chip := adaptDone port [eq0, eq1, eq2, eq3] s.chip }

/-- LANE_ALIGN_DONE (R282). -/
def execLaneAlignDone (port : Port) (leads : List Nat) (latTx latRx : Fin 65536) (s : State) : Host.Outcome State Fault Refusal :=
  .next { s with chip := alignDone port leads latTx latRx s.chip }

/-- ALIGNMENT_MARKER (R280). -/
def execAlignmentMarker (port : Port) (lane : Fin 4) (found : Bool) (payload : W64) (s : State) :
    Host.Outcome State Fault Refusal :=
  let c := if found then lineAm port lane payload s.chip else s.chip
  .next { s with chip := alignmentMarker port lane found payload.toNat c }

/-- LANE_SIGNAL_LOSS (R283). -/
def execLaneSignalLoss (port : Port) (lane : Fin 4) (s : State) : Host.Outcome State Fault Refusal :=
  .next { s with chip := signalLoss port lane s.chip }

/-- HIBER (R283). -/
def execHiber (port : Port) (lane : Fin 4) (s : State) : Host.Outcome State Fault Refusal :=
  .next { s with chip := if s.chip.rxLane port lane then hiberLoss port s.chip else s.chip }

/-- FALLBACK (R284). -/
def execFallback (port : Port) (s : State) : Host.Outcome State Fault Refusal := .next { s with chip := fallBack port s.chip }

/-- ADAPT_FREEZE (R286). -/
def execAdaptFreeze (port : Port) (lane : Fin 4) (s : State) : Host.Outcome State Fault Refusal :=
  .next { s with chip := adaptFreeze port lane s.chip }

/-- BELVEDERE_SCAN (R287). -/
def execBelvedereScan (port : Port) (lane : Fin 4) (ew : Fin 65) (eh : Fin 33) (s : State) :
    Host.Outcome State Fault Refusal := .next { s with chip := belvedere port lane ew eh s.chip }

/-- LANE_NARROW (R288). -/
def execLaneNarrow (port : Port) (s : State) : Host.Outcome State Fault Refusal := .next { s with chip := laneNarrow port s.chip }

/-- LANE_WIDEN (R288). -/
def execLaneWiden (port : Port) (s : State) : Host.Outcome State Fault Refusal := .next { s with chip := laneWiden port s.chip }

/-- MODE_TIMEOUT (R288). -/
def execModeTimeout (port : Port) (s : State) : Host.Outcome State Fault Refusal := .next { s with chip := modeTimeout port s.chip }

/-- RING_AUTOLEAVE (R292). -/
def execRingAutoleave (s : State) : Host.Outcome State Fault Refusal := .next { s with chip := ringAutoleave s.chip }

/-- AUTOJOIN (R418). -/
def execAutojoin (s : State) : Host.Outcome State Fault Refusal := .next { s with chip := autoJoin s.chip }

/-- RING_UNWRAP (R317). -/
def execRingUnwrap (port : Port) (s : State) : Host.Outcome State Fault Refusal := .next { s with chip := ringUnwrap port s.chip }

end Sys2Proof.Machine
end

