-- ==== Sys2Proof/Machine/Ledgers.lean ====
section
/-! DEFINITION. The eight budget ledgers (R23 to R25), each in 1/1,024 of its capacity; 0xFFFF fails. Every ledger is read over
the active bank; over the shadow bank it is read on the chip that the commit would make. -/

namespace Sys2Proof.Machine

/-- The chip with its shadow bank in force (R24). -/
def Chip.asCommitted (s : Chip) : Chip := { s with regs := { s.regs with active := s.regs.shadow } }

/-- TIM_BUDGET_HITS.HITS. -/
def Chip.budgetHits (s : Chip) : Nat := s.fld F.TIM_BUDGET_HITS_HITS

/-- A ledger that fails. -/
def ledgerFail : Nat := 0xFFFF

/-- HITS (R96). The parterres of a column are those of one hedge. -/
def Chip.ledgerHits (s : Chip) : Nat :=
  let e := (List.range 32).countP fun c => (List.range 32).any fun r => s.flag (F.PRT_CTL_EN (32 * r + c))
  if e = 0 then 0 else max (ceilDiv s.budgetHits 4) (ceilDiv s.budgetHits e)

/-- The active stream channels with their settings (R253). -/
def Chip.activeStreams (s : Chip) : List (Nat × StreamCfg) :=
  (List.range 16).filterMap fun n => (s.streamCfg 0 n).map fun c => (n, c)

/-- Full-rate samples per frame of a waveform channel (R133). -/
def Chip.samplesPerFrame (s : Chip) : Nat := frameFtu / modePeriod (s.fld F.WAV_CTL_MODE)

/-- STORE_BW (R97). -/
def Chip.ledgerStoreBw (s : Chip) : Nat :=
  let h := s.budgetHits
  let n := s.activeStreams.countP fun x => x.2.src == 1
  let wav := s.samplesPerFrame * (List.range 4).countP (s.wavEnabled 0)
  let b := 16376 + (if s.flag F.HIT_FB_CTL_HHIST_EN then 8 * h else 0)
    + (if s.flag F.HIT_FB_CTL_STAGE_EN then 8 * h * (1 + s.fld F.HIT_FB_CTL_RING_EN + n) else 0)
    + 16 * h * n + 8 * wav + 3 * s.fld F.HIT_BUDGET_REC_BYTES
  ceilDiv (1024 * b) 524032

/-- STORE_SPACE (R98): a region of size 0 is absent and overlaps nothing. -/
def Chip.ledgerStoreSpace (s : Chip) : Nat :=
  let base := fun (n : Nat) => s.fld (regionBaseF n)
  let size := fun (n : Nat) => s.fld (regionSizeF n)
  let outside := (List.range 10).any fun n => decide (1024 < base n + size n)
  let overlap := (List.range 10).any fun n => (List.range n).any fun m =>
    decide (base n < base m + size m) && decide (base m < base n + size n) && size n != 0 && size m != 0
  if outside || overlap then ledgerFail else ((List.range 10).map size).sum

/-- SLICES (R136). -/
def Chip.ledgerSlices (s : Chip) : Nat :=
  128 * ((waveSlices s.fld).length + profileSlices (s.fld F.XDC_SEQ_CTL_PROFILE))

/-- Raw bytes per frame of a lane (R271). -/
def Chip.laneBytes (s : Chip) (n : Nat) (c : StreamCfg) : Nat :=
  match c.src with
  | 1 => 16 + 8 * ceilDiv (s.budgetHits * popCount (c.sel % 16)) (4 * c.lanes)
  | 2 => 16 + 2 * ceilDiv s.samplesPerFrame c.lanes
  | _ => s.fld (F.CMP_CH_RATE_BYTES n)

/-- DICT (R271): the cost of each channel's lane and its number of lanes. -/
def Chip.ledgerDict (s : Chip) : Nat :=
  let cs := (s.activeStreams.filter fun x => x.2.coder == 1).map fun x => (ceilDiv (s.laneBytes x.1 x.2) 8 + 16, x.2.lanes)
  if (cs.any fun c => decide (2047 < c.1)) || decide (16 < (cs.map Prod.snd).sum) then ledgerFail
  else ceilDiv (1024 * (cs.map fun c => c.1 * c.2).sum) 32752

/-- WINDOW (R271). CL of a LEVEL is four times the eighths of a CCLK per byte of R266. -/
def Chip.ledgerWindow (s : Chip) : Nat :=
  let cs := (s.activeStreams.filter fun x => x.2.coder == 2).map fun x =>
    ceilDiv (s.laneBytes x.1 x.2 * (4 * levelCost x.2.level)) 32 + 16
  if cs.any fun c => decide (2047 < c) then ledgerFail else ceilDiv (1024 * cs.sum) 8188

/-- Q_d (R405). -/
def Chip.pairingBlocks (s : Chip) (p : Port) : Nat :=
  let partner := s.fld F.PAIR_CFG_PARTNER
  let nloop := max 1 (min 64 (s.fld F.PAIR_CFG_NLOOP))
  if s.flag F.PAIR_CFG_EN && decide (1 ≤ partner) && decide (partner ≤ 30) && partner != s.addr && (s.routes partner).contains p then
    nloop + 13
  else 0

/-- RING (R313): whether a port fails, and its cost. -/
def Chip.ringCost (s : Chip) (p : Port) : Option Nat :=
  let dest := if s.fld F.RNG_CFG_ACT_DEST = 31 then 0 else s.fld F.RNG_CFG_ACT_DEST
  let here := (s.routes dest).contains p
  let loops := fun (urgent : Bool) => if here then
      (List.range 64).countP fun l => s.flag (F.LOOP_L_CFG_EN l) && s.flag (F.LOOP_L_CFG_URGENT l) == urgent
    else 0
  let stops := (List.range 16).countP fun c => s.flag (F.LOOP_SC_CFG_STOP_EN c) && s.fld (F.LOOP_SC_CFG_TYPE c) != 0
  let a0 := s.fld (F.RN_ALLOW_A0 p.ix)
  let a1 := s.fld (F.RN_ALLOW_A1 p.ix)
  let share := s.fld (F.RN_SHARE_SHARE p.ix)
  if decide (100 < a0) || decide (500 < a1) || decide (4400 < share) || decide (a0 < 6 * loops true + 5 * stops)
      || decide (a1 < 6 * loops false + s.pairingBlocks p) then none
  else some (max (ceilDiv (1024 * a0) 100) (max (ceilDiv (1024 * a1) 500) (ceilDiv (1024 * share) 4400)))

/-- RING (R313). -/
def Chip.ledgerRing (s : Chip) : Nat :=
  match s.ringCost .east, s.ringCost .west with
  | some a, some b => max a b
  | _, _ => ledgerFail

/-- XDUCER (R174), in FTU. -/
def Chip.ledgerXducer (s : Chip) : Nat :=
  if s.xprofile = 0 then 0
  else
    let ext := 15 * s.fld F.XDC_SEQ_CTL_AUTO_EXT
    let te := fun (ts n : Nat) => s.xconvFtu n ext ts
    let pass := s.xpass.map (te (samplePeriod s.xprofile false))
    let slots := (List.range 4).filter fun u => s.flag (F.XDC_URG_EN u) && s.xusable (s.fld (F.XDC_URG_ENTRY u))
    let b := (slots.map fun u =>
      te 131072 (s.fld (F.XDC_URG_ENTRY u)) + (if s.xprofile = 2 then pass.foldl max 0 else 0)).sum
    ceilDiv (1024 * (pass.sum + b)) (max 1 (s.fld F.XDC_SEQ_CTL_PERIOD) * frameFtu)

/-- The eight ledgers, limited to the 16 bits of their fields (R23, R41). -/
def Chip.ledgers (s : Chip) : List Nat :=
  [s.ledgerHits, s.ledgerStoreBw, s.ledgerStoreSpace, s.ledgerSlices, s.ledgerDict, s.ledgerWindow, s.ledgerRing,
   s.ledgerXducer].map fun c => min c ledgerFail

/-- The lowest ledger that exceeds its capacity (R24). -/
def firstFailing (l : List Nat) : Option Nat := (List.range 8).find? fun i => decide (1024 < nth 0 l i)

/-- The lowest failing ledger of the active bank (R24): a TIM_BUDGET_HITS above 4,096 makes ledger 0 fail whatever it costs (R41). -/
def Chip.failingLedger (s : Chip) : Option Nat := if 4096 < s.budgetHits then some 0 else firstFailing s.ledgers

/-- SHADOW_LEDGER_EVAL (R25): the ledgers over the shadow bank, at the end of a frame in which it was written. -/
def evalShadowLedgers (s : Chip) : Chip :=
  if !s.cmd.shadowWritten then s
  else
    let l := s.asCommitted.ledgers
    forN 8 (fun i s => s.setFld (F.TIM_LEDGER_SHADOW i) (nth 0 l i)) { s with cmd := { s.cmd with shadowWritten := false } }

/-- The ledgers over the active bank, when a commit takes effect (R25). -/
def evalActiveLedgers (s : Chip) : Chip :=
  let l := s.ledgers
  forN 8 (fun i s => s.setFld (F.TIM_LEDGER_ACTIVE i) (nth 0 l i)) s

end Sys2Proof.Machine
end

