-- ==== Sys2Proof/Machine/Reset.lean ====
section
/-! DEFINITION. Resets and start-up (chapter 18): the pins, the supply monitors, readiness, and domain resets. -/

namespace Sys2Proof.Machine

/-! ### Assertion (R412 to R414) -/

/-- PORST_N or the supply monitors: everything returns to reset (R414). Levels that others drive on the lands stay. -/
def powerReset (s : Chip) : Chip :=
  { Chip.initial with
    rst := { RstSt.initial with porst := s.rst.porst, wrst := s.rst.wrst, supply := s.rst.supply }
    pins := { Chip.initial.pins with extEvt := s.pins.extEvt, extBlankA := s.pins.extBlankA, extBlankB := s.pins.extBlankB }
    free := s.free }

/-- The registers that a warm reset keeps (R11, R414): the TIM block, which holds the time base and network time, the lock bits of
the lane PLLs, and the strap with its error. -/
def keptRegs (m : SMap 32) : SMap 32 :=
  let keep := fun (a mask : Nat) (k : SMap 32) => k.set a (m.get a &&& BitVec.ofNat 32 mask)
  let tim := m.filter fun e => decide (0x1000 ≤ e.1) && decide (e.1 < 0x2000)
  keep F.GLB_RST_STAT_STRAP.addr (place 5 F.GLB_RST_STAT_STRAP.lo 31 ||| 2 ^ F.GLB_RST_STAT_ADDR_ERR.lo)
    (keep (F.LN_STAT_PLL_LOCK 0).addr (2 ^ (F.LN_STAT_PLL_LOCK 0).lo)
      (keep (F.LN_STAT_PLL_LOCK 1).addr (2 ^ (F.LN_STAT_PLL_LOCK 1).lo) tim))

/-- WRST_N (R414): the time base, network time and its discipline, the lane PLLs, the strap, the level of FTO (R201) and the
last-good taps (R285) are kept; all else returns to reset. -/
def warmReset (s : Chip) : Chip :=
  let exch := fun (x : Exch) => { Exch.initial with xseq := x.xseq }
  let s1 : Chip :=
    { powerReset s with
      regs := { Regs.initial with
        active := keptRegs s.regs.active, shadow := keptRegs s.regs.shadow, direct := keptRegs s.regs.direct,
        old1 := keptRegs s.regs.old1, old2 := keptRegs s.regs.old2, before := keptRegs s.regs.direct }
      clk := s.clk
      pins := { (powerReset s).pins with fto := s.pins.fto }
      laneE := { LaneSt.initial with lastGood := s.laneE.lastGood }
      laneW := { LaneSt.initial with lastGood := s.laneW.lastGood }
      net := { s.net with nbrUp := false, exE := exch s.net.exE, exW := exch s.net.exW } }
  evalActiveLedgers s1

/-- PORST_N is asserted (R413). -/
def assertPorst (s : Chip) : Chip := powerReset { s with rst := { s.rst with porst := true } }

/-- A monitored supply falls below its threshold (R412). -/
def assertSupply (s : Chip) : Chip := powerReset { s with rst := { s.rst with supply := true } }

/-- WRST_N is asserted (R413); while PORST_N is asserted as well, PORST_N governs. -/
def assertWrst (s : Chip) : Chip :=
  let s1 := { s with rst := { s.rst with wrst := true } }
  if s.rst.porst || s.rst.supply then powerReset s1 else warmReset s1

/-! ### Release and readiness (R414 to R418) -/

/-- RESET_RELEASE: the resets in force end; the straps are sampled unless only WRST_N was asserted (R414, R415). -/
def releaseReset (addr : Nat) (s : Chip) : Chip :=
  if s.up then s
  else
    let cold := s.rst.porst || s.rst.supply
    let cause := if s.rst.porst then 0 else if s.rst.supply then 1 else 2
    let s1 := { s with rst := RstSt.initial, cmd := { s.cmd with digDirty := true } }.setFld F.GLB_RST_STAT_CAUSE cause
    if !cold then s1
    else
      let s2 := s1.setFld F.GLB_RST_STAT_STRAP addr
      if addr = 0 || addr = 31 then raise EV.STRAP_ERR (s2.setFlag F.GLB_RST_STAT_ADDR_ERR true) else s2

/-- SYS_READY (R417), where its three conditions are met, `us` microseconds after the release: the scrubber's first pass and
the ports start, and the temperature sensor is armed (R387, R418, R428). -/
def becomeReady (us : Nat) (s : Chip) : Chip :=
  if !s.up || s.rst.ready || !s.rst.calDone || !s.rst.memDone || !s.clk.everLock then s
  else
    let s1 := { s with rst := { s.rst with ready := true, therm := true }, scrub := { s.scrub with running := true } }
    let s2 := (s1.setFlag F.GLB_RST_STAT_READY true).setFld F.GLB_INIT_US_US (satTo 16 us)
    forAll [Port.east, Port.west] (fun p s => if s.flag (F.LN_STAT_PLL_LOCK p.ix) then startTraining p s else s)
      (raise EV.SYS_READY s2)

/-- CAL_ROWS_LOADED (R417). -/
def calRowsLoaded (us : Nat) (s : Chip) : Chip :=
  if s.up then becomeReady us { s with rst := { s.rst with calDone := true } } else s

/-- MEMORY_INIT_COMPLETE (R416, R417). -/
def memoryInitComplete (us : Nat) (s : Chip) : Chip :=
  if s.up then becomeReady us { s with rst := { s.rst with memDone := true } } else s

/-! ### Domain resets (R419, R423) -/

/-- What a reader still holds of an emptied region is abandoned (R94): contents offered to the ring and not admitted, objects
handed to the capture store, and input of the stream channels. -/
def abandonReaders (n : Nat) (s : Chip) : Chip :=
  let mine := fun (o : Offer) => match o.owner with
    | .frame _ => n == 0
    | .record _ => n == 7
    | .stream _ _ => n == 8
    | _ => false
  let s1 := forAll [Port.east, Port.west] (fun p s => forN 4 (fun c s =>
    s.setPort p ((s.port p).setWait c (((s.port p).wait c).filter fun o => !mine o))) s) s
  let s2 := { s1 with sto := { s1.sto with queue := s1.sto.queue.filter fun (o : StoObj) => o.region != n } }
  let left := fun (u : StreamIn) => match u.cfg.src with
    | 1 => n == 0
    | 2 => n == 2 + u.cfg.sel % 4
    | 3 => n == 7
    | _ => n == 6
  { s2 with cmp := { s2.cmp with chans := s2.cmp.chans.map fun (e : Nat × StreamCh) =>
    (e.1, { e.2 with lanes := e.2.lanes.map fun (l : Nat × StreamLane) =>
      (l.1, { l.2 with inq := l.2.inq.filter fun (u : StreamIn) => !left u }) }) } }

/-- EGRESS is emptied (R94): packets of it that have not started go; one that has is ended with BAD and counted. -/
def abandonEgress (p : Port) (s : Chip) : Chip :=
  let t := s.port p
  let cut := fun (q : TxPkt) => if q.egress.isSome then
      { q with words := q.words.take (q.sent - 1), badEnd := true, egress := none } else q
  let keep := fun (q : TxPkt) => q.egress.isNone
  (s.setPort p { t with txq := t.txq.filter keep, fwd := t.fwd.filter keep, started := t.started.map cut }).bumpBy
    (F.RN_LOST_COUNT p.ix) (t.started.countP fun q => q.egress.isSome)

/-- A region is emptied with all that its readers hold (R94): queued frames are counted, records in assembly end. -/
def dropRegion (n : Nat) (s : Chip) : Chip :=
  let s1 := if n = 0 then s.bumpBy F.HIT_DISCARD_CNT_COUNT (s.region 0).objs.length else s
  let s2 := abandonReaders n (emptyRegion n s1)
  if n = 7 then dropRecords s2
  else if n = 9 then
    let s3 := abandonEgress .west (abandonEgress .east s2)
    { s3 with sto := { s3.sto with items := s3.sto.items.map fun (i : StoItem) => { i with egress := none } } }
  else s2

/-- LAWN in reset: the lines relock, the FIFOs empty, the Folly restarts. -/
def resetLawn (s : Chip) : Chip :=
  let s1 := { s with lawn := { s.lawn with tdcs := [], fifos := [], folly := [], written := [] } }
  forN 1024 (fun p s => (s.setFlag (F.PRT_STAT_TDC0_LOCK p) false).setFlag (F.PRT_STAT_TDC1_LOCK p) false) s1

/-- HIT in reset: reorder buffers and open frames emptied, FRAME emptied, n_p cleared, k at KMIN. The two open frames lose their data and are
never emitted; the frame that starts at this tick has none yet. -/
def resetHit (s : Chip) : Chip :=
  let empty := fun (a : FrameAcc) => { a with hits := [], emit := false }
  let s1 := { s with
    hedges := []
    fb := { s.fb with cur := s.fb.cur.map empty
                      prev := s.fb.prev.map empty
                      np := [], quiet := [0, 0, 0, 0], press := [false, false, false, false] } }
  (dropRegion 0 s1).setFld F.HIT_RR_STAT_K ((List.range 4).foldl (fun v q => v ||| place 3 (3 * q) (s.kMin q)) 0)

/-- TRG in reset: windows, events, pending fires and records in assembly go; SEQ stays. -/
def resetTrg (s : Chip) : Chip := dropRecords { s with trg := { s.trg with conds := [], events := [], pend := [], merge := [] } }

/-- XDC in reset: the running entry is abandoned. -/
def resetXdc (s : Chip) : Chip :=
  let s1 := if s.xdc.run.isSome then s.bump F.XDC_ABANDON_CNT_COUNT else s
  { s1 with xdc := { s1.xdc with run := none, todo := [], newPass := false, redo := none, due := false } }

/-- TIP in reset: channels disarm, partial statistics go. -/
def resetTip (s : Chip) : Chip :=
  { s with
    tips := s.tips.map fun (e : Nat × TipCh) => (e.1, e.2.restart (s.clk.frame * frameFtu))
    tis := s.tis.map fun (e : Nat × TiIn) => (e.1, { e.2 with queue := [] }) }

/-- CAL in reset: runs end ABORTED, pending results go, ramps stop where they are. -/
def resetCal (s : Chip) : Chip :=
  let s1 := abortRuns 255 s
  let s2 := forN 8 (fun i s => showPending i false (setProc i { s.calProc i with pend := false, applyIn := none } s)) s1
  { s2 with cal := { s2.cal with
      pendTrim := [], pendGain := [], pendKnot := [], pendAp := [], pendTab := [], tgtTrim := [], tgtGain := [], slices := [], waiting := [] } }

/-- What LNx_STAT, LNx_NBR_NID and LNx_TEST show returns to reset; the lane PLL keeps its lock, and the rate is RATE again. -/
def clearLaneStatus (p : Port) (s : Chip) : Chip :=
  let zero := fun (f : Fld) (s : Chip) => s.setFld f 0
  let s1 := forAll [F.LN_STAT_STATE p.ix, F.LN_STAT_LMASK_TX p.ix, F.LN_STAT_LMASK_RX p.ix, F.LN_STAT_RXOK_PART p.ix,
    F.LN_STAT_LANE_LOCK p.ix, F.LN_STAT_LOCAL p.ix, F.LN_STAT_MODE_BUSY p.ix, F.LN_STAT_NBR_ADDR p.ix, F.LN_NBR_NID_NID p.ix,
    F.LN_TEST_PRBS p.ix, F.LN_TEST_LOOP p.ix] zero s
  (setRate p (s.flag (F.LN_CFG_RATE p.ix)) s1).setFld (F.LN_STAT_GAP p.ix) 7

/-- A port in reset: it leaves TRAINED, its queues, buckets and lane layer return to reset, and its crossings couple (R423). A wrap that
its leaving started goes on (R316, R317), and the last-good taps stay (R285). -/
def resetPort (p : Port) (s : Chip) : Chip :=
  let s1 := clearLaneStatus p (leaveTrained p s)
  let s2 := (s1.setPort p { PortSt.initial with wrapping := (s1.port p).wrapping }).setLane p
    { LaneSt.initial with lastGood := (s1.lane p).lastGood }
  couple p { s2 with line := s2.line.filter fun e => e.1 / 4 != p.ix }

/-- A domain enters reset. -/
def enterDomain (b : Nat) (s : Chip) : Chip :=
  match b with
  | 0 => resetLawn s
  | 1 => resetHit s
  | 2 => resetTrg s
  | 3 => forN 4 (fun c s => if s.wavEnabled 0 c then startSettling c s else s) s
  | 4 => resetXdc s
  | 5 => resetTip s
  | 6 => resetCal s
  | 7 => resetStreams s
  | 8 => resetPort .east s
  | 9 => resetPort .west s
  | _ => s

/-- Domains enter reset at a tick (R419). -/
def enterDomains (s : Chip) : Chip :=
  let m := s.rst.drstNext
  if m = 0 then s
  else forN 10 (fun b s => if m.testBit b then enterDomain b s else s)
    { s with rst := { s.rst with drstNext := 0, drstNow := s.rst.drstNow ||| m } }

/-- The Folly's generators restart when LAWN leaves its reset (R419): the cadence starts there. -/
def releaseFolly (s : Chip) : Chip := { s with lawn := { s.lawn with follyBase := s.tclkNow 0, follyLast := [] } }

/-- DOMAIN_RESET_RELEASE (R419): 64 CCLK after the tick. -/
def releaseDomains (s : Chip) : Chip :=
  let m := s.rst.drstNow
  if m = 0 || s.clk.cclk < 64 then s
  else
    let s1 := { s with rst := { s.rst with drstNow := 0 } }
    let s1 := if m.testBit 0 then releaseFolly s1 else s1
    let s2 := if m.testBit 4 then { s1 with xdc := { s1.xdc with due := s.xprofile != 0 } } else s1
    let s3 := forAll [Port.east, Port.west] (fun p s => if m.testBit (8 + p.ix) then startTraining p s else s) s2
    raise EV.DRST_DONE ((s3.setFld F.GLB_DRST_STAT_MASK m).bump F.GLB_DRST_CNT_COUNT)

/-! ### The commands -/

/-- PORST_N (R413, R414, R421). -/
def execPorstN (s : State) : Host.Outcome State Fault Refusal :=
  .next { s with chip := assertPorst s.chip, tap := Tap.initial }

/-- WRST_N (R413). -/
def execWrstN (s : State) : Host.Outcome State Fault Refusal := .next { s with chip := assertWrst s.chip }

/-- SUPPLY_MONITOR_RESET (R412): as PORST_N. -/
def execSupplyMonitorReset (s : State) : Host.Outcome State Fault Refusal :=
  .next { s with chip := assertSupply s.chip, tap := Tap.initial }

/-- RESET_RELEASE (R414). -/
def execResetRelease (addr : Fin 32) (s : State) : Host.Outcome State Fault Refusal :=
  .next { s with chip := releaseReset addr s.chip }

/-- CAL_ROWS_LOADED (R417). -/
def execCalRowsLoaded (us : Nat) (s : State) : Host.Outcome State Fault Refusal :=
  .next { s with chip := calRowsLoaded us s.chip }

/-- MEMORY_INIT_COMPLETE (R416). -/
def execMemoryInitComplete (us : Nat) (s : State) : Host.Outcome State Fault Refusal :=
  .next { s with chip := memoryInitComplete us s.chip }

/-- DOMAIN_RESET_RELEASE (R419). -/
def execDomainResetRelease (s : State) : Host.Outcome State Fault Refusal := .next { s with chip := releaseDomains s.chip }

end Sys2Proof.Machine
end

