-- ==== Sys2Proof/Machine/RingIo.lean ====
section
/-! DEFINITION. Ring traffic as it arrives and leaves (chapter 12): reception, delivery and forwarding of packets, CREDIT, and
the blocks of the lanes. A packet is forwarded once it is complete. -/

namespace Sys2Proof.Machine

/-! ### Packet types (R305) -/

/-- The CLASS of a packet type that devices receive, ACTUATE apart, whose URGENT bit gives it. -/
def receivedClass (t : Nat) : Option Nat :=
  match t with
  | 0x01 | 0x04 | 0x05 | 0x06 | 0x0A | 0x0B | 0x0C => some 1
  | 0x08 | 0x09 => some 0
  | _ => none

/-- The LEN that the payload definition of a received type gives, by its words; none where any LEN is taken. -/
def receivedLen (t : Nat) (ws : List W64) : Option Nat :=
  let w0 := (ws.headD 0#64).toNat
  match t with
  | 0x04 => some 5
  | 0x05 => if bits w0 63 56 = 0 then some 5 else if bits w0 63 56 = 1 then some 3 else none
  | 0x06 => some (bits w0 22 16 + 6)
  | 0x07 => some 4
  | 0x08 | 0x09 => some 3
  | 0x0A => some 1
  | 0x0B | 0x0C => some 2
  | _ => none

/-- The payload of a CREDIT names no frame (R312), or that of a STORE_ACK no packet type or status (R349). -/
def badPayload (t : Nat) (ws : List W64) : Bool :=
  let w0 := (ws.headD 0#64).toNat
  match t with
  | 0x0B => decide (312499 < bits (nth 0#64 ws 1).toNat 31 13)
  | 0x0C => !((bits w0 31 24 == 0x13 || bits w0 31 24 == 0x14) && decide (bits w0 23 16 < 2))
  | _ => false

/-- A delivered packet that R305 drops. An empty HEARTBEAT or MIRROR has no word that gives its length. -/
def malformed (q : Packet) : Bool :=
  let t := q.ptype.toNat
  let c := q.cls.toNat
  let classOk := if t = 7 then c == (if (q.words.headD 0#64).toNat.testBit 20 then 0 else 1) else receivedClass t == some c
  let lenOk := match receivedLen t q.words with | some n => q.words.length == n | none => true
  !classOk || !lenOk || badPayload t q.words || ((t == 5 || t == 6) && q.words.isEmpty)

/-- The STOP_SEQ of a STOP (R247). -/
def stopSeqOf (q : Packet) : Option Nat := if q.ptype = 0x08#8 then some (bits (q.words.headD 0#64).toNat 47 32) else none

/-- A duplicate of a broadcast of the last 16 frames (R300): the same SRC, CLASS and PSEQ, or, for STOP, the same SRC and STOP_SEQ. -/
def Chip.isDup (s : Chip) (q : Packet) : Bool :=
  s.ring.dups.any fun d => d.src == q.src.toNat && decide (s.cclkNow ≤ d.cc + 32768) &&
    ((d.cls == q.cls.toNat && d.seq == q.pseq.toNat) || ((stopSeqOf q).isSome && d.stopSeq == stopSeqOf q))

/-- A delivered broadcast is remembered (R300). -/
def noteBroadcast (q : Packet) (s : Chip) : Chip :=
  let d : DupRec := { src := q.src.toNat, cls := q.cls.toNat, seq := q.pseq.toNat, stopSeq := stopSeqOf q, cc := s.cclkNow }
  { s with ring := { s.ring with dups := (s.ring.dups.filter fun x => decide (s.cclkNow ≤ x.cc + 32768)) ++ [d] } }

/-! ### CREDIT (R309, R312) -/

/-- A delivered CREDIT waits for its tick (R312). -/
def creditIn (ws : List W64) (s : Chip) : Chip :=
  let w1 := (nth 0#64 ws 1).toNat
  { s with ring := { s.ring with
      credits := s.ring.credits ++ [(nearestFrame s.frameNow (bits w1 63 32) (bits w1 31 13), ws.headD 0#64)] } }

/-- Tokens above the depth of a bucket are discarded (R309). -/
def clipTokens (s : Chip) : Chip :=
  forAll [Port.east, Port.west] (fun p s => forN 4 (fun cls s =>
    s.setPort p ((s.port p).setTok cls (min (2048 * s.tokDepth p cls) ((s.port p).tok cls)))) s) s

/-- Sets the grants of a port, G3 and then G2 reduced to SHARE; says whether they were reduced. -/
def setGrant (p : Port) (g2 g3 : Nat) (s : Chip) : Bool × Chip :=
  let share := s.fld (F.RN_SHARE_SHARE p.ix)
  let excess := decide (share < g2 + g3)
  let h3 := if excess then share - g2 else g3
  let h2 := if excess then min g2 share else g2
  (excess, (s.setFld (F.RN_GRANT_G2 p.ix) h2).setFld (F.RN_GRANT_G3 p.ix) h3)

/-- CREDIT_APPLIED (R312). -/
def applyCredit (w : W64) (s : Chip) : Chip :=
  let x := w.toNat
  let a := setGrant .east (bits x 63 48) (bits x 47 32) s
  let b := setGrant .west (bits x 31 16) (bits x 15 0) a.2
  let s1 := if a.1 || b.1 then b.2.bump F.RNG_CRED_CLIP_COUNT else b.2
  let s2 := (s1.bump F.RNG_CRED_CNT_COUNT).setFlag F.RNG_STAT_CRED_VALID true
  clipTokens { s2 with ring := { s2.ring with sinceCredit := 0 } }

/-- The CREDITs of a tick, in order of delivery, and the lapse timer (R312). -/
def tickCredits (s : Chip) : Chip :=
  let due := s.ring.credits.filter fun c => decide (c.1 ≤ s.clk.frame)
  let s1 := { s with ring := { s.ring with
    credits := s.ring.credits.filter fun c => !decide (c.1 ≤ s.clk.frame)
    sinceCredit := if s.flag F.RNG_STAT_CRED_VALID then s.ring.sinceCredit + 1 else 0 } }
  forAll due (fun c s => applyCredit c.2 s) s1

/-- RNG_CREDIT_LAPSED (R312): no CREDIT was applied for RNG_CRED_TMO.FRAMES frames. -/
def creditLapsed (s : Chip) : Chip :=
  let n := s.fld F.RNG_CRED_TMO_FRAMES
  if s.flag F.RNG_STAT_CRED_VALID && n != 0 && decide (n ≤ s.ring.sinceCredit) then
    let s1 := (setGrant .west 0 0 (setGrant .east 0 0 s).2).2
    raise EV.RNG_CREDIT_LAPSED (clipTokens (s1.setFlag F.RNG_STAT_CRED_VALID false))
  else s

/-- A commit took effect: rates, depths and SHARE (R309, R312), and HOME: what was offered to the head and not admitted is
offered on the new port (R298). -/
def ringCommit (old s : Chip) : Chip :=
  let s1 := forAll [Port.east, Port.west] (fun p s =>
    (setGrant p (s.fld (F.RN_GRANT_G2 p.ix)) (s.fld (F.RN_GRANT_G3 p.ix)) s).2) s
  let s2 := clipTokens s1
  if old.homePort = s2.homePort then s2
  else forN 4 (fun cls s =>
    let q := (s.port old.homePort).wait cls
    let stay := s.setPort old.homePort ((s.port old.homePort).setWait cls (q.filter fun o => o.dest != 0#5))
    let t := stay.port s.homePort
    stay.setPort s.homePort (t.setWait cls (t.wait cls ++ q.filter fun o => o.dest == 0#5))) s2

/-! ### Delivery (R300, R305) -/

/-- A CMD packet's command joins the batch of the frame in progress (R363); without a header word there is no command. -/
def joinBatch (from_ : Sender) (ws : List W64) (s : Chip) : Chip :=
  if ws.isEmpty then s
  else
    let n := s.cmd.batch.countP fun c => !c.excess
    { s with cmd := { s.cmd with batch := s.cmd.batch ++ [{ sender := from_, words := ws, excess := decide (16 ≤ n) }] } }

/-- The consumer of a delivered packet (R305), whose START was delivered `first` FTU ago. -/
def consume (p : Port) (q : Packet) (first : Nat) (s : Chip) : Chip :=
  match q.ptype.toNat with
  | 0x01 => joinBatch (.ring p) q.words s
  | 0x04 => timePacketIn p q first s
  | 0x05 => hearHeartbeat q.words s
  | 0x06 => hearMirror q.words s
  | 0x08 => hearStop q.src.toNat (s.now - first) s
  | 0x09 => fireIn false (q.words.headD 0#64) (nth 0#64 q.words 1) (nth 0#64 q.words 2)
      (s.now - first - s.fld (F.TRG_FIRE_COMP_FTU p.ix)) s
  | 0x0A => armIn (q.words.headD 0#64) s
  | 0x0B => creditIn q.words s
  | 0x0C => storeAck q.words s
  | _ => s

/-- A packet for this device: dropped as malformed, or delivered (R300, R305). `pass` tells that the claim table passes an
ACTUATE (R401). -/
def deliver (p : Port) (q : Packet) (first : Nat) (pass : Bool) (s : Chip) : Chip :=
  let bcast := q.dest == 31#5
  if bcast && s.isDup q then s.bump F.RNG_DUP_COUNT
  else if malformed q then badPacket s
  else if !pass then s
  else consume p q first ((if bcast then noteBroadcast q s else s).bump (F.RN_RXPKT_COUNT p.ix))

/-! ### Forwarding (R300, R303, R308) -/

/-- Gives the packets of a forward buffer their places in memory 10, and writes them there (R308, R379): START, DATA, END. -/
def settleForward (p : Port) (s : Chip) : Chip :=
  let t := s.port p
  let step := fun (acc : List TxPkt × Chip) (q : TxPkt) =>
    match q.slot with
    | some _ => (acc.1 ++ [q], acc.2)
    | none =>
      let head := (acc.2.port p).fwdHead
      let n := q.words.length
      let s1 := forAll ((List.range n).zip q.words) (fun x s =>
        memWrite 10 (4096 * p.ix + (head + 1 + x.1) % 4096) 255 x.2.toNat s) acc.2
      (acc.1 ++ [{ q with slot := some head }], s1.setPort p { s1.port p with fwdHead := (head + n + 2) % 4096 })
  let r := t.fwd.foldl step ([], s)
  r.2.setPort p { r.2.port p with fwd := r.1 }

/-- A packet leaves by the other port (R300): HOPS goes up, and above 63 the packet is stray. -/
def forward (p : Port) (q : Packet) (bad : Bool) (s : Chip) : Chip :=
  if q.hops = 63#6 then raise EV.RNG_STRAY (s.bump F.RNG_STRAY_COUNT)
  else
    let x : TxPkt :=
      { ptype := q.ptype, cls := q.cls, dest := q.dest, src := q.src, hops := q.hops + 1#6, wrapped := q.wrapped,
        len := q.words.length, pseq := q.pseq, words := q.words, badEnd := bad, own := false, through := true, idx := 0,
        stamp := s.clk.cc + s.clk.cclk, egress := none, slot := none, owner := none, sent := 0 }
    settleForward .west (settleForward .east (placeTx raise p.other x s))

/-- The port receives ring traffic (R299, R418). -/
def Chip.receives (s : Chip) (p : Port) : Bool := s.running && s.trained p && !s.flag (F.LN_STAT_LOCAL p.ix)

/-- A complete packet on a port (R300, R303, R401), whose START was delivered `first` FTU ago. -/
def receivePacket (p : Port) (q : Packet) (first : Nat) (s : Chip) : Chip :=
  let own := BitVec.ofNat 5 s.addr
  let bcast := q.dest == 31#5
  let mine := q.dest == own || bcast
  let broken := !q.crcOk || q.bad
  if !s.receives p then s
  else if q.src == own then (if bcast then s else raise EV.RNG_STRAY (s.bump F.RNG_STRAY_COUNT))
  else
    let s1 := if !q.crcOk || (q.bad && mine) then s.bump (F.RN_CRC_ERR_COUNT p.ix) else s
    let (pass, s2) :=
      if q.ptype = 0x07#8 && !broken && !q.words.isEmpty && !(mine && malformed q) then claimCheck (q.words.headD 0#64) s1
      else (true, s1)
    let s3 := if mine && !broken then deliver p q first pass s2 else s2
    if q.dest == own then s3 else forward p q (broken || !pass) s3

/-- A packet row of the opcode table for one packet type: a packet of another type is not that event. -/
def receiveTyped (t : Nat) (p : Port) (q : Packet) (first : Nat) (s : Chip) : Chip :=
  if q.ptype.toNat = t then receivePacket p q first s else s

/-! ### The transmitter (R279, R302, R303, R306) -/

/-- The payload of a START (R302). -/
def TxPkt.start (q : TxPkt) (hops : Nat) (wrapped : Bool) : Nat :=
  place 8 56 q.ptype.toNat ||| place 2 54 q.cls.toNat ||| place 5 49 q.dest.toNat ||| place 5 44 q.src.toNat |||
    place 6 38 hops ||| place 1 37 (b2n wrapped) ||| place 12 24 q.len ||| place 16 8 q.pseq.toNat ||| 0x78

/-- The bytes that the CRC of a packet covers (R303), given its START payload. -/
def crcBytes (start : Nat) (ws : List W64) : List Nat :=
  let st := start &&& (2 ^ 64 - 1 - 0x7F * 2 ^ 37)
  (wordBytes (w64 st)).drop 1 ++ ws.flatMap wordBytes

/-- The payload of an END (R302, R303). -/
def TxPkt.endBlock (q : TxPkt) : Nat := place 32 32 (crc32 (crcBytes (q.start 0 false) q.words)) ||| place 1 31 (b2n q.badEnd) ||| 0x87

/-- A control block: sync 0b10. -/
def ctlBlock (x : Nat) : BitVec 66 := BitVec.ofNat 66 (2 * 2 ^ 64 + x % 2 ^ 64)

/-- A data block: sync 0b01. -/
def dataBlock (w : W64) : BitVec 66 := BitVec.ofNat 66 (2 ^ 64 + w.toNat)

/-- The better of two own packets of a class to start: order of admission, PTYPE, source index (R306). -/
def ownBefore (a b : TxPkt) : Bool :=
  decide (a.stamp < b.stamp) || (a.stamp == b.stamp && (decide (a.ptype.toNat < b.ptype.toNat)
    || (a.ptype == b.ptype && decide (a.idx < b.idx))))

/-- The index and packet of the own packet of a class that starts next. -/
def nextOwn (cls : Nat) (l : List TxPkt) : Option (Nat × TxPkt) :=
  ((List.range l.length).zip l).foldl (fun best x =>
    if x.2.cls.toNat != cls then best
    else match best with
      | none => some x
      | some b => if ownBefore x.2 b.2 then some x else some b) none

/-- The index and packet of the pass-through packet of a class that starts next. -/
def nextThrough (cls : Nat) (l : List TxPkt) : Option (Nat × TxPkt) :=
  ((List.range l.length).zip l).find? fun x => x.2.cls.toNat == cls

/-- The packet whose START comes next at a block boundary (R306), of a class below `limit`: the port without it, and it. A packet
of EGRESS waits while every store byte is spoken for (R95). -/
def pickStart (usable : Nat → Bool) (wait : Bool) (limit : Nat) (t : PortSt) : Option (TxPkt × PortSt) :=
  (List.range 4).findSome? fun cls =>
    if limit ≤ cls || !usable cls then none
    else match nextThrough cls t.fwd with
      | some (i, q) => some (q, { t with fwd := t.fwd.eraseIdx i })
      | none => match nextOwn cls t.txq with
        | some (i, q) => if wait && q.egress.isSome then none else some (q, { t with txq := t.txq.eraseIdx i })
        | none => none

/-- An EGRESS or forward-buffer word was poisoned (R390). -/
def notePoisonedEgress (s : Chip) : Chip := raise EV.EGRESS_POISON (s.bump F.MIN_EGRESS_POISON_COUNT)

/-- A packet whose words were read poisoned ends with BAD; an item of the capture store is given up at once (R390). -/
def poisonedTx (q : TxPkt) (s : Chip) : TxPkt × Chip :=
  let s1 := notePoisonedEgress s
  ({ q with badEnd := true }, match q.owner with | some (.storeItem pt c) => giveUpItem pt c true s1 | _ => s1)

/-- A packet as its START is sent: its words as read from EGRESS or from the forward buffer, its TIME stamp (R325, R390). -/
def startTx (p : Port) (q : TxPkt) (s : Chip) : TxPkt × Chip :=
  let (q1, s1) := match q.owner with | some .time => stampTime p q s | _ => (q, s)
  let n := q1.words.length
  let fromEgress := match q1.egress with | some id => s1.findObj 9 id | none => none
  match fromEgress, q1.slot with
  | some o, _ =>
    let (ws, bad, s2) := readWords 9 o (addBacklog 4 (8 * o.offsets.length) s1)
    let q2 := { q1 with words := (ws.drop 1).take n }
    if bad.any fun i => decide (1 ≤ i) && decide (i ≤ n) then poisonedTx q2 s2 else (q2, s2)
  | none, some head =>
    let r := (List.range n).foldl (fun (acc : List W64 × Bool × Chip) i =>
      let (d, b, t) := memRead 10 (4096 * p.ix + (head + 1 + i) % 4096) acc.2.2
      (acc.1 ++ [w64 d], acc.2.1 || b, t)) ([], false, s1)
    let q2 := { q1 with words := r.1 }
    if r.2.1 then ({ q2 with badEnd := true }, notePoisonedEgress r.2.2) else (q2, r.2.2)
  | none, none => (q1, s1)

/-- What the end of a packet counts and frees. -/
def endTx (p : Port) (q : TxPkt) (s : Chip) : Chip :=
  if q.own then freeEgress q (s.bump (F.RN_TXPKT_COUNT p.ix)) else s.bump (F.RN_FWDPKT_COUNT p.ix)

/-- The low byte of the PSEQ sent last in a class (R322). -/
def notePseq (q : TxPkt) (s : Chip) : Chip :=
  if q.own then s.setFld ⟨F.RNG_PSEQ_PSEQ.addr, 8 * q.cls.toNat, 8, false⟩ (q.pseq.toNat % 256) else s

/-- A traffic block leaves (R323). -/
def sendBlock (p : Port) (b : BitVec 66) (s : Chip) : Chip :=
  (s.setPort p { s.port p with lastTx := b }).bump (F.RN_TXBLK_COUNT p.ix)

/-- The next block of the packet on top of the transmitter's stack. -/
def continueTx (p : Port) (q : TxPkt) (rest : List TxPkt) (s : Chip) : Chip :=
  if q.sent ≤ q.words.length then
    sendBlock p (dataBlock (nth 0#64 q.words (q.sent - 1)))
      (s.setPort p { s.port p with started := { q with sent := q.sent + 1 } :: rest })
  else endTx p q (sendBlock p (ctlBlock q.endBlock) (s.setPort p { s.port p with started := rest }))

/-- The traffic slot of a port (R306): a START of a lower class than the packet in progress, else its next block, else IDLE. In SLEEP
the blocks of classes 1 to 3 wait (R288). -/
def trafficSlot (p : Port) (s0 : Chip) : Chip :=
  let s := settleForward p s0
  let t := s.port p
  let limit := match t.started with | q :: _ => q.cls.toNat | [] => 4
  match pickStart (s.usable p) (s.storeWait 4 != 0) limit t with
  | some (q, t1) =>
    let (q1, s1) := startTx p q (s.setPort p t1)
    let s2 := s1.setPort p { s1.port p with started := { q1 with sent := 1 } :: (s1.port p).started }
    sendBlock p (ctlBlock (q1.start q1.hops.toNat q1.wrapped)) (notePseq q1 s2)
  | none =>
    match t.started with
    | q :: rest =>
      if (s.lane p).mode = 2 && q.cls != 0#2 then s.setPort p { t with lastTx := ctlBlock 0x1E } else continueTx p q rest s
    | [] => s.setPort p { t with lastTx := ctlBlock 0x1E }

/-- The active lanes of a transmitter, in ascending order. -/
def Chip.txLanes (s : Chip) (p : Port) : List Nat := (List.range 4).filter (s.fld (F.LN_STAT_LMASK_TX p.ix)).testBit

/-- The port sends blocks (R289, R290): PRBS31 takes their place, and far-end loopback sends what is received. -/
def Chip.sendsBlocks (s : Chip) (p : Port) : Bool := !s.flag (F.LN_TEST_PRBS p.ix) && s.fld (F.LN_TEST_LOOP p.ix) != 3

/-- The block of a slot (R279, R306): the slot of the next active lane. Every 16,384th slot of each lane carries its AM; a port
that is not TRAINED sends IDLE in the others. -/
def blockBoundary (p : Port) (s : Chip) : Chip :=
  let t := s.port p
  let lanes := s.txLanes p
  if !s.running || s.lnState p = 0 || lanes.isEmpty then s
  else
    let i := t.txLane % lanes.length
    let last := decide (lanes.length ≤ i + 1)
    let s1 := s.setPort p { t with
      txLane := if last then 0 else i + 1
      txSlot := if last then (t.txSlot + 1) % 16384 else t.txSlot
      txRow := if i = 0 then s.now else t.txRow }
    if !s.sendsBlocks p then s1
    else if t.txSlot = 0 then s1.setPort p { s1.port p with lastTx := ctlBlock (s.amPayload p (nth 0 lanes i)) }
    else if s.trained p then trafficSlot p s1
    else s1.setPort p { s1.port p with lastTx := ctlBlock 0x1E }

/-- The lines of a slot, given the chip before it (R278, R279, R288 to R290): the lane whose turn it was sends the block, scrambled unless it
is an AM, or PRBS31; the lanes of a widening send IDLE and AMs in step with lane 0. -/
def lineOut (p : Port) (old s : Chip) : Chip :=
  let lanes := old.txLanes p
  let t := old.port p
  if !old.running || old.lnState p = 0 || lanes.isEmpty then s
  else
    let k := nth 0 lanes (t.txLane % lanes.length)
    if old.flag (F.LN_TEST_PRBS p.ix) && old.fld (F.LN_TEST_LOOP p.ix) != 3 then setLine p k (s.lineOf p k).sendPrbs s
    else if !old.sendsBlocks p then s
    else
      let put := fun (j : Nat) (b : BitVec 66) (s : Chip) =>
        setLine p j (if t.txSlot = 0 then (s.lineOf p j).sendAm b else (s.lineOf p j).send b) s
      let s1 := put k (s.port p).lastTx s
      if old.widening p then
        forAll [1, 2, 3] (fun j s => put j (ctlBlock (if t.txSlot = 0 then old.amPayload p j else 0x1E)) s) s1
      else s1

/-! ### The receiver (R278, R302, R307) -/

/-- The packet that a START and DATA words make, with what its END says (R302, R303). -/
def packetOf (start : W64) (ws : List W64) (crcOk bad : Bool) : Packet :=
  let x := start.toNat
  { ptype := BitVec.ofNat 8 (bits x 63 56), cls := BitVec.ofNat 2 (bits x 55 54), dest := BitVec.ofNat 5 (bits x 53 49),
    src := BitVec.ofNat 5 (bits x 48 44), hops := BitVec.ofNat 6 (bits x 43 38), wrapped := x.testBit 37,
    pseq := BitVec.ofNat 16 (bits x 23 8), words := ws, crcOk := crcOk, bad := bad }

/-- An open packet that a framing error ends: where it was being forwarded, its END goes out with BAD (R303, R307). -/
def cutPacket (p : Port) (r : RxPkt) (s : Chip) : Chip :=
  let q := packetOf r.start r.words true true
  let own := BitVec.ofNat 5 s.addr
  if q.src == own || q.dest == own then s else forward p q true s

/-- A framing error (R307). -/
def framingError (p : Port) (s : Chip) : Chip :=
  let t := s.port p
  let s1 := raise (EV.RN_FRAMING p) ((s.setPort p { t with rx := [], rxIgnore := true }).bump (F.RN_FRAMING_COUNT p.ix))
  forAll t.rx (cutPacket p) s1

/-- A START on a receiver. That of a TIME packet is stamped at the lane-0 slot of its row (R324). -/
def rxStart (p : Port) (x : W64) (s : Chip) : Chip :=
  let t := s.port p
  let at_ := if bits x.toNat 63 56 = 0x04 then (s.lane p).rxRow else s.now
  let open_ := s.setPort p { t with rx := { start := x, words := [], first := at_ } :: t.rx, rxIgnore := false }
  match t.rx with
  | [] => open_
  | r :: _ => if bits x.toNat 55 54 < bits r.start.toNat 55 54 then open_ else framingError p s

/-- A DATA block on a receiver. -/
def rxData (p : Port) (x : W64) (s : Chip) : Chip :=
  let t := s.port p
  match t.rx with
  | [] => if t.rxIgnore then s else framingError p s
  | r :: rest =>
    if bits r.start.toNat 35 24 ≤ r.words.length then framingError p s
    else s.setPort p { t with rx := { r with words := r.words ++ [x] } :: rest }

/-- An END on a receiver: the packet is complete. -/
def rxEnd (p : Port) (x : W64) (s : Chip) : Chip :=
  let t := s.port p
  match t.rx with
  | [] => if t.rxIgnore then s else framingError p s
  | r :: rest =>
    let ok := bits x.toNat 63 32 == crc32 (crcBytes r.start.toNat r.words) && r.words.length == bits r.start.toNat 35 24
    receivePacket p (packetOf r.start r.words ok (x.toNat.testBit 31)) (s.now - r.first) (s.setPort p { t with rx := rest })

/-- RING_BLOCK_RECEIVED (R278, R290, R302, R307, R422): one block after the descrambler. With PRBS on, `x` marks the bits found in
error. -/
def blockReceived (p : Port) (lane sync : Nat) (x : W64) (s : Chip) : Chip :=
  let st := s.lnState p
  if !s.running || st = 0 then s
  else if s.flag (F.LN_TEST_PRBS p.ix) then crossCount p .prbs lane (prbsF p lane) (popCount x.toNat) s
  else if sync = 0 || sync = 3 then crossCount p .sherr lane (sherrF p lane) 1 s
  else if !s.receives p || !s.rxLane p lane then s
  else if sync = 1 then rxData p x s
  else match bits x.toNat 7 0 with
    | 0x1E | 0xA5 => s
    | 0x78 => rxStart p x s
    | 0x87 => rxEnd p x s
    | _ => s.bump (F.RN_FRAMING_COUNT p.ix)

/-! ### The commands -/

/-- FIRE_PACKET (R107). -/
def execFirePacket (port : Port) (pkt : Packet) (first : Nat) (s : State) : Host.Outcome State Fault Refusal :=
  .next { s with chip := receiveTyped 0x09 port pkt first s.chip }

/-- ARM_PACKET (R115). -/
def execArmPacket (port : Port) (pkt : Packet) (s : State) : Host.Outcome State Fault Refusal :=
  .next { s with chip := receiveTyped 0x0A port pkt 0 s.chip }

/-- RING_PACKET_RECEIVED (R300). -/
def execRingPacketReceived (port : Port) (pkt : Packet) (first : Nat) (s : State) : Host.Outcome State Fault Refusal :=
  .next { s with chip := receivePacket port pkt first s.chip }

/-- CREDIT (R312). -/
def execCredit (port : Port) (pkt : Packet) (s : State) : Host.Outcome State Fault Refusal :=
  .next { s with chip := receiveTyped 0x0B port pkt 0 s.chip }

/-- RNG_CREDIT_LAPSED (R312). -/
def execRngCreditLapsed (s : State) : Host.Outcome State Fault Refusal := .next { s with chip := creditLapsed s.chip }

/-- TIME_PACKET (R326). -/
def execTimePacket (port : Port) (pkt : Packet) (first : Nat) (s : State) : Host.Outcome State Fault Refusal :=
  .next { s with chip := receiveTyped 0x04 port pkt first s.chip }

/-- STORE_ACK (R349). -/
def execStoreAck (port : Port) (pkt : Packet) (s : State) : Host.Outcome State Fault Refusal :=
  .next { s with chip := receiveTyped 0x0C port pkt 0 s.chip }

/-- CMD_PACKET (R363). -/
def execCmdPacket (port : Port) (pkt : Packet) (s : State) : Host.Outcome State Fault Refusal :=
  .next { s with chip := receiveTyped 0x01 port pkt 0 s.chip }

/-- PAIR_HEARTBEAT (R403). -/
def execPairHeartbeat (port : Port) (pkt : Packet) (s : State) : Host.Outcome State Fault Refusal :=
  .next { s with chip := receiveTyped 0x05 port pkt 0 s.chip }

/-- MIRROR (R404). -/
def execMirror (port : Port) (pkt : Packet) (s : State) : Host.Outcome State Fault Refusal :=
  .next { s with chip := receiveTyped 0x06 port pkt 0 s.chip }

/-- BLOCK_BOUNDARY (R306). -/
def execBlockBoundary (port : Port) (s : State) : Host.Outcome State Fault Refusal :=
  .next { s with chip := lineOut port s.chip (blockBoundary port s.chip) }

/-- RING_BLOCK_RECEIVED (R307). -/
def execRingBlockReceived (port : Port) (lane : Fin 4) (sync : BitVec 2) (payload : W64) (s : State) :
    Host.Outcome State Fault Refusal := 
  .next { s with chip := blockReceived port lane sync.toNat payload (lineIn port lane sync.toNat payload s.chip) }

/-- PACKET_ADMISSION (R310). -/
def execPacketAdmission (port : Port) (cls : Fin 4) (s : State) : Host.Outcome State Fault Refusal :=
  .next { s with chip := admitQueue port cls s.chip }

/-- RNG_DROPPED (R310). -/
def execRngDropped (port : Port) (cls : Fin 4) (s : State) : Host.Outcome State Fault Refusal :=
  .next { s with chip := dropHead port cls s.chip }

/-- TIME_INIT (R326). -/
def execTimeInit (port : Port) (s : State) : Host.Outcome State Fault Refusal := .next { s with chip := timeInit port s.chip }

/-- STORE_OBJECT_PLACE (R343). -/
def execStoreObjectPlace (s : State) : Host.Outcome State Fault Refusal := .next { s with chip := placeObject s.chip }

/-- STORE_ITEM_TIMEOUT (R350). -/
def execStoreItemTimeout (index : Bool) (cseq : BitVec 32) (s : State) : Host.Outcome State Fault Refusal :=
  .next { s with chip := itemTimeout (if index then 0x14 else 0x13) cseq.toNat s.chip }

/-- PAIR_TAKEOVER (R406). -/
def execPairTakeover (s : State) : Host.Outcome State Fault Refusal := .next { s with chip := takeOver s.chip }

end Sys2Proof.Machine
end

