-- ==== Sys2Proof/Machine/Command.lean ====
section
/-! DEFINITION. The command engine (chapter 15): command words, the ordered checks, the effect of each opcode, statuses, repeats,
batches, and the side port. -/

namespace Sys2Proof.Machine

/-! ### Command words (R354 to R356) -/

/-- The header word. -/
def Command.header (c : Command) : Nat := (c.words.headD 0#64).toNat
/-- OPCODE. -/
def Command.op (c : Command) : Nat := bits c.header 63 56
/-- TAG. -/
def Command.tag (c : Command) : Nat := bits c.header 55 48
/-- PRIV. -/
def Command.priv (c : Command) : Nat := bits c.header 37 36
/-- BANK. -/
def Command.bank (c : Command) : Nat := bits c.header 35 34
/-- PLEN. -/
def Command.plen (c : Command) : Nat := bits c.header 33 24
/-- ADDR. -/
def Command.addr (c : Command) : Nat := bits c.header 23 0
/-- The payload words. -/
def Command.payload (c : Command) : List W64 := (c.words.drop 1).dropLast
/-- Payload word i. -/
def Command.arg (c : Command) (i : Nat) : Nat := (nth 0#64 c.payload i).toNat
/-- The last word, which should be the CRC word. -/
def Command.crcWord (c : Command) : Nat := (c.words.getLastD 0#64).toNat
/-- The CRC word that the words before it demand (R355). -/
def crcOf (ws : List W64) : Nat := crc32 (ws.flatMap wordBytes)

/-- The least and the greatest PLEN of an opcode (R356); none where it is no opcode. -/
def opcodeLen (op : Nat) : Option (Nat × Nat) :=
  match op with
  | 0x00 => some (0, 0)
  | 0x10 => some (0, 0)
  | 0x11 => some (1, 1)
  | 0x20 => some (1, 1)
  | 0x21 => some (1, 1)
  | 0x22 => some (1, 254)
  | 0x30 => some (2, 2)
  | 0x31 => some (0, 0)
  | 0x32 => some (0, 0)
  | 0x33 => some (0, 0)
  | 0x40 => some (1, 1)
  | 0x41 => some (3, 3)
  | 0x42 => some (1, 1)
  | 0x50 => some (1, 1)
  | 0x51 => some (1, 1)
  | 0x60 => some (2, 2)
  | 0x61 => some (2, 2)
  | 0x70 => some (1, 1)
  | 0x80 => some (1, 1)
  | 0x90 => some (1, 1)
  | 0xA0 => some (1, 66)
  | 0xB0 => some (1, 1)
  | 0xC0 => some (1, 1)
  | 0xD0 => some (2, 2)
  | _ => none

/-- The group of an opcode that acts on something other than registers, and whether its READ level governs (R356, R367). -/
def opcodeGroup (op : Nat) : Option (Nat × Bool) :=
  match op with
  | 0x30 => some (48, false)
  | 0x31 => some (48, false)
  | 0x32 => some (49, true)
  | 0x33 => some (49, true)
  | 0x40 => some (50, false)
  | 0x41 => some (50, false)
  | 0x42 => some (50, false)
  | 0x50 => some (51, false)
  | 0x51 => some (51, false)
  | 0x60 => some (52, false)
  | 0x61 => some (52, false)
  | 0x70 => some (53, false)
  | 0x80 => some (54, false)
  | 0x90 => some (55, false)
  | 0xB0 => some (56, false)
  | 0xC0 => some (57, false)
  | 0xD0 => some (58, false)
  | _ => none

/-- The protection group of a register address (R367, R425). -/
def regGroup (a : Nat) : Nat :=
  if a < 0x1000 then 0
  else if a < 0x1100 then 1
  else if a < 0x2000 then 2
  else if a < 0x10000 then a / 0x1000 + 1
  else if a < 0x20000 then 11
  else if a < 0x30000 then 12
  else if a < 0x38000 then 13
  else if a < 0x40000 then 14
  else if a < 0x48000 then 15
  else if a < 0x50000 then 16
  else if a < 0x60000 then 17
  else if a < 0x60400 then 18
  else if a < 0x70000 then 19
  else if a < 0x80000 then 20
  else if a < 0x82000 then 21
  else if a < 0x90000 then 22
  else 23

/-- The registers a command reads or writes, ascending (R356). -/
def Command.regs (c : Command) : List Nat :=
  match c.op with
  | 0x10 => [c.addr]
  | 0x20 => [c.addr]
  | 0x21 => [c.addr]
  | 0x11 => (List.range (bits (c.arg 0) 8 0)).map fun i => c.addr + 4 * i
  | 0x22 => (List.range (2 * c.payload.length)).map fun i => c.addr + 4 * i
  | _ => []

/-- A register write. -/
def Command.writes (c : Command) : Bool := c.op == 0x20 || c.op == 0x21 || c.op == 0x22

/-- The most data words that the status of a command may carry (R358). -/
def Command.ndata (c : Command) : Nat :=
  match c.op with
  | 0x10 => 1
  | 0x11 => ceilDiv (bits (c.arg 0) 8 0) 2
  | 0x30 => 1
  | 0x32 => 4
  | 0x33 => 3
  | _ => 0

/-- A command from the side port. -/
def Command.fromSide (c : Command) : Bool := c.sender == .side

/-- The place of a port in the order of R364 and in CMD_LAST_ERR (R378): 0 ring secondary, 1 ring primary, 2 side port. -/
def Chip.senderRank (s : Chip) : Sender → Nat
  | .ring p => if p = s.homePort then 1 else 0
  | .side => 2

/-! ### The checks before execution (R359, orders 1 to 7) -/

/-- The length checks of order 3 (R34, R355, R356, R358, R360, R370). -/
def Chip.badLen (s : Chip) (c : Command) (lens : Nat × Nat) : Bool :=
  decide (c.plen < lens.1) || decide (lens.2 < c.plen) || c.words.length != c.plen + 2
  || (c.op == 0x11 && (decide (bits (c.arg 0) 8 0 = 0) || decide (506 < bits (c.arg 0) 8 0)))
  || (c.op == 0x60 && decide (999999999 < bits (c.arg 0) 63 32))
  || (c.op == 0x41 && decide (999999999 < bits (c.arg 1) 63 32))
  || (c.op == 0x30 && decide (312499 < bits (c.arg 1) 31 13))
  || (!c.fromSide && decide (s.fld (F.RN_ALLOW_A1 s.homePort.ix) < c.ndata + 5))

/-- The address checks of order 4 (R9, R348, R354, R368, R394). -/
def Chip.badAddr (s : Chip) (c : Command) : Bool :=
  (!c.fromSide && (bits c.header 47 43 != 0 || (bits c.header 42 38 != s.addr && bits c.header 42 38 != 31)))
  || decide (1 < c.bank) || (c.regs.any fun a => !s.assigned c.sender a)
  || (c.op == 0xA0 && c.payload.any fun w => decide (65 < bits w.toNat 15 8))
  || (c.op == 0x70 && decide (bits (c.arg 0) 61 44 < bits (c.arg 0) 41 24))
  || (c.op == 0xD0 && diagBad (c.arg 0))

/-- A register that holds an RWS field, as this sender's page stands (R229, R369). -/
def Chip.isRws (s : Chip) (x : Sender) (a : Nat) : Bool :=
  match regRow? a with
  | none => false
  | some r => r.hasRws && (!inCalWin a || decide (s.calPage x < 64))

/-- The permission checks of order 5 (R7, R8, R366, R367, R400). -/
def Chip.denied (s : Chip) (c : Command) : Bool :=
  let level := fun (g : Nat) (rd : Bool) => if rd then s.fld (F.CMD_PROT_READ g) else s.fld (F.CMD_PROT_WRITE g)
  decide (c.priv < (if c.fromSide then s.fld F.CMD_CEIL_SIDE else s.fld F.CMD_CEIL_RING))
  || (c.op == 0xA0 && c.priv != 0)
  || (c.regs.any fun a => decide (level (regGroup a) (!c.writes) < c.priv))
  || (match opcodeGroup c.op with | some (g, rd) => decide (level g rd < c.priv) | none => false)
  || (c.op == 0x80 && bits (c.arg 0) 3 0 == 2 && c.priv != 0)
  || (c.writes && c.bank == 0 && c.regs.any fun a =>
        match regRow? a with | some r => r.onlyRws && s.isRws c.sender a | none => false)

/-- Opcodes that run before the first local frame tick after lock (R362). -/
def runsPrelock (op : Nat) : Bool := [0x00, 0x10, 0x11, 0x20, 0x21, 0x22, 0x32, 0x33, 0xA0].contains op

/-- The states in which a command must wait (order 6): over the limit of its batch (R363), before lock (R362), while a commit is
pending (R369), or writes of the capture store's allocator while the window is enabled (R353). -/
def Chip.busy (s : Chip) (c : Command) : Bool :=
  c.excess || (!s.clk.counting && !runsPrelock c.op)
  || (c.writes && c.bank == 1 && s.cmd.target.isSome && c.regs.any (s.isRws c.sender))
  || (c.writes && s.stoEnabled && c.regs.any fun a => a == 0x9008 || inStoWin a)

/-- A write that follows one of a better privilege to the same register in its batch (order 7, R364). -/
def Chip.collides (s : Chip) (c : Command) : Bool :=
  c.writes && c.regs.any fun a => s.cmd.written.any fun w => w.1 == a && decide (w.2 < c.priv)

/-- The status of the first check that fails (R359); 0 where none does. -/
def Chip.checkCommand (s : Chip) (c : Command) : Nat :=
  if c.fromSide && c.words.length != c.plen + 2 then 4
  else if c.crcWord != crcOf c.words.dropLast then 5
  else match opcodeLen c.op with
    | none => 2
    | some lens =>
      if s.badLen c lens then 4
      else if s.badAddr c then 3
      else if s.denied c then 1
      else if s.busy c then 8
      else if s.collides c then 6
      else 0

/-! ### Protection (R366 to R368) -/

/-- One PROT_WR word takes effect. -/
def protWord (w : W64) (s : Chip) : Chip :=
  let x := w.toNat
  let i := bits x 15 8
  if i < 64 then (s.setFld (F.CMD_PROT_WRITE i) (bits x 5 4)).setFld (F.CMD_PROT_READ i) (bits x 1 0)
  else if i = 64 then s.setFld F.CMD_CEIL_RING (bits x 1 0)
  else s.setFld F.CMD_CEIL_SIDE (bits x 1 0)

/-- PROT_WR words take effect in order; the digests follow (R374). -/
def protApply (ws : List W64) (s : Chip) : Chip :=
  if ws.isEmpty then s
  else let s1 := forAll ws protWord s; { s1 with cmd := { s1.cmd with digDirty := true } }

/-- The ceilings after words: ring, side. -/
def ceilAfter (ws : List W64) (c : Nat × Nat) : Nat × Nat :=
  ws.foldl (fun c w =>
    if bits w.toNat 15 8 = 64 then (bits w.toNat 1 0, c.2)
    else if bits w.toNat 15 8 = 65 then (c.1, bits w.toNat 1 0)
    else c) c

/-- PROT_WR (R368): REFUSED where both ceilings would end above 0; before lock it takes effect at once (R362). -/
def runProt (ws : List W64) (s : Chip) : Nat × Chip :=
  let after := ceilAfter (s.cmd.protNext ++ ws) (s.fld F.CMD_CEIL_RING, s.fld F.CMD_CEIL_SIDE)
  if after.1 != 0 && after.2 != 0 then (0xA, s)
  else
    let s1 := if s.clk.counting then { s with cmd := { s.cmd with protNext := s.cmd.protNext ++ ws } } else protApply ws s
    (0, raise EV.PROT_CHANGED s1)

/-! ### Commits (R369 to R373) -/

/-- Copies a table memory word by word where the copies differ, poison with it (R370, R390). -/
def copyTable (src dst : Nat) (s : Chip) : Chip :=
  let keys := ((s.mem src).data.map Prod.fst ++ (s.mem dst).data.map Prod.fst ++ (s.mem src).par.map Prod.fst
    ++ (s.mem dst).par.map Prod.fst).eraseDups
  forAll keys (fun w s =>
    let (d, bad, s1) := memRead src w s
    if bad then memWritePoisoned dst w d s1
    else if s1.memData dst w = d && !s1.poisoned dst w then s1
    else memWrite dst w 255 d s1) s

/-- The latches of the pixels whose PIX word the commit changes load it (R69, R390). -/
def loadLatches (old s : Chip) : Chip :=
  let keys := ((old.mem 2).data.map Prod.fst ++ (s.mem 2).data.map Prod.fst ++ (old.mem 2).par.map Prod.fst
    ++ (s.mem 2).par.map Prod.fst).eraseDups
  forAll (keys.filter fun w => old.memData 2 w != s.memData 2 w || old.poisoned 2 w != s.poisoned 2 w) loadLatch s

/-- The shadow becomes active (R370): the RWS fields and the RWS tables. -/
def copyShadow (s : Chip) : Chip :=
  let s1 := { s with regs := { s.regs with active := s.regs.shadow }, cmd := { s.cmd with digDirty := true } }
  loadLatches s (copyTable 8 7 (copyTable 5 4 (copyTable 3 2 s1)))

/-- Nothing is pending any more. -/
def clearPending (s : Chip) : Chip :=
  (((({ s with cmd := { s.cmd with target := none } }).setFld F.CMD_PEND_EPOCH_EPOCH 0).setFld F.CMD_PEND_SEC_SEC_LO 0).setFld
    F.CMD_PEND_IDX_INDEX 0)

/-- The pending commit takes effect at its tick (R370): banks, epoch, counters and event. -/
def applyCommit (s : Chip) : Chip :=
  let epoch := s.fld F.CMD_PEND_EPOCH_EPOCH
  let s1 := (clearPending (copyShadow s)).setFld F.CMD_EPOCH_ACTIVE epoch
  raise EV.COMMIT_APPLIED (s1.bump F.CMD_COMMIT_CNT_COUNT)

/-- A COMMIT that no budget refuses (R370): its frame and epoch wait. -/
def pendCommit (epoch target : Nat) (s : Chip) : Chip :=
  ((({ s with cmd := { s.cmd with target := some target } }).setFld F.CMD_PEND_EPOCH_EPOCH epoch).setFld F.CMD_PEND_SEC_SEC_LO
    (frameSec target % 2 ^ 32)).setFld F.CMD_PEND_IDX_INDEX (frameIdx target)

/-- The ledgers refuse a COMMIT (R24). -/
def refuseBudget (epoch ledger : Nat) (s : Chip) : Chip :=
  let s1 := (s.setFld F.TIM_BUDGET_STAT_FAIL_LEDGER ledger).setFld F.TIM_BUDGET_STAT_FAIL_EPOCH (epoch % 65536)
  raise EV.BUDGET_REFUSED (s1.bump F.TIM_BUDGET_REFUSE_COUNT)

/-- COMMIT (R370): status, data, chip. -/
def runCommit (w0 w1 : Nat) (s : Chip) : Nat × List Nat × Chip :=
  let epoch := bits w0 63 32
  let g := s.clk.frame
  let target := nearestFrame (s.now / frameFtu) (bits w1 63 32) (bits w1 31 13)
  if s.cmd.target.isSome then (8, [], s)
  else if epoch ≤ s.fld F.CMD_EPOCH_ACTIVE then (0xA, [], s)
  else if target < g + 2 then (7, [], s)
  else if g + framesPerSec < target then (0xA, [], s)
  else
    match s.asCommitted.failingLedger with
    | some i =>
      let s1 := refuseBudget epoch i s
      (0xC, [65536 * s1.fld F.TIM_BUDGET_STAT_FAIL_EPOCH + s1.fld F.TIM_BUDGET_STAT_FAIL_LEDGER], s1)
    | none => (0, [], pendCommit epoch target s)

/-- DISCARD (R372): a pending commit is cancelled and the shadow takes the active values. -/
def runDiscard (s : Chip) : Chip :=
  let s1 := clearPending s
  let s2 := { s1 with
    regs := { s1.regs with shadow := s1.regs.active }
    cmd := { s1.cmd with digDirty := true, touched := [], tpWrite := false, shadowWritten := true } }
  copyTable 7 8 (copyTable 4 5 (copyTable 2 3 s2))

/-- EPOCH (R373). -/
def Chip.epochWords (s : Chip) : List Nat :=
  [2 ^ 32 * s.fld F.CMD_EPOCH_ACTIVE + s.fld F.CMD_PEND_EPOCH_EPOCH,
   2 ^ 32 * s.fld F.CMD_PEND_SEC_SEC_LO + 8192 * s.fld F.CMD_PEND_IDX_INDEX, s.regValue .side false 0x2000]

/-! ### Network time (R335, R336) -/

/-- TIME_SET and TIME_ADJ are refused while an upstream disciplines the time (R335). -/
def Chip.timeHeld (s : Chip) : Bool := s.flag F.TIM_NET_CFG_DISC_EN && s.upstream.isSome

/-- TIME_SET (R335). -/
def runTimeSet (w0 w1 : Nat) (s : Chip) : Nat × Chip :=
  if s.timeHeld then (0xA, s)
  else (0, { s with clk := { s.clk with pendSteps := s.clk.pendSteps ++ [.setTo (ofTime128 w1 (bits w0 63 32) (bits w0 31 16))] } })

/-- TIME_ADJ (R336): a step at the next tick, or a slew at SLEW_MAX. -/
def runTimeAdj (w0 w1 : Nat) (s : Chip) : Nat × Chip :=
  let d := sext 64 w0
  if s.timeHeld then (0xA, s)
  else if (s.now : Int) + d < 0 then (4, s)
  else if w1 % 2 = 1 then (0, { s with clk := { s.clk with pendSteps := s.clk.pendSteps ++ [.shift d] } })
  else (0, { s with net := { s.net with slew := s.net.slew - 256 * d } })

/-! ### Other opcodes -/

/-- EVT_ACK (R434): a bit raised in the CCLK of its execution stays set (R6). -/
def runEvtAck (w : Nat) (s : Chip) : Nat × Chip :=
  let g := bits w 35 32
  if 11 < g then (0xA, s)
  else
    let st := s.fld (F.EVT_STAT_STAT g)
    let keep := (s.setInCycle (F.EVT_STAT_STAT g).addr).toNat
    (0, s.setFld (F.EVT_STAT_STAT g) (st - (st &&& (bits w 31 0 - (bits w 31 0 &&& keep)))))

/-- DOMAIN_RESET (R419): the named domains enter reset at the next tick. -/
def runDomainReset (w : Nat) (s : Chip) : Nat × Chip :=
  let m := bits w 15 0
  if 1023 < m then (0xA, s) else (0, { s with rst := { s.rst with drstNext := s.rst.drstNext ||| m } })

/-- PAIR_CTL (R400). -/
def runPairCtl (w : Nat) (s : Chip) : Nat × Chip :=
  match bits w 3 0 with
  | 1 =>
    if !s.pair.paired then (0xB, s)
    else if s.standby then (0xA, s)
    else (0, { s with pair := { s.pair with switchNext := true } })
  | 2 => (0, { s with pair := { s.pair with clearNext := true } })
  | _ => (0xA, s)

/-- STORE_CTL (R348) waits for the tick. -/
def runStoreCtl (w : W64) (s : Chip) : Nat × Chip :=
  if bits w.toNat 3 0 = 0 || 4 < bits w.toNat 3 0 then (0xA, s)
  else (0, { s with sto := { s.sto with ctl := s.sto.ctl ++ [w] } })

/-- LANE_CTL (R296). -/
def runLaneCtl (w : W64) (s : Chip) : Nat × Chip := if s.laneCtlRefused w then (0xA, s) else (0, laneCtl w s)

/-- DIAG_WR (R394) runs only with DIAG_EN. -/
def runDiag (w0 w1 : Nat) (s : Chip) : Nat × Chip :=
  if s.flag F.MIN_CTL_DIAG_EN then (0, diagWr w0 w1 s) else (0xA, s)

/-- CAL_START (R204). -/
def runCalStart (w : Nat) (s : Chip) : Chip := if w.testBit 8 then abortRuns (bits w 7 0) s else startRuns (bits w 7 0) s

/-- CAL_APPLY (R222). -/
def runCalApply (w : Nat) (s : Chip) : Nat × Chip :=
  let r := applyRuns (bits w 7 0) s
  if r.1 then (0, r.2) else (0xA, s)

/-- Register values packed two to a data word (R356). -/
def pairUp : List Nat → List Nat
  | [] => []
  | [a] => [a]
  | a :: b :: rest => (a + 2 ^ 32 * b) :: pairUp rest

/-- RD and RDB (R356, R7): POISON where a poisoned word was touched (R359). -/
def runRead (c : Command) (s : Chip) : Nat × List Nat × Chip :=
  let r := readRegs c.sender (c.bank == 1) c.regs s
  (if r.2.1 then 9 else 0, pairUp r.1, r.2.2)

/-- The values a write command writes (R356). -/
def writeValues (c : Command) (s : Chip) : List (Nat × Nat) × Chip :=
  match c.op with
  | 0x21 =>
    let (old, s1) := peekReg c.sender (c.bank == 1) c.addr s
    let mask := bits (c.arg 0) 63 32
    ([(c.addr, (old &&& (2 ^ 32 - 1 - mask)) ||| (bits (c.arg 0) 31 0 &&& mask))], s1)
  | 0x20 => ([(c.addr, bits (c.arg 0) 31 0)], s)
  | _ => (c.regs.zip (c.payload.flatMap fun w => [bits w.toNat 31 0, bits w.toNat 63 32]), s)

/-- WR, WRM and WRB (R356, R364). -/
def runWrite (c : Command) (s : Chip) : Chip :=
  let (ps, s1) := writeValues c s
  let s2 := writeRegs c.sender (c.bank == 1) ps s1
  { s2 with cmd := { s2.cmd with written := s2.cmd.written ++ c.regs.map fun a => (a, c.priv) } }

/-- A command that passed every check of orders 1 to 7: status, data and chip. -/
def runOpcode (c : Command) (s : Chip) : Nat × List Nat × Chip :=
  let plain := fun (r : Nat × Chip) => (r.1, ([] : List Nat), r.2)
  let ok := fun (t : Chip) => (0, ([] : List Nat), t)
  let w := nth 0#64 c.payload
  match c.op with
  | 0x10 => runRead c s
  | 0x11 => runRead c s
  | 0x20 => ok (runWrite c s)
  | 0x21 => ok (runWrite c s)
  | 0x22 => ok (runWrite c s)
  | 0x30 => runCommit (c.arg 0) (c.arg 1) s
  | 0x31 => ok (runDiscard s)
  | 0x32 => let t := refreshDigests s; (0, t.cmd.digests.map (·.toNat), t)
  | 0x33 => (0, s.epochWords, s)
  | 0x40 => ok (armIn (w 0) s)
  | 0x41 => ok (fireIn true (w 0) (w 1) (w 2) s.now s)
  | 0x42 => ok (forceIn (w 0) s)
  | 0x50 => ok (runCalStart (c.arg 0) s)
  | 0x51 => plain (runCalApply (c.arg 0) s)
  | 0x60 => plain (runTimeSet (c.arg 0) (c.arg 1) s)
  | 0x61 => plain (runTimeAdj (c.arg 0) (c.arg 1) s)
  | 0x70 => plain (runStoreCtl (w 0) s)
  | 0x80 => plain (runPairCtl (c.arg 0) s)
  | 0x90 => plain (runEvtAck (c.arg 0) s)
  | 0xA0 => plain (runProt c.payload s)
  | 0xB0 => plain (runDomainReset (c.arg 0) s)
  | 0xC0 => plain (runLaneCtl (w 0) s)
  | 0xD0 => plain (runDiag (c.arg 0) (c.arg 1) s)
  | _ => ok s

/-! ### Statuses (R358, R359, R361, R365) -/

/-- A status: its words from the status word to the CRC word (R358). Data go only with OK, POISON and OVER_BUDGET. -/
def Chip.statusWords (s : Chip) (c : Command) (code : Nat) (data : List Nat) : List W64 :=
  let d := if code = 0 || code = 9 || code = 0xC then data else []
  let w0 := place 8 56 c.op ||| place 8 48 c.tag ||| place 5 43 s.addr ||| place 8 24 code ||| c.addr
  let ws := [w64 w0, w64 (frameWord s.frameNow ||| d.length)] ++ d.map w64
  ws ++ [w64 (crcOf ws)]

/-- A status is offered to the ring, or joins the side-port queue (R358). -/
def sendStatus (x : Sender) (ws : List W64) (s : Chip) : Chip :=
  match x with
  | .side => { s with cmd := { s.cmd with sideQ := s.cmd.sideQ ++ [ws] } }
  | .ring _ =>
    sendWait { ptype := 0x02#8, cls := 1#2, dest := 0#5, owner := .status, idx := 0, words := ws, last := true,
               bad := false, refused := false, held := 0 } s

/-- What a status other than OK does (R359, R370, R378). -/
def noteReject (c : Command) (code : Nat) (s : Chip) : Chip :=
  let s1 := ((((s.bump F.CMD_REJECT_CNT_COUNT).setFld F.CMD_LAST_ERR_STATUS code).setFld F.CMD_LAST_ERR_OPCODE c.op).setFld
    F.CMD_LAST_ERR_TAG c.tag).setFld F.CMD_LAST_ERR_PORT (s.senderRank c.sender)
  let s2 := match code with
    | 1 => raise EV.CMD_DENIED (s1.bump F.CMD_DENIED_CNT_COUNT)
    | 5 => raise EV.CMD_CRC (s1.bump F.CMD_CRC_CNT_COUNT)
    | 6 => raise EV.CMD_COLLIDE (s1.bump F.CMD_COLLIDE_CNT_COUNT)
    | _ => s1
  if c.op = 0x30 && (code = 7 || code = 8 || code = 0xA) then raise EV.COMMIT_REFUSED s2 else s2

/-- A kept answer of the last 16 executed ring commands (R365), not older than 64 frames. -/
def Chip.kept? (s : Chip) (c : Command) : Option Kept :=
  if c.fromSide then none
  else s.cmd.kept.find? fun k => k.tag == c.tag && k.crc == c.crcWord && decide (s.clk.ticks < k.frame + 64)

/-- The kept status with REPEAT = 1 and its own CRC word (R365). -/
def repeatWords (ws : List W64) : List W64 :=
  let body := match ws.dropLast with
    | [] => []
    | w :: rest => (w ||| w64 (2 ^ 37)) :: rest
  body ++ [w64 (crcOf body)]

/-- Keeps the answer of an executed ring command (R365). -/
def keepStatus (c : Command) (ws : List W64) (s : Chip) : Chip :=
  if c.fromSide then s
  else
    let l := s.cmd.kept ++ [{ tag := c.tag, crc := c.crcWord, status := ws, frame := s.clk.ticks }]
    { s with cmd := { s.cmd with kept := l.drop (l.length - 16) } }

/-- A command and its answer (R357 to R359, R363, R365). -/
def runCommand (c : Command) (s : Chip) : Chip :=
  match s.kept? c with
  | some k => sendStatus c.sender (repeatWords k.status) (s.bump F.CMD_REPEAT_CNT_COUNT)
  | none =>
    let chk := s.checkCommand c
    let s0 := if chk = 8 && c.excess then raise EV.CMD_OVF (s.bump F.CMD_OVF_CNT_COUNT) else s
    let r := if chk = 0 then runOpcode c s0 else (chk, [], s0)
    let ws := s.statusWords c r.1 r.2.1
    let s1 := if r.1 = 0 then r.2.2.bump F.CMD_EXEC_CNT_COUNT else noteReject c r.1 r.2.2
    let s2 := if c.excess || r.1 = 5 then s1 else keepStatus c ws s1
    sendStatus c.sender ws s2

/-! ### Batches (R363, R364) -/

/-- Order within a batch: privilege, then port, then arrival. -/
def Chip.commandBefore (s : Chip) (a b : Command) : Bool :=
  decide (a.priv < b.priv) || (a.priv == b.priv && decide (s.senderRank a.sender < s.senderRank b.sender))

/-- Inserts a command behind all that go before it or arrived before it. -/
def insertCommand (s : Chip) (c : Command) : List Command → List Command
  | [] => [c]
  | x :: xs => if s.commandBefore c x then c :: x :: xs else x :: insertCommand s c xs

/-- The order in which the accepted commands of a batch are applied (R364). -/
def Chip.batchOrder (s : Chip) (l : List Command) : List Command := l.foldl (fun acc c => insertCommand s c acc) []

/-- The batch of the frame that has just ended (R363): commands over the limit answer BUSY, then the others run in order, each in a
CCLK of its own after the tick (R6; DESIGN CHOICE, notes/assumptions/50). -/
def runBatch (s : Chip) : Chip :=
  let b := s.cmd.batch
  let kept := s.cmd.kept.filter fun k => decide (s.clk.ticks < k.frame + 64)
  let s1 := { s with cmd := { s.cmd with batch := [], written := [], kept := kept } }
  let run := fun (c : Command) (s : Chip) => runCommand c (newCycle s)
  let s2 := forAll (b.filter Command.excess) run s1
  forAll (s1.batchOrder (b.filter fun c => !c.excess)) run s2

/-! ### The side port (R360 to R362) -/

/-- Bytes of a transaction packed into words (R4); a last incomplete word is dropped. -/
def sideWords (bs : List Byte) : List W64 := packBytes ((bs.take (bs.length / 8 * 8)).map BitVec.toNat)

/-- The side port is open (R417). -/
def Chip.sideOpen (s : Chip) : Bool := s.up && s.rst.calDone && s.rst.memDone

/-- Places taken in the side-port queue (R361). -/
def Chip.sidePlaces (s : Chip) : Nat := s.cmd.sideQ.length + s.cmd.batch.countP Command.fromSide

/-- SIDE_PORT_COMMAND (R360 to R363): a transaction with selecting byte 0x5C closes; `bs` are the bytes after that byte. -/
def sideCommand (bs : List Byte) (s : Chip) : Chip :=
  let ovf := fun (s : Chip) => s.bump F.CMD_SIDE_OVF_COUNT
  let ws := sideWords bs
  let c : Command := { sender := .side, words := ws, excess := false }
  let right := decide (8 ≤ bs.length) && bs.length == 8 * (c.plen + 2)
  if !s.sideOpen then s
  else if 16 ≤ s.sidePlaces then ovf s
  else if !right then
    if bs.length < 8 then ovf s
    else
      let s1 := noteReject c 4 (ovf s)
      sendStatus .side (s.statusWords c 4 []) s1
  else if s.clk.counting then joinBatch .side ws s
  else let s1 := runCommand c s; { s1 with cmd := { s1.cmd with written := [] } }

/-- SIDE_PORT_STATUS_FETCH (R360): a transaction with selecting byte 0x5A and `n` bytes after it closes. The status leaves the
queue when its last byte was clocked. -/
def sideFetch (n : Nat) (s : Chip) : Chip :=
  if !s.sideOpen then s
  else match s.cmd.sideQ with
    | [] => s
    | ws :: rest => if 1 + 8 * ws.length ≤ n then { s with cmd := { s.cmd with sideQ := rest } } else s

/-- The bytes that MMISO carries in a transaction of a selecting byte and `n` bytes after it (R360): high impedance until the side port is
open; the queued status in a fetch, after its flag; 0 in everything else. -/
def Chip.mmiso (s : Chip) (first : Byte) (n : Nat) : Option (List Nat) :=
  if !s.sideOpen then none
  else
    let status := match first == 0x5A#8, s.cmd.sideQ with
      | true, ws :: _ => 0xA5 :: ws.flatMap wordBytes
      | _, _ => []
    some ((0 :: status ++ List.replicate n 0).take (n + 1))

/-- SIDE_PORT_UNKNOWN (R360). The bytes 0x5C and 0x5A are no unknown values. -/
def sideUnknown (first : Byte) (s : Chip) : Chip :=
  if !s.sideOpen || first = 0x5C#8 || first = 0x5A#8 then s else s.bump F.CMD_SIDE_OVF_COUNT

end Sys2Proof.Machine
end

