-- ==== Sys2Proof/Machine/Operands.lean ====
section
/-! DEFINITION. The operands of the command rows: each operand form of the table laid out as the words of its command (R354, R355,
R356). -/

namespace Sys2Proof.Machine

/-- The words of a command from its header fields, opcode, address and payload (R354, R355). -/
def cmdWords (h : CmdHead) (op addr : Nat) (payload : List W64) : List W64 :=
  let w := w64 (place 8 56 op ||| place 8 48 h.tag.toNat ||| place 5 43 h.src.toNat ||| place 5 38 h.dest.toNat
    ||| place 2 36 h.priv.toNat ||| place 2 34 h.bank.toNat ||| place 10 24 payload.length ||| place 24 0 addr)
  let body := w :: payload ++ (if h.lenOk then [] else [0#64])
  body ++ [w64 (if h.crcOk then crcOf body else crcOf body ^^^ 1)]

/-- A command as received. -/
def cmdOf (h : CmdHead) (op addr : Nat) (payload : List W64) : Command :=
  { sender := h.sender, words := cmdWords h op addr payload, excess := false }

/-- WR (R356). -/
def writeOf (h : CmdHead) (addr v : Nat) : Command := cmdOf h 0x20 addr [w64 (v % 2 ^ 32)]

/-- WR, for the row that names registers without a behaviour of their own. -/
def plainWriteOf (h : CmdHead) (addr v : Nat) : Command := writeOf h addr v

/-- RD of a lower address. -/
def lowReadOf (h : CmdHead) (addr : Nat) : Command := cmdOf h 0x10 addr []

/-- STORE_CTL (R348). -/
def storeCtlOf (h : CmdHead) (action first last : Nat) : Command :=
  cmdOf h 0x70 0 [w64 (place 18 44 last ||| place 18 24 first ||| action)]

/-- LANE_CTL (R296). -/
def laneCtlOf (h : CmdHead) (arg : Nat) : Command := cmdOf h 0xC0 0 [w64 arg]

end Sys2Proof.Machine
end

