-- ==== Sys2Proof/Machine/Rows.lean ====
section
/-! DEFINITION. The commands of the command engine as rows of the table: each builds the words of its command
(Operands.lean) and executes it, in the frame in progress, by the one path of Command.lean. -/

namespace Sys2Proof.Machine

/-- A row's command is executed in the frame in progress, where the device can take commands: ring commands once it is ready,
side-port commands once the side port is open (R417). Before lock each command stands alone (R362); afterwards the rows of
a frame count as one batch with what LOCAL_FRAME_TICK ran (R364). -/
def runRow (c : Command) (s : Chip) : Chip :=
  if !(if c.fromSide then s.sideOpen else s.running) then s
  else
    let s1 := runCommand c s
    if s1.clk.counting then s1 else { s1 with cmd := { s1.cmd with written := [] } }

/-! ### The commands -/

/-- NOP (R356). -/
def execNop (h : CmdHead) (s : State) : Host.Outcome State Fault Refusal :=
  .next { s with chip := runRow (cmdOf h 0x00 0 []) s.chip }

/-- RD (R356, R7). -/
def execRd (h : CmdHead) (addr : BitVec 24) (s : State) : Host.Outcome State Fault Refusal :=
  .next { s with chip := runRow (cmdOf h 0x10 addr.toNat []) s.chip }

/-- RDB (R356, R7). -/
def execRdb (h : CmdHead) (addr : BitVec 24) (w0 : W64) (s : State) : Host.Outcome State Fault Refusal :=
  .next { s with chip := runRow (cmdOf h 0x11 addr.toNat [w0]) s.chip }

/-- WR (R356). -/
def execWr (h : CmdHead) (addr : BitVec 24) (data : W32) (s : State) : Host.Outcome State Fault Refusal :=
  .next { s with chip := runRow (writeOf h addr.toNat data.toNat) s.chip }

/-- WRM (R356). -/
def execWrm (h : CmdHead) (addr : BitVec 24) (mask data : W32) (s : State) : Host.Outcome State Fault Refusal :=
  .next { s with chip := runRow (cmdOf h 0x21 addr.toNat [mask ++ data]) s.chip }

/-- WRB (R356). -/
def execWrb (h : CmdHead) (addr : BitVec 24) (ws : List W64) (s : State) : Host.Outcome State Fault Refusal :=
  .next { s with chip := runRow (cmdOf h 0x22 addr.toNat ws) s.chip }

/-- COMMIT (R370). -/
def execCommit (h : CmdHead) (w0 w1 : W64) (s : State) : Host.Outcome State Fault Refusal :=
  .next { s with chip := runRow (cmdOf h 0x30 0 [w0, w1]) s.chip }

/-- DISCARD (R372). -/
def execDiscard (h : CmdHead) (s : State) : Host.Outcome State Fault Refusal :=
  .next { s with chip := runRow (cmdOf h 0x31 0 []) s.chip }

/-- DIGEST (R375). -/
def execDigest (h : CmdHead) (s : State) : Host.Outcome State Fault Refusal :=
  .next { s with chip := runRow (cmdOf h 0x32 0 []) s.chip }

/-- EPOCH (R373). -/
def execEpoch (h : CmdHead) (s : State) : Host.Outcome State Fault Refusal :=
  .next { s with chip := runRow (cmdOf h 0x33 0 []) s.chip }

/-- ARM (R115). -/
def execArm (h : CmdHead) (w0 : W64) (s : State) : Host.Outcome State Fault Refusal :=
  .next { s with chip := runRow (cmdOf h 0x40 0 [w0]) s.chip }

/-- FIRE (R107). -/
def execFire (h : CmdHead) (w0 w1 w2 : W64) (s : State) : Host.Outcome State Fault Refusal :=
  .next { s with chip := runRow (cmdOf h 0x41 0 [w0, w1, w2]) s.chip }

/-- FORCE (R116). -/
def execForce (h : CmdHead) (w0 : W64) (s : State) : Host.Outcome State Fault Refusal :=
  .next { s with chip := runRow (cmdOf h 0x42 0 [w0]) s.chip }

/-- CAL_START with bit 8 at 0 (R204). -/
def execCalStart (h : CmdHead) (mask : Fin 256) (s : State) : Host.Outcome State Fault Refusal :=
  .next { s with chip := runRow (cmdOf h 0x50 0 [w64 mask.val]) s.chip }

/-- CAL_START with bit 8 at 1 (R204). -/
def execCalAbort (h : CmdHead) (mask : Fin 256) (s : State) : Host.Outcome State Fault Refusal :=
  .next { s with chip := runRow (cmdOf h 0x50 0 [w64 (256 + mask.val)]) s.chip }

/-- CAL_APPLY (R222). -/
def execCalApply (h : CmdHead) (w0 : W64) (s : State) : Host.Outcome State Fault Refusal :=
  .next { s with chip := runRow (cmdOf h 0x51 0 [w0]) s.chip }

/-- TIME_SET (R335). -/
def execTimeSet (h : CmdHead) (w0 w1 : W64) (s : State) : Host.Outcome State Fault Refusal :=
  .next { s with chip := runRow (cmdOf h 0x60 0 [w0, w1]) s.chip }

/-- TIME_ADJ with MODE 1 (R336). -/
def execTimeAdjStep (h : CmdHead) (w0 w1 : W64) (s : State) : Host.Outcome State Fault Refusal :=
  .next { s with chip := runRow (cmdOf h 0x61 0 [w0, w1 ||| 1#64]) s.chip }

/-- TIME_ADJ with MODE 0 (R336). -/
def execTimeAdjSlew (h : CmdHead) (w0 w1 : W64) (s : State) : Host.Outcome State Fault Refusal :=
  .next { s with chip := runRow (cmdOf h 0x61 0 [w0, w1 &&& ~~~(1#64)]) s.chip }

/-- STORE_CTL LOCK (R348). -/
def execStoreCtlLock (h : CmdHead) (first last : Fin 262144) (s : State) : Host.Outcome State Fault Refusal :=
  .next { s with chip := runRow (storeCtlOf h 1 first.val last.val) s.chip }

/-- STORE_CTL UNLOCK (R348). -/
def execStoreCtlUnlock (h : CmdHead) (first last : Fin 262144) (s : State) : Host.Outcome State Fault Refusal :=
  .next { s with chip := runRow (storeCtlOf h 2 first.val last.val) s.chip }

/-- STORE_CTL FREE (R348). -/
def execStoreCtlFree (h : CmdHead) (first last : Fin 262144) (s : State) : Host.Outcome State Fault Refusal :=
  .next { s with chip := runRow (storeCtlOf h 3 first.val last.val) s.chip }

/-- STORE_CTL RESYNC (R348). -/
def execStoreCtlResync (h : CmdHead) (first last : Fin 262144) (s : State) : Host.Outcome State Fault Refusal :=
  .next { s with chip := runRow (storeCtlOf h 4 first.val last.val) s.chip }

/-- A write of STO_NEXT (R353). -/
def execStoNextWrite (h : CmdHead) (extent : Fin 262144) (s : State) : Host.Outcome State Fault Refusal :=
  .next { s with chip := runRow (writeOf h 0x9008 extent.val) s.chip }

/-- A write through STO_TBL_WIN (R353). -/
def execStoTblWinWrite (h : CmdHead) (k : Fin 512) (data : W32) (s : State) : Host.Outcome State Fault Refusal :=
  .next { s with chip := runRow (writeOf h (0x9800 + 4 * k.val) data.toNat) s.chip }

/-- PROT_WR (R368). -/
def execProtWr (h : CmdHead) (ws : List W64) (s : State) : Host.Outcome State Fault Refusal :=
  .next { s with chip := runRow (cmdOf h 0xA0 0 ws) s.chip }

/-- EVT_ACK (R434). -/
def execEvtAck (h : CmdHead) (w0 : W64) (s : State) : Host.Outcome State Fault Refusal :=
  .next { s with chip := runRow (cmdOf h 0x90 0 [w0]) s.chip }

/-- DOMAIN_RESET (R419). -/
def execDomainReset (h : CmdHead) (w0 : W64) (s : State) : Host.Outcome State Fault Refusal :=
  .next { s with chip := runRow (cmdOf h 0xB0 0 [w0]) s.chip }

/-- DIAG_WR FLIP (R394). -/
def execDiagWrFlip (h : CmdHead) (w0 w1 : W64) (s : State) : Host.Outcome State Fault Refusal :=
  .next { s with chip := runRow (cmdOf h 0xD0 0 [(w0 &&& ~~~(0xFF#64)) ||| 1#64, w1]) s.chip }

/-- DIAG_WR POISON (R394). -/
def execDiagWrPoison (h : CmdHead) (w0 w1 : W64) (s : State) : Host.Outcome State Fault Refusal :=
  .next { s with chip := runRow (cmdOf h 0xD0 0 [(w0 &&& ~~~(0xFF#64)) ||| 2#64, w1]) s.chip }

/-- DIAG_WR CHECK (R394). -/
def execDiagWrCheck (h : CmdHead) (w0 w1 : W64) (s : State) : Host.Outcome State Fault Refusal :=
  .next { s with chip := runRow (cmdOf h 0xD0 0 [(w0 &&& ~~~(0xFF#64)) ||| 3#64, w1]) s.chip }

/-- PAIR_CTL SWITCH (R400, R407). -/
def execSwitch (h : CmdHead) (w0 : W64) (s : State) : Host.Outcome State Fault Refusal :=
  .next { s with chip := runRow (cmdOf h 0x80 0 [(w0 &&& ~~~(0xF#64)) ||| 1#64]) s.chip }

/-- PAIR_CTL CLEAR (R400). -/
def execClear (h : CmdHead) (w0 : W64) (s : State) : Host.Outcome State Fault Refusal :=
  .next { s with chip := runRow (cmdOf h 0x80 0 [(w0 &&& ~~~(0xF#64)) ||| 2#64]) s.chip }

/-- LANE_CTL JOIN (R292, R296). -/
def execJoin (h : CmdHead) (s : State) : Host.Outcome State Fault Refusal :=
  .next { s with chip := runRow (laneCtlOf h 1) s.chip }

/-- LANE_CTL LEAVE (R292, R296). -/
def execLeave (h : CmdHead) (s : State) : Host.Outcome State Fault Refusal :=
  .next { s with chip := runRow (laneCtlOf h 2) s.chip }

/-- LANE_CTL RETRAIN (R284, R296). -/
def execRetrain (h : CmdHead) (ports : Fin 4) (rate : Bool) (s : State) : Host.Outcome State Fault Refusal :=
  .next { s with chip := runRow (laneCtlOf h (3 + 16 * ports.val + 65536 * b2n rate)) s.chip }

/-- LANE_CTL MODE (R288, R296). -/
def execLaneCtlMode (h : CmdHead) (ports mode : Fin 4) (s : State) : Host.Outcome State Fault Refusal :=
  .next { s with chip := runRow (laneCtlOf h (4 + 16 * ports.val + 256 * mode.val)) s.chip }

/-- LANE_CTL LOOP (R289, R296). -/
def execLaneCtlLoop (h : CmdHead) (ports code : Fin 4) (s : State) : Host.Outcome State Fault Refusal :=
  .next { s with chip := runRow (laneCtlOf h (5 + 16 * ports.val + 4096 * code.val)) s.chip }

/-- LANE_CTL PRBS (R290, R296). -/
def execLaneCtlPrbs (h : CmdHead) (ports : Fin 4) (on : Bool) (s : State) : Host.Outcome State Fault Refusal :=
  .next { s with chip := runRow (laneCtlOf h (6 + 16 * ports.val + 131072 * b2n on)) s.chip }

/-- A write of XDC_URG_REQ (R166). -/
def execXdcUrgReq (h : CmdHead) (req : Fin 16) (s : State) : Host.Outcome State Fault Refusal :=
  .next { s with chip := runRow (writeOf h 0x48020 req.val) s.chip }

/-- A write of LOOP_SAFE_LATCH (R246). -/
def execLoopSafeLatchWrite (h : CmdHead) (latch : Fin 65536) (s : State) : Host.Outcome State Fault Refusal :=
  .next { s with chip := runRow (writeOf h 0x80008 latch.val) s.chip }

/-- A write of the FORCE bits of LOOP_CTL (R245): the pins follow at once. -/
def execLoopCtlForce (h : CmdHead) (forceA forceB : Bool) (s : State) : Host.Outcome State Fault Refusal :=
  .next { s with chip := runRow (writeOf h 0x80000 (b2n forceA + 2 * b2n forceB)) s.chip }

/-- A W1C write to EVT_Gg_STAT (R434). -/
def execEvtStatClear (h : CmdHead) (g : Fin 12) (mask : W32) (s : State) : Host.Outcome State Fault Refusal :=
  .next { s with chip := runRow (writeOf h (0x3100 + 16 * g.val) mask.toNat) s.chip }

/-- A write to a register with no behaviour of its own (R5). -/
def execRegisterWrite (h : CmdHead) (addr : BitVec 24) (data : W32) (s : State) : Host.Outcome State Fault Refusal :=
  .next { s with chip := runRow (plainWriteOf h addr.toNat data.toNat) s.chip }

/-- A read of the lower address of a 64-bit quantity (R10). -/
def execLowWordRead (h : CmdHead) (addr : BitVec 24) (s : State) : Host.Outcome State Fault Refusal :=
  .next { s with chip := runRow (lowReadOf h addr.toNat) s.chip }

/-- A read of TIM_FRAME_IDX (R41). -/
def execTimFrameIdxRead (h : CmdHead) (s : State) : Host.Outcome State Fault Refusal :=
  .next { s with chip := runRow (cmdOf h 0x10 0x1008 []) s.chip }

/-- A read of HIT_FE_STUCK_CNT (R71). -/
def execStuckCntRead (h : CmdHead) (s : State) : Host.Outcome State Fault Refusal :=
  .next { s with chip := runRow (cmdOf h 0x10 0x30024 []) s.chip }

/-- A read of MIN_LOG_LO (R392). -/
def execMinLogRead (h : CmdHead) (s : State) : Host.Outcome State Fault Refusal :=
  .next { s with chip := runRow (cmdOf h 0x10 0x8040 []) s.chip }

/-- SIDE_PORT_COMMAND (R360). -/
def execSidePortCommand (bytes : List Byte) (s : State) : Host.Outcome State Fault Refusal :=
  .next { s with chip := sideCommand bytes s.chip }

/-- SIDE_PORT_STATUS_FETCH (R360). -/
def execSidePortStatusFetch (bytes : Nat) (s : State) : Host.Outcome State Fault Refusal :=
  .next { s with chip := sideFetch bytes s.chip }

/-- SIDE_PORT_UNKNOWN (R360). -/
def execSidePortUnknown (first : Byte) (s : State) : Host.Outcome State Fault Refusal :=
  .next { s with chip := sideUnknown first s.chip }

end Sys2Proof.Machine
end

