-- ==== Sys2Proof/Machine/TimeRows.lean ====
section
/-! DEFINITION. The time reference and the time PLL (R36 to R40), the temperature sensor (R428), and EVENT packets (R432). -/

namespace Sys2Proof.Machine

/-! ### TREF and the time PLL -/

/-- The count of presence as it starts (R39): the tick that ends a frame which began without TREF counts none. -/
def Chip.presentNow (s : Chip) : Nat := if s.clk.cclk = 0 then 1 else 0

/-- The frame that held an instant some CCLK ago, at most one frame back (R36). -/
def Chip.frameAgo (s : Chip) (ago : Nat) : Nat :=
  if !s.clk.counting then 0 else if ago ≤ s.clk.cclk then s.clk.frame else s.clk.lastFrame

/-- The results of a loss frame that XHIST already holds get TUNC too (R38): bit 8 of FLAGS in word 1 of an entry (R172, R173, R195); and so
does an open set of statistics with such a result. -/
def markResults (f : Nat) (s0 : Chip) : Chip :=
  let s := { s0 with tips := s0.tips.map fun (e : Nat × TipCh) =>
    (e.1, { e.2 with setTunc := e.2.setTunc || (e.2.setN != 0 && e.2.setLast == f) }) }
  forAll ((s.region 6).objs.filter fun (o : Obj) => o.tag == f) (fun o s =>
    match o.segs with
    | (a, _) :: _ => let w := s.regionWord 6 (a + 1); memWrite 0 w 255 (s.memData 0 w ||| 2 ^ 24) s
    | [] => s) s

/-- TREF_P/N is terminated by 100 Ω (R13, R41). -/
def Chip.trefTerminated (s : Chip) : Bool := s.flag F.TIM_CTL_TREF_TERM

/-- The time PLL loses its reference (R36, R38, R40): holdover, with `f` as the loss frame. While an earlier loss is not restored its
span goes on. -/
def loseTref (f : Nat) (s : Chip) : Chip :=
  let s1 := ((s.setFlag F.TIM_STAT_TREF_PRESENT false).setFlag F.TIM_STAT_TPLL_LOCK false).setFlag F.TIM_STAT_HOLDOVER true
  let s2 := (((s1.setFld F.TIM_HOLD_FRAMES_FRAMES 0).setFld F.TIM_LOSS_IDX_INDEX (frameIdx f)).setFld F.TIM_LOSS_SEC_SEC
    (frameSec f % 2 ^ 32)).bump F.TIM_TREF_LOSS_COUNT
  let s3 := { s2 with clk := { s2.clk with
    presentFrames := 0, tuncs := if s.tuncOpen then s.clk.tuncs else (f, none) :: s.clk.tuncs.take 3 } }
  markResults f (raise EV.TREF_LOST s3)

/-- The time base is out of reset (R414). -/
def Chip.timeUp (s : Chip) : Bool := !(s.rst.porst || s.rst.supply)

/-- TREF_LOST (R36): declared `ago` CCLK after the last good edge of TREF, before the first lock as after it. -/
def trefLost (ago : Nat) (s : Chip) : Chip :=
  if s.timeUp && s.flag F.TIM_STAT_TREF_PRESENT then loseTref (s.frameAgo ago) s else s

/-- TPLL_UNLOCK (R40): TREF is present; the condition counts as a loss of TREF in the current frame. -/
def tpllUnlock (s : Chip) : Chip :=
  if s.timeUp && s.flag F.TIM_STAT_TPLL_LOCK then loseTref s.frameNow (raise EV.TPLL_UNLOCK s) else s

/-- TREF_PRESENT (R39): edges return, and the frames of presence count from here. -/
def trefPresent (s : Chip) : Chip :=
  if s.rst.porst || s.rst.supply || s.flag F.TIM_STAT_TREF_PRESENT then s
  else ({ s with clk := { s.clk with presentFrames := s.presentNow } }).setFlag F.TIM_STAT_TREF_PRESENT true

/-- The span of the last loss ends (R39): its last frame is the one in progress. -/
def Clk.endTunc (c : Clk) (f : Nat) : List (Nat × Option Nat) :=
  match c.tuncs with
  | (a, none) :: rest => (a, some f) :: rest
  | l => l

/-- TREF_RESTORED (R39): TREF was present for TIM_RELOCK.FRAMES frames, and then the phase error below 1 FTU for 64. -/
def trefRestored (s : Chip) : Chip :=
  if s.timeUp && s.clk.everLock && s.flag F.TIM_STAT_TREF_PRESENT && s.flag F.TIM_STAT_HOLDOVER
      && decide (max 64 (s.fld F.TIM_RELOCK_FRAMES) + 64 < s.clk.presentFrames) then
    let s1 := (s.setFlag F.TIM_STAT_TPLL_LOCK true).setFlag F.TIM_STAT_HOLDOVER false
    raise EV.TREF_RESTORED { s1 with clk := { s1.clk with tuncs := s1.clk.endTunc s.clk.frame } }
  else s

/-- TPLL_LOCK (R40): the first lock after PORST_N, which needs edges of TREF; it may complete readiness (R417). After a loss that was
declared before it, it is the relock of R39 as well. -/
def tpllLock (us : Nat) (s : Chip) : Chip :=
  if s.rst.porst || s.rst.supply || s.clk.everLock then s
  else
    let s1 := (s.setFlag F.TIM_STAT_TPLL_LOCK true).setFlag F.TIM_STAT_TREF_PRESENT true
    let s2 := { s1 with clk := { s1.clk with everLock := true, tuncs := s1.clk.endTunc s.frameNow } }
    becomeReady us (if s.flag F.TIM_STAT_HOLDOVER then raise EV.TREF_RESTORED (s2.setFlag F.TIM_STAT_HOLDOVER false) else s2)

/-- A tick counts the frames in holdover (R41) and the frames of presence toward relock (R39). -/
def tickTref (s : Chip) : Chip :=
  if !s.flag F.TIM_STAT_HOLDOVER then s
  else
    let s1 := s.bump F.TIM_HOLD_FRAMES_FRAMES
    if s.flag F.TIM_STAT_TREF_PRESENT then { s1 with clk := { s1.clk with presentFrames := s1.clk.presentFrames + 1 } } else s1

/-! ### The temperature sensor and recoat idle -/

/-- GLB_TEMP_UPDATE (R428): a reading in 0.25 °C. -/
def tempUpdate (temp : Int) (s : Chip) : Chip :=
  if !s.running then s
  else
    let t := max (-32768) (min 32767 temp)
    let s1 := (s.setFld F.GLB_TEMP_TEMP (unsext 16 t)).setFlag F.GLB_TEMP_VALID true
    let high := sext 16 (s.fld F.GLB_TEMP_LIM_HIGH)
    if s.rst.therm then
      (if high ≤ t then raise EV.THERM_HIGH { s1 with rst := { s1.rst with therm := false } } else s1)
    else if t < high - (s.fld F.GLB_TEMP_LIM_HYST : Nat) then { s1 with rst := { s1.rst with therm := true } }
    else s1

/-- Recoat idle may be in force (R427): the Lawn, the Folly, the converters and the engines are off. -/
def Chip.idleAllowed (s : Chip) : Bool :=
  !s.flag F.HIT_FE_CTL_LAWN_EN && s.fld F.HIT_FOLLY_CTL_MODE == 0 && s.fld F.WAV_CTL_MODE == 0
    && s.fld F.XDC_SEQ_CTL_PROFILE == 0 && !s.flag F.TRG_CTL_EN && !s.flag F.CMP_CTL_EN && !s.flag F.LOOP_CTL_EN
    && !s.flag F.CAL_CTL_EN && (List.range 4).all fun k => !s.flag (F.TIP_CH_CTL_EN k)

/-- RECOAT_IDLE_ENTRY (R427) for the frame that a tick starts. -/
def tickIdle (s : Chip) : Chip :=
  let asked := s.flag F.GLB_PWR_IDLE
  let bad := asked && !s.idleAllowed
  let s1 := (s.setFlag F.GLB_STAT_IDLE (asked && s.idleAllowed)).setFlag F.GLB_STAT_PWR_ERR bad
  if bad && !s.flag F.GLB_STAT_PWR_ERR then raise EV.PWR_CFG_ERR s1 else s1

/-! ### EVENT packets (R432) -/

/-- A packet of a group already waits for admission. -/
def Chip.eventWaits (s : Chip) (g : Nat) : Bool :=
  [Port.east, Port.west].any fun p => (s.port p).wait1.any fun o => o.owner == .event g

/-- EVENT_PACKET (R432): at a tick with raisings waiting, HOLDOFF frames after the group's last EVENT was admitted. -/
def eventPacket (g : Nat) (s : Chip) : Chip :=
  let e := nth ⟨0, 0, 0, none⟩ s.evtG g
  let due := match e.since with | some n => decide (max 1 (s.fld F.EVT_CTL_HOLDOFF) ≤ n) | none => true
  if s.running && s.clk.counting && s.clk.cclk == 0 && e.count != 0 && due && !s.eventWaits g then
    sendWait
      { ptype := 0x03#8, cls := 1#2, dest := 0#5, owner := .event g, idx := g, words := [0#64, 0#64, 0#64], last := true,
        bad := false, refused := false, held := 0 } s
  else s

/-- A tick counts the frames since each group's last EVENT. -/
def tickEvents (s : Chip) : Chip :=
  { s with evtG := s.evtG.map fun (e : EvtGroup) => { e with since := e.since.map (· + 1) } }

/-! ### The commands -/

/-- TREF_LOST (R36). -/
def execTrefLost (s : State) (ago : Fin 40 := 0) : Host.Outcome State Fault Refusal := .next { s with chip := trefLost ago s.chip }

/-- TREF_RESTORED (R39). -/
def execTrefRestored (s : State) : Host.Outcome State Fault Refusal := .next { s with chip := trefRestored s.chip }

/-- TPLL_UNLOCK (R40). -/
def execTpllUnlock (s : State) : Host.Outcome State Fault Refusal := .next { s with chip := tpllUnlock s.chip }

/-- TREF_PRESENT (R39). -/
def execTrefPresent (s : State) : Host.Outcome State Fault Refusal := .next { s with chip := trefPresent s.chip }

/-- TPLL_LOCK (R40). -/
def execTpllLock (us : Nat) (s : State) : Host.Outcome State Fault Refusal := .next { s with chip := tpllLock us s.chip }

/-- GLB_TEMP_UPDATE (R428). -/
def execGlbTempUpdate (temp : Int) (s : State) : Host.Outcome State Fault Refusal :=
  .next { s with chip := tempUpdate temp s.chip }

/-- EVENT_PACKET (R432). -/
def execEventPacket (g : Fin 12) (s : State) : Host.Outcome State Fault Refusal := .next { s with chip := eventPacket g s.chip }

end Sys2Proof.Machine
end

