-- ==== Sys2Proof/Machine/Tick.lean ====
section
/-! DEFINITION. LOCAL_FRAME_TICK (R17): what the CCLK edge between two frames does, in the order of the model. -/

namespace Sys2Proof.Machine

/-- The banks age (R26): the settings of the frame that ended become those of the frame before the current one. -/
def ageBanks (s : Chip) : Chip :=
  { s with
    regs := { s.regs with old2 := s.regs.old1, old1 := s.regs.active }
    tabs := { cal2 := s.tabs.cal1, cal1 := (s.mem 4).data, lin2 := s.tabs.lin1, lin1 := (s.mem 7).data } }

/-- The regions whose base or size a commit changed are emptied (R94). -/
def moveRegions (old s : Chip) : Chip :=
  forN 10 (fun n s =>
    if old.fld (regionBaseF n) = s.fld (regionBaseF n) && old.fld (regionSizeF n) = s.fld (regionSizeF n) then s
    else dropRegion n s) s

/-- The units follow a commit (R26, R27, R370): `old` is the chip before it. -/
def followCommit (old s : Chip) : Chip :=
  let s1 := pulseSchedule s.cmd.tpWrite (follyCommit old (settlingStart old s))
  let s2 := xdcCommit old (waveCommit old s1)
  let s3 := loopsCommit old (measuresCommit old (triggersCommit old s2))
  let s4 := streamsCommit (tipCommit old (safetyCommit s3))
  let s5 := pairFormation (old.flag F.PAIR_CFG_EN) (ringCommit old (lanesCommit old s4))
  let s6 := evalActiveLedgers (moveRegions old s5)
  { s6 with cmd := { s6.cmd with touched := [], tpWrite := false } }

/-- COMMIT_APPLIED (R370, R371): at the first tick that starts an emitted frame at or after the target. -/
def commitDue (emit : Bool) (s : Chip) : Bool :=
  emit && match s.cmd.target with
    | some t => decide (t ≤ s.clk.frame)
    | none => false

/-- A raising in the CCLK of a tick uses the enables and routes that a commit brings at that tick (R430). -/
def routesAtTick (s : Chip) : Chip :=
  if commitDue (s.running && !s.flag F.TIM_STAT_STEP_HOLD) s then
    forN 12 (fun g s => [F.EVT_EN_EN g, F.EVT_RTE_LO_RTE g, F.EVT_RTE_HI_RTE g].foldl (fun s f => s.setActive f (s.shFld f)) s) s
  else s

/-- What stays of a frame at its close: its header, where it is emitted. -/
def closedForm (a : FrameAcc) : Option FrameAcc := if a.emit then some { a with hits := [] } else none

/-- Frames that a trigger span may reach back: 2^32 TCLK and the frame of the trigger point (R118, R131). -/
def spanFrames : Nat := 1048577

/-- What happens at a tick is of the frame that it starts: conditions that it makes assert do not hold the loops of the frame that ended
(R248). -/
def keepHeld (old s : Chip) : Chip :=
  match old.fb.cur with
  | some b => { s with fb := { s.fb with cur := s.fb.cur.map fun (a : FrameAcc) => { a with held := b.held } } }
  | none => s

/-- The frame builder at a tick (R82, R87): the frame in progress so far becomes the older open one, and a new one opens with
the header fields that its start fixes. -/
def openNext (emit commit : Bool) (s : Chip) : Chip :=
  let waveFolly := (List.range 4).any fun c => s.wavEnabled 0 c && s.wavFolly c
  let a : FrameAcc :=
    { id := s.clk.frame, hits := [], late := 0, ks := (List.range 4).map s.kNow, epoch := s.fld F.CMD_EPOCH_ACTIVE % 256
      cdig := s.digestOf 0 % 65536, tstep := emit && s.clk.tstep
      settle := s.flag F.HIT_FE_STAT_SETTLING && s.lawn.settle != 0, tp := false, folly := s.follyOn || waveFolly, ovf := false, odrop := false
      newcfg := commit, held := s.holdsLoops, emit := emit, stepHold := s.flag F.TIM_STAT_STEP_HOLD
      passive := s.standby }
  { s with
    fb := { s.fb with cur := some a, prev := s.fb.cur
                      closed := (s.fb.prev.toList.filterMap closedForm ++ s.fb.closed).take spanFrames }
    trg := { s.trg with passed := match s.clk.lastEmit with
      | some l => if emit && s.clk.tstep && decide (l + 1 < s.clk.frame) then (l, s.clk.frame) :: s.trg.passed.take 3 else s.trg.passed
      | none => s.trg.passed }
    clk := { s.clk with lastEmit := if emit then some s.clk.frame else s.clk.lastEmit, tstep := s.clk.tstep && !emit } }

/-- FRAME_CLOSE (R83, R86, R93): the histories, FRAME, and the readers of both, under the settings of the frame. -/
def closeHits (a : FrameAcc) (s : Chip) : Chip :=
  let s1 := writeHistory 2 a s
  if !s.flagAt 2 F.HIT_FB_CTL_STAGE_EN then s1
  else
    let ring := s.flagAt 2 F.HIT_FB_CTL_RING_EN
    match writeFrame a ((if ring then [.ring] else []) ++ s1.hitReaders 2) s1 with
    | (some (id, ws), s2) =>
      streamHits 2 a.id a.epoch id ws (if ring then sendContent 0x10 3 (.frame id) 0 ws false s2 else s2)
    | (none, s2) => s2

/-- WHIST_BLOCK_WRITE (R145, R147): the blocks of the channels, decimated by 2 to the largest k of the frame, and their stream
channels. -/
def closeWaves (a : FrameAcc) (s : Chip) : Chip :=
  forN 4 (fun c s =>
    match closeWave 2 c a.id (a.ks.foldl max 0) s with
    | (some ws, t) => streamWave 2 c a.id a.epoch ws t
    | (none, t) => t) s

/-- The hits of a frame that carries TUNC carry it too, those that were corrected before the loss was declared among them (R38). -/
def FrameAcc.withTunc (a : FrameAcc) (tunc : Bool) : FrameAcc :=
  if tunc then { a with hits := a.hits.map fun x => (x.1, x.2 ||| 0x2000#64) } else a

/-- A frame closes (R83, R112, R120, R147, R238): hits, waveforms, loops, then trigger decisions and records. A frame that is
not emitted closes nothing. -/
def closeFrame (a0 : FrameAcc) (s : Chip) : Chip :=
  let a := a0.withTunc (s.tunc a0.id)
  let s0 := calCloses a s
  if !a.emit then dropFrame a.id s0
  else
    let s1 := if s.domainUp 1 then closeHits a s0 else s0
    dropFrame a.id (closeTriggers 2 a.id (evaluateLoops 2 a (closeWaves a s1)))

/-- The pipeline at a tick (R21), from ready on: `old` is the chip as the tick found it, `wasHold` that step hold was in force. -/
def tickPipeline (old : Chip) (wasHold emit : Bool) (s : Chip) : Chip :=
  let commit := commitDue emit s
  let done := if commit then s.cmd.touched else []
  let stepped := s.clk.steppedIn
  let s1 := tickTip wasHold stepped (tickLawn (tickXdc (tickWave stepped (endStreams s))))
  let s2 := schedulePulse (if commit then followCommit old (applyCommit (settleTips s1)) else s1)
  let s3 := refreshDigests (enterDomains (standingPressure (tickReducer s2)))
  let closing := s3.fb.prev
  let s4 := tickStreams (tickArm (openNext emit commit (keepHeld old (tickCredits s3))))
  let s5 := match closing with | some a => closeFrame a s4 | none => s4
  let s6 := tickAuto s5
  let s8 := tickSafety (tickCal old done s6)
  let s9 := tickScrub (tickIdle (tickStore s8))
  let s10 := tickQueues (tickLanes (tickHeartbeat s9))
  trackPulses old (tickPairSend (tickPair (tickEvents s10)))

/-- A frame before ready accepts no hit, and counts toward quiet (R207). -/
def countQuiet (s : Chip) : Chip := { s with cal := { s.cal with quiet := s.cal.quiet + 1 } }

/-- LOCAL_FRAME_TICK (R17): the frame in progress ends after its last CCLK, and the next one starts. Frames are counted from
the first lock on, throughout a warm reset as well; the pipeline runs from ready (R417). At last, the batch of the frame that
ended is executed (R363). -/
def frameTick (s : Chip) : Chip :=
  if s.rst.porst || s.rst.supply || !s.clk.everLock then s
  else
    let n := if s.clk.counting then s.frameCclk else 0
    let s0 := if s.clk.counting then evalShadowLedgers (countPorts (passCclk (n - s.clk.cclk) s)) else newCycle s
    let wasHold := s0.flag F.TIM_STAT_STEP_HOLD
    let s1 := tickTref (noteSlip (if s.clk.counting then n else 2048) s.clk.steppedIn (routesAtTick (ageBanks (moveTick n s0))))
    let s2 := tickRate (tickQuality (tickUpstream s1))
    if !s2.up then s2
    else
      let s3 := protApply s2.cmd.protNext s2
      let s4 := keepHeld s0 { s3 with cmd := { s3.cmd with protNext := [] } }
      let emit := s4.running && !s4.flag F.TIM_STAT_STEP_HOLD
      let s5 := if s4.running then tickPipeline s4 wasHold emit s4 else countQuiet (openNext emit false s4)
      runBatch (refreshDigests s5)

/-- LOCAL_FRAME_TICK (R17). -/
def execLocalFrameTick (s : State) : Host.Outcome State Fault Refusal := .next { s with chip := frameTick s.chip }

end Sys2Proof.Machine
end

