-- ==== Sys2Proof/Machine/Dispatch.lean ====
section
/-! DEFINITION. The dispatch of the commands to their meanings, one arm for each constructor of Instr. -/

namespace Sys2Proof.Machine

/-- The effect of a command on everything but the queue. -/
def exec (i : Instr) (s : State) : Host.Outcome State Fault Refusal :=
  match i with
  -- time base
  | .localFrameTick => Sys2Proof.Machine.execLocalFrameTick s
  | .trefLost ago => Sys2Proof.Machine.execTrefLost s ago
  | .trefRestored => Sys2Proof.Machine.execTrefRestored s
  | .tpllUnlock => Sys2Proof.Machine.execTpllUnlock s
  -- the Lawn
  | .hitLeadingEdge row col sub => Sys2Proof.Machine.execHitLeadingEdge row col sub s
  | .trailingEdge row col sub => Sys2Proof.Machine.execTrailingEdge row col sub s
  | .tdcConversionDone p tdc startF1 startF2 stopF1 stopF2 order => Sys2Proof.Machine.execTdcConversionDone p tdc startF1 startF2 stopF1 stopF2 order s
  | .tdcSaturationClose p tdc => Sys2Proof.Machine.execTdcSaturationClose p tdc s
  | .stalledRecordWrite p tdc => Sys2Proof.Machine.execStalledRecordWrite p tdc s
  | .pixelRearm row col => Sys2Proof.Machine.execPixelRearm row col s
  | .lawnSettlingEnd => Sys2Proof.Machine.execLawnSettlingEnd s
  | .lawnStuck row col => Sys2Proof.Machine.execLawnStuck row col s
  | .testPulseInjection tclk => Sys2Proof.Machine.execTestPulseInjection s tclk
  | .lawnTpDone => Sys2Proof.Machine.execLawnTpDone s
  | .lawnDllUnlock p tdc => Sys2Proof.Machine.execLawnDllUnlock p tdc s
  | .tdcDllRelock p tdc code => Sys2Proof.Machine.execTdcDllRelock p tdc code s
  | .verticalLinkTransfer h => Sys2Proof.Machine.execVerticalLinkTransfer h s
  | .follyRecord p tclk => Sys2Proof.Machine.execFollyRecord p s tclk
  -- hedges, frame builder, acquisition store
  | .hedgeCorrection h => Sys2Proof.Machine.execHedgeCorrection h s
  | .reorderRelease h => Sys2Proof.Machine.execReorderRelease h s
  | .storeBandwidthGrant => Sys2Proof.Machine.execStoreBandwidthGrant s
  | .queueSpaceFreed region => Sys2Proof.Machine.execQueueSpaceFreed region s
  -- triggers and records
  | .firePacket port pkt first => Sys2Proof.Machine.execFirePacket port pkt first s
  | .fire h w0 w1 w2 => Sys2Proof.Machine.execFire h w0 w1 w2 s
  | .firePendingDue => Sys2Proof.Machine.execFirePendingDue s
  | .armPacket port pkt => Sys2Proof.Machine.execArmPacket port pkt s
  | .arm h w0 => Sys2Proof.Machine.execArm h w0 s
  | .force h w0 => Sys2Proof.Machine.execForce h w0 s
  | .autoTrigger out => Sys2Proof.Machine.execAutoTrigger out s
  -- waveform capture
  | .waveformConversion ch v => Sys2Proof.Machine.execWaveformConversion ch v s
  | .wavSettlingEnd ch => Sys2Proof.Machine.execWavSettlingEnd ch s
  -- transducer front end
  | .xdcPassStart => Sys2Proof.Machine.execXdcPassStart s
  | .xdcFilterReset => Sys2Proof.Machine.execXdcFilterReset s
  | .xdcOutputComplete v limit xdref => Sys2Proof.Machine.execXdcOutputComplete v limit s xdref
  | .excitationPulseEnd => Sys2Proof.Machine.execExcitationPulseEnd s
  | .xdcOpen tclk => Sys2Proof.Machine.execXdcOpen s tclk
  | .xdcUrgReq h req => Sys2Proof.Machine.execXdcUrgReq h req s
  | .xdcResult => Sys2Proof.Machine.execXdcResult s
  -- time inputs and pulse outputs
  | .tiEdge n rising tclk f1 f2 => Sys2Proof.Machine.execTiEdge n rising tclk f1 f2 s
  | .tiTimeout k => Sys2Proof.Machine.execTiTimeout k s
  | .frequencyGateEnd k => Sys2Proof.Machine.execFrequencyGateEnd k s
  | .pulseStart j => Sys2Proof.Machine.execPulseStart j s
  | .pulseEnd j => Sys2Proof.Machine.execPulseEnd j s
  | .ftoRise => Sys2Proof.Machine.execFtoRise s
  | .ftoFall => Sys2Proof.Machine.execFtoFall s
  -- calibration
  | .calStart h mask => Sys2Proof.Machine.execCalStart h mask s
  | .calAbort h mask => Sys2Proof.Machine.execCalAbort h mask s
  | .calIntervalStart proc => Sys2Proof.Machine.execCalIntervalStart proc s
  | .calRunEnd proc => Sys2Proof.Machine.execCalRunEnd proc s
  | .theqDwellEnd p => Sys2Proof.Machine.execTheqDwellEnd p s
  | .calTdcInjection p => Sys2Proof.Machine.execCalTdcInjection p s
  | .calPulseInjection p => Sys2Proof.Machine.execCalPulseInjection p s
  | .sliceWindowEnd slice => Sys2Proof.Machine.execSliceWindowEnd slice s
  | .sliceFallbackEnd => Sys2Proof.Machine.execSliceFallbackEnd s
  | .calApply h w0 => Sys2Proof.Machine.execCalApply h w0 s
  | .calRampStep => Sys2Proof.Machine.execCalRampStep s
  -- measures, loops, safety
  | .measureBlockBoundary rw => Sys2Proof.Machine.execMeasureBlockBoundary rw s
  | .safetyRelease cond => Sys2Proof.Machine.execSafetyRelease cond s
  | .loopSafeLatchWrite h latch => Sys2Proof.Machine.execLoopSafeLatchWrite h latch s
  | .loopCtlForce h forceA forceB => Sys2Proof.Machine.execLoopCtlForce h forceA forceB s
  -- stream channels
  | .streamBlockClose ch lane => Sys2Proof.Machine.execStreamBlockClose ch lane s
  | .cstageRoom ch lane => Sys2Proof.Machine.execCstageRoom ch lane s
  -- lanes
  | .lanePllLock port => Sys2Proof.Machine.execLanePllLock port s
  | .pllUnlock port => Sys2Proof.Machine.execPllUnlock port s
  | .laneAcquireDone port lanes => Sys2Proof.Machine.execLaneAcquireDone port lanes s
  | .laneAdaptDone port eq0 eq1 eq2 eq3 => Sys2Proof.Machine.execLaneAdaptDone port eq0 eq1 eq2 eq3 s
  | .laneAlignDone port leads latTx latRx => Sys2Proof.Machine.execLaneAlignDone port leads latTx latRx s
  | .alignmentMarker port lane found payload => Sys2Proof.Machine.execAlignmentMarker port lane found payload s
  | .laneSignalLoss port lane => Sys2Proof.Machine.execLaneSignalLoss port lane s
  | .hiber port lane => Sys2Proof.Machine.execHiber port lane s
  | .fallback port => Sys2Proof.Machine.execFallback port s
  | .adaptFreeze port lane => Sys2Proof.Machine.execAdaptFreeze port lane s
  | .belvedereScan port lane ew eh => Sys2Proof.Machine.execBelvedereScan port lane ew eh s
  | .laneNarrow port => Sys2Proof.Machine.execLaneNarrow port s
  | .laneWiden port => Sys2Proof.Machine.execLaneWiden port s
  | .modeTimeout port => Sys2Proof.Machine.execModeTimeout port s
  | .join h => Sys2Proof.Machine.execJoin h s
  | .leave h => Sys2Proof.Machine.execLeave h s
  | .retrain h ports rate => Sys2Proof.Machine.execRetrain h ports rate s
  | .laneCtlMode h ports mode => Sys2Proof.Machine.execLaneCtlMode h ports mode s
  | .laneCtlLoop h ports code => Sys2Proof.Machine.execLaneCtlLoop h ports code s
  | .laneCtlPrbs h ports on => Sys2Proof.Machine.execLaneCtlPrbs h ports on s
  | .ringAutoleave => Sys2Proof.Machine.execRingAutoleave s
  -- ring traffic
  | .ringPacketReceived port pkt first => Sys2Proof.Machine.execRingPacketReceived port pkt first s
  | .packetAdmission port cls => Sys2Proof.Machine.execPacketAdmission port cls s
  | .rngDropped port cls => Sys2Proof.Machine.execRngDropped port cls s
  | .credit port pkt => Sys2Proof.Machine.execCredit port pkt s
  | .rngCreditLapsed => Sys2Proof.Machine.execRngCreditLapsed s
  | .ringUnwrap port => Sys2Proof.Machine.execRingUnwrap port s
  -- network time
  | .timeInit port => Sys2Proof.Machine.execTimeInit port s
  | .timePacket port pkt first => Sys2Proof.Machine.execTimePacket port pkt first s
  | .timeSet h w0 w1 => Sys2Proof.Machine.execTimeSet h w0 w1 s
  | .timeAdjStep h w0 w1 => Sys2Proof.Machine.execTimeAdjStep h w0 w1 s
  | .timeAdjSlew h w0 w1 => Sys2Proof.Machine.execTimeAdjSlew h w0 w1 s
  -- capture store
  | .storeObjectPlace => Sys2Proof.Machine.execStoreObjectPlace s
  | .storeAck port pkt => Sys2Proof.Machine.execStoreAck port pkt s
  | .storeItemTimeout index cseq => Sys2Proof.Machine.execStoreItemTimeout index cseq s
  | .storeCtlLock h first last => Sys2Proof.Machine.execStoreCtlLock h first last s
  | .storeCtlUnlock h first last => Sys2Proof.Machine.execStoreCtlUnlock h first last s
  | .storeCtlFree h first last => Sys2Proof.Machine.execStoreCtlFree h first last s
  | .storeCtlResync h first last => Sys2Proof.Machine.execStoreCtlResync h first last s
  | .stoNextWrite h extent => Sys2Proof.Machine.execStoNextWrite h extent s
  | .stoTblWinWrite h k data => Sys2Proof.Machine.execStoTblWinWrite h k data s
  -- commands
  | .cmdPacket port pkt => Sys2Proof.Machine.execCmdPacket port pkt s
  | .sidePortCommand bytes => Sys2Proof.Machine.execSidePortCommand bytes s
  | .sidePortStatusFetch bytes => Sys2Proof.Machine.execSidePortStatusFetch bytes s
  | .sidePortUnknown first => Sys2Proof.Machine.execSidePortUnknown first s
  | .nop h => Sys2Proof.Machine.execNop h s
  | .rd h addr => Sys2Proof.Machine.execRd h addr s
  | .rdb h addr w0 => Sys2Proof.Machine.execRdb h addr w0 s
  | .wr h addr data => Sys2Proof.Machine.execWr h addr data s
  | .wrm h addr mask data => Sys2Proof.Machine.execWrm h addr mask data s
  | .wrb h addr ws => Sys2Proof.Machine.execWrb h addr ws s
  | .commit h w0 w1 => Sys2Proof.Machine.execCommit h w0 w1 s
  | .discard h => Sys2Proof.Machine.execDiscard h s
  | .digest h => Sys2Proof.Machine.execDigest h s
  | .epoch h => Sys2Proof.Machine.execEpoch h s
  | .protWr h ws => Sys2Proof.Machine.execProtWr h ws s
  | .evtAck h w0 => Sys2Proof.Machine.execEvtAck h w0 s
  | .domainReset h w0 => Sys2Proof.Machine.execDomainReset h w0 s
  | .domainResetRelease => Sys2Proof.Machine.execDomainResetRelease s
  | .diagWrFlip h w0 w1 => Sys2Proof.Machine.execDiagWrFlip h w0 w1 s
  | .diagWrPoison h w0 w1 => Sys2Proof.Machine.execDiagWrPoison h w0 w1 s
  | .diagWrCheck h w0 w1 => Sys2Proof.Machine.execDiagWrCheck h w0 w1 s
  | .switch h w0 => Sys2Proof.Machine.execSwitch h w0 s
  | .clear h w0 => Sys2Proof.Machine.execClear h w0 s
  | .configHeartbeat => Sys2Proof.Machine.execConfigHeartbeat s
  | .registerWrite h addr data => Sys2Proof.Machine.execRegisterWrite h addr data s
  -- memory integrity
  | .scrubBlockCheck => Sys2Proof.Machine.execScrubBlockCheck s
  | .digestRecheck => Sys2Proof.Machine.execDigestRecheck s
  | .minLogRead h => Sys2Proof.Machine.execMinLogRead h s
  | .tmrFix item => Sys2Proof.Machine.execTmrFix item s
  -- pairing
  | .pairHeartbeat port pkt => Sys2Proof.Machine.execPairHeartbeat port pkt s
  | .mirror port pkt => Sys2Proof.Machine.execMirror port pkt s
  | .pairTakeover => Sys2Proof.Machine.execPairTakeover s
  -- reset and start-up
  | .porstN => Sys2Proof.Machine.execPorstN s
  | .wrstN => Sys2Proof.Machine.execWrstN s
  | .supplyMonitorReset => Sys2Proof.Machine.execSupplyMonitorReset s
  | .resetRelease addr => Sys2Proof.Machine.execResetRelease addr s
  | .calRowsLoaded us => Sys2Proof.Machine.execCalRowsLoaded us s
  | .memoryInitComplete us => Sys2Proof.Machine.execMemoryInitComplete us s
  | .autojoin => Sys2Proof.Machine.execAutojoin s
  -- events and global registers
  | .eventPacket g => Sys2Proof.Machine.execEventPacket g s
  | .evtStatClear h g mask => Sys2Proof.Machine.execEvtStatClear h g mask s
  | .glbTempUpdate temp => Sys2Proof.Machine.execGlbTempUpdate temp s
  | .lowWordRead h addr => Sys2Proof.Machine.execLowWordRead h addr s
  | .timFrameIdxRead h => Sys2Proof.Machine.execTimFrameIdxRead h s
  | .stuckCntRead h => Sys2Proof.Machine.execStuckCntRead h s
  | .tpllLock us => Sys2Proof.Machine.execTpllLock us s
  | .trefPresent => Sys2Proof.Machine.execTrefPresent s
  -- blocks and JTAG
  | .blockBoundary port => Sys2Proof.Machine.execBlockBoundary port s
  | .ringBlockReceived port lane sync payload => Sys2Proof.Machine.execRingBlockReceived port lane sync payload s
  | .trstN => Sys2Proof.Machine.execTrstN s
  | .tck tms tdi => Sys2Proof.Machine.execTck tms tdi s

end Sys2Proof.Machine
end

