-- ==== Sys2Proof/Machine/Step.lean ====
section
/-! DEFINITION. One step of the block: the command at the front of the queue, or one CCLK without a command. -/

namespace Sys2Proof.Machine

/-- One step: the command at the front is taken out of the queue and executed; on an empty queue the clock moves on by one CCLK
inside the frame in progress (DESIGN CHOICE, see notes/assumptions/3). -/
def step (s : State) : Host.Outcome State Fault Refusal :=
  match s.pending with
  | c :: rest => exec c { s with pending := rest }
  | [] => .next { s with chip := idleCclk s.chip }

/-- The state with the command that a word spells at the front of its queue; unchanged where the word spells none. -/
def State.withFetchWord (s : State) (nbits w : Nat) : State :=
  match decodeTableWord nbits w with
  | some c => { s with pending := c :: s.pending }
  | none => s

end Sys2Proof.Machine
end

