-- ==== Sys2Proof/Safety.lean ====
section
/-! DEFINITION. What counts as safe, in the terms that claims use: what an announcement may touch, the canonical form of the
memories, and the invariant of the JTAG port. -/

namespace Sys2Proof.Machine

/-- The addresses of the EVT block and of the RNG, RNE, RNW and LOOP blocks (R425). -/
def announceAddr (a : Nat) : Bool :=
  (decide (0x3000 ≤ a) && decide (a < 0x4000)) || (decide (0x6000 ≤ a) && decide (a < 0x7000))
    || (decide (0x80000 ≤ a) && decide (a < 0x90000))

/-- The event status bit of a source is set (R430). -/
def Chip.eventSeen (s : Chip) (e : Nat) : Bool := (s.fld (F.EVT_STAT_STAT (e / 32))).testBit (e % 32)

/-- `t` differs from `s` at most in what the raising of events touches (R430, R244 to R247): the event registers and the gathered
EVENT packets, the safety conditions and the loops' registers, the open frame's HELD mark, and the ring queues and registers that
a STOP message passes. Event bits that were set stay set. -/
structure Announces (s t : Chip) : Prop where
  active : t.regs.active = s.regs.active
  shadow : t.regs.shadow = s.regs.shadow
  old1 : t.regs.old1 = s.regs.old1
  old2 : t.regs.old2 = s.regs.old2
  before : t.regs.before = s.regs.before
  holdE : t.regs.holdE = s.regs.holdE
  holdW : t.regs.holdW = s.regs.holdW
  holdS : t.regs.holdS = s.regs.holdS
  direct : ∀ a, announceAddr a = false → t.regs.direct.get a = s.regs.direct.get a
  events : ∀ e, e < 384 → s.eventSeen e = true → t.eventSeen e = true
  clk : t.clk = s.clk
  net : t.net = s.net
  mems : t.mems = s.mems
  scrub : t.scrub = s.scrub
  cmd : t.cmd = s.cmd
  ring : t.ring = { s.ring with pseq := t.ring.pseq }
  laneE : t.laneE = s.laneE
  laneW : t.laneW = s.laneW
  line : t.line = s.line
  cdc : t.cdc = s.cdc
  lawn : t.lawn = s.lawn
  hedges : t.hedges = s.hedges
  store : t.store = s.store
  rst : t.rst = s.rst
  pins : t.pins = s.pins
  sto : t.sto = s.sto
  pair : t.pair = s.pair
  meas : t.meas = s.meas
  srcs : t.srcs = s.srcs
  trg : t.trg = s.trg
  wav : t.wav = s.wav
  xdc : t.xdc = s.xdc
  tis : t.tis = s.tis
  tips : t.tips = s.tips
  pos : t.pos = s.pos
  cal : t.cal = s.cal
  cmp : t.cmp = s.cmp
  tabs : t.tabs = s.tabs
  free : t.free = s.free

/-- The addresses of announceAddr, of the MIN and STO blocks, and of the fill marks of the acquisition store. -/
def shipAddr (a : Nat) : Bool :=
  announceAddr a || (decide (0x8000 ≤ a) && decide (a < 0xA000)) || (decide (0x301C0 ≤ a) && decide (a < 0x301E8))

/-- `t` differs from `s` at most in what the offer of own packets touches (R310): what events touch, the stores that packets pass,
the coded memories with their log, and the registers of the capture store. Event bits that were set stay set. -/
structure Ships (s t : Chip) : Prop where
  active : t.regs.active = s.regs.active
  shadow : t.regs.shadow = s.regs.shadow
  old1 : t.regs.old1 = s.regs.old1
  old2 : t.regs.old2 = s.regs.old2
  before : t.regs.before = s.regs.before
  holdE : t.regs.holdE = s.regs.holdE
  holdW : t.regs.holdW = s.regs.holdW
  holdS : t.regs.holdS = s.regs.holdS
  direct : ∀ a, shipAddr a = false → t.regs.direct.get a = s.regs.direct.get a
  events : ∀ e, e < 384 → s.eventSeen e = true → t.eventSeen e = true
  clk : t.clk = s.clk
  net : t.net = s.net
  cmd : t.cmd = s.cmd
  ring : t.ring = { s.ring with pseq := t.ring.pseq }
  laneE : t.laneE = s.laneE
  laneW : t.laneW = s.laneW
  line : t.line = s.line
  cdc : t.cdc = s.cdc
  lawn : t.lawn = s.lawn
  hedges : t.hedges = s.hedges
  rst : t.rst = s.rst
  pins : t.pins = s.pins
  pair : t.pair = s.pair
  meas : t.meas = s.meas
  srcs : t.srcs = s.srcs
  trg : t.trg = s.trg
  wav : t.wav = s.wav
  xdc : t.xdc = s.xdc
  tis : t.tis = s.tis
  tips : t.tips = s.tips
  pos : t.pos = s.pos
  cal : t.cal = s.cal
  cmp : t.cmp = s.cmp
  tabs : t.tabs = s.tabs
  free : t.free = s.free

/-- `t` differs from `s` at most in what data touch that reach the measures and the trigger conditions (R100, R231): the measures, the
conditions with their counters in the TRG block, and what the raising of events touches. Event bits that were set stay set. -/
structure Feeds (s t : Chip) : Prop where
  rest : t = { s with
    regs := { s.regs with direct := t.regs.direct, setNow := t.regs.setNow }
    evtG := t.evtG
    sc := t.sc
    ringE := t.ringE
    ringW := t.ringW
    ring := { s.ring with pseq := t.ring.pseq }
    fb := t.fb
    meas := t.meas
    srcs := t.srcs
    trg := t.trg }
  direct : ∀ a, announceAddr a = false → (a < 0x38000 ∨ 0x39000 ≤ a) → t.regs.direct.get a = s.regs.direct.get a
  events : ∀ e, e < 384 → s.eventSeen e = true → t.eventSeen e = true

/-- `t` differs from `s` at most in what the work of the stream channels touches (R252 to R272): the channels and the CMP block, and
what the offer of own packets touches, with the CSEQ counters. Event bits that were set stay set. -/
structure Works (s t : Chip) : Prop where
  rest : t = { s with
    regs := { s.regs with direct := t.regs.direct, setNow := t.regs.setNow }
    evtG := t.evtG
    sc := t.sc
    ringE := t.ringE
    ringW := t.ringW
    ring := { s.ring with pseq := t.ring.pseq, cseq := t.ring.cseq }
    fb := t.fb
    mems := t.mems
    scrub := t.scrub
    store := t.store
    sto := t.sto
    cmp := t.cmp }
  direct : ∀ a, shipAddr a = false → (a < 0x90000 ∨ 0x91000 ≤ a) → t.regs.direct.get a = s.regs.direct.get a
  events : ∀ e, e < 384 → s.eventSeen e = true → t.eventSeen e = true

/-- Its sender can send commands now (R417). -/
def Chip.listens (s : Chip) (c : Command) : Bool := if c.fromSide then s.sideOpen else s.running

/-- The addresses of shipAddr, and those of the 4 KiB pages named. -/
def pages (l : List Nat) (a : Nat) : Bool := shipAddr a || l.contains (a / 4096)

/-- `t` keeps of `s` the clock, the resets, the command engine, every bank of RWS fields, and every other register outside the
pages named; event bits that were set stay set. -/
structure Keeps (l : List Nat) (s t : Chip) : Prop where
  active : t.regs.active = s.regs.active
  shadow : t.regs.shadow = s.regs.shadow
  old1 : t.regs.old1 = s.regs.old1
  old2 : t.regs.old2 = s.regs.old2
  before : t.regs.before = s.regs.before
  direct : ∀ a, pages l a = false → t.regs.direct.get a = s.regs.direct.get a
  events : ∀ e, e < 384 → s.eventSeen e = true → t.eventSeen e = true
  clk : t.clk = s.clk
  rst : t.rst = s.rst
  cmd : t.cmd = s.cmd

/-- A command is taken: its sender can send commands now (R417), it repeats no kept one (R365), and it passes every check before
its execution (R359). -/
structure Accepted (c : Command) (s : Chip) : Prop where
  listens : s.listens c = true
  fresh : s.kept? c = none
  checked : s.checkCommand c = 0

/-- The chip that answers a command (R358, R359, R365): `u` is the chip that the command left; the status is that of `s`, which
executed it. A command whose CRC word fails is not kept. Before lock every command stands alone (R362). -/
def Chip.answered (s : Chip) (c : Command) (code : Nat) (data : List Nat) (u : Chip) : Chip :=
  let ws := s.statusWords c code data
  let v := if code = 0 then u.bump F.CMD_EXEC_CNT_COUNT else noteReject c code u
  let t := sendStatus c.sender ws (if code = 5 then v else keepStatus c ws v)
  if t.clk.counting then t else { t with cmd := { t.cmd with written := [] } }

/-- The command that a row of the command engine spells (R354, R356): its opcode, address and payload. -/
def rowCommand : Instr → Option Command
  | .nop h => some (cmdOf h 0x00 0 [])
  | .rd h a => some (cmdOf h 0x10 a.toNat [])
  | .lowWordRead h a => some (cmdOf h 0x10 a.toNat [])
  | .timFrameIdxRead h => some (cmdOf h 0x10 0x1008 [])
  | .stuckCntRead h => some (cmdOf h 0x10 0x30024 [])
  | .minLogRead h => some (cmdOf h 0x10 0x8040 [])
  | .rdb h a w0 => some (cmdOf h 0x11 a.toNat [w0])
  | .wr h a d => some (writeOf h a.toNat d.toNat)
  | .registerWrite h a d => some (writeOf h a.toNat d.toNat)
  | .evtStatClear h g m => some (writeOf h (0x3100 + 16 * g.val) m.toNat)
  | .loopCtlForce h a b => some (writeOf h 0x80000 (b2n a + 2 * b2n b))
  | .loopSafeLatchWrite h l => some (writeOf h 0x80008 l.val)
  | .xdcUrgReq h r => some (writeOf h 0x48020 r.val)
  | .stoNextWrite h e => some (writeOf h 0x9008 e.val)
  | .stoTblWinWrite h k d => some (writeOf h (0x9800 + 4 * k.val) d.toNat)
  | .wrm h a m d => some (cmdOf h 0x21 a.toNat [m ++ d])
  | .wrb h a ws => some (cmdOf h 0x22 a.toNat ws)
  | .commit h w0 w1 => some (cmdOf h 0x30 0 [w0, w1])
  | .discard h => some (cmdOf h 0x31 0 [])
  | .digest h => some (cmdOf h 0x32 0 [])
  | .epoch h => some (cmdOf h 0x33 0 [])
  | .arm h w0 => some (cmdOf h 0x40 0 [w0])
  | .fire h w0 w1 w2 => some (cmdOf h 0x41 0 [w0, w1, w2])
  | .force h w0 => some (cmdOf h 0x42 0 [w0])
  | .calStart h m => some (cmdOf h 0x50 0 [w64 m.val])
  | .calAbort h m => some (cmdOf h 0x50 0 [w64 (256 + m.val)])
  | .calApply h w0 => some (cmdOf h 0x51 0 [w0])
  | .timeSet h w0 w1 => some (cmdOf h 0x60 0 [w0, w1])
  | .timeAdjStep h w0 w1 => some (cmdOf h 0x61 0 [w0, w1 ||| 1#64])
  | .timeAdjSlew h w0 w1 => some (cmdOf h 0x61 0 [w0, w1 &&& ~~~(1#64)])
  | .storeCtlLock h f l => some (storeCtlOf h 1 f.val l.val)
  | .storeCtlUnlock h f l => some (storeCtlOf h 2 f.val l.val)
  | .storeCtlFree h f l => some (storeCtlOf h 3 f.val l.val)
  | .storeCtlResync h f l => some (storeCtlOf h 4 f.val l.val)
  | .switch h w0 => some (cmdOf h 0x80 0 [(w0 &&& ~~~(0xF#64)) ||| 1#64])
  | .clear h w0 => some (cmdOf h 0x80 0 [(w0 &&& ~~~(0xF#64)) ||| 2#64])
  | .evtAck h w0 => some (cmdOf h 0x90 0 [w0])
  | .protWr h ws => some (cmdOf h 0xA0 0 ws)
  | .domainReset h w0 => some (cmdOf h 0xB0 0 [w0])
  | .join h => some (laneCtlOf h 1)
  | .leave h => some (laneCtlOf h 2)
  | .retrain h p r => some (laneCtlOf h (3 + 16 * p.val + 65536 * b2n r))
  | .laneCtlMode h p m => some (laneCtlOf h (4 + 16 * p.val + 256 * m.val))
  | .laneCtlLoop h p k => some (laneCtlOf h (5 + 16 * p.val + 4096 * k.val))
  | .laneCtlPrbs h p on => some (laneCtlOf h (6 + 16 * p.val + 131072 * b2n on))
  | .diagWrFlip h w0 w1 => some (cmdOf h 0xD0 0 [(w0 &&& ~~~(0xFF#64)) ||| 1#64, w1])
  | .diagWrPoison h w0 w1 => some (cmdOf h 0xD0 0 [(w0 &&& ~~~(0xFF#64)) ||| 2#64, w1])
  | .diagWrCheck h w0 w1 => some (cmdOf h 0xD0 0 [(w0 &&& ~~~(0xFF#64)) ||| 3#64, w1])
  | _ => none

/-- A row whose command is accepted completes, and answers `code` with `data` from the chip `u` that the command left. -/
def Answers (i : Instr) (s : State) (code : Nat) (data : List Nat) (u : Chip) : Prop :=
  ∃ c, rowCommand i = some c ∧ exec i s = .next { s with chip := s.chip.answered c code data u }

/-- A row whose command is accepted (R359). -/
def Taken (i : Instr) (s : State) : Prop := ∃ c, rowCommand i = some c ∧ Accepted c s.chip

/-- Every coded memory has the canonical form. -/
def Chip.memsWf (s : Chip) : Prop := ∀ x ∈ s.mems, x.wf = true

/-- The length of the data register that an instruction selects (R450). -/
def TapInstr.drLength : TapInstr → Nat
  | .idcode => 32
  | .bypass | .clamp | .highz => 1
  | .extest | .sample | .extestPulse | .extestTrain => Config.boundaryCells

/-- The states in which the selected data register holds what was captured and shifted. -/
def TapState.holdsData : TapState → Bool
  | .shiftDr | .exit1Dr | .pauseDr | .exit2Dr | .updateDr => true
  | _ => false

/-- The invariant of the JTAG port (R421, R450): in Test-Logic-Reset the instruction is IDCODE; TDO is driven in the two shift
states only; and a selected data register that has cells keeps its length while it shifts. -/
structure Tap.Inv (t : Tap) : Prop where
  idcode : t.st = .testLogicReset → t.ir = 0x01#8
  quiet : t.tdo.isSome = true → t.st = .shiftDr ∨ t.st = .shiftIr
  length : t.st.holdsData = true → (tapInstr t.ir).drLength ≠ 0 → t.drSh.length = (tapInstr t.ir).drLength

/-- A command completes from a state with a next state of which P holds; the queue is untouched. -/
def Completes (i : Instr) (s : State) (P : State → Prop) : Prop :=
  ∃ t, exec i s = .next t ∧ t.pending = s.pending ∧ P t

/-- A command completes, touches neither the queue nor the JTAG port, and leaves a chip of which P holds. -/
def Does (i : Instr) (s : State) (P : Chip → Prop) : Prop :=
  ∃ c, exec i s = .next { s with chip := c } ∧ P c

end Sys2Proof.Machine
end

