-- ==== Sys2Proof/Certificates/Slice0/Obligations.lean ====
section
/-! DEFINITION. The statements for the provers: what the commands of the CH734 do, from the numbered rules of the spec. A statement
`Does i s P` says that the command completes with a next state, that it leaves the queue and the JTAG port alone, and that P holds of
the chip after it. -/

open Sys2Proof Sys2Proof.Machine

/-! ### The step and the reset state -/

/-- A step takes the command at the front of the queue and executes it on the rest. -/
def Obligations.StepRunsFrontCommand : Prop :=
  ∀ (c : Instr) (rest : List Instr) (s : State),
    step { s with pending := c :: rest } = exec c { s with pending := rest }

/-- On an empty queue a step is one CCLK inside the frame in progress (DESIGN CHOICE, notes/assumptions/3): the CCLK counter moves on
by one up to the last CCLK of the frame, the ring's buckets gain, the acquisition store serves, and a new CCLK begins for the registers
(R6, R95, R309). Without a frame in progress, and at its last CCLK, nothing happens. Here while no edge waits for an interval channel:
a kept hit whose wait is over then enters the merged stream (R100), which touches what such a hit touches, and with no hit due nothing
else happens. -/
def Obligations.EmptyQueueIdlesOneCclk : Prop :=
  ∀ s : State, s.pending = [] →
    let c := s.chip
    let moves := c.clk.counting = true ∧ c.clk.cclk + 1 < c.frameCclk
    (¬ moves → step s = .next s) ∧
    (moves → (∀ i, i < 8 → (c.ti i).queue = []) → ∃ v u : Chip, step s = .next { s with chip := u } ∧
      v = { c with regs := { c.regs with before := c.regs.direct, setNow := [] }, clk := { c.clk with cclk := c.clk.cclk + 1 }
                   ringE := v.ringE, ringW := v.ringW, store := { c.store with backlog := v.store.backlog } } ∧
      Feeds v u ∧ ((∀ m ∈ c.trg.merge, c.cclkNow + 1 < m.since + mergeCclk) → u = v))

/-- Every command, in every state, completes with a next state and leaves the queue alone: no command faults and none is refused. -/
def Obligations.EveryCommandCompletes : Prop :=
  ∀ (i : Instr) (s : State), ∃ t, exec i s = .next t ∧ t.pending = s.pending

/-- R413, R414, R421: PORST_N and the supply monitors return the whole device to reset, from every state: every register to its
reset value, every memory to clean reset contents, the queues to empty, the time base to frame (0, 0), and the TAP controller to
Test-Logic-Reset with IDCODE. Only the levels that others drive on the open-drain wires stand, and the other resets asserted. The
counter of the model's free values (no part of the device) stands too. -/
def Obligations.PowerResetReturnsEverything : Prop :=
  ∀ s : State,
    (∃ t, exec .porstN s = .next t ∧ t.pending = s.pending ∧ t.tap = Tap.initial ∧
      t.chip = { Chip.initial with
        rst := { RstSt.initial with porst := true, wrst := s.chip.rst.wrst, supply := s.chip.rst.supply }
        pins := { Chip.initial.pins with extEvt := s.chip.pins.extEvt, extBlankA := s.chip.pins.extBlankA,
                                         extBlankB := s.chip.pins.extBlankB }
        free := s.chip.free } ∧
      (∀ f : Fld, t.chip.fld f = bits (regReset f.addr).toNat (f.lo + f.w - 1) f.lo) ∧
      (∀ m w, m < 12 → t.chip.memData m w = (memReset m w).toNat ∧ t.chip.poisoned m w = false)) ∧
    (∃ t, exec .supplyMonitorReset s = .next t ∧ t.pending = s.pending ∧ t.tap = Tap.initial ∧
      t.chip = { Chip.initial with
        rst := { RstSt.initial with porst := s.chip.rst.porst, wrst := s.chip.rst.wrst, supply := true }
        pins := { Chip.initial.pins with extEvt := s.chip.pins.extEvt, extBlankA := s.chip.pins.extBlankA,
                                         extBlankB := s.chip.pins.extBlankB }
        free := s.chip.free })

/-- R11, R413: the state right after reset: PORST_N asserted, every register at its reset value, every memory clean with its reset
contents, nothing waiting; and the invariant of the TAP holds there. -/
def Obligations.ResetStateHoldsResetValues : Prop :=
  State.reset.pending = [] ∧ State.reset.tap = Tap.initial ∧ State.reset.chip.rst.porst = true ∧
  (∀ f : Fld, State.reset.chip.fld f = bits (regReset f.addr).toNat (f.lo + f.w - 1) f.lo) ∧
  (∀ m w, m < 12 → State.reset.chip.memData m w = (memReset m w).toNat ∧ State.reset.chip.poisoned m w = false) ∧
  State.reset.chip.memsWf ∧ State.reset.tap.Inv

/-! ### Commands and statuses (chapter 15) -/

/-- R357, R358, R365, R417: how a row of the command engine takes its way. Where its sender cannot send commands the row does
nothing; a repeat sends the kept status again and counts it, and nothing else; a command that a check turns away has no effect but
its answer. (The rows of a frame share its list of registers written, which before lock is emptied after every command: DESIGN
CHOICE, notes/assumptions/10.) -/
def Obligations.EngineRowsFollowCommandPath : Prop :=
  ∀ (i : Instr) (c : Command) (s : State), rowCommand i = some c →
    (s.chip.listens c = false → exec i s = .next s) ∧
    (s.chip.listens c = true → ∀ k, s.chip.kept? c = some k →
      let t := sendStatus c.sender (repeatWords k.status) (s.chip.bump F.CMD_REPEAT_CNT_COUNT)
      exec i s = .next { s with chip := if t.clk.counting then t else { t with cmd := { t.cmd with written := [] } } }) ∧
    (s.chip.listens c = true → s.chip.kept? c = none → s.chip.checkCommand c ≠ 0 →
      exec i s = .next { s with chip := s.chip.answered c (s.chip.checkCommand c) [] s.chip })

/-- R359 with R355, R356, R358 and R360: the checks of a command before its execution run in their order, and the first that fails
gives the status. Here for the length and the opcode: a side-port transaction of another length than its PLEN says is BAD_LEN; then
a wrong CRC word is CRC; an opcode that R356 does not list is BAD_OPCODE; a PLEN that the opcode does not allow, a LEN that differs
from PLEN + 2 on the ring, and an RDB COUNT of 0 or above 506 are BAD_LEN. -/
def Obligations.LengthAndOpcodeChecksComeFirst : Prop :=
  ∀ (h : CmdHead) (op addr : Nat) (pl : List W64) (s : Chip), op < 256 → addr < 2 ^ 24 → pl.length < 1024 →
    (h.sender = .side → h.lenOk = false → s.checkCommand (cmdOf h op addr pl) = 4) ∧
    ((h.sender ≠ .side ∨ h.lenOk = true) →
      (h.crcOk = false → s.checkCommand (cmdOf h op addr pl) = 5) ∧
      (h.crcOk = true → opcodeLen op = none → s.checkCommand (cmdOf h op addr pl) = 2) ∧
      (h.crcOk = true → ∀ lo hi, opcodeLen op = some (lo, hi) →
        (h.lenOk = false ∨ pl.length < lo ∨ hi < pl.length) → s.checkCommand (cmdOf h op addr pl) = 4) ∧
      (h.crcOk = true → op = 0x11 → pl.length = 1 →
        bits (nth 0#64 pl 0).toNat 8 0 = 0 ∨ 506 < bits (nth 0#64 pl 0).toNat 8 0 →
        s.checkCommand (cmdOf h op addr pl) = 4))

/-- R366: a command that passes the checks of orders 1 to 4 and whose PRIV is numerically less than the ceiling of its port answers
DENIED; so does, by R367, a register write or read whose PRIV is above the level of the register's group. Both ceilings are 0 at reset. -/
def Obligations.CeilingAndGroupLevelDeny : Prop :=
  (∀ (c : Command) (s : Chip) (lens : Nat × Nat), c.words.length = c.plen + 2 → c.crcWord = crcOf c.words.dropLast →
    opcodeLen c.op = some lens → s.badLen c lens = false → s.badAddr c = false →
    c.priv < s.fld (if c.sender = .side then F.CMD_CEIL_SIDE else F.CMD_CEIL_RING) → s.checkCommand c = 1) ∧
  (∀ (h : CmdHead) (addr : BitVec 24) (d : W32) (s : Chip), h.crcOk = true → h.lenOk = true →
    s.badLen (writeOf h addr.toNat d.toNat) (1, 1) = false → s.badAddr (writeOf h addr.toNat d.toNat) = false →
    s.fld (F.CMD_PROT_WRITE (regGroup addr.toNat)) < h.priv.toNat → s.checkCommand (writeOf h addr.toNat d.toNat) = 1) ∧
  (∀ (h : CmdHead) (addr : BitVec 24) (s : Chip), h.crcOk = true → h.lenOk = true →
    s.badLen (cmdOf h 0x10 addr.toNat []) (0, 0) = false → s.badAddr (cmdOf h 0x10 addr.toNat []) = false →
    s.fld (F.CMD_PROT_READ (regGroup addr.toNat)) < h.priv.toNat → s.checkCommand (cmdOf h 0x10 addr.toNat []) = 1) ∧
  State.reset.chip.fld F.CMD_CEIL_RING = 0 ∧ State.reset.chip.fld F.CMD_CEIL_SIDE = 0

/-- R358: the layout of a status. The status word echoes opcode, tag and address and carries the device's ring address, the code, and
0 elsewhere; the frame word names the frame of execution ((0, 0) before the first tick) and counts the data words; the data words
follow, with OK, POISON and OVER_BUDGET only (R359); the last word is their CRC word (R355). -/
def Obligations.StatusWordsFollowLayout : Prop :=
  ∀ (h : CmdHead) (op addr : Nat) (pl : List W64) (code : Nat) (data : List Nat) (s : Chip),
    op < 256 → addr < 2 ^ 24 → pl.length < 1024 → code < 256 → data.length < 1024 →
    let d := if code = 0 ∨ code = 9 ∨ code = 0xC then data else []
    ∃ w0 w1 : W64, ∃ crc : W64,
      s.statusWords (cmdOf h op addr pl) code data = w0 :: w1 :: (d.map w64 ++ [crc]) ∧
      bits w0.toNat 63 56 = op ∧ bits w0.toNat 55 48 = h.tag.toNat ∧
      bits w0.toNat 47 43 = s.fld F.GLB_RST_STAT_STRAP ∧ bits w0.toNat 42 32 = 0 ∧ bits w0.toNat 31 24 = code ∧
      bits w0.toNat 23 0 = addr ∧
      bits w1.toNat 63 32 = (if s.clk.counting then frameSec s.clk.frame % 2 ^ 32 else 0) ∧
      bits w1.toNat 31 13 = (if s.clk.counting then frameIdx s.clk.frame else 0) ∧
      bits w1.toNat 12 10 = 0 ∧ bits w1.toNat 9 0 = d.length ∧
      crc.toNat = crcOf (w0 :: w1 :: d.map w64)

/-- R358, R359, R361, R365, R378: what an answer touches. Beside the places that an offered packet and a raised event touch, an answer
moves the counters of the CMD block and CMD_LAST_ERR, and keeps the answer of a ring command whose CRC word matched: one more in the list of at most 16. An
OK counts in CMD_EXEC_CNT; any other code counts in CMD_REJECT_CNT and is latched in CMD_LAST_ERR with opcode, tag and port. A
side-port status joins the end of the side-port queue. -/
def Obligations.AnswerTouchesOnlyItsRecord : Prop :=
  ∀ (c : Command) (code : Nat) (data : List Nat) (s u : Chip), c.op < 256 → c.tag < 256 → code < 256 →
    let t := s.answered c code data u
    let ws := s.statusWords c code data
    let kept := u.cmd.kept ++ [⟨c.tag, c.crcWord, ws, u.clk.ticks⟩]
    (∃ d, Ships { u with regs := { u.regs with direct := d }, cmd := t.cmd } t ∧
      ∀ a, ¬ (0x2044 ≤ a ∧ a < 0x2068) → shipAddr a = false → d.get a = u.regs.direct.get a) ∧
    t.cmd = { u.cmd with
      sideQ := if c.sender = .side then u.cmd.sideQ ++ [ws] else u.cmd.sideQ
      kept := if c.sender = .side ∨ code = 5 then u.cmd.kept else kept.drop (kept.length - 16)
      written := if u.clk.counting then u.cmd.written else [] } ∧
    (code = 0 → t.fld F.CMD_EXEC_CNT_COUNT = satTo 32 (u.fld F.CMD_EXEC_CNT_COUNT + 1) ∧
      t.fld F.CMD_REJECT_CNT_COUNT = u.fld F.CMD_REJECT_CNT_COUNT) ∧
    (code ≠ 0 → t.fld F.CMD_REJECT_CNT_COUNT = satTo 32 (u.fld F.CMD_REJECT_CNT_COUNT + 1) ∧
      t.fld F.CMD_EXEC_CNT_COUNT = u.fld F.CMD_EXEC_CNT_COUNT ∧
      t.fld F.CMD_LAST_ERR_STATUS = code ∧ t.fld F.CMD_LAST_ERR_OPCODE = c.op ∧ t.fld F.CMD_LAST_ERR_TAG = c.tag ∧
      t.fld F.CMD_LAST_ERR_PORT = u.senderRank c.sender)

/-! ### Reads and writes of registers (chapters 00 and 15) -/

/-- R7, R356, R359: RD, and the rows that name one register's read (LOW_WORD_READ, TIM_FRAME_IDX_READ, STUCK_CNT_READ, MIN_LOG_READ),
return the register of their address in the bank of the command; RDB returns COUNT registers ascending, two to a data word, the lower
address in the low half, the last word padded with 0; a block read gives, register by register, what single reads give, and leaves the
chip as they leave it. The status is OK, or POISON with the data as read where a poisoned word was touched. -/
def Obligations.ReadRowsReturnRegisters : Prop :=
  ∀ (h : CmdHead) (s : State),
    (∀ (i : Instr) (a : BitVec 24),
      i = .rd h a ∨ i = .lowWordRead h a ∨ (i = .timFrameIdxRead h ∧ a = 0x1008#24) ∨ (i = .stuckCntRead h ∧ a = 0x30024#24)
        ∨ (i = .minLogRead h ∧ a = 0x8040#24) →
      Taken i s →
      let r := readReg h.sender (h.bank == 1#2) a.toNat s.chip
      Answers i s (if r.2.1 then 9 else 0) [r.1] r.2.2) ∧
    (∀ (a : BitVec 24) (w0 : W64), Taken (.rdb h a w0) s →
      let r := readRegs h.sender (h.bank == 1#2) ((List.range (bits w0.toNat 8 0)).map fun k => a.toNat + 4 * k) s.chip
      Answers (.rdb h a w0) s (if r.2.1 then 9 else 0) (pairUp r.1) r.2.2) ∧
    (∀ (x : Sender) (sh : Bool) (a : Nat) (as : List Nat) (c : Chip),
      let one := readReg x sh a c
      let rest := readRegs x sh as one.2.2
      readRegs x sh [] c = ([], false, c) ∧ readRegs x sh (a :: as) c = (one.1 :: rest.1, one.2.1 || rest.2.1, rest.2.2))

/-- R5, R6, R8, R9: the bits of a register that no table memory holds and that shows no live value: RWS bits come from the bank that the
command names, the other readable bits are the current ones, WO bits and bits of no field read 0. RC bits show what stood when the CCLK of
the read began: a count made in that CCLK is not returned. -/
def Obligations.RegisterBitsReadByAccessCode : Prop :=
  ∀ (x : Sender) (sh : Bool) (a : Nat) (r : RegRow) (s : Chip) (i : Nat), regRow? a = some r →
    (if a < 0x10000 then s.liveLow x a else s.liveHigh x a) = [] → i < 32 →
    (s.regValue x sh a).testBit i =
      if (r.mask (· == .rws)).testBit i then (regReset a ^^^ (if sh then s.regs.shadow else s.regs.active).get a).getLsbD i
      else if (r.mask fun c => c != .rws && c != .wo && c != .rc).testBit i then (regReset a ^^^ s.regs.direct.get a).getLsbD i
      else if (r.mask (· == .rc)).testBit i then
        (regReset a ^^^ (if s.clk.counting then s.regs.before else s.regs.direct).get a).getLsbD i
      else false

/-- R5, R6, R10, R71, R392: what a read of a register that no table memory holds, and of which no holding copy is held, does: it returns
the register's value, clears its RC bits (all of them, where the CCLK of the read has counted nothing there; a later read of the same CCLK
finds them 0) and no other bit, takes the holding copies of the upper words of a wider quantity, and at MIN_LOG_LO takes the oldest entry
out of the log. A read of HIT_FE_STUCK_CNT also clears the VALID bit of HIT_FE_STUCK_ADDR. Nothing else changes. -/
def Obligations.RegisterReadClearsOnlyItsRcBits : Prop :=
  ∀ (x : Sender) (sh : Bool) (a : Nat) (s : Chip), s.held? x a = none → s.tabRef x sh a = none →
    let t := (readReg x sh a s).2.2
    (readReg x sh a s).1 = s.regValue x sh a ∧ (readReg x sh a s).2.1 = false ∧
    t.regs.active = s.regs.active ∧ t.regs.shadow = s.regs.shadow ∧
    (∀ b, b ≠ a → ¬ (a = 0x30024 ∧ b = F.HIT_FE_STUCK_ADDR_VALID.addr) → t.regs.direct.get b = s.regs.direct.get b) ∧
    (∀ b, b ≠ a → t.regs.before.get b = s.regs.before.get b) ∧ t.regs.setNow = s.regs.setNow ∧
    t.regs.old1 = s.regs.old1 ∧ t.regs.old2 = s.regs.old2 ∧
    (∀ r, regRow? a = some r → a ≠ 0x8040 → a ≠ 0x8044 → ∀ i, i < 32 →
      (t.regs.before.get a).getLsbD i = ((s.regs.before.get a).getLsbD i && !(r.mask (· == .rc)).testBit i) ∧
      ((r.mask (· == .rc)).testBit i = false → (t.regs.direct.get a).getLsbD i = (s.regs.direct.get a).getLsbD i) ∧
      ((s.clk.counting = true → s.regs.before.get a = s.regs.direct.get a) → (r.mask (· == .rc)).testBit i = true →
        (t.regs.direct.get a).getLsbD i = false)) ∧
    (a = 0x30024 → t.fld F.HIT_FE_STUCK_ADDR_VALID = 0) ∧
    t = { s with regs := t.regs, scrub := { s.scrub with log := if a = 0x8040 then s.scrub.log.tail else s.scrub.log } }

/-- R10: a read of the lower address of a 64-bit quantity (or of the lowest address of a wider one) copies the upper words into the
sender's holding copy: until that sender reads the lower address again, its reads of an upper address return the words of that
moment, whatever happens to the registers meanwhile. Reads of one sender touch no other sender's copies. -/
def Obligations.UpperWordComesFromHoldingCopy : Prop :=
  ∀ (x : Sender) (sh sh' : Bool) (a b : Nat) (s u : Chip), s.held? x a = none → s.tabRef x sh a = none → b ∈ captures a →
    u.hold x = (readReg x sh a s).2.2.hold x →
    (readReg x sh' b u).1 = s.regValue x sh b % 2 ^ 32 ∧ (readReg x sh' b u).2.2 = u ∧
    (∀ y, y ≠ x → (readReg x sh a s).2.2.hold y = s.hold y)

/-- R356, R364: the rows that write one register write it with their data, in the bank of the command (WR, REGISTER_WRITE, and the
rows that name one register), WRM with the old value where its mask is 0 and its data where the mask is 1, and WRB registers
ascending, two to a payload word. The registers written are noted with the command's privilege. -/
def Obligations.WriteRowsWriteRegisters : Prop :=
  ∀ (h : CmdHead) (s : State),
    let done := fun (as : List Nat) (u : Chip) =>
      ({ u with cmd := { u.cmd with written := u.cmd.written ++ as.map fun a => (a, h.priv.toNat) } } : Chip)
    let sh := h.bank == 1#2
    (∀ (i : Instr) (a v : Nat),
      (∃ (addr : BitVec 24) (d : W32), (i = .wr h addr d ∨ i = .registerWrite h addr d) ∧ a = addr.toNat ∧ v = d.toNat)
        ∨ (∃ (g : Fin 12) (m : W32), i = .evtStatClear h g m ∧ a = 0x3100 + 16 * g.val ∧ v = m.toNat)
        ∨ (∃ fa fb : Bool, i = .loopCtlForce h fa fb ∧ a = 0x80000 ∧ v = b2n fa + 2 * b2n fb)
        ∨ (∃ l : Fin 65536, i = .loopSafeLatchWrite h l ∧ a = 0x80008 ∧ v = l.val)
        ∨ (∃ r : Fin 16, i = .xdcUrgReq h r ∧ a = 0x48020 ∧ v = r.val)
        ∨ (∃ e : Fin 262144, i = .stoNextWrite h e ∧ a = 0x9008 ∧ v = e.val)
        ∨ (∃ (k : Fin 512) (d : W32), i = .stoTblWinWrite h k d ∧ a = 0x9800 + 4 * k.val ∧ v = d.toNat) →
      Taken i s → Answers i s 0 [] (done [a] (writeReg h.sender sh a v s.chip))) ∧
    (∀ (addr : BitVec 24) (m d : W32), Taken (.wrm h addr m d) s →
      let old := peekReg h.sender sh addr.toNat s.chip
      Answers (.wrm h addr m d) s 0 []
        (done [addr.toNat] (writeReg h.sender sh addr.toNat
          ((old.1 &&& (2 ^ 32 - 1 - m.toNat)) ||| (d.toNat &&& m.toNat)) old.2))) ∧
    (∀ (addr : BitVec 24) (ws : List W64), Taken (.wrb h addr ws) s →
      let as := (List.range (2 * ws.length)).map fun k => addr.toNat + 4 * k
      Answers (.wrb h addr ws) s 0 []
        (done as (writeRegs h.sender sh (as.zip (ws.flatMap fun w => [w.toNat % 2 ^ 32, w.toNat / 2 ^ 32])) s.chip)))

/-- R5, R6, R8, R9: a write that acts on the fields of a register that are not RWS: RW bits take the written bit, W1C bits clear where a 1
is written (but a bit that the hardware set in the CCLK of the write stays set), every other bit of the register stays, and so does every other register and everything else. LOOP_SAFE_LATCH,
XDC_URG_REQ, CAL_TBL_PAGE and STO_TBL_PAGE act by themselves; the table windows are another matter. -/
def Obligations.WriteActsByAccessCode : Prop :=
  ∀ (x : Sender) (sh : Bool) (a v : Nat) (r : RegRow) (s : Chip), regRow? a = some r → s.tabRef x true a = none →
    (sh = false ∨ r.hasRws = false) → a ≠ 0x80008 → a ≠ 0x48020 → a ≠ 0x70010 → a ≠ 0x9080 →
    let t := writeReg x sh a v s
    (∀ i, i < 32 →
      let cur := (regReset a ^^^ s.regs.direct.get a).getLsbD i
      (regReset a ^^^ t.regs.direct.get a).getLsbD i =
        ((if (r.mask (· == .rw)).testBit i then v.testBit i else cur) && !(v.testBit i && (r.mask (· == .w1c)).testBit i
          && !(s.clk.counting && (s.regs.setNow.get a).getLsbD i)))) ∧
    (∀ b, b ≠ a → t.regs.direct.get b = s.regs.direct.get b) ∧
    t = { s with regs := { s.regs with direct := t.regs.direct } }

/-- R8, R369: a write with bank 1 to a register that holds RWS fields writes the shadow of those fields and nothing else of the
registers: the active bank, the fields that are not RWS and the shadow of every other register keep their values. -/
def Obligations.ShadowWriteLeavesActiveBank : Prop :=
  ∀ (x : Sender) (a v : Nat) (r : RegRow) (s : Chip), regRow? a = some r → s.tabRef x true a = none → r.hasRws = true →
    a ≠ 0x70010 → a ≠ 0x9080 →
    let t := writeReg x true a v s
    (∀ i, i < 32 → (regReset a ^^^ t.regs.shadow.get a).getLsbD i =
      if (r.mask (· == .rws)).testBit i then v.testBit i else (regReset a ^^^ s.regs.shadow.get a).getLsbD i) ∧
    (∀ b, b ≠ a → t.regs.shadow.get b = s.regs.shadow.get b) ∧
    t.regs = { s.regs with shadow := t.regs.shadow } ∧ t = { s with regs := t.regs, cmd := t.cmd }

/-! ### Commits, digests and protection (chapter 15) -/

/-- R370, R312: the frame that a COMMIT, a CONTEXT or a TIME value names by an index and the low 32 bits of its seconds has that index
and those seconds, and no frame that has them lies nearer to the frame given. -/
def Obligations.NamedFrameIsTheNearest : Prop :=
  ∀ near secLo idx : Nat, secLo < 2 ^ 32 → idx < 312500 →
    let n := nearestFrame near secLo idx
    n % 312500 = idx ∧ n / 312500 % 2 ^ 32 = secLo ∧
    ∀ m, m % 312500 = idx → m / 312500 % 2 ^ 32 = secLo → |(n : Int) - near| ≤ |(m : Int) - near|

/-- R370: COMMIT is judged in order: BUSY while one is pending; REFUSED where its epoch is not greater than the active epoch;
LATE_COMMIT before frame g + 2; REFUSED more than 312,500 frames after g; OVER_BUDGET where a ledger of the shadow bank exceeds its
capacity (R24), with TIM_BUDGET_STAT as data and event BUDGET_REFUSED; else it is pending for its frame with its epoch, and nothing
else changes. -/
def Obligations.CommitIsJudgedInOrder : Prop :=
  ∀ (h : CmdHead) (w0 w1 : W64) (s : State), Taken (.commit h w0 w1) s →
    let c := s.chip
    let epoch := w0.toNat / 2 ^ 32
    let target := nearestFrame (c.now / frameFtu) (bits w1.toNat 63 32) (bits w1.toNat 31 13)
    let gives := fun (code : Nat) => Answers (.commit h w0 w1) s code [] c
    if c.cmd.target ≠ none then gives 8
    else if epoch ≤ c.fld F.CMD_EPOCH_ACTIVE then gives 0xA
    else if target < c.clk.frame + 2 then gives 7
    else if c.clk.frame + 312500 < target then gives 0xA
    else match c.asCommitted.failingLedger with
    | some i => ∃ u, Answers (.commit h w0 w1) s 0xC [65536 * (epoch % 65536) + i] u ∧ u.cmd = c.cmd ∧
        u.eventSeen EV.BUDGET_REFUSED = true ∧ u.fld F.TIM_BUDGET_STAT_FAIL_LEDGER = i ∧
        u.fld F.TIM_BUDGET_STAT_FAIL_EPOCH = epoch % 65536 ∧
        u.fld F.TIM_BUDGET_REFUSE_COUNT = satTo F.TIM_BUDGET_REFUSE_COUNT.w (c.fld F.TIM_BUDGET_REFUSE_COUNT + 1)
    | none => ∃ u, Answers (.commit h w0 w1) s 0 [] u ∧ u.fld F.CMD_PEND_EPOCH_EPOCH = epoch ∧
        u.fld F.CMD_PEND_SEC_SEC_LO = frameSec target % 2 ^ 32 ∧ u.fld F.CMD_PEND_IDX_INDEX = frameIdx target ∧
        u = { c with regs := { c.regs with direct := u.regs.direct }, cmd := { c.cmd with target := some target } } ∧
        ∀ a, a ≠ 0x2008 → a ≠ 0x200C → a ≠ 0x2010 → u.regs.direct.get a = c.regs.direct.get a

/-- R370: what the application of a pending commit does: the active bank takes every RWS field of the shadow bank and the shadow stays
as it is, the pending epoch becomes the active one, nothing is pending any more, CMD_COMMIT_CNT counts and COMMIT_APPLIED is raised. -/
def Obligations.AppliedCommitMakesShadowActive : Prop :=
  ∀ s : Chip,
    let t := applyCommit s
    t.regs.active = s.regs.shadow ∧ t.regs.shadow = s.regs.shadow ∧ t.cmd.target = none ∧
    t.fld F.CMD_EPOCH_ACTIVE = s.fld F.CMD_PEND_EPOCH_EPOCH ∧ t.fld F.CMD_PEND_EPOCH_EPOCH = 0 ∧
    t.fld F.CMD_PEND_SEC_SEC_LO = 0 ∧ t.fld F.CMD_PEND_IDX_INDEX = 0 ∧
    t.fld F.CMD_COMMIT_CNT_COUNT = satTo 32 (s.fld F.CMD_COMMIT_CNT_COUNT + 1) ∧ t.eventSeen EV.COMMIT_APPLIED = true ∧
    t.clk = s.clk ∧ t.net = s.net ∧ (s.memsWf → t.memsWf)

/-- R372, R373, R375: DISCARD answers OK, takes the pending commit back and gives every RWS field of the shadow its active value; EPOCH
answers OK with the active and the pending epoch, the pending target and CMD_STAT, and changes nothing; DIGEST answers OK with the four
digests of the banks as they stand, in order: active common, active full, shadow common, shadow full. -/
def Obligations.DiscardEpochAndDigestComplete : Prop :=
  ∀ (h : CmdHead) (s : State),
    (Taken (.discard h) s → ∃ u, Answers (.discard h) s 0 [] u ∧ u.regs.shadow = s.chip.regs.active ∧
      u.regs.active = s.chip.regs.active ∧ u.cmd.target = none ∧ u.fld F.CMD_PEND_EPOCH_EPOCH = 0 ∧ u.fld F.CMD_PEND_SEC_SEC_LO = 0 ∧
      u.fld F.CMD_PEND_IDX_INDEX = 0 ∧ u.fld F.CMD_EPOCH_ACTIVE = s.chip.fld F.CMD_EPOCH_ACTIVE ∧ u.clk = s.chip.clk) ∧
    (Taken (.epoch h) s → Answers (.epoch h) s 0
      [2 ^ 32 * s.chip.fld F.CMD_EPOCH_ACTIVE + s.chip.fld F.CMD_PEND_EPOCH_EPOCH,
       2 ^ 32 * s.chip.fld F.CMD_PEND_SEC_SEC_LO + 2 ^ 13 * s.chip.fld F.CMD_PEND_IDX_INDEX, s.chip.regValue .side false 0x2000]
      s.chip) ∧
    (Taken (.digest h) s → ∃ u, Answers (.digest h) s 0 (u.cmd.digests.map (·.toNat)) u ∧ u.cmd.digDirty = false ∧
      u.cmd.digests = (if s.chip.cmd.digDirty then s.chip.computeDigests else s.chip.cmd.digests) ∧
      u = { s.chip with cmd := { s.chip.cmd with digests := u.cmd.digests, digDirty := false } })

/-- R366, R367, R368, R362: PROT_WR answers REFUSED and changes nothing where, with the words that wait already, both ceilings would
end above 0. Else it answers OK and raises PROT_CHANGED; its words wait for the tick, or before lock take effect at once. A word
sets the two levels of its group, or, with INDEX 64 or 65, the ceiling of the ring or of the side port, and no other register. -/
def Obligations.ProtWriteKeepsOneCeilingOpen : Prop :=
  (∀ (h : CmdHead) (ws : List W64) (s : State), Taken (.protWr h ws) s →
    let c := s.chip
    let after := ceilAfter (c.cmd.protNext ++ ws) (c.fld F.CMD_CEIL_RING, c.fld F.CMD_CEIL_SIDE)
    (after.1 ≠ 0 → after.2 ≠ 0 → Answers (.protWr h ws) s 0xA [] c) ∧
    (after.1 = 0 ∨ after.2 = 0 → ∃ u, Answers (.protWr h ws) s 0 [] u ∧ u.eventSeen EV.PROT_CHANGED = true ∧
      (c.clk.counting = true → Announces { c with cmd := { c.cmd with protNext := c.cmd.protNext ++ ws } } u) ∧
      (c.clk.counting = false → Announces (protApply ws c) u))) ∧
  (∀ (w : W64) (s : Chip),
    let i := bits w.toNat 15 8
    let t := protWord w s
    (i < 64 → t.fld (F.CMD_PROT_WRITE i) = bits w.toNat 5 4 ∧ t.fld (F.CMD_PROT_READ i) = bits w.toNat 1 0) ∧
    (i = 64 → t.fld F.CMD_CEIL_RING = bits w.toNat 1 0 ∧ t.fld F.CMD_CEIL_SIDE = s.fld F.CMD_CEIL_SIDE) ∧
    (i = 65 → t.fld F.CMD_CEIL_SIDE = bits w.toNat 1 0 ∧ t.fld F.CMD_CEIL_RING = s.fld F.CMD_CEIL_RING) ∧
    t = { s with regs := { s.regs with direct := t.regs.direct } } ∧
    ∀ a, a ≠ (if i < 64 then 0x2100 + 4 * i else 0x2200) → t.regs.direct.get a = s.regs.direct.get a)

/-- R335, R336: TIME_SET and TIME_ADJ answer REFUSED while DISC_EN is 1 and an upstream is selected; a TIME_ADJ whose result lies below
second 0 answers BAD_LEN. Else they answer OK: network time takes the value of TIME_SET, reduced to FTU, or steps by the offset of
a TIME_ADJ with MODE 1, at the next tick; a TIME_ADJ with MODE 0 leaves its offset to be slewed off. Network time now stays. -/
def Obligations.TimeCommandsWaitForTheTick : Prop :=
  ∀ (h : CmdHead) (w0 w1 : W64) (s : State),
    let c := s.chip
    let held := c.flag F.TIM_NET_CFG_DISC_EN && c.upstream.isSome
    let steps := fun (x : TimeStep) => ({ c with clk := { c.clk with pendSteps := c.clk.pendSteps ++ [x] } } : Chip)
    (Taken (.timeSet h w0 w1) s →
      if held then Answers (.timeSet h w0 w1) s 0xA [] c
      else Answers (.timeSet h w0 w1) s 0 [] (steps (.setTo (ofTime128 w1.toNat (bits w0.toNat 63 32) (bits w0.toNat 31 16))))) ∧
    (Taken (.timeAdjStep h w0 w1) s →
      if held then Answers (.timeAdjStep h w0 w1) s 0xA [] c
      else if (c.now : Int) + w0.toInt < 0 then Answers (.timeAdjStep h w0 w1) s 4 [] c
      else Answers (.timeAdjStep h w0 w1) s 0 [] (steps (.shift w0.toInt))) ∧
    (Taken (.timeAdjSlew h w0 w1) s →
      if held then Answers (.timeAdjSlew h w0 w1) s 0xA [] c
      else if (c.now : Int) + w0.toInt < 0 then Answers (.timeAdjSlew h w0 w1) s 4 [] c
      else Answers (.timeAdjSlew h w0 w1) s 0 [] { c with net := { c.net with slew := c.net.slew - 256 * w0.toInt } })

/-- R434, R5, R6: EVT_ACK clears the status bits of MASK in its group and no other bit of the chip, and answers REFUSED for a group above
11; a write of 1 to status bits (W1C) clears the same bits, whatever the bank. A bit that was raised in the same CCLK stays set. -/
def Obligations.EventStatusClearsByMask : Prop :=
  (∀ (h : CmdHead) (w0 : W64) (s : State), Taken (.evtAck h w0) s →
    let g := bits w0.toNat 35 32
    (11 < g → Answers (.evtAck h w0) s 0xA [] s.chip) ∧
    (g ≤ 11 → ∃ u, Answers (.evtAck h w0) s 0 [] u ∧ u = { s.chip with regs := { s.chip.regs with direct := u.regs.direct } } ∧
      (∀ a, a ≠ 0x3100 + 16 * g → u.regs.direct.get a = s.chip.regs.direct.get a) ∧
      ∀ e, e < 384 → u.eventSeen e = (s.chip.eventSeen e && !(e / 32 == g && w0.toNat.testBit (e % 32)
        && !(s.chip.clk.counting && (s.chip.regs.setNow.get (0x3100 + 16 * g)).getLsbD (e % 32)))))) ∧
  (∀ (h : CmdHead) (g : Fin 12) (m : W32) (s : State), Taken (.evtStatClear h g m) s →
    ∃ u, Answers (.evtStatClear h g m) s 0 [] u ∧
      (∀ a, a ≠ 0x3100 + 16 * g.val → u.regs.direct.get a = s.chip.regs.direct.get a) ∧
      u = { s.chip with regs := { s.chip.regs with direct := u.regs.direct }
                        cmd := { s.chip.cmd with written := s.chip.cmd.written ++ [(0x3100 + 16 * g.val, h.priv.toNat)] } } ∧
      ∀ e, e < 384 → u.eventSeen e = (s.chip.eventSeen e && !(e / 32 == g.val && m.toNat.testBit (e % 32)
        && decide (e % 32 < nth 0 [14, 10, 23, 16, 5, 10, 9, 3, 5, 6, 9, 19] g.val)
        && !(s.chip.clk.counting && (s.chip.regs.setNow.get (0x3100 + 16 * g.val)).getLsbD (e % 32)))))

/-- R296, R348, R400, R419: the commands that wait for the tick. DOMAIN_RESET notes its domains (REFUSED for a bit above 9); SWITCH
is NOT_PAIRED on an unpaired device and REFUSED on a standby; CLEAR waits; STORE_CTL waits with its action and its range. -/
def Obligations.ResetPairAndStoreCommandsWait : Prop :=
  ∀ (h : CmdHead) (w0 : W64) (s : State),
    let c := s.chip
    (Taken (.domainReset h w0) s →
      if 1023 < w0.toNat % 65536 then Answers (.domainReset h w0) s 0xA [] c
      else Answers (.domainReset h w0) s 0 [] { c with rst := { c.rst with drstNext := c.rst.drstNext ||| (w0.toNat % 65536) } }) ∧
    (Taken (.switch h w0) s →
      if c.pair.paired = false then Answers (.switch h w0) s 0xB [] c
      else if c.fld F.PAIR_STAT_ROLE = 2 then Answers (.switch h w0) s 0xA [] c
      else Answers (.switch h w0) s 0 [] { c with pair := { c.pair with switchNext := true } }) ∧
    (Taken (.clear h w0) s → Answers (.clear h w0) s 0 [] { c with pair := { c.pair with clearNext := true } }) ∧
    (∀ (i : Instr) (first last : Fin 262144) (action : Nat),
      (i = .storeCtlLock h first last ∧ action = 1) ∨ (i = .storeCtlUnlock h first last ∧ action = 2)
        ∨ (i = .storeCtlFree h first last ∧ action = 3) ∨ (i = .storeCtlResync h first last ∧ action = 4) →
      Taken i s → ∃ w : W64, Answers i s 0 [] { c with sto := { c.sto with ctl := c.sto.ctl ++ [w] } } ∧
        bits w.toNat 3 0 = action ∧ bits w.toNat 41 24 = first.val ∧ bits w.toNat 61 44 = last.val)

/-- R292, R296: LANE_CTL. JOIN answers REFUSED without its conditions (both ports TRAINED, neither in TEST, both lane PLLs locked, no
address error); else JOIN and LEAVE set the pending ring action. RETRAIN waits. MODE 3, and MODE to a named port that is not
TRAINED, are REFUSED, and so are a loopback or PRBS with a setting other than 0 while INRING is high; else the words wait for the
tick in command order, with their ports and settings. -/
def Obligations.LaneCommandsAreRefusedOrWait : Prop :=
  ∀ (h : CmdHead) (s : State),
    let c := s.chip
    let waits := fun (w : W64) => ({ c with ring := { c.ring with laneArgs := c.ring.laneArgs ++ [w] } } : Chip)
    let named := fun (ports : Fin 4) (p : Port) => ports.val.testBit p.ix
    let mayJoin := c.flag F.GLB_RST_STAT_ADDR_ERR = false ∧ ∀ p : Port, c.trained p = true ∧ c.inTest p = false ∧
      c.flag (F.LN_STAT_PLL_LOCK p.ix) = true
    (Taken (.join h) s →
      (mayJoin → Answers (.join h) s 0 [] { c with ring := { c.ring with joinAct := some true } }) ∧
      (¬ mayJoin → Answers (.join h) s 0xA [] c)) ∧
    (Taken (.leave h) s → Answers (.leave h) s 0 [] { c with ring := { c.ring with joinAct := some false } }) ∧
    (∀ (ports : Fin 4) (rate : Bool), Taken (.retrain h ports rate) s →
      ∃ w : W64, Answers (.retrain h ports rate) s 0 [] (waits w) ∧ bits w.toNat 3 0 = 3 ∧ w.toNat.testBit 16 = rate ∧
        bits w.toNat 5 4 = ports.val) ∧
    (∀ ports mode : Fin 4, Taken (.laneCtlMode h ports mode) s →
      ((mode = 3 ∨ ∃ p, named ports p = true ∧ c.trained p = false) → Answers (.laneCtlMode h ports mode) s 0xA [] c) ∧
      (¬ (mode = 3 ∨ ∃ p, named ports p = true ∧ c.trained p = false) →
        ∃ w : W64, Answers (.laneCtlMode h ports mode) s 0 [] (waits w) ∧ bits w.toNat 3 0 = 4 ∧ bits w.toNat 9 8 = mode.val ∧
          bits w.toNat 5 4 = ports.val)) ∧
    (∀ ports code : Fin 4, Taken (.laneCtlLoop h ports code) s →
      if code ≠ 0 ∧ c.inring = true then Answers (.laneCtlLoop h ports code) s 0xA [] c
      else ∃ w : W64, Answers (.laneCtlLoop h ports code) s 0 [] (waits w) ∧ bits w.toNat 3 0 = 5 ∧ bits w.toNat 13 12 = code.val ∧
        bits w.toNat 5 4 = ports.val) ∧
    (∀ (ports : Fin 4) (on : Bool), Taken (.laneCtlPrbs h ports on) s →
      if on = true ∧ c.inring = true then Answers (.laneCtlPrbs h ports on) s 0xA [] c
      else ∃ w : W64, Answers (.laneCtlPrbs h ports on) s 0 [] (waits w) ∧ bits w.toNat 3 0 = 6 ∧ w.toNat.testBit 17 = on ∧
        bits w.toNat 5 4 = ports.val)

/-- R356, R394, R107, R115, R116, R204, R222: NOP answers OK and does nothing; DIAG_WR is REFUSED without DIAG_EN and else flips, poisons
or checks its word; FIRE, FORCE, ARM, CAL_START and CAL_APPLY hand their arguments on and answer OK, but a CAL_APPLY that names no
procedure with pending results is REFUSED. -/
def Obligations.EngineCommandsReachTheirEngines : Prop :=
  ∀ (h : CmdHead) (w0 w1 w2 : W64) (s : State),
    let c := s.chip
    let m := bits w0.toNat 63 60
    let w := bits w0.toNat 54 32
    let diag := fun (i : Instr) (u : Chip) => Taken i s →
      if c.flag F.MIN_CTL_DIAG_EN = true then Answers i s 0 [] u else Answers i s 0xA [] c
    (Taken (.nop h) s → Answers (.nop h) s 0 [] c) ∧
    diag (.diagWrFlip h w0 w1) (diagFlip m w (w0.toNat.testBit 31) (bits w0.toNat 23 16) w1.toNat c) ∧
    diag (.diagWrPoison h w0 w1) (diagPoison m w c) ∧
    diag (.diagWrCheck h w0 w1) (blockCheck 3 m (w / 8) c) ∧
    (Taken (.arm h w0) s → Answers (.arm h w0) s 0 [] (armIn w0 c)) ∧
    (Taken (.fire h w0 w1 w2) s → Answers (.fire h w0 w1 w2) s 0 [] (fireIn true w0 w1 w2 c.now c)) ∧
    (Taken (.force h w0) s → Answers (.force h w0) s 0 [] (forceIn w0 c)) ∧
    (∀ mask : Fin 256, (Taken (.calStart h mask) s → Answers (.calStart h mask) s 0 [] (startRuns mask.val c)) ∧
      (Taken (.calAbort h mask) s → Answers (.calAbort h mask) s 0 [] (abortRuns mask.val c))) ∧
    (Taken (.calApply h w0) s →
      ((∃ i, i < 8 ∧ w0.toNat.testBit i = true ∧ (c.calProc i).pend = true) →
        Answers (.calApply h w0) s 0 [] (applyRuns (bits w0.toNat 7 0) c).2) ∧
      (¬ (∃ i, i < 8 ∧ w0.toNat.testBit i = true ∧ (c.calProc i).pend = true) → Answers (.calApply h w0) s 0xA [] c))

/-- R360, R361, R363, R417: a side-port transaction does nothing before the side port opens. A command is discarded and counted in
CMD_SIDE_OVF while all 16 places are taken, or where its length is not 8 × (PLEN + 2), then with the answer BAD_LEN if a header was
received. A command of the right length joins the end of the batch of the frame; over the limit of 16 it is marked to be answered
BUSY. A fetch takes the first status from the queue if its last byte was clocked; any other selecting byte is counted. MMISO carries 0
while the selecting byte comes in, then in a fetch the flag 0xA5 and the status, and 0 in everything else; it is high impedance while the
port is closed. -/
def Obligations.SidePortTransactionsComplete : Prop :=
  ∀ s : State,
    let c := s.chip
    let gives := fun (i : Instr) (u : Chip) => exec i s = .next { s with chip := u }
    let ovf := c.bump F.CMD_SIDE_OVF_COUNT
    (∀ bytes : List Byte,
      let ws := sideWords bytes
      let cmd : Command := ⟨.side, ws, false⟩
      let i := Instr.sidePortCommand bytes
      if c.sideOpen = false then gives i c
      else if 16 ≤ c.cmd.sideQ.length + c.cmd.batch.countP Command.fromSide then gives i ovf
      else if bytes.length < 8 then gives i ovf
      else if bytes.length ≠ 8 * (cmd.plen + 2) then
        gives i (sendStatus .side (c.statusWords cmd 4 []) (noteReject cmd 4 ovf))
      else if c.clk.counting then
        gives i { c with cmd := { c.cmd with
          batch := c.cmd.batch ++ [⟨.side, ws, decide (16 ≤ c.cmd.batch.countP fun x => !x.excess)⟩] } }
      else gives i { runCommand cmd c with cmd := { (runCommand cmd c).cmd with written := [] } }) ∧
    (∀ n : Nat,
      let i := Instr.sidePortStatusFetch n
      if c.sideOpen = false then gives i c
      else match c.cmd.sideQ with
      | [] => gives i c
      | ws :: rest => gives i (if 1 + 8 * ws.length ≤ n then { c with cmd := { c.cmd with sideQ := rest } } else c)) ∧
    (∀ b : Byte, b ≠ 0x5C#8 → b ≠ 0x5A#8 → gives (.sidePortUnknown b) (if c.sideOpen then ovf else c)) ∧
    (∀ (b : Byte) (n : Nat), c.sideOpen = false → c.mmiso b n = none) ∧
    (c.sideOpen = true →
      (∀ (b : Byte) (n : Nat), b ≠ 0x5A#8 ∨ c.cmd.sideQ = [] → c.mmiso b n = some (List.replicate (n + 1) 0)) ∧
      (∀ (ws : List W64) (rest : List (List W64)) (n : Nat), c.cmd.sideQ = ws :: rest →
        c.mmiso 0x5A#8 (1 + 8 * ws.length + n) = some (0 :: 0xA5 :: ws.flatMap wordBytes ++ List.replicate n 0)))


/-! ### The time base and the resets (chapters 01 and 18) -/

/-- R36, R38, R40: the loss of the time reference. TREF_LOST while TREF is present, before the first lock as after it, and TPLL_UNLOCK
while the PLL is locked, clear TREF_PRESENT and TPLL_LOCK, set HOLDOVER, record the loss frame, count the loss and raise their events; the
data of that frame and of every later one are uncertain, the results of it that XHIST holds already among them. The loss frame of TREF_LOST
is that of the last good edge of TREF. In any other state the rows do nothing. -/
def Obligations.LossOfReferenceStartsHoldover : Prop :=
  ∀ s : State,
    let c := s.chip
    let lost := fun (f : Nat) (u : Chip) =>
      u.flag F.TIM_STAT_TREF_PRESENT = false ∧
      u.flag F.TIM_STAT_TPLL_LOCK = false ∧ u.flag F.TIM_STAT_HOLDOVER = true ∧ u.fld F.TIM_LOSS_IDX_INDEX = frameIdx f ∧
      u.fld F.TIM_LOSS_SEC_SEC = frameSec f % 2 ^ 32 ∧ u.fld F.TIM_HOLD_FRAMES_FRAMES = 0 ∧
      u.fld F.TIM_TREF_LOSS_COUNT = satTo F.TIM_TREF_LOSS_COUNT.w (c.fld F.TIM_TREF_LOSS_COUNT + 1) ∧
      u.eventSeen EV.TREF_LOST = true ∧ (c.tuncOpen = false → ∀ g, f ≤ g → u.tunc g = true) ∧
      (c.clk.tuncs = [] → ∀ g, u.tunc g = decide (f ≤ g)) ∧ (c.tuncOpen = true → u.clk.tuncs = c.clk.tuncs) ∧
      u.clk = { c.clk with presentFrames := 0, tuncs := u.clk.tuncs } ∧
      u.net = c.net ∧ u.regs.active = c.regs.active ∧ u.regs.shadow = c.regs.shadow ∧
      (∀ a, shipAddr a = false → (a < 0x1000 ∨ 0x2000 ≤ a) → u.regs.direct.get a = c.regs.direct.get a) ∧
      ((∀ o ∈ (c.region 6).objs, o.tag ≠ f) → u.mems = c.mems)
    (∀ ago : Fin 40, c.timeUp = true → c.flag F.TIM_STAT_TREF_PRESENT = true → Does (.trefLost ago) s (lost (c.frameAgo ago))) ∧
    (∀ ago : Nat, c.clk.counting = true → (ago ≤ c.clk.cclk → c.frameAgo ago = c.clk.frame) ∧
      (c.clk.cclk < ago → c.frameAgo ago = c.clk.lastFrame)) ∧
    (c.timeUp = true → c.flag F.TIM_STAT_TPLL_LOCK = true →
      Does .tpllUnlock s fun u => lost c.frameNow u ∧ u.eventSeen EV.TPLL_UNLOCK = true) ∧
    (∀ ago : Fin 40, c.timeUp = false ∨ c.flag F.TIM_STAT_TREF_PRESENT = false → exec (.trefLost ago) s = .next s) ∧
    (c.timeUp = false ∨ c.flag F.TIM_STAT_TPLL_LOCK = false → exec .tpllUnlock s = .next s)

/-- R39, R40, R417: the return of the reference. TREF_PRESENT sets its status bit and starts the count of presence, and does nothing
else. TREF_RESTORED, after TIM_RELOCK.FRAMES frames of presence (never fewer than 64) and 64 more, sets TPLL_LOCK, clears HOLDOVER,
raises its event, and ends the uncertain span with the frame in progress. The first TPLL_LOCK after PORST_N sets TPLL_LOCK. -/
def Obligations.ReturnOfReferenceEndsHoldover : Prop :=
  ∀ s : State,
    let c := s.chip
    (c.rst.porst = false → c.rst.supply = false → c.flag F.TIM_STAT_TREF_PRESENT = false →
      Does .trefPresent s fun u => u.flag F.TIM_STAT_TREF_PRESENT = true ∧
        u = { c with clk := { c.clk with presentFrames := c.presentNow }, regs := { c.regs with direct := u.regs.direct } } ∧
        ∀ a, a ≠ F.TIM_STAT_TREF_PRESENT.addr → u.regs.direct.get a = c.regs.direct.get a) ∧
    (c.timeUp = true → c.clk.everLock = true → c.flag F.TIM_STAT_TREF_PRESENT = true → c.flag F.TIM_STAT_HOLDOVER = true →
      max 64 (c.fld F.TIM_RELOCK_FRAMES) + 64 < c.clk.presentFrames →
      Does .trefRestored s fun u => u.flag F.TIM_STAT_TPLL_LOCK = true ∧ u.flag F.TIM_STAT_HOLDOVER = false ∧
        u.eventSeen EV.TREF_RESTORED = true ∧ u.clk = { c.clk with tuncs := u.clk.tuncs } ∧
        (∀ g, g ≤ c.clk.frame → u.tunc g = c.tunc g) ∧
        ((∀ x ∈ c.clk.tuncs.drop 1, ∀ e, x.2 = some e → e ≤ c.clk.frame) → (∀ x ∈ c.clk.tuncs.drop 1, x.2 ≠ none) → c.tuncOpen = true →
          ∀ g, c.clk.frame < g → u.tunc g = false)) ∧
    (c.timeUp = true → c.flag F.TIM_STAT_HOLDOVER = true →
      c.clk.presentFrames ≤ max 64 (c.fld F.TIM_RELOCK_FRAMES) + 64 → exec .trefRestored s = .next s) ∧
    (∀ us : Nat, c.rst.porst = false → c.rst.supply = false → c.clk.everLock = false →
      Does (.tpllLock us) s fun u => u.clk.everLock = true ∧ u.flag F.TIM_STAT_TPLL_LOCK = true ∧ u.flag F.TIM_STAT_TREF_PRESENT = true ∧
        u.flag F.TIM_STAT_HOLDOVER = false ∧ (c.flag F.TIM_STAT_HOLDOVER = true → u.eventSeen EV.TREF_RESTORED = true) ∧
        (u.rst.ready = true ↔ c.rst.ready = true ∨ (c.up = true ∧ c.rst.calDone = true ∧ c.rst.memDone = true)))

/-- R35: the conversion between a time in FTU and a TIME128 goes there and back without loss, and the low word of the TIME128 of
every time has its three fields in their places; the frame and ToA of a TIME128 follow the inverse rules, which truncate. -/
def Obligations.Time128ConversionRoundTrips : Prop :=
  (∀ t : Nat, ofTime128 (ftuSec t) (ftuNanos t) (ftuSubns t) = t) ∧
  (∀ t : Nat, ftuNanos t < 10 ^ 9 ∧ ftuSubns t < 65536) ∧
  (∀ t q : Nat, q < 256 → bits (time128Lo t q) 63 32 = ftuNanos t ∧ bits (time128Lo t q) 31 16 = ftuSubns t ∧
    bits (time128Lo t q) 15 8 = q ∧ bits (time128Lo t q) 7 0 = 0) ∧
  (∀ sec idx a : Nat, idx < 312500 → a < 1048576 →
    let t := (sec * 312500 + idx) * 1048576 + a
    ftuSec t = sec ∧ ftuNanos t = 3200 * idx + 200 * a / 65536 ∧ ftuSubns t = 200 * a % 65536) ∧
  (∀ sec ns sub : Nat, ns < 10 ^ 9 → sub < 65536 → ofTime128 sec ns sub / 1048576 = sec * 312500 + ns / 3200 ∧
    ofTime128 sec ns sub % 1048576 = ((ns % 3200) * 65536 + sub) / 200)

/-- R17, R18, R19, R20: what LOCAL_FRAME_TICK does to the time base, in every state of a device with its first lock behind it and neither
PORST_N nor a supply monitor in force (ready or not, in a warm reset or not): with no step waiting the next frame starts, after its last
CCLK, with the residual of the new tick; the first tick after lock starts the frame counter; the steps that wait take effect in their
order and start the frame that contains the new time. A slip raises FRAME_SLIP and a step TIME_STEP (here where no command waits that
could acknowledge it). Before the first lock there is no tick. -/
def Obligations.FrameTickMovesTheTimeBase : Prop :=
  ∀ s : State,
    let c := s.chip
    let units := c.clk.tick + c.frameCclk * c.unitsPerCclk
    let stepped := c.clk.pendSteps.foldl TimeStep.apply units
    let ticked := fun (u : Chip) => u.clk.counting = true ∧ u.clk.cclk = 0 ∧ u.clk.ticks = c.clk.ticks + 1 ∧
      u.clk.lastFrame = c.clk.frame ∧ u.clk.everLock = true ∧ u.clk.tuncs = c.clk.tuncs
    (c.rst.porst = true ∨ c.rst.supply = true ∨ c.clk.everLock = false → exec .localFrameTick s = .next s) ∧
    (c.rst.porst = false → c.rst.supply = false → c.clk.everLock = true →
      (c.clk.counting = true → c.clk.pendSteps = [] → Does .localFrameTick s fun u => ticked u ∧
        u.clk.frame = c.clk.frame + 1 ∧ u.clk.tick = units ∧ u.clk.cc = c.clk.cc + c.frameCclk ∧
        u.clk.residual = (units - (c.clk.frame + 1) * frameUnits) / unitsPerFtu ∧ u.clk.steppedIn = false ∧
        (c.clk.steppedIn = false → c.frameCclk ≠ 2048 → c.cmd.batch = [] → u.eventSeen EV.FRAME_SLIP = true)) ∧
      (c.clk.counting = true → c.clk.pendSteps ≠ [] → Does .localFrameTick s fun u => ticked u ∧
        u.clk.frame = stepped / frameUnits ∧ u.clk.tick = stepped ∧ u.clk.cc = c.clk.cc + c.frameCclk ∧
        u.clk.residual = stepped % frameUnits / unitsPerFtu ∧ u.clk.steppedIn = true ∧
        (c.cmd.batch = [] → u.clk.pendSteps = [] ∧ u.eventSeen EV.TIME_STEP = true)) ∧
      (c.clk.counting = false → Does .localFrameTick s fun u => ticked u ∧
        u.clk.frame = c.clk.frame ∧ u.clk.tick = c.clk.tick ∧ u.clk.cc = c.clk.cc))

/-- R414, R11, R20, R201, R285: WRST_N, while neither PORST_N nor a supply monitor is in force. The time base, the TIM registers (but the budget
ledgers, which follow the active bank), the lock of the lane PLLs and the sampled strap with its error are kept; every other register
returns to its reset value, every memory to clean reset contents, and every unit to its reset state, but for the level of FTO and the
last-good taps of the lanes. Network time keeps its value and its correction; a TIME exchange under way ends. The JTAG port is not affected. While PORST_N or a monitor is in force, it governs. -/
def Obligations.WarmResetKeepsTheTimeBase : Prop :=
  ∀ s : State,
    let c := s.chip
    let exch := fun (x : Exch) => ({ Exch.initial with xseq := x.xseq } : Exch)
    (c.rst.porst = false → c.rst.supply = false → Does .wrstN s fun u =>
      (∀ f : Fld, 0x1000 ≤ f.addr → f.addr < 0x2000 → (∀ i, i < 8 → f.addr ≠ (F.TIM_LEDGER_ACTIVE i).addr) → u.fld f = c.fld f) ∧
      (∀ p : Port, u.fld (F.LN_STAT_PLL_LOCK p.ix) = c.fld (F.LN_STAT_PLL_LOCK p.ix)) ∧
      u.fld F.GLB_RST_STAT_STRAP = c.fld F.GLB_RST_STAT_STRAP ∧ u.fld F.GLB_RST_STAT_ADDR_ERR = c.fld F.GLB_RST_STAT_ADDR_ERR ∧
      (∀ f : Fld, f.addr < 0x1000 ∨ 0x2000 ≤ f.addr → f.addr ≠ F.GLB_RST_STAT_STRAP.addr →
        (∀ p : Port, f.addr ≠ (F.LN_STAT_PLL_LOCK p.ix).addr) → u.fld f = bits (regReset f.addr).toNat (f.lo + f.w - 1) f.lo) ∧
      (∀ m w, m < 12 → u.memData m w = (memReset m w).toNat ∧ u.poisoned m w = false) ∧
      u = { Chip.initial with
        regs := u.regs
        clk := c.clk
        net := { c.net with nbrUp := false, exE := exch c.net.exE, exW := exch c.net.exW }
        rst := { RstSt.initial with wrst := true }
        pins := { Chip.initial.pins with extEvt := c.pins.extEvt, extBlankA := c.pins.extBlankA, extBlankB := c.pins.extBlankB,
                                         fto := c.pins.fto }
        laneE := { LaneSt.initial with lastGood := c.laneE.lastGood }
        laneW := { LaneSt.initial with lastGood := c.laneW.lastGood }
        free := c.free }) ∧
    (c.rst.porst = true ∨ c.rst.supply = true → Does .wrstN s fun u =>
      u = powerReset { c with rst := { c.rst with wrst := true } })

/-- R414 to R417: the way to ready. RESET_RELEASE ends the resets in force; after PORST_N or a supply monitor it samples the strap,
and a strap of 0 or 31 sets ADDR_ERR and raises STRAP_ERR. CAL_ROWS_LOADED and MEMORY_INIT_COMPLETE note their condition, and the last
of the three conditions makes the device ready: READY is set, GLB_INIT_US written, and SYS_READY raised. -/
def Obligations.ReadinessNeedsThreeConditions : Prop :=
  ∀ s : State,
    let c := s.chip
    let readies := fun (us : Nat) (u : Chip) => u.rst.ready = true ∧ u.flag F.GLB_RST_STAT_READY = true ∧
      u.fld F.GLB_INIT_US_US = satTo 16 us ∧ u.eventSeen EV.SYS_READY = true ∧ u.scrub.running = true
    (∀ a : Fin 32, c.up = false → Does (.resetRelease a) s fun u =>
      u.rst = RstSt.initial ∧ u.clk = c.clk ∧
      (c.rst.porst = true ∨ c.rst.supply = true → u.fld F.GLB_RST_STAT_STRAP = a.val ∧
        ((a = 0 ∨ a = 31) → u.flag F.GLB_RST_STAT_ADDR_ERR = true ∧ u.eventSeen EV.STRAP_ERR = true) ∧
        (a ≠ 0 → a ≠ 31 → u.flag F.GLB_RST_STAT_ADDR_ERR = c.flag F.GLB_RST_STAT_ADDR_ERR)) ∧
      (c.rst.porst = false → c.rst.supply = false → u.fld F.GLB_RST_STAT_STRAP = c.fld F.GLB_RST_STAT_STRAP ∧
        u.fld F.GLB_RST_STAT_ADDR_ERR = c.fld F.GLB_RST_STAT_ADDR_ERR)) ∧
    (∀ a : Fin 32, c.up = true → exec (.resetRelease a) s = .next s) ∧
    (∀ us : Nat, c.up = true → c.rst.ready = false → Does (.calRowsLoaded us) s fun u => u.rst.calDone = true ∧ u.clk = c.clk ∧
      (c.rst.memDone = true → c.clk.everLock = true → readies us u) ∧
      (c.rst.memDone = false ∨ c.clk.everLock = false → u = { c with rst := { c.rst with calDone := true } })) ∧
    (∀ us : Nat, c.up = true → c.rst.ready = false → Does (.memoryInitComplete us) s fun u => u.rst.memDone = true ∧ u.clk = c.clk ∧
      (c.rst.calDone = true → c.clk.everLock = true → readies us u) ∧
      (c.rst.calDone = false ∨ c.clk.everLock = false → u = { c with rst := { c.rst with memDone := true } })) ∧
    (∀ us : Nat, c.up = false → exec (.calRowsLoaded us) s = .next s ∧ exec (.memoryInitComplete us) s = .next s)

/-- R419: DOMAIN_RESET_RELEASE, 64 CCLK after the tick at which domains entered reset: they are released together, GLB_DRST_STAT takes
the mask, GLB_DRST_CNT counts and DRST_DONE is raised. LAWN starts the Folly's cadence again, XDC a sequence where a profile is in force,
and a port trains where it is enabled and its lane PLL is locked; every other unit goes on as it is, and so do the clock, both banks and,
where no port of the mask was still TRAINED, every memory. Before that, and with no domain in reset, nothing happens. At the tick, the
domains that wait enter reset; TRG then holds no window, event, pending fire, waiting hit or record in assembly, XDC no running entry, no
entry to visit and no pass that is due. -/
def Obligations.DomainsEnterResetAndAreReleased : Prop :=
  (∀ s : State,
    let c := s.chip
    (c.rst.drstNow ≠ 0 → c.rst.drstNow < 1024 → 64 ≤ c.clk.cclk → Does .domainResetRelease s fun u =>
      u.rst = { c.rst with drstNow := 0 } ∧ u.fld F.GLB_DRST_STAT_MASK = c.rst.drstNow ∧
      u.fld F.GLB_DRST_CNT_COUNT = satTo F.GLB_DRST_CNT_COUNT.w (c.fld F.GLB_DRST_CNT_COUNT + 1) ∧
      u.eventSeen EV.DRST_DONE = true ∧ u.clk = c.clk ∧ u.regs.active = c.regs.active ∧ u.regs.shadow = c.regs.shadow ∧
      u.lawn = (if c.rst.drstNow.testBit 0 then { c.lawn with follyBase := 2 * c.cclkNow, follyLast := [] } else c.lawn) ∧
      u.xdc = (if c.rst.drstNow.testBit 4 then { c.xdc with due := c.xprofile != 0 } else c.xdc) ∧
      (∀ p : Port, c.rst.drstNow.testBit (8 + p.ix) = true →
        let trains := c.running = true ∧ c.lnEnabled p = true ∧ c.flag (F.LN_STAT_PLL_LOCK p.ix) = true
        (trains → u.lnState p = if c.inTest p then 5 else 1) ∧ (¬ trains → u.lnState p = 0) ∧
        u.fld (F.LN_STAT_LANE_LOCK p.ix) = 0 ∧ u.fld (F.LN_STAT_LMASK_RX p.ix) = 0 ∧ u.fld (F.LN_STAT_RXOK_PART p.ix) = 0) ∧
      ((∀ p : Port, c.rst.drstNow.testBit (8 + p.ix) = true → c.trained p = false) → ∃ d : SMap 32,
        Announces { c with rst := u.rst, lawn := u.lawn, xdc := u.xdc, laneE := u.laneE, laneW := u.laneW, net := u.net
                           regs := { c.regs with direct := d } } u ∧
        ∀ a, 0x1000 ≤ a → (a < 0x4000 ∨ 0x6000 ≤ a) → d.get a = c.regs.direct.get a)) ∧
    (c.rst.drstNow = 0 ∨ c.clk.cclk < 64 → exec .domainResetRelease s = .next s)) ∧
  (∀ c : Chip, c.rst.drstNext = 0 → enterDomains c = c) ∧
  (∀ c : Chip, c.rst.drstNext = 4 →
    let t := enterDomains c
    t.rst = { c.rst with drstNext := 0, drstNow := c.rst.drstNow ||| 4 } ∧ t.trg.conds = [] ∧ t.trg.events = [] ∧ t.trg.pend = [] ∧
    t.trg.merge = [] ∧ t.trg.recs = [] ∧ t.clk = c.clk ∧ t.regs.active = c.regs.active ∧ t.regs.shadow = c.regs.shadow ∧ t.mems = c.mems) ∧
  (∀ c : Chip, c.rst.drstNext = 16 →
    let t := enterDomains c
    t.rst = { c.rst with drstNext := 0, drstNow := c.rst.drstNow ||| 16 } ∧ t.xdc.run = none ∧ t.xdc.todo = [] ∧
    t.xdc.redo = none ∧ t.xdc.due = false ∧ (c.xdc.run.isSome = true → t.fld F.XDC_ABANDON_CNT_COUNT = satTo F.XDC_ABANDON_CNT_COUNT.w (c.fld F.XDC_ABANDON_CNT_COUNT + 1)) ∧
    t.clk = c.clk ∧ t.regs.active = c.regs.active ∧ t.regs.shadow = c.regs.shadow ∧ t.mems = c.mems)

/-! ### Events, temperature, heartbeats (chapters 11, 15, 18 and 19) -/

/-- R432: EVENT_PACKET at a tick, with a raising of the group waiting and HOLDOFF frames passed since its last EVENT. Where the HOME
port takes class 1, its queue is empty and its bucket holds five blocks, the packet is admitted: it carries COUNT, SRC and GROUP, the
frame of the first raising, RAISED and STAT, the group starts again, and EVT_PKT_CNT counts. Where no port is usable it waits. With
nothing to send, the row does nothing. -/
def Obligations.EventPacketCarriesItsGroup : Prop :=
  ∀ (g : Fin 12) (s : State),
    let c := s.chip
    let e := nth ⟨0, 0, 0, none⟩ c.evtG g
    let home := c.homePort
    let due := c.running = true ∧ c.clk.counting = true ∧ c.clk.cclk = 0 ∧ e.count ≠ 0 ∧
      (∀ n, e.since = some n → max 1 (c.fld F.EVT_CTL_HOLDOFF) ≤ n) ∧ c.eventWaits g = false
    (due → c.takes home 1 = true → c.hasTokens home 1 5 = true → (c.port home).wait1 = [] → e.count < 65536 →
      Does (.eventPacket g) s fun u =>
        (∃ q : TxPkt, (u.port home).txq = (c.port home).txq ++ [q] ∧ q.ptype = 0x03#8 ∧ q.cls = 1#2 ∧ q.dest = 0#5 ∧
          q.src.toNat = c.addr % 32 ∧ ∃ w0 w1 w2 : W64, q.words = [w0, w1, w2] ∧ bits w0.toNat 47 32 = e.count ∧
          bits w0.toNat 31 27 = c.addr % 32 ∧ bits w0.toNat 19 16 = g.val ∧ bits w1.toNat 63 32 = frameSec e.first % 2 ^ 32 ∧
          bits w1.toNat 31 13 = frameIdx e.first ∧ bits w2.toNat 63 32 = e.raised % 2 ^ 32 ∧
          bits w2.toNat 31 0 = c.fld (F.EVT_STAT_STAT g)) ∧
        (u.port home).tok1 = (c.port home).tok1 - 2048 * 5 ∧ u.evtG = c.evtG.set g ⟨0, 0, 0, some 0⟩ ∧
        u.fld F.EVT_PKT_CNT_COUNT = satTo F.EVT_PKT_CNT_COUNT.w (c.fld F.EVT_PKT_CNT_COUNT + 1) ∧
        (u.port home).wait1 = [] ∧ u.clk = c.clk ∧ u.regs.active = c.regs.active) ∧
    (due → c.usable .east 1 = false → c.usable .west 1 = false → (c.port home).wait1 = [] → 5 ≤ c.tokDepth home 1 →
      Does (.eventPacket g) s fun u => u.clk = c.clk ∧ u.eventSeen EV.RNG_REFUSED = true ∧
        ∃ o : Offer, (u.port home).wait1 = [o] ∧ o.owner = .event g ∧ o.ptype = 0x03#8) ∧
    (c.running = false ∨ c.clk.cclk ≠ 0 ∨ e.count = 0 ∨ c.eventWaits g = true → exec (.eventPacket g) s = .next s)

/-- R376, R418, R428: the rows of the device's own schedule. CONFIG_HEARTBEAT in its frame with EN = 1 and INRING high sends a copy
by each port that takes class 1 and has seven blocks, with the epochs, the frame and the two active digests; where no port is usable it
counts CMD_HB_DROP; out of its frame it does nothing. AUTOJOIN joins once, at a tick at which the conditions of a JOIN hold.
GLB_TEMP_UPDATE shows the reading, limited to 16 bits, and an armed sensor at or above HIGH raises THERM_HIGH and is disarmed; it is
armed again below HIGH − HYST. -/
def Obligations.OwnScheduleRowsComplete : Prop :=
  ∀ s : State,
    let c := s.chip
    (c.ring.hbFrames = some 0 → c.inring = true → c.running = true → c.flag F.CMD_HB_CTL_EN = true →
      (∀ p : Port, c.takes p 1 = true ∧ c.hasTokens p 1 7 = true) → Does .configHeartbeat s fun u =>
        u.ring.hbFrames = some 1024 ∧ u.fld F.CMD_HB_DROP_COUNT = c.fld F.CMD_HB_DROP_COUNT ∧ ∀ p : Port,
          (u.port p).tok1 = (c.port p).tok1 - 2048 * 7 ∧
          ∃ q : TxPkt, (u.port p).txq = (c.port p).txq ++ [q] ∧ q.ptype = 0x05#8 ∧ q.cls = 1#2 ∧ q.dest = 31#5 ∧
            ∃ w0 w1 w2 w3 w4 : W64, q.words = [w0, w1, w2, w3, w4] ∧ bits w0.toNat 63 56 = 0 ∧ bits w0.toNat 31 27 = c.addr % 32 ∧
            bits w1.toNat 63 32 = c.fld F.CMD_EPOCH_ACTIVE ∧ bits w1.toNat 31 0 = c.fld F.CMD_PEND_EPOCH_EPOCH ∧
            bits w2.toNat 63 32 = frameSec c.frameNow % 2 ^ 32 ∧ bits w2.toNat 31 13 = frameIdx c.frameNow ∧
            w3.toNat = c.digestOf 0 ∧ w4.toNat = c.digestOf 1) ∧
    (c.ring.hbFrames = some 0 → c.inring = true → c.running = true → c.flag F.CMD_HB_CTL_EN = true →
      (∀ p : Port, c.usable p 1 = false) → Does .configHeartbeat s fun u => u.ring.hbFrames = some 1024 ∧
        u.fld F.CMD_HB_DROP_COUNT = satTo F.CMD_HB_DROP_COUNT.w (c.fld F.CMD_HB_DROP_COUNT + 1)) ∧
    (c.ring.hbFrames ≠ some 0 → exec .configHeartbeat s = .next s) ∧
    (c.running = true → c.flag F.GLB_RST_CTL_AUTOJOIN = true → c.rst.autoDone = false → c.joinOk = true →
      c.clk.counting = true → c.clk.cclk = 0 → c.inring = false → Does .autojoin s fun u =>
        u.inring = true ∧ u.rst = { c.rst with autoDone := true } ∧ u.eventSeen EV.RING_JOINED = true ∧
        u.flag F.LNE_RING_JOINED = true ∧ u.ring.hbFrames = some (32 * c.addr)) ∧
    (c.rst.autoDone = true ∨ c.joinOk = false ∨ c.clk.cclk ≠ 0 → exec .autojoin s = .next s) ∧
    (∀ temp : Int, c.running = true → Does (.glbTempUpdate temp) s fun u =>
      let t := max (-32768) (min 32767 temp)
      let high := sext 16 (c.fld F.GLB_TEMP_LIM_HIGH)
      sext 16 (u.fld F.GLB_TEMP_TEMP) = t ∧ u.flag F.GLB_TEMP_VALID = true ∧
      (c.rst.therm = true → high ≤ t → u.eventSeen EV.THERM_HIGH = true ∧ u.rst.therm = false) ∧
      (c.rst.therm = true → t < high → u.rst.therm = true ∧ u.eventSeen EV.THERM_HIGH = c.eventSeen EV.THERM_HIGH) ∧
      (c.rst.therm = false → (u.rst.therm = true ↔ t < high - (c.fld F.GLB_TEMP_LIM_HYST : Nat)) ∧
        u.eventSeen EV.THERM_HIGH = c.eventSeen EV.THERM_HIGH)) ∧
    (∀ temp : Int, c.running = false → exec (.glbTempUpdate temp) s = .next s)

/-! ### The Lawn (chapter 02) -/

/-- R49, R50, R55, R58: HIT_LEADING_EDGE on a pixel that is neither above threshold nor dead. Where its discriminator reaches the
parterre, the lowest TDC that is enabled, locked and not busy takes the edge, with its position, its LTC count and its test window;
with none free the edge is lost and counted, as STALL while a TDC holds a record for a full FIFO, else as BUSY. An edge that ties with one
under conversion, within 6 FTU (20 ps, notes/assumptions/51), and has the lower PIX takes that one's TDC, and the other edge a free one.
A gated edge starts the dead time and nothing else. An edge on a pixel above threshold or dead does nothing. -/
def Obligations.LeadingEdgeClaimsLowestFreeTdc : Prop :=
  ∀ (row col : Fin 256) (sub : Fin 512) (s : State),
    let c := s.chip
    let key := pixKey row col
    let p := parterreOf row col
    let armed := (c.pixel key).above = false ∧ (c.pixel key).dead = false ∧ c.domainUp 0 = true ∧ c.flag F.HIT_FE_CTL_LAWN_EN = true
    let fired := fun (u : Chip) => (u.pixel key).above = true ∧ (u.pixel key).dead = true ∧
      (∀ k, k ≠ key → u.pixel k = c.pixel k) ∧ u.lawn.fifos = c.lawn.fifos ∧ u.clk = c.clk ∧ u.mems = c.mems ∧
      u.regs.active = c.regs.active
    let t := c.clockFtu + sub
    let free := fun i : Nat => c.tdcFree p i t
    let took : Tdc :=
      { busy := true, pix := localPix row col, startC := (c.ltcNow + sub / 256) % 65536, t0 := t, close := none, unc := false,
        test := c.inTestWindow key t, held := none, until_ := t + 9176 }
    let ties := fun i : Nat => (c.tdc p i).busy = true ∧ (c.tdc p i).close = none ∧ (c.tdc p i).held = none ∧ t ≤ (c.tdc p i).t0 + 6 ∧
      (c.tdc p i).t0 ≤ t + 6 ∧ localPix row col < (c.tdc p i).pix
    let alone := ¬ ties 0 ∧ ¬ ties 1
    (∀ i : Fin 2, armed → c.gateOpen key p = true → alone → free i = true → (i = 1 → free 0 = false) →
      Does (.hitLeadingEdge row col sub) s fun u => fired u ∧ u.regs = c.regs ∧ u.tdc p i = took ∧
        ∀ q j, 2 * q + j ≠ 2 * p + i.val → u.tdc q j = c.tdc q j) ∧
    (∀ i j : Fin 2, i ≠ j → armed → c.gateOpen key p = true → ties i → c.tdcFree p j (c.tdc p i).t0 = true →
      Does (.hitLeadingEdge row col sub) s fun u => fired u ∧ u.regs = c.regs ∧ u.tdc p i = took ∧ u.tdc p j = c.tdc p i ∧
        ∀ q k, 2 * q + k ≠ 2 * p → 2 * q + k ≠ 2 * p + 1 → u.tdc q k = c.tdc q k) ∧
    (armed → c.gateOpen key p = true → alone → free 0 = false → free 1 = false → c.stalled p = true →
      Does (.hitLeadingEdge row col sub) s fun u => fired u ∧ u.lawn.tdcs = c.lawn.tdcs ∧
        u.fld (F.PRT_LOST_STALL p) = satTo 16 (c.fld (F.PRT_LOST_STALL p) + 1) ∧ u.fld (F.PRT_LOST_BUSY p) = c.fld (F.PRT_LOST_BUSY p)) ∧
    (armed → c.gateOpen key p = true → alone → free 0 = false → free 1 = false → c.stalled p = false →
      Does (.hitLeadingEdge row col sub) s fun u => fired u ∧ u.lawn.tdcs = c.lawn.tdcs ∧
        u.fld (F.PRT_LOST_BUSY p) = satTo 16 (c.fld (F.PRT_LOST_BUSY p) + 1) ∧ u.fld (F.PRT_LOST_STALL p) = c.fld (F.PRT_LOST_STALL p)) ∧
    (armed → c.gateOpen key p = false → Does (.hitLeadingEdge row col sub) s fun u => fired u ∧ u.lawn.tdcs = c.lawn.tdcs ∧
      u.regs = c.regs) ∧
    ((c.pixel key).above = true ∨ (c.pixel key).dead = true ∨ c.domainUp 0 = false → exec (.hitLeadingEdge row col sub) s = .next s)

/-- R49, R57, R60, R61, R64, R68: how a conversion ends. TRAILING_EDGE gives the TDC that took the pixel its TOT_C, or saturates it from
512 TCLK on; TDC_SATURATION_CLOSE saturates it without an edge; either keeps the TDC busy for 28 ns more. TDC_CONVERSION_DONE writes the
raw record, every field in its place, to the FIFO and frees the TDC once its 28 ns are over; among the records of one CCLK, TDC 0 comes
before TDC 1, and both before the Folly, whose record of that CCLK gives up the last entry. A full FIFO, or a record that waits already,
makes it hold the record and raises LAWN_STALL; STALLED_RECORD_WRITE writes the record that completed first when an entry is free.
PIXEL_REARM ends the dead time of a pixel that is below threshold. -/
def Obligations.ConversionWritesItsRawRecord : Prop :=
  (∀ (row col : Fin 256) (sub : Fin 512) (i : Fin 2) (s : State),
    let c := s.chip
    let key := pixKey row col
    let p := parterreOf row col
    let d := c.tdc p i
    let tot := ((c.ltcNow + sub / 256) % 65536 + 65536 - d.startC) % 65536
    (c.pixel key).above = true → d.busy = true → d.pix = localPix row col → d.close = none → d.held = none →
    Does (.trailingEdge row col sub) s fun u => (u.pixel key).above = false ∧ (u.pixel key).dead = (c.pixel key).dead ∧
      u.tdc p i = { d with close := some (if tot < 512 then (tot, false) else (511, true))
                           until_ := max d.until_ (c.clockFtu + sub + 9176) } ∧ u.regs = c.regs ∧
      u.lawn.fifos = c.lawn.fifos) ∧
  (∀ (row col : Fin 256) (s : State), (s.chip.pixel (pixKey row col)).above = false →
    Does (.pixelRearm row col) s fun u => (u.pixel (pixKey row col)).dead = false ∧ u.regs = s.chip.regs ∧
      u.lawn.tdcs = s.chip.lawn.tdcs ∧ ∀ k, k ≠ pixKey row col → u.pixel k = s.chip.pixel k) ∧
  (∀ (p : Fin 1024) (i : Fin 2) (s : State),
    let c := s.chip
    let d := c.tdc p i
    d.busy = true → d.close = none → d.held = none → 512 ≤ (c.ltcNow + 65536 - d.startC) % 65536 →
    Does (.tdcSaturationClose p i) s fun u => u.regs = c.regs ∧
      u.tdc p i = { d with close := some (511, true), until_ := max d.until_ (d.t0 / 256 * 256 + 131072 + 9176) }) ∧
  (∀ (p : Fin 1024) (i : Fin 2) (f1 f2 g1 g2 : Fin 16) (s : State),
    let c := s.chip
    let d := c.tdc p i
    let n := (c.fifo p).length - (c.writtenNow p).countP fun x => decide (i.val < x)
    let folly := (c.writtenNow p).getLast? = some 2
    ∀ tot sat, d.busy = true → d.held = none → d.close = some (tot, sat) → d.pix < 64 → d.startC < 65536 → tot < 512 →
    ∃ r : BitVec 56, bits r.toNat 55 50 = d.pix ∧ bits r.toNat 49 49 = i.val ∧ bits r.toNat 48 33 = d.startC ∧
      bits r.toNat 32 29 = f1.val ∧ bits r.toNat 28 25 = f2.val ∧ bits r.toNat 24 16 = tot ∧
      bits r.toNat 15 12 = (if sat then 0 else g1.val) ∧ bits r.toNat 11 8 = (if sat then 0 else g2.val) ∧
      r.toNat.testBit 7 = false ∧ r.toNat.testBit 6 = sat ∧ r.toNat.testBit 5 = d.test ∧ r.toNat.testBit 4 = false ∧
      r.toNat.testBit 3 = d.unc ∧ bits r.toNat 2 0 = 0 ∧
      ((c.fifo p).length < 8 → c.stalled p = false → Does (.tdcConversionDone p i f1 f2 g1 g2 false) s fun u =>
        u.fifo p = (c.fifo p).take n ++ r :: (c.fifo p).drop n ∧
        u.tdc p i = { Tdc.idle with until_ := d.until_ } ∧ u.fld (F.PRT_HITS_COUNT p) = satTo 32 (c.fld (F.PRT_HITS_COUNT p) + 1) ∧
        u.fld (F.PRT_FLAGCNT_SAT p) = if sat then satTo 16 (c.fld (F.PRT_FLAGCNT_SAT p) + 1) else c.fld (F.PRT_FLAGCNT_SAT p)) ∧
      (8 ≤ (c.fifo p).length → c.stalled p = false → folly → Does (.tdcConversionDone p i f1 f2 g1 g2 false) s fun u =>
        u.tdc p i = { Tdc.idle with until_ := d.until_ } ∧ r ∈ u.fifo p ∧ (u.fifo p).length = (c.fifo p).length ∧
        u.fld (F.PRT_HITS_COUNT p) = satTo 32 (c.fld (F.PRT_HITS_COUNT p) + 1) ∧ u.eventSeen EV.LAWN_FOLLY_DROP = true ∧
        u.fld F.HIT_FOLLY_DROP_COUNT = satTo 32 (c.fld F.HIT_FOLLY_DROP_COUNT + 1) ∧
        u.fld F.HIT_FOLLY_COUNT_COUNT = c.fld F.HIT_FOLLY_COUNT_COUNT - 1) ∧
      (c.stalled p = true ∨ (8 ≤ (c.fifo p).length ∧ ¬ folly) → Does (.tdcConversionDone p i f1 f2 g1 g2 false) s fun u =>
        u.fifo p = c.fifo p ∧ u.tdc p i = { d with held := some (r, c.cclkNow) } ∧ u.eventSeen EV.LAWN_STALL = true)) ∧
  (∀ (p : Fin 1024) (i : Fin 2) (f1 f2 g1 g2 : Fin 16) (s : State),
    let c := s.chip
    let d := c.tdc p i
    let n := (c.fifo p).length - (c.writtenNow p).countP fun x => decide (i.val < x)
    d.busy = true → d.held = none → (c.fifo p).length < 8 → c.stalled p = false →
    Does (.tdcConversionDone p i f1 f2 g1 g2 true) s fun u => u.tdc p i = { Tdc.idle with until_ := d.until_ } ∧
      u.fld (F.PRT_FLAGCNT_ORDER p) = satTo 16 (c.fld (F.PRT_FLAGCNT_ORDER p) + 1) ∧
      ∃ r : BitVec 56, u.fifo p = (c.fifo p).take n ++ r :: (c.fifo p).drop n ∧ bits r.toNat 24 8 = 0 ∧ r.toNat.testBit 7 = true ∧ r.toNat.testBit 6 = false ∧
        bits r.toNat 32 29 = f1.val ∧ bits r.toNat 28 25 = f2.val) ∧
  (∀ (p : Fin 1024) (i j : Fin 2) (r : BitVec 56) (t : Nat) (s : State),
    let c := s.chip
    let n := (c.fifo p).length - (c.writtenNow p).countP fun x => decide (i.val < x)
    let later := (c.tdc p i).held = some (r, t) ∧ i ≠ j ∧ ∃ q v, (c.tdc p j).held = some (q, v) ∧ (v < t ∨ (v = t ∧ i = 1))
    (later → exec (.stalledRecordWrite p i) s = .next s) ∧
    (i ≠ j → ¬ later → (c.tdc p i).held = some (r, t) → (c.fifo p).length < 8 →
    Does (.stalledRecordWrite p i) s fun u => u.fifo p = (c.fifo p).take n ++ r :: (c.fifo p).drop n ∧
      u.tdc p i = { Tdc.idle with until_ := (c.tdc p i).until_ } ∧
      u.fld (F.PRT_HITS_COUNT p) = satTo 32 (c.fld (F.PRT_HITS_COUNT p) + 1)))

/-- R51, R52, R54, R63, R67, R68, R72, R74: the other rows of the Lawn. LAWN_SETTLING_END ends the settling after its frames;
LAWN_STUCK counts, latches the first address and raises its event, once until the pixel was seen below threshold; an injection, at its TCLK
edge, opens the test window, counts and marks the open frame; LAWN_TP_DONE stops the schedule; the loss of a line clears its LOCK, counts,
and marks a conversion under way; a relock sets it with its code; a granted link moves the oldest record of the parterre to its hedge with
the values of the last tick; the Folly writes its FIXED record at the FIFO input at each TCLK edge of its cadence, SPACING TCLK apart and
never fewer than 16, or counts a drop where the FIFO is full or a real record waits for an entry. -/
def Obligations.LawnRowsComplete : Prop :=
  ∀ s : State,
    let c := s.chip
    (c.flag F.HIT_FE_STAT_SETTLING = true → c.lawn.settle = 0 → Does .lawnSettlingEnd s fun u =>
      u.flag F.HIT_FE_STAT_SETTLING = false ∧ u = { c with regs := { c.regs with direct := u.regs.direct } } ∧
      ∀ a, a ≠ F.HIT_FE_STAT_SETTLING.addr → u.regs.direct.get a = c.regs.direct.get a) ∧
    (∀ row col : Fin 256,
      let key := pixKey row col
      c.fld F.HIT_FE_STUCK_FRAMES ≠ 0 → c.fld F.HIT_FE_STUCK_FRAMES ≤ (c.pixel key).run → (c.pixel key).told = false →
      Does (.lawnStuck row col) s fun u => (u.pixel key).told = true ∧ u.eventSeen EV.LAWN_STUCK = true ∧
        u.fld F.HIT_FE_STUCK_CNT_COUNT = satTo 32 (c.fld F.HIT_FE_STUCK_CNT_COUNT + 1) ∧ u.flag F.HIT_FE_STUCK_ADDR_VALID = true ∧
        u.fld F.HIT_FE_STUCK_ADDR_ADDR = if c.flag F.HIT_FE_STUCK_ADDR_VALID then c.fld F.HIT_FE_STUCK_ADDR_ADDR else key) ∧
    (∀ row col : Fin 256, (c.pixel (pixKey row col)).told = true → exec (.lawnStuck row col) s = .next s) ∧
    (∀ e : Fin 2, c.domainUp 0 = true → c.flag F.HIT_FE_STAT_TP_ACTIVE = true → 2 * c.cclkNow + e.val ∈ c.lawn.injAt →
      Does (.testPulseInjection e) s fun u => u.lawn.lastInj = some (c.clockFtu + 256 * e.val) ∧
      u.lawn.charge = some (if c.flag F.HIT_FE_TP_SRC then .tpin else .steps (c.fld F.HIT_FE_TP_AMP)) ∧
      u.lawn.injAt = c.lawn.injAt.erase (2 * c.cclkNow + e.val) ∧ u.lawn.tpCount = c.lawn.tpCount + 1 ∧ u.fld F.HIT_FE_TP_CNT_COUNT = satTo 32 (c.fld F.HIT_FE_TP_CNT_COUNT + 1) ∧
      u.fb.cur = c.fb.cur.map fun a => { a with tp := true }) ∧
    (c.flag F.HIT_FE_STAT_TP_ACTIVE = true → c.fld F.HIT_FE_TP_COUNT ≠ 0 → c.fld F.HIT_FE_TP_COUNT ≤ c.lawn.tpCount →
      Does .lawnTpDone s fun u => u.flag F.HIT_FE_STAT_TP_ACTIVE = false ∧ u.eventSeen EV.LAWN_TP_DONE = true ∧
        u.lawn = { c.lawn with injAt := [] }) ∧
    (∀ (p : Fin 1024) (i : Fin 2), c.tdcLocked p i = true → Does (.lawnDllUnlock p i) s fun u =>
      u.tdcLocked p i = false ∧ u.eventSeen EV.LAWN_DLL_UNLOCK = true ∧
      u.fld (F.PRT_DLL_UNLOCK_COUNT p) = satTo 32 (c.fld (F.PRT_DLL_UNLOCK_COUNT p) + 1) ∧
      ((c.tdc p i).busy = true → (c.tdc p i).held = none → u.tdc p i = { c.tdc p i with unc := true })) ∧
    (∀ (p : Fin 1024) (i : Fin 2) (code : Fin 256), c.up = true → c.rst.drstNow = 0 → Does (.tdcDllRelock p i code) s fun u =>
      u.tdcLocked p i = true ∧ u.fld (if i = 0 then F.PRT_DLL_CODE0 p else F.PRT_DLL_CODE1 p) = code.val ∧ u.lawn = c.lawn) ∧
    (∀ (h : Fin 32) (j : Nat) (r : BitVec 56) (q : List (BitVec 56)), c.domainUp 1 = true → c.nextGrant h = some j →
      c.fifo (h + 32 * j) = r :: q → Does (.verticalLinkTransfer h) s fun u => u.fifo (h + 32 * j) = q ∧
        u.hedge h = { c.hedge h with
          grant := (j + 1) % 32
          inq := (c.hedge h).inq ++ [⟨r, h + 32 * j, c.clk.frame, c.ltcTick, c.clk.residual⟩] } ∧
        u.fld (F.HIT_HEDGE_RECS_COUNT h) = satTo 32 (c.fld (F.HIT_HEDGE_RECS_COUNT h) + 1)) ∧
    (∀ (p : Fin 1024) (e : Fin 2) (k : Nat), c.domainUp 0 = true → c.fld F.HIT_FOLLY_CTL_MODE = 1 → c.flag (F.PRT_CTL_FOLLY_EN p) = true →
      2 * c.cclkNow + e.val = c.lawn.follyBase + k * max 16 (c.fld F.HIT_FOLLY_SPACING_TCLK) →
      Table.get 0 c.lawn.follyLast p ≠ 2 * c.cclkNow + e.val + 1 →
      ((c.fifo p).length < 8 → c.stalled p = false → Does (.follyRecord p e) s fun u => u.lawn.folly = c.lawn.folly ∧
        Table.get 0 u.lawn.follyLast p = 2 * c.cclkNow + e.val + 1 ∧
        u.fld F.HIT_FOLLY_COUNT_COUNT = satTo 32 (c.fld F.HIT_FOLLY_COUNT_COUNT + 1) ∧
        ∃ r : BitVec 56, u.fifo p = c.fifo p ++ [r] ∧ bits r.toNat 55 50 = c.fld F.HIT_FOLLY_HIT_PIX ∧ r.toNat.testBit 49 = false ∧
          bits r.toNat 48 33 = (c.ltcNow + e.val) % 65536 ∧ bits r.toNat 32 25 = 0 ∧ bits r.toNat 24 16 = c.fld F.HIT_FOLLY_HIT_TOT_C ∧
          bits r.toNat 15 8 = 0 ∧ bits r.toNat 7 0 = 16) ∧
      (8 ≤ (c.fifo p).length ∨ c.stalled p = true → Does (.follyRecord p e) s fun u =>
        u.lawn = { c.lawn with follyLast := u.lawn.follyLast } ∧ u.eventSeen EV.LAWN_FOLLY_DROP = true ∧
        u.fld F.HIT_FOLLY_DROP_COUNT = satTo 32 (c.fld F.HIT_FOLLY_DROP_COUNT + 1))) ∧
    (∀ (p : Fin 1024) (e : Fin 2), (∀ k, 2 * c.cclkNow + e.val ≠ c.lawn.follyBase + k * max 16 (c.fld F.HIT_FOLLY_SPACING_TCLK)) →
      exec (.follyRecord p e) s = .next s)

/-! ### The hedges, the reorder buffers and the acquisition store (chapter 03) -/

/-- R62, R74 to R79: HEDGE_CORRECTION takes the oldest record, computes the hit in exact integer arithmetic and puts it at its place
in the reorder buffer, here where the buffer has a free entry, the table words are clean and the calibration engine does not hold the
pixel. The tables and settings are those of the frame of the hit that they make, the newest such ones (DEDUCED from R26,
notes/assumptions/21). The hit word has its fields in their places. -/
def Obligations.CorrectionEntersTheReorderBuffer : Prop :=
  ∀ (h : Fin 32) (x : RawIn) (rest : List RawIn) (k : Nat) (s : State),
    let c := s.chip
    let r := x.raw.toNat
    let byte := fun (k a : Nat) => bits (memReset 4 (a / 8) ^^^
      (if k = 0 then (c.mem 4).data else if k = 1 then c.tabs.cal1 else c.tabs.cal2).get (a / 8)).toNat (8 * (a % 8) + 7) (8 * (a % 8))
    let base := 128 * x.prt + 64 * bits r 49 49
    let pix := bits r 55 50
    let row := rowOf x.prt pix
    let col := colOf x.prt pix
    let order := r.testBit 7
    let sat := r.testBit 6 && !order
    let startC := bits r 48 33
    let tStart := fun k => 256 * startC + min 255 (byte k (base + bits r 32 29) + byte k (base + 16 + bits r 28 25))
    let tStop := fun k => 256 * (startC + bits r 24 16) + min 255 (byte k (base + 32 + bits r 15 12) + byte k (base + 48 + bits r 11 8))
    let tot := fun k => (tStop k : Int) - (tStart k : Int)
    let short := fun k => order || (!sat && decide (tot k < 1))
    let t := fun k => if sat then 0xFFF else if short k then 0 else min 0xFFE (tot k / 32).toNat
    let u := fun k => (x.resid : Int) + (((tStart k : Int) - 256 * x.ltc + 8388608) % 16777216 - 8388608)
    let lerp := fun (v : Nat → Int) (t : Nat) => v (t / 64) + (v (t / 64 + 1) - v (t / 64)) * ((t % 64 : Nat) : Int) / 64
    let tw := fun k => if sat then c.knotV k 64 else lerp (c.knotV k) (t k)
    let tc := fun k => u k - tw k - sext 8 (byte k (0x20000 + 256 * row + col))
    let energy := fun k => if short k then 0 else if sat then 0xFFF
      else (max 0 (min 0xFFE (lerp (c.knotE k) (t k) * (c.fldAt k (F.PRT_GAIN_G x.prt) : Nat) / 4096))).toNat
    let frame := fun k => ((x.frame : Int) + tc k / 1048576).toNat
    let fits := fun k => c.ageOf (frame k) = k
    ((k < 3 ∧ fits k ∧ ∀ j, j < k → ¬ fits j) ∨ ((∀ j, j < 3 → ¬ fits j) ∧ k = c.ageOf (frame 0))) →
    c.domainUp 1 = true → (c.hedge h).inq = x :: rest → x.prt < 1024 → (r.testBit 4 = true ∨ c.calHolds (frame k) x.prt pix = false) →
    (c.hedge h).buf.length < 256 → (∀ w, (c.mem 4).par.get w = 0#8) →
    Does (.hedgeCorrection h) s fun v => (∀ g, g ≠ h.val → v.hedge g = c.hedge g) ∧ v.clk = c.clk ∧ v.regs.active = c.regs.active ∧
      ∃ b : Buffered, v.hedge h = { c.hedge h with inq := rest, buf := insertHit b (c.hedge h).buf } ∧
        b.frame = frame k ∧ (b.toa : Int) = tc k % 1048576 ∧ b.prt = x.prt ∧ b.pix = pix ∧
        bits b.word.toNat 63 56 = row ∧ bits b.word.toNat 55 48 = col ∧ bits b.word.toNat 47 28 = b.toa ∧
        bits b.word.toNat 27 16 = t k ∧ b.word.toNat.testBit 15 = short k ∧ b.word.toNat.testBit 14 = sat ∧
        b.word.toNat.testBit 13 = (r.testBit 3 || c.tunc (frame k)) ∧ b.word.toNat.testBit 12 = (r.testBit 5 || r.testBit 4) ∧
        bits b.word.toNat 11 0 = energy k

/-- R19, R78, R80, R82, R93, R95: insertion keeps a reorder buffer in ascending key order. REORDER_RELEASE does nothing before the window of
the lowest hit has passed; then the hit leaves the buffer, becomes the last key and is accepted into its open frame, or counted late
where its frame has closed; in step hold it is dropped and counted as such, whatever its key; below the last key it is dropped and counted
as out of order. A poisoned word drops its hit. A granted CCLK of the store serves 248 bytes in fixed priority; QUEUE_SPACE_FREED
frees exactly the contents of a queue region that every reader has finished with. -/
def Obligations.HitAndStoreRowsComplete : Prop :=
  (∀ (b : Buffered) (q : List Buffered), (insertHit b q).Perm (b :: q) ∧
    (q.Pairwise (fun x y => keyLt y.key x.key = false) → (insertHit b q).Pairwise (fun x y => keyLt y.key x.key = false))) ∧
  (∀ (h : Fin 32) (b : Buffered) (rest : List Buffered) (s : State),
    let c := s.chip
    let window := 256 * max 128 (min 2048 (c.fldAt (c.ageOf b.frame) F.HIT_REORDER_WINDOW))
    let due := b.frame * 1048576 + b.toa + window ≤ c.now
    let held := c.flag F.TIM_STAT_STEP_HOLD = true ∨ ∃ a, c.openFrame b.frame = some a ∧ a.stepHold = true ∧ a.emit = false
    let gone := fun (u : Chip) => (u.hedge h).buf = (c.hedge h).buf.filter (fun x => x.slot != b.slot) ∧ (u.hedge h).inq = (c.hedge h).inq ∧
      u.clk = c.clk ∧ u.regs.active = c.regs.active ∧ ∀ g, g ≠ h.val → u.hedge g = c.hedge g
    (c.hedge h).buf = b :: rest →
    (c.domainUp 1 = false ∨ ¬ due → exec (.reorderRelease h) s = .next s) ∧
    (c.domainUp 1 = true → due → (c.mem 9).par.get (256 * h + b.slot) = 0xFF#8 → Does (.reorderRelease h) s fun u => gone u ∧
      (u.hedge h).last = (c.hedge h).last ∧ u.eventSeen EV.MEM_POISON_READ = true ∧
      u.fld F.MIN_HIT_POISON_COUNT = satTo F.MIN_HIT_POISON_COUNT.w (c.fld F.MIN_HIT_POISON_COUNT + 1)) ∧
    (c.domainUp 1 = true → due → (c.mem 9).par.get (256 * h + b.slot) = 0#8 → held → Does (.reorderRelease h) s fun u => gone u ∧
      (u.hedge h).last = (c.hedge h).last ∧ u.fld F.HIT_ODROP_CNT_COUNT = c.fld F.HIT_ODROP_CNT_COUNT ∧
      u.fld F.TIM_STEP_DROP_COUNT = satTo F.TIM_STEP_DROP_COUNT.w (c.fld F.TIM_STEP_DROP_COUNT + 1)) ∧
    (c.domainUp 1 = true → due → (c.mem 9).par.get (256 * h + b.slot) = 0#8 →
      (∀ k, (c.hedge h).last = some k → keyLt b.key k = false) → ¬ held →
      (∀ a, c.openFrame b.frame = some a → a.emit = true → Does (.reorderRelease h) s fun u => gone u ∧ (u.hedge h).last = some b.key ∧
        u.fld F.HIT_ACCEPT_CNT_COUNT = satTo F.HIT_ACCEPT_CNT_COUNT.w (c.fld F.HIT_ACCEPT_CNT_COUNT + 1)) ∧
      (c.openFrame b.frame = none → b.frame ≤ c.clk.frame → Does (.reorderRelease h) s fun u => gone u ∧ (u.hedge h).last = some b.key ∧
        u.eventSeen EV.HIT_LATE = true ∧
        u.fld F.HIT_LATE_CNT_COUNT = satTo F.HIT_LATE_CNT_COUNT.w (c.fld F.HIT_LATE_CNT_COUNT + 1)) ∧
      (c.openFrame b.frame = none → c.clk.frame < b.frame → Does (.reorderRelease h) s fun u => gone u ∧ (u.hedge h).last = some b.key ∧
        u.eventSeen EV.HIT_FUTURE = true ∧
        u.fld F.HIT_FUTURE_CNT_COUNT = satTo F.HIT_FUTURE_CNT_COUNT.w (c.fld F.HIT_FUTURE_CNT_COUNT + 1))) ∧
    (c.domainUp 1 = true → due → (c.mem 9).par.get (256 * h + b.slot) = 0#8 → ¬ held → ∀ k, (c.hedge h).last = some k → keyLt b.key k = true →
      Does (.reorderRelease h) s fun u => gone u ∧ (u.hedge h).last = some k ∧ u.eventSeen EV.HIT_ODROP = true ∧
        u.fld F.HIT_ODROP_CNT_COUNT = satTo F.HIT_ODROP_CNT_COUNT.w (c.fld F.HIT_ODROP_CNT_COUNT + 1))) ∧
  (∀ s : State, s.chip.up = true → Does .storeBandwidthGrant s fun u =>
    u = { s.chip with store := { s.chip.store with backlog := u.store.backlog } } ∧ u.store.backlog.length = s.chip.store.backlog.length ∧
    ∀ j, (u.store.backlog.take j).sum = (s.chip.store.backlog.take j).sum - 248) ∧
  (∀ (n : Fin 10) (s : State),
    ((n = 0 ∨ 7 ≤ n.val) → n.val < s.chip.store.regions.length → Does (.queueSpaceFreed n) s fun u =>
      u = s.chip.setRegion n { s.chip.region n with objs := (u.region n).objs } ∧
      (u.region n).objs = (s.chip.region n).objs.filter fun o => !o.readers.isEmpty && (n.val != 9 || s.chip.egressInUse o.id)) ∧
    (1 ≤ n.val → n.val ≤ 6 → exec (.queueSpaceFreed n) s = .next s))

/-! ### Triggers (chapter 04) -/

/-- R107, R108, R34: what a fire does where the trigger engine works. `cmd` tells the FIRE command from the FIRE packet. A malformed time
drops a packet; a duplicate is counted; a fire that lies after the start of the next frame is held pending, or dropped where four are
pending or it lies more than 1 s ahead; every other fire is accepted, and the conditions of its kind with its code, or with ANY, have an
event at the fire time, or at `arrival` where the time is all zero or the time quality is UNSET; in a frame that a step passed over the
event is at the start of the first frame after the step (R112). Here for fires that are not late under R112. -/
def Obligations.FireIsHeldDroppedOrMet : Prop :=
  ∀ (cmd : Bool) (w0 w1 w2 : W64) (arrival : Nat) (c : Chip),
    let u := fireIn cmd w0 w1 w2 arrival c
    let code := bits w0.toNat 3 0
    let ns := bits w1.toNat 63 32
    let sub := bits w1.toNat 31 16
    let dup := c.trg.dups.any fun x => x.code == code && x.sec == w2.toNat && x.ns == ns && x.sub == sub
    let aligned := (w2.toNat ≠ 0 ∨ ns ≠ 0 ∨ sub ≠ 0) ∧ c.quality ≠ 3
    let t := ofTime128 w2.toNat ns sub
    let dropped := Announces (c.bump F.TRG_FIRE_DROP_COUNT) u ∧ u.eventSeen EV.TRG_FIRE_DROP = true
    let accepted : Trg := { c.trg with dups := c.trg.dups ++ [⟨code, w2.toNat, ns, sub, c.clk.ticks⟩] }
    (c.domainUp 2 = false ∨ c.flag F.TRG_CTL_EN = false → u = c) ∧
    (c.domainUp 2 = true → c.flag F.TRG_CTL_EN = true →
      (999999999 < ns → cmd = true → u = c) ∧
      (999999999 < ns → cmd = false → dropped) ∧
      (ns ≤ 999999999 → dup = true → u = c.bump F.TRG_FIRE_DUP_COUNT) ∧
      (ns ≤ 999999999 → dup = false → aligned → (c.clk.frame + 1) * 1048576 < t →
        (c.now + 312500 * 1048576 < t ∨ 4 ≤ c.trg.pend.length → dropped) ∧
        (t ≤ c.now + 312500 * 1048576 → c.trg.pend.length < 4 →
          u = { c.bump F.TRG_FIRE_CNT_COUNT with trg := { accepted with pend := c.trg.pend ++ [⟨t, code, cmd⟩] } })) ∧
      (ns ≤ 999999999 → dup = false → ¬ (aligned ∧ (c.clk.frame + 1) * 1048576 < t) → ∀ at_ align, (aligned → at_ = t ∧ align = false) →
        (¬ aligned → at_ = arrival ∧ align = true) → (∀ e ∈ c.trg.events, c.openFrom ≤ e.frame) →
        let passed := c.trg.passed.find? fun x => decide (x.1 < at_ / 1048576) && decide (at_ / 1048576 < x.2)
        let moved := match passed with | some x => x.2 * 1048576 | none => at_
        c.openFrom ≤ moved / 1048576 →
        let met := fun (n : Nat) => c.condType (c.ageOf (at_ / 1048576)) n = (if cmd then 8 else 7) ∧
          c.condLive (c.ageOf (at_ / 1048576)) n = true ∧
          (c.condCfg (c.ageOf (at_ / 1048576)) n 4 4 = 1 ∨ c.condCfg (c.ageOf (at_ / 1048576)) n 3 0 = code)
        u.fld F.TRG_FIRE_CNT_COUNT = satTo F.TRG_FIRE_CNT_COUNT.w (c.fld F.TRG_FIRE_CNT_COUNT + 1) ∧
        u.trg.dups = accepted.dups ∧ u.trg.pend = c.trg.pend ∧ u.clk = c.clk ∧ u.regs.active = c.regs.active ∧ u.mems = c.mems ∧
        (∀ n, n < 32 → (met n → u.fld (F.TRG_MET_COUNT n) = satTo 32 (c.fld (F.TRG_MET_COUNT n) + 1)) ∧
          (¬ met n → u.fld (F.TRG_MET_COUNT n) = c.fld (F.TRG_MET_COUNT n))) ∧
        ∃ new, u.trg.events = c.trg.events ++ new ∧ (∀ n, n < 32 → (met n ↔ ∃ e ∈ new, e.cond = n)) ∧
          ∀ e ∈ new, e.t = moved ∧ e.frame = moved / 1048576 ∧ e.align = align))

/-- R107, R108, R115, R116, R117: the trigger rows. A FIRE or ARM packet that is addressed to this device, intact and of the right class and
length is counted and handed on, a FIRE with its arrival time less the compensation of its port; a packet of another type is not the
event. An ARM waits for the tick with ARM_ID and COUNT, for the outputs of its mask with ARM_MODE 1, and the tick loads them; a FORCE marks the
frame for its armed outputs, beside the frames that other FORCEs marked. FIRE_PENDING_DUE meets the conditions of every pending fire whose frame has opened, once each, and does nothing
in step hold; AUTO_TRIGGER marks the frame e + AUTO of an armed output that captures no record. -/
def Obligations.TriggerRowsComplete : Prop :=
  (∀ (p : Port) (q : Packet) (first : Nat) (s : State),
    let c := s.chip
    let good := c.receives p = true ∧ q.dest.toNat = c.addr ∧ q.src ≠ q.dest ∧ c.addr < 31 ∧ q.crcOk = true ∧ q.bad = false ∧ q.cls = 0#2
    let good1 := c.receives p = true ∧ q.dest.toNat = c.addr ∧ q.src ≠ q.dest ∧ c.addr < 31 ∧ q.crcOk = true ∧ q.bad = false ∧ q.cls = 1#2
    (∀ w0 w1 w2 : W64, good → q.ptype = 0x09#8 → q.words = [w0, w1, w2] → Does (.firePacket p q first) s fun u =>
      u = fireIn false w0 w1 w2 (c.now - first - c.fld (F.TRG_FIRE_COMP_FTU p.ix)) (c.bump (F.RN_RXPKT_COUNT p.ix))) ∧
    (q.ptype ≠ 0x09#8 → exec (.firePacket p q first) s = .next s) ∧
    (∀ w0 : W64, good1 → q.ptype = 0x0A#8 → q.words = [w0] → Does (.armPacket p q) s fun u =>
      u = armIn w0 (c.bump (F.RN_RXPKT_COUNT p.ix))) ∧
    (q.ptype ≠ 0x0A#8 → exec (.armPacket p q) s = .next s)) ∧
  (∀ (w : W64) (c : Chip), c.domainUp 2 = true →
    (∀ n, n < 8 → (armIn w c).out n =
      if w.toNat.testBit (8 + n) && c.flag (F.TRG_OUT_CTL_ARM_MODE n) then { c.out n with armNext := some (bits w.toNat 47 32, bits w.toNat 7 0) }
      else c.out n) ∧
    armIn w c = { c with trg := { c.trg with outs := (armIn w c).trg.outs } } ∧
    (∀ n, n < 8 → (forceIn w c).out n =
      if w.toNat.testBit n && c.outArmed 0 n c.clk.frame && !(c.out n).force.contains c.clk.frame then
        { c.out n with force := c.clk.frame :: (c.out n).force }
      else c.out n) ∧
    forceIn w c = { c with trg := { c.trg with outs := (forceIn w c).trg.outs } }) ∧
  (∀ (c : Chip) (n : Nat), n < 8 →
    (∀ id cnt, (c.out n).armNext = some (id, cnt) → id < 65536 → cnt < 256 → ((tickArm c).out n).armNext = none ∧
      (tickArm c).fld (F.TRG_OUT_ARM_STAT_ARM_ID n) = id ∧ (tickArm c).fld (F.TRG_OUT_ARM_STAT_COUNT n) = cnt) ∧
    ((c.out n).armNext = none → (tickArm c).out n = c.out n ∧
      (tickArm c).fld (F.TRG_OUT_ARM_STAT_COUNT n) = c.fld (F.TRG_OUT_ARM_STAT_COUNT n))) ∧
  (∀ s : State,
    let c := s.chip
    let due := c.trg.pend.filter fun p => decide (p.t / 1048576 ≤ c.clk.frame)
    (c.domainUp 2 = false ∨ c.flag F.TIM_STAT_STEP_HOLD = true → exec .firePendingDue s = .next s) ∧
    (c.domainUp 2 = true → c.flag F.TIM_STAT_STEP_HOLD = false → (∀ e ∈ c.trg.events, c.openFrom ≤ e.frame) →
      (∀ p ∈ due, c.openFrom ≤ match c.trg.passed.find? fun x => decide (x.1 < p.t / 1048576) && decide (p.t / 1048576 < x.2) with
        | some x => x.2
        | none => p.t / 1048576) → Does .firePendingDue s fun u =>
        u.trg.pend = (c.trg.pend.filter fun p => !decide (p.t / 1048576 ≤ c.clk.frame)) ∧ u.trg.dups = c.trg.dups ∧ u.clk = c.clk ∧
        u.regs.active = c.regs.active ∧ u.mems = c.mems ∧
        ∀ n, n < 32 → u.fld (F.TRG_MET_COUNT n) = satTo 32 (c.fld (F.TRG_MET_COUNT n) + due.countP fun p =>
          decide (c.condType (c.ageOf (p.t / 1048576)) n = (if p.cmd then 8 else 7)) && c.condLive (c.ageOf (p.t / 1048576)) n &&
            (decide (c.condCfg (c.ageOf (p.t / 1048576)) n 4 4 = 1) || decide (c.condCfg (c.ageOf (p.t / 1048576)) n 3 0 = p.code))))) ∧
  (∀ (n : Fin 8) (s : State),
    let c := s.chip
    let due := ∃ e, (c.out n).timer = some e ∧ c.domainUp 2 = true ∧ c.fld (F.TRG_OUT_AUTO_FRAMES n) ≠ 0 ∧
      c.clk.frame = e + c.fld (F.TRG_OUT_AUTO_FRAMES n) ∧ c.outArmed 0 n c.clk.frame = true ∧ c.capturing n = false
    (due → Does (.autoTrigger n) s fun u => u.out n = { c.out n with auto := some c.clk.frame } ∧
      u = { c with trg := { c.trg with outs := u.trg.outs } } ∧ ∀ m, m ≠ n.val → u.out m = c.out m) ∧
    (¬ due → exec (.autoTrigger n) s = .next s))

/-! ### Waveform capture (chapter 05) -/

/-- R133, R138, R140, R142 to R144, R149: WAVEFORM_CONVERSION on an enabled channel that is not settling. The code is the signal over the
LSB limited to the range of its input mode (or the Folly's code); every conversion counts, and one at a limit code counts in OVR, with
its event once in a frame. In step hold the conversion is dropped and counted, of a settling channel too. A sample that still falls into its
frame extends the block of that frame; else it is the candidate for the next frame: before its start it is no sample, and where a correction
of network time put it there (not a change of AP or DELAY, and not for the first one after settling or a step: DEDUCED,
notes/assumptions/56) it is counted as slipped; else it is the first sample of the frame of its stamp. A settling channel stores nothing,
but feeds the calibration that drives it (R220, R221). WAV_SETTLING_END ends the settling after its frames. The other channels stay. -/
def Obligations.WaveformRowsComplete : Prop :=
  (∀ (ch : Fin 4) (raw : Int) (s : State),
    let c := s.chip
    let w := c.wch ch
    let se := c.flag (F.WAV_CH_CFG_SE ch)
    let per := nth 512 [512, 128, 256, 512] (c.fld F.WAV_CTL_MODE)
    let synth := c.wavFolly ch
    let code : Int := if synth then c.follyCode se w.folly
      else if se then max 0 (min 16383 raw) else max (-8192) (min 8191 raw)
    let clip := synth = false ∧ (if se then code = 0 ∨ code = 16383 else code = -8192 ∨ code = 8191)
    let delay := fun (k : Nat) => sext 16 (c.fldAt k (F.CAL_WAV_AP_FTU ch)) + sext 16 (c.fldAt k (F.WAV_CH_DELAY_FTU ch))
    let stamp : Int := ((c.now + w.began + w.n * per : Nat) : Int) - (c.clockFtu : Int) + delay 0
    let cont := fun (f : Nat) => (if c.flagAt (c.ageOf f) (F.WAV_CH_CFG_ALIGN ch) then 4 * code else code : Int)
    let runs := c.domainUp 3 = true ∧ c.wavEnabled 0 ch = true ∧ (c.fld F.WAV_STAT_SETTLING).testBit ch = false
    let open_ := fun (b : WavBlock) => w.open_ = true ∧ w.blocks.find? (fun x => x.frame == w.frame) = some b
    let always := fun (u : Chip) => u.fld (F.WAV_CH_SAMP_COUNT ch) = satTo 32 (c.fld (F.WAV_CH_SAMP_COUNT ch) + 1) ∧
      (clip → u.fld (F.WAV_CH_OVR_COUNT ch) = satTo 32 (c.fld (F.WAV_CH_OVR_COUNT ch) + 1) ∧
        (w.ovrAt ≠ some c.clk.frame → u.eventSeen EV.WAV_OVR = true)) ∧
      (¬ clip → u.fld (F.WAV_CH_OVR_COUNT ch) = c.fld (F.WAV_CH_OVR_COUNT ch)) ∧
      (u.wch ch).n = w.n + 1 ∧ (∀ k, k ≠ ch.val → u.wch k = c.wch k) ∧ u.clk = c.clk ∧ u.mems = c.mems ∧ u.regs.active = c.regs.active
    let taken := fun (u : Chip) (b : WavBlock) (t : Nat) => (u.wch ch).frame = b.frame ∧ (u.wch ch).open_ = true ∧
      (u.wch ch).prev = some (cont b.frame, t) ∧ (u.wch ch).blocks = (w.blocks.filter fun x => x.frame != b.frame) ++ [b]
    (runs → c.flag F.TIM_STAT_STEP_HOLD = true → Does (.waveformConversion ch raw) s fun u => always u ∧
      (u.wch ch).blocks = w.blocks ∧ u.fld (F.WAV_CH_DROP_HOLD ch) = satTo 16 (c.fld (F.WAV_CH_DROP_HOLD ch) + 1)) ∧
    (runs → c.flag F.TIM_STAT_STEP_HOLD = false → ∀ b, open_ b → b.first + b.codes.length * per < 1048576 →
      Does (.waveformConversion ch raw) s fun u => always u ∧
        taken u { b with codes := b.codes ++ [code] } (b.frame * 1048576 + b.first + b.codes.length * per)) ∧
    (runs → c.flag F.TIM_STAT_STEP_HOLD = false → ∀ f, (∀ b, open_ b → 1048576 ≤ b.first + b.codes.length * per ∧ f = w.frame + 1) →
      ((∀ b, ¬ open_ b) → f = w.frame) →
      let before := stamp - delay 0 + delay 1
      (stamp < (f * 1048576 : Nat) → (w.fresh = true ∨ (f * 1048576 : Nat) ≤ before) → Does (.waveformConversion ch raw) s fun u =>
        always u ∧ u.fld (F.WAV_CH_DROP_SLIP ch) = c.fld (F.WAV_CH_DROP_SLIP ch) ∧ (u.wch ch).frame = f ∧ (u.wch ch).open_ = false ∧
        (u.wch ch).blocks = w.blocks) ∧
      (stamp < (f * 1048576 : Nat) → w.fresh = false → before < (f * 1048576 : Nat) → Does (.waveformConversion ch raw) s fun u =>
        always u ∧ u.eventSeen EV.WAV_DROP = true ∧ u.fld (F.WAV_CH_DROP_SLIP ch) = satTo 16 (c.fld (F.WAV_CH_DROP_SLIP ch) + 1) ∧ (u.wch ch).frame = f ∧ (u.wch ch).open_ = false ∧
        (u.wch ch).blocks = w.blocks) ∧
      ((f * 1048576 : Nat) ≤ stamp → Does (.waveformConversion ch raw) s fun u => always u ∧
        taken u ⟨stamp.toNat / 1048576, stamp.toNat % 1048576, [code]⟩ stamp.toNat)) ∧
    (c.domainUp 3 = false ∨ c.wavEnabled 0 ch = false → exec (.waveformConversion ch raw) s = .next s) ∧
    (c.domainUp 3 = true → c.wavEnabled 0 ch = true → (c.fld F.WAV_STAT_SETTLING).testBit ch = true →
      let v := if c.flag F.TIM_STAT_STEP_HOLD then c.bump (F.WAV_CH_DROP_HOLD ch) else c
      let lim := if se then max 0 (min 16383 raw) else max (-8192) (min 8191 raw)
      (c.cal.ext = none → c.apDrives ch = false → exec (.waveformConversion ch raw) s = .next { s with chip := v }) ∧
      (c.cal.ext = none → c.apDrives ch = true → Does (.waveformConversion ch raw) s fun u => u.regs = v.regs ∧
        u.wch ch = { w with n := w.n + 1 } ∧ u.clk = c.clk ∧ Table.get [] u.cal.steps ch = Table.get [] c.cal.steps ch ++
          [(((w.n * per : Nat) : Int) + sext 16 (c.fld (F.WAV_CH_DELAY_FTU ch)), lim)]) ∧
      (c.cal.ext ≠ none → Does (.waveformConversion ch raw) s fun u => u.regs = v.regs ∧
        u.wch ch = { w with n := w.n + 1 } ∧ u.clk = c.clk ∧
        Table.get [] u.cal.win ch = Table.get [] c.cal.win ch ++ [(w.n, lim)]))) ∧
  (∀ (ch : Fin 4) (s : State),
    let c := s.chip
    ((c.fld F.WAV_STAT_SETTLING).testBit ch = true → (c.wch ch).settle = 0 → c.cal.ext = none → Does (.wavSettlingEnd ch) s fun u =>
      u.wch ch = { c.wch ch with began := 512 * c.clk.cc, n := 0, frame := c.clk.frame, open_ := false, fresh := true, prev := none } ∧
      (∀ k, (u.fld F.WAV_STAT_SETTLING).testBit k = ((c.fld F.WAV_STAT_SETTLING).testBit k && decide (k ≠ ch.val))) ∧
      (∀ k, k ≠ ch.val → u.wch k = c.wch k) ∧ u = { c with regs := { c.regs with direct := u.regs.direct }, wav := u.wav } ∧
      ∀ a, a ≠ F.WAV_STAT_SETTLING.addr → u.regs.direct.get a = c.regs.direct.get a) ∧
    ((c.fld F.WAV_STAT_SETTLING).testBit ch = false ∨ (c.wch ch).settle ≠ 0 → exec (.wavSettlingEnd ch) s = .next s))

/-! ### The transducer front end (chapter 06) -/

/-- R153, R155, R159, R162 to R164, R170: the sequencer. XDC_PASS_START in a frame where a pass is due: while an entry runs, the entries left
are counted as skipped and the new pass waits; else the first entry of the pass starts, with every switch of the crosspoint open for 50 ns,
its settle time, and the lent slices of its profile. XDC_FILTER_RESET after the settle time lets the running entry sample.
EXCITATION_PULSE_END, PW after a source switched on, switches it off and restarts the entry; XDC_OPEN while a source is on emits an open
result. Each row does nothing where its moment is not there. While an entry runs and its switches are closed, the XD pins have the roles
that it names, and no others; the burn-out current flows from its start. -/
def Obligations.SequencerRowsComplete : Prop :=
  ∀ s : State,
    let c := s.chip
    let emits := fun (u : Chip) (x : XdcRes) => u.xdc.results = c.xdc.results ++ [x] ∧
      u.fld F.XDC_RESULT_CNT_COUNT = satTo 32 (c.fld F.XDC_RESULT_CNT_COUNT + 1) ∧ x.rseq = u.fld F.XDC_RESULT_CNT_COUNT % 65536
    (c.domainUp 4 = false ∨ c.xprofile = 0 ∨ c.xdc.due = false → exec .xdcPassStart s = .next s) ∧
    (c.domainUp 4 = true → c.xprofile ≠ 0 → c.xdc.due = true →
      (∀ r, c.xdc.run = some r → Does .xdcPassStart s fun u => u.xdc = { c.xdc with due := false, todo := [], newPass := true } ∧
        u.fld F.XDC_SKIP_CNT_COUNT = satTo 32 (c.fld F.XDC_SKIP_CNT_COUNT + c.xdc.todo.length) ∧
        u = { c with regs := { c.regs with direct := u.regs.direct }, xdc := u.xdc } ∧
        ∀ a, a ≠ F.XDC_SKIP_CNT_COUNT.addr → u.regs.direct.get a = c.regs.direct.get a) ∧
      (c.xdc.run = none → c.lent ≠ [] → c.xdc.pend = 0 → c.xdc.redo = none → Does .xdcPassStart s fun u => u = { c with xdc := u.xdc } ∧
        u.xdc.results = c.xdc.results ∧ u.xdc.due = false ∧ u.xdc.newPass = false ∧
        (c.xpass = [] → u.xdc.run = none ∧ u.xdc.todo = []) ∧
        ∀ n rest, c.xpass = n :: rest → u.xdc.todo = rest ∧ ∃ r, u.xdc.run = some r ∧ r.entry = n ∧ r.urgent = none ∧ r.start = c.clockFtu ∧
          r.sampling = false ∧ r.outputs = 0 ∧ r.closeAt = c.clockFtu + 16384 ∧ r.onA = c.clockFtu ∧ r.onB = c.clockFtu ∧
          r.slices = c.lent.take (if c.xprofile = 1 then 1 else 2) ∧ (∀ p, u.xdRoles p = []) ∧ (c.xdc.ovr = false → r.resetAt = c.clockFtu + c.xsettle n * 327680) ∧
          (r.srcA = true ↔ c.fld (F.XDC_ROUTE_EXC n) = 1 ∨ c.fld (F.XDC_ROUTE_EXC n) = 3) ∧
          (r.srcB = true ↔ c.fld (F.XDC_ROUTE_EXC n) = 2 ∨ c.fld (F.XDC_ROUTE_EXC n) = 3))) ∧
    (∀ r, c.xdc.run = some r →
      let pw := c.xpw r.entry * 327680
      let endA := r.srcA && decide (r.onA + pw ≤ c.clockFtu)
      let endB := r.srcB && decide (r.onB + pw ≤ c.clockFtu)
      (r.sampling = false → r.resetAt ≤ c.clockFtu → Does .xdcFilterReset s fun u =>
        u = { c with xdc := { c.xdc with run := some { r with sampling := true, outputs := 0 } } }) ∧
      (r.sampling = true ∨ c.clockFtu < r.resetAt → exec .xdcFilterReset s = .next s) ∧
      (endA = true ∨ endB = true → Does .excitationPulseEnd s fun u =>
        u.xdc.run = some { r with srcA := r.srcA && !endA, srcB := r.srcB && !endB, offA := r.offA || endA, offB := r.offB || endB
                                  sampling := false, outputs := 0, resetAt := c.clockFtu + c.xsettle r.entry * 327680 } ∧ u.clk = c.clk ∧ u.mems = c.mems ∧
        u.regs.active = c.regs.active ∧ u.xdc.todo = c.xdc.todo ∧
        (r.sampling = false → u.xdc.results = c.xdc.results ∧ u.regs = c.regs) ∧
        (r.sampling = true → c.flag F.XDC_SEQ_CTL_MARK = false → u.xdc.results = c.xdc.results ∧
          u.fld F.XDC_DISCARD_CNT_COUNT = satTo 32 (c.fld F.XDC_DISCARD_CNT_COUNT + 1)) ∧
        (r.sampling = true → c.flag F.XDC_SEQ_CTL_MARK = true → ∃ x, emits u x ∧ x.entry = r.entry ∧ x.invalid = true ∧
          x.raw ≠ 0x7FFFFF ∧ x.raw ≠ 0x800000 ∧ x.raw ≠ 0x800001)) ∧
      (endA = false ∧ endB = false → exec .excitationPulseEnd s = .next s) ∧
      (∀ e : Fin 2, r.srcA = true ∨ r.srcB = true → Does (.xdcOpen e) s fun u => u.clk = c.clk ∧ u.mems = c.mems ∧ u.regs.active = c.regs.active ∧
        u.eventSeen EV.XDC_OPEN = true ∧ u.fld F.XDC_OPEN_CNT_COUNT = satTo 32 (c.fld F.XDC_OPEN_CNT_COUNT + 1) ∧
        ∃ x, emits u x ∧ x.entry = r.entry ∧ x.time = c.now + 256 * e.val ∧ x.raw = 0x800001 ∧ x.opened = true ∧ x.ovr = false ∧ x.invalid = false) ∧
      (∀ e : Fin 2, r.srcA = false → r.srcB = false → exec (.xdcOpen e) s = .next s) ∧
      (c.burnoutPin = if c.flag (F.XDC_CONV_BURNOUT r.entry) then some (c.fld (F.XDC_ROUTE_POS r.entry)) else none) ∧
      (c.clockFtu < r.closeAt → c.pgaNeg = none ∧ ∀ p, c.xdRoles p = []) ∧
      (r.closeAt ≤ c.clockFtu →
        let named := fun (f : Nat → Fld) => c.fld (f r.entry)
        (c.pgaNeg = some (if named F.XDC_ROUTE_NEGSEL = 0 then .pin (named F.XDC_ROUTE_NEG)
          else if named F.XDC_ROUTE_NEGSEL = 2 then .bias else .ground)) ∧
        ∀ p, (.adcPos ∈ c.xdRoles p ↔ named F.XDC_ROUTE_POS = p) ∧
          (.adcNeg ∈ c.xdRoles p ↔ named F.XDC_ROUTE_NEGSEL = 0 ∧ named F.XDC_ROUTE_NEG = p) ∧
          (.sourceA ∈ c.xdRoles p ↔ (named F.XDC_ROUTE_EXC = 1 ∨ named F.XDC_ROUTE_EXC = 3) ∧ named F.XDC_ROUTE_SRC = p) ∧
          (.sourceB ∈ c.xdRoles p ↔ (named F.XDC_ROUTE_EXC = 2 ∨ named F.XDC_ROUTE_EXC = 3) ∧ named F.XDC_ROUTE_SRC2 = p) ∧
          (.sink ∈ c.xdRoles p ↔ named F.XDC_ROUTE_SINK_EN = 1 ∧ named F.XDC_ROUTE_SINK = p) ∧
          (.bias ∈ c.xdRoles p ↔ named F.XDC_ROUTE_BIAS_EN = 1 ∧ named F.XDC_ROUTE_BIAS = p))) ∧
    (c.xdc.run = none → exec .xdcFilterReset s = .next s ∧ exec .excitationPulseEnd s = .next s ∧
      (∀ e : Fin 2, exec (.xdcOpen e) s = .next s) ∧ c.pgaNeg = none ∧ c.burnoutPin = none ∧ ∀ p, c.xdRoles p = [])

/-- R158, R160, R163, R168 to R170: XDC_OUTPUT_COMPLETE, from the filtered input voltage in pV and the voltage on XDREF. Nothing before the output's 2^OSR sample periods have passed. The first two outputs are invalid: emitted
in mark mode, else discarded and counted. The third is the result: floor(v × 2^GAIN × 2^23 / VREF) limited to plus or minus 8,388,606, or an
overrange code, or the open code under burnout; its TIME is that of its last sample; it is counted and the entry ends. -/
def Obligations.OutputsFollowTheirCodes : Prop :=
  ∀ (volt : Int) (xdref : Fin 2000001) (limit : Option Bool) (s : State),
    let c := s.chip
    let i : Instr := .xdcOutputComplete volt limit xdref
    (c.xdc.run = none → exec i s = .next s) ∧
    (∀ r, c.xdc.run = some r → r.sampling = false → exec i s = .next s) ∧
    (∀ r, c.xdc.run = some r → r.sampling = true →
      let ts := if c.xprofile = 1 ∨ r.urgent.isSome = true then 131072 else 65536
      let done := r.resetAt + (r.outputs + 1) * 2 ^ c.xosr 0 r.entry * ts
      let time := c.now + (done - ts) - c.clockFtu
      let v : Int := if c.flag (F.XDC_CONV_REFSEL r.entry) then
          volt * (2 ^ (23 + c.fld (F.XDC_CONV_GAIN r.entry)) : Nat) / (((500000 + xdref.val) * 1000000 : Nat) : Int)
        else c.xcode r.entry volt 0
      let regular := unsext 24 (max (-8388606) (min 8388606 v))
      let burn := c.flag (F.XDC_CONV_BURNOUT r.entry)
      let high := limit = some true ∨ limit = none ∧ 8388606 < v
      let low := limit = some false ∨ limit = none ∧ v < -8388606
      let emits := fun (u : Chip) (x : XdcRes) => u.xdc.results = c.xdc.results ++ [x] ∧
        u.fld F.XDC_RESULT_CNT_COUNT = satTo 32 (c.fld F.XDC_RESULT_CNT_COUNT + 1) ∧ x.rseq = u.fld F.XDC_RESULT_CNT_COUNT % 65536 ∧
        x.entry = r.entry ∧ x.time = time ∧ x.urgent = r.urgent.isSome ∧ x.ext = r.ext ∧ u.clk = c.clk ∧ u.mems = c.mems ∧
        u.regs.active = c.regs.active ∧
        (u.fld (if r.entry < 32 then F.XDC_OPEN_LO_ENTRY else F.XDC_OPEN_HI_ENTRY)).testBit (r.entry % 32) = x.opened
      (c.clockFtu < done → exec i s = .next s) ∧
      (done ≤ c.clockFtu → r.outputs < 2 → c.flag F.XDC_SEQ_CTL_MARK = false → Does i s fun u =>
        u = ({ c with xdc := { c.xdc with run := some { r with outputs := r.outputs + 1 } } } : Chip).bump F.XDC_DISCARD_CNT_COUNT) ∧
      (done ≤ c.clockFtu → r.outputs < 2 → c.flag F.XDC_SEQ_CTL_MARK = true → Does i s fun u =>
        u.xdc.run = some { r with outputs := r.outputs + 1 } ∧ ∃ x, emits u x ∧ x.invalid = true ∧ x.raw = regular ∧ x.ovr = false ∧ x.opened = false) ∧
      (done ≤ c.clockFtu → 2 ≤ r.outputs → Does i s fun u => ∃ x, emits u x ∧ x.invalid = false ∧ x.near = (r.nearOvr || decide (c.xdc.near ≠ 0)) ∧
        (¬ high → ¬ low → x.raw = regular ∧ x.ovr = false ∧ x.opened = false) ∧
        (high → burn = false → x.raw = 0x7FFFFF ∧ x.ovr = true ∧ x.opened = false) ∧
        (high → burn = true → x.raw = 0x800001 ∧ x.ovr = false ∧ x.opened = true) ∧
        (low → x.raw = 0x800000 ∧ x.ovr = true ∧ x.opened = false) ∧
        (x.ovr = true → u.eventSeen EV.XDC_OVR = true ∧ u.fld F.XDC_OVR_CNT_COUNT = satTo 32 (c.fld F.XDC_OVR_CNT_COUNT + 1)) ∧
        (x.opened = true → u.eventSeen EV.XDC_OPEN = true ∧ u.fld F.XDC_OPEN_CNT_COUNT = satTo 32 (c.fld F.XDC_OPEN_CNT_COUNT + 1))))

/-- R171, R173 to R178: XDC_RESULT takes the oldest result out of the linearisation engine once 131,072 FTU have passed since its TIME, and writes its
entry's result registers. LIN is NaN, counted and announced, for a faulty result, one without linearisation, and one whose temperature is
not valid; else, where no coefficient is poisoned, it is Horner's value of the table's polynomial in x and T. -/
def Obligations.ResultsAreLinearised : Prop :=
  (∀ s : State, s.chip.xdc.results = [] ∨ (∃ r rest, s.chip.xdc.results = r :: rest ∧ s.chip.now < r.time + 131072) →
    exec .xdcResult s = .next s) ∧
  (∀ (s : State) (r : XdcRes) (rest : List XdcRes),
    let c := s.chip
    let k := c.ageOf (r.time / 1048576)
    let n := r.entry
    let lin := c.flagAt k (F.XDC_OUT_LIN_EN n)
    let fault := r.invalid || r.ovr || r.opened
    let temp := c.xtemp k n (r.time / 1048576)
    let co := fun (i j : Nat) => bits (c.memData 7 (16 * c.fldAt k (F.XDC_OUT_TABLE n) + 2 * i + j / 2)) (32 * (j % 2) + 31) (32 * (j % 2))
    let x := c.xvalue k n r.raw
    let a := fun (j : Nat) => (List.range 7).foldl (fun y i => f32Add (f32Mul y x) (co (6 - i) j)) (co 7 j)
    let t := temp.getD 0
    let y := f32Add (f32Mul (f32Add (f32Mul (f32Add (f32Mul (a 3) t) (a 2)) t) (a 1)) t) (a 0)
    let ok := lin = true ∧ fault = false ∧ temp.isSome = true ∧ f32IsNaN y = false ∧ f32IsInf y = false
    let rests := fun (u : Chip) => u.xdc.results = rest ∧ u.xdc.run = c.xdc.run ∧ u.clk = c.clk ∧ u.regs.active = c.regs.active ∧
      u.fld (F.XDC_RES_LO_RAW n) = r.raw
    let invalid := fun (u : Chip) => rests u ∧ u.fld (F.XDC_RES_HI_LIN n) = f32NaN ∧ u.xdc.linInv = satTo 32 (c.xdc.linInv + 1) ∧
      u.eventSeen EV.XDC_LIN_INV = true ∧ u.xdc.temps = c.xdc.temps
    c.xdc.results = r :: rest → r.time + 131072 ≤ c.now → r.raw < 2 ^ 24 → n < 64 →
      (lin = false ∨ fault = true ∨ temp = none → Does .xdcResult s invalid) ∧
      (lin = true → fault = false → temp.isSome = true → (∀ w, (c.mem 7).par.get w = 0#8) →
        (k = 1 → c.tabs.lin1 = (c.mem 7).data) → (2 ≤ k → c.tabs.lin2 = (c.mem 7).data) →
        (¬ ok → Does .xdcResult s invalid) ∧
        (ok → Does .xdcResult s fun u => rests u ∧ u.fld (F.XDC_RES_HI_LIN n) = y % 2 ^ 32 ∧ u.xdc.linInv = c.xdc.linInv ∧
          u.xdc.temps = if r.stale then c.xdc.temps else Table.set c.xdc.temps n (some (y, r.time / 1048576)))))

/-! ### Time inputs and pulse outputs (chapter 07) -/

/-- R182 to R192, R195: the time-input rows. An edge of a disabled input is no edge. The prescaler divides by 2^PRESC. An edge of its output that
comes within 28 ns of the last one of its converter is lost, counted and announced; any other is stamped, with the table and the DELAY of
the frame of its stamp, and waits for the interval channels. These take their edges in ascending stamp order, of equal stamps a start edge
first, as soon as no later edge can have a smaller stamp (DEDUCED, notes/assumptions/30), by their MODE: INTERVAL (a stop first, then a
start, where one edge is both), PERIOD, FREQUENCY or COUNT. A gate of FREQUENCY is half-open in the stamps. TI_TIMEOUT forgets what has
waited TMO frames; FREQUENCY_GATE_END gives the time between the first and the last edge of its gate. -/
def Obligations.TimeInputRowsComplete : Prop :=
  (∀ (n : Fin 8) (r : Bool) (tclk : Fin 2) (f1 f2 : Fin 16) (s : State),
    let c := s.chip
    let i : Instr := .tiEdge n r tclk f1 f2
    let p := min 8 (c.fld (F.TIP_TI_CFG_PRESC n))
    let here := c.clockFtu + 256 * tclk + 16 * f1 + f2
    let busy := fun (r : Bool) => ∃ b, (if r then (c.ti n).lastR else (c.ti n).lastF) = some b ∧ here < b + 9175
    let wait := fun (k : Nat) => Does i s fun u => u = { c with tis := u.tis } ∧ u.ti n = { c.ti n with count := k } ∧
      ∀ m, m ≠ n.val → u.ti m = c.ti m
    let goes := fun (r : Bool) (k : Nat) =>
      let x : TiIn := { c.ti n with count := k }
      let base := 0x30000 + 64 * n.val + (if r then 0 else 32)
      let byte := fun (k a : Nat) => bits (memReset 4 (a / 8) ^^^
        (if k = 0 then (c.mem 4).data else if k = 1 then c.tabs.cal1 else c.tabs.cal2).get (a / 8)).toNat (8 * (a % 8) + 7) (8 * (a % 8))
      let stamped := fun (k : Nat) => (((c.now + 256 * tclk + min 255 (byte k (base + f1) + byte k (base + 16 + f2)) : Nat) : Int)
        - sext 16 (c.fldAt k (F.TIP_TI_DELAY_FTU n))).toNat
      let fits := fun (k : Nat) => c.ageOf (stamped k / 1048576) = k
      (busy r → Does i s fun u => u.eventSeen EV.TI_EDGE_LOST = true ∧ u.tips = c.tips ∧ u.clk = c.clk ∧ u.regs.active = c.regs.active ∧
        u.ti n = x ∧ u.fld (F.TIP_TI_LOST_COUNT n) = satTo 32 (c.fld (F.TIP_TI_LOST_COUNT n) + 1)) ∧
      (¬ busy r → Does i s fun u => u.clk = c.clk ∧ u.regs.active = c.regs.active ∧ u.tips = c.tips ∧ (∀ m, m ≠ n.val → u.ti m = c.ti m) ∧
        ∃ t : Nat, ((∀ w, (c.mem 4).par.get w = 0#8) → ∀ k, (k < 3 ∧ fits k ∧ ∀ j, j < k → ¬ fits j) ∨ (k = 0 ∧ ∀ j, j < 3 → ¬ fits j) →
            t = stamped k) ∧
          u.ti n = if r then { x with lastR := some here, queue := x.queue ++ [(t, r)] }
            else { x with lastF := some here, queue := x.queue ++ [(t, r)] })
    (c.domainUp 5 = false ∨ (c.flag (F.TIP_TI_CFG_EN n) = false ∧ c.calRuns 6 = false) → exec i s = .next s) ∧
    (c.domainUp 5 = true → c.flag (F.TIP_TI_CFG_EN n) = true →
      (p = 0 → goes r 0) ∧
      (0 < p → r = false → wait (c.ti n).count) ∧
      (0 < p → r = true → ((c.ti n).count = 0 → goes true (1 % 2 ^ p)) ∧
        ((c.ti n).count = 2 ^ (p - 1) → goes false ((2 ^ (p - 1) + 1) % 2 ^ p)) ∧
        ((c.ti n).count ≠ 0 → (c.ti n).count ≠ 2 ^ (p - 1) → wait (((c.ti n).count + 1) % 2 ^ p))))) ∧
  (∀ (k : Nat) (c : Chip) (upto : Int),
    let l := c.channelEdges k upto
    l.Pairwise (fun a b => a.1 < b.1 ∨ (a.1 = b.1 ∧ a.2 ≤ b.2)) ∧
    (∀ t role, (t, role) ∈ l ↔ (t : Int) < upto ∧ (c.tip k).begun ≤ t ∧ ∃ n r, n < 8 ∧ (t, r) ∈ (c.ti n).queue ∧ c.edgeRole k n r = some role) ∧
    (∀ n, ((drainTips c).ti n).queue = (c.ti n).queue.filter fun e => decide (8 ≤ n) || decide (c.tiHorizon ≤ (e.1 : Int)))) ∧
  (∀ (k t role : Nat) (c : Chip), k < 4 → role < 3 →
    let u := takeEdge k (t, role) c
    let mode := c.fld (F.TIP_CH_CTL_MODE k)
    let y := c.tip k
    let gateEnd := y.gate0 + max 1 (c.fld (F.TIP_CH_GATE_FRAMES k)) * 1048576
    let plus := fun (f : Fld) => u.fld f = satTo 32 (c.fld f + 1)
    let same := fun (f : Fld) => u.fld f = c.fld f
    let result := fun (v : Int) => u.fld (F.TIP_CH_LAST_LO_VALUE k) = unsext 64 v % 2 ^ 32 ∧
      u.fld (F.TIP_CH_LAST_HI_VALUE k) = unsext 64 v / 2 ^ 32 % 2 ^ 32
    (c.tipExpired k t = true → u = takeEdge k (t, role) (expireTip k c)) ∧
    (c.tipExpired k t = false → mode = 0 →
      (role < 2 → (u.tip k).armed = some t) ∧
      (0 < role → (∀ a, y.armed = some a → t < a) → plus (F.TIP_CH_STOP_EARLY_COUNT k) ∧ same (F.TIP_CH_LAST_LO_VALUE k) ∧
        (role = 2 → u.tip k = y) ∧ (role = 1 → y.armed.isSome = true → plus (F.TIP_CH_REARM_COUNT k))) ∧
      (∀ a, 0 < role → y.armed = some a → a ≤ t → result ((t : Int) - a) ∧ same (F.TIP_CH_STOP_EARLY_COUNT k) ∧
        same (F.TIP_CH_REARM_COUNT k) ∧ (a = t → plus (F.TIP_CH_SUB_RES_COUNT k)) ∧ (role = 2 → (u.tip k).armed = none)) ∧
      (role = 0 → y.armed.isSome = true → plus (F.TIP_CH_REARM_COUNT k))) ∧
    (c.tipExpired k t = false → mode = 1 → (u.tip k).prev = some t ∧ ∀ b, y.prev = some b → result ((t : Int) - b)) ∧
    (c.tipExpired k t = false → mode = 2 →
      (t < y.gate0 → u.tip k = y) ∧ (y.gate0 ≤ t → gateEnd ≤ t → u.tip k = { y with ahead := y.ahead ++ [t] }) ∧
      (y.gate0 ≤ t → t < gateEnd →
        u.tip k = { y with edges := y.edges + 1, tFirst := if y.edges = 0 then t else y.tFirst, tLast := t })) ∧
    (c.tipExpired k t = false → mode = 3 → (u.tip k).count = (y.count + 1) % 2 ^ 64 ∧ result (((y.count + 1) % 2 ^ 64 : Nat) : Int))) ∧
  (∀ (k : Fin 4) (s : State),
    let c := s.chip
    let y := c.tip k
    let tmo := c.fld (F.TIP_CH_TMO_FRAMES k)
    let due := tmo ≠ 0 ∧ ∃ a, y.armed.or y.prev = some a ∧ a + tmo * 1048576 ≤ c.tiHorizon.toNat
    let gate := max 1 (c.fld (F.TIP_CH_GATE_FRAMES k))
    let stop := y.gate0 + gate * 1048576
    let over_ := c.tipOn k = true ∧ c.fld (F.TIP_CH_CTL_MODE k) = 2 ∧ gate ≤ y.gateN ∧ (stop : Int) ≤ c.tiHorizon
    let v := if y.edges < 2 then 0 else y.tLast - y.tFirst
    let time := if y.edges = 0 then stop - 1048576 else y.tLast
    (due → Does (.tiTimeout k) s fun u => u.tip k = { y with armed := none, prev := none } ∧ u.eventSeen EV.TI_TIMEOUT = true ∧
      u.fld (F.TIP_CH_TIMEOUT_COUNT k) = satTo 32 (c.fld (F.TIP_CH_TIMEOUT_COUNT k) + 1) ∧ (∀ m, m ≠ k.val → u.tip m = c.tip m) ∧ u.clk = c.clk ∧
      u.regs.active = c.regs.active) ∧
    (¬ due → exec (.tiTimeout k) s = .next s) ∧
    (over_ → Does (.frequencyGateEnd k) s fun u =>
      (y.ahead = [] → u.tip k = { y with gate0 := stop, gateN := y.gateN - gate, edges := 0, tFirst := 0, tLast := 0 }) ∧
      (∀ a, y.ahead = [a] → stop ≤ a → a < stop + gate * 1048576 →
        u.tip k = { y with gate0 := stop, gateN := y.gateN - gate, edges := 1, tFirst := a, tLast := a, ahead := [] }) ∧
      (∀ m, m ≠ k.val → u.tip m = c.tip m) ∧
      u.fld (F.TIP_CH_RESULTS_COUNT k) = (if c.flagAt (c.ageOf (time / 1048576)) (F.TIP_CH_CTL_HIST k) then
        satTo 32 (c.fld (F.TIP_CH_RESULTS_COUNT k) + 1) else c.fld (F.TIP_CH_RESULTS_COUNT k)) ∧
      u.fld (F.TIP_CH_LAST_LO_VALUE k) = v % 2 ^ 32 ∧ u.fld (F.TIP_CH_LAST_HI_VALUE k) = v / 2 ^ 32 % 2 ^ 32 ∧ u.clk = c.clk ∧
      u.regs.active = c.regs.active) ∧
    (¬ over_ → exec (.frequencyGateEnd k) s = .next s))

/-- R193, R194, R196 to R201: statistics and pulse outputs. A result joins its set; the one that fills it closes it with mean, deviation, minimum and
maximum, and the next set starts empty; isqrt is the floor of the square root. PULSE_START drives the pin active for WIDTH steps,
counts, and ends its schedule after COUNT pulses; PULSE_END gives the pin the idle level in force; FTO rises, in a warm reset as well, at the start of a frame whose index is a
multiple of 2^DIV and falls 1.6 µs later, at 2.4 µs in the frame of a second. -/
def Obligations.PulseAndStatisticsRowsComplete : Prop :=
  (∀ x, x < 2 ^ 200 → isqrt x * isqrt x ≤ x ∧ x < (isqrt x + 1) * (isqrt x + 1)) ∧
  (∀ (k time : Nat) (v : Int) (c : Chip), k < 4 →
    let y := c.tip k
    let size := min (2 ^ 24) (c.fld (F.TIP_CH_NSTAT_N k))
    let n := y.setN + 1
    let s1 := y.s1 + v
    let s2 := y.s2 + (v * v).toNat
    let mn := if y.setN = 0 then v else min y.mn v
    let mx := if y.setN = 0 then v else max y.mx v
    let u := addToSet k time v c
    (size = 0 → u = c) ∧
    (n < size → u = setTip k (u.tip k) c ∧ (u.tip k).setN = n ∧ (u.tip k).s1 = s1 ∧ (u.tip k).s2 = s2 ∧ (u.tip k).mn = mn ∧ (u.tip k).mx = mx) ∧
    (size ≠ 0 → size ≤ n → (u.tip k).setN = 0 ∧ (u.tip k).s1 = 0 ∧ (u.tip k).s2 = 0 ∧ u.eventSeen EV.TI_STAT_DONE = true ∧
      u.fld (F.TIP_CH_MEAN_LO_MEAN k) = unsext 64 (256 * s1 / (n : Int)) % 2 ^ 32 ∧
      u.fld (F.TIP_CH_MEAN_HI_MEAN k) = unsext 64 (256 * s1 / (n : Int)) / 2 ^ 32 % 2 ^ 32 ∧
      u.fld (F.TIP_CH_DEV_DEV k) = satTo 32 (isqrt (65536 * ((n : Int) * s2 - s1 * s1).toNat) / n) ∧
      u.fld (F.TIP_CH_MIN_LO_MIN k) = unsext 64 mn % 2 ^ 32 ∧ u.fld (F.TIP_CH_MAX_LO_MAX k) = unsext 64 mx % 2 ^ 32 ∧
      u.fld (F.TIP_CH_STAT_N_N k) = n % 2 ^ 25 ∧ u.fld (F.TIP_CH_STATS_COUNT k) = satTo 32 (c.fld (F.TIP_CH_STATS_COUNT k) + 1) ∧
      u.clk = c.clk ∧ u.regs.active = c.regs.active)) ∧
  (∀ (j : Fin 8) (s : State),
    let c := s.chip
    let x := c.po j
    let t := c.poStart j x.next
    let pol := c.flag (F.TIP_PO_CTL_POL j)
    let periodic := c.flag (F.TIP_PO_CTL_PERIODIC j)
    let count := c.fld (F.TIP_PO_COUNT_COUNT j)
    let due := c.domainUp 5 = true ∧ c.standby = false ∧ x.live = true ∧ c.poLeft j = true ∧ x.on = none ∧ t ≤ (c.now : Int) + 511
    let last := periodic = true ∧ count ≠ 0 ∧ count ≤ x.fired + 1
    let frame := fun (u : Chip) => u.clk = c.clk ∧ u.mems = c.mems ∧ u.regs.active = c.regs.active ∧ ∀ m, m ≠ j.val → u.po m = c.po m
    (due → Does (.pulseStart j) s fun u => frame u ∧ (u.po j).on = some (pol, t.toNat + 16 * max 64 (c.fld (F.TIP_PO_CTL_WIDTH j))) ∧
      (u.po j).next = x.next + 1 ∧ (u.po j).fired = x.fired + 1 ∧ ((u.po j).live = true ↔ periodic = true ∧ ¬ last) ∧
      u.pins = { c.pins with po := c.pins.po.set j (!pol) } ∧ u.fld (F.TIP_PO_FIRED_COUNT j) = satTo 32 (c.fld (F.TIP_PO_FIRED_COUNT j) + 1) ∧
      (last → u.eventSeen EV.PO_DONE = true)) ∧
    (¬ due → exec (.pulseStart j) s = .next s) ∧
    (∀ b e, x.on = some (b, e) → e ≤ c.now + 511 → Does (.pulseEnd j) s fun u => frame u ∧ u.po j = { x with on := none } ∧
      u.pins = { c.pins with po := c.pins.po.set j pol } ∧ u.regs = c.regs) ∧
    (x.on = none ∨ (∃ b e, x.on = some (b, e) ∧ c.now + 511 < e) → exec (.pulseEnd j) s = .next s)) ∧
  (∀ s : State,
    let c := s.chip
    let rises := c.rst.porst = false ∧ c.rst.supply = false ∧ c.flag F.TIP_FTO_CTL_EN = true ∧ c.clk.everLock = true ∧ c.clk.counting = true ∧ c.clk.cclk = 0 ∧
      ¬ (c.clk.steppedIn = true ∧ 512 ≤ c.clk.residual) ∧ (c.clk.frame % 312500) % 2 ^ min 8 (c.fld F.TIP_FTO_CTL_DIV) = 0
    let falls := (if c.flag F.TIP_FTO_CTL_SEC_MARK = true ∧ c.clk.frame % 312500 = 0 then 1536 else 1024) ≤ c.clk.cclk
    (rises → Does .ftoRise s fun u => u = { c with pins := { c.pins with fto := true } }) ∧ (¬ rises → exec .ftoRise s = .next s) ∧
    (falls → Does .ftoFall s fun u => u = { c with pins := { c.pins with fto := false } }) ∧ (¬ falls → exec .ftoFall s = .next s))

/-- R204, R205, R207 to R211, R215, R217, R219 to R223: the rows of the calibration engine. INTERVAL starts a run; a run ends when every
unit has its data or MAX_FRAMES have passed (TDCCD: twice as many, for its fall-back), and leaves PENDING results that change no value in
force: THEQ trims e + δ and timewalk knots S / n among them. THEQ_DWELL_END halves the interval of a pixel's edge; the injections go
to the next unmasked pixel of an enabled parterre, one per quiet frame, and those of PULSE with the charge that AMP or TPIN gives; a window
moves each slice target by at most one code and is applied at once (AGE 0); the fall-back of SLICE ends with a RESULT; a ramp step moves a
gain by at most GSTEP toward its target and a trim, with the pixel's latch, by one code. -/
def Obligations.CalibrationRowsComplete : Prop :=
  (∀ (i : Fin 8) (s : State),
    let c := s.chip
    let x := c.calProc i
    let n := c.fld (F.CAL_P_CTL_INTERVAL i)
    let starts := i.val ≠ 5 ∧ n ≠ 0 ∧ n ≤ x.since ∧ x.run = false ∧ c.flag F.CAL_CTL_EN = true ∧ c.domainUp 6 = true
    let max_ := max 1 (c.fld (F.CAL_P_MAX_FRAMES i))
    let ends := x.run = true ∧ c.flag F.CAL_CTL_EN = true ∧ c.domainUp 6 = true ∧
      (c.calComplete i = true ∨ (if i.val = 1 then 2 * max_ else max_) ≤ x.age)
    let seen := c.cal.edges.filter fun e => decide (0 ≤ e.2 ∧ e.2 ≤ 62)
    let δ : Int := if seen = [] then 0 else 32 - (2 * (seen.map Prod.snd).sum + seen.length) / (2 * seen.length)
    let need := max 1 (c.fld F.CAL_TW_CFG_MINPAIRS)
    let full := c.knotUnits.filter fun j => decide (need ≤ (Table.get (0, 0) c.cal.pairs j).2)
    (starts → Does (.calIntervalStart i) s fun u => u = { c with cal := { c.cal with procs := u.cal.procs } } ∧
      u.calProc i = { x with start := true } ∧ ∀ j, j ≠ i.val → u.calProc j = c.calProc j) ∧
    (¬ starts → exec (.calIntervalStart i) s = .next s) ∧
    (ends → Does (.calRunEnd i) s fun u =>
      u.calProc i = { x with run := false, since := 0, pend := true, applyIn := if c.flag (F.CAL_P_CTL_AUTO i) then some 2 else none } ∧
      (∀ j, j ≠ i.val → u.calProc j = c.calProc j) ∧ u.clk = c.clk ∧ u.regs.active = c.regs.active ∧ u.regs.shadow = c.regs.shadow ∧
      (∀ m, m ≠ 6 → u.mem m = c.mem m) ∧ u.lawn = c.lawn ∧
      u.flag (F.CAL_P_STAT_RUNNING i) = false ∧ u.flag (F.CAL_P_STAT_PENDING i) = true ∧
      (u.fld F.CAL_STAT_RUNNING).testBit i = false ∧ (u.fld F.CAL_STAT_PENDING).testBit i = true ∧
      u.fld (F.CAL_P_STAT_RUNS i) = satTo 16 (c.fld (F.CAL_P_STAT_RUNS i) + 1) ∧
      u.flag (F.CAL_P_STAT_FALLBACK i) = (if i.val = 4 then c.flag F.CAL_PULSE_CFG_SRC
        else if i.val = 6 then (List.range 8).any (fun n => !c.flag (F.TIP_TI_CFG_EN n)) else x.fallback) ∧
      1 ≤ u.fld (F.CAL_P_STAT_RESULT i) ∧ u.fld (F.CAL_P_STAT_RESULT i) ≤ 3 ∧
      (u.fld (F.CAL_P_STAT_RESULT i) = 1 → u.eventSeen EV.CAL_DONE = true) ∧
      (u.fld (F.CAL_P_STAT_RESULT i) ≠ 1 → u.eventSeen EV.CAL_INCOMPLETE = true) ∧
      (i.val = 0 → u.cal.pendTrim = seen.map fun e => (e.1, (max 0 (min 63 (e.2 + δ))).toNat)) ∧
      (i.val = 2 → u.cal.pendKnot = full.map fun j =>
        (j, max (-32768) (min 32767 ((Table.get (0, 0) c.cal.pairs j).1 / ((Table.get (0, 0) c.cal.pairs j).2 : Int)))))) ∧
    (¬ ends → exec (.calRunEnd i) s = .next s)) ∧
  (∀ (p : Fin 1024) (s : State),
    let c := s.chip
    let q := c.probe p
    let may := fun (pix : Nat) => c.flag (F.PRT_CTL_EN p) = true ∧ pix ≠ 64 ∧ (c.pixLatch (pixKey (rowOf p pix) (colOf p pix))).testBit 6 = false
    let due := c.calRuns 0 = true ∧ may q.pix ∧ max 1 (c.fld F.CAL_THEQ_CFG_DWELL) ≤ q.frames
    let mid := (q.lo + q.hi) / 2
    let hit := max 1 (c.fld F.CAL_THEQ_CFG_COUNT) ≤ q.count
    let lo := if hit then mid else q.lo
    let hi := if hit then q.hi else mid
    let y := c.tdcPulse p
    let lacking := ∃ v, v < 4 ∧ 4 * p.val + v ∈ c.tdcUnits ∧ c.convN (4 * p.val + v) < c.tdcM
    let up := c.nextPix p (if y.pix = 64 then 0 else y.pix + 1)
    let target := if up = 64 then c.nextPix p 0 else up
    let inject := c.quietProc = some 1 ∧ may target ∧ lacking ∧ y.at_ ≠ c.clk.ticks + 1
    let z := c.pulsePrt p
    let pulse := c.quietProc = some 4 ∧ may z.pix ∧ z.at_ ≠ c.clk.ticks + 1 ∧ 512 ≤ c.clk.cclk ∧ z.shots < max 1 (c.fld F.CAL_PULSE_CFG_PULSES)
    (due → Does (.theqDwellEnd p) s fun u => u = { c with cal := { c.cal with probes := u.cal.probes, edges := u.cal.edges } } ∧
      (∀ m, m ≠ p.val → u.probe m = c.probe m) ∧
      (1 < hi - lo → u.probe p = ⟨q.pix, lo, hi, 0, 0⟩ ∧ u.cal.edges = c.cal.edges) ∧
      (¬ 1 < hi - lo → u.probe p = ⟨c.nextPix p (q.pix + 1), -1, 64, 0, 0⟩ ∧
        u.cal.edges = Table.set c.cal.edges (pixKey (rowOf p q.pix) (colOf p q.pix)) lo)) ∧
    (¬ due → exec (.theqDwellEnd p) s = .next s) ∧
    (inject → Does (.calTdcInjection p) s fun u => u = { c with cal := { c.cal with inj := u.cal.inj } } ∧
      u.tdcPulse p = ⟨target, y.pix, c.clk.ticks + 1⟩ ∧ ∀ m, m ≠ p.val → u.tdcPulse m = c.tdcPulse m) ∧
    (¬ inject → exec (.calTdcInjection p) s = .next s) ∧
    (pulse → Does (.calPulseInjection p) s fun u => u = { c with
        lawn := { c.lawn with charge := some (if c.flag F.CAL_PULSE_CFG_SRC then .tpin else .steps (c.fld F.CAL_PULSE_CFG_AMP)) }
        cal := { c.cal with pulses := u.cal.pulses } } ∧
      u.pulsePrt p = { z with shots := z.shots + 1, at_ := c.clk.ticks + 1, got := none, total := z.total + 1
                              shot := some (z.pix, c.clk.frame * 1048576 + c.clk.residual + 1024 * 256) } ∧
      ∀ m, m ≠ p.val → u.pulsePrt m = c.pulsePrt m) ∧
    (¬ pulse → exec (.calPulseInjection p) s = .next s)) ∧
  (∀ (i : Fin 8) (s : State),
    let c := s.chip
    let x := c.sliceSt i
    let codes := fun (j : Nat) => Table.get [] c.cal.winReady j
    (x.due = false → exec (.sliceWindowEnd i) s = .next s) ∧
    (x.due = true → Does (.sliceWindowEnd i) s fun u => (u.sliceSt i).due = false ∧ Keeps [0x70] c u ∧ u.mems = c.mems ∧
      (∀ m, m ≠ i.val → u.sliceSt m = c.sliceSt m) ∧
      (u.sliceSt i ≠ { x with due := false } → u.fld (F.CAL_P_AGE_FRAMES 5) = 0 ∧ u.flag (F.CAL_SL_Q_STALE i) = false) ∧
      ((∀ j, codes j = []) → (u.sliceSt i).offset = x.offset ∧ (u.sliceSt i).gain = x.gain ∧ (u.sliceSt i).skew = x.skew) ∧
      (-512 ≤ x.offset → x.offset ≤ 511 → ((u.sliceSt i).offset - x.offset).natAbs ≤ 1) ∧
      (-512 ≤ x.gain → x.gain ≤ 511 → ((u.sliceSt i).gain - x.gain).natAbs ≤ 1) ∧
      (-512 ≤ x.skew → x.skew ≤ 511 → ((u.sliceSt i).skew - x.skew).natAbs ≤ 1))) ∧
  (∀ s : State,
    let c := s.chip
    let ok := c.cal.extSeen
    let ends := c.cal.ext = some 0 ∧ c.cal.extFirst = false
    (¬ ends → exec .sliceFallbackEnd s = .next s) ∧
    (ends → Does .sliceFallbackEnd s fun u => Keeps [0x40, 0x70] c u ∧ u.mems = c.mems ∧ u.cal.ext = none ∧
      u.fld (F.CAL_P_STAT_RESULT 5) = (if ok then 1 else 2) ∧ u.fld (F.CAL_P_STAT_RUNS 5) = satTo 16 (c.fld (F.CAL_P_STAT_RUNS 5) + 1) ∧
      u.flag (F.CAL_P_STAT_FALLBACK 5) = ok ∧ u.eventSeen (if ok then EV.CAL_DONE else EV.CAL_INCOMPLETE) = true ∧
      u.flag (F.CAL_P_STAT_RUNNING 5) = false ∧
      ∀ ch, ch ∈ c.waveUnits → (u.wch ch).settle = max 1 (c.fld F.WAV_SETTLE_FRAMES) ∧ (u.wch ch).open_ = false)) ∧
  (∀ s : State,
    let c := s.chip
    let due := c.flag F.CAL_CTL_EN = true ∧ c.domainUp 6 = true ∧ max 1 (c.fld F.CAL_RAMP_FRAMES) ≤ c.cal.ramp
    let step := max 1 (c.fld F.CAL_RAMP_GSTEP)
    (¬ due → exec .calRampStep s = .next s) ∧
    (due → Does .calRampStep s fun u => u.cal.ramp = 0 ∧ u.clk = c.clk ∧ u.rst = c.rst ∧
      ∀ p t, p < 1024 → t < 2 ^ 13 → c.cal.tgtTrim = [] → c.cal.tgtGain = [(p, t)] →
        (c.cmd.touched.get (F.PRT_GAIN_G p).addr).toNat % 2 ^ 13 = 0 →
        let v := c.fld (F.PRT_GAIN_G p)
        let w := if v < t then min t (v + step) else max t (v - step)
        u.fld (F.PRT_GAIN_G p) = w ∧ u.shFld (F.PRT_GAIN_G p) = w ∧ u.cal.tgtGain = (if w = t then [] else [(p, t)]))) ∧
  (∀ (key t : Nat) (c : Chip), key < 65536 → t < 64 → c.mems.length = 12 → (c.mem 2).par.get (key / 8) = 0#8 →
    (c.mem 3).par.get (key / 8) = 0#8 → (c.cmd.touched.get (0x300000 + key / 4 * 4)).toNat = 0 →
    let u := trimStep key t c
    let byte := fun (m : Nat) (c : Chip) => bits (c.memData m (key / 8)) (8 * (key % 8) + 7) (8 * (key % 8))
    let old := byte 2 c
    let latch := fun (u : Chip) => u.lawn.latch.get (key / 8) = memReset 2 (key / 8) ^^^ w64 (u.memData 2 (key / 8))
    let v := if old % 64 < t then old % 64 + 1 else if t < old % 64 then old % 64 - 1 else t
    byte 2 u = old / 64 * 64 + v ∧ byte 3 u = byte 3 c / 64 * 64 + v ∧ u.clk = c.clk ∧ latch u ∧
      ∀ b, b < 8 → b ≠ key % 8 → bits (u.memData 2 (key / 8)) (8 * b + 7) (8 * b) = bits (c.memData 2 (key / 8)) (8 * b + 7) (8 * b))

/-- R235, R245, R246, R258, R259, R269: at a block boundary the older open block of each measure of this RW closes, an empty one
opens, and RUN is the larger of the two sums (checked where no level condition watches a measure). SAFETY_RELEASE ends an assertion
without a latch that is not met and has lasted MIN frames, at a tick; a BLANK pin that nothing else drives is released with it, and the
frame that the tick starts is held only where another condition holds the loops. STREAM_BLOCK_CLOSE closes a block that has reached BLKSZ
and gives it the next BSEQ, POISON of its own words, and WRESET; CSTAGE_ROOM sends a block that waited. -/
def Obligations.MeasureSafetyAndStreamRowsComplete : Prop :=
  (∀ (rw : Fin 6) (s : State),
    let c := s.chip
    let on := c.flag F.LOOP_CTL_EN = true
    let b := c.now / blockFtu rw
    let moves := fun (n : Nat) => c.measOk 0 n = true ∧ (c.measType 0 n = 1 ∨ c.measType 0 n = 2 ∨ c.measType 0 n = 3 ∨ c.measType 0 n = 6) ∧
      (c.measure n).rw = rw.val ∧ (c.measure n).blk ≠ b
    (¬ on → exec (.measureBlockBoundary rw) s = .next s) ∧
    (on → Does (.measureBlockBoundary rw) s fun u => Feeds c u ∧ ∀ n, n < 128 →
      let m := c.measure n
      (moves n → u.measure n = { m with blk := b, cur := Stat.empty, old := if m.blk + 1 = b then m.cur else Stat.empty }) ∧
      (¬ moves n → u.measure n = m) ∧
      ((∀ k, k < 16 → c.fld (F.LOOP_SC_CFG_TYPE k) ≠ 1 ∧ c.fld (F.LOOP_SC_CFG_TYPE k) ≠ 2) → moves n → c.measType 0 n ≠ 3 →
        u.fld (F.LOOP_M_RUN_VALUE n) = unsext 32 (scaleQ (max 0 (if m.blk + 1 = b then m.cur.sum else 0)) (c.fld (F.LOOP_M_CFG_SHIFT n))) % 2 ^ 32))) ∧
  (∀ (k : Fin 16) (s : State),
    let c := s.chip
    let x := c.scState k
    let ends := c.asserting k = true ∧ c.latched k = false ∧ c.flag (F.LOOP_SC_CFG_LATCH k) = false ∧ x.met = false ∧
      max 1 (c.fld (F.LOOP_SC_MIN_FRAMES k)) ≤ x.frames ∧ c.clk.cclk = 0
    let alone := fun (force : Fld) (pin : Nat → Fld) => c.flag force = false ∧
      ∀ j, j < 16 → j ≠ k.val → c.asserting j = true → c.flag (pin j) = false
    (¬ ends → exec (.safetyRelease k) s = .next s) ∧
    (ends → Does (.safetyRelease k) s fun u => u = { c with
        regs := { c.regs with direct := u.regs.direct }, sc := u.sc
        fb := { c.fb with cur := c.fb.cur.map fun a => { a with
          held := (List.range 16).any fun j => j != k.val && c.asserting j && c.flag (F.LOOP_SC_CFG_HOLDLOOPS j) } } } ∧
      (∀ a, a ≠ F.LOOP_SAFE_STAT_ASSERT.addr → u.regs.direct.get a = c.regs.direct.get a) ∧
      (∀ j, j < 16 → u.asserting j = (c.asserting j && decide (j ≠ k.val))) ∧
      (alone F.LOOP_CTL_FORCE_A F.LOOP_SC_CFG_PIN_A → u.blankDrive false = false) ∧
      (alone F.LOOP_CTL_FORCE_B F.LOOP_SC_CFG_PIN_B → u.blankDrive true = false))) ∧
  (∀ (n : Fin 16) (l : Fin 8) (s : State),
    let c := s.chip
    let x := c.slane n l
    let bseq := c.fld (F.CMP_CH_BSEQ_NEXT n)
    let same := fun (u : Chip) => u.fld (F.CMP_CH_BLOCKS_COUNT n) = c.fld (F.CMP_CH_BLOCKS_COUNT n) ∧ u.fld (F.CMP_CH_OUT_COUNT n) = c.fld (F.CMP_CH_OUT_COUNT n)
    let sent := fun (u : Chip) (o : StreamOut) => u.fld (F.CMP_CH_BLOCKS_COUNT n) = satTo 32 (c.fld (F.CMP_CH_BLOCKS_COUNT n) + 1) ∧
      u.fld (F.CMP_CH_OUT_COUNT n) = satTo 32 (c.fld (F.CMP_CH_OUT_COUNT n) + o.payload.length)
    (c.domainUp 7 = false → exec (.streamBlockClose n l) s = .next s ∧ exec (.cstageRoom n l) s = .next s) ∧
    (c.domainUp 7 = true →
      (Does (.streamBlockClose n l) s fun u => Works c u) ∧
      (Does (.cstageRoom n l) s fun u => Works c u) ∧
      (x.inq = [] → x.outq = [] → (∀ b, x.open_ = some b → b.words.length < 512 * b.cfg.blk) →
        exec (.streamBlockClose n l) s = .next s ∧ exec (.cstageRoom n l) s = .next s) ∧
      (∀ b, x.inq = [] → x.outq = [] → x.open_ = some b → 512 * b.cfg.blk ≤ b.words.length → b.cfg.coder = 0 →
        let raw := b.words.flatMap wordBytes
        let first := (b.starts.filter fun x => x.1 == 0).getLastD (0, b.frame, b.epoch)
        let fresh := b.wreset || (b.cfg.win != 0 && decide (b.cfg.win ≤ (c.stream n).since + 1))
        Does (.streamBlockClose n l) s fun u => Works c u ∧ (u.slane n l).open_ = none ∧ u.fld (F.CMP_CH_BSEQ_NEXT n) = (bseq + 1) % 2 ^ 32 ∧
          (u.stream n).since = (if fresh then 0 else (c.stream n).since + 1) ∧
          ∃ o : StreamOut, o.cfg = b.cfg ∧ o.bseq = bseq ∧ (o.frame, o.epoch) = first.2 ∧ o.kind = 0 ∧ o.payload = raw ∧ o.raw = raw.length ∧
            (o.flags.testBit 14 = decide (∃ i ∈ b.bad, 8 * i < raw.length) ∧ o.flags.testBit 12 = fresh ∧ o.flags.testBit 11 = false ∧
              o.flags.testBit 10 = b.newcfg) ∧
            (((u.slane n l).outq = [o] ∧ same u) ∨ ((u.slane n l).outq = [] ∧ sent u o))) ∧
      (∀ o, x.inq = [] → x.open_ = none → x.outq = [o] →
        ((emitBlock n l o c).isSome = true → Does (.cstageRoom n l) s fun u => Works c u ∧ (u.slane n l).outq = [] ∧
          (u.slane n l).waits = false ∧ u.fld (F.CMP_CH_BSEQ_NEXT n) = bseq ∧ sent u o) ∧
        (emitBlock n l o c = none → Does (.cstageRoom n l) s fun u => Works c u ∧ (u.slane n l).outq = [o] ∧
          (u.slane n l).waits = true ∧ u.fld (F.CMP_CH_BSEQ_NEXT n) = bseq ∧ same u))))

/-- R275, R281 to R285, R288, R422, R423: a lane PLL that locks or unlocks starts the training of its port or sets it OFF, and an unlock
empties its crossings; the three steps of training lead from ACQUIRE to TRAINED, with the lanes of LMASK alone powered at its end, and again,
in TRAINED, for the lanes of a widening partner; a loss, a HIBER and a FALLBACK lead back to ACQUIRE; and every departure from TRAINED
raises LINK_DOWN and is counted. Adaptation starts from the last-good taps, or the factory ones; what the trained lanes reach (taps, leads,
latencies) is what the command carries. The loss of a locked lane crosses by the port's single toggle, and is counted as lost while that is busy. -/
def Obligations.LaneTrainingRowsComplete : Prop :=
  ∀ (p : Port) (s : State),
    let c := s.chip
    let st := c.lnState p
    let k := [4 + p.ix]
    let down := fun (u : Chip) => c.trained p = true → u.eventSeen (EV.LN_LINK_DOWN p) = true ∧
      u.fld (F.LN_LOSS_CNT_LINK_DOWN p.ix) = satTo 16 (c.fld (F.LN_LOSS_CNT_LINK_DOWN p.ix) + 1)
    let lock := c.fld (F.LN_STAT_LANE_LOCK p.ix)
    let rxMask := if c.fld (F.LN_STAT_LMASK_RX p.ix) = 0 then 15 else c.fld (F.LN_STAT_LMASK_RX p.ix)
    let asked := if st = 4 then bits ((c.lane p).partnerNmask &&& (15 - c.fld (F.LN_STAT_LMASK_RX p.ix))) 3 0 else 0
    let dfe := c.flag (F.LN_ADAPT_DFE_EN p.ix)
    let moved := fun (u : Chip) (j new : Nat) =>
      bits (u.fld (eqF p j)) 31 28 = bits (if c.flag (F.LN_ADAPT_CTLE_AUTO p.ix) then new else c.fld (eqF p j)) 31 28 ∧
      bits (u.fld (eqF p j)) 27 0 = if dfe then bits new 27 0 else 0
    let start := fun (j : Nat) => (nth none (c.lane p).lastGood j).getD (regReset (eqF p j).addr).toNat
    let starts := fun (u : Chip) (mask : Nat) => ∀ j, j < 4 →
      (mask.testBit j = true → moved u j (start j)) ∧ (mask.testBit j = false → u.fld (eqF p j) = c.fld (eqF p j))
    let trains := fun (u : Chip) => u.fld (F.LN_STAT_LANE_LOCK p.ix) = 0 ∧ u.fld (F.LN_STAT_LMASK_RX p.ix) = 0 ∧
      u.fld (F.LN_STAT_RXOK_PART p.ix) = 0 ∧ (u.lane p).rxok = 0 ∧ (u.lane p).wide = 0 ∧
      u.flag (F.LN_STAT_MODE_BUSY p.ix) = false ∧
      (c.running = true ∧ c.lnEnabled p = true ∧ u.flag (F.LN_STAT_PLL_LOCK p.ix) = true →
        u.lnState p = (if c.inTest p then 5 else 1) ∧ u.fld (F.LN_STAT_LMASK_TX p.ix) = modeMask (c.lane p).mode) ∧
      (¬ (c.running = true ∧ c.lnEnabled p = true ∧ u.flag (F.LN_STAT_PLL_LOCK p.ix) = true) →
        u.lnState p = 0 ∧ u.fld (F.LN_STAT_LMASK_TX p.ix) = 0)
    let onlyRegs := fun (u : Chip) => u = { c with regs := { c.regs with direct := u.regs.direct } }
    let locks := c.up = true ∧ c.flag (F.LN_STAT_PLL_LOCK p.ix) = false
    let toggles := c.flag (F.LN_CFG_FALLBACK_EN p.ix) = true ∧ (c.lane p).rateHeld = false ∧ 1 ≤ st ∧ st ≤ 3
    (locks → Does (.lanePllLock p) s fun u => Keeps k c u ∧ u.flag (F.LN_STAT_PLL_LOCK p.ix) = true ∧
      (c.running = true → trains u ∧ down u) ∧ (c.running = false → u.lnState p = st)) ∧
    (¬ locks → exec (.lanePllLock p) s = .next s) ∧
    (c.flag (F.LN_STAT_PLL_LOCK p.ix) = true → Does (.pllUnlock p) s fun u => Keeps [0, 4, 5] c u ∧
      u.flag (F.LN_STAT_PLL_LOCK p.ix) = false ∧ u.lnState p = 0 ∧ u.lnState p.other = c.lnState p.other ∧ down u ∧
      u.eventSeen (EV.LN_PLL_UNLOCK p) = true ∧ u.inring = false ∧ (c.inring = true → u.eventSeen EV.RING_LEFT = true) ∧
      (∀ n, n ∈ portCrossings p → (u.fld F.GLB_CDC_STAT_DROP).testBit n = true) ∧ u.eventSeen EV.CDC_DROP = true ∧
      u.cdc = (c.cdc.filter fun e => e.1 / 32 != p.ix) ∧
      u.fld F.GLB_CDC_DROP_COUNT = satTo 32 (c.fld F.GLB_CDC_DROP_COUNT + 4)) ∧
    (c.flag (F.LN_STAT_PLL_LOCK p.ix) = false → exec (.pllUnlock p) s = .next s) ∧
    (∀ lanes : Fin 16,
      (st = 1 ∧ lanes.val ≠ 0 → Does (.laneAcquireDone p lanes) s fun u => onlyRegs u ∧ Keeps k c u ∧ u.lnState p = 2 ∧
        u.fld (F.LN_STAT_LANE_LOCK p.ix) = lanes.val ∧ starts u lanes.val) ∧
      (st ≠ 1 → lanes.val &&& asked ≠ 0 → Does (.laneAcquireDone p lanes) s fun u => Keeps k c u ∧ u.lnState p = st ∧
        u.fld (F.LN_STAT_LANE_LOCK p.ix) = lock ||| (lanes.val &&& asked) ∧ (u.lane p).wide = 1 ∧ starts u (lanes.val &&& asked)) ∧
      (¬ (st = 1 ∧ lanes.val ≠ 0) → lanes.val &&& asked = 0 → exec (.laneAcquireDone p lanes) s = .next s)) ∧
    (∀ e0 e1 e2 e3 : EqTaps,
      let reached := fun (u : Chip) (mask : Nat) => ∀ j, j < 4 →
        let e := nth e0 [e0, e1, e2, e3] j
        ((mask &&& lock).testBit j = false → u.fld (eqF p j) = c.fld (eqF p j)) ∧
        ((mask &&& lock).testBit j = true → moved u j (e.ctle.toNat * 2 ^ 28 + e.tap1.toNat * 2 ^ 21 + e.tap2.toNat * 2 ^ 15 +
          e.tap3.toNat * 2 ^ 10 + e.tap4.toNat * 2 ^ 5 + e.tap5.toNat))
      (st = 2 → Does (.laneAdaptDone p e0 e1 e2 e3) s fun u => onlyRegs u ∧ Keeps k c u ∧ u.lnState p = 3 ∧
        reached u 15) ∧
      (st ≠ 2 → (c.lane p).wide = 1 → asked ≠ 0 → Does (.laneAdaptDone p e0 e1 e2 e3) s fun u => Keeps k c u ∧ u.lnState p = st ∧
        (u.lane p).wide = 2 ∧ u.fld (F.LN_STAT_LANE_LOCK p.ix) = lock ∧ reached u asked) ∧
      (st ≠ 2 → ((c.lane p).wide ≠ 1 ∨ asked = 0) → exec (.laneAdaptDone p e0 e1 e2 e3) s = .next s)) ∧
    (∀ (leads : List Nat) (tx rx : Fin 65536),
      let most := if c.flag (F.LN_STAT_FALLBACK p.ix) then 660 else 1650
      let new := asked &&& lock
      let late := ∃ j, j < 4 ∧ new.testBit j = true ∧ most < nth 0 leads j
      let widens := st ≠ 3 ∧ asked ≠ 0 ∧ (c.lane p).wide = 2
      (st ≠ 3 → ¬ widens → exec (.laneAlignDone p leads tx rx) s = .next s) ∧
      (widens → late → Does (.laneAlignDone p leads tx rx) s fun u => Keeps k c u ∧ trains u ∧ down u ∧
        u.fld (F.LN_DESKEW_ERR_COUNT p.ix) = satTo 32 (c.fld (F.LN_DESKEW_ERR_COUNT p.ix) + 1) ∧
        u.eventSeen (EV.LN_DESKEW_FAIL p) = true) ∧
      (widens → ¬ late → Does (.laneAlignDone p leads tx rx) s fun u => Keeps k c u ∧ u.lnState p = st ∧
        (u.lane p).rxok = (c.lane p).rxok ||| new ∧ (u.lane p).wide = 0 ∧
        ∀ j, j < 4 → u.fld (skewF p j) = if new.testBit j && decide (j < leads.length) then nth 0 leads j else c.fld (skewF p j)) ∧
      (st = 3 → (∃ x, x ∈ leads ∧ most < x) → Does (.laneAlignDone p leads tx rx) s fun u => Keeps k c u ∧ u.lnState p = 1 ∧
        u.fld (F.LN_DESKEW_ERR_COUNT p.ix) = satTo 32 (c.fld (F.LN_DESKEW_ERR_COUNT p.ix) + 1) ∧
        u.eventSeen (EV.LN_DESKEW_FAIL p) = true) ∧
      (st = 3 → (∀ x, x ∈ leads → x ≤ most) → Does (.laneAlignDone p leads tx rx) s fun u => Keeps k c u ∧ u.trained p = true ∧
        u.fld (F.LN_LAT_TX p.ix) = tx.val ∧ u.fld (F.LN_LAT_RX p.ix) = rx.val ∧
        u.fld (F.LN_STAT_LANE_LOCK p.ix) = lock &&& rxMask ∧ (u.lane p).rxok = lock &&& rxMask ∧
        (∀ j, j < 4 → j < leads.length → u.fld (skewF p j) = nth 0 leads j) ∧
        (c.flag (F.LN_STAT_LOCAL p.ix) = false → u.eventSeen (EV.LN_LINK_UP p) = true ∧
          u.fld (F.LN_TRAIN_CNT_COUNT p.ix) = satTo 32 (c.fld (F.LN_TRAIN_CNT_COUNT p.ix) + 1)) ∧
        (c.flag (F.LN_STAT_LOCAL p.ix) = true → onlyRegs { u with laneE := c.laneE, laneW := c.laneW, ringE := c.ringE, ringW := c.ringW } ∧
          u.fld (F.LN_TRAIN_CNT_COUNT p.ix) = c.fld (F.LN_TRAIN_CNT_COUNT p.ix) ∧
          u.fld (F.RN_FWD_FTU p.ix) = (4096 + (if c.flag (F.LN_STAT_FALLBACK p.ix) then 1048 else 419) + tx.val) % 2 ^ 16))) ∧
    (∀ lane : Fin 4,
      let toggle := c.cdc.find? fun e => e.1 == 32 * p.ix + 16
      let lost := fun (u : Chip) (n : Nat) => u.fld F.GLB_CDC_OVR_COUNT = satTo 32 (c.fld F.GLB_CDC_OVR_COUNT + n)
      (Does (.laneSignalLoss p lane) s fun u => Keeps (0 :: k) c u ∧ (u.fld (F.LN_STAT_LANE_LOCK p.ix)).testBit lane = false ∧
        (u.lane p).rxok.testBit lane = false ∧
        (c.rxLane p lane = true → down u ∧ (st = 4 → trains u) ∧ (st = 2 ∨ st = 3 → u.lnState p = 1) ∧
          (st ≠ 2 → st ≠ 3 → st ≠ 4 → u.lnState p = st)) ∧
        (c.rxLane p lane = false → u.lnState p = st ∧ u.fld (F.LN_STAT_LANE_LOCK p.ix) = lock &&& (15 - 2 ^ lane.val)) ∧
        (lock.testBit lane = true → (∀ x, toggle = some x → x.2.pending = 0 ∧ x.2.ends ≤ c.clockFtu) →
          u.fld F.GLB_CDC_OVR_COUNT = c.fld F.GLB_CDC_OVR_COUNT) ∧
        (lock.testBit lane = true → (∃ x, toggle = some x ∧ x.2.pending = 0 ∧ c.clockFtu < x.2.ends) → lost u 1 ∧
          (u.fld F.GLB_CDC_STAT_OVR).testBit 6 = true ∧ u.eventSeen EV.CDC_OVERRUN = true)) ∧
      (¬ (c.rxLane p lane = true ∧ st = 4) → exec (.hiber p lane) s = .next s) ∧
      (c.rxLane p lane = true ∧ st = 4 → Does (.hiber p lane) s fun u => Keeps k c u ∧ down u ∧ trains u ∧
        u.eventSeen (EV.LN_HIBER p) = true ∧ u.fld (F.LN_LOSS_CNT_HIBER p.ix) = satTo 16 (c.fld (F.LN_LOSS_CNT_HIBER p.ix) + 1))) ∧
    (toggles → Does (.fallback p) s fun u => Keeps k c u ∧ u.lnState p = 1 ∧
      u.flag (F.LN_STAT_FALLBACK p.ix) = !c.flag (F.LN_STAT_FALLBACK p.ix) ∧ u.eventSeen (EV.LN_FALLBACK p) = true) ∧
    (¬ toggles → exec (.fallback p) s = .next s)

/-- R280, R283, R288, R294, R295, R422: an alignment marker counts as missing or as not valid, over the counted crossing of its lane, or gives
the fields of lane 0; four in a row that are not valid end TRAINED; two agreeing markers of lane 0 make a new neighbour, its GAP and LOCAL,
and a neighbour that was LOCAL no more links up. R286 to R288: freezes are counted and end with a window in which at least 1/4 of the bit
boundaries toggle, scans keep the eye and the last-good taps, and lane modes narrow, widen or time out. -/
def Obligations.LaneMarkerScanAndModeRowsComplete : Prop :=
  ∀ (p : Port) (s : State),
    let c := s.chip
    let st := c.lnState p
    let k := [4 + p.ix]
    (∀ (lane : Fin 4) (found : Bool) (w : W64),
      let x := w.toNat
      let good := found = true ∧ bits x 7 0 = 0xA5 ∧ bits x 9 8 = lane.val ∧
        crc8 [bits x 7 0, bits x 15 8, bits x 23 16, bits x 31 24, bits x 39 32, bits x 47 40, bits x 55 48] = bits x 63 56
      let old := c.laneOne p lane
      let toggle := fun (n : LaneCount) => c.cdc.find? fun e => e.1 == toggleKey p n lane
      let counts := fun (u : Chip) (n : LaneCount) (f : Fld) =>
        ((∀ x, toggle n = some x → x.2.pending < 15) → u.fld f = satTo 16 (c.fld f + 1)) ∧
        ((∃ x, toggle n = some x ∧ x.2.pending = 15 ∧ c.clockFtu < x.2.ends) → u.fld f = c.fld f ∧
          (u.fld F.GLB_CDC_STAT_OVR).testBit (4 + p.ix) = true ∧ u.eventSeen EV.CDC_OVERRUN = true)
      let window := (c.lineOf p lane).count (syncBits 2 ++ payloadBits x)
      let bad := fun (u : Chip) => Keeps (0 :: k) c u ∧
        (lane.val < (c.lane p).lanes.length → (u.laneOne p lane).amBad = old.amBad + 1) ∧
        (st = 4 ∧ c.rxLane p lane = true ∧ 4 ≤ old.amBad + 1 → u.trained p = false ∧ u.eventSeen (EV.LN_LINK_DOWN p) = true) ∧
        (¬ (st = 4 ∧ c.rxLane p lane = true ∧ 4 ≤ old.amBad + 1) → u.lnState p = st)
      let src := bits x 22 18
      let nid := bits x 55 32
      let new := (c.lane p).hasNbr = false ∨ src ≠ c.fld (F.LN_STAT_NBR_ADDR p.ix) ∨ nid ≠ c.fld (F.LN_NBR_NID_NID p.ix)
      let own := src = c.addr ∧ nid = c.fld (F.LN_NID_OWN_NID p.ix)
      (st = 0 ∨ c.flag (F.LN_TEST_PRBS p.ix) = true → exec (.alignmentMarker p lane found w) s = .next s) ∧
      (st ≠ 0 → c.flag (F.LN_TEST_PRBS p.ix) = false →
        (found = false → Does (.alignmentMarker p lane found w) s fun u => bad u ∧ counts u .amPos (amPosF p lane)) ∧
        (found = true → ¬ good → Does (.alignmentMarker p lane found w) s fun u => bad u ∧ counts u .amCrc (amCrcF p lane)) ∧
        (good → lane.val ≠ 0 → Does (.alignmentMarker p lane found w) s fun u => u.regs = c.regs ∧
          u = { c.setLane p { c.lane p with lanes := (u.lane p).lanes } with line := u.line } ∧
          (lane.val < (c.lane p).lanes.length → u.laneOne p lane =
            { old with amBad := 0, frozen := old.frozen && !(c.running && window.1) }) ∧
          (c.running = true → c.fld (F.LN_TEST_LOOP p.ix) ≠ 3 → u.lineOf p lane = window.2)) ∧
        (good → lane.val = 0 → Does (.alignmentMarker p lane found w) s fun u => Keeps k c u ∧ u.lnState p = st ∧
          u.fld (F.LN_STAT_LMASK_RX p.ix) = bits x 13 10 ∧ u.fld (F.LN_STAT_RXOK_PART p.ix) = bits x 17 14 ∧
          (u.lane p).partnerNmask = bits x 29 26 ∧ (u.lane p).partnerByp = bits x 25 23 ∧ (u.lane p).lastAm = some (src, nid) ∧
          u.fld (F.LN_STAT_LANE_LOCK p.ix) =
            (if st = 4 then c.fld (F.LN_STAT_LANE_LOCK p.ix) &&& (bits x 13 10 ||| bits x 29 26) else c.fld (F.LN_STAT_LANE_LOCK p.ix)) ∧
          ((c.lane p).lastAm = some (src, nid) → new → (u.lane p).hasNbr = true ∧
            u.fld (F.LN_STAT_NBR_ADDR p.ix) = src ∧ u.fld (F.LN_NBR_NID_NID p.ix) = nid ∧
            (u.flag (F.LN_STAT_LOCAL p.ix) = true ↔ own) ∧
            u.fld (F.LN_NBR_CNT_COUNT p.ix) = satTo 32 (c.fld (F.LN_NBR_CNT_COUNT p.ix) + 1) ∧
            u.eventSeen (EV.LN_NBR_CHANGE p) = true ∧
            (c.flag (F.LN_STAT_LOCAL p.ix) = true → ¬ own → st = 4 → u.eventSeen (EV.LN_LINK_UP p) = true ∧
              u.fld (F.LN_TRAIN_CNT_COUNT p.ix) = satTo 32 (c.fld (F.LN_TRAIN_CNT_COUNT p.ix) + 1)) ∧
            (own → u.fld (F.LN_STAT_GAP p.ix) = 0) ∧
            (¬ own → p = .west → src < c.addr → u.fld (F.LN_STAT_GAP p.ix) = min 7 (c.addr - src - 1)) ∧
            (¬ own → p = .west → c.addr ≤ src → u.fld (F.LN_STAT_GAP p.ix) = 7) ∧
            (¬ own → p = .east → c.addr < src → u.fld (F.LN_STAT_GAP p.ix) = min 7 (src - c.addr - 1)) ∧
            (¬ own → p = .east → src ≤ c.addr → src = 0 → c.addr ≤ c.fld (F.LN_CFG_LAST 0) →
              u.fld (F.LN_STAT_GAP p.ix) = min 7 (c.fld (F.LN_CFG_LAST 0) - c.addr)) ∧
            (¬ own → p = .east → src ≤ c.addr → ¬ (src = 0 ∧ c.addr ≤ c.fld (F.LN_CFG_LAST 0)) → u.fld (F.LN_STAT_GAP p.ix) = 7) ∧
            (3 ≤ u.fld (F.LN_STAT_GAP p.ix) → u.fld (F.LN_STAT_GAP p.ix) ≤ 6 →
              u.fld (F.LN_STAT_GAP p.ix) ≠ c.fld (F.LN_STAT_GAP p.ix) → u.eventSeen (EV.LN_BYPASS_LIMIT p) = true)) ∧
          (¬ ((c.lane p).lastAm = some (src, nid) ∧ new) → (u.lane p).hasNbr = (c.lane p).hasNbr ∧
            u.fld (F.LN_STAT_NBR_ADDR p.ix) = c.fld (F.LN_STAT_NBR_ADDR p.ix) ∧
            u.fld (F.LN_NBR_NID_NID p.ix) = c.fld (F.LN_NBR_NID_NID p.ix) ∧
            u.fld (F.LN_NBR_CNT_COUNT p.ix) = c.fld (F.LN_NBR_CNT_COUNT p.ix))))) ∧
    (∀ lane : Fin 4,
      let frozen := (c.laneOne p lane).frozen
      ((st = 2 ∨ st = 4) → frozen = false → Does (.adaptFreeze p lane) s fun u => Keeps k c u ∧ u.lnState p = st ∧
        u.fld (freezeF p lane) = satTo 16 (c.fld (freezeF p lane) + 1) ∧ u.eventSeen (EV.LN_ADAPT_FREEZE p) = true ∧
        (u.lineOf p lane).slots = 0 ∧ (u.lineOf p lane).toggles = 0 ∧
        (lane.val < (c.lane p).lanes.length → (u.laneOne p lane).frozen = true)) ∧
      (¬ ((st = 2 ∨ st = 4) ∧ frozen = false) → exec (.adaptFreeze p lane) s = .next s)) ∧
    (∀ (lane : Fin 4) (ew : Fin 65) (eh : Fin 33),
      let x := c.laneOne p lane
      let lg := c.fld (lgF p lane)
      let fall := 5 * ew.val < 4 * lg
      let scans := st = 4 ∧ c.rxLane p lane = true
      let saves := fun (u : Chip) => (u.lane p).lastGood = (c.lane p).lastGood.set lane (some (c.fld (eqF p lane))) ∧ u.fld (lgF p lane) = ew.val ∧ u.fld (lkgF p lane) = c.fld (eqF p lane) ∧
        u.fld (eqF p lane) = c.fld (eqF p lane)
      let holds := fun (u : Chip) => u.fld (lgF p lane) = lg ∧ u.fld (lkgF p lane) = c.fld (lkgF p lane)
      (¬ scans → exec (.belvedereScan p lane ew eh) s = .next s) ∧
      (scans → Does (.belvedereScan p lane ew eh) s fun u => Keeps k c u ∧ u.trained p = true ∧
        u.fld (ewF p lane) = ew.val ∧ u.fld (ehF p lane) = eh.val ∧
        (x.scanned = false → saves u) ∧
        (x.scanned = true → ¬ fall → x.frozen = false → saves u) ∧
        (x.scanned = true → ¬ fall → x.frozen = true → holds u ∧ u.fld (eqF p lane) = c.fld (eqF p lane)) ∧
        (x.scanned = true → fall → x.fell = true → saves u ∧ u.eventSeen (EV.LN_EYE_LOW p) = true) ∧
        (x.scanned = true → fall → x.fell = false → holds u ∧
          (c.flag (F.LN_ADAPT_RESTORE_EN p.ix) = true → bits (u.fld (eqF p lane)) 31 28 = bits (c.fld (lkgF p lane)) 31 28 ∧
            bits (u.fld (eqF p lane)) 27 0 = (if c.flag (F.LN_ADAPT_DFE_EN p.ix) then bits (c.fld (lkgF p lane)) 27 0 else 0) ∧
            u.fld (restoreF p lane) = satTo 16 (c.fld (restoreF p lane) + 1) ∧ u.eventSeen (EV.LN_TAP_RESTORE p) = true) ∧
          (c.flag (F.LN_ADAPT_RESTORE_EN p.ix) = false → u.fld (eqF p lane) = c.fld (eqF p lane))) ∧
        (ew.val < c.fld (F.LN_ADAPT_EW_MIN p.ix) → u.eventSeen (EV.LN_EYE_LOW p) = true) ∧
        (lane.val < (c.lane p).lanes.length → (u.laneOne p lane).scanned = true ∧ (u.laneOne p lane).frozen = x.frozen ∧
          (u.laneOne p lane).fell = (x.scanned && decide fall && !x.fell)))) ∧
    (let narrows := st = 4 ∧ (c.lane p).narrowing = true
     let wide := st = 4 ∧ c.fld (F.LN_STAT_LMASK_TX p.ix) = 1 ∧ (c.lane p).nmask = 15
     let widens := wide ∧ c.fld (F.LN_STAT_RXOK_PART p.ix) = 15
     (narrows → Does (.laneNarrow p) s fun u => Keeps k c u ∧ u.trained p = true ∧ u.fld (F.LN_STAT_LMASK_TX p.ix) = 1 ∧
       u.flag (F.LN_STAT_MODE_BUSY p.ix) = false ∧ (u.lane p).narrowing = false ∧ u.lane p.other = c.lane p.other) ∧
     (¬ narrows → exec (.laneNarrow p) s = .next s) ∧
     (widens → Does (.laneWiden p) s fun u => Keeps k c u ∧ u.trained p = true ∧ u.fld (F.LN_STAT_LMASK_TX p.ix) = 15 ∧
       u.flag (F.LN_STAT_MODE_BUSY p.ix) = false ∧ u.lane p = c.lane p ∧ u.lane p.other = c.lane p.other) ∧
     (¬ widens → exec (.laneWiden p) s = .next s) ∧
     (wide → Does (.modeTimeout p) s fun u => Keeps k c u ∧ u.trained p = true ∧ u.fld (F.LN_STAT_LMASK_TX p.ix) = 1 ∧
       u.flag (F.LN_STAT_MODE_BUSY p.ix) = false ∧ (u.lane p).nmask = 1 ∧ u.eventSeen (EV.LN_MODE_TIMEOUT p) = true) ∧
     (¬ wide → exec (.modeTimeout p) s = .next s))

/-- R292, R300, R303, R309, R310, R312, R317, R363: AUTOLEAVE lowers INRING; an UNWRAP ends a wrap; a packet that is complete is
stray, a duplicate, malformed, delivered or forwarded with HOPS one up; a CMD joins the batch of its frame; a CREDIT waits for its tick,
and lapses; the packet at the head of a WAIT queue is admitted, refused or discarded. -/
def Obligations.RingPacketRowsComplete : Prop :=
  (∀ s : State,
    let c := s.chip
    let due := c.fld F.LNE_RING_AUTOLEAVE ≠ 0 ∧ c.fld F.LNE_RING_AUTOLEAVE ≤ c.ring.leaveRun ∧ c.clk.cclk = 0 ∧ c.inring = true
    (due → Does .ringAutoleave s fun u => Keeps [4] c u ∧ u.inring = false ∧ u.eventSeen EV.RING_LEFT = true ∧
      u.ring.hbFrames = none ∧ u.ring.leaveRun = 0 ∧ ∀ p, u.lnState p = c.lnState p) ∧
    (¬ due → exec .ringAutoleave s = .next s)) ∧
  (∀ (p : Port) (s : State),
    let c := s.chip
    let due := (c.port p).wrapping = true ∧ max 1 (c.fld F.RNG_UNWRAP_FRAMES) ≤ (c.port p).usableFrames ∧ c.clk.cclk = 0
    (due → Does (.ringUnwrap p) s fun u => Announces c u ∧ ∃ v, u = raise (EV.RN_UNWRAP p) v ∧
      v.port p = { c.port p with wrapping := false, usableFrames := 0 } ∧ v.port p.other = c.port p.other ∧
      v.flag (if p = .east then F.RNG_STAT_WRAP_E else F.RNG_STAT_WRAP_W) = false) ∧
    (¬ due → exec (.ringUnwrap p) s = .next s)) ∧
  (∀ (p : Port) (q : Packet) (first : Nat) (s : State),
    let c := s.chip
    let own := q.src.toNat = c.addr
    let mine := q.dest.toNat = c.addr ∧ q.dest ≠ 31#5
    let run := exec (.ringPacketReceived p q first) s
    let t := if q.crcOk then c else c.bump (F.RN_CRC_ERR_COUNT p.ix)
    (c.receives p = false → run = .next s) ∧
    (c.receives p = true → c.addr < 31 →
      (own → q.dest = 31#5 → run = .next s) ∧
      (own → q.dest ≠ 31#5 → Does (.ringPacketReceived p q first) s fun u =>
        u = raise EV.RNG_STRAY (c.bump F.RNG_STRAY_COUNT) ∧ u.eventSeen EV.RNG_STRAY = true) ∧
      (¬ own → mine → (q.crcOk = false ∨ q.bad = true) → Does (.ringPacketReceived p q first) s fun u =>
        u = c.bump (F.RN_CRC_ERR_COUNT p.ix)) ∧
      (¬ own → mine → q.crcOk = true → q.bad = false → q.ptype ≠ 0x07#8 → malformed q = true →
        Does (.ringPacketReceived p q first) s fun u => u = raise EV.RNG_BADPKT (c.bump F.RNG_BADPKT_COUNT) ∧
          u.eventSeen EV.RNG_BADPKT = true) ∧
      (¬ own → ¬ mine → q.dest ≠ 31#5 → q.ptype ≠ 0x07#8 → q.hops = 63#6 → Does (.ringPacketReceived p q first) s fun u =>
        u = raise EV.RNG_STRAY (t.bump F.RNG_STRAY_COUNT)) ∧
      (¬ own → ¬ mine → q.dest ≠ 31#5 → q.ptype ≠ 0x07#8 → q.hops ≠ 63#6 → Does (.ringPacketReceived p q first) s fun u =>
        ∃ (x : TxPkt) (v : Chip), u = settleForward .west (settleForward .east v) ∧
          x.ptype = q.ptype ∧ x.cls = q.cls ∧ x.dest = q.dest ∧ x.src = q.src ∧ x.hops = q.hops + 1#6 ∧ x.wrapped = q.wrapped ∧
          x.pseq = q.pseq ∧ x.words = q.words ∧ x.badEnd = (!q.crcOk || q.bad) ∧ x.own = false ∧ x.through = true ∧
          (c.passes p.other q.cls.toNat = true → (c.port p.other).fwdBlocks + q.words.length + 2 ≤ 4096 →
            v.port p.other = { c.port p.other with fwd := (c.port p.other).fwd ++ [x] } ∧ v.port p = c.port p) ∧
          (c.passes p.other q.cls.toNat = true → 4096 < (c.port p.other).fwdBlocks + q.words.length + 2 →
            v = raise (EV.RN_FWD_OVF p.other) (t.bump (F.RN_FWD_OVF_COUNT p.other.ix))) ∧
          (c.passes p.other q.cls.toNat = false → c.flag F.RNG_CFG_WRAP_EN = false → v = t.bump (F.RN_LOST_COUNT p.other.ix))))) ∧
  (∀ (p : Port) (q : Packet) (s : State),
    let c := s.chip
    let good := c.receives p = true ∧ q.dest.toNat = c.addr ∧ q.src ≠ q.dest ∧ c.addr < 31 ∧ q.crcOk = true ∧ q.bad = false ∧ q.cls = 1#2
    let seen := c.bump (F.RN_RXPKT_COUNT p.ix)
    (good → q.ptype = 0x01#8 → q.words ≠ [] → Does (.cmdPacket p q) s fun u =>
      u = { seen with cmd := { c.cmd with batch := c.cmd.batch ++
        [{ sender := .ring p, words := q.words, excess := decide (16 ≤ c.cmd.batch.countP fun x => !x.excess) }] } }) ∧
    (good → q.ptype = 0x01#8 → q.words = [] → Does (.cmdPacket p q) s fun u => u = seen) ∧
    (q.ptype ≠ 0x01#8 → exec (.cmdPacket p q) s = .next s) ∧
    (∀ w0 w1 : W64, good → q.ptype = 0x0B#8 → q.words = [w0, w1] → bits w1.toNat 31 13 < 312500 → Does (.credit p q) s fun u =>
      u = { seen with ring := { c.ring with
        credits := c.ring.credits ++ [(nearestFrame c.frameNow (bits w1.toNat 63 32) (bits w1.toNat 31 13), w0)] } }) ∧
    (∀ w0 w1 : W64, good → q.ptype = 0x0B#8 → q.words = [w0, w1] → 312500 ≤ bits w1.toNat 31 13 → Does (.credit p q) s fun u =>
      u = raise EV.RNG_BADPKT (c.bump F.RNG_BADPKT_COUNT)) ∧
    (q.ptype ≠ 0x0B#8 → exec (.credit p q) s = .next s)) ∧
  (∀ s : State,
    let c := s.chip
    let due := c.flag F.RNG_STAT_CRED_VALID = true ∧ c.fld F.RNG_CRED_TMO_FRAMES ≠ 0 ∧ c.fld F.RNG_CRED_TMO_FRAMES ≤ c.ring.sinceCredit
    (due → Does .rngCreditLapsed s fun u => Announces c u ∧ ∃ v, u = raise EV.RNG_CREDIT_LAPSED v ∧
      v.flag F.RNG_STAT_CRED_VALID = false ∧ (∀ i, i < 2 → v.fld (F.RN_GRANT_G2 i) = 0 ∧ v.fld (F.RN_GRANT_G3 i) = 0) ∧
      (∀ p k, k < 4 → (v.port p).tok k = min (2048 * v.tokDepth p k) ((c.port p).tok k))) ∧
    (¬ due → exec .rngCreditLapsed s = .next s)) ∧
  (∀ (p : Port) (cls : Fin 4) (s : State),
    let c := s.chip
    let n := cls.val
    let q := (c.port p).wait n
    let can := c.usable p n = true ∨ c.usable p.other n = true
    (c.up = false ∨ q = [] → exec (.packetAdmission p cls) s = .next s) ∧
    (c.up = true → Does (.packetAdmission p cls) s fun u => Ships c u) ∧
    (∀ o, c.up = true → q = [o] → o.owner = .status → n < 2 → c.takes p n = true → o.cls.toNat = n →
      2048 * (o.words.length + 2) ≤ (c.port p).tok n → Does (.packetAdmission p cls) s fun u =>
        (u.port p).wait n = [] ∧ (u.port p).txq = (c.port p).txq ++ [o.toTx c (nth 0 c.ring.pseq n) none] ∧
        (u.port p).tok n = (c.port p).tok n - 2048 * (o.words.length + 2) ∧ u.port p.other = c.port p.other ∧
        u.regs = c.regs ∧ u.ring.pseq = c.ring.pseq.set n ((nth 0 c.ring.pseq n + 1) % 65536)) ∧
    (∀ o rest, c.up = true → q = o :: rest → o.refused = true → ¬ can → exec (.packetAdmission p cls) s = .next s) ∧
    (∀ o rest, c.up = true → q = o :: rest → o.refused = false → ¬ can → o.owner = .status → Does (.packetAdmission p cls) s fun u =>
      u.eventSeen EV.RNG_REFUSED = true) ∧
    (let due := ∃ o rest, q = o :: rest ∧ o.refused = true ∧ o.held + 2048 * max 1 (c.fld F.RNG_HOLD_FRAMES) ≤ c.cclkNow
     (due → Does (.rngDropped p cls) s fun u => Ships c u ∧ u.eventSeen EV.RNG_DROPPED = true) ∧
     (¬ due → exec (.rngDropped p cls) s = .next s)))

/-- R278, R279, R288 to R290, R302, R306: at a block boundary the slot of the next active lane carries, in this order, PRBS31, the AM of its
slot, IDLE while the port is not TRAINED, the START of an own packet of a lower class than the packet in progress, the next DATA or END of
that packet, or IDLE; in SLEEP the blocks of classes 1 to 3 wait. The lane sends it scrambled, an AM as it is, and the lanes of a widening
send IDLE and AMs beside it; far-end loopback sends nothing of its own. R278, R286, R290, R302, R303, R307, R422: a block that arrives goes
through the descrambler and the transition window, and counts a sync error, PRBS errors or a framing error, or opens, continues or completes
a packet. -/
def Obligations.RingBlockRowsComplete : Prop :=
  (∀ (p : Port) (s : State),
    let c := s.chip
    let t := c.port p
    let lanes := (List.range 4).filter (c.fld (F.LN_STAT_LMASK_TX p.ix)).testBit
    let i := t.txLane % lanes.length
    let idle := c.running = false ∨ c.lnState p = 0 ∨ lanes = []
    let prbs := c.flag (F.LN_TEST_PRBS p.ix) = true
    let far := c.fld (F.LN_TEST_LOOP p.ix) = 3
    let sends := ¬ idle ∧ ¬ prbs ∧ ¬ far
    let k := nth 0 lanes i
    let wire := fun (j : Nat) (b : BitVec 66) => if t.txSlot = 0 then (c.lineOf p j).sendAm b else (c.lineOf p j).send b
    let wires := fun (u : Chip) => u.lineOf p k = wire k (u.port p).lastTx ∧
      (c.widening p = true → ∀ j ∈ [1, 2, 3], u.lineOf p j = wire j (ctlBlock (if t.txSlot = 0 then c.amPayload p j else 0x1E))) ∧
      (c.widening p = false → ∀ j, j < 4 → j ≠ k → u.lineOf p j = c.lineOf p j)
    let lane := if lanes.length ≤ i + 1 then 0 else i + 1
    let slot := if lanes.length ≤ i + 1 then (t.txSlot + 1) % 16384 else t.txSlot
    let steps := fun (u : Chip) => (u.port p).txLane = lane ∧ (u.port p).txSlot = slot ∧ u.clk = c.clk
    let moved := fun (u : Chip) => steps u ∧ u.port p.other = c.port p.other
    let sent := fun (u : Chip) (b : BitVec 66) => (u.port p).lastTx = b ∧
      u.fld (F.RN_TXBLK_COUNT p.ix) = satTo 32 (c.fld (F.RN_TXBLK_COUNT p.ix) + 1)
    let quiet := sends ∧ t.txSlot ≠ 0 ∧ c.trained p = true ∧ t.fwd = []
    (idle → exec (.blockBoundary p) s = .next s) ∧
    (¬ idle → prbs → ¬ far → Does (.blockBoundary p) s fun u => moved u ∧ u.regs = c.regs ∧ (u.port p).lastTx = t.lastTx ∧
      u.lineOf p k = (c.lineOf p k).sendPrbs) ∧
    (¬ idle → far → Does (.blockBoundary p) s fun u => moved u ∧ u.regs = c.regs ∧ (u.port p).lastTx = t.lastTx ∧ u.line = c.line) ∧
    (sends → Does (.blockBoundary p) s fun u => steps u ∧ wires u) ∧
    (sends → t.txSlot = 0 → Does (.blockBoundary p) s fun u => moved u ∧ u.regs = c.regs ∧ (u.port p).lastTx = ctlBlock (c.amPayload p k)) ∧
    (sends → t.txSlot ≠ 0 → c.trained p = false → Does (.blockBoundary p) s fun u => moved u ∧ u.regs = c.regs ∧
      (u.port p).lastTx = ctlBlock 0x1E) ∧
    (quiet → t.txq = [] → t.started = [] → Does (.blockBoundary p) s fun u => moved u ∧ u.regs = c.regs ∧ (u.port p).lastTx = ctlBlock 0x1E) ∧
    (∀ q rest, quiet → t.txq = [] → t.started = q :: rest → (c.lane p).mode = 2 → q.cls ≠ 0#2 → Does (.blockBoundary p) s fun u =>
      moved u ∧ u.regs = c.regs ∧ (u.port p).lastTx = ctlBlock 0x1E ∧ (u.port p).started = t.started) ∧
    (∀ q rest, quiet → t.txq = [] → t.started = q :: rest → ((c.lane p).mode = 2 → q.cls = 0#2) → q.sent ≤ q.words.length → Does (.blockBoundary p) s fun u =>
      moved u ∧ sent u (dataBlock (nth 0#64 q.words (q.sent - 1))) ∧ (u.port p).started = { q with sent := q.sent + 1 } :: rest) ∧
    (∀ q rest, quiet → t.txq = [] → t.started = q :: rest → ((c.lane p).mode = 2 → q.cls = 0#2) → q.words.length < q.sent → Does (.blockBoundary p) s fun u =>
      moved u ∧ sent u (ctlBlock q.endBlock) ∧ (u.port p).started = rest ∧
      (q.own = true → u.fld (F.RN_TXPKT_COUNT p.ix) = satTo 32 (c.fld (F.RN_TXPKT_COUNT p.ix) + 1)) ∧
      (q.own = false → u.fld (F.RN_FWDPKT_COUNT p.ix) = satTo 32 (c.fld (F.RN_FWDPKT_COUNT p.ix) + 1))) ∧
    (∀ x, quiet → t.txq = [x] → x.owner ≠ some .time → x.egress = none → x.slot = none → c.usable p x.cls.toNat = true →
      (∀ q rest, t.started = q :: rest → x.cls.toNat < q.cls.toNat) → Does (.blockBoundary p) s fun u =>
      moved u ∧ sent u (ctlBlock (x.start x.hops.toNat x.wrapped)) ∧ (u.port p).started = { x with sent := 1 } :: t.started ∧
      (u.port p).txq = [])) ∧
  (∀ (q : TxPkt) (h : BitVec 6) (b : Bool),
    let x := q.start h.toNat b
    q.len < 4096 → bits x 7 0 = 0x78 ∧ bits x 63 56 = q.ptype.toNat ∧ bits x 55 54 = q.cls.toNat ∧ bits x 53 49 = q.dest.toNat ∧
      bits x 48 44 = q.src.toNat ∧ bits x 43 38 = h.toNat ∧ x.testBit 37 = b ∧ bits x 35 24 = q.len ∧ bits x 23 8 = q.pseq.toNat) ∧
  (∀ (p : Port) (lane : Fin 4) (sync : BitVec 2) (w : W64) (s : State),
    let c := s.chip
    let t := c.port p
    let x := w.toNat
    let prbs := c.flag (F.LN_TEST_PRBS p.ix) = true
    let on := c.running = true ∧ c.lnState p ≠ 0 ∧ ¬ prbs
    let live := on ∧ c.receives p = true ∧ c.rxLane p lane = true
    let toggle := fun (n : LaneCount) => c.cdc.find? fun e => e.1 == toggleKey p n lane
    let line := c.lineOf p lane
    let des := scramble line.des (payloadBits x)
    let window := LineSt.count (syncBits sync.toNat ++ des.1) { line with des := des.2 }
    let heard := lineIn p lane sync.toNat w c
    let quiet := Does (.ringBlockReceived p lane sync w) s fun u => u = heard
    (c.running = false ∨ c.lnState p = 0 → exec (.ringBlockReceived p lane sync w) s = .next s) ∧
    (c.running = true → c.lnState p ≠ 0 → prbs → Does (.ringBlockReceived p lane sync w) s fun u => Keeps [0, 4 + p.ix] c u ∧
      u.line = c.line ∧
      (toggle .prbs = none → u.fld (prbsF p lane) = satTo 32 (c.fld (prbsF p lane) + min 16 (popCount x)) ∧
        u.fld F.GLB_CDC_OVR_COUNT = (if popCount x ≤ 16 then c.fld F.GLB_CDC_OVR_COUNT
          else satTo 32 (c.fld F.GLB_CDC_OVR_COUNT + (popCount x - 16))))) ∧
    (on → heard = { c with line := heard.line, laneE := heard.laneE, laneW := heard.laneW } ∧
      (∀ m, m ≠ p → heard.lane m = c.lane m) ∧ heard.lane p = { c.lane p with lanes := (heard.lane p).lanes, rxRow := if lane.val = 0 then c.now else (c.lane p).rxRow } ∧
      heard.lineOf p lane = (if c.fld (F.LN_TEST_LOOP p.ix) = 3 then { window.2 with wire := slotBits (syncBits sync.toNat ++ des.1) }
        else window.2) ∧
      (lane.val < (c.lane p).lanes.length → heard.laneOne p lane =
        { c.laneOne p lane with frozen := (c.laneOne p lane).frozen && !window.1 })) ∧
    (on → (sync = 0#2 ∨ sync = 3#2) → Does (.ringBlockReceived p lane sync w) s fun u => Keeps [0, 4 + p.ix] c u ∧
      ((∀ x, toggle .sherr = some x → x.2.pending < 15) → u.fld (sherrF p lane) = satTo 32 (c.fld (sherrF p lane) + 1)) ∧
      ((∃ x, toggle .sherr = some x ∧ x.2.pending = 15 ∧ c.clockFtu < x.2.ends) → u.fld (sherrF p lane) = c.fld (sherrF p lane) ∧
        u.eventSeen EV.CDC_OVERRUN = true)) ∧
    (on → ¬ live → (sync = 1#2 ∨ sync = 2#2) → quiet) ∧
    (live → sync = 1#2 → t.rx = [] → t.rxIgnore = true → quiet) ∧
    (live → sync = 1#2 → t.rx = [] → t.rxIgnore = false → Does (.ringBlockReceived p lane sync w) s fun u =>
      u = raise (EV.RN_FRAMING p) ((heard.setPort p { t with rxIgnore := true }).bump (F.RN_FRAMING_COUNT p.ix))) ∧
    (∀ r rest, live → sync = 1#2 → t.rx = r :: rest → r.words.length < bits r.start.toNat 35 24 →
      Does (.ringBlockReceived p lane sync w) s fun u => u = heard.setPort p { t with rx := { r with words := r.words ++ [w] } :: rest }) ∧
    (∀ r rest, live → sync = 1#2 → t.rx = r :: rest → bits r.start.toNat 35 24 ≤ r.words.length →
      Does (.ringBlockReceived p lane sync w) s fun u => u.eventSeen (EV.RN_FRAMING p) = true) ∧
    (live → sync = 2#2 → (bits x 7 0 = 0x1E ∨ bits x 7 0 = 0xA5) → quiet) ∧
    (live → sync = 2#2 → bits x 7 0 ∉ [0x1E, 0xA5, 0x78, 0x87] → Does (.ringBlockReceived p lane sync w) s fun u =>
      u = heard.bump (F.RN_FRAMING_COUNT p.ix)) ∧
    (live → sync = 2#2 → bits x 7 0 = 0x78 → (∀ r rest, t.rx = r :: rest → bits x 55 54 < bits r.start.toNat 55 54) →
      Does (.ringBlockReceived p lane sync w) s fun u =>
        u = heard.setPort p { t with rx := { start := w, words := [], first := if bits x 63 56 = 4 then (heard.lane p).rxRow else c.now } :: t.rx, rxIgnore := false }) ∧
    (∀ r rest, live → sync = 2#2 → bits x 7 0 = 0x78 → t.rx = r :: rest → bits r.start.toNat 55 54 ≤ bits x 55 54 →
      Does (.ringBlockReceived p lane sync w) s fun u => u.eventSeen (EV.RN_FRAMING p) = true) ∧
    (∀ r rest, live → sync = 2#2 → bits x 7 0 = 0x87 → t.rx = r :: rest → Does (.ringBlockReceived p lane sync w) s fun u =>
      let ok := bits x 63 32 == crc32 (crcBytes r.start.toNat r.words) && r.words.length == bits r.start.toNat 35 24
      u = receivePacket p (packetOf r.start r.words ok (x.testBit 31)) (c.now - r.first) (heard.setPort p { t with rx := rest })))

/-- R325 to R329: the initiator offers INIT, the answers and the end of an exchange follow the roles, and an exchange that is not in
order is void. R403 to R408: a partner's HEARTBEAT and MIRROR are taken in, and a standby takes over. R342 to R346, R349, R350: an object
whose words are not poisoned is placed into the open extent that has room for it, or into the next free one, and cut into items; it is
refused while the window is not enabled; a STORE_ACK settles items that have been sent, and an item that is not settled in time is resent or given up. -/
def Obligations.TimePairAndStoreRowsComplete : Prop :=
  (∀ (p : Port) (s : State),
    let c := s.chip
    let due := ∃ n, (c.exch p).ticks = some n ∧ c.addr < c.fld (F.LN_STAT_NBR_ADDR p.ix) ∧
      n ≠ 0 ∧ n % max 1 (c.fld F.TIM_NET_CFG_INTERVAL) = 0 ∧ (c.exch p).asked = false ∧ c.trained p = true ∧
      c.flag (F.LN_STAT_LOCAL p.ix) = false
    (¬ due → exec (.timeInit p) s = .next s) ∧
    (due → Does (.timeInit p) s fun u => Ships c u ∧ ∃ (o : Offer) (w : W64), u = enqueue p o (c.setExch p { c.exch p with asked := true }) ∧ o.ptype = 0x04#8 ∧ o.cls = 1#2 ∧
      o.dest.toNat = c.fld (F.LN_STAT_NBR_ADDR p.ix) ∧ o.words = [w, 0#64, 0#64, 0#64, 0#64] ∧ bits w.toNat 47 32 = 0xFFFF ∧
      bits w.toNat 31 30 = 0 ∧ bits w.toNat 23 16 = c.quality ∧ bits w.toNat 15 11 = c.fld F.TIM_NET_STAT_STRATUM ∧
      bits w.toNat 5 3 = c.fld (F.LN_STAT_GAP p.ix))) ∧
  (∀ (p : Port) (q : Packet) (first : Nat) (w txLo txHi rxLo rxHi : W64) (s : State),
    let c := s.chip
    let k := timIx p
    let good := c.receives p = true ∧ q.dest.toNat = c.addr ∧ q.src ≠ q.dest ∧ c.addr < 31 ∧ q.crcOk = true ∧ q.bad = false ∧
      q.cls = 1#2 ∧ q.ptype = 0x04#8 ∧ q.words = [w, txLo, txHi, rxLo, rxHi]
    let near := q.hops = 0#6 ∧ q.src.toNat = c.fld (F.LN_STAT_NBR_ADDR p.ix)
    let x := w.toNat
    let role := bits x 31 30
    let voids := fun (u : Chip) => u.fld (F.TIM_X_VOID_COUNT k) = satTo 32 (c.fld (F.TIM_X_VOID_COUNT k) + 1) ∧
      (u.exch p).sent = none ∧ u.fld (F.TIM_X_EXCH_COUNT k) = c.fld (F.TIM_X_EXCH_COUNT k) ∧ Keeps [1] c u
    let heard := fun (u : Chip) => u.fld (F.TIM_X_NBR_QUALITY k) = (if bits x 23 16 ≤ 3 then bits x 23 16 else 3) ∧
      u.fld (F.TIM_X_NBR_STRATUM k) = bits x 15 11 ∧ u.fld (F.TIM_X_NBR_UPSRC k) = bits x 10 6
    let t4 := c.now - first - c.fld (F.LN_LAT_RX p.ix)
    (q.ptype ≠ 0x04#8 → exec (.timePacket p q first) s = .next s) ∧
    (good → ¬ near → Does (.timePacket p q first) s fun u => voids u ∧
      u.fld F.TIM_DISCARD_CNT_COUNT = satTo 32 (c.fld F.TIM_DISCARD_CNT_COUNT + 1)) ∧
    (good → near → role = 3 → Does (.timePacket p q first) s fun u => voids u ∧ heard u) ∧
    (good → near → role = 0 → (c.initiates p = true ∨ 999999999 < bits txLo.toNat 63 32 ∨ 999999999 < bits rxLo.toNat 63 32) →
      Does (.timePacket p q first) s fun u => voids u ∧ heard u) ∧
    (good → near → role = 0 → c.initiates p = false → bits txLo.toNat 63 32 ≤ 999999999 → bits rxLo.toNat 63 32 ≤ 999999999 → Does (.timePacket p q first) s fun u =>
      heard u ∧ ∃ v, Ships v u ∧ u = offerTime p 1 (bits x 63 48) (time128 t4 c.quality) v ∧ v.exch p = c.exch p ∧ Keeps [1] c v) ∧
    (good → near → (role = 1 ∨ role = 2) → (c.exch p).sent = none → Does (.timePacket p q first) s fun u => voids u ∧ heard u) ∧
    (∀ (own sentRole t1 t2 t3 : Nat), good → near → role = 2 → c.initiates p = false →
      (c.exch p).sent = some (own, sentRole, t1) → readTime128 txLo txHi = some t3 → readTime128 rxLo rxHi = some t2 →
      (own ≠ bits x 47 32 ∨ sentRole ≠ 1 → Does (.timePacket p q first) s fun u => voids u ∧ heard u) ∧
      (own = bits x 47 32 → sentRole = 1 → (t3 < t2 ∨ t2 + 1048576 < t3 ∨ t4 + t2 < t1 + t3 ∨ t1 + 2 * 1048576 < t4) →
        Does (.timePacket p q first) s fun u => voids u ∧ heard u) ∧
      (own = bits x 47 32 → sentRole = 1 → ¬ (t3 < t2 ∨ t2 + 1048576 < t3 ∨ t4 + t2 < t1 + t3 ∨ t1 + 2 * 1048576 < t4) →
        Does (.timePacket p q first) s fun u => heard u ∧
          u.fld (F.TIM_X_EXCH_COUNT k) = satTo 32 (c.fld (F.TIM_X_EXCH_COUNT k) + 1) ∧ (u.exch p).since = some 0 ∧
          (u.exch p).sent = none ∧ u.fld (F.TIM_X_VOID_COUNT k) = c.fld (F.TIM_X_VOID_COUNT k) ∧
          ((c.exch p).restart = true → u.fld (F.TIM_X_DELAY_D k) =
            unsext 32 (((t4 : Int) - t3 + ((t2 : Int) - t1)) * 128) % 2 ^ 32) ∧
          u.fld (F.TIM_X_OFFS_E k) = unsext 32 (((t4 : Int) - t3 - ((t2 : Int) - t1) - c.alpha p) * 128) % 2 ^ 32))) ∧
  (∀ (p : Port) (q : Packet) (s : State),
    let c := s.chip
    let good := c.receives p = true ∧ q.dest.toNat = c.addr ∧ q.src ≠ q.dest ∧ c.addr < 31 ∧ q.crcOk = true ∧ q.bad = false ∧ q.cls = 1#2
    let seen := c.bump (F.RN_RXPKT_COUNT p.ix)
    (q.ptype ≠ 0x05#8 → exec (.pairHeartbeat p q) s = .next s) ∧
    (∀ w0 w1 w2 w3 w4 : W64, good → q.ptype = 0x05#8 → q.words = [w0, w1, w2, w3, w4] → bits w0.toNat 63 56 = 0 →
      Does (.pairHeartbeat p q) s fun u => u = seen) ∧
    (∀ w0 w1 w2 : W64, good → q.ptype = 0x05#8 → q.words = [w0, w1, w2] → bits w0.toNat 63 56 = 1 →
      let x := w0.toNat
      let mine := c.pair.paired = true ∧ bits x 31 27 = c.fld F.PAIR_CFG_PARTNER ∧ bits x 26 22 = c.addr
      let role := bits x 55 54
      (¬ mine → Does (.pairHeartbeat p q) s fun u => u = seen.bump F.PAIR_BAD_HB_COUNT) ∧
      (mine → Does (.pairHeartbeat p q) s fun u => Keeps [7] c u ∧ u.fld F.PAIR_PARTNER_ROLE = role ∧
        u.fld F.PAIR_PARTNER_CLAIM = bits x 47 32 ∧ u.fld F.PAIR_PARTNER_AGE = 0 ∧
        u.fld F.PAIR_STAT_ROLE = c.fld F.PAIR_STAT_ROLE ∧
        (role = (if c.fld F.PAIR_STAT_ROLE = 2 then 1 else 2) → u.pair.heard = true ∧ u.fld F.PAIR_STAT_MISSED = 0) ∧
        (role ≠ (if c.fld F.PAIR_STAT_ROLE = 2 then 1 else 2) → u.pair.heard = c.pair.heard) ∧
        (role = 1 → u.fld F.PAIR_STAT_MISSED = 0) ∧ (c.fld F.PAIR_STAT_ROLE = 2 → role = 1 → x.testBit 53 = true → u.pair.handover = true) ∧
        (bits w2.toNat 31 0 = c.fld F.CMD_EPOCH_ACTIVE → bits w2.toNat 63 32 = (nth 0#64 c.cmd.digests 0).toNat % 2 ^ 32 →
          u.flag F.PAIR_STAT_MISMATCH = false) ∧
        (bits w2.toNat 31 0 = c.fld F.CMD_EPOCH_ACTIVE → bits w2.toNat 63 32 ≠ (nth 0#64 c.cmd.digests 0).toNat % 2 ^ 32 →
          u.flag F.PAIR_STAT_MISMATCH = true ∧ u.eventSeen EV.PAIR_MISMATCH = true) ∧
        (c.fld F.PAIR_STAT_ROLE = 1 → role = 1 → c.fld F.PAIR_STAT_CLAIM < bits x 47 32 → u.pair.demote = true))) ∧
    (q.ptype ≠ 0x06#8 → exec (.mirror p q) s = .next s) ∧
    (∀ (w0 : W64) (ws : List W64), good → q.ptype = 0x06#8 → q.words = w0 :: ws → ws.length = bits w0.toNat 22 16 + 5 →
      (c.standby = true → bits w0.toNat 31 27 = c.fld F.PAIR_CFG_PARTNER → Does (.mirror p q) s fun u =>
        u = { seen with pair := { c.pair with mirrors := c.pair.mirrors ++ [w0 :: ws] } }) ∧
      (¬ (c.standby = true ∧ bits w0.toNat 31 27 = c.fld F.PAIR_CFG_PARTNER) → Does (.mirror p q) s fun u => u = seen))) ∧
  (∀ s : State,
    let c := s.chip
    let due := c.fld F.PAIR_STAT_ROLE = 2 ∧ c.pair.due = true
    let claim := min 65535 (max (c.fld F.PAIR_STAT_CLAIM) (c.fld F.PAIR_PARTNER_CLAIM) + 1)
    (¬ due → exec .pairTakeover s = .next s) ∧
    (due → Does .pairTakeover s fun u => Keeps [7, 96] c u ∧ u.fld F.PAIR_STAT_ROLE = 1 ∧ u.fld F.PAIR_STAT_CLAIM = claim ∧
      u.flag F.PAIR_STAT_COLD = (!c.flag F.PAIR_STAT_SYNC) ∧ u.pair.due = false ∧ u.eventSeen EV.PAIR_TAKEOVER = true ∧
      u.fld F.PAIR_TAKEOVER_CNT_COUNT = satTo 32 (c.fld F.PAIR_TAKEOVER_CNT_COUNT + 1) ∧
      (claim = 65535 → u.flag F.PAIR_STAT_SAT = true ∧ u.eventSeen EV.PAIR_CLAIM_SAT = true))) ∧
  (∀ s : State,
    let c := s.chip
    (c.sto.queue = [] → exec .storeObjectPlace s = .next s) ∧
    (c.sto.queue ≠ [] → Does .storeObjectPlace s fun u => Ships c u) ∧
    (∀ o rest, c.sto.queue = o :: rest → c.fld F.STO_STAT_OPEN = 0 → c.findObj o.region o.obj = none →
      Does .storeObjectPlace s fun u => u = { c with sto := { c.sto with queue := rest } }) ∧
    (∀ o rest ob, c.sto.queue = o :: rest → c.fld F.STO_STAT_OPEN = 0 → c.findObj o.region o.obj = some ob → c.stoEnabled = false →
      Does .storeObjectPlace s fun u => u.sto.queue = rest ∧ u.eventSeen EV.STO_REFUSED = true ∧
        u.fld F.STO_REFUSE_COUNT = satTo 32 (c.fld F.STO_REFUSE_COUNT + 1) ∧ u.mems = c.mems) ∧
    (∀ o rest ob, c.sto.queue = o :: rest → c.findObj o.region o.obj = some ob → c.stoEnabled = true → c.mems.length = 12 →
      (∀ off ∈ ob.offsets, (c.mem 0).par.get (c.regionWord o.region off) = 0#8) →
      let len := ob.offsets.length
      let size := 8 * (len + 2)
      let k := c.segWords3 - 1
      let n := ceilDiv (len + 2) k
      let ws := [w64 (place 8 56 o.typ ||| place 24 32 len ||| place 5 27 c.addr ||| place 1 15 (b2n o.lock)), w64 (frameWord o.frame)] ++
        ob.offsets.map fun off => w64 (c.memData 0 (c.regionWord o.region off))
      let cut := fun (e fill : Nat) => (List.range n).map fun j =>
        let part := (ws.drop (k * j)).take k
        ((c.sto.csWrite + j) % 2 ^ 32, w64 (place 42 22 (e * extBytes + fill + 8 * k * j) ||| place 10 0 part.length) :: part, some e)
      let seen := fun (x : Chip) => (x.sto.items.filter fun i => i.pt == 0x13).map fun i => (i.cseq, i.words, i.extent)
      let placed := fun (v : Chip) (e fill : Nat) => v.sto.queue = rest ∧ v.sto.csWrite = c.sto.csWrite + n ∧
        v.fld F.STO_REFUSE_COUNT = c.fld F.STO_REFUSE_COUNT ∧
        (fill + size < extBytes → v.fld F.STO_STAT_OPEN = e ∧ v.sto.fill = fill + size) ∧
        (fill + size = extBytes → v.fld F.STO_STAT_OPEN = 0) ∧
        ((∀ p, c.segWords3 + 3 ≤ c.tokDepth p 3) → seen v = seen c ++ cut e fill)
      let e := c.fld F.STO_STAT_OPEN
      let x := c.fld F.STO_NEXT_EXTENT
      let entry := c.extent x
      let open_ := e ≠ 0 ∧ (c.mem 1).par.get e = 0#8 ∧ c.sto.fill + size ≤ extBytes
      let opens := e = 0 ∧ x ≠ 0 ∧ (c.mem 1).par.get x = 0#8 ∧ size ≤ extBytes ∧ 1 ≤ countFree 1 c ∧ entry.testBit 10 = false ∧
        (extState entry = 0 ∨ (extState entry = 2 ∧ c.fld F.STO_CTL_POLICY ≠ 1))
      (open_ → Does .storeObjectPlace s fun u => ∃ v, u = storeDone o v ∧ placed v e c.sto.fill ∧ v.sto.allocs = c.sto.allocs) ∧
      (opens → Does .storeObjectPlace s fun u => ∃ v, u = storeDone o v ∧ placed v x 0 ∧ v.sto.allocs = c.sto.allocs + 1 ∧
        v.fld F.STO_NEXT_EXTENT = (if x = 262143 then 1 else x + 1) ∧
        v.fld F.STO_REUSE_COUNT = (if extState entry = 2 then satTo 32 (c.fld F.STO_REUSE_COUNT + 1) else c.fld F.STO_REUSE_COUNT)))) ∧
  (∀ (p : Port) (q : Packet) (w : W64) (pt : Nat) (s : State),
    let c := s.chip
    let good := c.receives p = true ∧ q.dest.toNat = c.addr ∧ q.src ≠ q.dest ∧ c.addr < 31 ∧ q.crcOk = true ∧ q.bad = false ∧
      q.cls = 1#2 ∧ q.ptype = 0x0C#8 ∧ q.words = [w, 1#64] ∧ bits w.toNat 31 24 = pt ∧ (pt = 0x13 ∨ pt = 0x14)
    let n := bits w.toNat 63 32
    let here := fun (i : StoItem) => i.pt == pt && i.cseq == n
    (q.ptype ≠ 0x0C#8 → exec (.storeAck p q) s = .next s) ∧
    (∀ i, good → c.sto.dirty = [] → bits w.toNat 23 16 = 0 → c.sto.items.find? here = some i → ¬ (i.waiting = true ∧ i.resends = 0) →
      Does (.storeAck p q) s fun u => u.sto.items = c.sto.items.filter (fun j => !here j) ∧ u.sto.queue = c.sto.queue ∧ u.mems = c.mems ∧
        u.fld F.STO_WRITTEN_COUNT = (if pt = 0x13 then satTo 32 (c.fld F.STO_WRITTEN_COUNT + 1) else c.fld F.STO_WRITTEN_COUNT)) ∧
    (good → c.sto.dirty = [] → bits w.toNat 23 16 < 2 → c.sto.items.find? here = none →
      (if pt = 0x13 then c.sto.csWrite else c.sto.csIndex) ≤ n → Does (.storeAck p q) s fun u =>
        u.fld F.STO_ACK_BAD_COUNT = satTo 32 (c.fld F.STO_ACK_BAD_COUNT + 1) ∧ u.sto.items = c.sto.items)) ∧
  (∀ (index : Bool) (cseq : BitVec 32) (s : State),
    let c := s.chip
    let pt := if index then 0x14 else 0x13
    let item := c.sto.items.find? fun i => i.pt == pt && i.cseq == cseq.toNat && !i.waiting
    (item = none → exec (.storeItemTimeout index cseq) s = .next s) ∧
    (∀ i, item = some i → c.cclkNow < i.admitted + 2048 * max 1 (c.fld F.STO_ACK_TMO_FRAMES) → exec (.storeItemTimeout index cseq) s = .next s) ∧
    (∀ i, item = some i → i.admitted + 2048 * max 1 (c.fld F.STO_ACK_TMO_FRAMES) ≤ c.cclkNow → Does (.storeItemTimeout index cseq) s fun u => Ships c u ∧
      (i.resends < c.fld F.STO_ACK_TMO_RETRY → u.eventSeen EV.STO_RESEND = true) ∧
      (c.fld F.STO_ACK_TMO_RETRY ≤ i.resends → u.eventSeen EV.STO_LOST = true)))

/-- R381 to R385: a single wrong data bit of a block is corrected, a failing parity byte that no single bit explains poisons its word; a read of a clean word gives it
and leaves the chip; a write of whole words clears poison, a write of some bytes merges and keeps it; every memory operation keeps the
canonical form. R387, R389, R395: the scrub visits the next block, ends its pass, a recheck replaces digests that differ, and a voted
item that disagreed is marked. -/
def Obligations.MemoryRowsComplete : Prop :=
  (∀ (src m w bit : Nat) (c : Chip), m < c.mems.length → bit < 64 →
    let x := c.mem m
    let b := w / 8
    let clean := fun (v : Nat) => (x.par.get v).toNat = 0
    (∀ i, i < 8 → 8 * b + i ≠ w → clean (8 * b + i)) → (x.par.get w).toNat = 2 ^ (bit / 8) → (x.colP.get b).toNat = 0 →
    ((x.colD.get b).toNat = 2 ^ bit → (blockCheck src m b c).memData m w = c.memData m w ^^^ 2 ^ bit ∧
      ((blockCheck src m b c).mem m).par.get w = 0#8 ∧ ((blockCheck src m b c).mem m).colD.get b = 0#64 ∧
      (blockCheck src m b c).eventSeen EV.MEM_CORRECTED = true ∧
      ∀ v, v ≠ w → (blockCheck src m b c).memData m v = c.memData m v) ∧
    ((x.colD.get b).toNat ≠ 0 → (∀ k, k < 8 → (x.colD.get b).toNat ≠ 2 ^ (8 * (bit / 8) + k)) →
      (blockCheck src m b c).poisoned m w = true ∧ (blockCheck src m b c).eventSeen EV.MEM_POISONED = true ∧
      ((blockCheck src m b c).mem m).colD.get b = 0#64 ∧ ∀ v, (blockCheck src m b c).memData m v = c.memData m v)) ∧
  (∀ (m w mask d : Nat) (c : Chip), m < c.mems.length →
    let par := ((c.mem m).par.get w).toNat
    let old := fun (j : Nat) => bits (c.memData m w) (8 * j + 7) (8 * j)
    let u := memWrite m w mask d c
    (par = 0 → memRead m w c = (c.memData m w, false, c)) ∧
    (c.poisoned m w = true → (memRead m w c).1 = c.memData m w ∧ (memRead m w c).2.1 = true ∧
      (memRead m w c).2.2.eventSeen EV.MEM_POISON_READ = true) ∧
    (par = 0 ∨ c.poisoned m w = true →
      (∀ j, j < 8 → bits (u.memData m w) (8 * j + 7) (8 * j) = if mask.testBit j then bits d (8 * j + 7) (8 * j) else old j) ∧
      (∀ v, v ≠ w → u.memData m v = c.memData m v ∧ u.poisoned m v = c.poisoned m v) ∧
      (u.poisoned m w = true ↔ c.poisoned m w = true ∧ mask % 256 ≠ 255) ∧ u.regs = c.regs)) ∧
  (∀ (src m b w mask d : Nat) (c : Chip), c.memsWf →
    (blockCheck src m b c).memsWf ∧ (memRead m w c).2.2.memsWf ∧ (memWrite m w mask d c).memsWf ∧ (memWritePoisoned m w d c).memsWf ∧
    (diagWr d mask c).memsWf) ∧
  (∀ s : State,
    let c := s.chip
    let due := c.running = true ∧ c.flag F.MIN_CTL_SCRUB_EN = true ∧ c.scrub.running = true
    let m := c.scrub.mem
    let b := c.scrub.block
    (¬ due → exec .scrubBlockCheck s = .next s) ∧
    (due → 8 * (b + 1) < memWords m → Does .scrubBlockCheck s fun u =>
      u = { blockCheck 0 m b c with scrub := { (blockCheck 0 m b c).scrub with block := b + 1 } }) ∧
    (due → memWords m ≤ 8 * (b + 1) → m ≠ 11 → m < 11 → Does .scrubBlockCheck s fun u =>
      u.scrub.running = true ∧ u.scrub.block = 0 ∧ u.scrub.mem = (if m = 8 ∨ m = 9 ∨ m = 10 then 11 else m + 1)) ∧
    (due → memWords m ≤ 8 * (b + 1) → m = 11 → Does .scrubBlockCheck s fun u =>
      u.scrub.running = false ∧ u.scrub.recheck = true ∧ u.scrub.mem = 0 ∧ u.scrub.block = 0 ∧
      u.fld F.MIN_PASS_FRAMES_FRAMES = satTo 32 c.scrub.frames ∧ u.fld F.MIN_PASS_CNT_COUNT = satTo 32 (c.fld F.MIN_PASS_CNT_COUNT + 1))) ∧
  (∀ s : State,
    let c := s.chip
    let due := c.running = true ∧ c.scrub.recheck = true ∧ c.flag F.MIN_CTL_DRIFT_CHK = true ∧ c.cmd.digDirty = false
    (¬ due → exec .digestRecheck s = .next s) ∧
    (due → Does .digestRecheck s fun u => Ships { c with cmd := { c.cmd with digests := c.computeDigests } } u ∧
      u.scrub.recheck = false ∧ u.cmd.digests = c.computeDigests ∧ u.mems = c.mems ∧
      (∀ n, n = (List.range 4).countP (fun i => nth 0#64 c.computeDigests i != nth 0#64 c.cmd.digests i) →
        (0 < n → u.eventSeen EV.CFG_DRIFT = true) ∧
        u.fld F.MIN_DRIFT_CNT_COUNT = satTo 32 (c.fld F.MIN_DRIFT_CNT_COUNT + n) ∧ (n = 0 → u.regs = c.regs)))) ∧
  (∀ (i : Fin 9) (s : State),
    let c := s.chip
    (c.up = false → exec (.tmrFix i) s = .next s) ∧
    (c.up = true → Does (.tmrFix i) s fun u => Ships c u ∧ u.eventSeen EV.TMR_FIX = true ∧ u.mems = c.mems ∧
      (u.fld F.MIN_TMR_STAT_ITEM).testBit i = true ∧ (∀ j, j ≠ i.val → (u.fld F.MIN_TMR_STAT_ITEM).testBit j =
        (c.fld F.MIN_TMR_STAT_ITEM).testBit j) ∧
      u.fld F.MIN_TMR_CNT_COUNT = satTo 32 (c.fld F.MIN_TMR_CNT_COUNT + 1)))

/-- R421, R450 and IEEE 1149.1 (PRESUMED, notes/assumptions/8): TRST_N, or five TCK with TMS high, bring the TAP to Test-Logic-Reset with
IDCODE; a capture of IDCODE loads IDCODE, bit 0 to leave first, and one of BYPASS a single 0; a TCK in Shift-DR or Shift-IR takes TDI in at
the end, and TDO shows the bit to leave; the instruction shifted in acts from Update-IR on. A TCK does nothing while PORST_N or a supply monitor is asserted, and never touches the chip. -/
def Obligations.JtagRowsComplete : Prop :=
  (∀ s : State, ∃ t, exec .trstN s = .next t ∧ t = { s with tap := t.tap } ∧ t.tap.st = .testLogicReset ∧ t.tap.ir = 0x01#8 ∧
    t.tap.tdo = none) ∧
  (∀ (tms tdi : Bool) (s : State), s.chip.rst.porst = true ∨ s.chip.rst.supply = true → exec (.tck tms tdi) s = .next s) ∧
  (∀ (tms tdi : Bool) (s : State), s.chip.rst.porst = false → s.chip.rst.supply = false →
    ∃ t f, exec (.tck tms tdi) s = .next { s with tap := t, chip := { s.chip with free := f } } ∧ t.st = s.tap.st.next tms ∧
      (s.tap.st = .shiftDr → t.drSh = s.tap.drSh.drop 1 ++ [tdi]) ∧
      (t.st = .shiftDr → t.tdo = some (t.drSh.headD false)) ∧ (t.st = .shiftIr → t.tdo = some (t.irSh.toNat.testBit 0)) ∧
      (t.st ≠ .shiftDr → t.st ≠ .shiftIr → t.tdo = none) ∧ (t.st = .updateIr → t.ir = s.tap.irSh) ∧
      (t.st ≠ .updateIr → t.st ≠ .testLogicReset → t.ir = s.tap.ir) ∧ (t.st = .testLogicReset → t.ir = 0x01#8) ∧
      (s.tap.st = .shiftIr → t.irSh.toNat = s.tap.irSh.toNat / 2 + 128 * b2n tdi) ∧
      (s.tap.st = .captureIr → t.irSh.toNat % 4 = 1) ∧
      (s.tap.st = .captureDr → tapInstr s.tap.ir = .idcode → ∀ i, i < 32 → nth false t.drSh i = Nat.testBit 0x10734AB5 i) ∧
      (s.tap.st = .captureDr → tapInstr s.tap.ir = .bypass → t.drSh = [false])) ∧
  (∀ st : TapState, ((((st.next true).next true).next true).next true).next true = .testLogicReset) ∧
  (∀ ir : BitVec 8, ir.toNat ∉ [0x00, 0x01, 0x02, 0x04, 0x05, 0x08, 0x09] → tapInstr ir = .bypass)

/-- R421, R450: whatever the commands, the TAP keeps its invariant at every step from every state: IDCODE is the instruction in
Test-Logic-Reset, TDO is driven in the two shift states only, and a data register keeps its length while it is shifted. -/
def Obligations.EveryStepKeepsTheTapInvariant : Prop :=
  ∀ s t : State, s.tap.Inv → step s = .next t → t.tap.Inv
end

