-- ==== Sys2Proof/Laws/Bits.lean ====
section
/-! SUPPORT. Laws of the sparse maps, the tables and the register fields: what a read gives after a write, and that writes keep the
canonical form. -/

namespace Sys2Proof.Machine

/-- Taking away bits that are set is their exclusive or. -/
theorem sub_and_eq_xor (x m : Nat) : x - (x &&& m) = x ^^^ (x &&& m) := by
  induction x using Nat.strong_induction_on generalizing m with
  | _ x ih =>
    by_cases hx : x = 0
    · subst hx; simp
    · have h1 := ih (x / 2) (by omega) (m / 2)
      have e1 : (x &&& m) / 2 = x / 2 &&& m / 2 := by
        apply Nat.eq_of_testBit_eq; intro i; simp [Nat.testBit_div_two]
      have e2 : (x ^^^ (x &&& m)) / 2 = x / 2 ^^^ (x / 2 &&& m / 2) := by
        apply Nat.eq_of_testBit_eq; intro i; simp [Nat.testBit_div_two]
      have q : ∀ n : Nat, n % 2 = if n.testBit 0 then 1 else 0 := by
        intro n
        rcases Nat.mod_two_eq_zero_or_one n with h | h <;> simp [Nat.testBit_zero, h]
      have e3 : (x ^^^ (x &&& m)) % 2 = x % 2 - (x &&& m) % 2 ∧ (x &&& m) % 2 ≤ x % 2 := by
        rw [q, q x, q (x &&& m), Nat.testBit_xor, Nat.testBit_and]
        cases x.testBit 0 <;> cases m.testBit 0 <;> decide
      have hle : (x / 2 &&& m / 2) ≤ x / 2 := Nat.and_le_left
      omega

/-! ### Bits -/

theorem testBit_bits (x hi lo i : Nat) : (bits x hi lo).testBit i = (decide (i < hi + 1 - lo) && x.testBit (lo + i)) := by
  simp [bits, Nat.testBit_mod_two_pow, Nat.testBit_shiftRight]

theorem testBit_place (w lo v i : Nat) : (place w lo v).testBit i = (decide (lo ≤ i) && (decide (i - lo < w) && v.testBit (i - lo))) := by
  simp [place, Nat.testBit_shiftLeft, Nat.testBit_mod_two_pow]

theorem place_lt (w lo v : Nat) : place w lo v < 2 ^ (lo + w) := by
  unfold place
  rw [Nat.shiftLeft_eq, Nat.pow_add, Nat.mul_comm]
  exact Nat.mul_lt_mul_of_pos_left (Nat.mod_lt _ (Nat.two_pow_pos w)) (Nat.two_pow_pos lo)

theorem bits_lt (x w lo : Nat) (h : 1 ≤ w) : bits x (lo + w - 1) lo < 2 ^ w := by
  unfold bits
  have : lo + w - 1 + 1 - lo = w := by omega
  rw [this]
  exact Nat.mod_lt _ (Nat.two_pow_pos w)

/-! ### Sparse maps -/

theorem SMap.get_erase_same {w : Nat} (m : SMap w) (a : Nat) : (m.erase a).get a = 0#w := by
  induction m with
  | nil => rfl
  | cons e m ih =>
    obtain ⟨k, u⟩ := e
    by_cases h : k = a
    · simpa [SMap.erase, h] using ih
    · have h' : ¬ a = k := fun e => h e.symm
      simpa [SMap.erase, h, SMap.get, h'] using ih

theorem SMap.get_erase_ne {w : Nat} (m : SMap w) {a b : Nat} (hab : a ≠ b) : (m.erase a).get b = m.get b := by
  induction m with
  | nil => rfl
  | cons e m ih =>
    obtain ⟨k, u⟩ := e
    by_cases h : k = a
    · have hb : ¬ b = k := by omega
      simpa [SMap.erase, h, SMap.get, hb, hab.symm] using ih
    · simp only [SMap.erase] at ih
      simp [SMap.erase, h, SMap.get, ih]

theorem SMap.get_insert_ne {w : Nat} (m : SMap w) {a b : Nat} (v : BitVec w) (hab : a ≠ b) :
    (m.insert a v).get b = m.get b := by
  induction m with
  | nil => simp [SMap.insert, SMap.get, hab.symm]
  | cons e m ih =>
    obtain ⟨k, u⟩ := e
    simp only [SMap.insert]
    split
    · simp [SMap.get, hab.symm]
    · simp [SMap.get, ih]

theorem SMap.get_insert_same {w : Nat} (m : SMap w) (a : Nat) (v : BitVec w) (h : ∀ e ∈ m, e.1 ≠ a) :
    (m.insert a v).get a = v := by
  induction m with
  | nil => simp [SMap.insert, SMap.get]
  | cons e m ih =>
    obtain ⟨k, u⟩ := e
    have hk : ¬ a = k := fun e => h (k, u) (by simp) e.symm
    simp only [SMap.insert]
    split
    · simp [SMap.get]
    · simpa [SMap.get, hk] using ih fun e he => h e (by simp [he])

theorem SMap.mem_erase {w : Nat} (m : SMap w) (a : Nat) (e : Nat × BitVec w) (h : e ∈ m.erase a) : e.1 ≠ a := by
  simp only [SMap.erase, List.mem_filter, bne_iff_ne] at h
  exact h.2

/-- A read gives what was written. -/
@[simp] theorem SMap.get_set_same {w : Nat} (m : SMap w) (a : Nat) (v : BitVec w) : (m.set a v).get a = v := by
  unfold SMap.set
  split
  · next h => rw [SMap.get_erase_same, h]
  · exact SMap.get_insert_same _ _ _ (SMap.mem_erase m a)

/-- A write leaves every other key alone. -/
theorem SMap.get_set_ne {w : Nat} (m : SMap w) {a b : Nat} (v : BitVec w) (hab : a ≠ b) : (m.set a v).get b = m.get b := by
  unfold SMap.set
  split
  · exact SMap.get_erase_ne m hab
  · rw [SMap.get_insert_ne _ _ hab, SMap.get_erase_ne m hab]

theorem SMap.get_set {w : Nat} (m : SMap w) (a b : Nat) (v : BitVec w) :
    (m.set a v).get b = if a = b then v else m.get b := by
  by_cases h : a = b
  · subst h; simp
  · simp [h, SMap.get_set_ne m v h]

theorem SMap.wfFrom_mono {w : Nat} (m : SMap w) {lo lo' : Nat} (h : lo' ≤ lo) (hm : SMap.wfFrom lo m = true) :
    SMap.wfFrom lo' m = true := by
  cases m with
  | nil => rfl
  | cons e m =>
    obtain ⟨k, v⟩ := e
    simp only [SMap.wfFrom, Bool.and_eq_true, decide_eq_true_eq] at hm ⊢
    exact ⟨⟨by omega, hm.1.2⟩, hm.2⟩

theorem SMap.wfFrom_erase {w : Nat} (m : SMap w) (a : Nat) : ∀ lo, SMap.wfFrom lo m = true → SMap.wfFrom lo (m.erase a) = true := by
  induction m with
  | nil => intro lo h; exact h
  | cons e m ih =>
    obtain ⟨k, v⟩ := e
    intro lo h
    simp only [SMap.wfFrom, Bool.and_eq_true, decide_eq_true_eq] at h
    by_cases hk : k = a
    · have := SMap.wfFrom_mono _ (show lo ≤ k + 1 by omega) (ih (k + 1) h.2)
      simpa [SMap.erase, hk] using this
    · have := ih (k + 1) h.2
      simp only [SMap.erase] at this
      simp [SMap.erase, hk, SMap.wfFrom, h.1.1, this]
      simpa using h.1.2

theorem SMap.wfFrom_insert {w : Nat} (m : SMap w) (a : Nat) (v : BitVec w) (hv : v ≠ 0#w) (hne : ∀ e ∈ m, e.1 ≠ a) :
    ∀ lo, lo ≤ a → SMap.wfFrom lo m = true → SMap.wfFrom lo (m.insert a v) = true := by
  induction m with
  | nil => intro lo h _; simp [SMap.insert, SMap.wfFrom, h, hv]
  | cons e m ih =>
    obtain ⟨k, u⟩ := e
    intro lo hlo h
    have hk : k ≠ a := hne (k, u) (by simp)
    simp only [SMap.wfFrom, Bool.and_eq_true, decide_eq_true_eq] at h
    simp only [SMap.insert]
    split
    · next hak =>
      simp only [SMap.wfFrom, Bool.and_eq_true, decide_eq_true_eq, Bool.not_eq_true', decide_eq_false_iff_not]
      refine ⟨⟨hlo, hv⟩, ⟨by omega, ?_⟩, h.2⟩
      simpa using h.1.2
    · next hak =>
      have := ih (fun e he => hne e (by simp [he])) (k + 1) (by omega) h.2
      simp only [SMap.wfFrom, Bool.and_eq_true, decide_eq_true_eq]
      exact ⟨h.1, this⟩

/-- A write keeps the canonical form. -/
theorem SMap.wf_set {w : Nat} (m : SMap w) (a : Nat) (v : BitVec w) (h : m.wf = true) : (m.set a v).wf = true := by
  unfold SMap.wf SMap.set at *
  split
  · exact SMap.wfFrom_erase m a 0 h
  · next hv => exact SMap.wfFrom_insert _ a v hv (SMap.mem_erase m a) 0 (Nat.zero_le _) (SMap.wfFrom_erase m a 0 h)

/-! ### Tables -/

@[simp] theorem Table.get_set_same {α : Type} (d : α) (m : Table α) (a : Nat) (v : α) : Table.get d (Table.set m a v) a = v := by
  induction m with
  | nil => simp [Table.set, Table.get]
  | cons e m ih =>
    obtain ⟨k, u⟩ := e
    simp only [Table.set]
    split
    · simp [Table.get]
    · split
      · simp [Table.get]
      · next h => simp [Table.get, h, ih]

theorem Table.get_set_ne {α : Type} (d : α) (m : Table α) {a b : Nat} (v : α) (hab : a ≠ b) :
    Table.get d (Table.set m a v) b = Table.get d m b := by
  induction m with
  | nil => simp [Table.set, Table.get, hab.symm]
  | cons e m ih =>
    obtain ⟨k, u⟩ := e
    simp only [Table.set]
    split
    · simp [Table.get, hab.symm]
    · split
      · next h => subst h; simp [Table.get, hab.symm]
      · simp [Table.get, ih]

/-! ### Register fields -/

/-- A field lies inside a register. -/
abbrev Fld.fits (f : Fld) : Prop := 1 ≤ f.w ∧ f.lo + f.w ≤ 32

/-- Two fields share no bit. -/
abbrev Fld.apart (f g : Fld) : Prop := f.addr ≠ g.addr ∨ f.lo + f.w ≤ g.lo ∨ g.lo + g.w ≤ f.lo

theorem fieldOf_lt (m : SMap 32) (f : Fld) (h : f.fits) : fieldOf m f < 2 ^ f.w := bits_lt _ _ _ h.1

/-- A field reads as it was set. -/
theorem fieldOf_setFieldOf_same (m : SMap 32) (f : Fld) (v : Nat) (h : f.fits) : fieldOf (setFieldOf m f v) f = v % 2 ^ f.w := by
  obtain ⟨h1, h2⟩ := h
  apply Nat.eq_of_testBit_eq
  intro i
  have e : f.lo + f.w - 1 + 1 - f.lo = f.w := by omega
  by_cases hi : i < f.w
  · have hl : f.lo + i < 32 := by omega
    have hb : (bits (regReset f.addr ^^^ m.get f.addr).toNat (f.lo + f.w - 1) f.lo).testBit i
        = (regReset f.addr ^^^ m.get f.addr).toNat.testBit (f.lo + i) := by rw [testBit_bits]; simp [e, hi]
    have key : fieldOf (setFieldOf m f v) f
        = bits (regReset f.addr ^^^ (m.get f.addr ^^^ BitVec.ofNat 32 (place f.w f.lo (fieldOf m f ^^^ (v % 2 ^ f.w))))).toNat
            (f.lo + f.w - 1) f.lo := by simp [fieldOf, setFieldOf]
    rw [key, testBit_bits, e]
    simp only [hi, decide_true, Bool.true_and, Nat.testBit_mod_two_pow, BitVec.toNat_xor, BitVec.toNat_ofNat, Nat.testBit_xor, hl,
      testBit_place, Nat.le_add_right, Nat.add_sub_cancel_left]
    rw [fieldOf, hb]
    simp only [BitVec.toNat_xor, Nat.testBit_xor]
    cases (regReset f.addr).toNat.testBit (f.lo + i) <;> cases (m.get f.addr).toNat.testBit (f.lo + i) <;> cases v.testBit i <;> rfl
  · simp [fieldOf, testBit_bits, e, hi, Nat.testBit_mod_two_pow]

/-- Setting a field leaves every field apart from it alone. -/
theorem fieldOf_setFieldOf_apart (m : SMap 32) (f g : Fld) (v : Nat) (h : f.apart g) (hg : 1 ≤ g.w) :
    fieldOf (setFieldOf m f v) g = fieldOf m g := by
  by_cases ha : f.addr = g.addr
  · have hd : f.lo + f.w ≤ g.lo ∨ g.lo + g.w ≤ f.lo := by
      rcases h with h | h
      · exact absurd ha h
      · exact h
    apply Nat.eq_of_testBit_eq
    intro i
    simp only [fieldOf, setFieldOf, testBit_bits, ha, SMap.get_set_same, BitVec.toNat_xor, Nat.testBit_xor, BitVec.toNat_ofNat,
      Nat.testBit_mod_two_pow, testBit_place]
    by_cases hi : i < g.lo + g.w - 1 + 1 - g.lo
    · have hn : (decide (f.lo ≤ g.lo + i) && decide (g.lo + i - f.lo < f.w)) = false := by
        simp only [Bool.and_eq_false_iff, decide_eq_false_iff_not]
        omega
      simp only [Bool.and_eq_false_iff] at hn
      rcases hn with hn | hn <;> simp [hn]
    · simp [hi]
  · simp [fieldOf, setFieldOf, SMap.get_set_ne _ _ ha]

end Sys2Proof.Machine
end

