-- ==== Sys2Proof/Laws/State.lean ====
section
/-! SUPPORT. Laws of the state: one lemma for each part of the chip under each named update, true by rfl. -/

namespace Sys2Proof.Machine

/-! ### setFld -/

@[simp] theorem Chip.setFld_clk (s : Chip) (f : Fld) (v : Nat) : (s.setFld f v).clk = s.clk := rfl
@[simp] theorem Chip.setFld_net (s : Chip) (f : Fld) (v : Nat) : (s.setFld f v).net = s.net := rfl
@[simp] theorem Chip.setFld_evtG (s : Chip) (f : Fld) (v : Nat) : (s.setFld f v).evtG = s.evtG := rfl
@[simp] theorem Chip.setFld_mems (s : Chip) (f : Fld) (v : Nat) : (s.setFld f v).mems = s.mems := rfl
@[simp] theorem Chip.setFld_scrub (s : Chip) (f : Fld) (v : Nat) : (s.setFld f v).scrub = s.scrub := rfl
@[simp] theorem Chip.setFld_sc (s : Chip) (f : Fld) (v : Nat) : (s.setFld f v).sc = s.sc := rfl
@[simp] theorem Chip.setFld_cmd (s : Chip) (f : Fld) (v : Nat) : (s.setFld f v).cmd = s.cmd := rfl
@[simp] theorem Chip.setFld_ringE (s : Chip) (f : Fld) (v : Nat) : (s.setFld f v).ringE = s.ringE := rfl
@[simp] theorem Chip.setFld_ringW (s : Chip) (f : Fld) (v : Nat) : (s.setFld f v).ringW = s.ringW := rfl
@[simp] theorem Chip.setFld_ring (s : Chip) (f : Fld) (v : Nat) : (s.setFld f v).ring = s.ring := rfl
@[simp] theorem Chip.setFld_laneE (s : Chip) (f : Fld) (v : Nat) : (s.setFld f v).laneE = s.laneE := rfl
@[simp] theorem Chip.setFld_laneW (s : Chip) (f : Fld) (v : Nat) : (s.setFld f v).laneW = s.laneW := rfl
@[simp] theorem Chip.setFld_line (s : Chip) (f : Fld) (v : Nat) : (s.setFld f v).line = s.line := rfl
@[simp] theorem Chip.setFld_cdc (s : Chip) (f : Fld) (v : Nat) : (s.setFld f v).cdc = s.cdc := rfl
@[simp] theorem Chip.setFld_lawn (s : Chip) (f : Fld) (v : Nat) : (s.setFld f v).lawn = s.lawn := rfl
@[simp] theorem Chip.setFld_hedges (s : Chip) (f : Fld) (v : Nat) : (s.setFld f v).hedges = s.hedges := rfl
@[simp] theorem Chip.setFld_fb (s : Chip) (f : Fld) (v : Nat) : (s.setFld f v).fb = s.fb := rfl
@[simp] theorem Chip.setFld_store (s : Chip) (f : Fld) (v : Nat) : (s.setFld f v).store = s.store := rfl
@[simp] theorem Chip.setFld_rst (s : Chip) (f : Fld) (v : Nat) : (s.setFld f v).rst = s.rst := rfl
@[simp] theorem Chip.setFld_pins (s : Chip) (f : Fld) (v : Nat) : (s.setFld f v).pins = s.pins := rfl
@[simp] theorem Chip.setFld_sto (s : Chip) (f : Fld) (v : Nat) : (s.setFld f v).sto = s.sto := rfl
@[simp] theorem Chip.setFld_pair (s : Chip) (f : Fld) (v : Nat) : (s.setFld f v).pair = s.pair := rfl
@[simp] theorem Chip.setFld_meas (s : Chip) (f : Fld) (v : Nat) : (s.setFld f v).meas = s.meas := rfl
@[simp] theorem Chip.setFld_srcs (s : Chip) (f : Fld) (v : Nat) : (s.setFld f v).srcs = s.srcs := rfl
@[simp] theorem Chip.setFld_trg (s : Chip) (f : Fld) (v : Nat) : (s.setFld f v).trg = s.trg := rfl
@[simp] theorem Chip.setFld_wav (s : Chip) (f : Fld) (v : Nat) : (s.setFld f v).wav = s.wav := rfl
@[simp] theorem Chip.setFld_xdc (s : Chip) (f : Fld) (v : Nat) : (s.setFld f v).xdc = s.xdc := rfl
@[simp] theorem Chip.setFld_tis (s : Chip) (f : Fld) (v : Nat) : (s.setFld f v).tis = s.tis := rfl
@[simp] theorem Chip.setFld_tips (s : Chip) (f : Fld) (v : Nat) : (s.setFld f v).tips = s.tips := rfl
@[simp] theorem Chip.setFld_pos (s : Chip) (f : Fld) (v : Nat) : (s.setFld f v).pos = s.pos := rfl
@[simp] theorem Chip.setFld_cal (s : Chip) (f : Fld) (v : Nat) : (s.setFld f v).cal = s.cal := rfl
@[simp] theorem Chip.setFld_cmp (s : Chip) (f : Fld) (v : Nat) : (s.setFld f v).cmp = s.cmp := rfl
@[simp] theorem Chip.setFld_tabs (s : Chip) (f : Fld) (v : Nat) : (s.setFld f v).tabs = s.tabs := rfl
@[simp] theorem Chip.setFld_free (s : Chip) (f : Fld) (v : Nat) : (s.setFld f v).free = s.free := rfl

/-! ### setFlag -/

@[simp] theorem Chip.setFlag_clk (s : Chip) (f : Fld) (b : Bool) : (s.setFlag f b).clk = s.clk := rfl
@[simp] theorem Chip.setFlag_net (s : Chip) (f : Fld) (b : Bool) : (s.setFlag f b).net = s.net := rfl
@[simp] theorem Chip.setFlag_evtG (s : Chip) (f : Fld) (b : Bool) : (s.setFlag f b).evtG = s.evtG := rfl
@[simp] theorem Chip.setFlag_mems (s : Chip) (f : Fld) (b : Bool) : (s.setFlag f b).mems = s.mems := rfl
@[simp] theorem Chip.setFlag_scrub (s : Chip) (f : Fld) (b : Bool) : (s.setFlag f b).scrub = s.scrub := rfl
@[simp] theorem Chip.setFlag_sc (s : Chip) (f : Fld) (b : Bool) : (s.setFlag f b).sc = s.sc := rfl
@[simp] theorem Chip.setFlag_cmd (s : Chip) (f : Fld) (b : Bool) : (s.setFlag f b).cmd = s.cmd := rfl
@[simp] theorem Chip.setFlag_ringE (s : Chip) (f : Fld) (b : Bool) : (s.setFlag f b).ringE = s.ringE := rfl
@[simp] theorem Chip.setFlag_ringW (s : Chip) (f : Fld) (b : Bool) : (s.setFlag f b).ringW = s.ringW := rfl
@[simp] theorem Chip.setFlag_ring (s : Chip) (f : Fld) (b : Bool) : (s.setFlag f b).ring = s.ring := rfl
@[simp] theorem Chip.setFlag_laneE (s : Chip) (f : Fld) (b : Bool) : (s.setFlag f b).laneE = s.laneE := rfl
@[simp] theorem Chip.setFlag_laneW (s : Chip) (f : Fld) (b : Bool) : (s.setFlag f b).laneW = s.laneW := rfl
@[simp] theorem Chip.setFlag_line (s : Chip) (f : Fld) (b : Bool) : (s.setFlag f b).line = s.line := rfl
@[simp] theorem Chip.setFlag_cdc (s : Chip) (f : Fld) (b : Bool) : (s.setFlag f b).cdc = s.cdc := rfl
@[simp] theorem Chip.setFlag_lawn (s : Chip) (f : Fld) (b : Bool) : (s.setFlag f b).lawn = s.lawn := rfl
@[simp] theorem Chip.setFlag_hedges (s : Chip) (f : Fld) (b : Bool) : (s.setFlag f b).hedges = s.hedges := rfl
@[simp] theorem Chip.setFlag_fb (s : Chip) (f : Fld) (b : Bool) : (s.setFlag f b).fb = s.fb := rfl
@[simp] theorem Chip.setFlag_store (s : Chip) (f : Fld) (b : Bool) : (s.setFlag f b).store = s.store := rfl
@[simp] theorem Chip.setFlag_rst (s : Chip) (f : Fld) (b : Bool) : (s.setFlag f b).rst = s.rst := rfl
@[simp] theorem Chip.setFlag_pins (s : Chip) (f : Fld) (b : Bool) : (s.setFlag f b).pins = s.pins := rfl
@[simp] theorem Chip.setFlag_sto (s : Chip) (f : Fld) (b : Bool) : (s.setFlag f b).sto = s.sto := rfl
@[simp] theorem Chip.setFlag_pair (s : Chip) (f : Fld) (b : Bool) : (s.setFlag f b).pair = s.pair := rfl
@[simp] theorem Chip.setFlag_meas (s : Chip) (f : Fld) (b : Bool) : (s.setFlag f b).meas = s.meas := rfl
@[simp] theorem Chip.setFlag_srcs (s : Chip) (f : Fld) (b : Bool) : (s.setFlag f b).srcs = s.srcs := rfl
@[simp] theorem Chip.setFlag_trg (s : Chip) (f : Fld) (b : Bool) : (s.setFlag f b).trg = s.trg := rfl
@[simp] theorem Chip.setFlag_wav (s : Chip) (f : Fld) (b : Bool) : (s.setFlag f b).wav = s.wav := rfl
@[simp] theorem Chip.setFlag_xdc (s : Chip) (f : Fld) (b : Bool) : (s.setFlag f b).xdc = s.xdc := rfl
@[simp] theorem Chip.setFlag_tis (s : Chip) (f : Fld) (b : Bool) : (s.setFlag f b).tis = s.tis := rfl
@[simp] theorem Chip.setFlag_tips (s : Chip) (f : Fld) (b : Bool) : (s.setFlag f b).tips = s.tips := rfl
@[simp] theorem Chip.setFlag_pos (s : Chip) (f : Fld) (b : Bool) : (s.setFlag f b).pos = s.pos := rfl
@[simp] theorem Chip.setFlag_cal (s : Chip) (f : Fld) (b : Bool) : (s.setFlag f b).cal = s.cal := rfl
@[simp] theorem Chip.setFlag_cmp (s : Chip) (f : Fld) (b : Bool) : (s.setFlag f b).cmp = s.cmp := rfl
@[simp] theorem Chip.setFlag_tabs (s : Chip) (f : Fld) (b : Bool) : (s.setFlag f b).tabs = s.tabs := rfl
@[simp] theorem Chip.setFlag_free (s : Chip) (f : Fld) (b : Bool) : (s.setFlag f b).free = s.free := rfl

/-! ### bumpBy -/

@[simp] theorem Chip.bumpBy_clk (s : Chip) (f : Fld) (n : Nat) : (s.bumpBy f n).clk = s.clk := rfl
@[simp] theorem Chip.bumpBy_net (s : Chip) (f : Fld) (n : Nat) : (s.bumpBy f n).net = s.net := rfl
@[simp] theorem Chip.bumpBy_evtG (s : Chip) (f : Fld) (n : Nat) : (s.bumpBy f n).evtG = s.evtG := rfl
@[simp] theorem Chip.bumpBy_mems (s : Chip) (f : Fld) (n : Nat) : (s.bumpBy f n).mems = s.mems := rfl
@[simp] theorem Chip.bumpBy_scrub (s : Chip) (f : Fld) (n : Nat) : (s.bumpBy f n).scrub = s.scrub := rfl
@[simp] theorem Chip.bumpBy_sc (s : Chip) (f : Fld) (n : Nat) : (s.bumpBy f n).sc = s.sc := rfl
@[simp] theorem Chip.bumpBy_cmd (s : Chip) (f : Fld) (n : Nat) : (s.bumpBy f n).cmd = s.cmd := rfl
@[simp] theorem Chip.bumpBy_ringE (s : Chip) (f : Fld) (n : Nat) : (s.bumpBy f n).ringE = s.ringE := rfl
@[simp] theorem Chip.bumpBy_ringW (s : Chip) (f : Fld) (n : Nat) : (s.bumpBy f n).ringW = s.ringW := rfl
@[simp] theorem Chip.bumpBy_ring (s : Chip) (f : Fld) (n : Nat) : (s.bumpBy f n).ring = s.ring := rfl
@[simp] theorem Chip.bumpBy_laneE (s : Chip) (f : Fld) (n : Nat) : (s.bumpBy f n).laneE = s.laneE := rfl
@[simp] theorem Chip.bumpBy_laneW (s : Chip) (f : Fld) (n : Nat) : (s.bumpBy f n).laneW = s.laneW := rfl
@[simp] theorem Chip.bumpBy_line (s : Chip) (f : Fld) (n : Nat) : (s.bumpBy f n).line = s.line := rfl
@[simp] theorem Chip.bumpBy_cdc (s : Chip) (f : Fld) (n : Nat) : (s.bumpBy f n).cdc = s.cdc := rfl
@[simp] theorem Chip.bumpBy_lawn (s : Chip) (f : Fld) (n : Nat) : (s.bumpBy f n).lawn = s.lawn := rfl
@[simp] theorem Chip.bumpBy_hedges (s : Chip) (f : Fld) (n : Nat) : (s.bumpBy f n).hedges = s.hedges := rfl
@[simp] theorem Chip.bumpBy_fb (s : Chip) (f : Fld) (n : Nat) : (s.bumpBy f n).fb = s.fb := rfl
@[simp] theorem Chip.bumpBy_store (s : Chip) (f : Fld) (n : Nat) : (s.bumpBy f n).store = s.store := rfl
@[simp] theorem Chip.bumpBy_rst (s : Chip) (f : Fld) (n : Nat) : (s.bumpBy f n).rst = s.rst := rfl
@[simp] theorem Chip.bumpBy_pins (s : Chip) (f : Fld) (n : Nat) : (s.bumpBy f n).pins = s.pins := rfl
@[simp] theorem Chip.bumpBy_sto (s : Chip) (f : Fld) (n : Nat) : (s.bumpBy f n).sto = s.sto := rfl
@[simp] theorem Chip.bumpBy_pair (s : Chip) (f : Fld) (n : Nat) : (s.bumpBy f n).pair = s.pair := rfl
@[simp] theorem Chip.bumpBy_meas (s : Chip) (f : Fld) (n : Nat) : (s.bumpBy f n).meas = s.meas := rfl
@[simp] theorem Chip.bumpBy_srcs (s : Chip) (f : Fld) (n : Nat) : (s.bumpBy f n).srcs = s.srcs := rfl
@[simp] theorem Chip.bumpBy_trg (s : Chip) (f : Fld) (n : Nat) : (s.bumpBy f n).trg = s.trg := rfl
@[simp] theorem Chip.bumpBy_wav (s : Chip) (f : Fld) (n : Nat) : (s.bumpBy f n).wav = s.wav := rfl
@[simp] theorem Chip.bumpBy_xdc (s : Chip) (f : Fld) (n : Nat) : (s.bumpBy f n).xdc = s.xdc := rfl
@[simp] theorem Chip.bumpBy_tis (s : Chip) (f : Fld) (n : Nat) : (s.bumpBy f n).tis = s.tis := rfl
@[simp] theorem Chip.bumpBy_tips (s : Chip) (f : Fld) (n : Nat) : (s.bumpBy f n).tips = s.tips := rfl
@[simp] theorem Chip.bumpBy_pos (s : Chip) (f : Fld) (n : Nat) : (s.bumpBy f n).pos = s.pos := rfl
@[simp] theorem Chip.bumpBy_cal (s : Chip) (f : Fld) (n : Nat) : (s.bumpBy f n).cal = s.cal := rfl
@[simp] theorem Chip.bumpBy_cmp (s : Chip) (f : Fld) (n : Nat) : (s.bumpBy f n).cmp = s.cmp := rfl
@[simp] theorem Chip.bumpBy_tabs (s : Chip) (f : Fld) (n : Nat) : (s.bumpBy f n).tabs = s.tabs := rfl
@[simp] theorem Chip.bumpBy_free (s : Chip) (f : Fld) (n : Nat) : (s.bumpBy f n).free = s.free := rfl

/-! ### bump -/

@[simp] theorem Chip.bump_clk (s : Chip) (f : Fld) : (s.bump f).clk = s.clk := rfl
@[simp] theorem Chip.bump_net (s : Chip) (f : Fld) : (s.bump f).net = s.net := rfl
@[simp] theorem Chip.bump_evtG (s : Chip) (f : Fld) : (s.bump f).evtG = s.evtG := rfl
@[simp] theorem Chip.bump_mems (s : Chip) (f : Fld) : (s.bump f).mems = s.mems := rfl
@[simp] theorem Chip.bump_scrub (s : Chip) (f : Fld) : (s.bump f).scrub = s.scrub := rfl
@[simp] theorem Chip.bump_sc (s : Chip) (f : Fld) : (s.bump f).sc = s.sc := rfl
@[simp] theorem Chip.bump_cmd (s : Chip) (f : Fld) : (s.bump f).cmd = s.cmd := rfl
@[simp] theorem Chip.bump_ringE (s : Chip) (f : Fld) : (s.bump f).ringE = s.ringE := rfl
@[simp] theorem Chip.bump_ringW (s : Chip) (f : Fld) : (s.bump f).ringW = s.ringW := rfl
@[simp] theorem Chip.bump_ring (s : Chip) (f : Fld) : (s.bump f).ring = s.ring := rfl
@[simp] theorem Chip.bump_laneE (s : Chip) (f : Fld) : (s.bump f).laneE = s.laneE := rfl
@[simp] theorem Chip.bump_laneW (s : Chip) (f : Fld) : (s.bump f).laneW = s.laneW := rfl
@[simp] theorem Chip.bump_line (s : Chip) (f : Fld) : (s.bump f).line = s.line := rfl
@[simp] theorem Chip.bump_cdc (s : Chip) (f : Fld) : (s.bump f).cdc = s.cdc := rfl
@[simp] theorem Chip.bump_lawn (s : Chip) (f : Fld) : (s.bump f).lawn = s.lawn := rfl
@[simp] theorem Chip.bump_hedges (s : Chip) (f : Fld) : (s.bump f).hedges = s.hedges := rfl
@[simp] theorem Chip.bump_fb (s : Chip) (f : Fld) : (s.bump f).fb = s.fb := rfl
@[simp] theorem Chip.bump_store (s : Chip) (f : Fld) : (s.bump f).store = s.store := rfl
@[simp] theorem Chip.bump_rst (s : Chip) (f : Fld) : (s.bump f).rst = s.rst := rfl
@[simp] theorem Chip.bump_pins (s : Chip) (f : Fld) : (s.bump f).pins = s.pins := rfl
@[simp] theorem Chip.bump_sto (s : Chip) (f : Fld) : (s.bump f).sto = s.sto := rfl
@[simp] theorem Chip.bump_pair (s : Chip) (f : Fld) : (s.bump f).pair = s.pair := rfl
@[simp] theorem Chip.bump_meas (s : Chip) (f : Fld) : (s.bump f).meas = s.meas := rfl
@[simp] theorem Chip.bump_srcs (s : Chip) (f : Fld) : (s.bump f).srcs = s.srcs := rfl
@[simp] theorem Chip.bump_trg (s : Chip) (f : Fld) : (s.bump f).trg = s.trg := rfl
@[simp] theorem Chip.bump_wav (s : Chip) (f : Fld) : (s.bump f).wav = s.wav := rfl
@[simp] theorem Chip.bump_xdc (s : Chip) (f : Fld) : (s.bump f).xdc = s.xdc := rfl
@[simp] theorem Chip.bump_tis (s : Chip) (f : Fld) : (s.bump f).tis = s.tis := rfl
@[simp] theorem Chip.bump_tips (s : Chip) (f : Fld) : (s.bump f).tips = s.tips := rfl
@[simp] theorem Chip.bump_pos (s : Chip) (f : Fld) : (s.bump f).pos = s.pos := rfl
@[simp] theorem Chip.bump_cal (s : Chip) (f : Fld) : (s.bump f).cal = s.cal := rfl
@[simp] theorem Chip.bump_cmp (s : Chip) (f : Fld) : (s.bump f).cmp = s.cmp := rfl
@[simp] theorem Chip.bump_tabs (s : Chip) (f : Fld) : (s.bump f).tabs = s.tabs := rfl
@[simp] theorem Chip.bump_free (s : Chip) (f : Fld) : (s.bump f).free = s.free := rfl

/-! ### setBit -/

@[simp] theorem Chip.setBit_clk (s : Chip) (f : Fld) (b : Nat) (v : Bool) : (s.setBit f b v).clk = s.clk := rfl
@[simp] theorem Chip.setBit_net (s : Chip) (f : Fld) (b : Nat) (v : Bool) : (s.setBit f b v).net = s.net := rfl
@[simp] theorem Chip.setBit_evtG (s : Chip) (f : Fld) (b : Nat) (v : Bool) : (s.setBit f b v).evtG = s.evtG := rfl
@[simp] theorem Chip.setBit_mems (s : Chip) (f : Fld) (b : Nat) (v : Bool) : (s.setBit f b v).mems = s.mems := rfl
@[simp] theorem Chip.setBit_scrub (s : Chip) (f : Fld) (b : Nat) (v : Bool) : (s.setBit f b v).scrub = s.scrub := rfl
@[simp] theorem Chip.setBit_sc (s : Chip) (f : Fld) (b : Nat) (v : Bool) : (s.setBit f b v).sc = s.sc := rfl
@[simp] theorem Chip.setBit_cmd (s : Chip) (f : Fld) (b : Nat) (v : Bool) : (s.setBit f b v).cmd = s.cmd := rfl
@[simp] theorem Chip.setBit_ringE (s : Chip) (f : Fld) (b : Nat) (v : Bool) : (s.setBit f b v).ringE = s.ringE := rfl
@[simp] theorem Chip.setBit_ringW (s : Chip) (f : Fld) (b : Nat) (v : Bool) : (s.setBit f b v).ringW = s.ringW := rfl
@[simp] theorem Chip.setBit_ring (s : Chip) (f : Fld) (b : Nat) (v : Bool) : (s.setBit f b v).ring = s.ring := rfl
@[simp] theorem Chip.setBit_laneE (s : Chip) (f : Fld) (b : Nat) (v : Bool) : (s.setBit f b v).laneE = s.laneE := rfl
@[simp] theorem Chip.setBit_laneW (s : Chip) (f : Fld) (b : Nat) (v : Bool) : (s.setBit f b v).laneW = s.laneW := rfl
@[simp] theorem Chip.setBit_line (s : Chip) (f : Fld) (b : Nat) (v : Bool) : (s.setBit f b v).line = s.line := rfl
@[simp] theorem Chip.setBit_cdc (s : Chip) (f : Fld) (b : Nat) (v : Bool) : (s.setBit f b v).cdc = s.cdc := rfl
@[simp] theorem Chip.setBit_lawn (s : Chip) (f : Fld) (b : Nat) (v : Bool) : (s.setBit f b v).lawn = s.lawn := rfl
@[simp] theorem Chip.setBit_hedges (s : Chip) (f : Fld) (b : Nat) (v : Bool) : (s.setBit f b v).hedges = s.hedges := rfl
@[simp] theorem Chip.setBit_fb (s : Chip) (f : Fld) (b : Nat) (v : Bool) : (s.setBit f b v).fb = s.fb := rfl
@[simp] theorem Chip.setBit_store (s : Chip) (f : Fld) (b : Nat) (v : Bool) : (s.setBit f b v).store = s.store := rfl
@[simp] theorem Chip.setBit_rst (s : Chip) (f : Fld) (b : Nat) (v : Bool) : (s.setBit f b v).rst = s.rst := rfl
@[simp] theorem Chip.setBit_pins (s : Chip) (f : Fld) (b : Nat) (v : Bool) : (s.setBit f b v).pins = s.pins := rfl
@[simp] theorem Chip.setBit_sto (s : Chip) (f : Fld) (b : Nat) (v : Bool) : (s.setBit f b v).sto = s.sto := rfl
@[simp] theorem Chip.setBit_pair (s : Chip) (f : Fld) (b : Nat) (v : Bool) : (s.setBit f b v).pair = s.pair := rfl
@[simp] theorem Chip.setBit_meas (s : Chip) (f : Fld) (b : Nat) (v : Bool) : (s.setBit f b v).meas = s.meas := rfl
@[simp] theorem Chip.setBit_srcs (s : Chip) (f : Fld) (b : Nat) (v : Bool) : (s.setBit f b v).srcs = s.srcs := rfl
@[simp] theorem Chip.setBit_trg (s : Chip) (f : Fld) (b : Nat) (v : Bool) : (s.setBit f b v).trg = s.trg := rfl
@[simp] theorem Chip.setBit_wav (s : Chip) (f : Fld) (b : Nat) (v : Bool) : (s.setBit f b v).wav = s.wav := rfl
@[simp] theorem Chip.setBit_xdc (s : Chip) (f : Fld) (b : Nat) (v : Bool) : (s.setBit f b v).xdc = s.xdc := rfl
@[simp] theorem Chip.setBit_tis (s : Chip) (f : Fld) (b : Nat) (v : Bool) : (s.setBit f b v).tis = s.tis := rfl
@[simp] theorem Chip.setBit_tips (s : Chip) (f : Fld) (b : Nat) (v : Bool) : (s.setBit f b v).tips = s.tips := rfl
@[simp] theorem Chip.setBit_pos (s : Chip) (f : Fld) (b : Nat) (v : Bool) : (s.setBit f b v).pos = s.pos := rfl
@[simp] theorem Chip.setBit_cal (s : Chip) (f : Fld) (b : Nat) (v : Bool) : (s.setBit f b v).cal = s.cal := rfl
@[simp] theorem Chip.setBit_cmp (s : Chip) (f : Fld) (b : Nat) (v : Bool) : (s.setBit f b v).cmp = s.cmp := rfl
@[simp] theorem Chip.setBit_tabs (s : Chip) (f : Fld) (b : Nat) (v : Bool) : (s.setBit f b v).tabs = s.tabs := rfl
@[simp] theorem Chip.setBit_free (s : Chip) (f : Fld) (b : Nat) (v : Bool) : (s.setBit f b v).free = s.free := rfl

/-! ### setActive -/

@[simp] theorem Chip.setActive_clk (s : Chip) (f : Fld) (v : Nat) : (s.setActive f v).clk = s.clk := rfl
@[simp] theorem Chip.setActive_net (s : Chip) (f : Fld) (v : Nat) : (s.setActive f v).net = s.net := rfl
@[simp] theorem Chip.setActive_evtG (s : Chip) (f : Fld) (v : Nat) : (s.setActive f v).evtG = s.evtG := rfl
@[simp] theorem Chip.setActive_mems (s : Chip) (f : Fld) (v : Nat) : (s.setActive f v).mems = s.mems := rfl
@[simp] theorem Chip.setActive_scrub (s : Chip) (f : Fld) (v : Nat) : (s.setActive f v).scrub = s.scrub := rfl
@[simp] theorem Chip.setActive_sc (s : Chip) (f : Fld) (v : Nat) : (s.setActive f v).sc = s.sc := rfl
@[simp] theorem Chip.setActive_ringE (s : Chip) (f : Fld) (v : Nat) : (s.setActive f v).ringE = s.ringE := rfl
@[simp] theorem Chip.setActive_ringW (s : Chip) (f : Fld) (v : Nat) : (s.setActive f v).ringW = s.ringW := rfl
@[simp] theorem Chip.setActive_ring (s : Chip) (f : Fld) (v : Nat) : (s.setActive f v).ring = s.ring := rfl
@[simp] theorem Chip.setActive_laneE (s : Chip) (f : Fld) (v : Nat) : (s.setActive f v).laneE = s.laneE := rfl
@[simp] theorem Chip.setActive_laneW (s : Chip) (f : Fld) (v : Nat) : (s.setActive f v).laneW = s.laneW := rfl
@[simp] theorem Chip.setActive_line (s : Chip) (f : Fld) (v : Nat) : (s.setActive f v).line = s.line := rfl
@[simp] theorem Chip.setActive_cdc (s : Chip) (f : Fld) (v : Nat) : (s.setActive f v).cdc = s.cdc := rfl
@[simp] theorem Chip.setActive_lawn (s : Chip) (f : Fld) (v : Nat) : (s.setActive f v).lawn = s.lawn := rfl
@[simp] theorem Chip.setActive_hedges (s : Chip) (f : Fld) (v : Nat) : (s.setActive f v).hedges = s.hedges := rfl
@[simp] theorem Chip.setActive_fb (s : Chip) (f : Fld) (v : Nat) : (s.setActive f v).fb = s.fb := rfl
@[simp] theorem Chip.setActive_store (s : Chip) (f : Fld) (v : Nat) : (s.setActive f v).store = s.store := rfl
@[simp] theorem Chip.setActive_rst (s : Chip) (f : Fld) (v : Nat) : (s.setActive f v).rst = s.rst := rfl
@[simp] theorem Chip.setActive_pins (s : Chip) (f : Fld) (v : Nat) : (s.setActive f v).pins = s.pins := rfl
@[simp] theorem Chip.setActive_sto (s : Chip) (f : Fld) (v : Nat) : (s.setActive f v).sto = s.sto := rfl
@[simp] theorem Chip.setActive_pair (s : Chip) (f : Fld) (v : Nat) : (s.setActive f v).pair = s.pair := rfl
@[simp] theorem Chip.setActive_meas (s : Chip) (f : Fld) (v : Nat) : (s.setActive f v).meas = s.meas := rfl
@[simp] theorem Chip.setActive_srcs (s : Chip) (f : Fld) (v : Nat) : (s.setActive f v).srcs = s.srcs := rfl
@[simp] theorem Chip.setActive_trg (s : Chip) (f : Fld) (v : Nat) : (s.setActive f v).trg = s.trg := rfl
@[simp] theorem Chip.setActive_wav (s : Chip) (f : Fld) (v : Nat) : (s.setActive f v).wav = s.wav := rfl
@[simp] theorem Chip.setActive_xdc (s : Chip) (f : Fld) (v : Nat) : (s.setActive f v).xdc = s.xdc := rfl
@[simp] theorem Chip.setActive_tis (s : Chip) (f : Fld) (v : Nat) : (s.setActive f v).tis = s.tis := rfl
@[simp] theorem Chip.setActive_tips (s : Chip) (f : Fld) (v : Nat) : (s.setActive f v).tips = s.tips := rfl
@[simp] theorem Chip.setActive_pos (s : Chip) (f : Fld) (v : Nat) : (s.setActive f v).pos = s.pos := rfl
@[simp] theorem Chip.setActive_cal (s : Chip) (f : Fld) (v : Nat) : (s.setActive f v).cal = s.cal := rfl
@[simp] theorem Chip.setActive_cmp (s : Chip) (f : Fld) (v : Nat) : (s.setActive f v).cmp = s.cmp := rfl
@[simp] theorem Chip.setActive_tabs (s : Chip) (f : Fld) (v : Nat) : (s.setActive f v).tabs = s.tabs := rfl
@[simp] theorem Chip.setActive_free (s : Chip) (f : Fld) (v : Nat) : (s.setActive f v).free = s.free := rfl

/-! ### setShadow -/

@[simp] theorem Chip.setShadow_clk (s : Chip) (f : Fld) (v : Nat) : (s.setShadow f v).clk = s.clk := rfl
@[simp] theorem Chip.setShadow_net (s : Chip) (f : Fld) (v : Nat) : (s.setShadow f v).net = s.net := rfl
@[simp] theorem Chip.setShadow_evtG (s : Chip) (f : Fld) (v : Nat) : (s.setShadow f v).evtG = s.evtG := rfl
@[simp] theorem Chip.setShadow_mems (s : Chip) (f : Fld) (v : Nat) : (s.setShadow f v).mems = s.mems := rfl
@[simp] theorem Chip.setShadow_scrub (s : Chip) (f : Fld) (v : Nat) : (s.setShadow f v).scrub = s.scrub := rfl
@[simp] theorem Chip.setShadow_sc (s : Chip) (f : Fld) (v : Nat) : (s.setShadow f v).sc = s.sc := rfl
@[simp] theorem Chip.setShadow_ringE (s : Chip) (f : Fld) (v : Nat) : (s.setShadow f v).ringE = s.ringE := rfl
@[simp] theorem Chip.setShadow_ringW (s : Chip) (f : Fld) (v : Nat) : (s.setShadow f v).ringW = s.ringW := rfl
@[simp] theorem Chip.setShadow_ring (s : Chip) (f : Fld) (v : Nat) : (s.setShadow f v).ring = s.ring := rfl
@[simp] theorem Chip.setShadow_laneE (s : Chip) (f : Fld) (v : Nat) : (s.setShadow f v).laneE = s.laneE := rfl
@[simp] theorem Chip.setShadow_laneW (s : Chip) (f : Fld) (v : Nat) : (s.setShadow f v).laneW = s.laneW := rfl
@[simp] theorem Chip.setShadow_line (s : Chip) (f : Fld) (v : Nat) : (s.setShadow f v).line = s.line := rfl
@[simp] theorem Chip.setShadow_cdc (s : Chip) (f : Fld) (v : Nat) : (s.setShadow f v).cdc = s.cdc := rfl
@[simp] theorem Chip.setShadow_lawn (s : Chip) (f : Fld) (v : Nat) : (s.setShadow f v).lawn = s.lawn := rfl
@[simp] theorem Chip.setShadow_hedges (s : Chip) (f : Fld) (v : Nat) : (s.setShadow f v).hedges = s.hedges := rfl
@[simp] theorem Chip.setShadow_fb (s : Chip) (f : Fld) (v : Nat) : (s.setShadow f v).fb = s.fb := rfl
@[simp] theorem Chip.setShadow_store (s : Chip) (f : Fld) (v : Nat) : (s.setShadow f v).store = s.store := rfl
@[simp] theorem Chip.setShadow_rst (s : Chip) (f : Fld) (v : Nat) : (s.setShadow f v).rst = s.rst := rfl
@[simp] theorem Chip.setShadow_pins (s : Chip) (f : Fld) (v : Nat) : (s.setShadow f v).pins = s.pins := rfl
@[simp] theorem Chip.setShadow_sto (s : Chip) (f : Fld) (v : Nat) : (s.setShadow f v).sto = s.sto := rfl
@[simp] theorem Chip.setShadow_pair (s : Chip) (f : Fld) (v : Nat) : (s.setShadow f v).pair = s.pair := rfl
@[simp] theorem Chip.setShadow_meas (s : Chip) (f : Fld) (v : Nat) : (s.setShadow f v).meas = s.meas := rfl
@[simp] theorem Chip.setShadow_srcs (s : Chip) (f : Fld) (v : Nat) : (s.setShadow f v).srcs = s.srcs := rfl
@[simp] theorem Chip.setShadow_trg (s : Chip) (f : Fld) (v : Nat) : (s.setShadow f v).trg = s.trg := rfl
@[simp] theorem Chip.setShadow_wav (s : Chip) (f : Fld) (v : Nat) : (s.setShadow f v).wav = s.wav := rfl
@[simp] theorem Chip.setShadow_xdc (s : Chip) (f : Fld) (v : Nat) : (s.setShadow f v).xdc = s.xdc := rfl
@[simp] theorem Chip.setShadow_tis (s : Chip) (f : Fld) (v : Nat) : (s.setShadow f v).tis = s.tis := rfl
@[simp] theorem Chip.setShadow_tips (s : Chip) (f : Fld) (v : Nat) : (s.setShadow f v).tips = s.tips := rfl
@[simp] theorem Chip.setShadow_pos (s : Chip) (f : Fld) (v : Nat) : (s.setShadow f v).pos = s.pos := rfl
@[simp] theorem Chip.setShadow_cal (s : Chip) (f : Fld) (v : Nat) : (s.setShadow f v).cal = s.cal := rfl
@[simp] theorem Chip.setShadow_cmp (s : Chip) (f : Fld) (v : Nat) : (s.setShadow f v).cmp = s.cmp := rfl
@[simp] theorem Chip.setShadow_tabs (s : Chip) (f : Fld) (v : Nat) : (s.setShadow f v).tabs = s.tabs := rfl
@[simp] theorem Chip.setShadow_free (s : Chip) (f : Fld) (v : Nat) : (s.setShadow f v).free = s.free := rfl

/-! ### setMem -/

@[simp] theorem Chip.setMem_regs (s : Chip) (m : Nat) (x : Mem) : (s.setMem m x).regs = s.regs := rfl
@[simp] theorem Chip.setMem_clk (s : Chip) (m : Nat) (x : Mem) : (s.setMem m x).clk = s.clk := rfl
@[simp] theorem Chip.setMem_net (s : Chip) (m : Nat) (x : Mem) : (s.setMem m x).net = s.net := rfl
@[simp] theorem Chip.setMem_evtG (s : Chip) (m : Nat) (x : Mem) : (s.setMem m x).evtG = s.evtG := rfl
@[simp] theorem Chip.setMem_scrub (s : Chip) (m : Nat) (x : Mem) : (s.setMem m x).scrub = s.scrub := rfl
@[simp] theorem Chip.setMem_sc (s : Chip) (m : Nat) (x : Mem) : (s.setMem m x).sc = s.sc := rfl
@[simp] theorem Chip.setMem_cmd (s : Chip) (m : Nat) (x : Mem) : (s.setMem m x).cmd = s.cmd := rfl
@[simp] theorem Chip.setMem_ringE (s : Chip) (m : Nat) (x : Mem) : (s.setMem m x).ringE = s.ringE := rfl
@[simp] theorem Chip.setMem_ringW (s : Chip) (m : Nat) (x : Mem) : (s.setMem m x).ringW = s.ringW := rfl
@[simp] theorem Chip.setMem_ring (s : Chip) (m : Nat) (x : Mem) : (s.setMem m x).ring = s.ring := rfl
@[simp] theorem Chip.setMem_laneE (s : Chip) (m : Nat) (x : Mem) : (s.setMem m x).laneE = s.laneE := rfl
@[simp] theorem Chip.setMem_laneW (s : Chip) (m : Nat) (x : Mem) : (s.setMem m x).laneW = s.laneW := rfl
@[simp] theorem Chip.setMem_line (s : Chip) (m : Nat) (x : Mem) : (s.setMem m x).line = s.line := rfl
@[simp] theorem Chip.setMem_cdc (s : Chip) (m : Nat) (x : Mem) : (s.setMem m x).cdc = s.cdc := rfl
@[simp] theorem Chip.setMem_lawn (s : Chip) (m : Nat) (x : Mem) : (s.setMem m x).lawn = s.lawn := rfl
@[simp] theorem Chip.setMem_hedges (s : Chip) (m : Nat) (x : Mem) : (s.setMem m x).hedges = s.hedges := rfl
@[simp] theorem Chip.setMem_fb (s : Chip) (m : Nat) (x : Mem) : (s.setMem m x).fb = s.fb := rfl
@[simp] theorem Chip.setMem_store (s : Chip) (m : Nat) (x : Mem) : (s.setMem m x).store = s.store := rfl
@[simp] theorem Chip.setMem_rst (s : Chip) (m : Nat) (x : Mem) : (s.setMem m x).rst = s.rst := rfl
@[simp] theorem Chip.setMem_pins (s : Chip) (m : Nat) (x : Mem) : (s.setMem m x).pins = s.pins := rfl
@[simp] theorem Chip.setMem_sto (s : Chip) (m : Nat) (x : Mem) : (s.setMem m x).sto = s.sto := rfl
@[simp] theorem Chip.setMem_pair (s : Chip) (m : Nat) (x : Mem) : (s.setMem m x).pair = s.pair := rfl
@[simp] theorem Chip.setMem_meas (s : Chip) (m : Nat) (x : Mem) : (s.setMem m x).meas = s.meas := rfl
@[simp] theorem Chip.setMem_srcs (s : Chip) (m : Nat) (x : Mem) : (s.setMem m x).srcs = s.srcs := rfl
@[simp] theorem Chip.setMem_trg (s : Chip) (m : Nat) (x : Mem) : (s.setMem m x).trg = s.trg := rfl
@[simp] theorem Chip.setMem_wav (s : Chip) (m : Nat) (x : Mem) : (s.setMem m x).wav = s.wav := rfl
@[simp] theorem Chip.setMem_xdc (s : Chip) (m : Nat) (x : Mem) : (s.setMem m x).xdc = s.xdc := rfl
@[simp] theorem Chip.setMem_tis (s : Chip) (m : Nat) (x : Mem) : (s.setMem m x).tis = s.tis := rfl
@[simp] theorem Chip.setMem_tips (s : Chip) (m : Nat) (x : Mem) : (s.setMem m x).tips = s.tips := rfl
@[simp] theorem Chip.setMem_pos (s : Chip) (m : Nat) (x : Mem) : (s.setMem m x).pos = s.pos := rfl
@[simp] theorem Chip.setMem_cal (s : Chip) (m : Nat) (x : Mem) : (s.setMem m x).cal = s.cal := rfl
@[simp] theorem Chip.setMem_cmp (s : Chip) (m : Nat) (x : Mem) : (s.setMem m x).cmp = s.cmp := rfl
@[simp] theorem Chip.setMem_tabs (s : Chip) (m : Nat) (x : Mem) : (s.setMem m x).tabs = s.tabs := rfl
@[simp] theorem Chip.setMem_free (s : Chip) (m : Nat) (x : Mem) : (s.setMem m x).free = s.free := rfl

/-! ### setPort -/

@[simp] theorem Chip.setPort_regs (s : Chip) (p : Port) (t : PortSt) : (s.setPort p t).regs = s.regs := by cases p <;> rfl
@[simp] theorem Chip.setPort_clk (s : Chip) (p : Port) (t : PortSt) : (s.setPort p t).clk = s.clk := by cases p <;> rfl
@[simp] theorem Chip.setPort_net (s : Chip) (p : Port) (t : PortSt) : (s.setPort p t).net = s.net := by cases p <;> rfl
@[simp] theorem Chip.setPort_evtG (s : Chip) (p : Port) (t : PortSt) : (s.setPort p t).evtG = s.evtG := by cases p <;> rfl
@[simp] theorem Chip.setPort_mems (s : Chip) (p : Port) (t : PortSt) : (s.setPort p t).mems = s.mems := by cases p <;> rfl
@[simp] theorem Chip.setPort_scrub (s : Chip) (p : Port) (t : PortSt) : (s.setPort p t).scrub = s.scrub := by cases p <;> rfl
@[simp] theorem Chip.setPort_sc (s : Chip) (p : Port) (t : PortSt) : (s.setPort p t).sc = s.sc := by cases p <;> rfl
@[simp] theorem Chip.setPort_cmd (s : Chip) (p : Port) (t : PortSt) : (s.setPort p t).cmd = s.cmd := by cases p <;> rfl
@[simp] theorem Chip.setPort_ring (s : Chip) (p : Port) (t : PortSt) : (s.setPort p t).ring = s.ring := by cases p <;> rfl
@[simp] theorem Chip.setPort_laneE (s : Chip) (p : Port) (t : PortSt) : (s.setPort p t).laneE = s.laneE := by cases p <;> rfl
@[simp] theorem Chip.setPort_laneW (s : Chip) (p : Port) (t : PortSt) : (s.setPort p t).laneW = s.laneW := by cases p <;> rfl
@[simp] theorem Chip.setPort_line (s : Chip) (p : Port) (t : PortSt) : (s.setPort p t).line = s.line := by cases p <;> rfl
@[simp] theorem Chip.setPort_cdc (s : Chip) (p : Port) (t : PortSt) : (s.setPort p t).cdc = s.cdc := by cases p <;> rfl
@[simp] theorem Chip.setPort_lawn (s : Chip) (p : Port) (t : PortSt) : (s.setPort p t).lawn = s.lawn := by cases p <;> rfl
@[simp] theorem Chip.setPort_hedges (s : Chip) (p : Port) (t : PortSt) : (s.setPort p t).hedges = s.hedges := by cases p <;> rfl
@[simp] theorem Chip.setPort_fb (s : Chip) (p : Port) (t : PortSt) : (s.setPort p t).fb = s.fb := by cases p <;> rfl
@[simp] theorem Chip.setPort_store (s : Chip) (p : Port) (t : PortSt) : (s.setPort p t).store = s.store := by cases p <;> rfl
@[simp] theorem Chip.setPort_rst (s : Chip) (p : Port) (t : PortSt) : (s.setPort p t).rst = s.rst := by cases p <;> rfl
@[simp] theorem Chip.setPort_pins (s : Chip) (p : Port) (t : PortSt) : (s.setPort p t).pins = s.pins := by cases p <;> rfl
@[simp] theorem Chip.setPort_sto (s : Chip) (p : Port) (t : PortSt) : (s.setPort p t).sto = s.sto := by cases p <;> rfl
@[simp] theorem Chip.setPort_pair (s : Chip) (p : Port) (t : PortSt) : (s.setPort p t).pair = s.pair := by cases p <;> rfl
@[simp] theorem Chip.setPort_meas (s : Chip) (p : Port) (t : PortSt) : (s.setPort p t).meas = s.meas := by cases p <;> rfl
@[simp] theorem Chip.setPort_srcs (s : Chip) (p : Port) (t : PortSt) : (s.setPort p t).srcs = s.srcs := by cases p <;> rfl
@[simp] theorem Chip.setPort_trg (s : Chip) (p : Port) (t : PortSt) : (s.setPort p t).trg = s.trg := by cases p <;> rfl
@[simp] theorem Chip.setPort_wav (s : Chip) (p : Port) (t : PortSt) : (s.setPort p t).wav = s.wav := by cases p <;> rfl
@[simp] theorem Chip.setPort_xdc (s : Chip) (p : Port) (t : PortSt) : (s.setPort p t).xdc = s.xdc := by cases p <;> rfl
@[simp] theorem Chip.setPort_tis (s : Chip) (p : Port) (t : PortSt) : (s.setPort p t).tis = s.tis := by cases p <;> rfl
@[simp] theorem Chip.setPort_tips (s : Chip) (p : Port) (t : PortSt) : (s.setPort p t).tips = s.tips := by cases p <;> rfl
@[simp] theorem Chip.setPort_pos (s : Chip) (p : Port) (t : PortSt) : (s.setPort p t).pos = s.pos := by cases p <;> rfl
@[simp] theorem Chip.setPort_cal (s : Chip) (p : Port) (t : PortSt) : (s.setPort p t).cal = s.cal := by cases p <;> rfl
@[simp] theorem Chip.setPort_cmp (s : Chip) (p : Port) (t : PortSt) : (s.setPort p t).cmp = s.cmp := by cases p <;> rfl
@[simp] theorem Chip.setPort_tabs (s : Chip) (p : Port) (t : PortSt) : (s.setPort p t).tabs = s.tabs := by cases p <;> rfl
@[simp] theorem Chip.setPort_free (s : Chip) (p : Port) (t : PortSt) : (s.setPort p t).free = s.free := by cases p <;> rfl

/-! ### setLane -/

@[simp] theorem Chip.setLane_regs (s : Chip) (p : Port) (t : LaneSt) : (s.setLane p t).regs = s.regs := by cases p <;> rfl
@[simp] theorem Chip.setLane_clk (s : Chip) (p : Port) (t : LaneSt) : (s.setLane p t).clk = s.clk := by cases p <;> rfl
@[simp] theorem Chip.setLane_net (s : Chip) (p : Port) (t : LaneSt) : (s.setLane p t).net = s.net := by cases p <;> rfl
@[simp] theorem Chip.setLane_evtG (s : Chip) (p : Port) (t : LaneSt) : (s.setLane p t).evtG = s.evtG := by cases p <;> rfl
@[simp] theorem Chip.setLane_mems (s : Chip) (p : Port) (t : LaneSt) : (s.setLane p t).mems = s.mems := by cases p <;> rfl
@[simp] theorem Chip.setLane_scrub (s : Chip) (p : Port) (t : LaneSt) : (s.setLane p t).scrub = s.scrub := by cases p <;> rfl
@[simp] theorem Chip.setLane_sc (s : Chip) (p : Port) (t : LaneSt) : (s.setLane p t).sc = s.sc := by cases p <;> rfl
@[simp] theorem Chip.setLane_cmd (s : Chip) (p : Port) (t : LaneSt) : (s.setLane p t).cmd = s.cmd := by cases p <;> rfl
@[simp] theorem Chip.setLane_ringE (s : Chip) (p : Port) (t : LaneSt) : (s.setLane p t).ringE = s.ringE := by cases p <;> rfl
@[simp] theorem Chip.setLane_ringW (s : Chip) (p : Port) (t : LaneSt) : (s.setLane p t).ringW = s.ringW := by cases p <;> rfl
@[simp] theorem Chip.setLane_ring (s : Chip) (p : Port) (t : LaneSt) : (s.setLane p t).ring = s.ring := by cases p <;> rfl
@[simp] theorem Chip.setLane_lawn (s : Chip) (p : Port) (t : LaneSt) : (s.setLane p t).lawn = s.lawn := by cases p <;> rfl
@[simp] theorem Chip.setLane_hedges (s : Chip) (p : Port) (t : LaneSt) : (s.setLane p t).hedges = s.hedges := by cases p <;> rfl
@[simp] theorem Chip.setLane_fb (s : Chip) (p : Port) (t : LaneSt) : (s.setLane p t).fb = s.fb := by cases p <;> rfl
@[simp] theorem Chip.setLane_store (s : Chip) (p : Port) (t : LaneSt) : (s.setLane p t).store = s.store := by cases p <;> rfl
@[simp] theorem Chip.setLane_rst (s : Chip) (p : Port) (t : LaneSt) : (s.setLane p t).rst = s.rst := by cases p <;> rfl
@[simp] theorem Chip.setLane_pins (s : Chip) (p : Port) (t : LaneSt) : (s.setLane p t).pins = s.pins := by cases p <;> rfl
@[simp] theorem Chip.setLane_sto (s : Chip) (p : Port) (t : LaneSt) : (s.setLane p t).sto = s.sto := by cases p <;> rfl
@[simp] theorem Chip.setLane_pair (s : Chip) (p : Port) (t : LaneSt) : (s.setLane p t).pair = s.pair := by cases p <;> rfl
@[simp] theorem Chip.setLane_meas (s : Chip) (p : Port) (t : LaneSt) : (s.setLane p t).meas = s.meas := by cases p <;> rfl
@[simp] theorem Chip.setLane_srcs (s : Chip) (p : Port) (t : LaneSt) : (s.setLane p t).srcs = s.srcs := by cases p <;> rfl
@[simp] theorem Chip.setLane_trg (s : Chip) (p : Port) (t : LaneSt) : (s.setLane p t).trg = s.trg := by cases p <;> rfl
@[simp] theorem Chip.setLane_wav (s : Chip) (p : Port) (t : LaneSt) : (s.setLane p t).wav = s.wav := by cases p <;> rfl
@[simp] theorem Chip.setLane_xdc (s : Chip) (p : Port) (t : LaneSt) : (s.setLane p t).xdc = s.xdc := by cases p <;> rfl
@[simp] theorem Chip.setLane_tis (s : Chip) (p : Port) (t : LaneSt) : (s.setLane p t).tis = s.tis := by cases p <;> rfl
@[simp] theorem Chip.setLane_tips (s : Chip) (p : Port) (t : LaneSt) : (s.setLane p t).tips = s.tips := by cases p <;> rfl
@[simp] theorem Chip.setLane_pos (s : Chip) (p : Port) (t : LaneSt) : (s.setLane p t).pos = s.pos := by cases p <;> rfl
@[simp] theorem Chip.setLane_cal (s : Chip) (p : Port) (t : LaneSt) : (s.setLane p t).cal = s.cal := by cases p <;> rfl
@[simp] theorem Chip.setLane_cmp (s : Chip) (p : Port) (t : LaneSt) : (s.setLane p t).cmp = s.cmp := by cases p <;> rfl
@[simp] theorem Chip.setLane_tabs (s : Chip) (p : Port) (t : LaneSt) : (s.setLane p t).tabs = s.tabs := by cases p <;> rfl
@[simp] theorem Chip.setLane_free (s : Chip) (p : Port) (t : LaneSt) : (s.setLane p t).free = s.free := by cases p <;> rfl

/-! ### highWater -/

@[simp] theorem Chip.highWater_clk (s : Chip) (f : Fld) (v : Nat) : (s.highWater f v).clk = s.clk := by
  unfold Chip.highWater; split <;> rfl
@[simp] theorem Chip.highWater_net (s : Chip) (f : Fld) (v : Nat) : (s.highWater f v).net = s.net := by
  unfold Chip.highWater; split <;> rfl
@[simp] theorem Chip.highWater_evtG (s : Chip) (f : Fld) (v : Nat) : (s.highWater f v).evtG = s.evtG := by
  unfold Chip.highWater; split <;> rfl
@[simp] theorem Chip.highWater_mems (s : Chip) (f : Fld) (v : Nat) : (s.highWater f v).mems = s.mems := by
  unfold Chip.highWater; split <;> rfl
@[simp] theorem Chip.highWater_scrub (s : Chip) (f : Fld) (v : Nat) : (s.highWater f v).scrub = s.scrub := by
  unfold Chip.highWater; split <;> rfl
@[simp] theorem Chip.highWater_sc (s : Chip) (f : Fld) (v : Nat) : (s.highWater f v).sc = s.sc := by
  unfold Chip.highWater; split <;> rfl
@[simp] theorem Chip.highWater_cmd (s : Chip) (f : Fld) (v : Nat) : (s.highWater f v).cmd = s.cmd := by
  unfold Chip.highWater; split <;> rfl
@[simp] theorem Chip.highWater_ringE (s : Chip) (f : Fld) (v : Nat) : (s.highWater f v).ringE = s.ringE := by
  unfold Chip.highWater; split <;> rfl
@[simp] theorem Chip.highWater_ringW (s : Chip) (f : Fld) (v : Nat) : (s.highWater f v).ringW = s.ringW := by
  unfold Chip.highWater; split <;> rfl
@[simp] theorem Chip.highWater_ring (s : Chip) (f : Fld) (v : Nat) : (s.highWater f v).ring = s.ring := by
  unfold Chip.highWater; split <;> rfl
@[simp] theorem Chip.highWater_laneE (s : Chip) (f : Fld) (v : Nat) : (s.highWater f v).laneE = s.laneE := by
  unfold Chip.highWater; split <;> rfl
@[simp] theorem Chip.highWater_laneW (s : Chip) (f : Fld) (v : Nat) : (s.highWater f v).laneW = s.laneW := by
  unfold Chip.highWater; split <;> rfl
@[simp] theorem Chip.highWater_line (s : Chip) (f : Fld) (v : Nat) : (s.highWater f v).line = s.line := by
  unfold Chip.highWater; split <;> rfl
@[simp] theorem Chip.highWater_cdc (s : Chip) (f : Fld) (v : Nat) : (s.highWater f v).cdc = s.cdc := by
  unfold Chip.highWater; split <;> rfl
@[simp] theorem Chip.highWater_lawn (s : Chip) (f : Fld) (v : Nat) : (s.highWater f v).lawn = s.lawn := by
  unfold Chip.highWater; split <;> rfl
@[simp] theorem Chip.highWater_hedges (s : Chip) (f : Fld) (v : Nat) : (s.highWater f v).hedges = s.hedges := by
  unfold Chip.highWater; split <;> rfl
@[simp] theorem Chip.highWater_fb (s : Chip) (f : Fld) (v : Nat) : (s.highWater f v).fb = s.fb := by
  unfold Chip.highWater; split <;> rfl
@[simp] theorem Chip.highWater_store (s : Chip) (f : Fld) (v : Nat) : (s.highWater f v).store = s.store := by
  unfold Chip.highWater; split <;> rfl
@[simp] theorem Chip.highWater_rst (s : Chip) (f : Fld) (v : Nat) : (s.highWater f v).rst = s.rst := by
  unfold Chip.highWater; split <;> rfl
@[simp] theorem Chip.highWater_pins (s : Chip) (f : Fld) (v : Nat) : (s.highWater f v).pins = s.pins := by
  unfold Chip.highWater; split <;> rfl
@[simp] theorem Chip.highWater_sto (s : Chip) (f : Fld) (v : Nat) : (s.highWater f v).sto = s.sto := by
  unfold Chip.highWater; split <;> rfl
@[simp] theorem Chip.highWater_pair (s : Chip) (f : Fld) (v : Nat) : (s.highWater f v).pair = s.pair := by
  unfold Chip.highWater; split <;> rfl
@[simp] theorem Chip.highWater_meas (s : Chip) (f : Fld) (v : Nat) : (s.highWater f v).meas = s.meas := by
  unfold Chip.highWater; split <;> rfl
@[simp] theorem Chip.highWater_srcs (s : Chip) (f : Fld) (v : Nat) : (s.highWater f v).srcs = s.srcs := by
  unfold Chip.highWater; split <;> rfl
@[simp] theorem Chip.highWater_trg (s : Chip) (f : Fld) (v : Nat) : (s.highWater f v).trg = s.trg := by
  unfold Chip.highWater; split <;> rfl
@[simp] theorem Chip.highWater_wav (s : Chip) (f : Fld) (v : Nat) : (s.highWater f v).wav = s.wav := by
  unfold Chip.highWater; split <;> rfl
@[simp] theorem Chip.highWater_xdc (s : Chip) (f : Fld) (v : Nat) : (s.highWater f v).xdc = s.xdc := by
  unfold Chip.highWater; split <;> rfl
@[simp] theorem Chip.highWater_tis (s : Chip) (f : Fld) (v : Nat) : (s.highWater f v).tis = s.tis := by
  unfold Chip.highWater; split <;> rfl
@[simp] theorem Chip.highWater_tips (s : Chip) (f : Fld) (v : Nat) : (s.highWater f v).tips = s.tips := by
  unfold Chip.highWater; split <;> rfl
@[simp] theorem Chip.highWater_pos (s : Chip) (f : Fld) (v : Nat) : (s.highWater f v).pos = s.pos := by
  unfold Chip.highWater; split <;> rfl
@[simp] theorem Chip.highWater_cal (s : Chip) (f : Fld) (v : Nat) : (s.highWater f v).cal = s.cal := by
  unfold Chip.highWater; split <;> rfl
@[simp] theorem Chip.highWater_cmp (s : Chip) (f : Fld) (v : Nat) : (s.highWater f v).cmp = s.cmp := by
  unfold Chip.highWater; split <;> rfl
@[simp] theorem Chip.highWater_tabs (s : Chip) (f : Fld) (v : Nat) : (s.highWater f v).tabs = s.tabs := by
  unfold Chip.highWater; split <;> rfl
@[simp] theorem Chip.highWater_free (s : Chip) (f : Fld) (v : Nat) : (s.highWater f v).free = s.free := by
  unfold Chip.highWater; split <;> rfl

/-! ### Ports -/

@[simp] theorem Chip.port_setPort_same (s : Chip) (p : Port) (t : PortSt) : (s.setPort p t).port p = t := by cases p <;> rfl
@[simp] theorem Chip.lane_setLane_same (s : Chip) (p : Port) (t : LaneSt) : (s.setLane p t).lane p = t := by cases p <;> rfl

/-! ### Register fields -/

@[simp] theorem Chip.setFld_active (s : Chip) (f : Fld) (v : Nat) : (s.setFld f v).regs.active = s.regs.active := rfl
@[simp] theorem Chip.setFld_shadow (s : Chip) (f : Fld) (v : Nat) : (s.setFld f v).regs.shadow = s.regs.shadow := rfl
@[simp] theorem Chip.setFld_old1 (s : Chip) (f : Fld) (v : Nat) : (s.setFld f v).regs.old1 = s.regs.old1 := rfl
@[simp] theorem Chip.setFld_before (s : Chip) (f : Fld) (v : Nat) : (s.setFld f v).regs.before = s.regs.before := rfl
@[simp] theorem Chip.setFld_setNow (s : Chip) (f : Fld) (v : Nat) : (s.setFld f v).regs.setNow = s.regs.setNow := rfl
@[simp] theorem Chip.setFld_old2 (s : Chip) (f : Fld) (v : Nat) : (s.setFld f v).regs.old2 = s.regs.old2 := rfl
@[simp] theorem Chip.setFlag_active (s : Chip) (f : Fld) (b : Bool) : (s.setFlag f b).regs.active = s.regs.active := rfl
@[simp] theorem Chip.setFlag_shadow (s : Chip) (f : Fld) (b : Bool) : (s.setFlag f b).regs.shadow = s.regs.shadow := rfl
@[simp] theorem Chip.setFlag_old1 (s : Chip) (f : Fld) (b : Bool) : (s.setFlag f b).regs.old1 = s.regs.old1 := rfl
@[simp] theorem Chip.setFlag_old2 (s : Chip) (f : Fld) (b : Bool) : (s.setFlag f b).regs.old2 = s.regs.old2 := rfl
@[simp] theorem Chip.bumpBy_active (s : Chip) (f : Fld) (n : Nat) : (s.bumpBy f n).regs.active = s.regs.active := rfl
@[simp] theorem Chip.bumpBy_shadow (s : Chip) (f : Fld) (n : Nat) : (s.bumpBy f n).regs.shadow = s.regs.shadow := rfl
@[simp] theorem Chip.bumpBy_old1 (s : Chip) (f : Fld) (n : Nat) : (s.bumpBy f n).regs.old1 = s.regs.old1 := rfl
@[simp] theorem Chip.bumpBy_old2 (s : Chip) (f : Fld) (n : Nat) : (s.bumpBy f n).regs.old2 = s.regs.old2 := rfl
@[simp] theorem Chip.bump_active (s : Chip) (f : Fld) : (s.bump f).regs.active = s.regs.active := rfl
@[simp] theorem Chip.bump_shadow (s : Chip) (f : Fld) : (s.bump f).regs.shadow = s.regs.shadow := rfl
@[simp] theorem Chip.bump_old1 (s : Chip) (f : Fld) : (s.bump f).regs.old1 = s.regs.old1 := rfl
@[simp] theorem Chip.bump_old2 (s : Chip) (f : Fld) : (s.bump f).regs.old2 = s.regs.old2 := rfl
@[simp] theorem Chip.setBit_active (s : Chip) (f : Fld) (b : Nat) (v : Bool) : (s.setBit f b v).regs.active = s.regs.active := rfl
@[simp] theorem Chip.setBit_shadow (s : Chip) (f : Fld) (b : Nat) (v : Bool) : (s.setBit f b v).regs.shadow = s.regs.shadow := rfl
@[simp] theorem Chip.setBit_old1 (s : Chip) (f : Fld) (b : Nat) (v : Bool) : (s.setBit f b v).regs.old1 = s.regs.old1 := rfl
@[simp] theorem Chip.setBit_old2 (s : Chip) (f : Fld) (b : Nat) (v : Bool) : (s.setBit f b v).regs.old2 = s.regs.old2 := rfl

/-- A field that is not RWS reads as it was set. -/
theorem Chip.fld_setFld_same (s : Chip) (f : Fld) (v : Nat) (h : f.fits) (hr : f.rws = false) :
    (s.setFld f v).fld f = v % 2 ^ f.w := by
  simpa [Chip.fld, Chip.setFld, hr] using fieldOf_setFieldOf_same s.regs.direct f v h

/-- Setting a field leaves every RWS field and every field apart from it alone. -/
theorem Chip.fld_setFld_apart (s : Chip) (f g : Fld) (v : Nat) (h : f.apart g) (hg : 1 ≤ g.w) :
    (s.setFld f v).fld g = s.fld g := by
  unfold Chip.fld Chip.setFld
  cases g.rws
  · simpa using fieldOf_setFieldOf_apart s.regs.direct f g v h hg
  · simp

theorem Chip.fld_setFld_rws (s : Chip) (f g : Fld) (v : Nat) (h : g.rws = true) : (s.setFld f v).fld g = s.fld g := by
  simp [Chip.fld, Chip.setFld, h]

theorem Chip.fld_bumpBy_same (s : Chip) (f : Fld) (n : Nat) (h : f.fits) (hr : f.rws = false) :
    (s.bumpBy f n).fld f = satTo f.w (s.fld f + n) := by
  unfold Chip.bumpBy
  rw [Chip.fld_setFld_same s f _ h hr]
  apply Nat.mod_eq_of_lt
  have : 0 < 2 ^ f.w := Nat.two_pow_pos f.w
  unfold satTo
  omega

theorem Chip.fld_bump_same (s : Chip) (f : Fld) (h : f.fits) (hr : f.rws = false) :
    (s.bump f).fld f = satTo f.w (s.fld f + 1) := Chip.fld_bumpBy_same s f 1 h hr

/-- Counting leaves every field apart from the counter alone. -/
theorem Chip.fld_bumpBy_apart (s : Chip) (f g : Fld) (n : Nat) (h : f.apart g) (hg : 1 ≤ g.w) :
    (s.bumpBy f n).fld g = s.fld g := Chip.fld_setFld_apart s f g _ h hg

theorem Chip.fld_bump_apart (s : Chip) (f g : Fld) (h : f.apart g) (hg : 1 ≤ g.w) : (s.bump f).fld g = s.fld g :=
  Chip.fld_bumpBy_apart s f g 1 h hg

/-- Setting a field leaves the registers at other addresses alone. -/
theorem Chip.setFld_direct_ne (s : Chip) (f : Fld) (v a : Nat) (h : f.addr ≠ a) :
    (s.setFld f v).regs.direct.get a = s.regs.direct.get a := by
  simp [Chip.setFld, setFieldOf, SMap.get_set_ne _ _ h]

/-- Fields of parts of the chip that agree read alike. -/
theorem Chip.fld_congr (s t : Chip) (f : Fld) (ha : s.regs.active = t.regs.active)
    (hd : s.regs.direct.get f.addr = t.regs.direct.get f.addr) : s.fld f = t.fld f := by
  unfold Chip.fld
  split
  · rw [ha]
  · simp only [fieldOf, hd]

end Sys2Proof.Machine
end

