-- ==== Sys2Proof/Laws/Events.lean ====
section
/-! SUPPORT. What a raising (R430) can do, said once: it touches the event registers, the ring's registers and queues, and the
safety conditions, and nothing else. -/

namespace Sys2Proof.Machine

theorem announceAddr_iff (a : Nat) : announceAddr a = true ↔
    (0x3000 ≤ a ∧ a < 0x4000) ∨ (0x6000 ≤ a ∧ a < 0x7000) ∨ (0x80000 ≤ a ∧ a < 0x90000) := by
  simp [announceAddr, or_assoc]

theorem Announces.refl (s : Chip) : Announces s s := by
  constructor
  case events => exact fun _ _ h => h
  all_goals intros
  all_goals rfl

/-- The addresses of EVT_G0_STAT to EVT_G11_STAT. -/
def statAddr (a : Nat) : Bool := decide (0x3100 ≤ a) && decide (a < 0x31C0) && a % 16 == 0

theorem statAddr_stat (g : Nat) (h : g < 12) : statAddr (F.EVT_STAT_STAT g).addr = true := by
  show (decide (0x3100 ≤ 0x3100 + 16 * g) && decide (0x3100 + 16 * g < 0x31C0) && (0x3100 + 16 * g) % 16 == 0) = true
  simp
  omega

theorem eventSeen_setFld (s : Chip) (f : Fld) (v e : Nat) (he : e < 384) (h : statAddr f.addr = false) :
    (s.setFld f v).eventSeen e = s.eventSeen e := by
  unfold Chip.eventSeen
  rw [Chip.fld_setFld_apart s f _ v ?_ (by simp [F.EVT_STAT_STAT])]
  left
  intro h'
  rw [h', statAddr_stat _ (by omega)] at h
  cases h

theorem Announces.trans {s t u : Chip} (h1 : Announces s t) (h2 : Announces t u) : Announces s u := by
  constructor
  case direct => exact fun a ha => (h2.direct a ha).trans (h1.direct a ha)
  case events => exact fun e he h => h2.events e he (h1.events e he h)
  all_goals first
    | exact h2.active.trans h1.active | exact h2.shadow.trans h1.shadow | exact h2.old1.trans h1.old1
    | exact h2.old2.trans h1.old2 | exact h2.before.trans h1.before | exact h2.holdE.trans h1.holdE | exact h2.holdW.trans h1.holdW
    | exact h2.holdS.trans h1.holdS | exact h2.clk.trans h1.clk | exact h2.net.trans h1.net | exact h2.mems.trans h1.mems
    | exact h2.scrub.trans h1.scrub | exact h2.cmd.trans h1.cmd | exact h2.laneE.trans h1.laneE
    | exact h2.laneW.trans h1.laneW | exact h2.line.trans h1.line | exact h2.cdc.trans h1.cdc | exact h2.lawn.trans h1.lawn | exact h2.hedges.trans h1.hedges
    | exact h2.store.trans h1.store | exact h2.rst.trans h1.rst | exact h2.pins.trans h1.pins | exact h2.sto.trans h1.sto
    | exact h2.pair.trans h1.pair | exact h2.meas.trans h1.meas | exact h2.srcs.trans h1.srcs | exact h2.trg.trans h1.trg | exact h2.wav.trans h1.wav
    | exact h2.xdc.trans h1.xdc | exact h2.tis.trans h1.tis | exact h2.tips.trans h1.tips | exact h2.pos.trans h1.pos
    | exact h2.cal.trans h1.cal | exact h2.cmp.trans h1.cmp | exact h2.ring.trans (by rw [h1.ring]) | exact h2.tabs.trans h1.tabs | exact h2.free.trans h1.free

theorem Announces.setFld (s : Chip) (f : Fld) (v : Nat) (h : announceAddr f.addr = true) (hs : statAddr f.addr = false) :
    Announces s (s.setFld f v) := by
  constructor
  case events => exact fun e he he' => by rw [eventSeen_setFld s f v e he hs]; exact he'
  case direct =>
    intro a ha
    have : f.addr ≠ a := by intro e; rw [e, ha] at h; cases h
    simp [Chip.setFld, setFieldOf, SMap.get_set_ne _ _ this]
  all_goals rfl

/-- A note of a bit set in this CCLK (R6). -/
theorem Announces.noteSet (s : Chip) (a b : Nat) : Announces s (s.noteSet a b) := by
  constructor
  case events => exact fun _ _ h => h
  all_goals intros
  all_goals rfl

theorem Announces.bumpBy (s : Chip) (f : Fld) (n : Nat) (h : announceAddr f.addr = true) (hs : statAddr f.addr = false) :
    Announces s (s.bumpBy f n) := Announces.setFld s f _ h hs
theorem Announces.bump (s : Chip) (f : Fld) (h : announceAddr f.addr = true) (hs : statAddr f.addr = false) :
    Announces s (s.bump f) := Announces.setFld s f _ h hs
theorem Announces.setFlag (s : Chip) (f : Fld) (b : Bool) (h : announceAddr f.addr = true) (hs : statAddr f.addr = false) :
    Announces s (s.setFlag f b) := Announces.setFld s f _ h hs
theorem Announces.setBit (s : Chip) (f : Fld) (b : Nat) (v : Bool) (h : announceAddr f.addr = true)
    (hs : statAddr f.addr = false) : Announces s (s.setBit f b v) := Announces.setFld s f _ h hs
theorem Announces.highWater (s : Chip) (f : Fld) (v : Nat) (h : announceAddr f.addr = true) (hs : statAddr f.addr = false) :
    Announces s (s.highWater f v) := by
  unfold Chip.highWater
  split
  · exact Announces.setFld s f _ h hs
  · exact Announces.refl s

/-- A change of the ring ports, the ring's shared state, the gathered events, the safety conditions and the frame builder. -/
theorem Announces.parts (s : Chip) (eg : List EvtGroup) (sc : List ScState) (re rw : PortSt) (r : List Nat) (fb : FrameBuilder) :
    Announces s { s with evtG := eg, sc := sc, ringE := re, ringW := rw, ring := { s.ring with pseq := r }, fb := fb } := by
  constructor
  case events => exact fun _ _ h => h
  all_goals intros
  all_goals rfl

theorem Announces.setPort (s : Chip) (p : Port) (t : PortSt) : Announces s (s.setPort p t) := by
  cases p
  · exact Announces.parts s s.evtG s.sc t s.ringW s.ring.pseq s.fb
  · exact Announces.parts s s.evtG s.sc s.ringE t s.ring.pseq s.fb

theorem Announces.forAll {α : Type} (l : List α) (f : α → Chip → Chip) (h : ∀ a ∈ l, ∀ s, Announces s (f a s)) (s : Chip) :
    Announces s (forAll l f s) := by
  unfold Sys2Proof.Machine.forAll
  induction l generalizing s with
  | nil => exact Announces.refl s
  | cons a l ih => exact (h a (by simp) s).trans (ih (fun b hb => h b (by simp [hb])) _)

theorem Announces.forN (n : Nat) (f : Nat → Chip → Chip) (h : ∀ i, i < n → ∀ s, Announces s (f i s)) (s : Chip) :
    Announces s (forN n f s) := Announces.forAll (List.range n) f (fun i hi => h i (List.mem_range.mp hi)) s

/-! ### The parts of a raising -/

theorem announceAddr_port (p : Port) (a : Nat) (h : announceAddr a = true) (h' : announceAddr (a + 128) = true) :
    announceAddr (a + 128 * p.ix) = true := by
  cases p
  · simpa [Port.ix] using h
  · simpa [Port.ix] using h'

theorem EVT_STAT_fits (g : Nat) : (F.EVT_STAT_STAT g).fits := by simp [Fld.fits, F.EVT_STAT_STAT]

theorem fld_lt (s : Chip) (f : Fld) (h : f.fits) : s.fld f < 2 ^ f.w := fieldOf_lt _ f h

/-- A status bit set, read back. -/
theorem stat_setBit (s : Chip) (g b e : Nat) (hb : b < 32) :
    ((s.setBit (F.EVT_STAT_STAT g) b true).fld (F.EVT_STAT_STAT g)).testBit e
      = (decide (b = e) || (s.fld (F.EVT_STAT_STAT g)).testBit e) := by
  have hl := fld_lt s (F.EVT_STAT_STAT g) (EVT_STAT_fits g)
  have hw : (F.EVT_STAT_STAT g).w = 32 := rfl
  unfold Chip.setBit
  rw [Chip.fld_setFld_same _ _ _ (EVT_STAT_fits g) rfl, if_pos rfl, Nat.mod_eq_of_lt, Nat.testBit_or, Nat.testBit_two_pow, Bool.or_comm]
  exact Nat.or_lt_two_pow hl (Nat.pow_lt_pow_right (by omega) (by omega))

theorem setStat_announces (e : Nat) (he : e < 384) (s : Chip) :
    Announces s (s.setBit (F.EVT_STAT_STAT (e / 32)) (e % 32) true) := by
  have h1 : announceAddr (F.EVT_STAT_STAT (e / 32)).addr = true := by
    rw [announceAddr_iff]
    show (0x3000 ≤ 0x3100 + 16 * (e / 32) ∧ 0x3100 + 16 * (e / 32) < 0x4000) ∨ _
    omega
  constructor
  case direct =>
    intro a ha
    have : (F.EVT_STAT_STAT (e / 32)).addr ≠ a := by intro x; rw [x, ha] at h1; cases h1
    simp [Chip.setBit, Chip.setFld, setFieldOf, SMap.get_set_ne _ _ this]
  case events =>
    intro e' he' hs
    unfold Chip.eventSeen at hs ⊢
    by_cases hg : e' / 32 = e / 32
    · rw [hg] at hs ⊢
      rw [stat_setBit _ _ _ _ (by omega), hs, Bool.or_true]
    · unfold Chip.setBit
      rw [Chip.fld_setFld_apart _ _ _ _ (Or.inl ?_) (by simp [F.EVT_STAT_STAT])]
      · exact hs
      · show 0x3100 + 16 * (e / 32) ≠ 0x3100 + 16 * (e' / 32)
        omega
  all_goals rfl

theorem markEvent_announces (e : Nat) (he : e < 384) (s : Chip) : Announces s (markEvent e s) :=
  (((Announces.noteSet s _ _).trans (setStat_announces e he _)).trans (Announces.setFld _ _ _ (by decide) (by decide))).trans
    (Announces.setFld _ _ _ (by decide) (by decide))

theorem markEvent_seen (e : Nat) (he : e < 384) (s : Chip) : (markEvent e s).eventSeen e = true := by
  unfold markEvent
  rw [eventSeen_setFld _ _ _ _ he (by decide), eventSeen_setFld _ _ _ _ he (by decide)]
  unfold Chip.eventSeen
  rw [stat_setBit _ _ _ _ (by omega)]
  simp

theorem joinPacket_announces (e : Nat) (s : Chip) : Announces s (joinPacket e s) :=
  Announces.parts s _ s.sc s.ringE s.ringW s.ring.pseq s.fb

theorem takeTokens_announces (p : Port) (cls n : Nat) (s : Chip) : Announces s (takeTokens p cls n s) := Announces.setPort s p _

/-- What a raiser is held to. -/
def Quiet (rz : Nat → Chip → Chip) : Prop := ∀ e, e < 384 → ∀ s, Announces s (rz e s)

section
variable {rz : Nat → Chip → Chip} (hz : Quiet rz)
include hz

theorem wrapInto_announces (o : Port) (q : TxPkt) (s : Chip) : Announces s (wrapInto rz o q s) := by
  unfold wrapInto
  dsimp only
  split
  · split
    · exact Announces.refl s
    · exact (Announces.bump s _ (by decide) (by decide)).trans (hz _ (by decide) _)
  · split
    · exact (Announces.setPort s o _).trans (Announces.highWater _ _ _ (by cases o <;> decide) (by cases o <;> decide))
    · exact (Announces.bump s _ (by cases o <;> decide) (by cases o <;> decide)).trans (hz _ (by cases o <;> decide) _)

theorem startWrap_announces (p : Port) (s : Chip) : Announces s (startWrap rz p s) := by
  unfold startWrap
  dsimp only
  split
  · exact Announces.refl s
  · refine Announces.trans ?_ (Announces.forAll _ _ (fun q _ t => wrapInto_announces hz p.other q t) _)
    refine Announces.trans ?_ (hz _ (by cases p <;> decide) _)
    refine Announces.trans ?_ (Announces.bump _ _ (by cases p <;> decide) (by cases p <;> decide))
    exact (Announces.setPort s p _).trans (Announces.setFlag _ _ _ (by cases p <;> decide) (by cases p <;> decide))

theorem placeTx_announces (p : Port) (q : TxPkt) (s : Chip) : Announces s (placeTx rz p q s) := by
  unfold placeTx
  dsimp only
  split
  · split
    · split
      · exact (Announces.setPort s p _).trans (Announces.highWater _ _ _ (by cases p <;> decide) (by cases p <;> decide))
      · exact (Announces.bump s _ (by cases p <;> decide) (by cases p <;> decide)).trans (hz _ (by cases p <;> decide) _)
    · exact Announces.setPort s p _
  · split
    · exact (startWrap_announces hz p s).trans (wrapInto_announces hz _ _ _)
    · exact Announces.bump s _ (by cases p <;> decide) (by cases p <;> decide)

theorem refuse_announces (cls : Nat) (hc : cls < 4) (s : Chip) : Announces s (refuse rz cls s) := by
  unfold refuse
  refine (Announces.bump s _ ?_ ?_).trans (hz _ (by decide) _)
  · rw [announceAddr_iff]
    show _ ∨ (0x6000 ≤ 0x6020 + 4 * cls ∧ 0x6020 + 4 * cls < 0x7000) ∨ _
    omega
  · have : ¬ (0x6020 + 4 * cls < 0x31C0) := by omega
    simp [statAddr, F.RNG_REFUSE_COUNT, this]

theorem offerDrop_announces (p : Port) (o : Offer) (v : Nat) (s : Chip) : Announces s (offerDrop rz p o v s).2 := by
  have hc : o.cls.toNat < 4 := o.cls.isLt
  unfold offerDrop
  dsimp only
  split
  · exact (takeTokens_announces p _ _ s).trans (placeTx_announces hz _ _ _)
  · split
    · exact ((refuse_announces hz _ hc s).trans (Announces.bump _ _ (by decide) (by decide))).trans (hz _ (by decide) _)
    · exact refuse_announces hz _ hc s

theorem sendDrop_announces (o : Offer) (s : Chip) : Announces s (sendDrop rz o s).2 := by
  unfold sendDrop
  have key : ∀ (l : List Port) (acc : Bool × Chip), Announces s acc.2 →
      Announces s (l.foldl (fun (acc : Bool × Chip) p =>
        let (a, t) := offerDrop rz p o (s.takePseq o.cls.toNat).1 acc.2; (acc.1 || a, t)) acc).2 := by
    intro l
    induction l with
    | nil => intro acc h; exact h
    | cons p l ih => intro acc h; exact ih _ (h.trans (offerDrop_announces hz p o _ acc.2))
  have h1 := key (s.routes o.dest.toNat) (false, (s.takePseq o.cls.toNat).2)
    (Announces.parts s s.evtG s.sc s.ringE s.ringW _ s.fb)
  dsimp only
  split
  · exact h1
  · exact h1.trans (Announces.parts _ _ _ _ _ _ _)

theorem sendStop_announces (c t : Nat) (s : Chip) : Announces s (sendStop rz c t s) := by
  unfold sendStop
  dsimp only
  have h := fun o => (Announces.setFld s F.LOOP_STOP_SEQ_SEQ ((s.fld F.LOOP_STOP_SEQ_SEQ + 1) % 65536) (by decide) (by decide)).trans
    (sendDrop_announces hz o _)
  split
  · exact (h _).trans (Announces.bump _ _ (by decide) (by decide))
  · exact h _

omit hz in
theorem cond_announces (b : Bool) (f : Chip → Chip) (h : ∀ s, Announces s (f s)) (s : Chip) : Announces s (cond b f s) := by
  unfold Sys2Proof.Machine.cond
  cases b
  · exact Announces.refl s
  · exact h s

theorem meetCond_announces (c t : Nat) (hc : c < 16) (s : Chip) : Announces s (meetCond rz c t s) := by
  unfold meetCond
  dsimp only
  have h0 : ∀ (sc : List ScState) (fb : FrameBuilder), Announces s { s with sc := sc, fb := fb } := fun sc fb =>
    Announces.parts s s.evtG sc s.ringE s.ringW s.ring.pseq fb
  have hl : ∀ u : Chip, Announces u (u.setBit F.LOOP_SAFE_LATCH_LATCH c true) := fun u => Announces.setBit u _ _ _ (by decide) (by decide)
  have hcnt : announceAddr (F.LOOP_SC_CNT_COUNT c).addr = true := by
    rw [announceAddr_iff]
    show _ ∨ _ ∨ (0x80000 ≤ 0x8200C + 16 * c ∧ 0x8200C + 16 * c < 0x90000)
    omega
  have hcnt' : statAddr (F.LOOP_SC_CNT_COUNT c).addr = false := by
    simp [statAddr, F.LOOP_SC_CNT_COUNT]
  have h1 : ∀ (b : Bool) (u : Chip), Announces s u →
      Announces s (if b then rz EV.SAFE_ACK_REFUSED (u.bump F.LOOP_ACK_REFUSE_COUNT) else u) := by
    intro b u hu
    cases b
    · exact hu
    · exact (hu.trans (Announces.bump _ _ (by decide) (by decide))).trans (hz _ (by decide) _)
  have key : ∀ u : Chip, Announces s u → Announces s (if s.asserting c = true then u
      else cond (s.flag (F.LOOP_SC_CFG_STOP_EN c)) (sendStop rz c t)
        (rz EV.SAFE_MET ((u.setBit F.LOOP_SAFE_STAT_ASSERT c true).bump (F.LOOP_SC_CNT_COUNT c)))) := by
    intro u hu
    split
    · exact hu
    · refine Announces.trans ?_ (cond_announces _ _ (fun u => sendStop_announces hz c t u) _)
      refine Announces.trans ?_ (hz _ (by decide) _)
      exact (hu.trans (Announces.setBit _ _ _ _ (by decide) (by decide))).trans (Announces.bump _ _ hcnt hcnt')
  exact key _ ((h1 _ _ (h0 _ _)).trans (cond_announces _ _ hl _))

theorem offerSafety_announces (e : Nat) (s : Chip) : Announces s (offerSafety rz e s) := by
  unfold offerSafety
  refine Announces.forN 16 _ (fun c hc t => ?_) s
  split
  · exact meetCond_announces hz c _ hc t
  · exact Announces.refl t

end

theorem raiseFuel_quiet (n : Nat) : Quiet (raiseFuel n) := by
  induction n with
  | zero => exact fun e he s => markEvent_announces e he s
  | succ n ih =>
    intro e he s
    unfold raiseFuel
    dsimp only
    split
    · exact markEvent_announces e he s
    · split
      · exact (markEvent_announces e he s).trans (joinPacket_announces e _)
      · split
        · exact markEvent_announces e he s
        · exact (markEvent_announces e he s).trans (offerSafety_announces ih e _)
      · exact markEvent_announces e he s

/-- What a raising can do. -/
theorem raise_announces (e : Nat) (he : e < 384) (s : Chip) : Announces s (raise e s) := raiseFuel_quiet 17 e he s

/-- A raising sets the status bit of its source. -/
theorem raise_seen (e : Nat) (he : e < 384) (s : Chip) : (raise e s).eventSeen e = true := by
  have hm := markEvent_seen e he s
  unfold raise raiseFuel
  dsimp only
  split
  · exact hm
  · split
    · exact (joinPacket_announces e _).events e he hm
    · split
      · exact hm
      · exact (offerSafety_announces (raiseFuel_quiet 16) e _).events e he hm
    · exact hm

/-- A raising leaves the fields of every other block alone. -/
theorem raise_fld (e : Nat) (he : e < 384) (s : Chip) (f : Fld) (h : announceAddr f.addr = false) :
    (raise e s).fld f = s.fld f :=
  Chip.fld_congr _ _ f (raise_announces e he s).active ((raise_announces e he s).direct _ h)

theorem raise_fld_rws (e : Nat) (he : e < 384) (s : Chip) (f : Fld) (h : f.rws = true) : (raise e s).fld f = s.fld f := by
  simp [Chip.fld, h, (raise_announces e he s).active]

/-- An RWS field is the same after whatever announces. -/
theorem Announces.fld_rws {s t : Chip} (h : Announces s t) (f : Fld) (hr : f.rws = true) : t.fld f = s.fld f := by
  simp [Chip.fld, hr, h.active]

theorem Announces.fld {s t : Chip} (h : Announces s t) (f : Fld) (hf : announceAddr f.addr = false) : t.fld f = s.fld f :=
  Chip.fld_congr _ _ f h.active (h.direct _ hf)

end Sys2Proof.Machine
end

