-- ==== Sys2Proof/Laws/Mem.lean ====
section
/-! SUPPORT. Laws of the coded memories: every memory operation keeps the canonical form, and what a read gives after a write. -/

namespace Sys2Proof.Machine

/-! ### The canonical form -/

theorem Mem.wf_iff (x : Mem) : x.wf = true ↔ x.data.wf = true ∧ x.par.wf = true ∧ x.colD.wf = true ∧ x.colP.wf = true := by
  simp [Mem.wf, and_assoc]

theorem Mem.wf_clean : Mem.clean.wf = true := rfl

theorem Mem.wf_put (x : Mem) (m w d p : Nat) (h : x.wf = true) : (x.put m w d p).wf = true := by
  rw [Mem.wf_iff] at h ⊢
  exact ⟨SMap.wf_set _ _ _ h.1, SMap.wf_set _ _ _ h.2.1, h.2.2.1, h.2.2.2⟩

theorem Mem.wf_fixColumn (x : Mem) (b : Nat) (h : x.wf = true) : (x.fixColumn b).wf = true := by
  unfold Mem.fixColumn
  rw [Mem.wf_iff] at h ⊢
  exact ⟨h.1, h.2.1, SMap.wf_set x.colD b 0#64 h.2.2.1, SMap.wf_set x.colP b 0#8 h.2.2.2⟩

theorem Mem.wf_setPar (x : Mem) (w : Nat) (v : BitVec 8) (h : x.wf = true) : ({ x with par := x.par.set w v } : Mem).wf = true := by
  rw [Mem.wf_iff] at h ⊢
  exact ⟨h.1, SMap.wf_set _ _ _ h.2.1, h.2.2.1, h.2.2.2⟩

theorem Mem.wf_poison (x : Mem) (w : Nat) (h : x.wf = true) : (x.poison w).wf = true :=
  Mem.wf_fixColumn _ _ (Mem.wf_setPar x w _ h)

theorem wf_poisonWords (ws : List Nat) (x : Mem) (h : x.wf = true) : (poisonWords x ws).wf = true := by
  unfold poisonWords
  induction ws generalizing x with
  | nil => exact h
  | cons w ws ih => exact ih (x.poison w) (Mem.wf_poison x w h)

theorem Chip.memsWf_mem (s : Chip) (m : Nat) (h : s.memsWf) : (s.mem m).wf = true := by
  unfold Chip.mem nth
  rw [List.getD_eq_getElem?_getD]
  by_cases hm : m < s.mems.length
  · rw [List.getElem?_eq_getElem hm]
    exact h _ (List.getElem_mem hm)
  · rw [List.getElem?_eq_none (by omega)]
    exact Mem.wf_clean

theorem Chip.memsWf_setMem (s : Chip) (m : Nat) (x : Mem) (h : s.memsWf) (hx : x.wf = true) : (s.setMem m x).memsWf := by
  intro y hy
  rcases List.mem_or_eq_of_mem_set hy with hy | rfl
  · exact h y hy
  · exact hx

theorem Chip.memsWf_of_mems {s t : Chip} (e : t.mems = s.mems) (h : s.memsWf) : t.memsWf := by
  unfold Chip.memsWf
  rw [e]
  exact h

theorem State.reset_memsWf : State.reset.chip.memsWf := by
  intro x hx
  have : x = Mem.clean := List.eq_of_mem_replicate (show x ∈ List.replicate 12 Mem.clean from hx)
  rw [this]
  exact Mem.wf_clean

theorem raise_mems (e : Nat) (he : e < 384) (s : Chip) : (raise e s).mems = s.mems := (raise_announces e he s).mems

theorem logEvent_mems (e : LogEntry) (s : Chip) : (logEvent e s).mems = s.mems := by
  unfold logEvent
  dsimp only
  split
  · rfl
  · split
    · rfl
    · split
      · split
        · exact raise_mems _ (by decide) _
        · exact raise_mems _ (by decide) _
      · exact raise_mems _ (by decide) _

theorem noteCorrected_mems (kind src m w bit : Nat) (s : Chip) : (noteCorrected kind src m w bit s).mems = s.mems := by
  unfold noteCorrected
  dsimp only
  rw [raise_mems _ (by decide)]
  exact logEvent_mems _ _

theorem noteUncorrectable_mems (src m w : Nat) (s : Chip) : (noteUncorrectable src m w s).mems = s.mems := by
  unfold noteUncorrectable
  dsimp only
  rw [raise_mems _ (by decide)]
  exact logEvent_mems _ _

theorem poisonBlock_memsWf (src m b : Nat) (s : Chip) (h : s.memsWf) : (poisonBlock src m b s).memsWf := by
  unfold poisonBlock
  dsimp only
  refine Chip.memsWf_of_mems (noteUncorrectable_mems _ _ _ _) (Chip.memsWf_setMem s m _ h ?_)
  exact Mem.wf_fixColumn _ _ (wf_poisonWords _ _ (s.memsWf_mem m h))

/-- A block check keeps the canonical form. -/
theorem blockCheck_memsWf (src m b : Nat) (s : Chip) (h : s.memsWf) : (blockCheck src m b s).memsWf := by
  have hm := s.memsWf_mem m h
  unfold blockCheck
  dsimp only
  repeat' split
  all_goals first
    | exact h
    | exact poisonBlock_memsWf src m b s h
    | exact Chip.memsWf_of_mems (noteCorrected_mems _ _ _ _ _ _) (Chip.memsWf_setMem s m _ h (Mem.wf_fixColumn _ _ hm))
    | exact Chip.memsWf_of_mems (noteCorrected_mems _ _ _ _ _ _) (Chip.memsWf_setMem s m _ h (Mem.wf_setPar _ _ _ hm))
    | exact Chip.memsWf_of_mems (noteCorrected_mems _ _ _ _ _ _)
        (Chip.memsWf_setMem s m _ h (Mem.wf_fixColumn _ _ (Mem.wf_put _ _ _ _ _ hm)))

theorem notePoisonRead_mems (s : Chip) : (notePoisonRead s).mems = s.mems := raise_mems _ (by decide) _

/-- A read keeps the canonical form. -/
theorem memRead_memsWf (m w : Nat) (s : Chip) (h : s.memsWf) : (memRead m w s).2.2.memsWf := by
  have h1 : ∀ b : Bool, (if b then s else blockCheck 1 m (w / 8) s).memsWf := by
    intro b
    cases b
    · exact blockCheck_memsWf _ _ _ s h
    · exact h
  have key : ∀ u : Chip, u.memsWf →
      (if u.poisoned m w = true then (u.memData m w, true, notePoisonRead u) else (u.memData m w, false, u)).2.2.memsWf := by
    intro u hu
    split
    · exact Chip.memsWf_of_mems (notePoisonRead_mems _) hu
    · exact hu
  exact key _ (h1 _)

theorem memReadAt_memsWf (k m w : Nat) (s : Chip) (h : s.memsWf) : (memReadAt k m w s).2.2.memsWf := by
  have key : ∀ old : SMap 64, (if old.get w = (s.mem m).data.get w then memRead m w s
      else ((memReset m w ^^^ old.get w).toNat, false, s)).2.2.memsWf := by
    intro old
    split
    · exact memRead_memsWf m w s h
    · exact h
  exact key _

/-- A write keeps the canonical form. -/
theorem memWrite_memsWf (m w mask v : Nat) (s : Chip) (h : s.memsWf) : (memWrite m w mask v s).memsWf := by
  have h1 : ∀ b : Prop, ∀ _ : Decidable b, (if b then s else blockCheck 2 m (w / 8) s).memsWf := by
    intro b _
    split
    · exact h
    · exact blockCheck_memsWf _ _ _ s h
  have key : ∀ u : Chip, u.memsWf → ∀ new : Nat,
      (if (u.poisoned m w && mask % 256 != 255) = true then u.setMem m ((((u.mem m).put m w new 0xFF)).fixColumn (w / 8))
        else u.setMem m ((u.mem m).put m w new 0)).memsWf := by
    intro u hu new
    split
    · exact Chip.memsWf_setMem u m _ hu (Mem.wf_fixColumn _ _ (Mem.wf_put _ _ _ _ _ (u.memsWf_mem m hu)))
    · exact Chip.memsWf_setMem u m _ hu (Mem.wf_put _ _ _ _ _ (u.memsWf_mem m hu))
  unfold memWrite
  dsimp only
  split
  · exact Chip.memsWf_of_mems rfl (key _ (h1 _ _) _)
  · exact key _ (h1 _ _) _

theorem memWritePoisoned_memsWf (m w d : Nat) (s : Chip) (h : s.memsWf) : (memWritePoisoned m w d s).memsWf := by
  have h1 := memWrite_memsWf m w 255 d s h
  exact Chip.memsWf_setMem _ m _ h1 (Mem.wf_poison _ _ (Chip.memsWf_mem _ m h1))

theorem diagFlip_memsWf (m w : Nat) (col : Bool) (p d : Nat) (s : Chip) (h : s.memsWf) : (diagFlip m w col p d s).memsWf := by
  have h0 : (refreshDigests s).memsWf := h
  have hm := (refreshDigests s).memsWf_mem m h0
  rw [Mem.wf_iff] at hm
  unfold diagFlip
  dsimp only
  refine Chip.memsWf_setMem _ m _ h0 ?_
  split
  · rw [Mem.wf_iff]; exact ⟨hm.1, hm.2.1, SMap.wf_set _ _ _ hm.2.2.1, SMap.wf_set _ _ _ hm.2.2.2⟩
  · rw [Mem.wf_iff]; exact ⟨SMap.wf_set _ _ _ hm.1, SMap.wf_set _ _ _ hm.2.1, SMap.wf_set _ _ _ hm.2.2.1, hm.2.2.2⟩

/-- A DIAG_WR keeps the canonical form. -/
theorem diagWr_memsWf (w0 w1 : Nat) (s : Chip) (h : s.memsWf) : (diagWr w0 w1 s).memsWf := by
  unfold diagWr
  dsimp only
  split
  · exact diagFlip_memsWf _ _ _ _ _ s h
  · exact Chip.memsWf_of_mems (logEvent_mems _ _) (Chip.memsWf_setMem _ _ _ h (Mem.wf_poison _ _ (s.memsWf_mem _ h)))
  · exact blockCheck_memsWf _ _ _ s h

/-! ### Reads after writes -/

theorem Chip.mem_setMem_same (s : Chip) (m : Nat) (x : Mem) (h : m < s.mems.length) : (s.setMem m x).mem m = x := by
  simp [Chip.mem, Chip.setMem, nth, h]

theorem Chip.mem_setMem_ne (s : Chip) (m n : Nat) (x : Mem) (h : m ≠ n) : (s.setMem m x).mem n = s.mem n := by
  simp [Chip.mem, Chip.setMem, nth, List.getElem?_set_ne h]

end Sys2Proof.Machine
end

