-- ==== Sys2Proof/Laws/Ring.lean ====
section
/-! SUPPORT. What the offer of own packets (R309, R310) can do, said once. -/

namespace Sys2Proof.Machine

theorem Announces.ships {s t : Chip} (h : Announces s t) : Ships s t := by
  constructor
  case direct =>
    intro a ha
    simp only [shipAddr, Bool.or_eq_false_iff] at ha
    exact h.direct a ha.1.1
  case active => exact h.active
  case shadow => exact h.shadow
  case old1 => exact h.old1
  case old2 => exact h.old2
  case before => exact h.before
  case holdE => exact h.holdE
  case holdW => exact h.holdW
  case holdS => exact h.holdS
  case events => exact h.events
  case clk => exact h.clk
  case net => exact h.net
  case cmd => exact h.cmd
  case ring => exact h.ring
  case laneE => exact h.laneE
  case laneW => exact h.laneW
  case line => exact h.line
  case cdc => exact h.cdc
  case lawn => exact h.lawn
  case hedges => exact h.hedges
  case rst => exact h.rst
  case pins => exact h.pins
  case pair => exact h.pair
  case meas => exact h.meas
  case srcs => exact h.srcs
  case trg => exact h.trg
  case wav => exact h.wav
  case xdc => exact h.xdc
  case tis => exact h.tis
  case tips => exact h.tips
  case pos => exact h.pos
  case cal => exact h.cal
  case cmp => exact h.cmp
  case tabs => exact h.tabs
  case free => exact h.free

theorem Ships.refl (s : Chip) : Ships s s := (Announces.refl s).ships

theorem Ships.trans {s t u : Chip} (h1 : Ships s t) (h2 : Ships t u) : Ships s u := by
  constructor
  case direct => exact fun a ha => (h2.direct a ha).trans (h1.direct a ha)
  case events => exact fun e he h => h2.events e he (h1.events e he h)
  case active => exact h2.active.trans h1.active
  case shadow => exact h2.shadow.trans h1.shadow
  case old1 => exact h2.old1.trans h1.old1
  case old2 => exact h2.old2.trans h1.old2
  case before => exact h2.before.trans h1.before
  case holdE => exact h2.holdE.trans h1.holdE
  case holdW => exact h2.holdW.trans h1.holdW
  case holdS => exact h2.holdS.trans h1.holdS
  case clk => exact h2.clk.trans h1.clk
  case net => exact h2.net.trans h1.net
  case cmd => exact h2.cmd.trans h1.cmd
  case ring => exact h2.ring.trans (by rw [h1.ring])
  case laneE => exact h2.laneE.trans h1.laneE
  case laneW => exact h2.laneW.trans h1.laneW
  case line => exact h2.line.trans h1.line
  case cdc => exact h2.cdc.trans h1.cdc
  case lawn => exact h2.lawn.trans h1.lawn
  case hedges => exact h2.hedges.trans h1.hedges
  case rst => exact h2.rst.trans h1.rst
  case pins => exact h2.pins.trans h1.pins
  case pair => exact h2.pair.trans h1.pair
  case meas => exact h2.meas.trans h1.meas
  case srcs => exact h2.srcs.trans h1.srcs
  case trg => exact h2.trg.trans h1.trg
  case wav => exact h2.wav.trans h1.wav
  case xdc => exact h2.xdc.trans h1.xdc
  case tis => exact h2.tis.trans h1.tis
  case tips => exact h2.tips.trans h1.tips
  case pos => exact h2.pos.trans h1.pos
  case cal => exact h2.cal.trans h1.cal
  case cmp => exact h2.cmp.trans h1.cmp
  case tabs => exact h2.tabs.trans h1.tabs
  case free => exact h2.free.trans h1.free

theorem Ships.setFld (s : Chip) (f : Fld) (v : Nat) (h : shipAddr f.addr = true) (hs : statAddr f.addr = false) :
    Ships s (s.setFld f v) := by
  constructor
  case direct =>
    intro a ha
    have : f.addr ≠ a := by intro e; rw [e, ha] at h; cases h
    simp [Chip.setFld, setFieldOf, SMap.get_set_ne _ _ this]
  case events => exact fun e he he' => by rw [eventSeen_setFld s f v e he hs]; exact he'
  all_goals rfl

/-- A change of the memories, the log, the stores and the parts that an announcement may touch. -/
theorem Ships.parts (s : Chip) (ms : List Mem) (sb : Scrub) (st : Store) (so : StoSt) (fb : FrameBuilder) (eg : List EvtGroup)
    (re rw : PortSt) (r : List Nat) :
    Ships s { s with mems := ms, scrub := sb, store := st, sto := so, fb := fb, evtG := eg, ringE := re, ringW := rw,
                     ring := { s.ring with pseq := r } } := by
  constructor
  case events => exact fun _ _ h => h
  all_goals intros
  all_goals rfl

theorem Ships.forAll {α : Type} (l : List α) (f : α → Chip → Chip) (h : ∀ a ∈ l, ∀ s, Ships s (f a s)) (s : Chip) :
    Ships s (forAll l f s) := by
  unfold Sys2Proof.Machine.forAll
  induction l generalizing s with
  | nil => exact Ships.refl s
  | cons a l ih => exact (h a (by simp) s).trans (ih (fun b hb => h b (by simp [hb])) _)

theorem raise_ships (e : Nat) (he : e < 384) (s : Chip) : Ships s (raise e s) := (raise_announces e he s).ships

theorem setPort_ships (s : Chip) (p : Port) (t : PortSt) : Ships s (s.setPort p t) := (Announces.setPort s p t).ships

theorem setMem_ships (s : Chip) (m : Nat) (x : Mem) : Ships s (s.setMem m x) :=
  Ships.parts s _ s.scrub s.store s.sto s.fb s.evtG s.ringE s.ringW s.ring.pseq

theorem setRegion_ships (s : Chip) (n : Nat) (r : Region) : Ships s (s.setRegion n r) :=
  Ships.parts s s.mems s.scrub _ s.sto s.fb s.evtG s.ringE s.ringW s.ring.pseq

/-! ### Memories -/

theorem logEvent_ships (e : LogEntry) (s : Chip) : Ships s (logEvent e s) := by
  have hl : ∀ (l : List LogEntry) (u : Chip), Ships u { u with scrub := { u.scrub with log := l } } := fun l u =>
    Ships.parts u u.mems _ u.store u.sto u.fb u.evtG u.ringE u.ringW u.ring.pseq
  have h1 : Ships s (raise EV.LOG_OVF (s.bump F.MIN_LOG_LOST_COUNT)) :=
    (Ships.setFld s _ _ (by decide) (by decide)).trans (raise_ships _ (by decide) _)
  unfold logEvent
  dsimp only
  split
  · exact hl _ s
  · split
    · exact hl _ s
    · split
      · split
        · exact h1.trans (hl _ _)
        · exact h1
      · exact h1

theorem noteCorrected_ships (kind src m w bit : Nat) (hm : m < 12) (s : Chip) : Ships s (noteCorrected kind src m w bit s) := by
  have ha : shipAddr (F.MIN_M_CORR_COUNT m).addr = true := by
    interval_cases m <;> decide
  have hs : statAddr (F.MIN_M_CORR_COUNT m).addr = false := by
    interval_cases m <;> decide
  exact (((logEvent_ships _ s).trans (Ships.setFld _ _ _ (by decide) (by decide))).trans (Ships.setFld _ _ _ ha hs)).trans
    (raise_ships _ (by decide) _)

theorem noteUncorrectable_ships (src m w : Nat) (hm : m < 12) (s : Chip) : Ships s (noteUncorrectable src m w s) := by
  have ha : shipAddr (F.MIN_M_UNC_COUNT m).addr = true := by
    interval_cases m <;> decide
  have hs : statAddr (F.MIN_M_UNC_COUNT m).addr = false := by
    interval_cases m <;> decide
  exact (((logEvent_ships _ s).trans (Ships.setFld _ _ _ (by decide) (by decide))).trans (Ships.setFld _ _ _ ha hs)).trans
    (raise_ships _ (by decide) _)

theorem poisonBlock_ships (src m b : Nat) (hm : m < 12) (s : Chip) : Ships s (poisonBlock src m b s) :=
  (setMem_ships s m _).trans (noteUncorrectable_ships _ _ _ hm _)

/-- A block check touches the memories, the log and the MIN registers, and raises events. -/
theorem blockCheck_ships (src m b : Nat) (hm : m < 12) (s : Chip) : Ships s (blockCheck src m b s) := by
  unfold blockCheck
  dsimp only
  repeat' split
  all_goals first
    | with_reducible exact Ships.refl s
    | with_reducible exact poisonBlock_ships _ _ _ hm s
    | exact Ships.trans (setMem_ships s m _) (noteCorrected_ships _ _ _ _ _ hm _)

theorem memWrite_ships (m w mask v : Nat) (hm : m < 12) (hc : memIsConfig m = false) (s : Chip) :
    Ships s (memWrite m w mask v s) := by
  have h1 : ∀ b : Bool, Ships s (if b then s else blockCheck 2 m (w / 8) s) := by
    intro b
    cases b
    · exact blockCheck_ships _ _ _ hm s
    · exact Ships.refl s
  have key : ∀ u : Chip, Ships s u → ∀ new : Nat,
      Ships s (if (u.poisoned m w && mask % 256 != 255) = true then u.setMem m ((((u.mem m).put m w new 0xFF)).fixColumn (w / 8))
        else u.setMem m ((u.mem m).put m w new 0)) := by
    intro u hu new
    split
    · exact hu.trans (setMem_ships u m _)
    · exact hu.trans (setMem_ships u m _)
  unfold memWrite
  simp only [hc, Bool.false_eq_true, if_false]
  exact key _ (h1 _) _

/-! ### The acquisition store -/

theorem forAll_writeAt_ships (n : Nat) (offs : List Nat) (ws : List W64) (s : Chip) : Ships s (writeAt n offs ws s) := by
  unfold writeAt
  exact Ships.forAll _ _ (fun p _ u => memWrite_ships 0 _ _ _ (by decide) (by decide) u) s

theorem notePressure_ships (n : Nat) (s : Chip) : Ships s (notePressure n s) := by
  unfold notePressure
  dsimp only
  split
  · exact Ships.parts s s.mems s.scrub s.store s.sto _ s.evtG s.ringE s.ringW s.ring.pseq
  · exact Ships.refl s

theorem noteFill_ships (n : Nat) (hn : n < 10) (s : Chip) : Ships s (noteFill n s) := by
  have ha : shipAddr (F.HIT_STORE_FILL_HWM n).addr = true := by
    interval_cases n <;> decide
  have hs : statAddr (F.HIT_STORE_FILL_HWM n).addr = false := by
    interval_cases n <;> decide
  refine Ships.trans ?_ (notePressure_ships n _)
  unfold Chip.highWater
  split
  · exact Ships.setFld s _ _ ha hs
  · exact Ships.refl s

theorem putQueue_ships (n : Nat) (hn : n < 10) (ws : List W64) (tag t0 t1 : Nat) (rs : List Reader) (s : Chip) (r : Nat × Chip)
    (h : putQueue n ws tag t0 t1 rs s = some r) : Ships s r.2 := by
  unfold putQueue at h
  dsimp only at h
  split at h
  · cases h
  · cases h
    refine Ships.trans ?_ (noteFill_ships n hn _)
    refine Ships.trans ?_ (forAll_writeAt_ships n _ ws _)
    exact Ships.parts s s.mems s.scrub _ s.sto s.fb s.evtG s.ringE s.ringW s.ring.pseq

theorem freeObj_ships (n id : Nat) (s : Chip) : Ships s (freeObj n id s) := setRegion_ships s n _

theorem doneReading_ships (n id : Nat) (who : Reader) (s : Chip) : Ships s (doneReading n id who s) := setRegion_ships s n _

/-! ### Offers -/

theorem markDirty_ships (e : Nat) (s : Chip) : Ships s (markDirty e s) := by
  unfold markDirty
  split
  · exact Ships.refl s
  · exact Ships.parts s s.mems s.scrub s.store _ s.fb s.evtG s.ringE s.ringW s.ring.pseq

theorem setExtent_ships (e v : Nat) (s : Chip) : Ships s (setExtent e v s) := by
  unfold setExtent
  split
  · exact Ships.refl s
  · exact (memWrite_ships 1 _ _ _ (by decide) (by decide) s).trans (markDirty_ships e _)

theorem giveUpItem_ships (pt cseq : Nat) (poison : Bool) (s : Chip) : Ships s (giveUpItem pt cseq poison s) := by
  unfold giveUpItem
  dsimp only
  split
  · exact Ships.refl s
  · refine Ships.trans ?_ (raise_ships _ (by decide) _)
    refine Ships.trans ?_ (Ships.setFld _ _ _ (by decide) (by decide))
    have h1 : ∀ so : StoSt, Ships s { s with sto := so } := fun so =>
      Ships.parts s s.mems s.scrub s.store so s.fb s.evtG s.ringE s.ringW s.ring.pseq
    have h2 : ∀ (o : Option Nat) (u : Chip), Ships s u → Ships s (match o with | some o => freeObj 9 o u | none => u) := by
      intro o u hu
      cases o
      · exact hu
      · exact hu.trans (freeObj_ships _ _ _)
    have h3 : ∀ (x : Option Nat) (u : Chip), Ships s u → Ships s (match x with
        | some e => setExtent e (if poison = true then withState (u.extent e) 3 ||| 256 else withState (u.extent e) 3) u
        | none => u) := by
      intro x u hu
      cases x
      · exact hu
      · exact hu.trans (setExtent_ships _ _ _)
    exact h3 _ _ (h2 _ _ (h1 _))

theorem contentDone_ships (o : Owner) (s : Chip) : Ships s (contentDone o s) := by
  unfold contentDone
  split <;> first | exact doneReading_ships _ _ _ _ | exact Ships.refl s

theorem clearGroup_ships (g : Nat) (since : Option Nat) (s : Chip) : Ships s (clearGroup g since s) :=
  Ships.parts s s.mems s.scrub s.store s.sto s.fb _ s.ringE s.ringW s.ring.pseq

theorem onAdmit_ships (o : Offer) (egress : Option Nat) (s : Chip) : Ships s (onAdmit o egress s) := by
  unfold onAdmit
  split
  · exact (clearGroup_ships _ _ s).trans (Ships.setFld _ _ _ (by decide) (by decide))
  · exact Ships.parts s s.mems s.scrub s.store _ s.fb s.evtG s.ringE s.ringW s.ring.pseq
  · split
    · exact contentDone_ships _ s
    · exact Ships.refl s

theorem onDiscard_ships (p : Port) (o : Offer) (s : Chip) : Ships s (onDiscard p o s) := by
  unfold onDiscard
  dsimp only
  have h1 : Ships s (raise EV.RNG_DROPPED (s.bump F.RNG_DROP_COUNT)) :=
    (Ships.setFld s _ _ (by decide) (by decide)).trans (raise_ships _ (by decide) _)
  have h2 : ∀ (t : PortSt) (n : Nat),
      Ships s (((raise EV.RNG_DROPPED (s.bump F.RNG_DROP_COUNT)).setPort p t).bumpBy F.RNG_DROP_COUNT n) := fun t n =>
    (h1.trans (setPort_ships _ p t)).trans (Ships.setFld _ _ _ (by decide) (by decide))
  split
  · exact (((h2 _ _).trans (clearGroup_ships _ _ _)).trans (Ships.setFld _ _ _ (by decide) (by decide))).trans
      (raise_ships _ (by decide) _)
  · exact (h2 _ _).trans (giveUpItem_ships _ _ _ _)
  · exact (h2 _ _).trans (contentDone_ships _ _)

theorem noteRefusedPressure_ships (o : Offer) (s : Chip) : Ships s (noteRefusedPressure o s) := by
  unfold noteRefusedPressure
  split
  · exact Ships.parts s s.mems s.scrub s.store s.sto _ s.evtG s.ringE s.ringW s.ring.pseq
  · exact Ships.refl s

theorem raise_quiet : Quiet raise := fun e he s => raise_announces e he s

theorem takePseq_ships (s : Chip) (cls : Nat) : Ships s (s.takePseq cls).2 :=
  Ships.parts s s.mems s.scrub s.store s.sto s.fb s.evtG s.ringE s.ringW _

theorem offerHead_ships (p : Port) (cls : Nat) (hc : cls < 4) (s : Chip) : Ships s (offerHead p cls s).2 := by
  unfold offerHead
  dsimp only
  split
  · exact Ships.refl s
  · next o0 rest _ =>
    generalize s.fillOffer o0 = o
    have hr : Ships s (if o0.refused = true then (false, s)
        else if s.tokDepth p cls < o.words.length + 2 then
          (true, onDiscard p o ((noteRefusedPressure o (refuse raise cls s)).setPort p
            (((noteRefusedPressure o (refuse raise cls s)).port p).setWait cls rest)))
        else (false, (noteRefusedPressure o (refuse raise cls s)).setPort p
          (((noteRefusedPressure o (refuse raise cls s)).port p).setWait cls ({ o0 with refused := true, held := s.cclkNow } :: rest)))).2 := by
      have h0 : Ships s (noteRefusedPressure o (refuse raise cls s)) :=
        (refuse_announces raise_quiet cls hc s).ships.trans (noteRefusedPressure_ships o _)
      split
      · exact Ships.refl s
      · split
        · exact (h0.trans (setPort_ships _ p _)).trans (onDiscard_ships p o _)
        · exact h0.trans (setPort_ships _ p _)
    split
    · split
      · refine Ships.trans ?_ (onAdmit_ships o none _)
        refine Ships.trans ?_ (placeTx_announces raise_quiet p _ _).ships
        refine Ships.trans ?_ (takeTokens_announces p cls _ _).ships
        exact (setPort_ships s p _).trans (takePseq_ships _ cls)
      · split
        · exact hr
        · next id s1 hq =>
          refine Ships.trans ?_ (onAdmit_ships o (some id) _)
          refine Ships.trans ?_ (placeTx_announces raise_quiet p _ _).ships
          refine Ships.trans ?_ (takeTokens_announces p cls _ _).ships
          refine Ships.trans ?_ (takePseq_ships _ cls)
          exact (setPort_ships s p _).trans (putQueue_ships 9 (by decide) _ 0 0 0 [.ring] _ _ hq)
    · exact hr

theorem pump_ships (n : Nat) (p : Port) (cls : Nat) (hc : cls < 4) (s : Chip) : Ships s (pump n p cls s) := by
  induction n generalizing s with
  | zero => exact Ships.refl s
  | succ n ih =>
    have h := offerHead_ships p cls hc s
    unfold pump
    split
    · next t ht => rw [ht] at h; exact h.trans (ih t)
    · next t ht => rw [ht] at h; exact h

theorem pumpQueue_ships (p : Port) (cls : Nat) (hc : cls < 4) (s : Chip) : Ships s (pumpQueue p cls s) := pump_ships _ p cls hc s

/-- What own packets that join a queue can do. -/
theorem enqueueAll_ships (p : Port) (cls : Nat) (hc : cls < 4) (os : List Offer) (s : Chip) : Ships s (enqueueAll p cls os s) := by
  unfold enqueueAll
  dsimp only
  split
  · exact (setPort_ships s p _).trans (pumpQueue_ships p _ hc _)
  · exact setPort_ships s p _

/-- What an own packet that joins a queue can do. -/
theorem enqueue_ships (p : Port) (o : Offer) (s : Chip) : Ships s (enqueue p o s) := enqueueAll_ships p _ o.cls.isLt [o] s

/-- What the sending of an own packet can do. -/
theorem sendWait_ships (o : Offer) (s : Chip) : Ships s (sendWait o s) :=
  Ships.forAll _ _ (fun p _ u => enqueue_ships p o u) s

/-- The buckets gain tokens and nothing else changes. -/
theorem gainTokens_announces (n : Nat) (s : Chip) : Announces s (gainTokens n s) :=
  Announces.forAll _ _ (fun p _ t => Announces.forN 4 _ (fun _ _ u => Announces.setPort u p _) t) s

theorem Ships.fld {s t : Chip} (h : Ships s t) (f : Fld) (hf : shipAddr f.addr = false) : t.fld f = s.fld f :=
  Chip.fld_congr _ _ f h.active (h.direct _ hf)

theorem Ships.fld_rws {s t : Chip} (h : Ships s t) (f : Fld) (hr : f.rws = true) : t.fld f = s.fld f := by
  simp [Chip.fld, hr, h.active]

end Sys2Proof.Machine
end

