-- ==== Sys2Proof/Laws/Command.lean ====
section
/-! SUPPORT. Laws of the command engine: the fields of a command that a row spells, its checks, and what its execution gives. -/

namespace Sys2Proof.Machine

/-! ### The fields of a command word -/

theorem crc32Bit_lt (c : Nat) (h : c < 2 ^ 32) : crc32Bit c < 2 ^ 32 := by
  unfold crc32Bit
  have h1 : c >>> 1 < 2 ^ 32 := by rw [Nat.shiftRight_eq_div_pow]; omega
  split
  · exact Nat.xor_lt_two_pow h1 (by decide)
  · exact h1

theorem crc32Byte_lt (c b : Nat) (h : c < 2 ^ 32) (hb : b < 2 ^ 32) : crc32Byte c b < 2 ^ 32 := by
  have key : ∀ (l : List Nat) (x : Nat), x < 2 ^ 32 → l.foldl (fun c _ => crc32Bit c) x < 2 ^ 32 := by
    intro l
    induction l with
    | nil => exact fun x hx => hx
    | cons a l ih => exact fun x hx => ih _ (crc32Bit_lt x hx)
  exact key _ _ (Nat.xor_lt_two_pow h hb)

theorem crc32_lt (bs : List Nat) (h : ∀ b ∈ bs, b < 2 ^ 32) : crc32 bs < 2 ^ 32 := by
  have key : ∀ (l : List Nat) (x : Nat), (∀ b ∈ l, b < 2 ^ 32) → x < 2 ^ 32 → l.foldl crc32Byte x < 2 ^ 32 := by
    intro l
    induction l with
    | nil => exact fun x _ hx => hx
    | cons a l ih => exact fun x hl hx => ih _ (fun b hb => hl b (by simp [hb])) (crc32Byte_lt x a hx (hl a (by simp)))
  exact Nat.xor_lt_two_pow (key bs _ h (by decide)) (by decide)

theorem crcOf_lt (ws : List W64) : crcOf ws < 2 ^ 32 := by
  refine crc32_lt _ (fun b hb => ?_)
  simp only [List.mem_flatMap, wordBytes, List.mem_map] at hb
  obtain ⟨w, _, i, _, rfl⟩ := hb
  unfold bits
  have : 8 * i + 7 + 1 - 8 * i = 8 := by omega
  rw [this]
  exact Nat.lt_trans (Nat.mod_lt _ (by decide)) (by decide)

theorem w64_toNat (x : Nat) (h : x < 2 ^ 64) : (w64 x).toNat = x := by
  unfold w64
  rw [BitVec.toNat_ofNat, Nat.mod_eq_of_lt h]

theorem xor_one_ne (x : Nat) : x ^^^ 1 ≠ x := by
  intro h
  have : (x ^^^ 1).testBit 0 = x.testBit 0 := by rw [h]
  rw [Nat.testBit_xor] at this
  revert this
  cases x.testBit 0 <;> decide

/-- The header word of a row's command. -/
def headerOf (h : CmdHead) (op addr len : Nat) : Nat :=
  place 8 56 op ||| place 8 48 h.tag.toNat ||| place 5 43 h.src.toNat ||| place 5 38 h.dest.toNat
    ||| place 2 36 h.priv.toNat ||| place 2 34 h.bank.toNat ||| place 10 24 len ||| place 24 0 addr

theorem headerOf_lt (h : CmdHead) (op addr len : Nat) : headerOf h op addr len < 2 ^ 64 := by
  have mono : ∀ w lo v, lo + w ≤ 64 → place w lo v < 2 ^ 64 := fun w lo v hw =>
    Nat.lt_of_lt_of_le (place_lt w lo v) (Nat.pow_le_pow_right (by decide) hw)
  unfold headerOf
  refine Nat.or_lt_two_pow (Nat.or_lt_two_pow (Nat.or_lt_two_pow (Nat.or_lt_two_pow (Nat.or_lt_two_pow (Nat.or_lt_two_pow
    (Nat.or_lt_two_pow ?_ ?_) ?_) ?_) ?_) ?_) ?_) ?_ <;> exact mono _ _ _ (by decide)

section
variable (h : CmdHead) (op addr : Nat) (pl : List W64)

theorem cmdOf_header : (cmdOf h op addr pl).header = headerOf h op addr pl.length := w64_toNat _ (headerOf_lt h op addr pl.length)

/-- A field of the header. -/
theorem bits_headerOf (hi lo w v : Nat) (hw : hi + 1 = lo + w)
    (hb : ∀ i, i < w → (headerOf h op addr pl.length).testBit (lo + i) = v.testBit i) (hv : v < 2 ^ w) :
    bits (headerOf h op addr pl.length) hi lo = v := by
  apply Nat.eq_of_testBit_eq
  intro i
  have e : hi + 1 - lo = w := by omega
  rw [testBit_bits, e]
  by_cases hi' : i < w
  · simp [hi', hb i hi']
  · have : v.testBit i = false := Nat.testBit_lt_two_pow (Nat.lt_of_lt_of_le hv (Nat.pow_le_pow_right (by decide) (by omega)))
    simp [hi', this]

@[simp] theorem cmdOf_op (ho : op < 256) : (cmdOf h op addr pl).op = op := by
  unfold Command.op
  rw [cmdOf_header]
  refine bits_headerOf h op addr pl 63 56 8 op rfl (fun i hi => ?_) ho
  interval_cases i <;> simp [headerOf, testBit_place]

@[simp] theorem cmdOf_tag : (cmdOf h op addr pl).tag = h.tag.toNat := by
  unfold Command.tag
  rw [cmdOf_header]
  refine bits_headerOf h op addr pl 55 48 8 h.tag.toNat rfl (fun i hi => ?_) h.tag.isLt
  interval_cases i <;> simp [headerOf, testBit_place]

theorem cmdOf_src : bits (cmdOf h op addr pl).header 47 43 = h.src.toNat := by
  rw [cmdOf_header]
  refine bits_headerOf h op addr pl 47 43 5 h.src.toNat rfl (fun i hi => ?_) h.src.isLt
  interval_cases i <;> simp [headerOf, testBit_place]

theorem cmdOf_dest : bits (cmdOf h op addr pl).header 42 38 = h.dest.toNat := by
  rw [cmdOf_header]
  refine bits_headerOf h op addr pl 42 38 5 h.dest.toNat rfl (fun i hi => ?_) h.dest.isLt
  interval_cases i <;> simp [headerOf, testBit_place]

@[simp] theorem cmdOf_priv : (cmdOf h op addr pl).priv = h.priv.toNat := by
  unfold Command.priv
  rw [cmdOf_header]
  refine bits_headerOf h op addr pl 37 36 2 h.priv.toNat rfl (fun i hi => ?_) h.priv.isLt
  interval_cases i <;> simp [headerOf, testBit_place]

@[simp] theorem cmdOf_bank : (cmdOf h op addr pl).bank = h.bank.toNat := by
  unfold Command.bank
  rw [cmdOf_header]
  refine bits_headerOf h op addr pl 35 34 2 h.bank.toNat rfl (fun i hi => ?_) h.bank.isLt
  interval_cases i <;> simp [headerOf, testBit_place]

@[simp] theorem cmdOf_plen (hp : pl.length < 1024) : (cmdOf h op addr pl).plen = pl.length := by
  unfold Command.plen
  rw [cmdOf_header]
  refine bits_headerOf h op addr pl 33 24 10 pl.length rfl (fun i hi => ?_) hp
  interval_cases i <;> simp [headerOf, testBit_place]

@[simp] theorem cmdOf_addr (ha : addr < 2 ^ 24) : (cmdOf h op addr pl).addr = addr := by
  unfold Command.addr
  rw [cmdOf_header]
  refine bits_headerOf h op addr pl 23 0 24 addr rfl (fun i hi => ?_) ha
  interval_cases i <;> simp [headerOf, testBit_place, -Nat.testBit_zero]

@[simp] theorem cmdOf_sender : (cmdOf h op addr pl).sender = h.sender := rfl
@[simp] theorem cmdOf_excess : (cmdOf h op addr pl).excess = false := rfl

/-- The words before the CRC word. -/
def bodyOf (h : CmdHead) (op addr : Nat) (pl : List W64) : List W64 :=
  w64 (headerOf h op addr pl.length) :: pl ++ (if h.lenOk then [] else [0#64])

theorem cmdOf_words : (cmdOf h op addr pl).words
    = bodyOf h op addr pl ++ [w64 (if h.crcOk then crcOf (bodyOf h op addr pl) else crcOf (bodyOf h op addr pl) ^^^ 1)] := rfl

theorem cmdOf_length : (cmdOf h op addr pl).words.length = pl.length + 2 + (if h.lenOk then 0 else 1) := by
  rw [cmdOf_words]
  unfold bodyOf
  cases h.lenOk <;> simp

/-- The payload of a row whose length is right. -/
theorem cmdOf_payload (hl : h.lenOk = true) : (cmdOf h op addr pl).payload = pl := by
  unfold Command.payload
  rw [cmdOf_words]
  simp [bodyOf, hl]

/-- The CRC word matches exactly where the row says so (R355). -/
theorem cmdOf_crc : ((cmdOf h op addr pl).crcWord = crcOf (cmdOf h op addr pl).words.dropLast) ↔ h.crcOk = true := by
  have hlt := crcOf_lt (bodyOf h op addr pl)
  have hlt' : crcOf (bodyOf h op addr pl) ^^^ 1 < 2 ^ 32 := Nat.xor_lt_two_pow hlt (by decide)
  have h64 : (2 : Nat) ^ 32 < 2 ^ 64 := by decide
  unfold Command.crcWord
  rw [cmdOf_words]
  simp only [List.dropLast_concat]
  cases h.crcOk
  · simp only [Bool.false_eq_true, if_false, iff_false]
    simp only [List.getLastD_eq_getLast?, List.getLast?_append, List.getLast?_singleton, Option.some_or, Option.getD_some]
    rw [w64_toNat _ (Nat.lt_trans hlt' h64)]
    exact xor_one_ne _
  · simp only [if_true, iff_true]
    simp only [List.getLastD_eq_getLast?, List.getLast?_append, List.getLast?_singleton, Option.some_or, Option.getD_some]
    exact w64_toNat _ (Nat.lt_trans hlt h64)

/-- The checks of a row's command (R359), in their order. -/
theorem checkCommand_cmdOf (s : Chip) (ho : op < 256) (hp : pl.length < 1024) :
    s.checkCommand (cmdOf h op addr pl)
      = if (cmdOf h op addr pl).fromSide && !h.lenOk then 4
        else if h.crcOk = false then 5
        else match opcodeLen op with
          | none => 2
          | some lens =>
            if s.badLen (cmdOf h op addr pl) lens then 4
            else if s.badAddr (cmdOf h op addr pl) then 3
            else if s.denied (cmdOf h op addr pl) then 1
            else if s.busy (cmdOf h op addr pl) then 8
            else if s.collides (cmdOf h op addr pl) then 6
            else 0 := by
  unfold Chip.checkCommand
  rw [cmdOf_op h op addr pl ho, cmdOf_plen h op addr pl hp, cmdOf_length]
  have hl : (pl.length + 2 + (if h.lenOk = true then 0 else 1) != pl.length + 2) = !h.lenOk := by
    cases h.lenOk <;> simp
  have hc : ((cmdOf h op addr pl).crcWord != crcOf (cmdOf h op addr pl).words.dropLast) = !h.crcOk := by
    have := cmdOf_crc h op addr pl
    cases hk : h.crcOk
    · simp only [hk, Bool.false_eq_true, iff_false] at this
      simp [this]
    · simp only [hk, iff_true] at this
      simp [this]
  rw [hl, hc]
  cases h.crcOk
  · simp
  · first
    | (simp; done)
    | (simp; rfl)

end

/-! ### Execution -/

/-- A command that is taken: its opcode runs, and the answer follows. -/
theorem runRow_accepted (c : Command) (s : Chip) (h : Accepted c s) (hx : c.excess = false) :
    runRow c s = s.answered c (runOpcode c s).1 (runOpcode c s).2.1 (runOpcode c s).2.2 := by
  have h1 : runCommand c s = sendStatus c.sender (s.statusWords c (runOpcode c s).1 (runOpcode c s).2.1)
      (if (runOpcode c s).1 = 5
        then (if (runOpcode c s).1 = 0 then (runOpcode c s).2.2.bump F.CMD_EXEC_CNT_COUNT
          else noteReject c (runOpcode c s).1 (runOpcode c s).2.2)
        else keepStatus c (s.statusWords c (runOpcode c s).1 (runOpcode c s).2.1)
          (if (runOpcode c s).1 = 0 then (runOpcode c s).2.2.bump F.CMD_EXEC_CNT_COUNT
            else noteReject c (runOpcode c s).1 (runOpcode c s).2.2)) := by
    unfold runCommand
    rw [h.fresh]
    simp [h.checked, hx]
  have hl : (if c.fromSide then s.sideOpen else s.running) = true := h.listens
  unfold runRow Chip.answered
  rw [hl, h1]
  rfl

/-- What the rows of the command engine do: their command, executed as a row. -/
theorem exec_rowCommand (i : Instr) (c : Command) (s : State) (h : rowCommand i = some c) :
    exec i s = .next { s with chip := runRow c s.chip } := by
  cases i <;> cases h <;> rfl

theorem rowCommand_excess (i : Instr) (c : Command) (h : rowCommand i = some c) : c.excess = false := by
  cases i <;> cases h <;> rfl

/-- A row whose command is accepted answers what its opcode gives. -/
theorem answers_of (i : Instr) (c : Command) (s : State) (hr : rowCommand i = some c) (ht : Taken i s)
    (code : Nat) (data : List Nat) (u : Chip) (ho : runOpcode c s.chip = (code, data, u)) :
    Answers i s code data u := by
  obtain ⟨c', hc', ha⟩ := ht
  rw [hr] at hc'
  injection hc' with hc'
  subst hc'
  refine ⟨c, hr, ?_⟩
  rw [exec_rowCommand i c s hr, runRow_accepted c s.chip ha (rowCommand_excess i c hr), ho]

end Sys2Proof.Machine
end

