-- ==== Sys2Proof/Laws/Words.lean ====
section
/-! SUPPORT. The fields of words that are built from parts, and flags. -/

namespace Sys2Proof.Machine

theorem bits_w64 (x hi lo : Nat) (h : hi < 64) : bits (w64 x).toNat hi lo = bits x hi lo := by
  apply Nat.eq_of_testBit_eq
  intro i
  rw [testBit_bits, testBit_bits]
  unfold w64
  rw [BitVec.toNat_ofNat, Nat.testBit_mod_two_pow]
  by_cases hi' : i < hi + 1 - lo
  · simp [hi', show lo + i < 64 by omega]
  · simp [hi']

theorem bits_ofNat (n x hi lo : Nat) (h : hi < n) : bits (BitVec.ofNat n x).toNat hi lo = bits x hi lo := by
  apply Nat.eq_of_testBit_eq
  intro i
  rw [testBit_bits, testBit_bits, BitVec.toNat_ofNat, Nat.testBit_mod_two_pow]
  by_cases hi' : i < hi + 1 - lo
  · simp [hi', show lo + i < n by omega]
  · simp [hi']

theorem testBit_ofNat (n x i : Nat) (h : i < n) : (BitVec.ofNat n x).toNat.testBit i = x.testBit i := by
  rw [BitVec.toNat_ofNat, Nat.testBit_mod_two_pow]; simp [h]

theorem bits_or (a b hi lo : Nat) : bits (a ||| b) hi lo = bits a hi lo ||| bits b hi lo := by
  apply Nat.eq_of_testBit_eq
  intro i
  simp only [testBit_bits, Nat.testBit_or]
  cases decide (i < hi + 1 - lo) <;> simp

theorem bits_place_same (w lo v : Nat) (hw : 1 ≤ w) : bits (place w lo v) (lo + w - 1) lo = v % 2 ^ w := by
  apply Nat.eq_of_testBit_eq
  intro i
  rw [testBit_bits, testBit_place, Nat.testBit_mod_two_pow]
  by_cases h : i < w
  · simp [h, show i < lo + w - 1 + 1 - lo by omega]
  · simp [h]

theorem bits_place_eq (w lo v hi : Nat) (h : hi + 1 = lo + w) (hw : 1 ≤ w) : bits (place w lo v) hi lo = v % 2 ^ w := by
  rw [show hi = lo + w - 1 by omega]
  exact bits_place_same w lo v hw

theorem testBit_place_out (w lo v i : Nat) (h : i < lo ∨ lo + w ≤ i) : (place w lo v).testBit i = false := by
  rw [testBit_place]
  rcases h with h | h
  · simp [show ¬ lo ≤ i by omega]
  · simp [show ¬ i - lo < w by omega]

theorem testBit_place_one (lo : Nat) (b : Bool) : (place 1 lo (b2n b)).testBit lo = b := by
  rw [testBit_place]
  cases b <;> simp [b2n]

theorem bits_place_apart (w lo v hi l : Nat) (h : hi < lo ∨ lo + w ≤ l) : bits (place w lo v) hi l = 0 := by
  apply Nat.eq_of_testBit_eq
  intro i
  rw [testBit_bits, testBit_place, Nat.zero_testBit]
  by_cases h1 : i < hi + 1 - l
  · rcases h with h | h
    · simp [show ¬ lo ≤ l + i by omega]
    · simp [show ¬ l + i - lo < w by omega]
  · simp [h1]

theorem bits_small (v hi lo n : Nat) (hv : v < 2 ^ n) (h : n ≤ lo) : bits v hi lo = 0 := by
  apply Nat.eq_of_testBit_eq
  intro i
  rw [testBit_bits, Nat.zero_testBit, Nat.testBit_lt_two_pow (Nat.lt_of_lt_of_le hv (Nat.pow_le_pow_right (by decide) (by omega)))]
  simp

theorem frameWord_sec (n : Nat) : bits (w64 (frameWord n)).toNat 63 32 = frameSec n % 2 ^ 32 := by
  rw [bits_w64 _ _ _ (by decide)]
  unfold frameWord
  rw [bits_or, bits_place_same 32 32 _ (by decide), bits_place_apart 19 13 _ 63 32 (by omega), Nat.or_zero]
theorem frameWord_idx (n : Nat) : bits (w64 (frameWord n)).toNat 31 13 = frameIdx n := by
  rw [bits_w64 _ _ _ (by decide)]
  unfold frameWord
  rw [bits_or, bits_place_apart 32 32 _ 31 13 (by omega), bits_place_same 19 13 _ (by decide), Nat.zero_or]
  exact Nat.mod_eq_of_lt (Nat.lt_trans (Nat.mod_lt _ (by decide)) (by decide))


theorem flag_setFlag_same (s : Chip) (f : Fld) (b : Bool) (h : f.fits) (hr : f.rws = false) : (s.setFlag f b).flag f = b := by
  unfold Chip.flag Chip.setFlag
  rw [Chip.fld_setFld_same _ _ _ h hr]
  have h1 : 1 < 2 ^ f.w := Nat.one_lt_two_pow (by have := h.1; omega)
  cases b
  · simp [b2n]
  · simp [b2n, Nat.mod_eq_of_lt h1]


theorem setPort_setPort (s : Chip) (p : Port) (a b : PortSt) : (s.setPort p a).setPort p b = s.setPort p b := by cases p <;> rfl

theorem Announces.flag {s t : Chip} (h : Announces s t) (f : Fld) (hf : announceAddr f.addr = false) : t.flag f = s.flag f := by
  unfold Chip.flag; rw [h.fld f hf]

theorem Ships.flag {s t : Chip} (h : Ships s t) (f : Fld) (hf : shipAddr f.addr = false) : t.flag f = s.flag f := by
  unfold Chip.flag; rw [h.fld f hf]

theorem setFld_seen (s : Chip) (f : Fld) (v e : Nat) (he : e < 384) (h : statAddr f.addr = false) :
    (s.setFld f v).eventSeen e = s.eventSeen e := eventSeen_setFld s f v e he h

end Sys2Proof.Machine
end

