-- ==== Sys2Proof/Laws/Feeds.lean ====
section
/-! SUPPORT. What a datum does that reaches the measures (R231 to R235) and the trigger conditions (R100 to R107), said once. -/

namespace Sys2Proof.Machine

theorem Feeds.refl (s : Chip) : Feeds s s := ⟨rfl, fun _ _ _ => rfl, fun _ _ h => h⟩

theorem Feeds.trans {s t u : Chip} (h1 : Feeds s t) (h2 : Feeds t u) : Feeds s u := by
  refine ⟨?_, fun a ha hb => (h2.direct a ha hb).trans (h1.direct a ha hb), fun e he h => h2.events e he (h1.events e he h)⟩
  rw [h2.rest, h1.rest]

theorem Announces.feeds {s t : Chip} (h : Announces s t) : Feeds s t := by
  refine ⟨?_, fun a ha _ => h.direct a ha, h.events⟩
  obtain ⟨hActive, hShadow, hOld1, hOld2, hBefore, hHoldE, hHoldW, hHoldS, hDirect, hEvents, hClk, hNet, hMems, hScrub, hCmd, hRing, hLaneE, hLaneW,
    hLine, hCdc, hLawn, hHedges, hStore, hRst, hPins, hSto, hPair, hMeas, hSrcs, hTrg, hWav, hXdc, hTis, hTips, hPos, hCal, hCmp, hTabs, hFree⟩ := h
  cases t with
  | mk tregs =>
  cases tregs
  cases s with
  | mk sregs =>
  cases sregs
  dsimp only at *
  congr 1
  congr 1

theorem Feeds.active {s t : Chip} (h : Feeds s t) : t.regs.active = s.regs.active := congrArg (fun c => c.regs.active) h.rest
theorem Feeds.clk {s t : Chip} (h : Feeds s t) : t.clk = s.clk := congrArg (fun c => c.clk) h.rest
theorem Feeds.hedges {s t : Chip} (h : Feeds s t) : t.hedges = s.hedges := congrArg (fun c => c.hedges) h.rest

theorem Feeds.fld {s t : Chip} (h : Feeds s t) (f : Fld) (hf : announceAddr f.addr = false) (hg : f.addr < 0x38000 ∨ 0x39000 ≤ f.addr) :
    t.fld f = s.fld f := Chip.fld_congr _ _ f h.active (h.direct _ hf hg)

/-- A change of the measures, their sources and the trigger engine alone. -/
theorem Feeds.parts (s : Chip) (m : Table Meas) (r : Table (List (Nat × Option Int))) (g : Trg) (sc : List ScState) :
    Feeds s { s with meas := m, srcs := r, trg := g, sc := sc } :=
  ⟨rfl, fun _ _ _ => rfl, fun _ _ h => h⟩

theorem Feeds.forAll {α : Type} (l : List α) (f : α → Chip → Chip) (h : ∀ a ∈ l, ∀ s, Feeds s (f a s)) (s : Chip) :
    Feeds s (forAll l f s) := by
  unfold Sys2Proof.Machine.forAll
  induction l generalizing s with
  | nil => exact Feeds.refl s
  | cons a l ih => exact (h a (by simp) s).trans (ih (fun b hb => h b (by simp [hb])) _)

theorem Feeds.forN (n : Nat) (f : Nat → Chip → Chip) (h : ∀ i, i < n → ∀ s, Feeds s (f i s)) (s : Chip) : Feeds s (forN n f s) :=
  Feeds.forAll (List.range n) f (fun i hi => h i (List.mem_range.mp hi)) s

/-- A fold that carries something beside the chip. -/
theorem Feeds.foldl {α β : Type} (l : List α) (f : β × Chip → α → β × Chip) (h : ∀ acc, ∀ a ∈ l, Feeds acc.2 (f acc a).2)
    {s : Chip} (b : β × Chip) (hb : Feeds s b.2) : Feeds s (l.foldl f b).2 := by
  induction l generalizing b with
  | nil => exact hb
  | cons a l ih => exact ih (fun c x hx => h c x (by simp [hx])) _ (hb.trans (h b a (by simp)))

/-! ### The measures -/

theorem setMeasure_feeds (n : Nat) (m : Meas) (s : Chip) : Feeds s (setMeasure n m s) := Feeds.parts s _ s.srcs s.trg s.sc

theorem evalLevel_feeds (ok : List Bool) (n t : Nat) (s : Chip) : Feeds s (evalLevel ok n t s) := by
  unfold evalLevel
  refine Feeds.forN 16 _ (fun c hc u => ?_) s
  have key : ∀ (sc : List ScState) (level : Bool),
      Feeds u (if level = true then meetCond raise c t { u with sc := sc } else { u with sc := sc }) := by
    intro sc level
    split
    · exact (Feeds.parts u u.meas u.srcs u.trg sc).trans (meetCond_announces raise_quiet c t hc _).feeds
    · exact Feeds.parts u u.meas u.srcs u.trg sc
  dsimp only
  split
  · exact key _ _
  · exact Feeds.refl u

theorem setRun_feeds (i : Nat) (hi : i < 128) (v : Nat) (s : Chip) : Feeds s (s.setFld (F.LOOP_M_RUN_VALUE i) v) := by
  refine (Announces.setFld s _ v ?_ ?_).feeds
  · show announceAddr (0x80904 + 8 * i) = true
    rw [announceAddr_iff]; omega
  · show statAddr (0x80904 + 8 * i) = false
    unfold statAddr
    simp only [Bool.and_eq_false_iff, decide_eq_false_iff_not, beq_eq_false_iff_ne]
    omega

/-- New RUN values, with the values that follow from them, and the conditions. -/
theorem updateRuns_feeds (ns : List (Nat × Nat)) (s : Chip) : Feeds s (updateRuns ns s) := by
  unfold updateRuns
  split
  · exact Feeds.refl s
  dsimp only
  refine Feeds.trans ?_ (Feeds.forAll _ _ (fun x _ u => evalLevel_feeds _ _ _ u) _)
  refine Feeds.foldl _ _ (fun acc i hi => ?_) _ (Feeds.refl s)
  have key : ∀ o : Option Nat, Feeds acc.2 (match o with
      | some t => (acc.1 ++ [(i, t)], acc.2.setFld (F.LOOP_M_RUN_VALUE i) (unsext 32 (acc.2.runNow i (s.measTable 0))))
      | none => acc).2 := by
    intro o
    split
    · exact setRun_feeds i (List.mem_range.mp hi) _ _
    · exact Feeds.refl _
  exact key _

/-- The blocks that advance. -/
theorem advanceBlocks_feeds (sel : Nat → Bool) (s : Chip) : Feeds s (advanceBlocks sel s) := by
  unfold advanceBlocks
  split
  · exact Feeds.refl s
  refine Feeds.trans ?_ (updateRuns_feeds _ _)
  refine Feeds.foldl _ _ (fun acc n _ => ?_) _ (Feeds.refl s)
  dsimp only
  split
  · exact setMeasure_feeds _ _ _
  · exact Feeds.refl _

theorem addDatum_feeds (typ n frame t : Nat) (v : Int) (e red : Bool) (s : Chip) : Feeds s (addDatum typ n frame t v e red s).2 := by
  unfold addDatum
  dsimp only
  repeat' split
  all_goals exact setMeasure_feeds _ _ _

theorem forMeasures_feeds (k t : Nat) (p : Nat → Bool) (f : Nat → Chip → Bool × Chip) (h : ∀ n s, Feeds s (f n s).2) (s : Chip) :
    Feeds s (forMeasures k t p f s) := by
  unfold forMeasures
  split
  · exact Feeds.refl s
  refine Feeds.trans ?_ (updateRuns_feeds _ _)
  have hb := advanceBlocks_feeds (fun _ => true) s
  generalize advanceBlocks (fun _ => true) s = u at hb ⊢
  refine Feeds.foldl _ _ (fun acc n _ => ?_) ([], u) hb
  dsimp only
  split
  · exact h n _
  · exact Feeds.refl _

/-- A hit at the measures. -/
theorem measureHit_feeds (frame w kq : Nat) (s : Chip) : Feeds s (measureHit frame w kq s) := by
  unfold measureHit
  refine forMeasures_feeds _ _ _ _ (fun n u => ?_) s
  dsimp only
  split
  · split
    · exact addDatum_feeds _ _ _ _ _ _ _ _
    · split
      · exact Feeds.refl u
      · exact addDatum_feeds _ _ _ _ _ _ _ _
  · exact Feeds.refl u

/-- A sample at the measures. -/
theorem measureSample_feeds (ch frame t : Nat) (v : Int) (sg : Bool) (s : Chip) : Feeds s (measureSample ch frame t v sg s) := by
  unfold measureSample
  refine forMeasures_feeds _ _ _ _ (fun n u => ?_) s
  dsimp only
  split
  · exact addDatum_feeds _ _ _ _ _ _ _ _
  · exact Feeds.refl u

/-- A record decided. -/
theorem measureRecord_feeds (out : Nat) (s : Chip) : Feeds s (measureRecord out s) := by
  unfold measureRecord
  refine forMeasures_feeds _ _ _ _ (fun n u => ?_) s
  split
  · exact addDatum_feeds _ _ _ _ _ _ _ _
  · exact Feeds.refl u

/-- A result at the measures. -/
theorem measureResult_feeds (typ sel time : Nat) (raw : Int) (s : Chip) : Feeds s (measureResult typ sel time raw s) := by
  unfold measureResult
  exact (Feeds.parts s s.meas _ s.trg s.sc).trans (forMeasures_feeds _ _ _ _ (fun _ u => Feeds.refl u) _)

/-- The close of a RUN block. -/
theorem blockBoundaryOf_feeds (rw : Nat) (s : Chip) : Feeds s (blockBoundaryOf rw s) := advanceBlocks_feeds _ s

/-! ### The trigger conditions -/

theorem setCond_feeds (n : Nat) (c : CondSt) (s : Chip) : Feeds s (setCond n c s) := Feeds.parts s s.meas s.srcs _ s.sc

theorem setMet_feeds (n v : Nat) (hn : n < 32) (s : Chip) : Feeds s (s.setFld (F.TRG_MET_COUNT n) v) := by
  have ha : (F.TRG_MET_COUNT n).addr = 0x38300 + 4 * n := rfl
  refine ⟨rfl, fun a _ hb => Chip.setFld_direct_ne _ _ _ _ (by rw [ha]; omega), fun e he h => ?_⟩
  rw [eventSeen_setFld _ _ _ _ he (by
    rw [ha]
    unfold statAddr
    simp only [Bool.and_eq_false_iff, decide_eq_false_iff_not, beq_eq_false_iff_ne]
    omega)]
  exact h

/-- An event of a condition. -/
theorem postEvent_feeds (n t : Nat) (al : Bool) (hn : n < 32) (s : Chip) : Feeds s (postEvent n t al s) := by
  unfold postEvent
  exact (Feeds.parts s s.meas s.srcs _ s.sc).trans (setMet_feeds n _ hn _)

/-- A hit at the conditions. -/
theorem triggerHit_feeds (frame w kq : Nat) (s : Chip) : Feeds s (triggerHit frame w kq s) := by
  unfold triggerHit
  refine Feeds.forN 32 _ (fun n hn u => ?_) s
  have ho : ∀ k t w, Feeds u (occHit k n t w u) := by
    intro k t w
    unfold occHit
    dsimp only
    split
    · exact (setCond_feeds _ _ _).trans (postEvent_feeds _ _ _ hn _)
    · exact setCond_feeds _ _ _
  have hc : ∀ k t a b, Feeds u (coincHit k n t a b u) := by
    intro k t a b
    unfold coincHit
    dsimp only
    split
    · exact (setCond_feeds _ _ _).trans (postEvent_feeds _ _ _ hn _)
    · exact setCond_feeds _ _ _
  dsimp only
  split
  · exact Feeds.refl u
  · split
    · split
      · exact ho _ _ _
      · exact Feeds.refl u
    · split
      · exact ho _ _ _
      · exact Feeds.refl u
    · split
      · exact hc _ _ _ _
      · exact Feeds.refl u
    · exact Feeds.refl u

/-- A sample at the conditions. -/
theorem triggerSample_feeds (ch frame : Nat) (b : Option (Int × Nat)) (v : Int) (per : Nat) (sg : Bool) (s : Chip) :
    Feeds s (triggerSample ch frame b v per sg s) := by
  unfold triggerSample
  refine Feeds.forN 32 _ (fun n hn u => ?_) s
  have hp : ∀ (x : Option Nat) (u : Chip), Feeds u (match x with | some t => postEvent n t false u | none => u) := by
    intro x u
    split
    · exact postEvent_feeds _ _ _ hn _
    · exact Feeds.refl u
  dsimp only
  split
  · exact (setCond_feeds _ _ _).trans ((hp _ _).trans (hp _ _))
  · exact Feeds.refl u

/-- A result at the conditions. -/
theorem triggerResult_feeds (r : XdcRes) (lin : Nat) (inv : Bool) (s : Chip) : Feeds s (triggerResult r lin inv s) := by
  unfold triggerResult
  refine Feeds.forN 32 _ (fun n hn u => ?_) s
  have key : ∀ (z : Option Bool), Feeds u (match z with
      | none => u
      | some b =>
        if (b && (u.condSt n).zone != some true) = true then postEvent n (r.time + 131072) false (setCond n { u.condSt n with zone := some b } u)
        else setCond n { u.condSt n with zone := some b } u) := by
    intro z
    split
    · exact Feeds.refl u
    · split
      · exact (setCond_feeds _ _ _).trans (postEvent_feeds _ _ _ hn _)
      · exact setCond_feeds _ _ _
  dsimp only
  split
  · exact key _
  · exact Feeds.refl u

/-- An edge at the conditions. -/
theorem triggerEdge_feeds (i : Nat) (r : Bool) (t : Nat) (s : Chip) : Feeds s (triggerEdge i r t s) := by
  unfold triggerEdge
  refine Feeds.forN 32 _ (fun n hn u => ?_) s
  try dsimp only
  split
  · exact postEvent_feeds _ _ _ hn _
  · exact Feeds.refl u

/-- A fire at the conditions. -/
theorem triggerFire_feeds (cmd : Bool) (code t : Nat) (al : Bool) (s : Chip) : Feeds s (triggerFire cmd code t al s) := by
  unfold triggerFire
  refine Feeds.forN 32 _ (fun n hn u => ?_) s
  generalize (if cmd = true then 8 else 7) = ty
  split
  · exact postEvent_feeds _ _ _ hn _
  · exact Feeds.refl u

end Sys2Proof.Machine
end

