-- ==== Sys2Proof/Laws/Clock.lean ====
section
/-! SUPPORT. What the passing of CCLK can do, said once. -/

namespace Sys2Proof.Machine

/-- Only the ports' ring traffic differs. -/
def PortsOnly (s t : Chip) : Prop := ∃ e w, t = { s with ringE := e, ringW := w }

theorem PortsOnly.refl (s : Chip) : PortsOnly s s := ⟨s.ringE, s.ringW, rfl⟩

theorem PortsOnly.trans {s t u : Chip} (h1 : PortsOnly s t) (h2 : PortsOnly t u) : PortsOnly s u := by
  obtain ⟨e, w, rfl⟩ := h1
  obtain ⟨e', w', rfl⟩ := h2
  exact ⟨e', w', rfl⟩

theorem PortsOnly.setPort (s : Chip) (p : Port) (t : PortSt) : PortsOnly s (s.setPort p t) := by
  cases p
  · exact ⟨t, s.ringW, rfl⟩
  · exact ⟨s.ringE, t, rfl⟩

theorem PortsOnly.forAll {α : Type} (l : List α) (f : α → Chip → Chip) (h : ∀ a s, PortsOnly s (f a s)) (s : Chip) :
    PortsOnly s (forAll l f s) := by
  unfold Sys2Proof.Machine.forAll
  induction l generalizing s with
  | nil => exact PortsOnly.refl s
  | cons a l ih => exact (h a s).trans (ih _)

theorem gainTokens_portsOnly (n : Nat) (s : Chip) : PortsOnly s (gainTokens n s) :=
  PortsOnly.forAll _ _ (fun p t => PortsOnly.forAll (List.range 4) _ (fun _ u => PortsOnly.setPort u p _) t) s

/-- The hits that enter the merged stream touch what data at the measures and conditions touch. -/
theorem mergeUpTo_feeds (due : Merging → Bool) (s : Chip) : Feeds s (mergeUpTo due s) := by
  unfold mergeUpTo
  exact (Feeds.parts s s.meas s.srcs _ s.sc).trans (Feeds.forAll _ _ (fun m _ u => triggerHit_feeds _ _ _ u) _)

/-- With no hit due nothing enters the merged stream. -/
theorem mergeUpTo_none (due : Merging → Bool) (s : Chip) (h : ∀ m ∈ s.trg.merge, due m = false) : mergeUpTo due s = s := by
  unfold mergeUpTo
  have hl : (s.trg.merge.reverse.takeWhile fun m => !due m) = s.trg.merge.reverse := by
    rw [List.takeWhile_eq_self_iff]
    intro m hm
    simp [h m (List.mem_reverse.mp hm)]
  simp [hl, Sys2Proof.Machine.forAll]

/-- With no edge waiting the interval channels take none. -/
theorem drainTips_rest (s : Chip) (h : ∀ n, n < 8 → (s.ti n).queue = []) : drainTips s = s := by
  have hq : ((List.range 8).any fun n => (s.ti n).queue.any fun e => decide ((e.1 : Int) < s.tiHorizon)) = false := by
    rw [List.any_eq_false]
    intro n hn
    simp [h n (List.mem_range.mp hn)]
  unfold drainTips
  simp only [hq, Bool.false_eq_true, if_false]

/-- What due hits do where no edge waits. -/
theorem mergeAndDrain_feeds (u : Chip) (h : ∀ i, i < 8 → (u.ti i).queue = []) : Feeds u (drainTips (mergeDue u)) := by
  have hf : Feeds u (mergeDue u) := mergeUpTo_feeds _ u
  rw [drainTips_rest]
  · exact hf
  · intro i hi
    have : (mergeDue u).tis = u.tis := congrArg (fun c => c.tis) hf.rest
    show (Table.get _ (mergeDue u).tis i).queue = []
    rw [this]
    exact h i hi

/-- With no hit due and no edge waiting, nothing. -/
theorem mergeAndDrain_rest (u : Chip) (h : ∀ i, i < 8 → (u.ti i).queue = [])
    (hm : ∀ m ∈ u.trg.merge, u.cclkNow < m.since + mergeCclk) : drainTips (mergeDue u) = u := by
  have hd : mergeDue u = u := mergeUpTo_none _ _ fun m hx => by
    have := hm m hx
    rw [decide_eq_false_iff_not]
    omega
  rw [hd, drainTips_rest u h]

/-- The chip after n CCLK in which no hit enters the merged stream and no edge is taken. -/
def passed (n : Nat) (e w : PortSt) (st : Store) (s : Chip) : Chip :=
  { newCycle { s with clk := { s.clk with cclk := s.clk.cclk + n } } with ringE := e, ringW := w, store := st }

/-- The passing of n CCLK: the CCLK counter, the ports and the store's backlog move, and due hits and edges go on. -/
theorem passCclk_eq (n : Nat) (s : Chip) : ∃ e w st,
    passCclk n s = if s.up then drainTips (mergeDue (passed n e w st s)) else passed n e w st s := by
  unfold passCclk
  dsimp only
  split
  · obtain ⟨e, w, hg⟩ := gainTokens_portsOnly n (newCycle { s with clk := { s.clk with cclk := s.clk.cclk + n } })
    rw [hg]
    exact ⟨e, w, _, rfl⟩
  · exact ⟨s.ringE, s.ringW, s.store, rfl⟩

/-- The passing of n CCLK with no edge waiting. -/
theorem passCclk_feeds (n : Nat) (s : Chip) (h : ∀ i, i < 8 → (s.ti i).queue = []) :
    ∃ e w st, Feeds (passed n e w st s) (passCclk n s) := by
  obtain ⟨e, w, st, hp⟩ := passCclk_eq n s
  refine ⟨e, w, st, ?_⟩
  rw [hp]
  split
  · exact mergeAndDrain_feeds _ h
  · exact Feeds.refl _

/-- The same with no hit due. -/
theorem passCclk_only (n : Nat) (s : Chip) (h : ∀ i, i < 8 → (s.ti i).queue = [])
    (hm : ∀ m ∈ s.trg.merge, s.cclkNow + n < m.since + mergeCclk) : ∃ e w st, passCclk n s = passed n e w st s := by
  obtain ⟨e, w, st, hp⟩ := passCclk_eq n s
  refine ⟨e, w, st, ?_⟩
  rw [hp, mergeAndDrain_rest (passed n e w st s) h (fun m hx => ?_), ite_self]
  have := hm m hx
  show s.clk.cc + (s.clk.cclk + n) < _
  unfold Chip.cclkNow at this
  omega

end Sys2Proof.Machine
end

