-- ==== Sys2Proof/Laws/Keeps.lean ====
section
/-! SUPPORT. The frame that most commands of the outside world share (Keeps), and what the operations over the ports keep. -/

namespace Sys2Proof.Machine

theorem pages_false {l : List Nat} {a : Nat} (h : pages l a = false) : shipAddr a = false ∧ (a / 4096) ∉ l := by
  unfold pages at h
  simp only [Bool.or_eq_false_iff] at h
  exact ⟨h.1, by simpa using h.2⟩

theorem Keeps.refl (l : List Nat) (s : Chip) : Keeps l s s :=
  ⟨rfl, rfl, rfl, rfl, rfl, fun _ _ => rfl, fun _ _ h => h, rfl, rfl, rfl⟩

theorem Keeps.trans {l : List Nat} {s t u : Chip} (h1 : Keeps l s t) (h2 : Keeps l t u) : Keeps l s u :=
  ⟨h2.active.trans h1.active, h2.shadow.trans h1.shadow, h2.old1.trans h1.old1, h2.old2.trans h1.old2, h2.before.trans h1.before,
    fun a ha => (h2.direct a ha).trans (h1.direct a ha), fun e he h => h2.events e he (h1.events e he h),
    h2.clk.trans h1.clk, h2.rst.trans h1.rst, h2.cmd.trans h1.cmd⟩

theorem Ships.keeps {s t : Chip} (l : List Nat) (h : Ships s t) : Keeps l s t :=
  ⟨h.active, h.shadow, h.old1, h.old2, h.before, fun a ha => h.direct a (pages_false ha).1, h.events, h.clk, h.rst, h.cmd⟩

theorem Announces.keeps {s t : Chip} (l : List Nat) (h : Announces s t) : Keeps l s t := h.ships.keeps l

theorem raise_keeps (l : List Nat) (e : Nat) (he : e < 384) (s : Chip) : Keeps l s (raise e s) := (raise_announces e he s).keeps l

theorem Keeps.setFld (l : List Nat) (s : Chip) (f : Fld) (v : Nat) (h : pages l f.addr = true) (hs : statAddr f.addr = false) :
    Keeps l s (s.setFld f v) :=
  ⟨rfl, rfl, rfl, rfl, rfl, fun a ha => Chip.setFld_direct_ne _ _ _ _ (by intro e; rw [e, ha] at h; cases h),
    fun e he h' => by rw [eventSeen_setFld s f v e he hs]; exact h', rfl, rfl, rfl⟩

theorem Keeps.forAll {α : Type} (l : List Nat) (xs : List α) (f : α → Chip → Chip) (h : ∀ a ∈ xs, ∀ s, Keeps l s (f a s)) (s : Chip) :
    Keeps l s (forAll xs f s) := by
  unfold Sys2Proof.Machine.forAll
  induction xs generalizing s with
  | nil => exact Keeps.refl l s
  | cons a xs ih => exact (h a (by simp) s).trans (ih (fun b hb => h b (by simp [hb])) _)

/-- A register outside the pages reads as before. -/
theorem Keeps.fld {l : List Nat} {s t : Chip} (h : Keeps l s t) (f : Fld) (hf : pages l f.addr = false) : t.fld f = s.fld f :=
  Chip.fld_congr _ _ f h.active (h.direct _ hf)

theorem Keeps.flag {l : List Nat} {s t : Chip} (h : Keeps l s t) (f : Fld) (hf : pages l f.addr = false) : t.flag f = s.flag f := by
  unfold Chip.flag; rw [h.fld f hf]

/-- A change of anything but registers, the clock, the resets and the command engine. -/
theorem Keeps.same {l : List Nat} {s t : Chip} (hr : t.regs = s.regs) (hc : t.clk = s.clk) (ht : t.rst = s.rst)
    (hm : t.cmd = s.cmd) : Keeps l s t := by
  have he : ∀ e, t.eventSeen e = s.eventSeen e := fun e => by unfold Chip.eventSeen Chip.fld; rw [hr]
  exact ⟨by rw [hr], by rw [hr], by rw [hr], by rw [hr], by rw [hr], fun a _ => by rw [hr], fun e _ h => by rw [he]; exact h, hc, ht, hm⟩

/-! ### Ports and lanes -/

theorem setLane_keeps (l : List Nat) (s : Chip) (p : Port) (x : LaneSt) : Keeps l s (s.setLane p x) := by
  cases p <;> exact Keeps.same rfl rfl rfl rfl

theorem setExch_keeps (l : List Nat) (s : Chip) (p : Port) (x : Exch) : Keeps l s (s.setExch p x) := by
  cases p <;> exact Keeps.same rfl rfl rfl rfl

theorem setPort_keeps (l : List Nat) (s : Chip) (p : Port) (x : PortSt) : Keeps l s (s.setPort p x) := by
  cases p <;> exact Keeps.same rfl rfl rfl rfl

theorem freeEgress_keeps (l : List Nat) (q : TxPkt) (s : Chip) : Keeps l s (freeEgress q s) := by
  unfold freeEgress
  split
  · exact Keeps.refl l s
  · exact (freeObj_ships _ _ _).keeps l
  · exact Keeps.refl l s

theorem loseAll_keeps (l : List Nat) (p : Port) (qs : List TxPkt) (s : Chip) : Keeps l s (loseAll p qs s) :=
  (Keeps.setFld l s _ _ (by cases p <;> simp [pages, shipAddr, announceAddr, F.RN_LOST_COUNT, Port.ix]) (by cases p <;> rfl)).trans
    (Keeps.forAll l qs _ (fun q _ u => freeEgress_keeps l q u) _)

theorem portDown_keeps (l : List Nat) (p : Port) (s : Chip) : Keeps l s (portDown p s) := by
  unfold portDown
  extract_lets t s1 pp s2 pq qs
  have h0 : Keeps l s (s.bumpBy (F.RN_LOST_COUNT p.ix) t.rx.length) := Keeps.setFld l s _ _
    (by cases p <;> simp [pages, shipAddr, announceAddr, F.RN_LOST_COUNT, Port.ix]) (by cases p <;> rfl)
  have h2 : Keeps l s s2 := (h0.trans (loseAll_keeps l p _ _)).trans (setPort_keeps l _ p _)
  split
  · exact h2.trans ((startWrap_announces raise_quiet p _).keeps l)
  · exact h2.trans ((setPort_keeps l _ p _).trans (loseAll_keeps l p _ _))

/-- A port that leaves TRAINED touches the LN and RNG registers, and raises events. -/
theorem leaveTrained_keeps (p : Port) (s : Chip) : Keeps [4 + p.ix] s (leaveTrained p s) := by
  have hf : ∀ f : Fld, (f = F.LN_STAT_MODE_BUSY p.ix ∨ f = F.LN_STAT_STATE p.ix ∨ f = F.LN_LOSS_CNT_LINK_DOWN p.ix) →
      pages [4 + p.ix] f.addr = true ∧ statAddr f.addr = false := by
    intro f hf
    rcases hf with rfl | rfl | rfl <;> cases p <;> decide
  unfold leaveTrained
  extract_lets x s0 e1 s1 s2 s3 r
  have h1 : Keeps [4 + p.ix] s s1 := ((setLane_keeps _ s p _).trans
    (Keeps.setFld _ _ _ _ (hf _ (Or.inl rfl)).1 (hf _ (Or.inl rfl)).2)).trans (setExch_keeps _ _ p _)
  have h2 : Keeps [4 + p.ix] s1 s2 :=
    (Keeps.setFld _ _ _ _ (hf _ (by simp)).1 (hf _ (by simp)).2).trans (portDown_keeps _ p _)
  have h3 : Keeps [4 + p.ix] s2 s3 :=
    (Keeps.setFld _ _ _ _ (hf _ (by simp)).1 (hf _ (by simp)).2).trans (raise_keeps _ _ (by cases p <;> decide) _)
  split
  · exact h1.trans (h2.trans (h3.trans (Keeps.same rfl rfl rfl rfl)))
  · exact h1

theorem startTraining_keeps (p : Port) (s : Chip) : Keeps [4 + p.ix] s (startTraining p s) := by
  have hf : ∀ f : Fld, (f = F.LN_STAT_LANE_LOCK p.ix ∨ f = F.LN_STAT_LMASK_RX p.ix ∨ f = F.LN_STAT_RXOK_PART p.ix
      ∨ f = F.LN_STAT_STATE p.ix ∨ f = F.LN_STAT_LMASK_TX p.ix) → pages [4 + p.ix] f.addr = true ∧ statAddr f.addr = false := by
    intro f hf
    rcases hf with rfl | rfl | rfl | rfl | rfl <;> cases p <;> decide
  have hs : ∀ (f : Fld) (v : Nat) (u : Chip), (f = F.LN_STAT_LANE_LOCK p.ix ∨ f = F.LN_STAT_LMASK_RX p.ix
      ∨ f = F.LN_STAT_RXOK_PART p.ix ∨ f = F.LN_STAT_STATE p.ix ∨ f = F.LN_STAT_LMASK_TX p.ix) → Keeps [4 + p.ix] u (u.setFld f v) :=
    fun f v u h => Keeps.setFld _ _ _ _ (hf f h).1 (hf f h).2
  have h0 : Keeps [4 + p.ix] s ((leaveTrained p s).setLane p { (leaveTrained p s).lane p with rxok := 0, wide := 0 }) :=
    (leaveTrained_keeps p s).trans (setLane_keeps _ _ p _)
  unfold startTraining setLnState
  dsimp only
  generalize (leaveTrained p s).setLane p _ = s1 at h0 ⊢
  have h2 := h0.trans ((hs (F.LN_STAT_LANE_LOCK p.ix) 0 _ (by simp)).trans ((hs (F.LN_STAT_LMASK_RX p.ix) 0 _ (by simp)).trans
    (hs (F.LN_STAT_RXOK_PART p.ix) 0 _ (by simp))))
  split
  · exact h2.trans ((hs (F.LN_STAT_STATE p.ix) _ _ (by simp)).trans (hs (F.LN_STAT_LMASK_TX p.ix) _ _ (by simp)))
  · exact h2.trans ((hs (F.LN_STAT_LMASK_TX p.ix) _ _ (by simp)).trans (hs (F.LN_STAT_STATE p.ix) _ _ (by simp)))

end Sys2Proof.Machine
end

