-- ==== Sys2Proof/WellFormed.lean ====
section
/-! DEFINITION. Well-formed commands: the limits that the spec sets to what a sender can put on the ring, on the side port or
on a lane and that the types of Syntax.lean do not hold already. The meanings are total and do not rely on them. -/

namespace Sys2Proof

/-- A complete packet fits the ten bits of LEN (R302). -/
def Packet.wf (q : Packet) : Bool := decide (q.words.length < 1024)

/-- A payload fits the ten bits of PLEN (R354). -/
def payloadWf (ws : List W64) : Bool := decide (ws.length < 1024)

/-- The well-formed commands. -/
def Instr.wf : Instr → Bool
  | .firePacket _ q _ => q.wf
  | .armPacket _ q => q.wf
  | .ringPacketReceived _ q _ => q.wf
  | .credit _ q => q.wf
  | .timePacket _ q _ => q.wf
  | .storeAck _ q => q.wf
  | .cmdPacket _ q => q.wf
  | .pairHeartbeat _ q => q.wf
  | .mirror _ q => q.wf
  | .wrb _ _ ws => payloadWf ws
  | .protWr _ ws => payloadWf ws
  | .laneAlignDone _ leads _ _ => decide (leads.length = 4)
  | .sidePortCommand bytes => decide (bytes.length ≤ 8 * 1025)
  | .sidePortUnknown b => b != 0x5C#8 && b != 0x5A#8
  | _ => true

end Sys2Proof
end

