-- ==== Sys2Proof/Laws/PerInstr.lean ====
section
/-! SUPPORT. What holds of every constructor of Instr, one lemma each. RowWords: the command that a well-formed row spells has a header
and a CRC word, and at most 1,023 payload words between them (R354, R355; one word more where the row makes LEN wrong). -/

namespace Sys2Proof.Laws

/-- The words of the command that a row spells. -/
def RowWords.Statement (i : Instr) : Prop :=
  ∀ c, Machine.rowCommand i = some c → i.wf = true → 2 ≤ c.words.length ∧ c.words.length ≤ 1026 ∧ c.excess = false

theorem RowWords.none (i : Instr) (h : Machine.rowCommand i = none) : RowWords.Statement i := by
  intro c hc
  rw [h] at hc
  cases hc

theorem RowWords.of (i : Instr) (h : CmdHead) (op addr : Nat) (pl : List W64) (hr : Machine.rowCommand i = some (Machine.cmdOf h op addr pl))
    (hl : i.wf = true → pl.length < 1024) : RowWords.Statement i := by
  intro c hc hw
  rw [hr] at hc
  obtain rfl := Option.some.inj hc
  have := hl hw
  rw [Machine.cmdOf_length]
  refine ⟨by omega, by split <;> omega, rfl⟩

theorem RowWords.localFrameTick : RowWords.Statement .localFrameTick := RowWords.none _ rfl
theorem RowWords.trefLost (ago : Fin 40) : RowWords.Statement (.trefLost ago) := RowWords.none _ rfl
theorem RowWords.trefRestored : RowWords.Statement .trefRestored := RowWords.none _ rfl
theorem RowWords.tpllUnlock : RowWords.Statement .tpllUnlock := RowWords.none _ rfl
theorem RowWords.hitLeadingEdge (row col : Fin 256) (sub : Fin 512) : RowWords.Statement (.hitLeadingEdge row col sub) := RowWords.none _ rfl
theorem RowWords.trailingEdge (row col : Fin 256) (sub : Fin 512) : RowWords.Statement (.trailingEdge row col sub) := RowWords.none _ rfl
theorem RowWords.tdcConversionDone (p : Fin 1024) (tdc : Fin 2) (startF1 startF2 stopF1 stopF2 : Fin 16) (order : Bool) : RowWords.Statement (.tdcConversionDone p tdc startF1 startF2 stopF1 stopF2 order) := RowWords.none _ rfl
theorem RowWords.tdcSaturationClose (p : Fin 1024) (tdc : Fin 2) : RowWords.Statement (.tdcSaturationClose p tdc) := RowWords.none _ rfl
theorem RowWords.stalledRecordWrite (p : Fin 1024) (tdc : Fin 2) : RowWords.Statement (.stalledRecordWrite p tdc) := RowWords.none _ rfl
theorem RowWords.pixelRearm (row col : Fin 256) : RowWords.Statement (.pixelRearm row col) := RowWords.none _ rfl
theorem RowWords.lawnSettlingEnd : RowWords.Statement .lawnSettlingEnd := RowWords.none _ rfl
theorem RowWords.lawnStuck (row col : Fin 256) : RowWords.Statement (.lawnStuck row col) := RowWords.none _ rfl
theorem RowWords.testPulseInjection (tclk : Fin 2) : RowWords.Statement (.testPulseInjection tclk) := RowWords.none _ rfl
theorem RowWords.lawnTpDone : RowWords.Statement .lawnTpDone := RowWords.none _ rfl
theorem RowWords.lawnDllUnlock (p : Fin 1024) (tdc : Fin 2) : RowWords.Statement (.lawnDllUnlock p tdc) := RowWords.none _ rfl
theorem RowWords.tdcDllRelock (p : Fin 1024) (tdc : Fin 2) (code : Fin 256) : RowWords.Statement (.tdcDllRelock p tdc code) := RowWords.none _ rfl
theorem RowWords.verticalLinkTransfer (h : Fin 32) : RowWords.Statement (.verticalLinkTransfer h) := RowWords.none _ rfl
theorem RowWords.follyRecord (p : Fin 1024) (tclk : Fin 2) : RowWords.Statement (.follyRecord p tclk) := RowWords.none _ rfl
theorem RowWords.hedgeCorrection (h : Fin 32) : RowWords.Statement (.hedgeCorrection h) := RowWords.none _ rfl
theorem RowWords.reorderRelease (h : Fin 32) : RowWords.Statement (.reorderRelease h) := RowWords.none _ rfl
theorem RowWords.storeBandwidthGrant : RowWords.Statement .storeBandwidthGrant := RowWords.none _ rfl
theorem RowWords.queueSpaceFreed (region : Fin 10) : RowWords.Statement (.queueSpaceFreed region) := RowWords.none _ rfl
theorem RowWords.firePacket (port : Port) (pkt : Packet) (first : Nat) : RowWords.Statement (.firePacket port pkt first) := RowWords.none _ rfl
theorem RowWords.fire (h : CmdHead) (w0 w1 w2 : W64) : RowWords.Statement (.fire h w0 w1 w2) := RowWords.of _ h _ _ _ rfl (fun _ => by simp)
theorem RowWords.firePendingDue : RowWords.Statement .firePendingDue := RowWords.none _ rfl
theorem RowWords.armPacket (port : Port) (pkt : Packet) : RowWords.Statement (.armPacket port pkt) := RowWords.none _ rfl
theorem RowWords.arm (h : CmdHead) (w0 : W64) : RowWords.Statement (.arm h w0) := RowWords.of _ h _ _ _ rfl (fun _ => by simp)
theorem RowWords.force (h : CmdHead) (w0 : W64) : RowWords.Statement (.force h w0) := RowWords.of _ h _ _ _ rfl (fun _ => by simp)
theorem RowWords.autoTrigger (out : Fin 8) : RowWords.Statement (.autoTrigger out) := RowWords.none _ rfl
theorem RowWords.waveformConversion (ch : Fin 4) (v : Int) : RowWords.Statement (.waveformConversion ch v) := RowWords.none _ rfl
theorem RowWords.wavSettlingEnd (ch : Fin 4) : RowWords.Statement (.wavSettlingEnd ch) := RowWords.none _ rfl
theorem RowWords.xdcPassStart : RowWords.Statement .xdcPassStart := RowWords.none _ rfl
theorem RowWords.xdcFilterReset : RowWords.Statement .xdcFilterReset := RowWords.none _ rfl
theorem RowWords.xdcOutputComplete (v : Int) (limit : Option Bool) (xdref : Fin 2000001) : RowWords.Statement (.xdcOutputComplete v limit xdref) := RowWords.none _ rfl
theorem RowWords.excitationPulseEnd : RowWords.Statement .excitationPulseEnd := RowWords.none _ rfl
theorem RowWords.xdcOpen (tclk : Fin 2) : RowWords.Statement (.xdcOpen tclk) := RowWords.none _ rfl
theorem RowWords.xdcUrgReq (h : CmdHead) (req : Fin 16) : RowWords.Statement (.xdcUrgReq h req) := RowWords.of _ h _ _ _ rfl (fun _ => by simp)
theorem RowWords.xdcResult : RowWords.Statement .xdcResult := RowWords.none _ rfl
theorem RowWords.tiEdge (n : Fin 8) (rising : Bool) (tclk : Fin 2) (f1 f2 : Fin 16) : RowWords.Statement (.tiEdge n rising tclk f1 f2) := RowWords.none _ rfl
theorem RowWords.tiTimeout (k : Fin 4) : RowWords.Statement (.tiTimeout k) := RowWords.none _ rfl
theorem RowWords.frequencyGateEnd (k : Fin 4) : RowWords.Statement (.frequencyGateEnd k) := RowWords.none _ rfl
theorem RowWords.pulseStart (j : Fin 8) : RowWords.Statement (.pulseStart j) := RowWords.none _ rfl
theorem RowWords.pulseEnd (j : Fin 8) : RowWords.Statement (.pulseEnd j) := RowWords.none _ rfl
theorem RowWords.ftoRise : RowWords.Statement .ftoRise := RowWords.none _ rfl
theorem RowWords.ftoFall : RowWords.Statement .ftoFall := RowWords.none _ rfl
theorem RowWords.calStart (h : CmdHead) (mask : Fin 256) : RowWords.Statement (.calStart h mask) := RowWords.of _ h _ _ _ rfl (fun _ => by simp)
theorem RowWords.calAbort (h : CmdHead) (mask : Fin 256) : RowWords.Statement (.calAbort h mask) := RowWords.of _ h _ _ _ rfl (fun _ => by simp)
theorem RowWords.calIntervalStart (i : Fin 8) : RowWords.Statement (.calIntervalStart i) := RowWords.none _ rfl
theorem RowWords.calRunEnd (i : Fin 8) : RowWords.Statement (.calRunEnd i) := RowWords.none _ rfl
theorem RowWords.theqDwellEnd (p : Fin 1024) : RowWords.Statement (.theqDwellEnd p) := RowWords.none _ rfl
theorem RowWords.calTdcInjection (p : Fin 1024) : RowWords.Statement (.calTdcInjection p) := RowWords.none _ rfl
theorem RowWords.calPulseInjection (p : Fin 1024) : RowWords.Statement (.calPulseInjection p) := RowWords.none _ rfl
theorem RowWords.sliceWindowEnd (slice : Fin 8) : RowWords.Statement (.sliceWindowEnd slice) := RowWords.none _ rfl
theorem RowWords.sliceFallbackEnd : RowWords.Statement .sliceFallbackEnd := RowWords.none _ rfl
theorem RowWords.calApply (h : CmdHead) (w0 : W64) : RowWords.Statement (.calApply h w0) := RowWords.of _ h _ _ _ rfl (fun _ => by simp)
theorem RowWords.calRampStep : RowWords.Statement .calRampStep := RowWords.none _ rfl
theorem RowWords.measureBlockBoundary (rw : Fin 6) : RowWords.Statement (.measureBlockBoundary rw) := RowWords.none _ rfl
theorem RowWords.safetyRelease (s : Fin 16) : RowWords.Statement (.safetyRelease s) := RowWords.none _ rfl
theorem RowWords.loopSafeLatchWrite (h : CmdHead) (latch : Fin 65536) : RowWords.Statement (.loopSafeLatchWrite h latch) := RowWords.of _ h _ _ _ rfl (fun _ => by simp)
theorem RowWords.loopCtlForce (h : CmdHead) (forceA forceB : Bool) : RowWords.Statement (.loopCtlForce h forceA forceB) := RowWords.of _ h _ _ _ rfl (fun _ => by simp)
theorem RowWords.streamBlockClose (ch : Fin 16) (lane : Fin 8) : RowWords.Statement (.streamBlockClose ch lane) := RowWords.none _ rfl
theorem RowWords.cstageRoom (ch : Fin 16) (lane : Fin 8) : RowWords.Statement (.cstageRoom ch lane) := RowWords.none _ rfl
theorem RowWords.lanePllLock (port : Port) : RowWords.Statement (.lanePllLock port) := RowWords.none _ rfl
theorem RowWords.pllUnlock (port : Port) : RowWords.Statement (.pllUnlock port) := RowWords.none _ rfl
theorem RowWords.laneAcquireDone (port : Port) (lanes : Fin 16) : RowWords.Statement (.laneAcquireDone port lanes) := RowWords.none _ rfl
theorem RowWords.laneAdaptDone (port : Port) (eq0 eq1 eq2 eq3 : EqTaps) : RowWords.Statement (.laneAdaptDone port eq0 eq1 eq2 eq3) := RowWords.none _ rfl
theorem RowWords.laneAlignDone (port : Port) (leads : List Nat) (latTx latRx : Fin 65536) : RowWords.Statement (.laneAlignDone port leads latTx latRx) := RowWords.none _ rfl
theorem RowWords.alignmentMarker (port : Port) (lane : Fin 4) (found : Bool) (payload : W64) : RowWords.Statement (.alignmentMarker port lane found payload) := RowWords.none _ rfl
theorem RowWords.laneSignalLoss (port : Port) (lane : Fin 4) : RowWords.Statement (.laneSignalLoss port lane) := RowWords.none _ rfl
theorem RowWords.hiber (port : Port) (lane : Fin 4) : RowWords.Statement (.hiber port lane) := RowWords.none _ rfl
theorem RowWords.fallback (port : Port) : RowWords.Statement (.fallback port) := RowWords.none _ rfl
theorem RowWords.adaptFreeze (port : Port) (lane : Fin 4) : RowWords.Statement (.adaptFreeze port lane) := RowWords.none _ rfl
theorem RowWords.belvedereScan (port : Port) (lane : Fin 4) (ew : Fin 65) (eh : Fin 33) : RowWords.Statement (.belvedereScan port lane ew eh) := RowWords.none _ rfl
theorem RowWords.laneNarrow (port : Port) : RowWords.Statement (.laneNarrow port) := RowWords.none _ rfl
theorem RowWords.laneWiden (port : Port) : RowWords.Statement (.laneWiden port) := RowWords.none _ rfl
theorem RowWords.modeTimeout (port : Port) : RowWords.Statement (.modeTimeout port) := RowWords.none _ rfl
theorem RowWords.join (h : CmdHead) : RowWords.Statement (.join h) := RowWords.of _ h _ _ _ rfl (fun _ => by simp)
theorem RowWords.leave (h : CmdHead) : RowWords.Statement (.leave h) := RowWords.of _ h _ _ _ rfl (fun _ => by simp)
theorem RowWords.retrain (h : CmdHead) (ports : Fin 4) (rate : Bool) : RowWords.Statement (.retrain h ports rate) := RowWords.of _ h _ _ _ rfl (fun _ => by simp)
theorem RowWords.laneCtlMode (h : CmdHead) (ports : Fin 4) (mode : Fin 4) : RowWords.Statement (.laneCtlMode h ports mode) := RowWords.of _ h _ _ _ rfl (fun _ => by simp)
theorem RowWords.laneCtlLoop (h : CmdHead) (ports : Fin 4) (code : Fin 4) : RowWords.Statement (.laneCtlLoop h ports code) := RowWords.of _ h _ _ _ rfl (fun _ => by simp)
theorem RowWords.laneCtlPrbs (h : CmdHead) (ports : Fin 4) (on : Bool) : RowWords.Statement (.laneCtlPrbs h ports on) := RowWords.of _ h _ _ _ rfl (fun _ => by simp)
theorem RowWords.ringAutoleave : RowWords.Statement .ringAutoleave := RowWords.none _ rfl
theorem RowWords.ringPacketReceived (port : Port) (pkt : Packet) (first : Nat) : RowWords.Statement (.ringPacketReceived port pkt first) := RowWords.none _ rfl
theorem RowWords.packetAdmission (port : Port) (cls : Fin 4) : RowWords.Statement (.packetAdmission port cls) := RowWords.none _ rfl
theorem RowWords.rngDropped (port : Port) (cls : Fin 4) : RowWords.Statement (.rngDropped port cls) := RowWords.none _ rfl
theorem RowWords.credit (port : Port) (pkt : Packet) : RowWords.Statement (.credit port pkt) := RowWords.none _ rfl
theorem RowWords.rngCreditLapsed : RowWords.Statement .rngCreditLapsed := RowWords.none _ rfl
theorem RowWords.ringUnwrap (port : Port) : RowWords.Statement (.ringUnwrap port) := RowWords.none _ rfl
theorem RowWords.timeInit (port : Port) : RowWords.Statement (.timeInit port) := RowWords.none _ rfl
theorem RowWords.timePacket (port : Port) (pkt : Packet) (first : Nat) : RowWords.Statement (.timePacket port pkt first) := RowWords.none _ rfl
theorem RowWords.timeSet (h : CmdHead) (w0 w1 : W64) : RowWords.Statement (.timeSet h w0 w1) := RowWords.of _ h _ _ _ rfl (fun _ => by simp)
theorem RowWords.timeAdjStep (h : CmdHead) (w0 w1 : W64) : RowWords.Statement (.timeAdjStep h w0 w1) := RowWords.of _ h _ _ _ rfl (fun _ => by simp)
theorem RowWords.timeAdjSlew (h : CmdHead) (w0 w1 : W64) : RowWords.Statement (.timeAdjSlew h w0 w1) := RowWords.of _ h _ _ _ rfl (fun _ => by simp)
theorem RowWords.storeObjectPlace : RowWords.Statement .storeObjectPlace := RowWords.none _ rfl
theorem RowWords.storeAck (port : Port) (pkt : Packet) : RowWords.Statement (.storeAck port pkt) := RowWords.none _ rfl
theorem RowWords.storeItemTimeout (index : Bool) (cseq : BitVec 32) : RowWords.Statement (.storeItemTimeout index cseq) := RowWords.none _ rfl
theorem RowWords.storeCtlLock (h : CmdHead) (first last : Fin 262144) : RowWords.Statement (.storeCtlLock h first last) := RowWords.of _ h _ _ _ rfl (fun _ => by simp)
theorem RowWords.storeCtlUnlock (h : CmdHead) (first last : Fin 262144) : RowWords.Statement (.storeCtlUnlock h first last) := RowWords.of _ h _ _ _ rfl (fun _ => by simp)
theorem RowWords.storeCtlFree (h : CmdHead) (first last : Fin 262144) : RowWords.Statement (.storeCtlFree h first last) := RowWords.of _ h _ _ _ rfl (fun _ => by simp)
theorem RowWords.storeCtlResync (h : CmdHead) (first last : Fin 262144) : RowWords.Statement (.storeCtlResync h first last) := RowWords.of _ h _ _ _ rfl (fun _ => by simp)
theorem RowWords.stoNextWrite (h : CmdHead) (extent : Fin 262144) : RowWords.Statement (.stoNextWrite h extent) := RowWords.of _ h _ _ _ rfl (fun _ => by simp)
theorem RowWords.stoTblWinWrite (h : CmdHead) (k : Fin 512) (data : W32) : RowWords.Statement (.stoTblWinWrite h k data) := RowWords.of _ h _ _ _ rfl (fun _ => by simp)
theorem RowWords.cmdPacket (port : Port) (pkt : Packet) : RowWords.Statement (.cmdPacket port pkt) := RowWords.none _ rfl
theorem RowWords.sidePortCommand (bytes : List Byte) : RowWords.Statement (.sidePortCommand bytes) := RowWords.none _ rfl
theorem RowWords.sidePortStatusFetch (bytes : Nat) : RowWords.Statement (.sidePortStatusFetch bytes) := RowWords.none _ rfl
theorem RowWords.sidePortUnknown (first : Byte) : RowWords.Statement (.sidePortUnknown first) := RowWords.none _ rfl
theorem RowWords.nop (h : CmdHead) : RowWords.Statement (.nop h) := RowWords.of _ h _ _ _ rfl (fun _ => by simp)
theorem RowWords.rd (h : CmdHead) (addr : BitVec 24) : RowWords.Statement (.rd h addr) := RowWords.of _ h _ _ _ rfl (fun _ => by simp)
theorem RowWords.rdb (h : CmdHead) (addr : BitVec 24) (w0 : W64) : RowWords.Statement (.rdb h addr w0) := RowWords.of _ h _ _ _ rfl (fun _ => by simp)
theorem RowWords.wr (h : CmdHead) (addr : BitVec 24) (data : W32) : RowWords.Statement (.wr h addr data) := RowWords.of _ h _ _ _ rfl (fun _ => by simp)
theorem RowWords.wrm (h : CmdHead) (addr : BitVec 24) (mask data : W32) : RowWords.Statement (.wrm h addr mask data) := RowWords.of _ h _ _ _ rfl (fun _ => by simp)
theorem RowWords.wrb (h : CmdHead) (addr : BitVec 24) (ws : List W64) : RowWords.Statement (.wrb h addr ws) := RowWords.of _ h _ _ _ rfl (fun hw => of_decide_eq_true hw)
theorem RowWords.commit (h : CmdHead) (w0 w1 : W64) : RowWords.Statement (.commit h w0 w1) := RowWords.of _ h _ _ _ rfl (fun _ => by simp)
theorem RowWords.discard (h : CmdHead) : RowWords.Statement (.discard h) := RowWords.of _ h _ _ _ rfl (fun _ => by simp)
theorem RowWords.digest (h : CmdHead) : RowWords.Statement (.digest h) := RowWords.of _ h _ _ _ rfl (fun _ => by simp)
theorem RowWords.epoch (h : CmdHead) : RowWords.Statement (.epoch h) := RowWords.of _ h _ _ _ rfl (fun _ => by simp)
theorem RowWords.protWr (h : CmdHead) (ws : List W64) : RowWords.Statement (.protWr h ws) := RowWords.of _ h _ _ _ rfl (fun hw => of_decide_eq_true hw)
theorem RowWords.evtAck (h : CmdHead) (w0 : W64) : RowWords.Statement (.evtAck h w0) := RowWords.of _ h _ _ _ rfl (fun _ => by simp)
theorem RowWords.domainReset (h : CmdHead) (w0 : W64) : RowWords.Statement (.domainReset h w0) := RowWords.of _ h _ _ _ rfl (fun _ => by simp)
theorem RowWords.domainResetRelease : RowWords.Statement .domainResetRelease := RowWords.none _ rfl
theorem RowWords.diagWrFlip (h : CmdHead) (w0 w1 : W64) : RowWords.Statement (.diagWrFlip h w0 w1) := RowWords.of _ h _ _ _ rfl (fun _ => by simp)
theorem RowWords.diagWrPoison (h : CmdHead) (w0 w1 : W64) : RowWords.Statement (.diagWrPoison h w0 w1) := RowWords.of _ h _ _ _ rfl (fun _ => by simp)
theorem RowWords.diagWrCheck (h : CmdHead) (w0 w1 : W64) : RowWords.Statement (.diagWrCheck h w0 w1) := RowWords.of _ h _ _ _ rfl (fun _ => by simp)
theorem RowWords.switch (h : CmdHead) (w0 : W64) : RowWords.Statement (.switch h w0) := RowWords.of _ h _ _ _ rfl (fun _ => by simp)
theorem RowWords.clear (h : CmdHead) (w0 : W64) : RowWords.Statement (.clear h w0) := RowWords.of _ h _ _ _ rfl (fun _ => by simp)
theorem RowWords.configHeartbeat : RowWords.Statement .configHeartbeat := RowWords.none _ rfl
theorem RowWords.registerWrite (h : CmdHead) (addr : BitVec 24) (data : W32) : RowWords.Statement (.registerWrite h addr data) := RowWords.of _ h _ _ _ rfl (fun _ => by simp)
theorem RowWords.scrubBlockCheck : RowWords.Statement .scrubBlockCheck := RowWords.none _ rfl
theorem RowWords.digestRecheck : RowWords.Statement .digestRecheck := RowWords.none _ rfl
theorem RowWords.minLogRead (h : CmdHead) : RowWords.Statement (.minLogRead h) := RowWords.of _ h _ _ _ rfl (fun _ => by simp)
theorem RowWords.tmrFix (item : Fin 9) : RowWords.Statement (.tmrFix item) := RowWords.none _ rfl
theorem RowWords.pairHeartbeat (port : Port) (pkt : Packet) : RowWords.Statement (.pairHeartbeat port pkt) := RowWords.none _ rfl
theorem RowWords.mirror (port : Port) (pkt : Packet) : RowWords.Statement (.mirror port pkt) := RowWords.none _ rfl
theorem RowWords.pairTakeover : RowWords.Statement .pairTakeover := RowWords.none _ rfl
theorem RowWords.porstN : RowWords.Statement .porstN := RowWords.none _ rfl
theorem RowWords.wrstN : RowWords.Statement .wrstN := RowWords.none _ rfl
theorem RowWords.supplyMonitorReset : RowWords.Statement .supplyMonitorReset := RowWords.none _ rfl
theorem RowWords.resetRelease (addr : Fin 32) : RowWords.Statement (.resetRelease addr) := RowWords.none _ rfl
theorem RowWords.calRowsLoaded (us : Nat) : RowWords.Statement (.calRowsLoaded us) := RowWords.none _ rfl
theorem RowWords.memoryInitComplete (us : Nat) : RowWords.Statement (.memoryInitComplete us) := RowWords.none _ rfl
theorem RowWords.autojoin : RowWords.Statement .autojoin := RowWords.none _ rfl
theorem RowWords.eventPacket (g : Fin 12) : RowWords.Statement (.eventPacket g) := RowWords.none _ rfl
theorem RowWords.evtStatClear (h : CmdHead) (g : Fin 12) (mask : W32) : RowWords.Statement (.evtStatClear h g mask) := RowWords.of _ h _ _ _ rfl (fun _ => by simp)
theorem RowWords.glbTempUpdate (temp : Int) : RowWords.Statement (.glbTempUpdate temp) := RowWords.none _ rfl
theorem RowWords.lowWordRead (h : CmdHead) (addr : BitVec 24) : RowWords.Statement (.lowWordRead h addr) := RowWords.of _ h _ _ _ rfl (fun _ => by simp)
theorem RowWords.timFrameIdxRead (h : CmdHead) : RowWords.Statement (.timFrameIdxRead h) := RowWords.of _ h _ _ _ rfl (fun _ => by simp)
theorem RowWords.stuckCntRead (h : CmdHead) : RowWords.Statement (.stuckCntRead h) := RowWords.of _ h _ _ _ rfl (fun _ => by simp)
theorem RowWords.tpllLock (us : Nat) : RowWords.Statement (.tpllLock us) := RowWords.none _ rfl
theorem RowWords.trefPresent : RowWords.Statement .trefPresent := RowWords.none _ rfl
theorem RowWords.blockBoundary (port : Port) : RowWords.Statement (.blockBoundary port) := RowWords.none _ rfl
theorem RowWords.ringBlockReceived (port : Port) (lane : Fin 4) (sync : BitVec 2) (payload : W64) : RowWords.Statement (.ringBlockReceived port lane sync payload) := RowWords.none _ rfl
theorem RowWords.trstN : RowWords.Statement .trstN := RowWords.none _ rfl
theorem RowWords.tck (tms tdi : Bool) : RowWords.Statement (.tck tms tdi) := RowWords.none _ rfl

end Sys2Proof.Laws
end

