-- ==== Sys2Proof/Laws/Rows.lean ====
section
/-! SUPPORT. Laws of the rows of the command engine: what their being accepted says of their words, and what their opcodes run. -/

namespace Sys2Proof.Machine

/-- An accepted command has the length that its PLEN says. -/
theorem taken_len {i : Instr} {s : State} {h : CmdHead} {op addr : Nat} {pl : List W64} (ht : Taken i s)
    (hr : rowCommand i = some (cmdOf h op addr pl)) (ho : op < 256) (hp : pl.length < 1024) : h.lenOk = true := by
  obtain ⟨c, hc, ha⟩ := ht
  rw [hr] at hc
  injection hc with hc
  subst hc
  have := ha.checked
  rw [checkCommand_cmdOf h op addr pl s.chip ho hp] at this
  by_contra hl
  have hl : h.lenOk = false := by simpa using hl
  split at this
  · cases this
  · split at this
    · cases this
    · split at this
      · cases this
      · rename_i lens _
        have : s.chip.badLen (cmdOf h op addr pl) lens = true := by
          unfold Chip.badLen
          rw [cmdOf_plen h op addr pl hp, cmdOf_length]
          simp [hl]
        simp_all

/-- The payload of an accepted command fits PLEN. -/
theorem taken_plen {i : Instr} {s : State} {h : CmdHead} {op addr : Nat} {pl : List W64} (ht : Taken i s)
    (hr : rowCommand i = some (cmdOf h op addr pl)) (_ : op < 256) : pl.length < 1024 := by
  obtain ⟨c, hc, ha⟩ := ht
  rw [hr] at hc
  injection hc with hc
  subst hc
  have := ha.checked
  unfold Chip.checkCommand at this
  have hp : (cmdOf h op addr pl).plen < 1024 := by
    unfold Command.plen bits
    exact Nat.mod_lt _ (by decide)
  by_contra hl
  have hne : ((cmdOf h op addr pl).words.length != (cmdOf h op addr pl).plen + 2) = true := by
    rw [cmdOf_length]; simp; omega
  split at this
  · cases this
  · split at this
    · cases this
    · split at this
      · cases this
      · rename_i lens _
        have : s.chip.badLen (cmdOf h op addr pl) lens = true := by
          unfold Chip.badLen
          rw [hne]
          simp
        simp_all

/-- A row answers what its opcode gives. -/
theorem row_answers {i : Instr} {s : State} {h : CmdHead} {op addr : Nat} {pl : List W64} (ht : Taken i s)
    (hr : rowCommand i = some (cmdOf h op addr pl)) (code : Nat) (data : List Nat) (u : Chip)
    (ho : runOpcode (cmdOf h op addr pl) s.chip = (code, data, u)) : Answers i s code data u :=
  answers_of i _ s hr ht code data u ho

/-- Bank 1 names the shadow bank. -/
theorem cmdOf_bankEq (h : CmdHead) : ((h.bank.toNat == 1) : Bool) = (h.bank == 1#2) := by
  generalize h.bank = f
  revert f; decide

theorem cmdOf_arg (h : CmdHead) (op addr : Nat) (pl : List W64) (i : Nat) (hl : h.lenOk = true) :
    (cmdOf h op addr pl).arg i = (nth 0#64 pl i).toNat := by
  unfold Command.arg
  rw [cmdOf_payload _ _ _ _ hl]

section
variable (h : CmdHead) (addr : Nat) (pl : List W64) (s : Chip)

theorem runOpcode_00 (_ : h.lenOk = true) :
    runOpcode (cmdOf h 0x00 addr pl) s = (0, [], s) := by
  unfold runOpcode
  rw [cmdOf_op _ _ _ _ (by decide)]
  rfl

theorem runOpcode_31 (_ : h.lenOk = true) :
    runOpcode (cmdOf h 0x31 addr pl) s = (0, [], runDiscard s) := by
  unfold runOpcode
  rw [cmdOf_op _ _ _ _ (by decide)]
  rfl

theorem runOpcode_32 (_ : h.lenOk = true) :
    runOpcode (cmdOf h 0x32 addr pl) s = (0, (refreshDigests s).cmd.digests.map (·.toNat), refreshDigests s) := by
  unfold runOpcode
  rw [cmdOf_op _ _ _ _ (by decide)]
  rfl

theorem runOpcode_33 (_ : h.lenOk = true) :
    runOpcode (cmdOf h 0x33 addr pl) s = (0, s.epochWords, s) := by
  unfold runOpcode
  rw [cmdOf_op _ _ _ _ (by decide)]
  rfl

theorem runOpcode_30 (hl : h.lenOk = true) :
    runOpcode (cmdOf h 0x30 addr pl) s = runCommit ((nth 0#64 pl 0).toNat) ((nth 0#64 pl 1).toNat) s := by
  unfold runOpcode
  rw [cmdOf_op _ _ _ _ (by decide)]
  simp only [cmdOf_arg _ _ _ _ _ hl, cmdOf_payload _ _ _ _ hl]

theorem runOpcode_40 (hl : h.lenOk = true) :
    runOpcode (cmdOf h 0x40 addr pl) s = (0, [], armIn (nth 0#64 pl 0) s) := by
  unfold runOpcode
  rw [cmdOf_op _ _ _ _ (by decide)]
  simp only [cmdOf_arg _ _ _ _ _ hl, cmdOf_payload _ _ _ _ hl]

theorem runOpcode_41 (hl : h.lenOk = true) :
    runOpcode (cmdOf h 0x41 addr pl) s = (0, [], fireIn true (nth 0#64 pl 0) (nth 0#64 pl 1) (nth 0#64 pl 2) s.now s) := by
  unfold runOpcode
  rw [cmdOf_op _ _ _ _ (by decide)]
  simp only [cmdOf_arg _ _ _ _ _ hl, cmdOf_payload _ _ _ _ hl]

theorem runOpcode_42 (hl : h.lenOk = true) :
    runOpcode (cmdOf h 0x42 addr pl) s = (0, [], forceIn (nth 0#64 pl 0) s) := by
  unfold runOpcode
  rw [cmdOf_op _ _ _ _ (by decide)]
  simp only [cmdOf_arg _ _ _ _ _ hl, cmdOf_payload _ _ _ _ hl]

theorem runOpcode_50 (hl : h.lenOk = true) :
    runOpcode (cmdOf h 0x50 addr pl) s = (0, [], runCalStart ((nth 0#64 pl 0).toNat) s) := by
  unfold runOpcode
  rw [cmdOf_op _ _ _ _ (by decide)]
  simp only [cmdOf_arg _ _ _ _ _ hl, cmdOf_payload _ _ _ _ hl]

theorem runOpcode_51 (hl : h.lenOk = true) :
    runOpcode (cmdOf h 0x51 addr pl) s = ((runCalApply ((nth 0#64 pl 0).toNat) s).1, [], (runCalApply ((nth 0#64 pl 0).toNat) s).2) := by
  unfold runOpcode
  rw [cmdOf_op _ _ _ _ (by decide)]
  simp only [cmdOf_arg _ _ _ _ _ hl, cmdOf_payload _ _ _ _ hl]

theorem runOpcode_60 (hl : h.lenOk = true) :
    runOpcode (cmdOf h 0x60 addr pl) s = ((runTimeSet ((nth 0#64 pl 0).toNat) ((nth 0#64 pl 1).toNat) s).1, [], (runTimeSet ((nth 0#64 pl 0).toNat) ((nth 0#64 pl 1).toNat) s).2) := by
  unfold runOpcode
  rw [cmdOf_op _ _ _ _ (by decide)]
  simp only [cmdOf_arg _ _ _ _ _ hl, cmdOf_payload _ _ _ _ hl]

theorem runOpcode_61 (hl : h.lenOk = true) :
    runOpcode (cmdOf h 0x61 addr pl) s = ((runTimeAdj ((nth 0#64 pl 0).toNat) ((nth 0#64 pl 1).toNat) s).1, [], (runTimeAdj ((nth 0#64 pl 0).toNat) ((nth 0#64 pl 1).toNat) s).2) := by
  unfold runOpcode
  rw [cmdOf_op _ _ _ _ (by decide)]
  simp only [cmdOf_arg _ _ _ _ _ hl, cmdOf_payload _ _ _ _ hl]

theorem runOpcode_70 (hl : h.lenOk = true) :
    runOpcode (cmdOf h 0x70 addr pl) s = ((runStoreCtl (nth 0#64 pl 0) s).1, [], (runStoreCtl (nth 0#64 pl 0) s).2) := by
  unfold runOpcode
  rw [cmdOf_op _ _ _ _ (by decide)]
  simp only [cmdOf_arg _ _ _ _ _ hl, cmdOf_payload _ _ _ _ hl]

theorem runOpcode_80 (hl : h.lenOk = true) :
    runOpcode (cmdOf h 0x80 addr pl) s = ((runPairCtl ((nth 0#64 pl 0).toNat) s).1, [], (runPairCtl ((nth 0#64 pl 0).toNat) s).2) := by
  unfold runOpcode
  rw [cmdOf_op _ _ _ _ (by decide)]
  simp only [cmdOf_arg _ _ _ _ _ hl, cmdOf_payload _ _ _ _ hl]

theorem runOpcode_90 (hl : h.lenOk = true) :
    runOpcode (cmdOf h 0x90 addr pl) s = ((runEvtAck ((nth 0#64 pl 0).toNat) s).1, [], (runEvtAck ((nth 0#64 pl 0).toNat) s).2) := by
  unfold runOpcode
  rw [cmdOf_op _ _ _ _ (by decide)]
  simp only [cmdOf_arg _ _ _ _ _ hl, cmdOf_payload _ _ _ _ hl]

theorem runOpcode_A0 (hl : h.lenOk = true) :
    runOpcode (cmdOf h 0xA0 addr pl) s = ((runProt pl s).1, [], (runProt pl s).2) := by
  unfold runOpcode
  rw [cmdOf_op _ _ _ _ (by decide)]
  simp only [cmdOf_arg _ _ _ _ _ hl, cmdOf_payload _ _ _ _ hl]

theorem runOpcode_B0 (hl : h.lenOk = true) :
    runOpcode (cmdOf h 0xB0 addr pl) s = ((runDomainReset ((nth 0#64 pl 0).toNat) s).1, [], (runDomainReset ((nth 0#64 pl 0).toNat) s).2) := by
  unfold runOpcode
  rw [cmdOf_op _ _ _ _ (by decide)]
  simp only [cmdOf_arg _ _ _ _ _ hl, cmdOf_payload _ _ _ _ hl]

theorem runOpcode_C0 (hl : h.lenOk = true) :
    runOpcode (cmdOf h 0xC0 addr pl) s = ((runLaneCtl (nth 0#64 pl 0) s).1, [], (runLaneCtl (nth 0#64 pl 0) s).2) := by
  unfold runOpcode
  rw [cmdOf_op _ _ _ _ (by decide)]
  simp only [cmdOf_arg _ _ _ _ _ hl, cmdOf_payload _ _ _ _ hl]

theorem runOpcode_D0 (hl : h.lenOk = true) :
    runOpcode (cmdOf h 0xD0 addr pl) s = ((runDiag ((nth 0#64 pl 0).toNat) ((nth 0#64 pl 1).toNat) s).1, [], (runDiag ((nth 0#64 pl 0).toNat) ((nth 0#64 pl 1).toNat) s).2) := by
  unfold runOpcode
  rw [cmdOf_op _ _ _ _ (by decide)]
  simp only [cmdOf_arg _ _ _ _ _ hl, cmdOf_payload _ _ _ _ hl]

end

end Sys2Proof.Machine
end

