-- ==== Sys2Proof/Laws/Works.lean ====
section
/-! SUPPORT. What the work of the stream channels (R252 to R272) can do, said once. -/

namespace Sys2Proof.Machine

theorem Works.trans {s t u : Chip} (h1 : Works s t) (h2 : Works t u) : Works s u := by
  refine ⟨?_, fun a ha hb => (h2.direct a ha hb).trans (h1.direct a ha hb), fun e he h => h2.events e he (h1.events e he h)⟩
  rw [h2.rest, h1.rest]

theorem Ships.works {s t : Chip} (h : Ships s t) : Works s t := by
  refine ⟨?_, fun a ha _ => h.direct a ha, h.events⟩
  obtain ⟨hActive, hShadow, hOld1, hOld2, hBefore, hHoldE, hHoldW, hHoldS, hDirect, hEvents, hClk, hNet, hCmd, hRing, hLaneE, hLaneW,
    hLine, hCdc, hLawn, hHedges, hRst, hPins, hPair, hMeas, hSrcs, hTrg, hWav, hXdc, hTis, hTips, hPos, hCal, hCmp, hTabs, hFree⟩ := h
  cases t with
  | mk tregs =>
  cases tregs
  cases s with
  | mk sregs =>
  cases sregs
  dsimp only at *
  congr 1
  congr 1
  rw [hRing]

theorem Works.refl (s : Chip) : Works s s := (Ships.refl s).works

theorem Works.active {s t : Chip} (h : Works s t) : t.regs.active = s.regs.active := congrArg (fun c => c.regs.active) h.rest
theorem Works.clk {s t : Chip} (h : Works s t) : t.clk = s.clk := congrArg (fun c => c.clk) h.rest
theorem Works.xdc {s t : Chip} (h : Works s t) : t.xdc = s.xdc := congrArg (fun c => c.xdc) h.rest

theorem Works.fld {s t : Chip} (h : Works s t) (f : Fld) (hf : shipAddr f.addr = false) (hg : f.addr < 0x90000 ∨ 0x91000 ≤ f.addr) :
    t.fld f = s.fld f := Chip.fld_congr _ _ f h.active (h.direct _ hf hg)

theorem Works.forAll {α : Type} (l : List α) (f : α → Chip → Chip) (h : ∀ a ∈ l, ∀ s, Works s (f a s)) (s : Chip) :
    Works s (forAll l f s) := by
  unfold Sys2Proof.Machine.forAll
  induction l generalizing s with
  | nil => exact Works.refl s
  | cons a l ih => exact (h a (by simp) s).trans (ih (fun b hb => h b (by simp [hb])) _)

theorem Works.forN (n : Nat) (f : Nat → Chip → Chip) (h : ∀ i, i < n → ∀ s, Works s (f i s)) (s : Chip) : Works s (forN n f s) :=
  Works.forAll (List.range n) f (fun i hi => h i (List.mem_range.mp hi)) s

/-- A change of the parts that streams own. -/
theorem Works.parts (s : Chip) (fb : FrameBuilder) (st : Store) (sto : StoSt) (c : Cmp) (q : Table Nat) :
    Works s { s with fb := fb, store := st, sto := sto, cmp := c, ring := { s.ring with cseq := q } } :=
  ⟨rfl, fun _ _ _ => rfl, fun _ _ h => h⟩

theorem setStream_works (n : Nat) (c : StreamCh) (s : Chip) : Works s (setStream n c s) := ⟨rfl, fun _ _ _ => rfl, fun _ _ h => h⟩

theorem setSlane_works (n l : Nat) (x : StreamLane) (s : Chip) : Works s (setSlane n l x s) := setStream_works n _ s

/-- A register of the CMP block. -/
theorem Works.setFld (s : Chip) (f : Fld) (v : Nat) (h : 0x90000 ≤ f.addr) (h' : f.addr < 0x91000) : Works s (s.setFld f v) := by
  refine ⟨rfl, fun a _ hb => Chip.setFld_direct_ne _ _ _ _ (by omega), fun e he hs => ?_⟩
  rw [eventSeen_setFld _ _ _ _ he (by
    unfold statAddr
    simp only [Bool.and_eq_false_iff, decide_eq_false_iff_not, beq_eq_false_iff_ne]
    omega)]
  exact hs

theorem Works.bumpBy (s : Chip) (f : Fld) (n : Nat) (h : 0x90000 ≤ f.addr) (h' : f.addr < 0x91000) : Works s (s.bumpBy f n) :=
  Works.setFld s f _ h h'

theorem Works.bump (s : Chip) (f : Fld) (h : 0x90000 ≤ f.addr) (h' : f.addr < 0x91000) : Works s (s.bump f) := Works.setFld s f _ h h'

theorem notePoisonRead_ships (s : Chip) : Ships s (notePoisonRead s) := by
  unfold notePoisonRead
  refine Ships.trans ?_ (raise_ships _ (by decide) _)
  exact Ships.setFld s _ _ (by decide) (by decide)

/-- A read of a word of a coded memory. -/
theorem memRead_ships (m w : Nat) (hm : m < 12) (s : Chip) : Ships s (memRead m w s).2.2 := by
  unfold memRead
  dsimp only
  have h1 : Ships s (if ((s.mem m).par.get w).toNat = 0 || parPoisoned ((s.mem m).par.get w).toNat then s else blockCheck 1 m (w / 8) s) := by
    split
    · exact Ships.refl s
    · exact blockCheck_ships 1 m _ hm s
  generalize (if ((s.mem m).par.get w).toNat = 0 || parPoisoned ((s.mem m).par.get w).toNat then s else blockCheck 1 m (w / 8) s) = s1 at h1 ⊢
  split
  · exact h1.trans (notePoisonRead_ships _)
  · exact h1

/-- A content that enters a circular history region. -/
theorem putHistory_ships (whole : Bool) (n : Nat) (hn : n < 10) (ws : List W64) (tag t0 t1 : Nat) (s : Chip) :
    Ships s (putHistory whole n ws tag t0 t1 s) := by
  unfold putHistory
  extract_lets cap len r h segs o keep lost s1
  split
  · exact setRegion_ships s n _
  · refine Ships.trans ?_ (noteFill_ships n hn _)
    refine Ships.trans ?_ (forAll_writeAt_ships n _ ws _)
    refine Ships.trans (t := s1) (setRegion_ships s n _) ?_
    exact Ships.parts s1 s1.mems s1.scrub _ s1.sto s1.fb s1.evtG s1.ringE s1.ringW s1.ring.pseq

theorem addBacklog_ships (cls n : Nat) (s : Chip) : Ships s (addBacklog cls n s) :=
  Ships.parts s s.mems s.scrub _ s.sto s.fb s.evtG s.ringE s.ringW s.ring.pseq

theorem sendContent_works (pt cls : Nat) (o : Owner) (idx : Nat) (ws : List W64) (bad : Bool) (s : Chip) :
    Works s (sendContent pt cls o idx ws bad s) := by
  unfold sendContent takeCseq
  dsimp only
  refine Works.trans (t := { s with ring := { s.ring with cseq := _ } }) ?_ (enqueueAll_ships _ _ (BitVec.isLt _) _ _).works
  exact ⟨rfl, fun _ _ _ => rfl, fun _ _ h => h⟩

theorem handStore_works (o : StoObj) (s : Chip) : Works s (handStore o s) := by
  unfold handStore storeDone refuseObject
  split
  · exact Works.parts s s.fb s.store _ s.cmp s.ring.cseq
  · exact (((Ships.setFld s _ _ (by decide) (by decide)).trans (raise_ships _ (by decide) _)).trans (doneReading_ships _ _ _ _)).works

theorem reportBacklog_works (n : Nat) (c : StreamCfg) (s : Chip) : Works s (reportBacklog n c s) := by
  unfold reportBacklog
  split
  · exact Works.parts s _ s.store s.sto _ s.ring.cseq
  · exact Works.refl s

theorem notePoison_works (n : Nat) (s : Chip) : Works s (notePoison n s) := by
  unfold notePoison
  split
  · exact Works.refl s
  · exact (Works.bumpBy s _ _ (by decide) (by decide)).trans (raise_ships _ (by decide) _).works

theorem chanAddr_in (n k : Nat) (hn : n < 16) (hk : k < 64) : 0x90000 ≤ 0x90100 + k + 64 * n ∧ 0x90100 + k + 64 * n < 0x91000 := by omega

theorem emitBlock_works (n l : Nat) (hn : n < 16) (o : StreamOut) (s t : Chip) (h : emitBlock n l o s = some t) : Works s t := by
  unfold emitBlock at h
  extract_lets ws ring store at h
  split at h
  · cases h
  · next id s1 hp =>
    extract_lets s2 s3 s4 s5 at h
    have h1 : Works s s1 := by
      refine Works.trans (t := addBacklog 3 (8 * ws.length) s) (Works.parts s s.fb _ s.sto s.cmp s.ring.cseq) ?_
      exact (putQueue_ships 8 (by omega) _ _ _ _ _ _ _ hp).works
    have h3 : Works s s3 := (h1.trans (Works.bump s1 (F.CMP_CH_BLOCKS_COUNT n) (chanAddr_in n 36 hn (by omega)).1
      (chanAddr_in n 36 hn (by omega)).2)).trans (Works.bumpBy s2 (F.CMP_CH_OUT_COUNT n) o.payload.length
      (chanAddr_in n 24 hn (by omega)).1 (chanAddr_in n 24 hn (by omega)).2)
    have h4 : Works s s4 := by
      dsimp only [s4]
      split
      · exact h3.trans (Works.bump _ (F.CMP_CH_NOGAIN_COUNT n) (chanAddr_in n 32 hn (by omega)).1 (chanAddr_in n 32 hn (by omega)).2)
      · exact h3
    have h5 : Works s s5 := by
      dsimp only [s5]
      split
      · exact h4.trans (sendContent_works _ _ _ _ _ _ _)
      · exact h4
    cases h
    split
    · exact h5.trans (handStore_works _ _)
    · exact h5

theorem flushLane_works (n l : Nat) (hn : n < 16) (fuel : Nat) (s : Chip) : Works s (flushLane n l fuel s) := by
  induction fuel generalizing s with
  | zero => exact Works.refl s
  | succ k ih =>
    unfold flushLane
    split
    · exact Works.refl s
    · split
      · exact (setSlane_works n l _ s).trans (reportBacklog_works _ _ _)
      · next t ht =>
        dsimp only
        exact ((emitBlock_works n l hn _ s t ht).trans (setSlane_works n l _ t)).trans (ih _)

theorem bufferWord_works (n l pos : Nat) (c : StreamCfg) (w : W64) (s : Chip) : Works s (bufferWord n l pos c w s) := by
  unfold bufferWord
  split
  · exact (memWrite_ships 11 _ _ _ (by omega) (by decide) s).works
  · exact Works.refl s

theorem bufferRead_works (n l pos : Nat) (c : StreamCfg) (ws : List W64) (s : Chip) : Works s (bufferRead n l pos c ws s).2.2 := by
  unfold bufferRead
  split
  · exact Works.refl s
  · next base size _ =>
    dsimp only
    generalize min ws.length size = m
    have key : ∀ (li : List Nat) (acc : List W64 × List Nat × Chip), Works s acc.2.2 →
        Works s (li.foldl (fun (acc : List W64 × List Nat × Chip) i =>
          let (d, bad, t) := memRead 11 (base + (pos - m + i) % size) acc.2.2
          (acc.1 ++ [w64 d], acc.2.1 ++ (if bad then [ws.length - m + i] else []), t)) acc).2.2 := by
      intro li
      induction li with
      | nil => intro acc h; exact h
      | cons i li ih => intro acc h; exact ih _ (h.trans (memRead_ships 11 _ (by omega) _).works)
    exact key _ _ (Works.refl s)

theorem closeBlock_works (n l : Nat) (hn : n < 16) (drop : Bool) (s : Chip) : Works s (closeBlock n l drop s) := by
  unfold closeBlock
  dsimp only
  split
  · exact Works.refl s
  · refine Works.trans ?_ (flushLane_works n l hn _ _)
    refine Works.trans ?_ (notePoison_works _ _)
    refine Works.trans ?_ (Works.setFld _ (F.CMP_CH_BSEQ_NEXT n) _ (chanAddr_in n 16 hn (by omega)).1 (chanAddr_in n 16 hn (by omega)).2)
    refine Works.trans ?_ (setSlane_works n l _ _)
    exact (bufferRead_works n l _ _ _ s).trans (setStream_works n _ _)

/-- The words of an object as its reader gets them. -/
theorem readStore_ships (ws : List Nat) (s : Chip) : Ships s (readStore ws s).2.2 := by
  unfold readStore
  have key : ∀ (li : List Nat) (acc : List W64 × List Nat × Chip), Ships s acc.2.2 →
      Ships s (li.foldl (fun (acc : List W64 × List Nat × Chip) w =>
        let (d, p, t) := memRead 0 w acc.2.2
        (w64 d :: acc.1, if p then acc.1.length :: acc.2.1 else acc.2.1, t)) acc).2.2 := by
    intro li
    induction li with
    | nil => intro acc h; exact h
    | cons i li ih => intro acc h; exact ih _ (h.trans (memRead_ships 0 _ (by omega) _))
  exact key ws ([], [], s) (Ships.refl s)

theorem readUnit_works (u : StreamIn) (s : Chip) : Works s (readUnit u s).2 := by
  unfold readUnit
  split
  · exact Works.refl s
  · split
    · exact Works.refl s
    · exact (readStore_ships u.src s).works

theorem leaveUnit_works (n : Nat) (u : StreamIn) (s : Chip) : Works s (leaveUnit n u s) := by
  unfold leaveUnit
  split
  · exact (doneReading_ships _ _ _ s).works
  · exact Works.refl s

theorem takeWords_works (n l : Nat) (hn : n < 16) (k start : Nat) (s : Chip) : Works s (takeWords n l k start s) := by
  unfold takeWords
  dsimp only
  split
  · exact Works.refl s
  · next u0 rest _ =>
    refine (readUnit_works u0 s).trans ?_
    refine Works.trans ?_ (notePoison_works _ _)
    refine Works.trans ?_ (Works.forAll _ _ (fun p _ v => bufferWord_works n l _ _ _ v) _)
    exact (setSlane_works n l _ _).trans (Works.bumpBy _ (F.CMP_CH_IN_COUNT n) _ (chanAddr_in n 20 hn (by omega)).1
      (chanAddr_in n 20 hn (by omega)).2)

/-- What a lane that works can do. -/
theorem runLane_works (n l : Nat) (hn : n < 16) (fuel : Nat) (s : Chip) : Works s (runLane n l fuel s) := by
  induction fuel generalizing s with
  | zero => exact Works.refl s
  | succ k ih =>
    have take : ∀ m start, Works s (if m = 0 then s else runLane n l k (takeWords n l m start s)) := by
      intro m start
      split
      · exact Works.refl s
      · exact (takeWords_works n l hn _ _ _).trans (ih _)
    unfold runLane
    dsimp only
    split
    · next u rest _ _ =>
      split
      · have h0 : Works s (setSlane n l { s.slane n l with inq := rest } (leaveUnit n u s)) :=
          (leaveUnit_works n u s).trans (setSlane_works n l _ _)
        have key : ∀ b : Bool, Works s (runLane n l k (if b then closeBlock n l false
              (setSlane n l { s.slane n l with inq := rest } (leaveUnit n u s))
            else setSlane n l { s.slane n l with inq := rest } (leaveUnit n u s))) := by
          intro b
          refine Works.trans ?_ (ih _)
          split
          · exact h0.trans (closeBlock_works n l hn _ _)
          · exact h0
        exact key _
      · split
        · split
          · exact (closeBlock_works n l hn _ _).trans (ih _)
          · split
            · exact (closeBlock_works n l hn _ _).trans (ih _)
            · exact take _ _
        · exact take _ _
    · split
      · split
        · exact closeBlock_works n l hn _ _
        · exact Works.refl s
      · exact Works.refl s
    · exact Works.refl s

theorem workLane_works (n l : Nat) (hn : n < 16) (s : Chip) : Works s (workLane n l s) := by
  unfold workLane
  split
  · exact runLane_works n l hn _ s
  · exact Works.refl s

theorem laneRoom_works (n l : Nat) (hn : n < 16) (s : Chip) : Works s (laneRoom n l s) := by
  unfold laneRoom
  split
  · exact (flushLane_works n l hn _ s).trans (workLane_works n l hn _)
  · exact Works.refl s

theorem newSettings_works (n : Nat) (hn : n < 16) (key : Option StreamCfg) (s : Chip) : Works s (newSettings n key s) := by
  unfold newSettings
  refine Works.trans ?_ (setStream_works n _ _)
  exact (Works.forAll _ _ (fun l _ u => closeBlock_works n l hn false u) s).trans (Works.forN 8 _ (fun l _ u => setSlane_works n l _ u) _)

theorem deliverUnit_works (n l : Nat) (hn : n < 16) (c : StreamCfg) (frame epoch : Nat) (obj : Option Nat) (ws : List W64)
    (src : List Nat) (skip : Nat) (s : Chip) : Works s (deliverUnit n l c frame epoch obj ws src skip s) := by
  unfold deliverUnit
  dsimp only
  have h1 : Works s (if (s.stream n).key = some c then s else newSettings n (some c) s) := by
    split
    · exact Works.refl s
    · exact newSettings_works n hn _ s
  generalize (if (s.stream n).key = some c then s else newSettings n (some c) s) = s1 at h1 ⊢
  refine h1.trans (Works.trans ?_ (workLane_works n l hn _))
  have key : ∀ b : Bool, ∀ u, Works s1 u → Works s1 (if b then reportBacklog n c u else u) := by
    intro b u hu
    split
    · exact hu.trans (reportBacklog_works _ _ _)
    · exact hu
  exact key _ _ ((setSlane_works n l _ s1).trans (addBacklog_ships _ _ _).works)

/-- What an XHIST entry can do that reaches the stream channels. -/
theorem streamResult_works (kind : Nat) (ws : List W64) (s : Chip) : Works s (streamResult kind ws s) := by
  unfold streamResult
  split
  · exact Works.refl s
  · refine Works.forN 16 _ (fun n hn u => ?_) s
    split
    · split
      · exact Works.refl u
      · exact deliverUnit_works n 0 hn _ _ _ _ _ _ _ u
    · exact Works.refl u

end Sys2Proof.Machine
end

