-- ==== Sys2Proof/Tests/Slice0.lean ====
section
/-! SUPPORT. Small tests: the well-formedness checks, worked examples and rule texts of the spec, and for every statement with hypotheses
a concrete state and operands that meet them together. -/

namespace Sys2Proof.Slice0Tests

open Sys2Proof.Machine

set_option Elab.async false

/-- A side-port command at privilege 0 for the active bank. -/
def hd : CmdHead := ⟨.side, 1#8, 2#5, 1#5, 0#2, 0#2, true, true⟩

/-- The same for the shadow bank. -/
def hdShadow : CmdHead := { hd with bank := 1#2 }

/-- A state with no command waiting and the TAP at rest. -/
def st (c : Chip) : State := { pending := [], chip := c, tap := Tap.initial }

/-- A ready chip at the start of frame 1000, as device 2 of the ring. -/
def chip : Chip :=
  { Chip.initial with
    rst := { RstSt.initial with calDone := true, memDone := true, ready := true }
    clk := { Clk.initial with counting := true, everLock := true, frame := 1000, tick := 1000 * frameUnits, cc := 2048000 }
  }.setFld F.GLB_RST_STAT_STRAP 2

/-- The same chip before lock. -/
def unlocked : Chip := { chip with clk := Clk.initial, rst := { RstSt.initial with calDone := true, memDone := true } }

/-- Whether a row's command is accepted. -/
def taken (i : Instr) (c : Chip) : Bool :=
  match rowCommand i with
  | some x => c.listens x && (c.kept? x).isNone && c.checkCommand x == 0
  | none => false

theorem taken_sound {i : Instr} {c : Chip} (h : taken i c = true) : Taken i (st c) := by
  unfold taken at h
  split at h
  · rename_i x hx
    simp only [Bool.and_eq_true, beq_iff_eq, Option.isNone_iff_eq_none] at h
    exact ⟨x, hx, h.1.1, h.1.2, h.2⟩
  · cases h

theorem test_running : chip.running = true ∧ chip.now = 1000 * 1048576 ∧ chip.frameCclk = 2048 := by decide +kernel
theorem test_taken : Taken (.nop hd) (st chip) := taken_sound (by decide +kernel)
theorem test_taken2 : Taken (.commit hd (w64 (5 * 2 ^ 32)) (w64 (1002 * 2 ^ 13))) (st chip) := taken_sound (by decide +kernel)

/-- Fields of the active bank or of the other registers set. -/
def put (l : List (Fld × Nat)) (c : Chip) : Chip :=
  l.foldl (fun c p => if p.1.rws then c.setActive p.1 p.2 else c.setFld p.1 p.2) c

/-- A command on the ring port E, to device 2 from device 0. -/
def hdRing : CmdHead := ⟨.ring .east, 7#8, 0#5, 2#5, 0#2, 0#2, true, true⟩

/-! ### Witnesses: commands, statuses, registers -/

/-- The chip that has answered the ring NOP with tag 7. -/
def chipKept : Chip :=
  { chip with cmd := { chip.cmd with kept := [⟨7, (cmdOf hdRing 0 0 []).crcWord, [0#64, 0#64, 0#64], 0⟩] } }

theorem witness_EngineRowsFollowCommandPath :
    (rowCommand (.nop hd) = some (cmdOf hd 0 0 []) ∧ State.reset.chip.listens (cmdOf hd 0 0 []) = false) ∧
    (rowCommand (.nop hdRing) = some (cmdOf hdRing 0 0 []) ∧ chipKept.listens (cmdOf hdRing 0 0 []) = true ∧
      (chipKept.kept? (cmdOf hdRing 0 0 [])).isSome = true) ∧
    (rowCommand (.nop { hd with crcOk := false }) = some (cmdOf { hd with crcOk := false } 0 0 []) ∧
      chip.listens (cmdOf { hd with crcOk := false } 0 0 []) = true ∧ chip.kept? (cmdOf { hd with crcOk := false } 0 0 []) = none ∧
      chip.checkCommand (cmdOf { hd with crcOk := false } 0 0 []) ≠ 0) := by decide +kernel

theorem witness_LengthAndOpcodeChecksComeFirst :
    (hd.sender = .side ∧ { hd with lenOk := false }.lenOk = false) ∧ { hd with crcOk := false }.crcOk = false ∧
    (hd.crcOk = true ∧ opcodeLen 0xFF = none) ∧ (opcodeLen 0x30 = some (2, 2) ∧ ([0#64] : List W64).length < 2) ∧
    (hdRing.sender ≠ .side ∧ { hdRing with lenOk := false }.lenOk = false ∧ opcodeLen 0x00 = some (0, 0)) ∧
    (([0#64] : List W64).length = 1 ∧ bits (nth 0#64 [0#64] 0).toNat 8 0 = 0 ∧ 506 < bits (nth 0#64 [507#64] 0).toNat 8 0) := by
  decide +kernel

/-- A chip whose side port has the ceiling 1. -/
def chipCeil : Chip := chip.setFld F.CMD_CEIL_SIDE 1

/-- A chip whose group of register 0x1030 has both levels at 1. -/
def chipLevels : Chip := put [(F.CMD_PROT_WRITE (regGroup 0x1030), 1), (F.CMD_PROT_READ (regGroup 0x1030), 1)] chip

/-- A command at privilege 2. -/
def hd2 : CmdHead := { hd with priv := 2#2 }

theorem witness_CeilingAndGroupLevelDeny :
    (let c := cmdOf hd 0 0 []
     c.words.length = c.plen + 2 ∧ c.crcWord = crcOf c.words.dropLast ∧ opcodeLen c.op = some (0, 0) ∧
     chipCeil.badLen c (0, 0) = false ∧ chipCeil.badAddr c = false ∧
     c.priv < chipCeil.fld (if c.sender = .side then F.CMD_CEIL_SIDE else F.CMD_CEIL_RING)) ∧
    (hd2.crcOk = true ∧ hd2.lenOk = true ∧ chipLevels.badLen (writeOf hd2 (0x1030#24).toNat (5#32).toNat) (1, 1) = false ∧
      chipLevels.badAddr (writeOf hd2 (0x1030#24).toNat (5#32).toNat) = false ∧
      chipLevels.fld (F.CMD_PROT_WRITE (regGroup (0x1030#24).toNat)) < hd2.priv.toNat) ∧
    (chipLevels.badLen (cmdOf hd2 0x10 (0x1030#24).toNat []) (0, 0) = false ∧
      chipLevels.badAddr (cmdOf hd2 0x10 (0x1030#24).toNat []) = false ∧
      chipLevels.fld (F.CMD_PROT_READ (regGroup (0x1030#24).toNat)) < hd2.priv.toNat) := by decide +kernel

theorem witness_StatusWordsFollowLayout :
    0xFF < 256 ∧ 0xFFFFFF < 2 ^ 24 ∧ (List.replicate 1023 0#64).length < 1024 ∧ 0x0C < 256 ∧ (List.replicate 1023 0).length < 1024 := by
  refine ⟨by decide, by decide, ?_, by decide, ?_⟩ <;> rw [List.length_replicate] <;> decide

theorem witness_AnswerTouchesOnlyItsRecord :
    (cmdOf hd 0xD0 0 []).op < 256 ∧ (cmdOf hd 0xD0 0 []).tag < 256 ∧ 255 < 256 ∧ (0 : Nat) = 0 ∧ (5 : Nat) ≠ 0 := by decide +kernel

theorem witness_ReadRowsReturnRegisters :
    Taken (.rd hd 0x1030#24) (st chip) ∧ Taken (.lowWordRead hd 0x3108#24) (st chip) ∧ Taken (.timFrameIdxRead hd) (st chip) ∧
    Taken (.stuckCntRead hd) (st chip) ∧ Taken (.minLogRead hd) (st chip) ∧ Taken (.rdb hd 0x7400#24 1#64) (st chip) ∧
    Taken (.rdb hd 0x10000#24 506#64) (st chip) :=
  ⟨taken_sound (by decide +kernel), taken_sound (by decide +kernel), taken_sound (by decide +kernel), taken_sound (by decide +kernel),
   taken_sound (by decide +kernel), taken_sound (by decide +kernel), taken_sound (by decide +kernel)⟩

theorem witness_RegisterBitsReadByAccessCode :
    (regRow? 0x1030).isSome = true ∧ chip.liveLow .side 0x1030 = [] ∧ (regRow? 0x30024).isSome = true ∧
    chip.liveHigh .side 0x30024 = [] := by decide +kernel

theorem witness_RegisterReadClearsOnlyItsRcBits :
    (chip.held? .side 0x1018 = none ∧ chip.tabRef .side false 0x1018 = none ∧ (regRow? 0x1018).isSome = true) ∧
    (chip.held? .side 0x30024 = none ∧ chip.tabRef .side false 0x30024 = none) ∧
    (chip.held? .side 0x8040 = none ∧ chip.tabRef .side false 0x8040 = none) := by decide +kernel

theorem witness_UpperWordComesFromHoldingCopy :
    chip.held? .side 0x60118 = none ∧ chip.tabRef .side false 0x60118 = none ∧ 0x60134 ∈ captures 0x60118 ∧
    (readReg .side false 0x60118 chip).2.2.hold .side = (readReg .side false 0x60118 chip).2.2.hold .side ∧
    Sender.ring .east ≠ .side := by decide +kernel

theorem witness_WriteRowsWriteRegisters :
    Taken (.wr hdShadow 0x1030#24 5#32) (st chip) ∧ Taken (.registerWrite hdShadow 0x1030#24 5#32) (st chip) ∧
    Taken (.evtStatClear hd 11 3#32) (st chip) ∧ Taken (.loopCtlForce hd true false) (st chip) ∧
    Taken (.loopSafeLatchWrite hd 65535) (st chip) ∧ Taken (.xdcUrgReq hd 15) (st chip) ∧ Taken (.stoNextWrite hd 262143) (st chip) ∧
    Taken (.stoTblWinWrite hd 511 7#32) (st chip) ∧ Taken (.wrm hdShadow 0x1030#24 0xFF#32 5#32) (st chip) ∧
    Taken (.wrb hdShadow 0x10000#24 [5#64, 6#64]) (st chip) :=
  ⟨taken_sound (by decide +kernel), taken_sound (by decide +kernel), taken_sound (by decide +kernel), taken_sound (by decide +kernel),
   taken_sound (by decide +kernel), taken_sound (by decide +kernel), taken_sound (by decide +kernel), taken_sound (by decide +kernel),
   taken_sound (by decide +kernel), taken_sound (by decide +kernel)⟩

theorem witness_WriteActsByAccessCode :
    ((regRow? 0x3100).isSome = true ∧ chip.tabRef .side true 0x3100 = none ∧ (regRow? 0x3100).any (fun r => !r.hasRws) = true) ∧
    ((regRow? 0x80000).isSome = true ∧ chip.tabRef .side true 0x80000 = none) := by decide +kernel

theorem witness_ShadowWriteLeavesActiveBank :
    (regRow? 0x1030).any (fun r => r.hasRws) = true ∧ chip.tabRef .side true 0x1030 = none := by decide +kernel

/-! ### Witnesses: commits, protection, time, waiting commands -/

theorem witness_NamedFrameIsTheNearest : 2 ^ 32 - 1 < 2 ^ 32 ∧ 312499 < 312500 := by decide

/-- The word 1 of a COMMIT for a frame of the first second. -/
def at1 (idx : Nat) : W64 := w64 (idx * 2 ^ 13)

/-- A chip that has a commit pending. -/
def chipPending : Chip := { chip with cmd := { chip.cmd with target := some 1002 } }

/-- A chip whose shadow bank gives a region of the store more than its space. -/
def chipLarge : Chip := chip.setShadow (regionSizeF 9) 1024

theorem witness_CommitIsJudgedInOrder :
    (Taken (.commit hd (w64 (2 ^ 32)) (at1 1002)) (st chipPending) ∧ chipPending.cmd.target ≠ none) ∧
    (Taken (.commit hd 0#64 (at1 1002)) (st chip) ∧ chip.cmd.target = none ∧ (0#64).toNat / 2 ^ 32 ≤ chip.fld F.CMD_EPOCH_ACTIVE) ∧
    (Taken (.commit hd (w64 (2 ^ 32)) (at1 1001)) (st chip) ∧
      chip.fld F.CMD_EPOCH_ACTIVE < (w64 (2 ^ 32)).toNat / 2 ^ 32 ∧
      nearestFrame (chip.now / frameFtu) (bits (at1 1001).toNat 63 32) (bits (at1 1001).toNat 31 13) < chip.clk.frame + 2) ∧
    (Taken (.commit hd (w64 (2 ^ 32)) (at1 1001 ||| w64 (2 ^ 32))) (st chip) ∧
      chip.clk.frame + 312500 < nearestFrame (chip.now / frameFtu) (bits (at1 1001 ||| w64 (2 ^ 32)).toNat 63 32)
        (bits (at1 1001 ||| w64 (2 ^ 32)).toNat 31 13)) ∧
    (Taken (.commit hd (w64 (2 ^ 32)) (at1 1002)) (st chipLarge) ∧ (firstFailing chipLarge.asCommitted.ledgers).isSome = true) ∧
    (Taken (.commit hd (w64 (2 ^ 32)) (at1 1002)) (st chip) ∧ firstFailing chip.asCommitted.ledgers = none) :=
  ⟨⟨taken_sound (by decide +kernel), by decide +kernel⟩, ⟨taken_sound (by decide +kernel), by decide +kernel⟩,
   ⟨taken_sound (by decide +kernel), by decide +kernel⟩, ⟨taken_sound (by decide +kernel), by decide +kernel⟩,
   ⟨taken_sound (by decide +kernel), by decide +kernel⟩, ⟨taken_sound (by decide +kernel), by decide +kernel⟩⟩

theorem witness_AppliedCommitMakesShadowActive : chipPending.memsWf := by
  unfold Chip.memsWf
  decide +kernel

theorem witness_DiscardEpochAndDigestComplete :
    Taken (.discard hd) (st chip) ∧ Taken (.epoch hd) (st chip) ∧ Taken (.digest hd) (st chip) :=
  ⟨taken_sound (by decide +kernel), taken_sound (by decide +kernel), taken_sound (by decide +kernel)⟩

theorem witness_ProtWriteKeepsOneCeilingOpen :
    (Taken (.protWr hd [0x4001#64, 0x4101#64]) (st chip) ∧
      (ceilAfter (chip.cmd.protNext ++ [0x4001#64, 0x4101#64]) (chip.fld F.CMD_CEIL_RING, chip.fld F.CMD_CEIL_SIDE)).1 ≠ 0 ∧
      (ceilAfter (chip.cmd.protNext ++ [0x4001#64, 0x4101#64]) (chip.fld F.CMD_CEIL_RING, chip.fld F.CMD_CEIL_SIDE)).2 ≠ 0) ∧
    (Taken (.protWr hd [0x4001#64]) (st chip) ∧ chip.clk.counting = true ∧
      (ceilAfter (chip.cmd.protNext ++ [0x4001#64]) (chip.fld F.CMD_CEIL_RING, chip.fld F.CMD_CEIL_SIDE)).2 = 0) ∧
    (Taken (.protWr hd [0x4001#64]) (st unlocked) ∧ unlocked.clk.counting = false) ∧
    bits (0x3F31#64 : W64).toNat 15 8 = 63 ∧ bits (0x4003#64 : W64).toNat 15 8 = 64 ∧ bits (0x4103#64 : W64).toNat 15 8 = 65 :=
  ⟨⟨taken_sound (by decide +kernel), by decide +kernel⟩, ⟨taken_sound (by decide +kernel), by decide +kernel⟩,
   ⟨taken_sound (by decide +kernel), by decide +kernel⟩, by decide +kernel⟩

/-- A chip whose network time an upstream disciplines. -/
def chipHeld : Chip := put [(F.TIM_NET_CFG_DISC_EN, 1), (F.TIM_NET_STAT_UP, 1)] chip

/-- An offset that leads below second 0 at frame 1000. -/
def farBack : W64 := BitVec.ofInt 64 (-1048576001)

theorem witness_TimeCommandsWaitForTheTick :
    ((chipHeld.flag F.TIM_NET_CFG_DISC_EN && chipHeld.upstream.isSome) = true ∧ Taken (.timeSet hd 0#64 1#64) (st chipHeld) ∧
      Taken (.timeAdjStep hd 1#64 0#64) (st chipHeld) ∧ Taken (.timeAdjSlew hd 1#64 0#64) (st chipHeld)) ∧
    ((chip.flag F.TIM_NET_CFG_DISC_EN && chip.upstream.isSome) = false ∧ Taken (.timeSet hd 0#64 1#64) (st chip) ∧
      Taken (.timeAdjStep hd 1#64 0#64) (st chip) ∧ Taken (.timeAdjSlew hd 1#64 0#64) (st chip)) ∧
    ((chip.now : Int) + farBack.toInt < 0 ∧ Taken (.timeAdjStep hd farBack 0#64) (st chip) ∧ Taken (.timeAdjSlew hd farBack 0#64) (st chip)) :=
  ⟨⟨by decide +kernel, taken_sound (by decide +kernel), taken_sound (by decide +kernel), taken_sound (by decide +kernel)⟩,
   ⟨by decide +kernel, taken_sound (by decide +kernel), taken_sound (by decide +kernel), taken_sound (by decide +kernel)⟩,
   ⟨by decide +kernel, taken_sound (by decide +kernel), taken_sound (by decide +kernel)⟩⟩

theorem witness_EventStatusClearsByMask :
    (Taken (.evtAck hd (w64 (12 * 2 ^ 32 + 1))) (st chip) ∧ 11 < bits (w64 (12 * 2 ^ 32 + 1)).toNat 35 32) ∧
    (Taken (.evtAck hd (w64 (11 * 2 ^ 32 + 1))) (st chip) ∧ bits (w64 (11 * 2 ^ 32 + 1)).toNat 35 32 ≤ 11) ∧
    Taken (.evtStatClear hd 11 1#32) (st chip) ∧ 383 < 384 :=
  ⟨⟨taken_sound (by decide +kernel), by decide +kernel⟩, ⟨taken_sound (by decide +kernel), by decide +kernel⟩,
   taken_sound (by decide +kernel), by decide⟩

theorem witness_ResetPairAndStoreCommandsWait :
    (Taken (.domainReset hd 0x400#64) (st chip) ∧ 1023 < (0x400#64).toNat % 65536) ∧ Taken (.domainReset hd 0x3FF#64) (st chip) ∧
    Taken (.switch hd 1#64) (st chip) ∧ Taken (.clear hd 2#64) (st chip) ∧ Taken (.storeCtlLock hd 0 262143) (st chip) ∧
    Taken (.storeCtlUnlock hd 0 0) (st chip) ∧ Taken (.storeCtlFree hd 1 1) (st chip) ∧ Taken (.storeCtlResync hd 0 0) (st chip) :=
  ⟨⟨taken_sound (by decide +kernel), by decide +kernel⟩, taken_sound (by decide +kernel), taken_sound (by decide +kernel),
   taken_sound (by decide +kernel), taken_sound (by decide +kernel), taken_sound (by decide +kernel), taken_sound (by decide +kernel),
   taken_sound (by decide +kernel)⟩

/-- A chip in the ring: both ports TRAINED in FULL mode with locked PLLs, INRING high. -/
def chipRing : Chip :=
  put [(F.LN_STAT_STATE 0, 4), (F.LN_STAT_STATE 1, 4), (F.LN_STAT_PLL_LOCK 0, 1), (F.LN_STAT_PLL_LOCK 1, 1), (F.LN_STAT_LANE_LOCK 0, 15),
    (F.LN_STAT_LANE_LOCK 1, 15), (F.LN_STAT_LMASK_TX 0, 15), (F.LN_STAT_LMASK_TX 1, 15), (F.LN_STAT_LMASK_RX 0, 15),
    (F.LN_STAT_LMASK_RX 1, 15), (F.LN_STAT_NBR_ADDR 0, 3), (F.LN_STAT_NBR_ADDR 1, 1), (F.LNE_RING_INRING, 1)] chip

theorem witness_LaneCommandsAreRefusedOrWait :
    (Taken (.join hd) (st chip) ∧ chip.trained .east = false) ∧
    (Taken (.join hd) (st chipRing) ∧ chipRing.flag F.GLB_RST_STAT_ADDR_ERR = false ∧
      ∀ p : Port, chipRing.trained p = true ∧ chipRing.inTest p = false ∧ chipRing.flag (F.LN_STAT_PLL_LOCK p.ix) = true) ∧
    Taken (.leave hd) (st chip) ∧ Taken (.retrain hd 3 true) (st chip) ∧
    (Taken (.laneCtlMode hd 0 3) (st chip) ∧ Taken (.laneCtlMode hd 1 2) (st chip) ∧ (1 : Fin 4).val.testBit Port.east.ix = true) ∧
    (Taken (.laneCtlMode hd 3 2) (st chipRing) ∧ ∀ p : Port, chipRing.trained p = true) ∧
    (Taken (.laneCtlLoop hd 3 1) (st chipRing) ∧ chipRing.inring = true ∧ Taken (.laneCtlLoop hd 3 3) (st chip) ∧ chip.inring = false) ∧
    (Taken (.laneCtlPrbs hd 3 true) (st chipRing) ∧ Taken (.laneCtlPrbs hd 3 true) (st chip)) :=
  ⟨⟨taken_sound (by decide +kernel), by decide +kernel⟩,
   ⟨taken_sound (by decide +kernel), by decide +kernel, fun p => by cases p <;> decide +kernel⟩,
   taken_sound (by decide +kernel), taken_sound (by decide +kernel),
   ⟨taken_sound (by decide +kernel), taken_sound (by decide +kernel), by decide +kernel⟩,
   ⟨taken_sound (by decide +kernel), fun p => by cases p <;> decide +kernel⟩,
   ⟨taken_sound (by decide +kernel), by decide +kernel, taken_sound (by decide +kernel), by decide +kernel⟩,
   taken_sound (by decide +kernel), taken_sound (by decide +kernel)⟩

/-- A chip with DIAG_EN. -/
def chipDiag : Chip := chip.setFld F.MIN_CTL_DIAG_EN 1

/-- A chip with pending results of procedure 7. -/
def chipPend : Chip := { chip with cal := { chip.cal with procs := [(7, ⟨false, false, 0, 0, false, true, none⟩)] } }

theorem witness_EngineCommandsReachTheirEngines :
    Taken (.nop hd) (st chip) ∧ Taken (.diagWrFlip hd 0#64 1#64) (st chip) ∧
    (chipDiag.flag F.MIN_CTL_DIAG_EN = true ∧ Taken (.diagWrFlip hd 0#64 1#64) (st chipDiag) ∧
      Taken (.diagWrPoison hd 0#64 1#64) (st chipDiag) ∧ Taken (.diagWrCheck hd 0#64 1#64) (st chipDiag)) ∧
    Taken (.arm hd 0#64) (st chip) ∧ Taken (.fire hd 1#64 0#64 1#64) (st chip) ∧ Taken (.force hd 1#64) (st chip) ∧
    Taken (.calStart hd 255) (st chip) ∧ Taken (.calAbort hd 255) (st chip) ∧
    (Taken (.calApply hd 0x80#64) (st chipPend) ∧ (0x80#64).toNat.testBit 7 = true ∧ (chipPend.calProc 7).pend = true) ∧
    (Taken (.calApply hd 0x80#64) (st chip) ∧ (List.range 8).all (fun i => !(chip.calProc i).pend) = true) :=
  ⟨taken_sound (by decide +kernel), taken_sound (by decide +kernel),
   ⟨by decide +kernel, taken_sound (by decide +kernel), taken_sound (by decide +kernel), taken_sound (by decide +kernel)⟩,
   taken_sound (by decide +kernel), taken_sound (by decide +kernel), taken_sound (by decide +kernel), taken_sound (by decide +kernel),
   taken_sound (by decide +kernel), ⟨taken_sound (by decide +kernel), by decide +kernel⟩,
   ⟨taken_sound (by decide +kernel), by decide +kernel⟩⟩

/-! ### Witnesses: the time base and the resets -/

/-- A chip with TREF present and the time PLL locked. -/
def chipRef : Chip := put [(F.TIM_STAT_TREF_PRESENT, 1), (F.TIM_STAT_TPLL_LOCK, 1)] chip

/-- A chip in holdover whose reference is back for `n` frames. -/
def chipBack (n : Nat) : Chip :=
  put [(F.TIM_STAT_TREF_PRESENT, 1), (F.TIM_STAT_HOLDOVER, 1)] { chip with clk := { chip.clk with presentFrames := n, tuncs := [(900, none)] } }

theorem witness_LossOfReferenceStartsHoldover :
    (chipRef.timeUp = true ∧ chipRef.flag F.TIM_STAT_TREF_PRESENT = true ∧ chipRef.tuncOpen = false ∧ chipRef.clk.tuncs = [] ∧
      ∀ o ∈ (chipRef.region 6).objs, o.tag ≠ chipRef.frameAgo 39) ∧
    (chipRef.clk.counting = true ∧ chipRef.clk.cclk < 39 ∧ 0 ≤ chipRef.clk.cclk) ∧
    (let c : Chip := { chipRef with clk := { chipRef.clk with tuncs := [(900, none)] } }
     c.timeUp = true ∧ c.flag F.TIM_STAT_TREF_PRESENT = true ∧ c.tuncOpen = true) ∧
    (chipRef.timeUp = true ∧ chipRef.flag F.TIM_STAT_TPLL_LOCK = true) ∧
    (State.reset.chip.timeUp = false ∧ chip.flag F.TIM_STAT_TREF_PRESENT = false ∧ chip.flag F.TIM_STAT_TPLL_LOCK = false) := by
  decide +kernel

theorem witness_ReturnOfReferenceEndsHoldover :
    (chip.rst.porst = false ∧ chip.rst.supply = false ∧ chip.flag F.TIM_STAT_TREF_PRESENT = false) ∧
    (let n := max 64 (chip.fld F.TIM_RELOCK_FRAMES) + 65
     (chipBack n).timeUp = true ∧ (chipBack n).clk.everLock = true ∧ (chipBack n).flag F.TIM_STAT_TREF_PRESENT = true ∧
     (chipBack n).tuncOpen = true ∧ (chipBack n).clk.tuncs.drop 1 = [] ∧ (chipBack n).flag F.TIM_STAT_HOLDOVER = true ∧
     max 64 ((chipBack n).fld F.TIM_RELOCK_FRAMES) + 64 < (chipBack n).clk.presentFrames) ∧
    (let n := max 64 (chip.fld F.TIM_RELOCK_FRAMES) + 64
     (chipBack n).timeUp = true ∧ (chipBack n).flag F.TIM_STAT_HOLDOVER = true ∧
     (chipBack n).clk.presentFrames ≤ max 64 ((chipBack n).fld F.TIM_RELOCK_FRAMES) + 64) ∧
    (unlocked.rst.porst = false ∧ unlocked.rst.supply = false ∧ unlocked.clk.everLock = false) := by decide +kernel

theorem witness_Time128ConversionRoundTrips :
    255 < 256 ∧ 312499 < 312500 ∧ 1048575 < 1048576 ∧ 999999999 < 10 ^ 9 ∧ 65535 < 65536 := by decide

/-- A chip that locked and is not ready, with `n` CCLK of its frame passed and steps that wait. -/
def chipTick (n : Nat) (l : List TimeStep) : Chip :=
  { unlocked with clk := { unlocked.clk with everLock := true, counting := true, cclk := n, pendSteps := l } }

theorem witness_FrameTickMovesTheTimeBase :
    (let c := chipTick 2048 []
     c.rst.porst = false ∧ c.rst.supply = false ∧ c.clk.everLock = true ∧ c.rst.ready = false ∧ c.cmd.batch = [] ∧
     c.clk.counting = true ∧ c.clk.cclk ≤ c.frameCclk ∧ c.clk.pendSteps = []) ∧
    (let c := { chipTick 0 [] with net := { chip.net with rate := 256 * 1000000 } }
     c.clk.counting = true ∧ c.clk.cclk ≤ c.frameCclk ∧ c.clk.steppedIn = false ∧ c.frameCclk ≠ 2048) ∧
    (let c := chipTick 0 [.setTo 5, .shift 3]
     c.clk.counting = true ∧ c.clk.cclk ≤ c.frameCclk ∧ c.clk.pendSteps ≠ []) ∧
    (let c := { unlocked with clk := { unlocked.clk with everLock := true } }
     c.rst.porst = false ∧ c.rst.supply = false ∧ c.clk.everLock = true ∧ c.rst.ready = false ∧ c.cmd.batch = [] ∧ c.clk.counting = false) := by
  decide +kernel

/-- A chip under WRST_N alone. -/
def chipWarm : Chip := { chip with rst := { chip.rst with wrst := true } }

theorem witness_WarmResetKeepsTheTimeBase :
    (chip.rst.porst = false ∧ chip.rst.supply = false) ∧ State.reset.chip.rst.porst = true ∧
    (0x1000 ≤ F.TIM_RELOCK_FRAMES.addr ∧ F.TIM_RELOCK_FRAMES.addr < 0x2000 ∧
      ∀ i, i < 8 → F.TIM_RELOCK_FRAMES.addr ≠ (F.TIM_LEDGER_ACTIVE i).addr) ∧
    ((0x2000 ≤ F.CMD_EPOCH_ACTIVE.addr) ∧ F.CMD_EPOCH_ACTIVE.addr ≠ F.GLB_RST_STAT_STRAP.addr ∧
      ∀ p : Port, F.CMD_EPOCH_ACTIVE.addr ≠ (F.LN_STAT_PLL_LOCK p.ix).addr) :=
  ⟨by decide +kernel, by decide +kernel, by decide +kernel, by decide +kernel, by decide +kernel, fun p => by cases p <;> decide +kernel⟩

/-- An up chip that is not ready, with conditions of R416 met. -/
def chipWait (cal mem lock : Bool) : Chip :=
  { unlocked with rst := { RstSt.initial with calDone := cal, memDone := mem }, clk := { unlocked.clk with everLock := lock } }

theorem witness_ReadinessNeedsThreeConditions :
    (State.reset.chip.up = false ∧ State.reset.chip.rst.porst = true) ∧
    (chipWarm.up = false ∧ chipWarm.rst.porst = false ∧ chipWarm.rst.supply = false) ∧ chip.up = true ∧
    ((chipWait false true true).up = true ∧ (chipWait false true true).rst.ready = false ∧ (chipWait false true true).rst.memDone = true ∧
      (chipWait false true true).clk.everLock = true) ∧
    ((chipWait false false true).up = true ∧ (chipWait false false true).rst.memDone = false) ∧
    ((chipWait true false true).up = true ∧ (chipWait true false true).rst.ready = false ∧ (chipWait true false true).rst.calDone = true ∧
      (chipWait true false true).clk.everLock = true) ∧
    ((chipWait true true false).up = true ∧ (chipWait true true false).rst.ready = false ∧ (chipWait true true false).clk.everLock = false) := by
  decide +kernel

/-- A chip with domains in reset or about to enter it, `n` CCLK after its tick. -/
def chipDrst (now next n : Nat) : Chip :=
  { chip with rst := { chip.rst with drstNow := now, drstNext := next }, clk := { chip.clk with cclk := n } }

theorem witness_DomainsEnterResetAndAreReleased :
    ((chipDrst 1023 0 64).rst.drstNow ≠ 0 ∧ (chipDrst 1023 0 64).rst.drstNow < 1024 ∧ 64 ≤ (chipDrst 1023 0 64).clk.cclk) ∧
    (chipDrst 1023 0 63).clk.cclk < 64 ∧ (chipDrst 0 0 64).rst.drstNow = 0 ∧ (chipDrst 0 0 0).rst.drstNext = 0 ∧
    (chipDrst 0 4 0).rst.drstNext = 4 ∧ (chipDrst 0 16 0).rst.drstNext = 16 := by decide +kernel

/-! ### Witnesses: events, the own schedule -/

/-- A chip of the ring with tokens of class 1 on both ports and one raising of group 11 waiting. -/
def chipEvent : Chip :=
  { chipRing with
    evtG := chip.evtG.set 11 ⟨1, 4, 1000, none⟩
    ringE := { chip.ringE with tok1 := 10240 }, ringW := { chip.ringW with tok1 := 10240 } }

/-- A chip out of the ring with one raising of group 11 waiting. -/
def chipEventOut : Chip := { chip with evtG := chip.evtG.set 11 ⟨1, 4, 1000, none⟩ }

theorem witness_EventPacketCarriesItsGroup :
    (let c := chipEvent
     let e := nth ⟨0, 0, 0, none⟩ c.evtG 11
     c.running = true ∧ c.clk.counting = true ∧ c.clk.cclk = 0 ∧ e.count ≠ 0 ∧ e.since = none ∧ c.eventWaits 11 = false ∧
     c.takes c.homePort 1 = true ∧ c.hasTokens c.homePort 1 5 = true ∧ (c.port c.homePort).wait1 = [] ∧ e.count < 65536) ∧
    (let c := chipEventOut
     let e := nth ⟨0, 0, 0, none⟩ c.evtG 11
     c.running = true ∧ c.clk.counting = true ∧ c.clk.cclk = 0 ∧ e.count ≠ 0 ∧ e.since = none ∧ c.eventWaits 11 = false ∧
     c.usable .east 1 = false ∧ c.usable .west 1 = false ∧ (c.port c.homePort).wait1 = [] ∧ 5 ≤ c.tokDepth c.homePort 1) ∧
    (State.reset.chip.running = false ∧ (nth ⟨0, 0, 0, none⟩ chip.evtG 0 : EvtGroup).count = 0) := by decide +kernel

/-- A chip whose CONFIG_HEARTBEAT falls in this frame. -/
def chipBeat (c : Chip) : Chip :=
  put [(F.CMD_HB_CTL_EN, 1), (F.LNE_RING_INRING, 1)]
    { c with ring := { c.ring with hbFrames := some 0 }, ringE := { c.ringE with tok1 := 14336 }, ringW := { c.ringW with tok1 := 14336 } }

/-- A chip that may join at this tick. -/
def chipJoin : Chip := put [(F.LNE_RING_INRING, 0), (F.GLB_RST_CTL_AUTOJOIN, 1)] chipRing

/-- A chip whose temperature sensor is armed. -/
def chipTherm : Chip := { chip with rst := { chip.rst with therm := true } }

theorem witness_OwnScheduleRowsComplete :
    (let c := chipBeat chipRing
     c.ring.hbFrames = some 0 ∧ c.inring = true ∧ c.running = true ∧ c.flag F.CMD_HB_CTL_EN = true ∧
     (c.takes .east 1 = true ∧ c.hasTokens .east 1 7 = true) ∧ c.takes .west 1 = true ∧ c.hasTokens .west 1 7 = true) ∧
    (let c := chipBeat chip
     c.ring.hbFrames = some 0 ∧ c.inring = true ∧ c.running = true ∧ c.flag F.CMD_HB_CTL_EN = true ∧
     c.usable .east 1 = false ∧ c.usable .west 1 = false) ∧
    chip.ring.hbFrames ≠ some 0 ∧
    (let c := chipJoin
     c.running = true ∧ c.flag F.GLB_RST_CTL_AUTOJOIN = true ∧ c.rst.autoDone = false ∧ c.joinOk = true ∧ c.clk.counting = true ∧
     c.clk.cclk = 0 ∧ c.inring = false) ∧
    chip.joinOk = false ∧
    (let high := sext 16 (chip.fld F.GLB_TEMP_LIM_HIGH)
     chip.running = true ∧ chip.rst.therm = false ∧ chipTherm.running = true ∧ chipTherm.rst.therm = true ∧
     high ≤ max (-32768) (min 32767 high) ∧ max (-32768) (min 32767 (high - 1)) < high) ∧
    State.reset.chip.running = false := by decide +kernel

/-! ### Witnesses: the Lawn -/

/-- A chip with the Lawn in operation at its last parterre. -/
def chipLawn : Chip :=
  put [(F.HIT_FE_CTL_LAWN_EN, 1), (F.PRT_CTL_EN 1023, 1), (F.PRT_CTL_TDC0_EN 1023, 1), (F.PRT_CTL_TDC1_EN 1023, 1),
    (F.PRT_STAT_TDC0_LOCK 1023, 1), (F.PRT_STAT_TDC1_LOCK 1023, 1)] chip

/-- A TDC that converts the last pixel, started now. -/
def tdcBusy (c : Chip) : Tdc := ⟨true, 63, c.ltcNow, c.clockFtu, none, false, false, none, c.clockFtu + 9176⟩

/-- A TDC that took its edge long ago. -/
def tdcOld (c : Chip) : Tdc := { tdcBusy c with t0 := c.clockFtu - 1000 }

theorem witness_LeadingEdgeClaimsLowestFreeTdc :
    (parterreOf 255 255 = 1023 ∧ pixKey 255 255 = 65535) ∧
    (let c := chipLawn
     (c.pixel 65535).above = false ∧ (c.pixel 65535).dead = false ∧ c.domainUp 0 = true ∧ c.flag F.HIT_FE_CTL_LAWN_EN = true ∧
     c.gateOpen 65535 1023 = true ∧ c.tdcFree 1023 0 c.clockFtu = true ∧ (c.tdc 1023 0).busy = false ∧ (c.tdc 1023 1).busy = false) ∧
    (let c := setTdc 1023 0 (tdcOld chip) chipLawn
     (c.pixel 65535).above = false ∧ (c.pixel 65535).dead = false ∧ c.domainUp 0 = true ∧ c.flag F.HIT_FE_CTL_LAWN_EN = true ∧
     c.gateOpen 65535 1023 = true ∧ c.tdcFree 1023 1 c.clockFtu = true ∧ c.tdcFree 1023 0 c.clockFtu = false ∧
     (c.tdc 1023 0).t0 + 6 < c.clockFtu ∧ (c.tdc 1023 1).busy = false) ∧
    (pixKey 254 255 = 65279 ∧ parterreOf 254 255 = 1023) ∧
    (let c := setTdc 1023 0 (tdcBusy chip) chipLawn
     (c.pixel 65279).above = false ∧ c.gateOpen 65279 1023 = true ∧ (c.tdc 1023 0).busy = true ∧ (c.tdc 1023 0).close = none ∧
     (c.tdc 1023 0).held = none ∧ c.clockFtu + 6 ≤ (c.tdc 1023 0).t0 + 6 ∧ (c.tdc 1023 0).t0 ≤ c.clockFtu + 6 + 6 ∧
     localPix 254 255 < (c.tdc 1023 0).pix ∧ c.tdcFree 1023 1 (c.tdc 1023 0).t0 = true) ∧
    (let c := setTdc 1023 1 { tdcOld chip with held := some (0#56, 0) } (setTdc 1023 0 (tdcOld chip) chipLawn)
     (c.pixel 65535).above = false ∧ (c.pixel 65535).dead = false ∧ c.domainUp 0 = true ∧ c.flag F.HIT_FE_CTL_LAWN_EN = true ∧
     c.gateOpen 65535 1023 = true ∧ c.tdcFree 1023 0 c.clockFtu = false ∧ c.tdcFree 1023 1 c.clockFtu = false ∧ c.stalled 1023 = true) ∧
    (let c := setTdc 1023 1 (tdcOld chip) (setTdc 1023 0 (tdcOld chip) chipLawn)
     (c.pixel 65535).above = false ∧ (c.pixel 65535).dead = false ∧ c.domainUp 0 = true ∧ c.flag F.HIT_FE_CTL_LAWN_EN = true ∧
     c.gateOpen 65535 1023 = true ∧ c.tdcFree 1023 0 c.clockFtu = false ∧ c.tdcFree 1023 1 c.clockFtu = false ∧ c.stalled 1023 = false) ∧
    (let c := chipLawn.setActive (F.PRT_CTL_EN 1023) 0
     (c.pixel 65535).above = false ∧ (c.pixel 65535).dead = false ∧ c.domainUp 0 = true ∧ c.flag F.HIT_FE_CTL_LAWN_EN = true ∧
     c.gateOpen 65535 1023 = false) ∧
    ((setPixel 65535 { PixSt.rest with above := true } chipLawn).pixel 65535).above = true ∧
    ((setPixel 65535 { PixSt.rest with dead := true } chipLawn).pixel 65535).dead = true ∧ State.reset.chip.domainUp 0 = false := by
  decide +kernel

/-- A FIFO with eight records, the last one written in this CCLK by `who`: 0 and 1 the TDCs, 2 the Folly. -/
def chipFull (who : Nat) (c : Chip) : Chip :=
  { c with lawn := { c.lawn with fifos := [(1023, List.replicate 8 0#56)], written := [(1023, c.cclkNow, [who])] } }

/-- A chip whose first TDC of the last parterre has closed. -/
def chipClosed (tot : Nat) (sat : Bool) : Chip := setTdc 1023 0 { tdcBusy chip with close := some (tot, sat) } chipLawn

theorem witness_ConversionWritesItsRawRecord :
    (let c := setPixel 65535 { PixSt.rest with above := true } (setTdc 1023 0 (tdcBusy chip) chipLawn)
     (c.pixel (pixKey 255 255)).above = true ∧ (c.tdc 1023 0).busy = true ∧ (c.tdc 1023 0).pix = localPix 255 255 ∧
     (c.tdc 1023 0).close = none ∧ (c.tdc 1023 0).held = none) ∧
    (chip.pixel (pixKey 255 255)).above = false ∧
    (let c := { setTdc 1023 0 (tdcBusy chip) chipLawn with clk := { chip.clk with cclk := 256 } }
     (c.tdc 1023 0).busy = true ∧ (c.tdc 1023 0).close = none ∧ (c.tdc 1023 0).held = none ∧
     512 ≤ (c.ltcNow + 65536 - (c.tdc 1023 0).startC) % 65536) ∧
    (let c := chipClosed 511 true
     (c.tdc 1023 0).busy = true ∧ (c.tdc 1023 0).held = none ∧ (c.tdc 1023 0).close = some (511, true) ∧ (c.tdc 1023 0).pix < 64 ∧
     (c.tdc 1023 0).startC < 65536 ∧ (c.fifo 1023).length < 8 ∧ c.stalled 1023 = false ∧
     (8 ≤ ((chipFull 1 c).fifo 1023).length ∧ (chipFull 1 c).stalled 1023 = false ∧ ((chipFull 1 c).tdc 1023 0).close = some (511, true)) ∧
     (8 ≤ ((chipFull 2 c).fifo 1023).length ∧ (chipFull 2 c).stalled 1023 = false ∧ ((chipFull 2 c).tdc 1023 0).close = some (511, true)) ∧
     ((chipFull 2 c).writtenNow 1023).getLast? = some 2 ∧ ((chipFull 1 c).writtenNow 1023).getLast? ≠ some 2) ∧
    (let c := setTdc 1023 0 { tdcBusy chip with held := some (1#56, 5) } chipLawn
     (c.tdc 1023 0).held = some (1#56, 5) ∧ (c.fifo 1023).length < 8 ∧ (c.tdc 1023 1).held = none) ∧
    (let c := setTdc 1023 1 { tdcBusy chip with held := some (1#56, 5) } (setTdc 1023 0 { tdcBusy chip with held := some (1#56, 5) } chipLawn)
     (c.tdc 1023 1).held = some (1#56, 5) ∧ (c.tdc 1023 0).held = some (1#56, 5)) ∧
    (let c := setTdc 1023 1 { tdcBusy chip with held := some (1#56, 4) } (setTdc 1023 0 { tdcBusy chip with held := some (1#56, 5) } chipLawn)
     (c.tdc 1023 0).held = some (1#56, 5) ∧ (c.tdc 1023 1).held = some (1#56, 4)) := by
  decide +kernel

theorem witness_LawnRowsComplete :
    (let c := chipLawn.setFld F.HIT_FE_STAT_SETTLING 1
     c.flag F.HIT_FE_STAT_SETTLING = true ∧ c.lawn.settle = 0) ∧
    (let c := setPixel 65535 { PixSt.rest with above := true, run := 1 } (chipLawn.setActive F.HIT_FE_STUCK_FRAMES 1)
     c.fld F.HIT_FE_STUCK_FRAMES ≠ 0 ∧ c.fld F.HIT_FE_STUCK_FRAMES ≤ (c.pixel 65535).run ∧ (c.pixel 65535).told = false) ∧
    ((setPixel 65535 { PixSt.rest with told := true } chipLawn).pixel (pixKey 255 255)).told = true ∧
    (let c := put [(F.HIT_FE_TP_SCHED_PERIOD, 1), (F.HIT_FE_STAT_TP_ACTIVE, 1)]
       { chipLawn with lawn := { chip.lawn with injAt := [2 * chip.cclkNow + 1] } }
     c.domainUp 0 = true ∧ c.flag F.HIT_FE_STAT_TP_ACTIVE = true ∧ 2 * c.cclkNow + (1 : Fin 2).val ∈ c.lawn.injAt) ∧
    (let c := put [(F.HIT_FE_TP_COUNT, 1), (F.HIT_FE_STAT_TP_ACTIVE, 1)] { chipLawn with lawn := { chip.lawn with tpCount := 1 } }
     c.flag F.HIT_FE_STAT_TP_ACTIVE = true ∧ c.fld F.HIT_FE_TP_COUNT ≠ 0 ∧ c.fld F.HIT_FE_TP_COUNT ≤ c.lawn.tpCount) ∧
    (let c := setTdc 1023 1 (tdcBusy chip) chipLawn
     c.tdcLocked 1023 1 = true ∧ (c.tdc 1023 1).busy = true ∧ (c.tdc 1023 1).held = none) ∧
    (chipLawn.up = true ∧ chipLawn.rst.drstNow = 0) ∧
    (chipLawn.domainUp 1 = true ∧ (chipFull 0 chipLawn).nextGrant 31 = some 31 ∧
      (chipFull 0 chipLawn).fifo (31 + 32 * 31) = 0#56 :: List.replicate 7 0#56) ∧
    (let c := put [(F.HIT_FOLLY_CTL_MODE, 1), (F.PRT_CTL_FOLLY_EN 1023, 1)]
       { chipLawn with lawn := { chip.lawn with follyBase := 2 * chip.cclkNow + 1 } }
     c.domainUp 0 = true ∧ c.fld F.HIT_FOLLY_CTL_MODE = 1 ∧ c.flag (F.PRT_CTL_FOLLY_EN 1023) = true ∧ (c.fifo 1023).length < 8 ∧
     c.stalled 1023 = false ∧ 2 * c.cclkNow + (1 : Fin 2).val = c.lawn.follyBase + 0 * max 16 (c.fld F.HIT_FOLLY_SPACING_TCLK) ∧
     Table.get 0 c.lawn.follyLast 1023 ≠ 2 * c.cclkNow + (1 : Fin 2).val + 1 ∧
     8 ≤ ((chipFull 0 c).fifo 1023).length ∧ 2 * c.cclkNow + (0 : Fin 2).val < c.lawn.follyBase) := by decide +kernel

/-! ### Witnesses: hedges and the acquisition store -/

/-- A record at the last hedge. -/
def rawIn : RawIn := ⟨0xFC#56 ||| 0xFC000000000000#56, 1023, 1000, 0, 0⟩

/-- A hit in the buffer of the last hedge, of frame `f`. -/
def hitAt (f : Nat) : Buffered := ⟨f, 0, 1023, 63, 0#64, 0⟩

/-- A chip whose last hedge holds a hit of frame `f`, past its window, with `a` as the open frame. -/
def chipHit (f : Nat) (last : Option (Nat × Nat × Nat × Nat)) (a : Option FrameAcc) : Chip :=
  { setHedge 31 ⟨0, [], [hitAt f], last⟩ chip with
    clk := { chip.clk with cclk := 2047 }, fb := { FrameBuilder.initial with cur := a } }

/-- An open frame. -/
def acc (id : Nat) : FrameAcc := ⟨id, [], 0, [0, 0, 0, 0], 0, 0, false, false, false, false, false, false, false, false, true, false, false⟩

/-- The hit's window has passed. -/
def past (c : Chip) (f : Nat) : Bool :=
  decide (f * 1048576 + 0 + 256 * max 128 (min 2048 (c.fldAt (c.ageOf f) F.HIT_REORDER_WINDOW)) ≤ c.now)

theorem witness_CorrectionEntersTheReorderBuffer :
    (let c := setHedge 31 ⟨0, [rawIn], List.replicate 255 (hitAt 999), none⟩ chip
     c.domainUp 1 = true ∧ (c.hedge 31).inq = [rawIn] ∧ rawIn.prt < 1024 ∧ (∀ f, f < 1002 → c.calHolds f rawIn.prt (bits rawIn.raw.toNat 55 50) = false) ∧
     (c.hedge 31).buf.length < 256) ∧
    ∀ w, (chip.mem 4).par.get w = 0#8 := by
  refine ⟨by decide +kernel, fun w => ?_⟩
  rw [show (chip.mem 4).par = [] by decide +kernel]
  rfl

theorem witness_HitAndStoreRowsComplete :
    ([hitAt 5, hitAt 6].Pairwise fun x y => keyLt y.key x.key = false) ∧
    (((chipHit 1000 none none).hedge 31).buf = [hitAt 1000] ∧ past (chipHit 1001 none none) 1001 = false) ∧
    (let c := chipHit 999 none none
     let m := c.mem 9
     past c 999 = true ∧ c.domainUp 1 = true ∧
     ((c.setMem 9 { m with par := m.par.set (256 * 31) 0xFF#8 }).mem 9).par.get (256 * 31 + 0) = 0xFF#8 ∧ m.par.get (256 * 31 + 0) = 0#8) ∧
    (let c := chipHit 1000 (some (999, 0, 0, 0)) (some (acc 1000))
     past c 1000 = true ∧ c.domainUp 1 = true ∧ keyLt (hitAt 1000).key (999, 0, 0, 0) = false ∧ c.flag F.TIM_STAT_STEP_HOLD = false ∧
     c.openFrame 1000 = some (acc 1000) ∧ (acc 1000).emit = true) ∧
    (let c := chipHit 998 none (some (acc 1000))
     past c 998 = true ∧ c.openFrame 998 = none ∧ 998 ≤ c.clk.frame) ∧
    (let c := { chipHit 1001 none none with clk := { chip.clk with tick := 1002 * frameUnits } }
     past c 1001 = true ∧ c.domainUp 1 = true ∧ c.openFrame 1001 = none ∧ c.clk.frame < 1001) ∧
    (past (chipHit 998 (some (999, 0, 0, 0)) none) 998 = true ∧ keyLt (hitAt 998).key (999, 0, 0, 0) = true) ∧
    (let c := chipHit 1000 none (some { acc 1000 with emit := false, stepHold := true })
     past c 1000 = true ∧ c.domainUp 1 = true ∧ (c.openFrame 1000).isSome = true) ∧
    ((put [(F.TIM_STAT_STEP_HOLD, 1)] (chipHit 998 (some (999, 0, 0, 0)) none)).flag F.TIM_STAT_STEP_HOLD = true ∧
      past (put [(F.TIM_STAT_STEP_HOLD, 1)] (chipHit 998 (some (999, 0, 0, 0)) none)) 998 = true) ∧
    chip.up = true ∧ ((9 : Fin 10).val < chip.store.regions.length ∧ 1 ≤ (6 : Fin 10).val ∧ (6 : Fin 10).val ≤ 6) := by decide +kernel

/-! ### Witnesses: triggers -/

/-- A chip with the trigger engine on, its last condition on FIRE commands of code 5 and the one before on any FIRE packet. -/
def chipTrig : Chip :=
  put [(F.TRG_CTL_EN, 1), (F.TRG_CCFG_TYPE 31, 8), (F.TRG_CCFG_N 31, 5), (F.TRG_CCFG_TYPE 30, 7), (F.TRG_CCFG_N 30, 16),
    (F.TIM_STAT_QUALITY, 0), (F.TRG_OUT_CTL_EN 7, 1), (F.TRG_OUT_CTL_ARM_MODE 6, 1), (F.TRG_OUT_AUTO_FRAMES 7, 1)] chip

/-- Word 1 of a FIRE: nanoseconds. -/
def fireNs (ns : Nat) : W64 := w64 (ns * 2 ^ 32)

theorem witness_FireIsHeldDroppedOrMet :
    (State.reset.chip.domainUp 2 = false ∧ chip.flag F.TRG_CTL_EN = false) ∧
    (chipTrig.domainUp 2 = true ∧ chipTrig.flag F.TRG_CTL_EN = true ∧ 999999999 < bits (fireNs 1000000000).toNat 63 32) ∧
    (let c := { chipTrig with trg := { chipTrig.trg with dups := [⟨5, 0, 3200000, 0, 0⟩] } }
     bits (fireNs 3200000).toNat 63 32 ≤ 999999999 ∧
     (c.trg.dups.any fun x => x.code == bits (5#64).toNat 3 0 && x.sec == (0#64).toNat && x.ns == bits (fireNs 3200000).toNat 63 32
       && x.sub == bits (fireNs 3200000).toNat 31 16) = true) ∧
    ((bits (fireNs 3206400).toNat 63 32 ≠ 0 ∧ chipTrig.quality ≠ 3) ∧
      (chipTrig.clk.frame + 1) * 1048576 < ofTime128 (0#64).toNat (bits (fireNs 3206400).toNat 63 32) 0 ∧
      ofTime128 (0#64).toNat (bits (fireNs 3206400).toNat 63 32) 0 ≤ chipTrig.now + 312500 * 1048576 ∧ chipTrig.trg.pend.length < 4) ∧
    (chipTrig.now + 312500 * 1048576 < ofTime128 (2#64).toNat 0 0 ∧
      4 ≤ ({ chipTrig with trg := { chipTrig.trg with pend := List.replicate 4 ⟨0, 0, true⟩ } } : Chip).trg.pend.length) ∧
    (let t := ofTime128 (0#64).toNat (bits (fireNs 3203200).toNat 63 32) 0
     ¬ (chipTrig.clk.frame + 1) * 1048576 < t ∧ chipTrig.openFrom ≤ t / 1048576 ∧ chipTrig.trg.events = [] ∧ chipTrig.fb.prev = none ∧
     chipTrig.condType (chipTrig.ageOf (t / 1048576)) 31 = 8 ∧ chipTrig.condLive (chipTrig.ageOf (t / 1048576)) 31 = true ∧
     chipTrig.condCfg (chipTrig.ageOf (t / 1048576)) 31 3 0 = bits (5#64).toNat 3 0 ∧
     chipTrig.condType (chipTrig.ageOf (t / 1048576)) 30 = 7 ∧ chipTrig.condLive (chipTrig.ageOf (t / 1048576)) 30 = true ∧
     chipTrig.condCfg (chipTrig.ageOf (t / 1048576)) 30 4 4 = 1) ∧
    (let c := { chipTrig with trg := { chipTrig.trg with passed := [(998, 1000)] } }
     let t := ofTime128 (0#64).toNat (bits (fireNs 3198400).toNat 63 32) 0
     ¬ (c.clk.frame + 1) * 1048576 < t ∧ c.trg.passed.find? (fun x => decide (x.1 < t / 1048576) && decide (t / 1048576 < x.2)) = some (998, 1000) ∧
     c.openFrom ≤ 1000) ∧
    (chip.quality = 3 ∨ ¬ ((0#64).toNat ≠ 0 ∨ bits (0#64).toNat 63 32 ≠ 0 ∨ bits (0#64).toNat 31 16 ≠ 0)) := by decide +kernel

/-- A packet from device 0 to device 2. -/
def pkt (ptype : BitVec 8) (cls : BitVec 2) (ws : List W64) : Packet := ⟨ptype, cls, 2#5, 0#5, 1#6, false, 0#16, ws, true, false⟩

/-- The conditions under which port E takes a packet in that is addressed to the device. -/
def arrives (c : Chip) (q : Packet) : Bool :=
  c.receives .east && q.dest.toNat == c.addr && q.src != q.dest && decide (c.addr < 31) && q.crcOk && !q.bad

theorem arrives_sound {c : Chip} {q : Packet} (h : arrives c q = true) :
    c.receives .east = true ∧ q.dest.toNat = c.addr ∧ q.src ≠ q.dest ∧ c.addr < 31 ∧ q.crcOk = true ∧ q.bad = false := by
  simpa [arrives, and_assoc] using h

theorem witness_TriggerRowsComplete :
    (arrives chipRing (pkt 0x09#8 0#2 [5#64, 0#64, 0#64]) = true ∧ (pkt 0x09#8 0#2 [5#64, 0#64, 0#64]).cls = 0#2) ∧
    (arrives chipRing (pkt 0x0A#8 1#2 [1#64]) = true ∧ (pkt 0x0A#8 1#2 [1#64]).cls = 1#2 ∧ (pkt 0x0A#8 1#2 [1#64]).ptype ≠ 0x09#8) ∧
    (chipTrig.domainUp 2 = true ∧ chipTrig.flag (F.TRG_OUT_CTL_ARM_MODE 6) = true ∧ chipTrig.outArmed 0 7 chipTrig.clk.frame = true) ∧
    ((setOut 7 ⟨some (65535, 255), none, [], none, none⟩ chipTrig).out 7).armNext = some (65535, 255) ∧ (chipTrig.out 7).armNext = none ∧
    (let c := { chipTrig with trg := { chipTrig.trg with pend := [⟨1000 * 1048576, 5, true⟩, ⟨1001 * 1048576, 5, true⟩] } }
     c.domainUp 2 = true ∧ c.flag F.TIM_STAT_STEP_HOLD = false ∧ c.trg.events = [] ∧
     (∀ p ∈ c.trg.pend.filter (fun p => decide (p.t / 1048576 ≤ c.clk.frame)), c.openFrom ≤ p.t / 1048576) ∧ c.trg.passed = [] ∧
     (let d := { c with trg := { c.trg with passed := [(998, 1000)], pend := [⟨999 * 1048576, 5, true⟩] } }
      (∀ p ∈ d.trg.pend, d.trg.passed.find? (fun x => decide (x.1 < p.t / 1048576) && decide (p.t / 1048576 < x.2)) = some (998, 1000)) ∧
      d.openFrom ≤ 1000)) ∧
    (State.reset.chip.domainUp 2 = false ∧ (chipTrig.setFld F.TIM_STAT_STEP_HOLD 1).flag F.TIM_STAT_STEP_HOLD = true) ∧
    (let c := setOut 7 ⟨none, none, [], none, some 999⟩ chipTrig
     (c.out 7).timer = some 999 ∧ c.domainUp 2 = true ∧ c.fld (F.TRG_OUT_AUTO_FRAMES 7) ≠ 0 ∧
     c.clk.frame = 999 + c.fld (F.TRG_OUT_AUTO_FRAMES 7) ∧ c.outArmed 0 7 c.clk.frame = true ∧ c.capturing 7 = false) ∧
    (chip.out 7).timer = none := by decide +kernel

/-! ### Witnesses: waveforms and the transducer front end -/

/-- A chip with waveform channel 0 on. -/
def chipWave : Chip := put [(F.WAV_CTL_CH_EN, 1), (F.WAV_CTL_MODE, 1)] chip

/-- Channel 0 with an open block of 1000 codes. -/
def waveOpen (n : Nat) : WavCh := ⟨0, 0, 0, 1000, true, false, [⟨1000, 0, List.replicate n 0⟩], none, 0, none⟩

theorem witness_WaveformRowsComplete :
    (let c := chipWave.setFld F.TIM_STAT_STEP_HOLD 1
     c.domainUp 3 = true ∧ c.wavEnabled 0 0 = true ∧ (c.fld F.WAV_STAT_SETTLING).testBit 0 = false ∧ c.flag F.TIM_STAT_STEP_HOLD = true) ∧
    (let c := setWch 0 (waveOpen 2) chipWave
     c.domainUp 3 = true ∧ c.wavEnabled 0 0 = true ∧ c.flag F.TIM_STAT_STEP_HOLD = false ∧ (c.wch 0).open_ = true ∧
     (c.wch 0).blocks.find? (fun x => x.frame == (c.wch 0).frame) = some ⟨1000, 0, [0, 0]⟩ ∧ 0 + 2 * 128 < 1048576) ∧
    (let c := setWch 0 { waveOpen 1 with blocks := [⟨1000, 1048448, [0]⟩] } chipWave
     (c.wch 0).open_ = true ∧ (c.wch 0).blocks.find? (fun x => x.frame == (c.wch 0).frame) = some ⟨1000, 1048448, [0]⟩ ∧
     1048576 ≤ 1048448 + 1 * 128) ∧
    (State.reset.chip.domainUp 3 = false ∧ chip.wavEnabled 0 3 = false) ∧
    (let c := chipWave.setFld F.WAV_STAT_SETTLING 1
     (c.fld F.WAV_STAT_SETTLING).testBit 0 = true ∧ (c.wch 0).settle = 0 ∧ c.cal.ext = none ∧ c.domainUp 3 = true ∧ c.wavEnabled 0 0 = true ∧
     c.apDrives 0 = false ∧ ({ c with cal := { c.cal with ext := some 5 } } : Chip).cal.ext ≠ none ∧
     (let d := put [(F.CAL_CTL_EN, 1)] { c with cal := { c.cal with procs := [(7, ⟨false, true, 1, 0, false, false, none⟩)] } }
      d.apDrives 0 = true)) ∧
    (chip.fld F.WAV_STAT_SETTLING).testBit 3 = false := by decide +kernel

/-- A signed 16-bit field is at least −32,768 and at most 32,767. -/
theorem sext16_bounds (x : Nat) : -32768 ≤ sext 16 x ∧ sext 16 x ≤ 32767 := by
  unfold sext
  dsimp only
  split <;> omega

/-- A chip whose channel 0 began `n` FTU after the start of frame 1000, less 65,536. -/
def chipBegan (n : Nat) : Chip := setWch 0 { waveOpen 0 with open_ := false, began := 2048000 * 512 - 65536 + n } chipWave

theorem witness_WaveformSampleMeetsItsFrame :
    (let c := chipBegan 131072
     (c.wch 0).open_ = false ∧ (((c.wch 0).frame * 1048576 : Nat) : Int) ≤
       ((c.now + (c.wch 0).began + (c.wch 0).n * 128 : Nat) : Int) - (c.clockFtu : Int) + sext 16 (c.fld (F.CAL_WAV_AP_FTU 0))
         + sext 16 (c.fld (F.WAV_CH_DELAY_FTU 0))) ∧
    (let c := chipBegan 0
     (c.wch 0).open_ = false ∧
       ((c.now + (c.wch 0).began + (c.wch 0).n * 128 : Nat) : Int) - (c.clockFtu : Int) + sext 16 (c.fld (F.CAL_WAV_AP_FTU 0))
         + sext 16 (c.fld (F.WAV_CH_DELAY_FTU 0)) < (((c.wch 0).frame * 1048576 : Nat) : Int)) := by
  have a := sext16_bounds ((chipBegan 131072).fld (F.CAL_WAV_AP_FTU 0))
  have b := sext16_bounds ((chipBegan 131072).fld (F.WAV_CH_DELAY_FTU 0))
  have d := sext16_bounds ((chipBegan 0).fld (F.CAL_WAV_AP_FTU 0))
  have e := sext16_bounds ((chipBegan 0).fld (F.WAV_CH_DELAY_FTU 0))
  have f : ((chipBegan 131072).wch 0).frame * 1048576 = 1048576000 ∧
      (chipBegan 131072).now + ((chipBegan 131072).wch 0).began + ((chipBegan 131072).wch 0).n * 128 = 2097217536 ∧
      (chipBegan 131072).clockFtu = 1048576000 ∧ ((chipBegan 131072).wch 0).open_ = false := by decide +kernel
  have g : ((chipBegan 0).wch 0).frame * 1048576 = 1048576000 ∧
      (chipBegan 0).now + ((chipBegan 0).wch 0).began + ((chipBegan 0).wch 0).n * 128 = 2097086464 ∧
      (chipBegan 0).clockFtu = 1048576000 ∧ ((chipBegan 0).wch 0).open_ = false := by decide +kernel
  obtain ⟨f1, f2, f3, f4⟩ := f
  obtain ⟨g1, g2, g3, g4⟩ := g
  dsimp only
  rw [f1, f2, f3, g1, g2, g3]
  refine ⟨⟨f4, ?_⟩, g4, ?_⟩ <;> omega

/-- After settling a channel's first instants are fresh; later the same instants are slipped samples. -/
theorem witness_SlippedAndFreshSamples :
    (let c := chipBegan 0
     (c.wch 0).fresh = false ∧ ((c.now + (c.wch 0).began + (c.wch 0).n * 128 : Nat) : Int) - (c.clockFtu : Int)
       + (sext 16 (c.fldAt 1 (F.CAL_WAV_AP_FTU 0)) + sext 16 (c.fldAt 1 (F.WAV_CH_DELAY_FTU 0))) < (((c.wch 0).frame * 1048576 : Nat) : Int)) ∧
    ((setWch 0 { waveOpen 0 with open_ := false, fresh := true } chipWave).wch 0).fresh = true := by
  have d := sext16_bounds ((chipBegan 0).fldAt 1 (F.CAL_WAV_AP_FTU 0))
  have e := sext16_bounds ((chipBegan 0).fldAt 1 (F.WAV_CH_DELAY_FTU 0))
  have g : ((chipBegan 0).wch 0).frame * 1048576 = 1048576000 ∧
      (chipBegan 0).now + ((chipBegan 0).wch 0).began + ((chipBegan 0).wch 0).n * 128 = 2097086464 ∧
      (chipBegan 0).clockFtu = 1048576000 ∧ ((chipBegan 0).wch 0).fresh = false := by decide +kernel
  obtain ⟨g1, g2, g3, g4⟩ := g
  dsimp only
  rw [g1, g2, g3]
  refine ⟨⟨g4, ?_⟩, by decide +kernel⟩
  omega

/-- A chip whose transducer sequencer runs an entry. -/
def chipXdc (r : Option XdcRun) : Chip :=
  put [(F.XDC_SEQ_CTL_PROFILE, 1)] { chip with clk := { chip.clk with cclk := 256 }, xdc := { Xdc.initial with due := true, run := r } }

/-- Entry 63 with source A on, started at the tick. -/
def run63 (sampling : Bool) (start resetAt outputs : Nat) : XdcRun :=
  ⟨63, none, [7], start, start + 16384, resetAt, sampling, outputs, false, false, true, false, start, start, false, false⟩

/-- The device-clock time at the start of frame 1000. -/
def t1000 : Nat := 2048000 * 512

theorem witness_SequencerRowsComplete :
    (chip.xprofile = 0 ∧ chip.xdc.due = false ∧ State.reset.chip.domainUp 4 = false) ∧
    (let c := chipXdc (some (run63 true t1000 t1000 0))
     c.domainUp 4 = true ∧ c.xprofile ≠ 0 ∧ c.xdc.due = true ∧ c.xdc.run = some (run63 true t1000 t1000 0)) ∧
    (let c := chipXdc none
     c.xdc.run = none ∧ c.lent ≠ [] ∧ c.xdc.pend = 0 ∧ c.xdc.redo = none ∧ c.xpass = []) ∧
    (let c := put [(F.XDC_ROUTE_EN 63, 1), (F.XDC_ROUTE_POS 63, 1), (F.XDC_ROUTE_NEG 63, 2), (F.XDC_ROUTE_SRC 63, 3),
      (F.XDC_ROUTE_SRC2 63, 4), (F.XDC_ROUTE_SINK 63, 5), (F.XDC_ROUTE_BIAS 63, 6), (F.XDC_CONV_OSR 63, 4), (F.XDC_ROUTE_EXC 63, 0)]
        (chipXdc none)
     c.xdc.run = none ∧ c.lent ≠ [] ∧ c.xdc.pend = 0 ∧ c.xdc.redo = none ∧ c.xdc.ovr = false ∧ c.xpass = [63]) ∧
    (let c := chipXdc (some (run63 false t1000 (t1000 + 131072) 0))
     (run63 false t1000 (t1000 + 131072) 0).sampling = false ∧ (run63 false t1000 (t1000 + 131072) 0).resetAt ≤ c.clockFtu ∧
     c.clockFtu < (run63 false t1000 (t1000 + 131073) 0).resetAt) ∧
    (let r := run63 true 0 t1000 0
     r.srcA = true ∧ r.onA + (chipXdc (some r)).xpw r.entry * 327680 ≤ (chipXdc (some r)).clockFtu) ∧
    (let r := run63 true t1000 t1000 0
     (chipXdc (some r)).clockFtu < r.onA + (chipXdc (some r)).xpw r.entry * 327680 ∧ r.srcB = false ∧
     r.closeAt ≤ (chipXdc (some r)).clockFtu ∧ ¬ { r with closeAt := t1000 + 256 * 512 + 1 }.closeAt ≤ (chipXdc (some r)).clockFtu ∧
     (chipXdc (some r)).flag (F.XDC_CONV_BURNOUT 63) = false) ∧
    ((chipXdc none).flag F.XDC_SEQ_CTL_MARK = false ∧ (put [(F.XDC_SEQ_CTL_MARK, 1)] (chipXdc none)).flag F.XDC_SEQ_CTL_MARK = true) := by
  decide +kernel

theorem witness_OutputsFollowTheirCodes :
    (chipXdc none).xdc.run = none ∧ (run63 false t1000 t1000 0).sampling = false ∧
    (let r := run63 true 0 0 0
     let c := chipXdc (some r)
     r.sampling = true ∧ r.outputs < 2 ∧ r.resetAt + (r.outputs + 1) * 2 ^ c.xosr 0 r.entry * 131072 ≤ c.clockFtu ∧
     c.flag F.XDC_SEQ_CTL_MARK = false) ∧
    (let r := run63 true 0 0 2
     let c := chipXdc (some r)
     2 ≤ r.outputs ∧ r.resetAt + (r.outputs + 1) * 2 ^ c.xosr 0 r.entry * 131072 ≤ c.clockFtu ∧
     c.flag (F.XDC_CONV_BURNOUT r.entry) = false ∧ (put [(F.XDC_CONV_BURNOUT 63, 1)] c).flag (F.XDC_CONV_BURNOUT 63) = true) ∧
    (let r := run63 true t1000 t1000 2
     (chipXdc (some r)).clockFtu < r.resetAt + (r.outputs + 1) * 2 ^ (chipXdc (some r)).xosr 0 r.entry * 131072) ∧
    ((8388606 : Int) < 8388607 ∧ ¬ ((8388606 : Int) < 8388606) ∧ (-8388607 : Int) < -8388606) := by decide +kernel

/-- A result of entry 63 in the linearisation engine. -/
def res63 (invalid : Bool) : XdcRes := ⟨63, 1000 * 1048576, 0x100000, invalid, false, false, false, false, false, 1, false⟩

/-- A chip with this result, `n` CCLK after the tick, with linearisation of the entry on or off. -/
def chipRes (invalid : Bool) (lin n : Nat) : Chip :=
  put [(F.XDC_OUT_LIN_EN 63, lin)] { chip with clk := { chip.clk with cclk := n }, xdc := { Xdc.initial with results := [res63 invalid] } }

/-- The same chip with a coefficient that is NaN. -/
def chipNaN : Chip :=
  (chipRes false 1 256).setMem 7
    { (chip.mem 7) with data := (chip.mem 7).data.set (16 * (chipRes false 1 256).fld (F.XDC_OUT_TABLE 63) + 14) (w64 f32NaN) }

theorem witness_ResultsAreLinearised :
    (chip.xdc.results = [] ∧ (chipRes false 1 255).xdc.results = [res63 false] ∧ (chipRes false 1 255).now < (res63 false).time + 131072) ∧
    (let c := chipRes true 0 256
     c.xdc.results = [res63 true] ∧ (res63 true).time + 131072 ≤ c.now ∧ (res63 true).raw < 2 ^ 24 ∧ (res63 true).entry < 64 ∧
     c.flagAt (c.ageOf ((res63 true).time / 1048576)) (F.XDC_OUT_LIN_EN 63) = false ∧ (res63 true).invalid = true) ∧
    (let c := chipRes false 1 256
     (res63 false).time + 131072 ≤ c.now ∧ c.ageOf ((res63 false).time / 1048576) = 0 ∧ c.flagAt 0 (F.XDC_OUT_LIN_EN 63) = true ∧
     ((res63 false).invalid || (res63 false).ovr || (res63 false).opened) = false ∧
     (c.xtemp 0 63 ((res63 false).time / 1048576)).isSome = true ∧ (c.mem 7).par = [] ∧
     bits (c.memData 7 (16 * c.fldAt 0 (F.XDC_OUT_TABLE 63) + 14)) 31 0 = 0 ∧ f32IsNaN 0 = false ∧ f32IsInf 0 = false) ∧
    (chipNaN.flagAt 0 (F.XDC_OUT_LIN_EN 63) = true ∧
      bits (chipNaN.memData 7 (16 * chipNaN.fldAt 0 (F.XDC_OUT_TABLE 63) + 14)) 31 0 = f32NaN ∧ f32IsNaN f32NaN = true ∧
      f32IsNaN (f32Mul f32NaN (chipNaN.xvalue 0 63 0x100000)) = true) := by decide +kernel

/-! ### Witnesses: time inputs and pulse outputs -/

/-- A chip with interval channel 3 on inputs 0 and 1. -/
def chipTip (mode start stop presc : Nat) : Chip :=
  put [(F.TIP_TI_CFG_EN 0, 1), (F.TIP_TI_CFG_EN 1, 1), (F.TIP_TI_CFG_PRESC 0, presc), (F.TIP_CH_CTL_EN 3, 1), (F.TIP_CH_CTL_MODE 3, mode),
    (F.TIP_CH_CTL_START 3, start), (F.TIP_CH_CTL_STOP 3, stop), (F.TIP_CH_TMO_FRAMES 3, 1), (F.TIP_CH_GATE_FRAMES 3, 1)] chip

/-- Interval channel 3 armed at a time, with the previous stamp, the start of its gate, gate frames and edges. -/
def tipSt (armed prev : Option Nat) (gate0 gateN edges : Nat) : TipCh :=
  ⟨0, armed, prev, gate0, gateN, edges, 0, 0, [], 0, 0, 0, 0, 0, 0, false, 0⟩

/-- Among the settings of three frames there are the newest ones that fit a time, or none of them does (R26). -/
theorem some_fit (fits : Nat → Prop) (d : Nat) :
    ∃ k, (k < 3 ∧ fits k ∧ ∀ j, j < k → ¬ fits j) ∨ ((∀ j, j < 3 → ¬ fits j) ∧ k = d) := by
  classical
  by_cases h0 : fits 0
  · exact ⟨0, .inl ⟨by decide, h0, fun j hj => absurd hj (Nat.not_lt_zero j)⟩⟩
  by_cases h1 : fits 1
  · exact ⟨1, .inl ⟨by decide, h1, fun j hj => by rwa [Nat.lt_one_iff.1 hj]⟩⟩
  by_cases h2 : fits 2
  · refine ⟨2, .inl ⟨by decide, h2, fun j hj => ?_⟩⟩
    rcases j with _ | _ | j
    · exact h0
    · exact h1
    · omega
  · refine ⟨d, .inr ⟨fun j hj => ?_, rfl⟩⟩
    rcases j with _ | _ | _ | j
    · exact h0
    · exact h1
    · exact h2
    · omega

theorem witness_TimeInputRowsComplete :
    (State.reset.chip.domainUp 5 = false ∧ chip.flag (F.TIP_TI_CFG_EN 7) = false ∧ chip.calRuns 6 = false) ∧
    (let c := chipTip 0 0 1 0
     c.domainUp 5 = true ∧ c.flag (F.TIP_TI_CFG_EN 0) = true ∧ min 8 (c.fld (F.TIP_TI_CFG_PRESC 0)) = 0 ∧ (c.ti 0).lastR = none ∧
     (chip.mem 4).par = []) ∧
    (let c := setTi 0 ⟨0, some (t1000 - 9174), none, []⟩ (chipTip 0 0 1 0)
     (c.ti 0).lastR = some (t1000 - 9174) ∧ c.clockFtu + 256 * 0 + 16 * 0 + 0 < t1000 - 9174 + 9175 ∧
     ¬ (c.clockFtu + 256 * 0 + 16 * 0 + 0 < t1000 - 9175 + 9175)) ∧
    (let c := setTi 0 ⟨128, none, none, []⟩ (chipTip 0 0 1 8)
     0 < min 8 (c.fld (F.TIP_TI_CFG_PRESC 0)) ∧ (c.ti 0).count = 2 ^ (8 - 1) ∧ ((chipTip 0 0 1 8).ti 0).count = 0 ∧
     ((setTi 0 ⟨255, none, none, []⟩ c).ti 0).count ≠ 0 ∧ ((setTi 0 ⟨255, none, none, []⟩ c).ti 0).count ≠ 2 ^ (8 - 1)) ∧
    (let c := setTi 1 ⟨0, none, none, [(6, true)]⟩ (setTi 0 ⟨0, none, none, [(5, false), (6, true), (7, true)]⟩ (chipTip 0 0 1 0))
     c.channelEdges 3 7 = [(6, 0), (6, 2)] ∧ (setTip 3 { tipSt none none 0 0 0 with begun := 7 } c).channelEdges 3 8 = [(7, 0)]) ∧
    (let c := setTip 3 (tipSt (some 5) none 0 0 0) (chipTip 0 0 1 0)
     c.tipExpired 3 (5 + 1048576) = true ∧ c.tipExpired 3 (4 + 1048576) = false ∧ c.fld (F.TIP_CH_CTL_MODE 3) = 0 ∧ (c.tip 3).armed = some 5 ∧
     ((chipTip 0 0 1 0).tip 3).armed = none ∧ (chipTip 0 0 1 0).tipExpired 3 5 = false) ∧
    (let c := setTip 3 (tipSt none (some 5) 0 0 0) (chipTip 1 0 1 0)
     c.tipExpired 3 6 = false ∧ c.fld (F.TIP_CH_CTL_MODE 3) = 1 ∧ (c.tip 3).prev = some 5) ∧
    (let c := setTip 3 (tipSt none none 5 0 0) (chipTip 2 0 1 0)
     c.tipExpired 3 6 = false ∧ c.fld (F.TIP_CH_CTL_MODE 3) = 2 ∧ 4 < (c.tip 3).gate0 ∧ (c.tip 3).gate0 ≤ 5 ∧
     4 + 1048576 < (c.tip 3).gate0 + max 1 (c.fld (F.TIP_CH_GATE_FRAMES 3)) * 1048576 ∧
     (c.tip 3).gate0 + max 1 (c.fld (F.TIP_CH_GATE_FRAMES 3)) * 1048576 ≤ 5 + 1048576) ∧
    ((chipTip 3 0 1 0).tipExpired 3 6 = false ∧ (chipTip 3 0 1 0).fld (F.TIP_CH_CTL_MODE 3) = 3) ∧
    (let c := setTip 3 (tipSt (some 5) none 0 0 0) (chipTip 0 0 1 0)
     c.fld (F.TIP_CH_TMO_FRAMES 3) ≠ 0 ∧ (c.tip 3).armed.or (c.tip 3).prev = some 5 ∧
     5 + c.fld (F.TIP_CH_TMO_FRAMES 3) * 1048576 ≤ c.tiHorizon.toNat) ∧
    ((chip.tip 3).armed.or (chip.tip 3).prev = none ∧ chip.tipOn 3 = false) ∧
    (let c := setTip 3 { tipSt none none 5 1 2 with ahead := [5 + 1048576] } (chipTip 2 0 1 0)
     c.tipOn 3 = true ∧ c.fld (F.TIP_CH_CTL_MODE 3) = 2 ∧ max 1 (c.fld (F.TIP_CH_GATE_FRAMES 3)) = 1 ∧ 1 ≤ (c.tip 3).gateN ∧
     (((c.tip 3).gate0 + 1048576 : Nat) : Int) ≤ c.tiHorizon ∧ (c.tip 3).ahead = [5 + 1048576] ∧
     ((setTip 3 (tipSt none none 5 1 2) c).tip 3).ahead = []) := by decide +kernel

/-- A chip whose pulse output 7 runs its schedule. -/
def chipPulse (periodic count : Nat) (x : PoSt) : Chip :=
  put [(F.TIP_PO_CTL_PERIODIC 7, periodic), (F.TIP_PO_COUNT_COUNT 7, count)] { chip with pos := [(7, x)] }

/-- A chip with FTO on, at frame `f` and CCLK `n`. -/
def chipFto (f n : Nat) : Chip := put [(F.TIP_FTO_CTL_EN, 1), (F.TIP_FTO_CTL_SEC_MARK, 1)] { chip with clk := { chip.clk with frame := f, cclk := n } }

theorem witness_PulseAndStatisticsRowsComplete :
    (2 ^ 200 - 1 < 2 ^ 200) ∧
    ((3 : Nat) < 4 ∧ min (2 ^ 24) ((put [(F.TIP_CH_NSTAT_N 3, 2)] chip).fld (F.TIP_CH_NSTAT_N 3)) = 2 ∧
      ((setTip 3 { tipSt none none 0 0 0 with setN := 1 } chip).tip 3).setN = 1 ∧ (chip.tip 3).setN = 0) ∧
    (let c := chipPulse 1 1 ⟨none, true, 0, 0⟩
     c.domainUp 5 = true ∧ c.standby = false ∧ (c.po 7).live = true ∧ c.poLeft 7 = true ∧ (c.po 7).on = none ∧
     c.poStart 7 (c.po 7).next ≤ (c.now : Int) + 511 ∧ c.flag (F.TIP_PO_CTL_PERIODIC 7) = true ∧
     c.fld (F.TIP_PO_COUNT_COUNT 7) ≠ 0 ∧ c.fld (F.TIP_PO_COUNT_COUNT 7) ≤ (c.po 7).fired + 1) ∧
    (chip.po 7).live = false ∧
    (let c := chipPulse 0 0 ⟨some (true, 1000 * 1048576 + 511), false, 1, 1⟩
     (c.po 7).on = some (true, 1000 * 1048576 + 511) ∧ 1000 * 1048576 + 511 ≤ c.now + 511) ∧
    ((chip.po 7).on = none ∧ chip.now + 511 < 1000 * 1048576 + 512) ∧
    (let c := chipFto 312500 0
     c.up = true ∧ c.flag F.TIP_FTO_CTL_EN = true ∧ c.clk.everLock = true ∧ c.clk.counting = true ∧ c.clk.cclk = 0 ∧
     c.clk.steppedIn = false ∧ (c.clk.frame % 312500) % 2 ^ min 8 (c.fld F.TIP_FTO_CTL_DIV) = 0) ∧
    ((chipFto 312500 1).clk.cclk ≠ 0 ∧
      (if (chipFto 312500 1536).flag F.TIP_FTO_CTL_SEC_MARK = true ∧ (chipFto 312500 1536).clk.frame % 312500 = 0 then 1536 else 1024)
        ≤ (chipFto 312500 1536).clk.cclk ∧
      ¬ (if (chipFto 312501 1023).flag F.TIP_FTO_CTL_SEC_MARK = true ∧ (chipFto 312501 1023).clk.frame % 312500 = 0 then 1536 else 1024)
        ≤ (chipFto 312501 1023).clk.cclk) := by decide +kernel

/-! ### Witnesses: calibration, measures, safety, streams -/

/-- A chip with the calibration engine on, parterre 1023 in service, and quiet frames. -/
def chipCal (i : Nat) (x : CalProc) : Chip :=
  put [(F.CAL_CTL_EN, 1), (F.CAL_STAT_QUIET, 1)] { chipLawn with cal := { Cal.initial with procs := [(i, x)] } }

/-- A procedure that runs since some ticks. -/
def calRun (age : Nat) (fallback : Bool) : CalProc := ⟨false, true, age, 0, fallback, false, none⟩

theorem witness_CalibrationRowsComplete :
    (let c := put [(F.CAL_P_CTL_INTERVAL 7, 5)] (chipCal 7 ⟨false, false, 0, 5, false, false, none⟩)
     c.fld (F.CAL_P_CTL_INTERVAL 7) ≠ 0 ∧ c.fld (F.CAL_P_CTL_INTERVAL 7) ≤ (c.calProc 7).since ∧ (c.calProc 7).run = false ∧
     c.flag F.CAL_CTL_EN = true ∧ c.domainUp 6 = true) ∧
    (chip.calProc 7).run = false ∧
    (let n := max 1 (chip.fld (F.CAL_P_MAX_FRAMES 0))
     (∀ i, i = 0 ∨ i = 2 → ((chipCal i (calRun n false)).calProc i).run = true ∧ n ≤ ((chipCal i (calRun n false)).calProc i).age) ∧
     (chipCal 0 (calRun n false)).flag F.CAL_CTL_EN = true ∧ (chipCal 0 (calRun n false)).domainUp 6 = true ∧
     (chipCal 0 (calRun n false)).fld (F.CAL_P_MAX_FRAMES 0) = chip.fld (F.CAL_P_MAX_FRAMES 0)) ∧
    (let c := { chipCal 0 (calRun 0 false) with cal := { (chipCal 0 (calRun 0 false)).cal with
       probes := [(1023, ⟨63, 31, 33, 1, max 1 (chip.fld F.CAL_THEQ_CFG_DWELL)⟩)] } }
     c.calRuns 0 = true ∧ c.calMay 1023 (c.probe 1023).pix = true ∧ c.flag (F.PRT_CTL_EN 1023) = true ∧ (c.probe 1023).pix = 63 ∧
     (c.pixLatch (pixKey (rowOf 1023 63) (colOf 1023 63))).testBit 6 = false ∧
     max 1 (c.fld F.CAL_THEQ_CFG_DWELL) ≤ (c.probe 1023).frames ∧ chip.calRuns 0 = false) ∧
    (let c := chipCal 4 (calRun 0 false)
     let d := { c with cal := { c.cal with pulses := [(1023, ⟨63, 0, 0, none, none, 0, 0, 0⟩)] }, clk := { c.clk with cclk := 512 } }
     d.quietProc = some 4 ∧ d.calMay 1023 (d.pulsePrt 1023).pix = true ∧ (d.pulsePrt 1023).at_ ≠ d.clk.ticks + 1 ∧ 512 ≤ d.clk.cclk ∧
     (d.pulsePrt 1023).shots < max 1 (d.fld F.CAL_PULSE_CFG_PULSES) ∧ chip.quietProc ≠ some 4 ∧ chip.quietProc ≠ some 1) := by
  refine ⟨by decide +kernel, by decide +kernel, ⟨fun i h => ?_, by decide +kernel⟩, by decide +kernel, by decide +kernel⟩
  rcases h with rfl | rfl <;> decide +kernel

theorem witness_CalTdcInjectionIsDue :
    let c := chipCal 1 (calRun 0 true)
    c.quietProc = some 1 ∧ c.flag (F.PRT_CTL_EN 1023) = true ∧ 4 * 1023 + 3 ∈ c.tdcUnits ∧ c.convN (4 * 1023 + 3) < c.tdcM ∧
      (c.tdcPulse 1023).pix = 64 ∧ (c.tdcPulse 1023).at_ ≠ c.clk.ticks + 1 ∧ c.nextPix 1023 0 = 0 ∧ c.calMay 1023 0 = true := by decide +kernel

theorem witness_CalSliceAndRampRows :
    (let c := { chip with cal := { Cal.initial with slices := [(7, ⟨0, true, -512, 511, 0⟩)], ext := some 0 } }
     (c.sliceSt 7).due = true ∧ -512 ≤ (c.sliceSt 7).offset ∧ (c.sliceSt 7).gain ≤ 511 ∧ c.cal.ext = some 0 ∧
     c.cal.extFirst = false ∧ (∀ j, j < 4 → Table.get [] c.cal.winReady j = [])) ∧
    chip.cal.ext ≠ some 0 ∧ ({ chip with cal := { Cal.initial with slices := [(7, ⟨0, false, 0, 0, 0⟩)] } }.sliceSt 7).due = false ∧
    (let c := put [(F.CAL_CTL_EN, 1)] { chip with cal := { Cal.initial with ramp := max 1 (chip.fld F.CAL_RAMP_FRAMES), tgtGain := [(1023, 8191)] } }
     c.flag F.CAL_CTL_EN = true ∧ c.domainUp 6 = true ∧ max 1 (c.fld F.CAL_RAMP_FRAMES) ≤ c.cal.ramp ∧ c.cal.tgtTrim = [] ∧
     c.cal.tgtGain = [(1023, 8191)] ∧ (c.cmd.touched.get (F.PRT_GAIN_G 1023).addr).toNat % 2 ^ 13 = 0 ∧ (put [(F.CAL_CTL_EN, 0)] chip).flag F.CAL_CTL_EN = false) ∧
    (65535 < 65536 ∧ 63 < 64 ∧ chip.mems.length = 12 ∧ (chip.mem 2).par.get (65535 / 8) = 0#8 ∧ (chip.mem 3).par.get (65535 / 8) = 0#8 ∧
      (chip.cmd.touched.get (0x300000 + 65535 / 4 * 4)).toNat = 0) := by decide +kernel

/-- A stream block of coder 0 that has reached its size. -/
def cfg0 (dest : Nat) : StreamCfg := ⟨1, 1, 0, false, dest, 1, 1, 1, 1, 0⟩

/-- A coded block that waits. -/
def out0 : StreamOut := ⟨cfg0 1, 0, 1000, 0, 0, [1, 2, 3], 3, 0⟩

theorem witness_MeasureSafetyAndStreamRowsComplete :
    (let c := put [(F.LOOP_CTL_EN, 1), (F.LOOP_M_CFG_TYPE 127, 1), (F.LOOP_M_P1_RMAX 127, 255), (F.LOOP_M_P1_CMAX 127, 255)]
       (setMeasure 127 { Meas.rest with rw := 5, blk := 1 } chip)
     c.flag F.LOOP_CTL_EN = true ∧ c.measOk 0 127 = true ∧ c.measType 0 127 = 1 ∧ (c.measure 127).rw = 5 ∧
     (c.measure 127).blk ≠ c.now / blockFtu 5 ∧
     ∀ k, k < 16 → c.fld (F.LOOP_SC_CFG_TYPE k) ≠ 1 ∧ c.fld (F.LOOP_SC_CFG_TYPE k) ≠ 2) ∧
    chip.flag F.LOOP_CTL_EN = false ∧
    (let c := setSc 15 ⟨false, max 1 (chip.fld (F.LOOP_SC_MIN_FRAMES 15)), false⟩ (chip.setFld F.LOOP_SAFE_STAT_ASSERT 0x8000)
     c.asserting 15 = true ∧ c.latched 15 = false ∧ c.flag (F.LOOP_SC_CFG_LATCH 15) = false ∧ (c.scState 15).met = false ∧
     max 1 (c.fld (F.LOOP_SC_MIN_FRAMES 15)) ≤ (c.scState 15).frames ∧ c.clk.cclk = 0 ∧ c.flag F.LOOP_CTL_FORCE_A = false ∧
     (List.range 15).all (fun j => !c.asserting j) = true) ∧
    chip.asserting 15 = false ∧ State.reset.chip.domainUp 7 = false ∧
    (chip.domainUp 7 = true ∧ (chip.slane 15 7).inq = [] ∧ (chip.slane 15 7).outq = [] ∧ (chip.slane 15 7).open_ = none) ∧
    (let c := setSlane 15 7 { StreamLane.rest with outq := [out0] } chip
     (c.slane 15 7).inq = [] ∧ (c.slane 15 7).open_ = none ∧ (c.slane 15 7).outq = [out0] ∧ (emitBlock 15 7 out0 c).isSome = true ∧
     emitBlock 15 7 out0 (c.setActive (regionSizeF 8) 0) = none) := by decide +kernel

/-- An open block of 512 words of coder 0. -/
def blk0 : StreamBlk := ⟨List.replicate 512 0#64, [], cfg0 1, 1000, 0, [(0, 1001, 1)], false, false, [0], 0⟩

theorem witness_StreamBlockIsFull :
    let c := setSlane 15 7 { StreamLane.rest with open_ := some blk0 } chip
    c.domainUp 7 = true ∧ (c.slane 15 7).inq = [] ∧ (c.slane 15 7).outq = [] ∧ (c.slane 15 7).open_ = some blk0 ∧
      512 * blk0.cfg.blk ≤ blk0.words.length ∧ blk0.cfg.coder = 0 := by
  refine ⟨by decide +kernel, by decide +kernel, by decide +kernel, rfl, ?_, rfl⟩
  rw [show blk0.words = List.replicate 512 0#64 from rfl, List.length_replicate]
  decide

/-! ### Witnesses: the lanes -/

/-- A chip whose port E is in a state of training, with lanes locked. -/
def chipLane (state lanes : Nat) : Chip :=
  put [(F.LN_STAT_STATE 0, state), (F.LN_STAT_LANE_LOCK 0, lanes), (F.LN_STAT_PLL_LOCK 0, 1), (F.LN_CFG_EN 0, 1), (F.LN_CFG_FALLBACK_EN 0, 1)] chip

theorem witness_LaneTrainingRowsComplete :
    (chip.up = true ∧ chip.flag (F.LN_STAT_PLL_LOCK 0) = false ∧ chip.running = true) ∧
    ((chipWait true false true).up = true ∧ (chipWait true false true).running = false) ∧
    (chipRing.flag (F.LN_STAT_PLL_LOCK 0) = true ∧ chipRing.trained .east = true ∧ chipRing.inring = true) ∧
    ((chipLane 1 0).lnState .east = 1 ∧ (1 : Fin 16).val ≠ 0) ∧
    ((chipLane 2 15).lnState .east = 2 ∧ (chipLane 2 15).rxLane .east 3 = true ∧
      ((chipLane 2 7).fld (F.LN_STAT_LANE_LOCK 0)).testBit 3 = false) ∧
    (put [(F.LN_ADAPT_DFE_EN 0, 1)] (chipLane 2 15)).flag (F.LN_ADAPT_DFE_EN 0) = true ∧
    (put [(F.LN_ADAPT_DFE_EN 0, 0)] (chipLane 2 15)).flag (F.LN_ADAPT_DFE_EN 0) = false ∧
    ((chipLane 3 15).lnState .east = 3 ∧ (chipLane 3 15).flag (F.LN_STAT_FALLBACK 0) = false ∧ 1650 ≤ 1650 ∧ 1650 < 1651 ∧
      (put [(F.LN_STAT_FALLBACK 0, 1)] (chipLane 3 15)).flag (F.LN_STAT_FALLBACK 0) = true ∧ 660 < 661) ∧
    ((chipLane 3 15).flag (F.LN_STAT_LOCAL 0) = false ∧ (put [(F.LN_STAT_LOCAL 0, 1)] (chipLane 3 15)).flag (F.LN_STAT_LOCAL 0) = true) ∧
    (chipRing.rxLane .east 3 = true ∧ chipRing.lnState .east = 4 ∧ (put [(F.LN_STAT_LMASK_RX 0, 1)] chipRing).rxLane .east 3 = false) ∧
    ((chipLane 1 0).flag (F.LN_CFG_FALLBACK_EN 0) = true ∧ 1 ≤ (chipLane 1 0).lnState .east ∧ (chipLane 3 0).lnState .east ≤ 3 ∧
      ¬ (chipLane 4 0).lnState .east ≤ 3) := by decide +kernel

/-- A chip of the ring whose partner widens from lane 0, with its lanes `lock` found and the widening `wide` steps on. -/
def chipAsked (lock wide : Nat) : Chip :=
  (put [(F.LN_STAT_LMASK_RX 0, 1), (F.LN_STAT_LANE_LOCK 0, lock)] chipRing).setLane .east { LaneSt.initial with partnerNmask := 15, rxok := 1, wide := wide }

/-- A chip of the ring with a toggle crossing that is busy. -/
def chipToggle (key pending : Nat) : Chip := { chipRing with cdc := [(key, ⟨chipRing.clockFtu + 1, pending⟩)] }

theorem witness_WideningLossAndRateHeld :
    (let c := chipAsked 1 0
     c.lnState .east = 4 ∧ (14 : Fin 16).val &&& bits ((c.lane .east).partnerNmask &&& (15 - c.fld (F.LN_STAT_LMASK_RX 0))) 3 0 = 14) ∧
    (let c := chipAsked 15 1
     c.lnState .east ≠ 2 ∧ (c.lane .east).wide = 1 ∧ bits ((c.lane .east).partnerNmask &&& (15 - c.fld (F.LN_STAT_LMASK_RX 0))) 3 0 = 14) ∧
    (let c := chipAsked 15 2
     c.lnState .east ≠ 3 ∧ (c.lane .east).wide = 2 ∧ (14 &&& c.fld (F.LN_STAT_LANE_LOCK 0)).testBit 3 = true ∧
     c.flag (F.LN_STAT_FALLBACK 0) = false ∧ 1650 < nth 0 [0, 0, 0, 1651] 3 ∧ ¬ 1650 < nth 0 [0, 0, 0, 1650] 3) ∧
    (chipRing.cdc = [] ∧ (chipRing.fld (F.LN_STAT_LANE_LOCK 0)).testBit 3 = true) ∧
    (let c := chipToggle 16 0
     c.cdc.find? (fun e => e.1 == 32 * Port.east.ix + 16) = some (16, ⟨c.clockFtu + 1, 0⟩)) ∧
    (let c := (chipLane 1 0).setLane .east { LaneSt.initial with rateHeld := true }
     (c.lane .east).rateHeld = true ∧ ((chipLane 1 0).lane .east).rateHeld = false) := by decide +kernel

/-- A valid alignment marker of lane 0: SRC 3, NID 5, every lane. -/
def am (k : Nat) : W64 :=
  let body := place 24 32 5 ||| place 4 26 15 ||| place 5 18 3 ||| place 4 14 15 ||| place 4 10 15 ||| place 2 8 k ||| 0xA5
  w64 (place 8 56 (crc8 ((List.range 7).map fun i => bits body (8 * i + 7) (8 * i))) ||| body)

/-- A payload is a valid marker of a lane. -/
def amGood (k : Nat) (w : W64) : Bool :=
  let x := w.toNat
  bits x 7 0 == 0xA5 && bits x 9 8 == k &&
    crc8 [bits x 7 0, bits x 15 8, bits x 23 16, bits x 31 24, bits x 39 32, bits x 47 40, bits x 55 48] == bits x 63 56

/-- Port E of chipRing with lane state `x`. -/
def chipLn (x : LaneSt) : Chip := chipRing.setLane .east x

/-- Lane state with its four lanes as given. -/
def lanes4 (x : LaneOne) : LaneSt := { LaneSt.initial with lanes := List.replicate 4 x }

theorem witness_LaneMarkerScanAndModeRowsComplete :
    (chip.lnState .east = 0 ∧ (chipLane 5 0).lnState .east = 5 ∧ chipRing.lnState .east ≠ 0 ∧ chipRing.lnState .east ≠ 5) ∧
    (let c := chipLn (lanes4 ⟨false, false, false, 3⟩)
     3 < (c.lane .east).lanes.length ∧ c.lnState .east = 4 ∧ c.rxLane .east 3 = true ∧ 4 ≤ (c.laneOne .east 3).amBad + 1 ∧
     ¬ 4 ≤ (chipRing.laneOne .east 3).amBad + 1) ∧
    (amGood 0 (am 0) = true ∧ amGood 3 (am 3) = true ∧ amGood 0 (am 0 ^^^ 1#64) = false ∧ amGood 0 (am 3) = false) ∧
    (let c := chipLn { LaneSt.initial with lastAm := some (3, 5) }
     (c.lane .east).lastAm = some (bits (am 0).toNat 22 18, bits (am 0).toNat 55 32) ∧ (c.lane .east).hasNbr = false ∧
     bits (am 0).toNat 22 18 ≠ c.addr ∧ c.addr < bits (am 0).toNat 22 18) ∧
    (let c := chipLn { LaneSt.initial with lastAm := some (3, 5), hasNbr := true }
     let d := put [(F.LN_STAT_NBR_ADDR 0, 3), (F.LN_NBR_NID_NID 0, 5)] c
     (d.lane .east).hasNbr = true ∧ bits (am 0).toNat 22 18 = d.fld (F.LN_STAT_NBR_ADDR 0) ∧ bits (am 0).toNat 55 32 = d.fld (F.LN_NBR_NID_NID 0)) ∧
    ((put [(F.GLB_RST_STAT_STRAP, 4)] chipRing).addr = 4 ∧ bits (am 0).toNat 22 18 < 4) ∧
    ((chipRing.laneOne .east 3).frozen = false ∧ ((chipLn (lanes4 ⟨false, false, true, 0⟩)).laneOne .east 3).frozen = true) := by
  decide +kernel

theorem witness_MarkerCountsAndLocalNeighbour :
    (chipRing.cdc = [] ∧ chipRing.lnState .east ≠ 0 ∧ chipRing.flag (F.LN_TEST_PRBS 0) = false ∧ chipRing.running = true ∧
      chipRing.fld (F.LN_TEST_LOOP 0) ≠ 3 ∧ (put [(F.LN_TEST_PRBS 0, 1)] chipRing).flag (F.LN_TEST_PRBS 0) = true) ∧
    (let c := chipToggle (toggleKey .east .amPos 3) 15
     (c.cdc.find? fun e => e.1 == toggleKey .east .amPos 3) = some (toggleKey .east .amPos 3, ⟨c.clockFtu + 1, 15⟩)) ∧
    (let c := chipToggle (toggleKey .east .amCrc 3) 15
     (c.cdc.find? fun e => e.1 == toggleKey .east .amCrc 3) = some (toggleKey .east .amCrc 3, ⟨c.clockFtu + 1, 15⟩)) ∧
    (let c := put [(F.LN_STAT_LOCAL 0, 1)] (chipLn { LaneSt.initial with lastAm := some (3, 5) })
     c.flag (F.LN_STAT_LOCAL 0) = true ∧ (c.lane .east).hasNbr = false ∧ c.lnState .east = 4 ∧ bits (am 0).toNat 22 18 ≠ c.addr) := by
  decide +kernel

theorem witness_MarkerOfTheOwnDevice :
    let c := (put [(F.GLB_RST_STAT_STRAP, 3)] chipRing).setFld (F.LN_NID_OWN_NID 0) 5
    bits (am 0).toNat 22 18 = c.addr ∧ bits (am 0).toNat 55 32 = c.fld (F.LN_NID_OWN_NID 0) := by
  dsimp only [Chip.addr]
  rw [Chip.fld_setFld_apart _ _ _ _ (Or.inl (by decide)) (by decide), Chip.fld_setFld_same _ _ _ (by unfold Fld.fits; decide) rfl]
  decide +kernel

theorem witness_LaneScanAndModeRows :
    (chip.lnState .east ≠ 4 ∧ chipRing.lnState .east = 4 ∧ chipRing.rxLane .east 3 = true ∧ (chipRing.laneOne .east 3).scanned = false) ∧
    (let c := (chipLn (lanes4 ⟨true, false, false, 0⟩)).setFld (lgF .east 3) 50
     (c.laneOne .east 3).scanned = true ∧ ¬ 5 * 40 < 4 * c.fld (lgF .east 3) ∧ 5 * 39 < 4 * c.fld (lgF .east 3) ∧
     (c.laneOne .east 3).fell = false ∧ (c.laneOne .east 3).frozen = false ∧
     (put [(F.LN_ADAPT_RESTORE_EN 0, 1)] c).flag (F.LN_ADAPT_RESTORE_EN 0) = true ∧
     (put [(F.LN_ADAPT_RESTORE_EN 0, 0)] c).flag (F.LN_ADAPT_RESTORE_EN 0) = false ∧
     39 < (put [(F.LN_ADAPT_EW_MIN 0, 40)] c).fld (F.LN_ADAPT_EW_MIN 0)) ∧
    (let c := (chipLn (lanes4 ⟨true, true, true, 0⟩)).setFld (lgF .east 3) 50
     (c.laneOne .east 3).scanned = true ∧ (c.laneOne .east 3).fell = true ∧ (c.laneOne .east 3).frozen = true ∧
     5 * 39 < 4 * c.fld (lgF .east 3)) ∧
    ((chipLn { LaneSt.initial with narrowing := true }).lane .east).narrowing = true ∧ (chipRing.lane .east).narrowing = false ∧
    (let c := put [(F.LN_STAT_LMASK_TX 0, 1), (F.LN_STAT_RXOK_PART 0, 15)] chipRing
     c.lnState .east = 4 ∧ c.fld (F.LN_STAT_LMASK_TX 0) = 1 ∧ (c.lane .east).nmask = 15 ∧ c.fld (F.LN_STAT_RXOK_PART 0) = 15) ∧
    chipRing.fld (F.LN_STAT_LMASK_TX 0) ≠ 1 := by decide +kernel

/-! ### Witnesses: the ring -/

/-- An own STATUS packet of class 1 that waits. -/
def offer (owner : Owner) (refused : Bool) (held : Nat) : Offer := ⟨0x02#8, 1#2, 0#5, owner, 0, [1#64, 2#64, 3#64], true, false, refused, held⟩

theorem witness_RingPacketRowsComplete :
    (let c := put [(F.LNE_RING_AUTOLEAVE, 1)] { chipRing with ring := { chipRing.ring with leaveRun := 1 } }
     c.fld F.LNE_RING_AUTOLEAVE ≠ 0 ∧ c.fld F.LNE_RING_AUTOLEAVE ≤ c.ring.leaveRun ∧ c.clk.cclk = 0 ∧ c.inring = true ∧ chip.inring = false) ∧
    (let c := { chipRing with ringE := { chipRing.ringE with wrapping := true, usableFrames := max 1 (chip.fld F.RNG_UNWRAP_FRAMES) } }
     (c.port .east).wrapping = true ∧ max 1 (c.fld F.RNG_UNWRAP_FRAMES) ≤ (c.port .east).usableFrames ∧ c.clk.cclk = 0 ∧
     (chipRing.port .east).wrapping = false) ∧
    (chip.receives .east = false ∧ chipRing.receives .east = true ∧ chipRing.addr < 31) ∧
    (let q := { pkt 0x01#8 1#2 [] with src := 2#5 }
     q.src.toNat = chipRing.addr ∧ q.dest ≠ 31#5 ∧ { q with dest := 31#5 }.dest = 31#5) ∧
    (let q := pkt 0x01#8 1#2 []
     q.src.toNat ≠ chipRing.addr ∧ q.dest.toNat = chipRing.addr ∧ q.dest ≠ 31#5 ∧ { q with bad := true }.bad = true ∧ q.crcOk = true ∧
     malformed (pkt 0x09#8 1#2 []) = true ∧ (pkt 0x09#8 1#2 []).ptype ≠ 0x07#8) ∧
    (let q := { pkt 0x02#8 1#2 [1#64] with dest := 5#5 }
     q.src.toNat ≠ chipRing.addr ∧ q.dest.toNat ≠ chipRing.addr ∧ q.dest ≠ 31#5 ∧ q.ptype ≠ 0x07#8 ∧ q.hops ≠ 63#6 ∧
     { q with hops := 63#6 }.hops = 63#6 ∧ chipRing.passes Port.east.other q.cls.toNat = true ∧
     (chipRing.port Port.east.other).fwdBlocks + q.words.length + 2 ≤ 4096 ∧
     ((put [(F.LN_STAT_STATE 1, 1), (F.RNG_CFG_WRAP_EN, 0)] chipRing).passes Port.east.other q.cls.toNat = false ∧
       (put [(F.LN_STAT_STATE 1, 1), (F.RNG_CFG_WRAP_EN, 0)] chipRing).flag F.RNG_CFG_WRAP_EN = false)) ∧
    (arrives chipRing (pkt 0x01#8 1#2 [1#64, 2#64]) = true ∧ arrives chipRing (pkt 0x01#8 1#2 []) = true ∧ (pkt 0x01#8 1#2 []).cls = 1#2) ∧
    (arrives chipRing (pkt 0x0B#8 1#2 [1#64, at1 312499]) = true ∧ bits (at1 312499).toNat 31 13 < 312500 ∧
      312500 ≤ bits (at1 312500).toNat 31 13) ∧
    (let c := put [(F.RNG_STAT_CRED_VALID, 1), (F.RNG_CRED_TMO_FRAMES, 5)] { chipRing with ring := { chipRing.ring with sinceCredit := 5 } }
     c.flag F.RNG_STAT_CRED_VALID = true ∧ c.fld F.RNG_CRED_TMO_FRAMES ≠ 0 ∧ c.fld F.RNG_CRED_TMO_FRAMES ≤ c.ring.sinceCredit ∧
     chip.flag F.RNG_STAT_CRED_VALID = false) := by decide +kernel

theorem witness_PacketAdmissionRows :
    (State.reset.chip.up = false ∧ (chipRing.port .east).wait 1 = []) ∧
    (let c := { chipRing with ringE := { chipRing.ringE with wait1 := [offer .status false 0], tok1 := 10240 } }
     c.up = true ∧ (c.port .east).wait 1 = [offer .status false 0] ∧ c.takes .east 1 = true ∧ (offer .status false 0).cls.toNat = 1 ∧
     2048 * ((offer .status false 0).words.length + 2) ≤ (c.port .east).tok 1) ∧
    (let c := { chip with ringE := { chip.ringE with wait1 := [offer .status true 5] }, clk := { chip.clk with cc := 200000 } }
     c.up = true ∧ (c.port .east).wait 1 = [offer .status true 5] ∧
     (offer .status true 5).refused = true ∧ (offer .status false 0).refused = false ∧
     (offer .status true 5).held + 2048 * max 1 (c.fld F.RNG_HOLD_FRAMES) ≤ c.cclkNow ∧
     ¬ (c.usable .east 1 = true ∨ c.usable .west 1 = true)) := by decide +kernel

/-- A forward buffer of 4,094 blocks and one packet more. -/
def fwdPkt (n : Nat) : TxPkt :=
  ⟨0x02#8, 1#2, 5#5, 0#5, 1#6, false, n, 0#16, List.replicate n 0#64, false, false, true, 0, 0, none, none, none, 0⟩

theorem witness_ForwardBufferIsFull (w : W64) :
    4096 < ({ PortSt.initial with fwd := [fwdPkt 4092] } : PortSt).fwdBlocks + [w].length + 2 ∧
    ({ PortSt.initial with fwd := [fwdPkt 4091] } : PortSt).fwdBlocks + [w].length + 2 ≤ 4096 := by
  unfold PortSt.fwdBlocks
  simp only [List.map_cons, List.map_nil, List.sum_cons, List.sum_nil, fwdPkt, List.length_replicate, List.length_cons, List.length_nil]
  decide

/-- A packet in a transmitter. -/
def txPkt (own : Bool) (sent : Nat) : TxPkt :=
  ⟨0x02#8, 1#2, 0#5, 2#5, 0#6, false, 1, 0#16, [7#64], false, own, false, 0, 0, none, none, none, sent⟩

/-- A chip of the ring past the AM slot, with packets in the transmitter of port E. -/
def chipSend (started txq : List TxPkt) : Chip :=
  { chipRing with ringE := { chipRing.ringE with txSlot := 16383, started := started, txq := txq } }

/-- A START block of class 1 with LEN 1. -/
def startW : W64 := w64 (place 8 56 2 ||| place 2 54 1 ||| place 5 49 2 ||| place 12 24 1 ||| 0x78)

/-- A chip of the ring that receives a packet on port E. -/
def chipRx (words : List W64) (ignore : Bool) (open_ : Bool) : Chip :=
  { chipRing with ringE := { chipRing.ringE with rx := if open_ then [⟨startW, words, 0⟩] else [], rxIgnore := ignore } }

theorem witness_RingBlockRowsComplete :
    (chip.lnState .east = 0 ∧ (chipLane 5 0).lnState .east = 5 ∧ State.reset.chip.running = false) ∧
    (let c := chipRing
     c.running = true ∧ c.lnState .east = 4 ∧ (List.range 4).filter (c.fld (F.LN_STAT_LMASK_TX 0)).testBit = [0, 1, 2, 3] ∧
     (c.port .east).txSlot = 0) ∧
    (let c := put [(F.LN_STAT_LMASK_TX 0, 15)] { chipLane 3 15 with ringE := { chip.ringE with txSlot := 1 } }
     c.lnState .east = 3 ∧ c.trained .east = false ∧ (c.port .east).txSlot ≠ 0 ∧
     (List.range 4).filter (c.fld (F.LN_STAT_LMASK_TX 0)).testBit ≠ []) ∧
    (((chipSend [] []).port .east).txSlot ≠ 0 ∧ (chipSend [] []).trained .east = true ∧ ((chipSend [] []).port .east).fwd = [] ∧
      ((chipSend [] []).port .east).txq = [] ∧ ((chipSend [] []).port .east).started = []) ∧
    (((chipSend [txPkt true 1] []).port .east).started = [txPkt true 1] ∧ (txPkt true 1).sent ≤ (txPkt true 1).words.length ∧
      (txPkt true 2).words.length < (txPkt true 2).sent ∧ (txPkt true 2).own = true ∧ (txPkt false 2).own = false) ∧
    (((chipSend [] [txPkt true 0]).port .east).txq = [txPkt true 0] ∧ (txPkt true 0).owner ≠ some .time ∧ (txPkt true 0).egress = none ∧
      (txPkt true 0).slot = none ∧ (chipSend [] [txPkt true 0]).usable .east (txPkt true 0).cls.toNat = true) ∧
    (txPkt true 0).len < 4096 ∧
    ((put [(F.LN_TEST_PRBS 0, 0)] (chipLane 5 0)).flag (F.LN_TEST_PRBS 0) = false ∧
      (put [(F.LN_TEST_PRBS 0, 1)] (chipLane 5 0)).flag (F.LN_TEST_PRBS 0) = true) ∧
    ((chipLane 1 0).running = true ∧ (chipLane 1 0).lnState .east = 1 ∧ (chipLane 1 0).receives .east = false) ∧
    ((chipRx [] true false).receives .east = true ∧ (chipRx [] true false).rxLane .east 3 = true ∧
      ((chipRx [] true false).port .east).rx = [] ∧ ((chipRx [] true false).port .east).rxIgnore = true ∧
      ((chipRx [] false false).port .east).rxIgnore = false) ∧
    (((chipRx [] false true).port .east).rx = [⟨startW, [], 0⟩] ∧ ([] : List W64).length < bits startW.toNat 35 24 ∧
      bits startW.toNat 35 24 ≤ [7#64].length) ∧
    (bits (0x1E#64).toNat 7 0 = 0x1E ∧ bits (0x33#64).toNat 7 0 ∉ [0x1E, 0xA5, 0x78, 0x87] ∧ bits startW.toNat 7 0 = 0x78 ∧
      bits (startW - w64 (2 ^ 54)).toNat 55 54 < bits startW.toNat 55 54 ∧ bits (0x87#64).toNat 7 0 = 0x87) := by decide +kernel

theorem witness_TestModesSleepAndCrossings :
    (let c := put [(F.LN_TEST_LOOP 0, 3)] chipRing
     c.running = true ∧ c.lnState .east = 4 ∧ c.fld (F.LN_TEST_LOOP 0) = 3) ∧
    (let c := put [(F.LN_TEST_PRBS 0, 1)] chipRing
     c.running = true ∧ c.lnState .east ≠ 0 ∧ c.flag (F.LN_TEST_PRBS 0) = true ∧ c.fld (F.LN_TEST_LOOP 0) ≠ 3 ∧
     (c.cdc.find? fun e => e.1 == toggleKey .east .prbs 3) = none ∧ popCount (0x1FFFF#64).toNat = 17) ∧
    (let c := (chipSend [txPkt true 1] []).setLane .east { (chipSend [txPkt true 1] []).lane .east with mode := 2 }
     (c.port .east).started = [txPkt true 1] ∧ (c.port .east).txq = [] ∧ (c.lane .east).mode = 2 ∧ (txPkt true 1).cls ≠ 0#2 ∧
     { txPkt true 1 with cls := 0#2 }.cls = 0#2 ∧ ((chipSend [txPkt true 1] []).lane .east).mode ≠ 2) ∧
    (let c := (put [(F.LN_STAT_LMASK_TX 0, 1)] chipRing).setLane .east { LaneSt.initial with nmask := 15 }
     c.widening .east = true ∧ chipRing.widening .east = false) ∧
    (let c := chipToggle (toggleKey .east .sherr 3) 15
     (c.cdc.find? fun e => e.1 == toggleKey .east .sherr 3) = some (toggleKey .east .sherr 3, ⟨c.clockFtu + 1, 15⟩) ∧ c.running = true ∧
     c.lnState .east ≠ 0 ∧ c.flag (F.LN_TEST_PRBS 0) = false ∧ c.rxLane .east 3 = true ∧ c.receives .east = true) ∧
    (3 < (chipRing.lane .east).lanes.length ∧ (put [(F.LN_STAT_LMASK_RX 0, 1)] chipRing).rxLane .east 3 = false) := by decide +kernel

/-! ### Witnesses: network time, pairing, the capture store (TimePairAndStoreRowsComplete, in four theorems) -/

/-- A chip of the ring with neighbours 3 at E and 1 at W and an exchange state at E. -/
def chipTime (x : Exch) : Chip := { chipRing with net := { chipRing.net with exE := x } }

/-- A TIME packet of the neighbour of port E. -/
def timePkt (hops : BitVec 6) (w txLo txHi rxLo rxHi : W64) : Packet :=
  { pkt 0x04#8 1#2 [w, txLo, txHi, rxLo, rxHi] with src := 3#5, hops := hops }

/-- Word 0 of a TIME packet with a ROLE. -/
def timeW (role : Nat) : W64 := w64 (place 16 48 9 ||| place 16 32 7 ||| place 2 30 role ||| place 8 16 1)

theorem witness_TimeExchangeRows :
    (let c := chipTime { Exch.initial with ticks := some 0 }
     (c.exch .east).ticks = some 0 ∧ c.addr < c.fld (F.LN_STAT_NBR_ADDR 0) ∧ 0 % max 1 (c.fld F.TIM_NET_CFG_INTERVAL) = 0 ∧
     c.trained .east = true ∧ c.flag (F.LN_STAT_LOCAL 0) = false ∧ (chip.exch .east).ticks = none) ∧
    (arrives chipRing (timePkt 0#6 (timeW 3) 0#64 0#64 0#64 0#64) = true ∧ (timePkt 0#6 (timeW 3) 0#64 0#64 0#64 0#64).cls = 1#2 ∧
      (timePkt 0#6 (timeW 3) 0#64 0#64 0#64 0#64).src.toNat = chipRing.fld (F.LN_STAT_NBR_ADDR 0) ∧
      (timePkt 1#6 (timeW 3) 0#64 0#64 0#64 0#64).hops ≠ 0#6) ∧
    (bits (timeW 3).toNat 31 30 = 3 ∧ bits (timeW 0).toNat 31 30 = 0 ∧ bits (timeW 2).toNat 31 30 = 2 ∧ bits (timeW 2).toNat 47 32 = 7) ∧
    (chipRing.initiates .east = true ∧ (chipRing.setFld (F.LN_STAT_NBR_ADDR 0) 1).initiates .east = false ∧
      { timePkt 0#6 (timeW 0) 0#64 0#64 0#64 0#64 with src := 1#5 }.src.toNat = (chipRing.setFld (F.LN_STAT_NBR_ADDR 0) 1).fld (F.LN_STAT_NBR_ADDR 0) ∧
      bits (fireNs 999999999).toNat 63 32 ≤ 999999999 ∧ 999999999 < bits (fireNs 1000000000).toNat 63 32) ∧
    (chipRing.exch .east).sent = none := by decide +kernel

/-- A network time of frame 1000 as the words of a TIME128. -/
def stamp (t : Nat) : W64 × W64 := (w64 (time128Lo t 0), w64 (ftuSec t))

theorem witness_TimeExchangeEnds :
    let c := (chipTime { Exch.initial with sent := some (7, 1, 1048576000) }).setFld (F.LN_STAT_NBR_ADDR 0) 1
    let d := { c with clk := { c.clk with cclk := 20 } }
    let t2 := ofTime128 (stamp 1048577000).2.toNat (bits (stamp 1048577000).1.toNat 63 32) (bits (stamp 1048577000).1.toNat 31 16)
    let t3 := ofTime128 (stamp 1048579000).2.toNat (bits (stamp 1048579000).1.toNat 63 32) (bits (stamp 1048579000).1.toNat 31 16)
    let t4 := d.now - 0 - d.fld (F.LN_LAT_RX 0)
    d.initiates .east = false ∧ (d.exch .east).sent = some (7, 1, 1048576000) ∧
      readTime128 (stamp 1048577000).1 (stamp 1048577000).2 = some t2 ∧ readTime128 (stamp 1048579000).1 (stamp 1048579000).2 = some t3 ∧
      ¬ (t3 < t2 ∨ t2 + 1048576 < t3 ∨ t4 + t2 < 1048576000 + t3 ∨ 1048576000 + 2 * 1048576 < t4) ∧ (d.exch .east).restart = true ∧
      t2 < t3 := by decide +kernel

/-- A chip of the ring paired with device 0. -/
def chipPair (role missed claim : Nat) : Chip :=
  put [(F.PAIR_STAT_ROLE, role), (F.PAIR_STAT_MISSED, missed), (F.PAIR_STAT_CLAIM, claim), (F.PAIR_CFG_PARTNER, 0)]
    { chipRing with pair := { chipRing.pair with paired := true } }

/-- Word 0 of a pairing HEARTBEAT: of device 0 to device 2, with role, handover and claim. -/
def hbW (role handover claim : Nat) : W64 :=
  w64 (place 8 56 1 ||| place 2 54 role ||| place 1 53 handover ||| place 16 32 claim ||| place 5 22 2)

/-- Word 0 of a MIRROR of device 0 with no loop. -/
def mirW : W64 := 0#64

theorem witness_PairingRows :
    (arrives chipRing (pkt 0x05#8 1#2 [0#64, 0#64, 0#64, 0#64, 0#64]) = true ∧ bits (0#64).toNat 63 56 = 0) ∧
    (let c := chipPair 1 0 5
     let x := (hbW 2 0 6).toNat
     arrives c (pkt 0x05#8 1#2 [hbW 2 0 6, 0#64, 0#64]) = true ∧ bits x 63 56 = 1 ∧ c.pair.paired = true ∧
     bits x 31 27 = c.fld F.PAIR_CFG_PARTNER ∧ bits x 26 22 = c.addr ∧ bits x 55 54 = 2 ∧ c.fld F.PAIR_STAT_ROLE = 1 ∧
     bits (hbW 1 1 6).toNat 55 54 = 1 ∧ c.fld F.PAIR_STAT_CLAIM < bits (hbW 1 1 6).toNat 47 32 ∧
     bits (0#64).toNat 31 0 = c.fld F.CMD_EPOCH_ACTIVE ∧ bits (0#64).toNat 63 32 = (nth 0#64 c.cmd.digests 0).toNat % 2 ^ 32 ∧
     bits (w64 (2 ^ 32)).toNat 63 32 ≠ (nth 0#64 c.cmd.digests 0).toNat % 2 ^ 32) ∧
    ((chipPair 2 0 5).fld F.PAIR_STAT_ROLE = 2 ∧ (hbW 1 1 6).toNat.testBit 53 = true ∧ chipRing.pair.paired = false) ∧
    (arrives (chipPair 2 0 5) (pkt 0x06#8 1#2 [mirW, 1#64, 2#64, 3#64, 4#64, 5#64]) = true ∧
      [1#64, 2#64, 3#64, 4#64, (5#64 : W64)].length = bits mirW.toNat 22 16 + 5 ∧ (chipPair 2 0 5).standby = true ∧
      bits mirW.toNat 31 27 = (chipPair 2 0 5).fld F.PAIR_CFG_PARTNER ∧ (chipPair 1 0 5).standby = false) ∧
    (let c := { chipPair 2 32 65535 with pair := { (chipPair 2 32 65535).pair with due := true } }
     c.fld F.PAIR_STAT_ROLE = 2 ∧ c.pair.due = true ∧ c.fld F.PAIR_STAT_CLAIM = 65535 ∧ (chipPair 2 31 0).pair.due = false) := by decide +kernel

/-- A chip of the ring with an object waiting for the capture store. -/
def chipObj (held : Bool) : Chip :=
  { chipRing with
    sto := { chipRing.sto with queue := [⟨0, 7, 1, 1000, false⟩] }
    store := if held then { chipRing.store with regions := chipRing.store.regions.set 7 ⟨4, false, 0, [⟨1, [(0, 4)], 0, 0, 0, [.store]⟩]⟩ }
      else chipRing.store }

/-- An item that waits for its STORE_ACK. -/
def item (admitted resends : Nat) : StoItem := ⟨0x13, 5, [1#64], some 0, none, admitted, resends, false⟩

/-- A chip of the ring with items not settled. -/
def chipItems (l : List StoItem) : Chip := { chipRing with sto := { chipRing.sto with items := l } }

/-- Word 0 of a STORE_ACK of STORE_WRITE with CSEQ 5. -/
def ackW (code : Nat) : W64 := w64 (place 32 32 5 ||| place 8 24 0x13 ||| place 8 16 code)

theorem witness_CaptureStoreRows :
    (chip.sto.queue = [] ∧ (chipObj false).sto.queue = [⟨0, 7, 1, 1000, false⟩] ∧ (chipObj false).fld F.STO_STAT_OPEN = 0 ∧
      (chipObj false).findObj 7 1 = none) ∧
    ((chipObj true).findObj 7 1 = some ⟨1, [(0, 4)], 0, 0, 0, [.store]⟩ ∧ (chipObj true).stoEnabled = false) ∧
    (let c := chipItems [item 0 0]
     arrives c (pkt 0x0C#8 1#2 [ackW 0, 1#64]) = true ∧ bits (ackW 0).toNat 31 24 = 0x13 ∧ bits (ackW 0).toNat 23 16 = 0 ∧
     c.sto.dirty = [] ∧ c.sto.items.find? (fun i => i.pt == 0x13 && i.cseq == bits (ackW 0).toNat 63 32) = some (item 0 0) ∧
     (item 0 0).waiting = false) ∧
    (bits (ackW 1).toNat 23 16 < 2 ∧ chipRing.sto.items.find? (fun i => i.pt == 0x13 && i.cseq == 5) = none ∧
      chipRing.sto.csWrite ≤ bits (ackW 1).toNat 63 32) ∧
    (let r := chipRing.fld F.STO_ACK_TMO_RETRY
     let c := { chipItems [item 5 r] with clk := { chip.clk with cc := 200000 } }
     c.sto.items.find? (fun i => i.pt == 0x13 && i.cseq == (5#32).toNat && !i.waiting) = some (item 5 r) ∧
     (item 5 r).admitted + 2048 * max 1 (c.fld F.STO_ACK_TMO_FRAMES) ≤ c.cclkNow ∧ c.fld F.STO_ACK_TMO_RETRY ≤ (item 5 r).resends ∧
     c.cclkNow < (item 200000 0).admitted + 2048 * max 1 (c.fld F.STO_ACK_TMO_FRAMES) ∧
     0 < (chipRing.setActive F.STO_ACK_TMO_RETRY 1).fld F.STO_ACK_TMO_RETRY) := by decide +kernel

/-- The same with the window enabled, extent `e` open with `fill` bytes, and the next extent `x`. -/
def chipPlace (e fill x : Nat) : Chip :=
  put [(F.STO_CTL_EN, 1), (F.STO_STAT_OPEN, e), (F.STO_NEXT_EXTENT, x), (F.RN_GRANT_G3 0, 256), (F.RN_GRANT_G3 1, 256)] { chipObj true with sto := { (chipObj true).sto with fill := fill } }

/-- Its object, of four words. -/
def obj4 : Obj := ⟨1, [(0, 4)], 0, 0, 0, [.store]⟩

theorem witness_ObjectIsPlaced :
    (let c := chipPlace 262143 (extBytes - 48) 5
     c.findObj 7 1 = some obj4 ∧ c.stoEnabled = true ∧ c.mems.length = 12 ∧ c.fld F.STO_STAT_OPEN = 262143 ∧ (c.mem 1).par.get 262143 = 0#8 ∧
     (∀ off ∈ obj4.offsets, (c.mem 0).par.get (c.regionWord 7 off) = 0#8) ∧ c.sto.fill + 8 * (obj4.offsets.length + 2) = extBytes ∧
     c.segWords3 + 3 ≤ c.tokDepth .east 3 ∧ c.segWords3 + 3 ≤ c.tokDepth .west 3) ∧
    ((chipPlace 1 0 5).sto.fill + 8 * (obj4.offsets.length + 2) < extBytes) ∧
    (let c := chipPlace 0 0 262143
     c.stoEnabled = true ∧ c.fld F.STO_STAT_OPEN = 0 ∧ c.fld F.STO_NEXT_EXTENT = 262143 ∧ (c.mem 1).par.get 262143 = 0#8 ∧
     8 * (obj4.offsets.length + 2) ≤ extBytes ∧ 1 ≤ countFree 1 c ∧ (c.extent 262143).testBit 10 = false ∧ extState (c.extent 262143) = 0) ∧
    (let c := (chipPlace 0 0 5).setMem 1 { Mem.clean with data := [(5, w64 0x1000)] }
     c.stoEnabled = true ∧ (c.extent 5).testBit 10 = false ∧ extState (c.extent 5) = 2 ∧ c.fld F.STO_CTL_POLICY ≠ 1 ∧ 1 ≤ countFree 1 c) ∧
    (let i := { item 0 1 with waiting := true }
     ¬ (i.waiting = true ∧ i.resends = 0) ∧ (chipItems [i]).sto.items.find? (fun j => j.pt == 0x13 && j.cseq == 5) = some i) := by
  decide +kernel

/-! ### Witnesses: memories and JTAG -/

/-- A memory 1 with a failing bit in word 3, or with one that no single bit explains. -/
def chipMem (col : W64) (par : BitVec 8) : Chip := chip.setMem 1 { Mem.clean with par := [(3, par)], colD := if col = 0#64 then [] else [(0, col)] }

theorem witness_MemoryRowsComplete :
    (let c := chipMem (w64 (2 ^ 63)) 0x80#8
     1 < c.mems.length ∧ ((c.mem 1).par.get 3).toNat = 2 ^ (63 / 8) ∧ ((c.mem 1).colP.get 0).toNat = 0 ∧
     ((c.mem 1).colD.get 0).toNat = 2 ^ 63 ∧ (List.range 8).all (fun i => i == 3 || ((c.mem 1).par.get (8 * 0 + i)).toNat == 0) = true) ∧
    (let c := chipMem 3#64 0x80#8
     ((c.mem 1).colD.get 0).toNat ≠ 0 ∧ (List.range 8).all (fun k => ((c.mem 1).colD.get 0).toNat != 2 ^ (8 * (63 / 8) + k)) = true) ∧
    (((chip.mem 11).par.get 26623).toNat = 0 ∧ 11 < chip.mems.length ∧ (chipMem 0#64 0xFF#8).poisoned 1 3 = true) ∧
    (let c := put [(F.MIN_CTL_SCRUB_EN, 1)] { chip with scrub := { chip.scrub with running := true, mem := 10, block := 1022 } }
     c.running = true ∧ c.flag F.MIN_CTL_SCRUB_EN = true ∧ c.scrub.running = true ∧ 8 * (c.scrub.block + 1) < memWords c.scrub.mem) ∧
    (memWords 10 ≤ 8 * (1023 + 1) ∧ memWords 11 ≤ 8 * (3327 + 1) ∧ chip.scrub.running = false) ∧
    (let c := put [(F.MIN_CTL_DRIFT_CHK, 1)]
       { chip with scrub := { chip.scrub with recheck := true } }
     let d := { c with cmd := { c.cmd with digDirty := false } }
     d.running = true ∧ d.scrub.recheck = true ∧ d.flag F.MIN_CTL_DRIFT_CHK = true ∧ d.cmd.digDirty = false ∧ d.cmd.digests = []) ∧
    (chip.up = true ∧ State.reset.chip.up = false ∧ 8 ≠ 7) := by decide +kernel

theorem witness_MemoriesAreCanonical : chip.memsWf := by
  unfold Chip.memsWf
  decide +kernel

/-- The TAP in Shift-DR with IDCODE selected. -/
def tapShift : Tap := { Tap.initial with st := .shiftDr, drSh := List.replicate 32 true, tdo := some true }

theorem witness_JtagRowsComplete :
    (State.reset.chip.rst.porst = true) ∧ ((st chip).chip.rst.porst = false ∧ (st chip).chip.rst.supply = false) ∧ tapShift.st = .shiftDr ∧
    (TapState.exit1Ir).next true = .updateIr ∧ (TapState.selectIr).next true = .testLogicReset ∧
    ({ Tap.initial with st := .captureDr }.st = .captureDr ∧ tapInstr 0x01#8 = .idcode ∧ tapInstr 0xFF#8 = .bypass) ∧
    (0x03#8).toNat ∉ [0x00, 0x01, 0x02, 0x04, 0x05, 0x08, 0x09] := by decide +kernel

theorem witness_EveryStepKeepsTheTapInvariant :
    ({ st chip with tap := tapShift }).tap.Inv ∧
    step { st chip with tap := tapShift, pending := [.trstN] } = exec .trstN { st chip with tap := tapShift } := by
  refine ⟨⟨?_, ?_, ?_⟩, rfl⟩
  · intro h
    cases h
  · exact fun _ => Or.inl rfl
  · intro _ _
    decide +kernel

/-! ### Witnesses: the step, power reset, the side port -/

theorem witness_EmptyQueueIdlesOneCclk : (st chip).pending = [] := rfl

theorem witness_PowerResetReturnsEverything : 11 < 12 := by decide

/-- The bytes of a command on the side port. -/
def sideBytes (ws : List W64) : List Byte := ws.flatMap fun w => (wordBytes w).map (BitVec.ofNat 8)

/-- A chip whose 16 places are taken by statuses that wait. -/
def chipQueue : Chip := { chip with cmd := { chip.cmd with sideQ := List.replicate 16 [1#64, 2#64, 3#64] } }

theorem witness_SidePortTransactionsComplete :
    State.reset.chip.sideOpen = false ∧ (chip.sideOpen = true ∧ chip.cmd.sideQ = []) ∧
    (chipQueue.sideOpen = true ∧ 16 ≤ chipQueue.cmd.sideQ.length + chipQueue.cmd.batch.countP Command.fromSide) ∧
    (sideBytes [1#64]).length - 1 < 8 ∧
    (let bs := sideBytes (cmdWords hd 0 0 [])
     bs.length = 8 * (({ sender := .side, words := sideWords bs, excess := false } : Command).plen + 2) ∧
     (bs ++ [0#8]).length ≠ 8 * (({ sender := .side, words := sideWords (bs ++ [0#8]), excess := false } : Command).plen + 2)) ∧
    (unlocked.sideOpen = true ∧ unlocked.clk.counting = false) ∧
    (chipQueue.cmd.sideQ = [1#64, 2#64, 3#64] :: List.replicate 15 [1#64, 2#64, 3#64] ∧ 1 + 8 * [1#64, 2#64, (3#64 : W64)].length ≤ 25) ∧
    (0x5B#8 ≠ 0x5C#8 ∧ 0x5B#8 ≠ 0x5A#8) := by decide +kernel

/-! ### Well-formed commands: each check refuses an ill-formed one -/

/-- A packet one word longer than LEN can say. -/
def longPkt (n : Nat) : Packet := pkt 0x01#8 1#2 (List.replicate n 0#64)

theorem longPkt_wf (n : Nat) : (longPkt n).wf = decide (n < 1024) := by
  simp [Packet.wf, longPkt, pkt]

theorem test_wf_refuses_long_packets :
    (Instr.cmdPacket .east (longPkt 1024)).wf = false ∧ (Instr.firePacket .east (longPkt 1024) 0).wf = false ∧
    (Instr.armPacket .east (longPkt 1024)).wf = false ∧ (Instr.ringPacketReceived .east (longPkt 1024) 0).wf = false ∧
    (Instr.credit .east (longPkt 1024)).wf = false ∧ (Instr.timePacket .east (longPkt 1024) 0).wf = false ∧
    (Instr.storeAck .east (longPkt 1024)).wf = false ∧ (Instr.pairHeartbeat .east (longPkt 1024)).wf = false ∧
    (Instr.mirror .east (longPkt 1024)).wf = false ∧ (Instr.cmdPacket .east (longPkt 1023)).wf = true := by
  refine ⟨?_, ?_, ?_, ?_, ?_, ?_, ?_, ?_, ?_, ?_⟩ <;> exact (longPkt_wf _).trans (by decide)

theorem test_wf_refuses_long_payloads :
    (Instr.wrb hd 0#24 (List.replicate 1024 0#64)).wf = false ∧ (Instr.protWr hd (List.replicate 1024 0#64)).wf = false ∧
    (Instr.wrb hd 0#24 (List.replicate 1023 0#64)).wf = true := by
  simp only [Instr.wf, payloadWf, List.length_replicate]
  decide

theorem test_wf_refuses_leads_and_side_bytes :
    (Instr.laneAlignDone .east [1, 2, 3] 0 0).wf = false ∧ (Instr.laneAlignDone .east [1, 2, 3, 4] 0 0).wf = true ∧
    (Instr.sidePortCommand (List.replicate 8201 0#8)).wf = false ∧ (Instr.sidePortCommand (List.replicate 8200 0#8)).wf = true ∧
    (Instr.sidePortUnknown 0x5C#8).wf = false ∧ (Instr.sidePortUnknown 0x5A#8).wf = false ∧ (Instr.sidePortUnknown 0#8).wf = true := by
  simp only [Instr.wf, List.length_replicate]
  decide

/-! ### Worked examples and values of the spec -/

/-- The ASCII bytes "123456789". -/
def digits : List Nat := [0x31, 0x32, 0x33, 0x34, 0x35, 0x36, 0x37, 0x38, 0x39]

-- The check values of R355 and R374, and the IDCODE of R450.
theorem test_crc_check_values :
    crc32 digits = 0xCBF43926 ∧ crc64 digits = 0x6C40DF5F0B497347 := by decide +kernel

-- The worked example of packing after R4.
theorem test_packing :
    packBytes [0x41, 0x42, 0x43, 0x44, 0x45, 0x46, 0x47, 0x48, 0x49] = [0x4847464544434241#64, 0x49#64] := by decide +kernel

-- The worked example of R35: ToA 700,000 in frame (1,234, 156,250).
theorem test_time128 :
    let t := (1234 * 312500 + 156250) * 1048576 + 700000
    ftuSec t = 1234 ∧ ftuNanos t = 500002136 ∧ ftuSubns t = 0x3B00 ∧ ofTime128 1234 500002136 0x3B00 = t := by decide +kernel

-- Hits A and B of the worked example of chapter 03.
theorem test_hit_words :
    hitWord 0x82 0x2A 0x21020 0x21D false false false false 0xCB1 = 0x822A2102021D0CB1#64 ∧
    hitWord 0x85 0x2D 0x2198E 0 true false false false 0 = 0x852D2198E0008000#64 := by decide +kernel

-- R98: the reset layout costs 1,008. The worked examples of R97 (545) and of chapter 05 (640).
theorem test_ledgers :
    chip.ledgerStoreSpace = 1008 ∧
    (put [(F.TIM_BUDGET_HITS_HITS, 4096), (F.HIT_FB_CTL_HHIST_EN, 1), (F.HIT_FB_CTL_STAGE_EN, 1), (F.HIT_FB_CTL_RING_EN, 1), (F.CMP_CTL_EN, 1),
      (F.CMP_CH_CFG_EN 0, 1), (F.CMP_CH_CFG_SRC 0, 1), (F.WAV_CTL_CH_EN, 1), (F.WAV_CTL_MODE, 3), (F.HIT_BUDGET_REC_BYTES, 16384)] chip).samplesPerFrame = 2048 ∧
    (put [(F.TIM_BUDGET_HITS_HITS, 4096), (F.HIT_FB_CTL_HHIST_EN, 1), (F.HIT_FB_CTL_STAGE_EN, 1), (F.HIT_FB_CTL_RING_EN, 1), (F.CMP_CTL_EN, 1),
      (F.CMP_CH_CFG_EN 0, 1), (F.CMP_CH_CFG_SRC 0, 1), (F.WAV_CTL_CH_EN, 1), (F.WAV_CTL_MODE, 3), (F.HIT_BUDGET_REC_BYTES, 16384)] chip).ledgerStoreBw = 545 ∧
    (put [(F.WAV_CTL_MODE, 2), (F.WAV_CTL_CH_EN, 1), (F.XDC_SEQ_CTL_PROFILE, 1)] chip).ledgerSlices = 640 := by decide +kernel

-- The worked example of R239.
theorem test_loop :
    (put [(F.LOOP_L_SETPOINT_VALUE 5, 655360), (F.LOOP_L_KP_VALUE 5, 131072), (F.LOOP_L_KI_VALUE 5, 16384), (F.LOOP_L_BIAS_VALUE 5, 3276800),
      (F.LOOP_L_OUTMIN_VALUE 5, 0), (F.LOOP_L_OUTMAX_VALUE 5, 6553600), (F.LOOP_L_SLEW_VALUE 5, 32768), (F.LOOP_L_DEADBAND_VALUE 5, 4096)]
      chip).evalLoop 0 5 200000 3470000 640000 = ⟨203840, 3502768, 15360, 0x20⟩ := by decide +kernel

-- The worked example of R193.
theorem test_statistics :
    let c := put [(F.TIP_CH_NSTAT_N 0, 4)] chip
    let u := addToSet 0 0 163847 (addToSet 0 0 163838 (addToSet 0 0 163843 (addToSet 0 0 163840 c)))
    u.fld (F.TIP_CH_MEAN_LO_MEAN 0) = 41943552 ∧ u.fld (F.TIP_CH_DEV_DEV 0) = 868 ∧ u.fld (F.TIP_CH_MIN_LO_MIN 0) = 163838 ∧
      u.fld (F.TIP_CH_MAX_LO_MAX 0) = 163847 := by decide +kernel

-- The examples of R262 and R264.
theorem test_dictionary_coder :
    let bs := [0xF4, 0x11, 0x00, 0x01, 0x00, 0x10, 0x00, 0x00, 0xF4, 0x11, 0x00, 0x01, 0x00, 0x10, 0x00, 0x00]
    (bs.foldl Lzw.byte Lzw.start).final = [256, 0xF4, 0x11, 0, 1, 0, 0x10, 0, 0, 258, 260, 262, 264, 257] ∧
    (packCodes [256, 0xF4, 0x11, 0]).take 4 = [0x00, 0x41, 0x0F, 0x11] ∧ dictBlocks bs = [(0, bs, 16)] := by decide +kernel

-- The worked example of R394: a flipped bit is found by a read, corrected, and logged.
theorem test_flip_is_corrected_and_logged :
    let c := { chip with clk := { chip.clk with frame := 76810 } }
    let r := memRead 0 0x123456 (diagFlip 0 0x123456 false 0 0x2000000000 c)
    r.1 = 0 ∧ r.2.1 = false ∧ r.2.2.logHead = 0x8400491A2B252C0A := by decide +kernel

/-- The header of a command of the worked example of R364. -/
def hdBatch (x : Sender) (tag : BitVec 8) (priv : BitVec 2) : CmdHead := ⟨x, tag, 0#5, if x = .side then 0#5 else 2#5, priv, 1#2, true, true⟩

-- The worked example of R364: WR by port W, WR by the side port, a WRM that collides.
theorem test_batch_order :
    let c := { chip with cmd := { chip.cmd with batch :=
      [cmdOf (hdBatch (.ring .east) 1#8 1#2) 0x21 0x3849C [0x0000FFFF00003000#64], writeOf (hdBatch (.ring .west) 2#8 0#2) 0x3849C 0x2000,
       writeOf (hdBatch .side 3#8 0#2) 0x3849C 0x4000, cmdOf (hdBatch (.ring .east) 4#8 2#2) 0x10 0x3849C []] } }
    let u := runBatch c
    u.shFld (F.TRG_OUT_POST_TCLK 2) = 0x4000 ∧ u.fld F.CMD_COLLIDE_CNT_COUNT = 1 ∧ u.fld F.CMD_EXEC_CNT_COUNT = 3 ∧
      u.fld F.CMD_REJECT_CNT_COUNT = 1 ∧ u.cmd.sideQ.length = 1 := by decide +kernel

-- The worked example after R178, with 1.25 as the external reference: LIN of the thermocouple.
theorem test_linearisation :
    let c := put [(F.XDC_CONV_GAIN 3, 4), (F.XDC_CONV_REFSEL 3, 1), (F.XDC_VREF_EXT_VALUE, 0x3FA00000), (F.XDC_OUT_SCALE 3, 1), (F.XDC_OUT_LIN_EN 3, 1),
      (F.XDC_OUT_TABLE 3, 5), (F.XDC_OUT_TEMP_EN 3, 1), (F.XDC_OUT_TEMP_ENTRY 3, 2)]
        { chip with
          clk := { chip.clk with cclk := 256 }
          xdc := { Xdc.initial with results := [⟨3, 1048576000, 0x100000, false, false, false, false, false, false, 1, false⟩]
                                    temps := [(2, some (0x41C80000, 1000))] } }
    let d := c.setMem 7 { c.mem 7 with data := [(80, 0x3F80000000000000#64), (82, 0xC000000046C80000#64), (84, 0x00000000C7800000#64)] }
    (match exec .xdcResult (st d) with | .next t => t.chip.fld (F.XDC_RES_HI_LIN 3) | _ => 0) = 0x43862180 := by decide +kernel

-- The worked example of chapter 13: the exchange of device 9 with device 7 gives d = 6,540 and e = 40 FTU.
theorem test_time_exchange :
    let c := put [(F.GLB_RST_STAT_STRAP, 9), (F.LN_STAT_STATE 1, 4), (F.LN_STAT_NBR_ADDR 1, 7), (F.LN_STAT_GAP 1, 1), (F.TIM_X_ASYM1_FTU 0, 40)]
      { chip with
        clk := { chip.clk with frame := 0, tick := 713080 * unitsPerFtu }
        net := { NetTime.initial with exW := { Exch.initial with sent := some (7, 1, 500000) } } }
    let q : Packet := ⟨0x04#8, 1#2, 9#5, 7#5, 0#6, false, 0#16, [timeW 2, w64 (time128Lo 706480 0), 0#64, w64 (time128Lo 506480 0), 0#64], true, false⟩
    let u := match exec (.timePacket .west q 0) (st c) with | .next t => t.chip | _ => c
    u.fld (F.TIM_X_DELAY_D 0) = 6540 * 256 ∧ u.fld (F.TIM_X_OFFS_E 0) = 40 * 256 ∧ u.fld (F.TIM_X_EXCH_COUNT 0) = 1 := by decide +kernel

/-! ### One step of a command -/

-- R413: PORST_N asserted at reset; RESET_RELEASE samples the strap (R415).
theorem test_release_samples_the_strap :
    (match step { State.reset with pending := [.resetRelease 30] } with
     | .next t => (t.chip.rst.porst, t.chip.addr, t.chip.flag F.GLB_RST_STAT_ADDR_ERR, t.pending)
     | _ => (true, 0, true, [])) = (false, 30, false, []) := by decide +kernel

-- R415: the strap 31 is an address error.
theorem test_strap_31_is_an_error :
    (match exec (.resetRelease 31) State.reset with | .next t => t.chip.flag F.GLB_RST_STAT_ADDR_ERR && t.chip.eventSeen EV.STRAP_ERR | _ => false) = true := by
  decide +kernel

-- R356, R8: WR with BANK 1 writes the shadow, not the active bank.
theorem test_write_shadow :
    (match exec (.wr hdShadow 0x1030#24 0x123#32) (st chip) with
     | .next t => (t.chip.shFld F.TIM_BUDGET_HITS_HITS, decide (t.chip.fld F.TIM_BUDGET_HITS_HITS = chip.fld F.TIM_BUDGET_HITS_HITS))
     | _ => (0, false)) = (0x123, true) := by decide +kernel

-- R450: from Test-Logic-Reset, TMS 0, 1, 0, 0 leads to Shift-DR, and TDO shows bit 0 of the IDCODE 0x1073_4AB5.
theorem test_idcode_shifts_out :
    (let t := { tapShift with st := .captureDr, tdo := none }
     match exec (.tck false false) { st chip with tap := t } with
     | .next u => (u.tap.st, u.tap.tdo, u.tap.drSh.foldr (fun b n => 2 * n + b2n b) 0)
     | _ => (.testLogicReset, none, 0)) = (.shiftDr, some true, 0x10734AB5) := by decide +kernel

end Sys2Proof.Slice0Tests
end

section
/-! PROOFS. Laws of the register space: the bits of a row's mask, that no two fields of a register share a bit, and the register that a
row gives its reset value. -/

namespace Sys2Proof.Machine

/-! ### The fields of a row -/

theorem FieldDef.testBit_mask (f : FieldDef) (i : Nat) : f.mask.testBit i = (decide (f.lo ≤ i) && decide (i - f.lo < f.w)) := by
  simp [FieldDef.mask, Nat.testBit_shiftLeft, Nat.testBit_two_pow_sub_one]

/-- A bit of a row's mask is a bit of one of its fields. -/
theorem RegRow.testBit_mask (r : RegRow) (p : Access → Bool) (i : Nat) :
    (r.mask p).testBit i = r.fields.any fun f => p f.acc && f.mask.testBit i := by
  have fold : ∀ (l : List FieldDef) (m : Nat), (l.foldl (fun m f => if p f.acc then m ||| f.mask else m) m).testBit i
      = (m.testBit i || l.any fun f => p f.acc && f.mask.testBit i) := by
    intro l
    induction l with
    | nil => simp
    | cons f l ih =>
      intro m
      rw [List.foldl_cons, ih]
      cases hp : p f.acc <;> simp [hp, Nat.testBit_or, Bool.or_assoc]
  simpa [RegRow.mask] using fold r.fields 0

/-- Two fields of a register share no bit. -/
abbrev FieldDef.apart (f g : FieldDef) : Prop := f.lo + f.w ≤ g.lo ∨ g.lo + g.w ≤ f.lo

/-- The blocks of R425, and the empty one of the addresses between them. -/
def regBlocks : List (List RegRow) :=
  [regsGlb, regsTim, regsCmd, regsEvt, regsLne, regsLnw, regsRng, regsPair, regsMin, regsSto, regsPix, regsPrt, regsHit, regsTrg,
   regsWav, regsXdc, regsLin, regsTip, regsCal, regsLoop, regsCmp, []]

theorem regBlock_mem_regBlocks (a : Nat) : regBlock a ∈ regBlocks := by
  unfold regBlock
  repeat' refine iteInduction (motive := (· ∈ regBlocks)) (fun _ => ?_) (fun _ => ?_)
  all_goals simp only [regBlocks, List.mem_cons, true_or, or_true]

/-- The fields of every register of the tables are pairwise apart. -/
theorem regBlocks_apart : ∀ b ∈ regBlocks, ∀ r ∈ b, r.fields.Pairwise FieldDef.apart := by decide +kernel

theorem regRow?_apart {a : Nat} {r : RegRow} (h : regRow? a = some r) : r.fields.Pairwise FieldDef.apart :=
  regBlocks_apart _ (regBlock_mem_regBlocks a) r (List.mem_of_find?_eq_some h)

/-- Fields that share a bit are the same field. -/
theorem RegRow.field_eq_of_testBit {r : RegRow} (h : r.fields.Pairwise FieldDef.apart) {f g : FieldDef} (hf : f ∈ r.fields)
    (hg : g ∈ r.fields) {i : Nat} (hfi : f.mask.testBit i = true) (hgi : g.mask.testBit i = true) : f = g := by
  by_contra hne
  have : Std.Symm FieldDef.apart := ⟨fun _ _ => Or.symm⟩
  have hapart : f.apart g := h.forall hf hg hne
  rw [FieldDef.testBit_mask, Bool.and_eq_true, decide_eq_true_eq, decide_eq_true_eq] at hfi hgi
  rcases hapart with h | h <;> omega

/-- A bit has one access code: masks of different codes share no bit. -/
theorem RegRow.testBit_mask_of_excl {r : RegRow} (h : r.fields.Pairwise FieldDef.apart) {p q : Access → Bool}
    (hpq : ∀ c, p c = true → q c = false) {i : Nat} (hp : (r.mask p).testBit i = true) : (r.mask q).testBit i = false := by
  rw [RegRow.testBit_mask, List.any_eq_true] at hp
  obtain ⟨f, hf, hfi⟩ := hp
  rw [Bool.and_eq_true] at hfi
  rw [RegRow.testBit_mask, List.any_eq_false]
  intro g hg hgi
  rw [Bool.and_eq_true] at hgi
  obtain rfl := RegRow.field_eq_of_testBit h hf hg hfi.2 hgi.2
  rw [hpq _ hfi.1] at hgi
  exact absurd hgi.1 (by decide)

theorem regReset_of_row {a : Nat} {r : RegRow} (h : regRow? a = some r) : regReset a = BitVec.ofNat 32 (r.reset a) := by
  unfold regReset
  rw [h]

end Sys2Proof.Machine
end

section
/-! PROOFS. Laws of the reads of registers (R5 to R10): the value of a register, the holding copies, the clearing of RC fields. -/

namespace Sys2Proof.Machine

/-! ### The value of a register -/

/-- A register without live fields shows its RWS bits from one bank, its RC bits as the CCLK found them, and its other bits. -/
theorem Chip.testBit_regValue (s : Chip) (x : Sender) (sh : Bool) {a : Nat} {r : RegRow} (i : Nat) (hr : regRow? a = some r)
    (hlive : (if a < 0x10000 then s.liveLow x a else s.liveHigh x a) = []) :
    (s.regValue x sh a).testBit i
      = (((regReset a ^^^ (if sh then s.regs.shadow else s.regs.active).get a).getLsbD i && (r.mask (· == .rws)).testBit i)
        || ((regReset a ^^^ s.regs.direct.get a).getLsbD i && (r.mask fun c => c != .rws && c != .wo && c != .rc).testBit i)
        || ((regReset a ^^^ s.rcView.get a).getLsbD i && (r.mask (· == .rc)).testBit i)) := by
  unfold Chip.regValue
  rw [hr, regReset_of_row hr]
  simp only [hlive, putFlds, List.foldl_nil, Nat.testBit_or, Nat.testBit_and, BitVec.testBit_toNat]

/-! ### Holding copies (R10) -/

/-- `t` differs from `s` at most in the holding copies. -/
structure HoldsOnly (s t : Chip) : Prop where
  rest : t = { s with regs := { s.regs with holdE := t.regs.holdE, holdW := t.regs.holdW, holdS := t.regs.holdS } }

theorem HoldsOnly.refl (s : Chip) : HoldsOnly s s := ⟨rfl⟩

theorem HoldsOnly.trans {s t u : Chip} (h1 : HoldsOnly s t) (h2 : HoldsOnly t u) : HoldsOnly s u := by
  refine ⟨?_⟩
  rw [h2.rest, h1.rest]

theorem holdAt_holdsOnly (x : Sender) (a v : Nat) (s : Chip) : HoldsOnly s (holdAt x a v s) := by
  refine ⟨?_⟩
  match x with
  | .ring .east => rfl
  | .ring .west => rfl
  | .side => rfl

theorem hold_holdAt_same (x : Sender) (a v : Nat) (s : Chip) :
    (holdAt x a v s).hold x = (s.hold x).set a (BitVec.ofNat 33 (2 ^ 32 + v % 2 ^ 32)) := by
  match x with
  | .ring .east => rfl
  | .ring .west => rfl
  | .side => rfl

theorem hold_holdAt_ne {x y : Sender} (h : y ≠ x) (a v : Nat) (s : Chip) : (holdAt x a v s).hold y = s.hold y := by
  match x, y with
  | .ring .east, .ring .east => exact absurd rfl h
  | .ring .east, .ring .west => rfl
  | .ring .east, .side => rfl
  | .ring .west, .ring .east => rfl
  | .ring .west, .ring .west => exact absurd rfl h
  | .ring .west, .side => rfl
  | .side, .ring .east => rfl
  | .side, .ring .west => rfl
  | .side, .side => exact absurd rfl h

/-- Takes the holding copies of a list of registers, each with its value. -/
def takeCopies (x : Sender) (val : Nat → Nat) (l : List Nat) (s : Chip) : Chip := forAll l (fun b t => holdAt x b (val b) t) s

theorem takeCopies_cons (x : Sender) (val : Nat → Nat) (b : Nat) (l : List Nat) (s : Chip) :
    takeCopies x val (b :: l) s = takeCopies x val l (holdAt x b (val b) s) := rfl

theorem takeCopies_holdsOnly (x : Sender) (val : Nat → Nat) (l : List Nat) (s : Chip) : HoldsOnly s (takeCopies x val l s) := by
  induction l generalizing s with
  | nil => exact HoldsOnly.refl s
  | cons b l ih => exact (holdAt_holdsOnly x b (val b) s).trans (ih _)

/-- The copies taken hold the values given; the other copies of the sender stand. -/
theorem hold_takeCopies_same (x : Sender) (val : Nat → Nat) (l : List Nat) (b : Nat) (s : Chip) :
    ((takeCopies x val l s).hold x).get b = if b ∈ l then BitVec.ofNat 33 (2 ^ 32 + val b % 2 ^ 32) else (s.hold x).get b := by
  induction l generalizing s with
  | nil => rfl
  | cons c l ih =>
    rw [takeCopies_cons, ih, hold_holdAt_same, SMap.get_set]
    by_cases hl : b ∈ l
    · simp [hl]
    · by_cases hc : c = b
      · subst hc; simp
      · simp [hl, hc, Ne.symm hc]

theorem hold_takeCopies_ne {x y : Sender} (h : y ≠ x) (val : Nat → Nat) (l : List Nat) (s : Chip) :
    (takeCopies x val l s).hold y = s.hold y := by
  induction l generalizing s with
  | nil => rfl
  | cons b l ih => rw [takeCopies_cons, ih, hold_holdAt_ne h]

theorem Chip.held?_of_copy {s : Chip} {x : Sender} {a v : Nat} (h : (s.hold x).get a = BitVec.ofNat 33 (2 ^ 32 + v % 2 ^ 32)) :
    s.held? x a = some (v % 2 ^ 32) := by
  have hv : ((s.hold x).get a).toNat = 2 ^ 32 + v % 2 ^ 32 := by
    rw [h, BitVec.toNat_ofNat, Nat.mod_eq_of_lt (by omega)]
  unfold Chip.held?
  rw [hv]
  simp

/-! ### Reads -/

/-- A held copy is what a read returns, and the read does nothing else. -/
theorem readReg_of_held {s : Chip} {x : Sender} {a v : Nat} (sh : Bool) (h : s.held? x a = some v) :
    readReg x sh a s = (v, false, s) := by
  unfold readReg
  rw [h]

/-- A read of a register that neither a copy nor a table memory holds. -/
theorem readReg_of_direct {s : Chip} {x : Sender} {sh : Bool} {a : Nat} (hh : s.held? x a = none) (ht : s.tabRef x sh a = none) :
    readReg x sh a s = (s.regValue x sh a, false, readEffects a (takeCopies x (s.regValue x sh) (captures a) s)) := by
  unfold readReg
  rw [hh, ht]
  rfl

/-! ### Clearing RC fields (R5, R6) -/

theorem clearRc_rest (a : Nat) (s : Chip) :
    clearRc a s = { s with regs := { s.regs with direct := (clearRc a s).regs.direct, before := (clearRc a s).regs.before } } := by
  unfold clearRc
  split <;> rfl

theorem clearRc_direct_ne {a b : Nat} (h : b ≠ a) (s : Chip) : (clearRc a s).regs.direct.get b = s.regs.direct.get b := by
  unfold clearRc
  split
  · rfl
  · exact SMap.get_set_ne _ _ h.symm

theorem clearRc_before_ne {a b : Nat} (h : b ≠ a) (s : Chip) : (clearRc a s).regs.before.get b = s.regs.before.get b := by
  unfold clearRc
  split
  · rfl
  · exact SMap.get_set_ne _ _ h.symm

theorem clearRc_before_same {a : Nat} {r : RegRow} (hr : regRow? a = some r) (s : Chip) {i : Nat} (hi : i < 32) :
    ((clearRc a s).regs.before.get a).getLsbD i = ((s.regs.before.get a).getLsbD i && !(r.mask (· == .rc)).testBit i) := by
  unfold clearRc
  rw [hr]
  simp only [SMap.get_set_same, BitVec.getLsbD_and, BitVec.getLsbD_not, BitVec.getLsbD_ofNat, hi, decide_true, Bool.true_and]

/-- What the RC fields of a register keep after a read. -/
def rcKeptAll (a : Nat) (r : RegRow) (before now : Nat) : Nat :=
  (r.fields.filter fun f => f.acc == .rc).foldl (fun v f => v ||| rcKept a f before now) 0

theorem clearRc_direct_same {a : Nat} {r : RegRow} (hr : regRow? a = some r) (s : Chip) :
    (clearRc a s).regs.direct.get a = (s.regs.direct.get a &&& ~~~BitVec.ofNat 32 (r.mask (· == .rc)))
      ||| (BitVec.ofNat 32 (rcKeptAll a r (s.rcView.get a).toNat (s.regs.direct.get a).toNat)
        &&& BitVec.ofNat 32 (r.mask (· == .rc))) := by
  unfold clearRc
  rw [hr]
  exact SMap.get_set_same _ _ _

/-- A read leaves every bit that is not RC alone. -/
theorem clearRc_direct_other {a : Nat} {r : RegRow} (hr : regRow? a = some r) (s : Chip) {i : Nat} (hi : i < 32)
    (hrc : (r.mask (· == .rc)).testBit i = false) :
    ((clearRc a s).regs.direct.get a).getLsbD i = (s.regs.direct.get a).getLsbD i := by
  rw [clearRc_direct_same hr]
  simp only [BitVec.getLsbD_or, BitVec.getLsbD_and, BitVec.getLsbD_not, BitVec.getLsbD_ofNat, hi, hrc, decide_true, Bool.not_false,
    Bool.and_true, Bool.and_false, Bool.or_false]

/-- Where the CCLK of the read has counted nothing, a field keeps nothing. -/
theorem rcKept_same (a : Nat) (f : FieldDef) (v : Nat) : rcKept a f v v = 0 := by
  simp [rcKept, place]

theorem rcKeptAll_same (a : Nat) (r : RegRow) (v : Nat) : rcKeptAll a r v v = 0 := by
  unfold rcKeptAll
  induction r.fields.filter fun f => f.acc == .rc with
  | nil => rfl
  | cons f l ih => rw [List.foldl_cons, rcKept_same]; exact ih

theorem clearRc_direct_clear {a : Nat} {r : RegRow} (hr : regRow? a = some r) (s : Chip) {i : Nat} (hi : i < 32)
    (hn : s.clk.counting = true → s.regs.before.get a = s.regs.direct.get a) (hrc : (r.mask (· == .rc)).testBit i = true) :
    ((clearRc a s).regs.direct.get a).getLsbD i = false := by
  have hview : s.rcView.get a = s.regs.direct.get a := by
    unfold Chip.rcView
    split
    · next hc => exact hn hc
    · rfl
  rw [clearRc_direct_same hr, hview, rcKeptAll_same]
  simp only [BitVec.getLsbD_or, BitVec.getLsbD_and, BitVec.getLsbD_not, BitVec.getLsbD_ofNat, hi, hrc, decide_true, Bool.not_true,
    Bool.and_true, Bool.and_false, Nat.zero_testBit, Bool.or_false]

/-! ### The effects of a read (R71, R392) -/

theorem readEffects_other {a : Nat} (h1 : a ≠ 0x8040) (h2 : a ≠ 0x8044) (h3 : a ≠ 0x30024) (s : Chip) :
    readEffects a s = clearRc a s := by
  unfold readEffects
  rw [if_neg h1, if_neg h2, if_neg h3]

/-- The four ways of a read beside the value it returns. -/
theorem readEffects_cases (a : Nat) (P : Chip → Prop) (s : Chip)
    (logLo : a = 0x8040 → P { s with scrub := { s.scrub with log := s.scrub.log.tail } }) (logHi : a = 0x8044 → P s)
    (stuckCnt : a = 0x30024 → P ((clearRc a s).setFlag F.HIT_FE_STUCK_ADDR_VALID false))
    (other : a ≠ 0x8040 → a ≠ 0x8044 → a ≠ 0x30024 → P (clearRc a s)) : P (readEffects a s) := by
  by_cases h1 : a = 0x8040
  · subst h1; exact logLo rfl
  by_cases h2 : a = 0x8044
  · subst h2; exact logHi rfl
  by_cases h3 : a = 0x30024
  · subst h3; exact stuckCnt rfl
  rw [readEffects_other h1 h2 h3]
  exact other h1 h2 h3

/-- A read touches `direct`, `before` and the log, besides the holding copies. -/
theorem readEffects_rest (a : Nat) (s : Chip) :
    readEffects a s = { s with
      regs := { s.regs with direct := (readEffects a s).regs.direct, before := (readEffects a s).regs.before }
      scrub := { s.scrub with log := if a = 0x8040 then s.scrub.log.tail else s.scrub.log } } := by
  have clear := clearRc_rest a s
  refine readEffects_cases a (fun t => t = { s with
      regs := { s.regs with direct := t.regs.direct, before := t.regs.before }
      scrub := { s.scrub with log := if a = 0x8040 then s.scrub.log.tail else s.scrub.log } }) s ?_ ?_ ?_ ?_
  · intro h; rw [if_pos h]
  · intro h; rw [if_neg (by omega)]
  · intro h
    rw [if_neg (by omega)]
    unfold Chip.setFlag Chip.setFld
    rw [clear]
  · intro h _ _
    rw [if_neg h]
    exact clear

theorem readEffects_direct_ne {a b : Nat} (h : b ≠ a) (hv : ¬ (a = 0x30024 ∧ b = F.HIT_FE_STUCK_ADDR_VALID.addr)) (s : Chip) :
    (readEffects a s).regs.direct.get b = s.regs.direct.get b := by
  refine readEffects_cases a (fun t => t.regs.direct.get b = s.regs.direct.get b) s (fun _ => rfl) (fun _ => rfl) ?_ ?_
  · intro ha
    have hb : F.HIT_FE_STUCK_ADDR_VALID.addr ≠ b := fun e => hv ⟨ha, e.symm⟩
    exact (Chip.setFld_direct_ne _ _ _ _ hb).trans (clearRc_direct_ne h s)
  · intro _ _ _
    exact clearRc_direct_ne h s

theorem readEffects_before_ne {a b : Nat} (h : b ≠ a) (s : Chip) : (readEffects a s).regs.before.get b = s.regs.before.get b :=
  readEffects_cases a (fun t => t.regs.before.get b = s.regs.before.get b) s (fun _ => rfl) (fun _ => rfl)
    (fun _ => clearRc_before_ne h s) (fun _ _ _ => clearRc_before_ne h s)

/-- Away from the log, a read does to its own register what the clearing of RC fields does. -/
theorem readEffects_before_same {a : Nat} (h1 : a ≠ 0x8040) (h2 : a ≠ 0x8044) (s : Chip) :
    (readEffects a s).regs.before.get a = (clearRc a s).regs.before.get a :=
  readEffects_cases a (fun t => t.regs.before.get a = (clearRc a s).regs.before.get a) s (fun h => absurd h h1) (fun h => absurd h h2)
    (fun _ => rfl) (fun _ _ _ => rfl)

theorem readEffects_direct_same {a : Nat} (h1 : a ≠ 0x8040) (h2 : a ≠ 0x8044) (s : Chip) :
    (readEffects a s).regs.direct.get a = (clearRc a s).regs.direct.get a := by
  refine readEffects_cases a (fun t => t.regs.direct.get a = (clearRc a s).regs.direct.get a) s (fun h => absurd h h1)
    (fun h => absurd h h2) ?_ (fun _ _ _ => rfl)
  intro ha
  have hb : F.HIT_FE_STUCK_ADDR_VALID.addr ≠ a := by rw [ha]; decide
  exact Chip.setFld_direct_ne _ _ _ _ hb

theorem readEffects_hold (a : Nat) (s : Chip) (y : Sender) : (readEffects a s).hold y = s.hold y := by
  rw [readEffects_rest]
  match y with
  | .ring .east => rfl
  | .ring .west => rfl
  | .side => rfl

/-! ### Block reads (R7) -/

/-- One read of a block read: its value in front of those before it, the poison mark, and the chip. -/
def readStep (x : Sender) (sh : Bool) (acc : List Nat × Bool × Chip) (a : Nat) : List Nat × Bool × Chip :=
  ((readReg x sh a acc.2.2).1 :: acc.1, acc.2.1 || (readReg x sh a acc.2.2).2.1, (readReg x sh a acc.2.2).2.2)

theorem readRegs_eq (x : Sender) (sh : Bool) (as : List Nat) (s : Chip) :
    readRegs x sh as s = ((as.foldl (readStep x sh) ([], false, s)).1.reverse, (as.foldl (readStep x sh) ([], false, s)).2) := rfl

/-- What was read before a block read goes in front of what it reads. -/
theorem foldl_readStep (x : Sender) (sh : Bool) (as : List Nat) (vs : List Nat) (bad : Bool) (s : Chip) :
    as.foldl (readStep x sh) (vs, bad, s) =
      ((readRegs x sh as s).1.reverse ++ vs, bad || (readRegs x sh as s).2.1, (readRegs x sh as s).2.2) := by
  induction as generalizing vs bad s with
  | nil => simp [readRegs_eq]
  | cons a as ih =>
    have one : readStep x sh (vs, bad, s) a
        = ((readReg x sh a s).1 :: vs, bad || (readReg x sh a s).2.1, (readReg x sh a s).2.2) := rfl
    have first : readStep x sh ([], false, s) a = ([(readReg x sh a s).1], (readReg x sh a s).2.1, (readReg x sh a s).2.2) := rfl
    rw [readRegs_eq x sh (a :: as), List.foldl_cons, List.foldl_cons, one, first, ih, ih]
    simp [Bool.or_assoc]

theorem readRegs_nil (x : Sender) (sh : Bool) (s : Chip) : readRegs x sh [] s = ([], false, s) := rfl

theorem readRegs_cons (x : Sender) (sh : Bool) (a : Nat) (as : List Nat) (s : Chip) :
    readRegs x sh (a :: as) s =
      ((readReg x sh a s).1 :: (readRegs x sh as (readReg x sh a s).2.2).1,
       (readReg x sh a s).2.1 || (readRegs x sh as (readReg x sh a s).2.2).2.1,
       (readRegs x sh as (readReg x sh a s).2.2).2.2) := by
  rw [readRegs_eq, List.foldl_cons, show readStep x sh ([], false, s) a
    = ([(readReg x sh a s).1], (readReg x sh a s).2.1, (readReg x sh a s).2.2) from rfl, foldl_readStep]
  simp

theorem readRegs_singleton (x : Sender) (sh : Bool) (a : Nat) (s : Chip) :
    readRegs x sh [a] s = ([(readReg x sh a s).1], (readReg x sh a s).2.1, (readReg x sh a s).2.2) := by
  rw [readRegs_cons, readRegs_nil, Bool.or_false]

/-! ### The read opcodes (R356) -/

theorem runOpcode_10 (h : CmdHead) (addr : Nat) (s : Chip) (ha : addr < 2 ^ 24) :
    runOpcode (cmdOf h 0x10 addr []) s =
      (if (readReg h.sender (h.bank == 1#2) addr s).2.1 then 9 else 0, [(readReg h.sender (h.bank == 1#2) addr s).1],
       (readReg h.sender (h.bank == 1#2) addr s).2.2) := by
  have hregs : (cmdOf h 0x10 addr []).regs = [addr] := by
    unfold Command.regs
    rw [cmdOf_op _ _ _ _ (by decide), cmdOf_addr _ _ _ _ ha]
    rfl
  have hrun : runOpcode (cmdOf h 0x10 addr []) s = runRead (cmdOf h 0x10 addr []) s := by
    unfold runOpcode
    rw [cmdOf_op _ _ _ _ (by decide)]
    rfl
  rw [hrun]
  unfold runRead
  rw [hregs, cmdOf_bank, cmdOf_bankEq, cmdOf_sender, readRegs_singleton]
  rfl

theorem runOpcode_11 (h : CmdHead) (addr : Nat) (w : W64) (s : Chip) (hl : h.lenOk = true) (ha : addr < 2 ^ 24) :
    let r := readRegs h.sender (h.bank == 1#2) ((List.range (bits w.toNat 8 0)).map fun k => addr + 4 * k) s
    runOpcode (cmdOf h 0x11 addr [w]) s = (if r.2.1 then 9 else 0, pairUp r.1, r.2.2) := by
  have hregs : (cmdOf h 0x11 addr [w]).regs = (List.range (bits w.toNat 8 0)).map fun k => addr + 4 * k := by
    unfold Command.regs
    rw [cmdOf_op _ _ _ _ (by decide), cmdOf_addr _ _ _ _ ha, cmdOf_arg _ _ _ _ _ hl]
    rfl
  have hrun : runOpcode (cmdOf h 0x11 addr [w]) s = runRead (cmdOf h 0x11 addr [w]) s := by
    unfold runOpcode
    rw [cmdOf_op _ _ _ _ (by decide)]
    rfl
  dsimp only
  rw [hrun]
  unfold runRead
  rw [hregs, cmdOf_bank, cmdOf_bankEq, cmdOf_sender]

end Sys2Proof.Machine
end

section
/-! PROOFS. Laws of the writes of registers (R5, R6, R8, R9) that no table memory holds. -/

namespace Sys2Proof.Machine

/-- A write that does not reach a shadow acts on the fields that are not RWS. -/
theorem writeReg_eq_writeDirect {x : Sender} {sh : Bool} {a : Nat} {r : RegRow} {s : Chip} (v : Nat) (hr : regRow? a = some r)
    (ht : s.tabRef x true a = none) (hs : sh = false ∨ r.hasRws = false) (hc : a ≠ 0x70010) (hp : a ≠ 0x9080) :
    writeReg x sh a v s = writeDirect a v r s := by
  have hb : (r.hasRws && sh) = false := by rcases hs with h | h <;> simp [h]
  unfold writeReg
  rw [hr]
  simp only [if_neg hc, if_neg hp, ht, hb, Bool.false_eq_true, if_false]

/-- A write with bank 1 to a register with RWS fields writes their shadow. -/
theorem writeReg_eq_writeShadow {x : Sender} {a : Nat} {r : RegRow} {s : Chip} (v : Nat) (hr : regRow? a = some r)
    (ht : s.tabRef x true a = none) (hs : r.hasRws = true) (hc : a ≠ 0x70010) (hp : a ≠ 0x9080) :
    writeReg x true a v s = writeShadow a v r s := by
  unfold writeReg
  rw [hr]
  simp only [if_neg hc, if_neg hp, ht, hs, Bool.and_self, if_true]

theorem Chip.getLsbD_setInCycle (s : Chip) (a i : Nat) :
    (s.setInCycle a).getLsbD i = (s.clk.counting && (s.regs.setNow.get a).getLsbD i) := by
  unfold Chip.setInCycle
  cases s.clk.counting <;> simp

/-- A register that acts by no procedure of its own takes one new value. -/
theorem writeDirect_rest {a : Nat} (v : Nat) (r : RegRow) (s : Chip) (h1 : a ≠ 0x80008) (h2 : a ≠ 0x48020) :
    ∃ d, writeDirect a v r s = { s with regs := { s.regs with direct := s.regs.direct.set a d } } := by
  unfold writeDirect
  rw [if_neg h1, if_neg h2]
  exact ⟨_, rfl⟩

/-- RW bits take the written bit; W1C bits clear where a 1 is written, unless they were set in this CCLK. -/
theorem getLsbD_writeDirect {a : Nat} {r : RegRow} (v : Nat) (s : Chip) (hr : regRow? a = some r) (h1 : a ≠ 0x80008) (h2 : a ≠ 0x48020)
    {i : Nat} (hi : i < 32) :
    (regReset a ^^^ (writeDirect a v r s).regs.direct.get a).getLsbD i =
      ((if (r.mask (· == .rw)).testBit i then v.testBit i else (regReset a ^^^ s.regs.direct.get a).getLsbD i)
        && !(v.testBit i && (r.mask (· == .w1c)).testBit i && !(s.clk.counting && (s.regs.setNow.get a).getLsbD i))) := by
  unfold writeDirect
  rw [if_neg h1, if_neg h2, ← regReset_of_row hr]
  dsimp only
  rw [SMap.get_set_same, BitVec.xor_comm _ (regReset a), ← BitVec.xor_assoc, BitVec.xor_self, BitVec.zero_xor,
    ← Chip.getLsbD_setInCycle]
  simp only [BitVec.getLsbD_and, BitVec.getLsbD_or, BitVec.getLsbD_not, BitVec.getLsbD_ofNat, hi, decide_true, Bool.true_and]
  cases (r.mask (· == .rw)).testBit i <;> simp

theorem getLsbD_writeShadow {a : Nat} {r : RegRow} (v : Nat) (s : Chip) (hr : regRow? a = some r) {i : Nat} (hi : i < 32) :
    (regReset a ^^^ (writeShadow a v r s).regs.shadow.get a).getLsbD i =
      if (r.mask (· == .rws)).testBit i then v.testBit i else (regReset a ^^^ s.regs.shadow.get a).getLsbD i := by
  unfold writeShadow
  dsimp only
  rw [SMap.get_set_same, ← regReset_of_row hr]
  simp only [BitVec.getLsbD_xor, BitVec.getLsbD_and, BitVec.getLsbD_or, BitVec.getLsbD_not, BitVec.getLsbD_ofNat, hi, decide_true,
    Bool.true_and]
  cases (r.mask (· == .rws)).testBit i
  · simp
  · simp [Bool.xor_comm (v.testBit i)]

theorem writeShadow_rest (a v : Nat) (r : RegRow) (s : Chip) :
    ∃ d c, writeShadow a v r s = { s with regs := { s.regs with shadow := s.regs.shadow.set a d }, cmd := c } := ⟨_, _, rfl⟩

end Sys2Proof.Machine
end

section
/-! PROOFS. The obligations on the register space and on the state after reset. -/

namespace Sys2Proof.Machine

/-- Settles O11: the opcodes RD and RDB run block reads, and a block read unrolls into single reads. -/
theorem readRowsReturnRegisters : Obligations.ReadRowsReturnRegisters := by
  unfold Obligations.ReadRowsReturnRegisters
  intro h s
  refine ⟨?_, ?_, ?_⟩
  · intro i a hi ht
    have hrow : rowCommand i = some (cmdOf h 0x10 a.toNat []) := by
      rcases hi with rfl | rfl | ⟨rfl, rfl⟩ | ⟨rfl, rfl⟩ | ⟨rfl, rfl⟩ <;> rfl
    exact row_answers ht hrow _ _ _ (runOpcode_10 h a.toNat s.chip a.isLt)
  · intro a w0 ht
    have hlen : h.lenOk = true := taken_len ht rfl (by decide) (by simp)
    exact row_answers ht rfl _ _ _ (runOpcode_11 h a.toNat w0 s.chip hlen a.isLt)
  · intro x sh a as c
    exact ⟨readRegs_nil x sh c, readRegs_cons x sh a as c⟩

/-- Settles O12: each bit of a register belongs to one access code, so that of the three parts of the value only one shows it. -/
theorem registerBitsReadByAccessCode : Obligations.RegisterBitsReadByAccessCode := by
  unfold Obligations.RegisterBitsReadByAccessCode
  intro x sh a r s i hr hlive _
  have hapart := regRow?_apart hr
  rw [s.testBit_regValue x sh i hr hlive]
  by_cases hrws : (r.mask (· == .rws)).testBit i = true
  · have hrest : (r.mask fun c => c != .rws && c != .wo && c != .rc).testBit i = false :=
      RegRow.testBit_mask_of_excl hapart (fun c => by cases c <;> decide) hrws
    have hrc : (r.mask (· == .rc)).testBit i = false := RegRow.testBit_mask_of_excl hapart (fun c => by cases c <;> decide) hrws
    rw [if_pos hrws, hrws, hrest, hrc, Bool.and_true, Bool.and_false, Bool.and_false, Bool.or_false, Bool.or_false]
  rw [if_neg hrws, Bool.eq_false_iff.mpr hrws, Bool.and_false, Bool.false_or]
  by_cases hrest : (r.mask fun c => c != .rws && c != .wo && c != .rc).testBit i = true
  · have hrc : (r.mask (· == .rc)).testBit i = false := RegRow.testBit_mask_of_excl hapart (fun c => by cases c <;> decide) hrest
    rw [if_pos hrest, hrest, hrc, Bool.and_true, Bool.and_false, Bool.or_false]
  rw [if_neg hrest, Bool.eq_false_iff.mpr hrest, Bool.and_false, Bool.false_or]
  by_cases hrc : (r.mask (· == .rc)).testBit i = true
  · rw [if_pos hrc, hrc, Bool.and_true, Chip.rcView]
  · rw [if_neg hrc, Bool.eq_false_iff.mpr hrc, Bool.and_false]

/-- Settles O13: the copies touch the holding registers alone, and the effects after them only the register's RC bits and the log. -/
theorem registerReadClearsOnlyItsRcBits : Obligations.RegisterReadClearsOnlyItsRcBits := by
  unfold Obligations.RegisterReadClearsOnlyItsRcBits
  intro x sh a s hheld htab
  rw [readReg_of_direct hheld htab]
  have hcopies := (takeCopies_holdsOnly x (s.regValue x sh) (captures a) s).rest
  generalize takeCopies x (s.regValue x sh) (captures a) s = u at hcopies
  have hrest := readEffects_rest a u
  have hdirect : u.regs.direct = s.regs.direct := by rw [hcopies]
  have hbefore : u.regs.before = s.regs.before := by rw [hcopies]
  have hclk : u.clk = s.clk := by rw [hcopies]
  dsimp only
  refine ⟨rfl, rfl, ?_, ?_, ?_, ?_, ?_, ?_, ?_, ?_, ?_, ?_⟩
  · rw [hrest, hcopies]
  · rw [hrest, hcopies]
  · intro b hb hv
    rw [readEffects_direct_ne hb hv, hdirect]
  · intro b hb
    rw [readEffects_before_ne hb, hbefore]
  · rw [hrest, hcopies]
  · rw [hrest, hcopies]
  · rw [hrest, hcopies]
  · intro r hr h1 h2 i hi
    rw [readEffects_before_same h1 h2, readEffects_direct_same h1 h2, ← hbefore, ← hdirect, ← hclk]
    exact ⟨clearRc_before_same hr u hi, clearRc_direct_other hr u hi, clearRc_direct_clear hr u hi⟩
  · rintro rfl
    exact Chip.fld_setFld_same _ F.HIT_FE_STUCK_ADDR_VALID 0 (by decide) rfl
  · rw [hrest, hcopies]

/-- Settles O14: the copy of an upper word is taken as the register stood, no effect of a read touches it, and a held copy is what a
read returns. -/
theorem upperWordComesFromHoldingCopy : Obligations.UpperWordComesFromHoldingCopy := by
  unfold Obligations.UpperWordComesFromHoldingCopy
  intro x sh sh' a b s u hheld htab hb hu
  rw [readReg_of_direct hheld htab, readEffects_hold] at hu
  have hcopy : u.held? x b = some (s.regValue x sh b % 2 ^ 32) := by
    refine Chip.held?_of_copy ?_
    rw [hu, hold_takeCopies_same, if_pos hb]
  rw [readReg_of_held sh' hcopy, readReg_of_direct hheld htab]
  refine ⟨rfl, rfl, fun y hy => ?_⟩
  rw [readEffects_hold, hold_takeCopies_ne hy]

/-- Settles O16: such a write gives the register one new value, bit by bit by access code. -/
theorem writeActsByAccessCode : Obligations.WriteActsByAccessCode := by
  unfold Obligations.WriteActsByAccessCode
  intro x sh a v r s hr ht hs hlatch hurg hcal hsto
  rw [writeReg_eq_writeDirect v hr ht hs hcal hsto]
  obtain ⟨d, hd⟩ := writeDirect_rest v r s hlatch hurg
  refine ⟨fun i hi => getLsbD_writeDirect v s hr hlatch hurg hi, fun b hb => ?_, ?_⟩
  · rw [hd]
    exact SMap.get_set_ne _ _ hb.symm
  · rw [hd]

/-- Settles O17: such a write replaces the RWS bits of one shadow register. -/
theorem shadowWriteLeavesActiveBank : Obligations.ShadowWriteLeavesActiveBank := by
  unfold Obligations.ShadowWriteLeavesActiveBank
  intro x a v r s hr ht hs hcal hsto
  rw [writeReg_eq_writeShadow v hr ht hs hcal hsto]
  obtain ⟨d, c, hd⟩ := writeShadow_rest a v r s
  refine ⟨fun i hi => getLsbD_writeShadow v s hr hi, fun b hb => ?_, ?_, ?_⟩
  · rw [hd]
    exact SMap.get_set_ne _ _ hb.symm
  · rw [hd]
  · rw [hd]

theorem State.reset_fld (f : Fld) : State.reset.chip.fld f = bits (regReset f.addr).toNat (f.lo + f.w - 1) f.lo := by
  have hbank : (if f.rws then State.reset.chip.regs.active else State.reset.chip.regs.direct) = [] := by
    cases f.rws <;> rfl
  rw [Chip.fld, hbank, fieldOf, SMap.get, BitVec.xor_zero]

theorem State.reset_mem (m : Nat) : State.reset.chip.mem m = Mem.clean := by
  change nth Mem.clean (List.replicate 12 Mem.clean) m = Mem.clean
  by_cases hm : m < 12
  · rw [nth, List.getD_eq_getElem _ _ (by simpa using hm), List.getElem_replicate]
  · rw [nth, List.getD_eq_default _ _ (by simpa using hm)]

theorem Tap.initial_inv : Tap.initial.Inv :=
  ⟨fun _ => rfl, fun h => absurd h (by decide), fun h => absurd h (by decide)⟩

/-- Settles O5: every map of the reset state is empty, so that registers and memories read their reset values. -/
theorem resetStateHoldsResetValues : Obligations.ResetStateHoldsResetValues := by
  unfold Obligations.ResetStateHoldsResetValues
  refine ⟨rfl, rfl, rfl, State.reset_fld, fun m w _ => ?_, State.reset_memsWf, Tap.initial_inv⟩
  constructor
  · rw [Chip.memData, State.reset_mem, Mem.clean, SMap.get, BitVec.xor_zero]
  · rw [Chip.poisoned, State.reset_mem, Mem.clean, SMap.get]
    decide

end Sys2Proof.Machine
end

section
/-! PROOFS. The conversion between network time and TIME128 (R35). -/

namespace Sys2Proof.Machine

theorem ftuSec_eq (t : Nat) : ftuSec t = t / 327680000000 := rfl

theorem ftuNanos_eq (t : Nat) :
    ftuNanos t = 3200 * (t % 327680000000 / 1048576) + 200 * (t % 327680000000 % 1048576) / 65536 := rfl

theorem ftuSubns_eq (t : Nat) : ftuSubns t = 200 * (t % 1048576) % 65536 := rfl

theorem ofTime128_eq (sec ns sub : Nat) :
    ofTime128 sec ns sub = (sec * 312500 + ns / 3200) * 1048576 + ((ns % 3200) * 65536 + sub) / 200 := rfl

/-- The offset of a time within its second and that within its frame agree on the frame's part. -/
theorem mod_second_mod_frame (t : Nat) : t % 327680000000 % 1048576 = t % 1048576 :=
  Nat.mod_mod_of_dvd t (by decide)

theorem ofTime128_of_ftu (t : Nat) : ofTime128 (ftuSec t) (ftuNanos t) (ftuSubns t) = t := by
  rw [ofTime128_eq, ftuSec_eq, ftuNanos_eq, ftuSubns_eq, mod_second_mod_frame]
  have hframe := mod_second_mod_frame t
  omega

theorem ftuNanos_lt (t : Nat) : ftuNanos t < 1000000000 := by
  rw [ftuNanos_eq]
  omega

theorem ftuSubns_lt (t : Nat) : ftuSubns t < 65536 := Nat.mod_lt _ (by decide)

/-- The low word of a TIME128 has its three fields in their places. -/
theorem bits_time128Lo (t q hi lo : Nat) : bits (time128Lo t q) hi lo
    = bits (place 32 32 (ftuNanos t)) hi lo ||| bits (place 16 16 (ftuSubns t)) hi lo ||| bits (place 8 8 q) hi lo := by
  unfold time128Lo
  rw [bits_or, bits_or]

theorem time128Lo_nanos (t q : Nat) : bits (time128Lo t q) 63 32 = ftuNanos t := by
  rw [bits_time128Lo, bits_place_same 32 32 _ (by decide), bits_place_apart 16 16 _ _ _ (by omega),
    bits_place_apart 8 8 _ _ _ (by omega), Nat.or_zero, Nat.or_zero]
  exact Nat.mod_eq_of_lt (Nat.lt_trans (ftuNanos_lt t) (by decide))

theorem time128Lo_subns (t q : Nat) : bits (time128Lo t q) 31 16 = ftuSubns t := by
  rw [bits_time128Lo, bits_place_same 16 16 _ (by decide), bits_place_apart 32 32 _ _ _ (by omega),
    bits_place_apart 8 8 _ _ _ (by omega), Nat.zero_or, Nat.or_zero]
  exact Nat.mod_eq_of_lt (ftuSubns_lt t)

theorem time128Lo_quality (t : Nat) {q : Nat} (hq : q < 256) : bits (time128Lo t q) 15 8 = q := by
  rw [bits_time128Lo, bits_place_same 8 8 _ (by decide), bits_place_apart 32 32 _ _ _ (by omega),
    bits_place_apart 16 16 _ _ _ (by omega), Nat.zero_or, Nat.zero_or]
  exact Nat.mod_eq_of_lt hq

theorem time128Lo_low (t q : Nat) : bits (time128Lo t q) 7 0 = 0 := by
  rw [bits_time128Lo, bits_place_apart 32 32 _ _ _ (by omega), bits_place_apart 16 16 _ _ _ (by omega),
    bits_place_apart 8 8 _ _ _ (by omega), Nat.or_zero, Nat.or_zero]

/-- Settles O31: both conversions are quotients and remainders by the numerals of R12, which linear arithmetic decides. -/
theorem time128ConversionRoundTrips : Obligations.Time128ConversionRoundTrips := by
  unfold Obligations.Time128ConversionRoundTrips
  refine ⟨ofTime128_of_ftu, fun t => ⟨ftuNanos_lt t, ftuSubns_lt t⟩, fun t q hq => ?_, fun sec idx a hidx ha => ?_,
    fun sec ns sub hns hsub => ?_⟩
  · exact ⟨time128Lo_nanos t q, time128Lo_subns t q, time128Lo_quality t hq, time128Lo_low t q⟩
  · dsimp only
    rw [ftuSec_eq, ftuNanos_eq, ftuSubns_eq]
    omega
  · rw [ofTime128_eq]
    omega

end Sys2Proof.Machine
end

section
/-! PROOFS. The loss of the time reference (R36, R38, R40) and its return (R39, R417). -/

namespace Sys2Proof.Machine

/-! ### Flags and spans -/

theorem announceAddr_of_shipAddr {a : Nat} (h : shipAddr a = false) : announceAddr a = false := by
  unfold shipAddr at h
  simp only [Bool.or_eq_false_iff] at h
  exact h.1.1

/-- Setting a field leaves every flag apart from it alone. -/
theorem flag_setFld_apart (s : Chip) (f g : Fld) (v : Nat) (h : f.apart g) (hg : 1 ≤ g.w) : (s.setFld f v).flag g = s.flag g := by
  unfold Chip.flag
  rw [Chip.fld_setFld_apart s f g v h hg]

theorem flag_setFlag_apart (s : Chip) (f g : Fld) (b : Bool) (h : f.apart g) (hg : 1 ≤ g.w) : (s.setFlag f b).flag g = s.flag g :=
  flag_setFld_apart s f g _ h hg

theorem flag_bump_apart (s : Chip) (f g : Fld) (h : f.apart g) (hg : 1 ≤ g.w) : (s.bump f).flag g = s.flag g :=
  flag_setFld_apart s f g _ h hg

theorem inSpan_open (f g : Nat) : inSpan g (f, none) = decide (f ≤ g) := by
  unfold inSpan
  simp

theorem frameIdx_lt (n : Nat) : frameIdx n < 2 ^ 19 := Nat.lt_trans (Nat.mod_lt _ (by decide)) (by decide)

/-! ### The loss -/

/-- The registers as a loss of TREF in frame `f` leaves them (R36, R38). -/
def holdoverRegs (f : Nat) (s : Chip) : Chip :=
  let s1 := ((s.setFlag F.TIM_STAT_TREF_PRESENT false).setFlag F.TIM_STAT_TPLL_LOCK false).setFlag F.TIM_STAT_HOLDOVER true
  (((s1.setFld F.TIM_HOLD_FRAMES_FRAMES 0).setFld F.TIM_LOSS_IDX_INDEX (frameIdx f)).setFld F.TIM_LOSS_SEC_SEC
    (frameSec f % 2 ^ 32)).bump F.TIM_TREF_LOSS_COUNT

/-- The clock as a loss of TREF in frame `f` leaves it: the count of presence restarts, and a span of TUNC is open. -/
def holdoverClk (f : Nat) (s : Chip) : Clk :=
  { s.clk with presentFrames := 0, tuncs := if s.tuncOpen then s.clk.tuncs else (f, none) :: s.clk.tuncs.take 3 }

/-- The chip as holdover starts, before the loss is announced. -/
def enterHoldover (f : Nat) (s : Chip) : Chip := { holdoverRegs f s with clk := holdoverClk f s }

theorem loseTref_eq (f : Nat) (s : Chip) : loseTref f s = markResults f (raise EV.TREF_LOST (enterHoldover f s)) := rfl

/-- The registers that a loss sets lie in the TIM block. -/
theorem holdoverRegs_keeps (f : Nat) (s : Chip) : Keeps [1] s (holdoverRegs f s) := by
  have hset : ∀ (g : Fld) (v : Nat) (t : Chip), Keeps [1] s t → pages [1] g.addr = true → statAddr g.addr = false →
      Keeps [1] s (t.setFld g v) := fun g v t ht hp hs => ht.trans (Keeps.setFld _ t g v hp hs)
  unfold holdoverRegs
  exact hset _ _ _ (hset _ _ _ (hset _ _ _ (hset _ _ _ (hset _ _ _ (hset _ _ _ (hset _ _ _ (Keeps.refl _ s)
    rfl rfl) rfl rfl) rfl rfl) rfl rfl) rfl rfl) rfl rfl) rfl rfl

/-- The sets of statistics of a loss frame become uncertain. -/
def markTips (f : Nat) (s : Chip) : Chip :=
  { s with tips := s.tips.map fun (e : Nat × TipCh) => (e.1, { e.2 with setTunc := e.2.setTunc || (e.2.setN != 0 && e.2.setLast == f) }) }

/-- One XHIST entry becomes uncertain. -/
def markEntry (o : Obj) (s : Chip) : Chip :=
  match o.segs with
  | (a, _) :: _ => memWrite 0 (s.regionWord 6 (a + 1)) 255 (s.memData 0 (s.regionWord 6 (a + 1)) ||| 2 ^ 24) s
  | [] => s

theorem markResults_eq (f : Nat) (s : Chip) :
    markResults f s = forAll (((markTips f s).region 6).objs.filter fun (o : Obj) => o.tag == f) markEntry (markTips f s) := rfl

theorem markEntry_ships (o : Obj) (s : Chip) : Ships s (markEntry o s) := by
  unfold markEntry
  split
  · exact memWrite_ships 0 _ _ _ (by decide) rfl s
  · exact Ships.refl s

/-- Marking results touches the statistics and what a write of XHIST touches. -/
theorem markResults_ships (f : Nat) (s : Chip) : Ships (markTips f s) (markResults f s) := by
  rw [markResults_eq]
  exact Ships.forAll _ _ (fun o _ t => markEntry_ships o t) _

/-- Where XHIST holds no result of the frame, no memory changes. -/
theorem markResults_mems {f : Nat} {s : Chip} (h : ∀ o ∈ (s.region 6).objs, o.tag ≠ f) : (markResults f s).mems = s.mems := by
  have hnone : (((markTips f s).region 6).objs.filter fun (o : Obj) => o.tag == f) = [] := by
    rw [List.filter_eq_nil_iff]
    intro o ho
    simpa using h o ho
  rw [markResults_eq, hnone]
  rfl

/-- Registers outside what announcements and writes touch are as holdover starts. -/
theorem loseTref_direct (f : Nat) (s : Chip) {a : Nat} (h : shipAddr a = false) :
    (loseTref f s).regs.direct.get a = (enterHoldover f s).regs.direct.get a := by
  rw [loseTref_eq, (markResults_ships f _).direct a h]
  exact (raise_announces EV.TREF_LOST (by decide) _).direct a (announceAddr_of_shipAddr h)

theorem loseTref_active (f : Nat) (s : Chip) : (loseTref f s).regs.active = s.regs.active := by
  rw [loseTref_eq, (markResults_ships f _).active]
  exact (raise_announces EV.TREF_LOST (by decide) _).active

theorem loseTref_shadow (f : Nat) (s : Chip) : (loseTref f s).regs.shadow = s.regs.shadow := by
  rw [loseTref_eq, (markResults_ships f _).shadow]
  exact (raise_announces EV.TREF_LOST (by decide) _).shadow

theorem loseTref_clk (f : Nat) (s : Chip) : (loseTref f s).clk = (enterHoldover f s).clk := by
  rw [loseTref_eq, (markResults_ships f _).clk]
  exact (raise_announces EV.TREF_LOST (by decide) _).clk

theorem loseTref_net (f : Nat) (s : Chip) : (loseTref f s).net = s.net := by
  rw [loseTref_eq, (markResults_ships f _).net]
  exact (raise_announces EV.TREF_LOST (by decide) _).net

theorem loseTref_fld (f : Nat) (s : Chip) (g : Fld) (h : shipAddr g.addr = false) : (loseTref f s).fld g = (enterHoldover f s).fld g :=
  Chip.fld_congr _ _ g (loseTref_active f s) (loseTref_direct f s h)

theorem loseTref_flag (f : Nat) (s : Chip) (g : Fld) (h : shipAddr g.addr = false) : (loseTref f s).flag g = (enterHoldover f s).flag g := by
  unfold Chip.flag
  rw [loseTref_fld f s g h]

theorem loseTref_seen (f : Nat) (s : Chip) : (loseTref f s).eventSeen EV.TREF_LOST = true := by
  rw [loseTref_eq]
  exact (markResults_ships f _).events _ (by decide) (raise_seen EV.TREF_LOST (by decide) _)

theorem loseTref_keeps_seen (f : Nat) (s : Chip) {e : Nat} (he : e < 384) (h : s.eventSeen e = true) :
    (loseTref f s).eventSeen e = true := by
  rw [loseTref_eq]
  exact (markResults_ships f _).events e he ((raise_announces EV.TREF_LOST (by decide) _).events e he
    ((holdoverRegs_keeps f s).events e he h))

theorem loseTref_mems (f : Nat) (s : Chip) (h : ∀ o ∈ (s.region 6).objs, o.tag ≠ f) : (loseTref f s).mems = s.mems := by
  have hann := raise_announces EV.TREF_LOST (by decide) (enterHoldover f s)
  have hregion : (raise EV.TREF_LOST (enterHoldover f s)).region 6 = s.region 6 := by
    unfold Chip.region
    rw [hann.store]
    rfl
  rw [loseTref_eq, markResults_mems (by rwa [hregion]), hann.mems]
  rfl

/-- Of the other blocks a loss touches what announcements and the marking of results touch. -/
theorem loseTref_direct_ne (f : Nat) (s : Chip) {a : Nat} (hs : shipAddr a = false) (h : a < 0x1000 ∨ 0x2000 ≤ a) :
    (loseTref f s).regs.direct.get a = s.regs.direct.get a := by
  have hpage : pages [1] a = false := by
    unfold pages
    rw [hs, Bool.false_or]
    simp only [List.contains_cons, List.contains_nil, Bool.or_false, beq_eq_false_iff_ne]
    omega
  rw [loseTref_direct f s hs]
  exact (holdoverRegs_keeps f s).direct a hpage

/-! ### The registers and the spans after a loss -/

theorem holdoverRegs_lossIdx (f : Nat) (s : Chip) : (holdoverRegs f s).fld F.TIM_LOSS_IDX_INDEX = frameIdx f := by
  unfold holdoverRegs
  simp (disch := decide) only [Chip.fld_bump_apart, Chip.fld_setFld_apart, Chip.fld_setFld_same]
  exact Nat.mod_eq_of_lt (frameIdx_lt f)

theorem holdoverRegs_lossSec (f : Nat) (s : Chip) : (holdoverRegs f s).fld F.TIM_LOSS_SEC_SEC = frameSec f % 2 ^ 32 := by
  unfold holdoverRegs
  simp (disch := decide) only [Chip.fld_bump_apart, Chip.fld_setFld_same]
  exact Nat.mod_mod _ _

theorem holdoverRegs_holdFrames (f : Nat) (s : Chip) : (holdoverRegs f s).fld F.TIM_HOLD_FRAMES_FRAMES = 0 := by
  unfold holdoverRegs
  simp (disch := decide) only [Chip.fld_bump_apart, Chip.fld_setFld_apart, Chip.fld_setFld_same]
  rfl

theorem holdoverRegs_lossCount (f : Nat) (s : Chip) :
    (holdoverRegs f s).fld F.TIM_TREF_LOSS_COUNT = satTo F.TIM_TREF_LOSS_COUNT.w (s.fld F.TIM_TREF_LOSS_COUNT + 1) := by
  unfold holdoverRegs Chip.setFlag
  simp (disch := decide) only [Chip.fld_bump_same, Chip.fld_setFld_apart]

theorem holdoverRegs_flags (f : Nat) (s : Chip) :
    (holdoverRegs f s).flag F.TIM_STAT_TREF_PRESENT = false ∧ (holdoverRegs f s).flag F.TIM_STAT_TPLL_LOCK = false ∧
      (holdoverRegs f s).flag F.TIM_STAT_HOLDOVER = true := by
  unfold holdoverRegs
  simp (disch := decide) only [flag_bump_apart, flag_setFld_apart, flag_setFlag_apart, flag_setFlag_same, and_self]

theorem holdoverClk_tuncs_of_closed {f : Nat} {s : Chip} (h : s.tuncOpen = false) :
    (holdoverClk f s).tuncs = (f, none) :: s.clk.tuncs.take 3 := by
  unfold holdoverClk
  rw [h]
  rfl

theorem holdoverClk_tuncs_of_open {f : Nat} {s : Chip} (h : s.tuncOpen = true) : (holdoverClk f s).tuncs = s.clk.tuncs := by
  unfold holdoverClk
  rw [h]
  rfl

/-- A loss that no other precedes makes the data of its frame and of every later one uncertain. -/
theorem loseTref_tunc_of_closed {f g : Nat} {s : Chip} (h : s.tuncOpen = false) (hg : f ≤ g) : (loseTref f s).tunc g = true := by
  have hspan : inSpan g (f, none) = true := by
    rw [inSpan_open]
    exact decide_eq_true hg
  unfold Chip.tunc
  rw [loseTref_clk]
  change (holdoverClk f s).tuncs.any (inSpan g) = true
  rw [holdoverClk_tuncs_of_closed h, List.any_cons, hspan, Bool.true_or]

/-- The first loss makes exactly those data uncertain. -/
theorem loseTref_tunc_of_first (f g : Nat) {s : Chip} (h : s.clk.tuncs = []) : (loseTref f s).tunc g = decide (f ≤ g) := by
  have hclosed : s.tuncOpen = false := by
    unfold Chip.tuncOpen
    rw [h]
  unfold Chip.tunc
  rw [loseTref_clk]
  change (holdoverClk f s).tuncs.any (inSpan g) = _
  rw [holdoverClk_tuncs_of_closed hclosed, h, List.any_cons, inSpan_open]
  exact Bool.or_false _

/-- What a loss of the reference in frame `f` makes of a chip `c` (R36, R38, R40). -/
structure LostFrom (c : Chip) (f : Nat) (u : Chip) : Prop where
  present : u.flag F.TIM_STAT_TREF_PRESENT = false
  lock : u.flag F.TIM_STAT_TPLL_LOCK = false
  holdover : u.flag F.TIM_STAT_HOLDOVER = true
  lossIdx : u.fld F.TIM_LOSS_IDX_INDEX = frameIdx f
  lossSec : u.fld F.TIM_LOSS_SEC_SEC = frameSec f % 2 ^ 32
  holdFrames : u.fld F.TIM_HOLD_FRAMES_FRAMES = 0
  lossCount : u.fld F.TIM_TREF_LOSS_COUNT = satTo F.TIM_TREF_LOSS_COUNT.w (c.fld F.TIM_TREF_LOSS_COUNT + 1)
  seen : u.eventSeen EV.TREF_LOST = true
  tunc : c.tuncOpen = false → ∀ g, f ≤ g → u.tunc g = true
  tuncFirst : c.clk.tuncs = [] → ∀ g, u.tunc g = decide (f ≤ g)
  tuncGoesOn : c.tuncOpen = true → u.clk.tuncs = c.clk.tuncs
  clk : u.clk = { c.clk with presentFrames := 0, tuncs := u.clk.tuncs }
  net : u.net = c.net
  active : u.regs.active = c.regs.active
  shadow : u.regs.shadow = c.regs.shadow
  direct : ∀ a, shipAddr a = false → (a < 0x1000 ∨ 0x2000 ≤ a) → u.regs.direct.get a = c.regs.direct.get a
  mems : (∀ o ∈ (c.region 6).objs, o.tag ≠ f) → u.mems = c.mems

theorem loseTref_lost (f : Nat) (s : Chip) : LostFrom s f (loseTref f s) where
  present := (loseTref_flag f s _ rfl).trans (holdoverRegs_flags f s).1
  lock := (loseTref_flag f s _ rfl).trans (holdoverRegs_flags f s).2.1
  holdover := (loseTref_flag f s _ rfl).trans (holdoverRegs_flags f s).2.2
  lossIdx := (loseTref_fld f s _ rfl).trans (holdoverRegs_lossIdx f s)
  lossSec := (loseTref_fld f s _ rfl).trans (holdoverRegs_lossSec f s)
  holdFrames := (loseTref_fld f s _ rfl).trans (holdoverRegs_holdFrames f s)
  lossCount := (loseTref_fld f s _ rfl).trans (holdoverRegs_lossCount f s)
  seen := loseTref_seen f s
  tunc h _ hg := loseTref_tunc_of_closed h hg
  tuncFirst h g := loseTref_tunc_of_first f g h
  tuncGoesOn h := (congrArg Clk.tuncs (loseTref_clk f s)).trans (holdoverClk_tuncs_of_open h)
  clk := by
    rw [loseTref_clk]
    rfl
  net := loseTref_net f s
  active := loseTref_active f s
  shadow := loseTref_shadow f s
  direct _ hs h := loseTref_direct_ne f s hs h
  mems := loseTref_mems f s

/-- An announcement before a loss changes nothing of what the loss does. -/
theorem LostFrom.of_announces {c c' u : Chip} {f : Nat} (ha : Announces c c') (h : LostFrom c' f u) : LostFrom c f u := by
  have hopen : c'.tuncOpen = c.tuncOpen := by
    unfold Chip.tuncOpen
    rw [ha.clk]
  have hregion : c'.region 6 = c.region 6 := by
    unfold Chip.region
    rw [ha.store]
  exact { h with
    lossCount := by rw [h.lossCount, ha.fld _ rfl]
    tunc := by rw [← hopen]; exact h.tunc
    tuncFirst := by rw [← ha.clk]; exact h.tuncFirst
    tuncGoesOn := by rw [← hopen, ← ha.clk]; exact h.tuncGoesOn
    clk := by rw [← ha.clk]; exact h.clk
    net := h.net.trans ha.net
    active := h.active.trans ha.active
    shadow := h.shadow.trans ha.shadow
    direct := fun a hs hr => (h.direct a hs hr).trans (ha.direct a (announceAddr_of_shipAddr hs))
    mems := by rw [← hregion, ← ha.mems]; exact h.mems }

/-! ### The rows of a loss -/

theorem trefLost_of_present {s : Chip} (ago : Nat) (hup : s.timeUp = true) (hp : s.flag F.TIM_STAT_TREF_PRESENT = true) :
    trefLost ago s = loseTref (s.frameAgo ago) s := by
  unfold trefLost
  rw [hup, hp]
  rfl

theorem trefLost_of_absent {s : Chip} (ago : Nat) (h : s.timeUp = false ∨ s.flag F.TIM_STAT_TREF_PRESENT = false) :
    trefLost ago s = s := by
  unfold trefLost
  rcases h with h | h <;> simp [h]

theorem tpllUnlock_of_locked {s : Chip} (hup : s.timeUp = true) (hl : s.flag F.TIM_STAT_TPLL_LOCK = true) :
    tpllUnlock s = loseTref s.frameNow (raise EV.TPLL_UNLOCK s) := by
  unfold tpllUnlock
  rw [hup, hl]
  rfl

theorem tpllUnlock_of_unlocked {s : Chip} (h : s.timeUp = false ∨ s.flag F.TIM_STAT_TPLL_LOCK = false) : tpllUnlock s = s := by
  unfold tpllUnlock
  rcases h with h | h <;> simp [h]

/-- The instant some CCLK ago lies in the frame in progress or in the one before it. -/
theorem frameAgo_of_counting {s : Chip} (ago : Nat) (h : s.clk.counting = true) :
    s.frameAgo ago = if ago ≤ s.clk.cclk then s.clk.frame else s.clk.lastFrame := by
  unfold Chip.frameAgo
  rw [h]
  rfl

theorem exec_trefLost (ago : Fin 40) (s : State) : exec (.trefLost ago) s = .next { s with chip := trefLost ago s.chip } := rfl

theorem exec_tpllUnlock (s : State) : exec .tpllUnlock s = .next { s with chip := tpllUnlock s.chip } := rfl

/-- A loss, as the obligation lists its effects. -/
theorem LostFrom.effects {c u : Chip} {f : Nat} (h : LostFrom c f u) :
    u.flag F.TIM_STAT_TREF_PRESENT = false ∧
      u.flag F.TIM_STAT_TPLL_LOCK = false ∧ u.flag F.TIM_STAT_HOLDOVER = true ∧ u.fld F.TIM_LOSS_IDX_INDEX = frameIdx f ∧
      u.fld F.TIM_LOSS_SEC_SEC = frameSec f % 2 ^ 32 ∧ u.fld F.TIM_HOLD_FRAMES_FRAMES = 0 ∧
      u.fld F.TIM_TREF_LOSS_COUNT = satTo F.TIM_TREF_LOSS_COUNT.w (c.fld F.TIM_TREF_LOSS_COUNT + 1) ∧
      u.eventSeen EV.TREF_LOST = true ∧ (c.tuncOpen = false → ∀ g, f ≤ g → u.tunc g = true) ∧
      (c.clk.tuncs = [] → ∀ g, u.tunc g = decide (f ≤ g)) ∧ (c.tuncOpen = true → u.clk.tuncs = c.clk.tuncs) ∧
      u.clk = { c.clk with presentFrames := 0, tuncs := u.clk.tuncs } ∧
      u.net = c.net ∧ u.regs.active = c.regs.active ∧ u.regs.shadow = c.regs.shadow ∧
      (∀ a, shipAddr a = false → (a < 0x1000 ∨ 0x2000 ≤ a) → u.regs.direct.get a = c.regs.direct.get a) ∧
      ((∀ o ∈ (c.region 6).objs, o.tag ≠ f) → u.mems = c.mems) :=
  ⟨h.present, h.lock, h.holdover, h.lossIdx, h.lossSec, h.holdFrames, h.lossCount, h.seen, h.tunc, h.tuncFirst, h.tuncGoesOn, h.clk,
    h.net, h.active, h.shadow, h.direct, h.mems⟩

/-- Settles O29: both rows lead to one procedure of loss, whose announcements and marks leave the TIM registers alone. -/
theorem lossOfReferenceStartsHoldover : Obligations.LossOfReferenceStartsHoldover := by
  unfold Obligations.LossOfReferenceStartsHoldover
  intro s
  refine ⟨fun ago hup hp => ?_, fun ago hc => ?_, fun hup hl => ?_, fun ago h => ?_, fun h => ?_⟩
  · refine ⟨_, exec_trefLost ago s, ?_⟩
    rw [trefLost_of_present _ hup hp]
    exact (loseTref_lost _ s.chip).effects
  · rw [frameAgo_of_counting ago hc]
    exact ⟨fun h => if_pos h, fun h => if_neg (Nat.not_le.mpr h)⟩
  · refine ⟨_, exec_tpllUnlock s, ?_⟩
    rw [tpllUnlock_of_locked hup hl]
    exact ⟨((loseTref_lost _ _).of_announces (raise_announces EV.TPLL_UNLOCK (by decide) s.chip)).effects,
      loseTref_keeps_seen _ _ (by decide) (raise_seen EV.TPLL_UNLOCK (by decide) s.chip)⟩
  · rw [exec_trefLost, trefLost_of_absent _ h]
  · rw [exec_tpllUnlock, tpllUnlock_of_unlocked h]

end Sys2Proof.Machine
end

section
/-! PROOFS. The return of the time reference (R39, R40, R417). -/

namespace Sys2Proof.Machine

/-! ### The rows -/

theorem exec_trefPresent (s : State) : exec .trefPresent s = .next { s with chip := trefPresent s.chip } := rfl

theorem exec_trefRestored (s : State) : exec .trefRestored s = .next { s with chip := trefRestored s.chip } := rfl

theorem exec_tpllLock (us : Nat) (s : State) : exec (.tpllLock us) s = .next { s with chip := tpllLock us s.chip } := rfl

theorem trefPresent_of_absent {s : Chip} (hp : s.rst.porst = false) (hs : s.rst.supply = false)
    (h : s.flag F.TIM_STAT_TREF_PRESENT = false) :
    trefPresent s = ({ s with clk := { s.clk with presentFrames := s.presentNow } }).setFlag F.TIM_STAT_TREF_PRESENT true := by
  unfold trefPresent
  rw [hp, hs, h]
  rfl

/-- The chip as a restoration leaves it, before it is announced (R39). -/
def endHoldover (s : Chip) : Chip :=
  { (s.setFlag F.TIM_STAT_TPLL_LOCK true).setFlag F.TIM_STAT_HOLDOVER false with
    clk := { s.clk with tuncs := s.clk.endTunc s.clk.frame } }

theorem trefRestored_of_stable {s : Chip} (hup : s.timeUp = true) (hl : s.clk.everLock = true)
    (hp : s.flag F.TIM_STAT_TREF_PRESENT = true) (hh : s.flag F.TIM_STAT_HOLDOVER = true)
    (hn : max 64 (s.fld F.TIM_RELOCK_FRAMES) + 64 < s.clk.presentFrames) :
    trefRestored s = raise EV.TREF_RESTORED (endHoldover s) := by
  unfold trefRestored
  rw [hup, hl, hp, hh, decide_eq_true hn]
  rfl

theorem trefRestored_of_early {s : Chip} (hn : s.clk.presentFrames ≤ max 64 (s.fld F.TIM_RELOCK_FRAMES) + 64) :
    trefRestored s = s := by
  unfold trefRestored
  rw [decide_eq_false (Nat.not_lt.mpr hn), Bool.and_false]
  rfl

/-! ### The uncertain spans -/

theorem inSpan_closed (f l g : Nat) : inSpan g (f, some l) = (decide (f ≤ g) && decide (g ≤ l)) := rfl

/-- While a loss is not restored its span is the newest one. -/
theorem Chip.tuncs_of_open {s : Chip} (h : s.tuncOpen = true) : ∃ f rest, s.clk.tuncs = (f, none) :: rest := by
  unfold Chip.tuncOpen at h
  match hl : s.clk.tuncs with
  | [] => rw [hl] at h; exact absurd h Bool.false_ne_true
  | (f, none) :: rest => exact ⟨f, rest, rfl⟩
  | (f, some l) :: rest => rw [hl] at h; exact absurd h Bool.false_ne_true

theorem Clk.endTunc_of_open {c : Clk} {f : Nat} {rest : List (Nat × Option Nat)} (h : c.tuncs = (f, none) :: rest) (l : Nat) :
    c.endTunc l = (f, some l) :: rest := by
  unfold Clk.endTunc
  rw [h]

/-- Up to its last frame a span that ends covers what it covered open. -/
theorem Clk.endTunc_any_le (c : Clk) {l g : Nat} (h : g ≤ l) : (c.endTunc l).any (inSpan g) = c.tuncs.any (inSpan g) := by
  unfold Clk.endTunc
  split
  · next f rest he =>
    rw [he, List.any_cons, List.any_cons, inSpan_closed, inSpan_open, decide_eq_true h, Bool.and_true]
  · rfl

/-- Spans that ended before a frame do not cover it. -/
theorem any_inSpan_of_ended {l g : Nat} (h : l < g) {xs : List (Nat × Option Nat)} (hend : ∀ x ∈ xs, ∀ e, x.2 = some e → e ≤ l)
    (hclosed : ∀ x ∈ xs, x.2 ≠ none) : xs.any (inSpan g) = false := by
  rw [List.any_eq_false]
  rintro ⟨f, e⟩ hx
  cases e with
  | none => exact absurd rfl (hclosed (f, none) hx)
  | some e =>
    have he : e ≤ l := hend (f, some e) hx e rfl
    rw [inSpan_closed, decide_eq_false (show ¬ g ≤ e by omega), Bool.and_false]
    exact Bool.false_ne_true

theorem endHoldover_tunc_le {s : Chip} {g : Nat} (h : g ≤ s.clk.frame) : (endHoldover s).tunc g = s.tunc g :=
  s.clk.endTunc_any_le h

theorem endHoldover_tunc_gt {s : Chip} {g : Nat} (h : s.clk.frame < g)
    (hend : ∀ x ∈ s.clk.tuncs.drop 1, ∀ e, x.2 = some e → e ≤ s.clk.frame) (hclosed : ∀ x ∈ s.clk.tuncs.drop 1, x.2 ≠ none)
    (hopen : s.tuncOpen = true) : (endHoldover s).tunc g = false := by
  obtain ⟨f, rest, he⟩ := s.tuncs_of_open hopen
  rw [he] at hend hclosed
  change (s.clk.endTunc s.clk.frame).any (inSpan g) = false
  rw [Clk.endTunc_of_open he, List.any_cons, inSpan_closed, decide_eq_false (show ¬ g ≤ s.clk.frame by omega), Bool.and_false,
    Bool.false_or]
  exact any_inSpan_of_ended h hend hclosed

theorem endHoldover_flags (s : Chip) :
    (endHoldover s).flag F.TIM_STAT_TPLL_LOCK = true ∧ (endHoldover s).flag F.TIM_STAT_HOLDOVER = false := by
  change ((s.setFlag F.TIM_STAT_TPLL_LOCK true).setFlag F.TIM_STAT_HOLDOVER false).flag F.TIM_STAT_TPLL_LOCK = true ∧
    ((s.setFlag F.TIM_STAT_TPLL_LOCK true).setFlag F.TIM_STAT_HOLDOVER false).flag F.TIM_STAT_HOLDOVER = false
  simp (disch := decide) only [flag_setFlag_apart, flag_setFlag_same, and_self]

/-! ### Readiness -/

theorem Keeps.mono {l m : List Nat} {s t : Chip} (h : Keeps l s t) (hl : ∀ a, pages m a = false → pages l a = false) : Keeps m s t :=
  { h with direct := fun a ha => h.direct a (hl a ha) }

theorem pages_mono {l m : List Nat} (h : ∀ p ∈ l, p ∈ m) (a : Nat) (ha : pages m a = false) : pages l a = false := by
  obtain ⟨hship, hpage⟩ := pages_false ha
  unfold pages
  rw [hship, Bool.false_or, ← Bool.not_eq_true, List.contains_iff_mem]
  exact fun hmem => hpage (h _ hmem)

/-- The conditions of readiness are met (R417). -/
def Chip.readies (s : Chip) : Bool := s.up && !s.rst.ready && s.rst.calDone && s.rst.memDone && s.clk.everLock

/-- The resets and the scrubber as readiness sets them. -/
def setReady (s : Chip) : Chip := { s with rst := { s.rst with ready := true, therm := true }, scrub := { s.scrub with running := true } }

/-- A port whose lane PLL has locked starts to train. -/
def startPort (p : Port) (s : Chip) : Chip := if s.flag (F.LN_STAT_PLL_LOCK p.ix) then startTraining p s else s

theorem not_readies (s : Chip) :
    (!s.up || s.rst.ready || !s.rst.calDone || !s.rst.memDone || !s.clk.everLock) = !s.readies := by
  unfold Chip.readies
  simp only [Bool.not_and, Bool.not_not]

theorem becomeReady_of_not {us : Nat} {s : Chip} (h : s.readies = false) : becomeReady us s = s := by
  unfold becomeReady
  rw [not_readies, h]
  rfl

theorem becomeReady_of_readies {us : Nat} {s : Chip} (h : s.readies = true) :
    becomeReady us s = forAll [Port.east, Port.west] startPort
      (raise EV.SYS_READY (((setReady s).setFlag F.GLB_RST_STAT_READY true).setFld F.GLB_INIT_US_US (satTo 16 us))) := by
  unfold becomeReady
  rw [not_readies, h]
  rfl

theorem startPort_keeps (p : Port) (s : Chip) : Keeps [0, 4, 5] s (startPort p s) := by
  unfold startPort
  split
  · exact (startTraining_keeps p s).mono (pages_mono (by cases p <;> decide))
  · exact Keeps.refl _ s

/-- Readiness sets registers of the GLB block and of the ports. -/
theorem becomeReady_keeps {us : Nat} {s : Chip} (h : s.readies = true) : Keeps [0, 4, 5] (setReady s) (becomeReady us s) := by
  rw [becomeReady_of_readies h]
  have hset : Keeps [0, 4, 5] (setReady s) (((setReady s).setFlag F.GLB_RST_STAT_READY true).setFld F.GLB_INIT_US_US (satTo 16 us)) :=
    (Keeps.setFld _ _ _ _ rfl rfl).trans (Keeps.setFld _ _ _ _ rfl rfl)
  exact (hset.trans (raise_keeps _ EV.SYS_READY (by decide) _)).trans (Keeps.forAll _ _ _ (fun p _ t => startPort_keeps p t) _)

theorem becomeReady_clk (us : Nat) (s : Chip) : (becomeReady us s).clk = s.clk := by
  cases h : s.readies with
  | false => rw [becomeReady_of_not h]
  | true => exact (becomeReady_keeps h).clk

theorem becomeReady_ready (us : Nat) (s : Chip) : (becomeReady us s).rst.ready = (s.rst.ready || s.readies) := by
  cases h : s.readies with
  | false => rw [becomeReady_of_not h, Bool.or_false]
  | true => rw [(becomeReady_keeps h).rst, Bool.or_true]; rfl

theorem becomeReady_flag (us : Nat) (s : Chip) (f : Fld) (hf : pages [0, 4, 5] f.addr = false) : (becomeReady us s).flag f = s.flag f := by
  cases h : s.readies with
  | false => rw [becomeReady_of_not h]
  | true => exact (becomeReady_keeps h).flag f hf

theorem becomeReady_keeps_seen (us : Nat) (s : Chip) {e : Nat} (he : e < 384) (h : s.eventSeen e = true) :
    (becomeReady us s).eventSeen e = true := by
  cases hr : s.readies with
  | false => rwa [becomeReady_of_not hr]
  | true => exact (becomeReady_keeps hr).events e he h

/-! ### The first lock -/

/-- The chip as its first lock leaves it (R40). -/
def firstLock (s : Chip) : Chip :=
  { (s.setFlag F.TIM_STAT_TPLL_LOCK true).setFlag F.TIM_STAT_TREF_PRESENT true with
    clk := { s.clk with everLock := true, tuncs := s.clk.endTunc s.frameNow } }

/-- The first lock ends a holdover that a loss before it began (R39). -/
def relock (s : Chip) : Chip :=
  if s.flag F.TIM_STAT_HOLDOVER then raise EV.TREF_RESTORED ((firstLock s).setFlag F.TIM_STAT_HOLDOVER false) else firstLock s

theorem tpllLock_of_first {s : Chip} (us : Nat) (hp : s.rst.porst = false) (hs : s.rst.supply = false) (hl : s.clk.everLock = false) :
    tpllLock us s = becomeReady us (relock s) := by
  unfold tpllLock
  rw [hp, hs, hl]
  rfl

theorem firstLock_flags (s : Chip) :
    (firstLock s).flag F.TIM_STAT_TPLL_LOCK = true ∧ (firstLock s).flag F.TIM_STAT_TREF_PRESENT = true ∧
      (firstLock s).flag F.TIM_STAT_HOLDOVER = s.flag F.TIM_STAT_HOLDOVER := by
  let t := (s.setFlag F.TIM_STAT_TPLL_LOCK true).setFlag F.TIM_STAT_TREF_PRESENT true
  change t.flag F.TIM_STAT_TPLL_LOCK = true ∧ t.flag F.TIM_STAT_TREF_PRESENT = true ∧
    t.flag F.TIM_STAT_HOLDOVER = s.flag F.TIM_STAT_HOLDOVER
  simp (disch := decide) only [t, flag_setFlag_apart, flag_setFlag_same, and_self]

/-- The flags after the first lock, whether or not it ends a holdover. -/
theorem relock_flags (s : Chip) :
    (relock s).flag F.TIM_STAT_TPLL_LOCK = true ∧ (relock s).flag F.TIM_STAT_TREF_PRESENT = true ∧
      (relock s).flag F.TIM_STAT_HOLDOVER = false := by
  obtain ⟨hlock, hpresent, hhold⟩ := firstLock_flags s
  unfold relock
  cases h : s.flag F.TIM_STAT_HOLDOVER with
  | false => exact ⟨hlock, hpresent, hhold.trans h⟩
  | true =>
    have hann := raise_announces EV.TREF_RESTORED (by decide) ((firstLock s).setFlag F.TIM_STAT_HOLDOVER false)
    rw [if_pos rfl, hann.flag _ rfl, hann.flag _ rfl, hann.flag _ rfl, flag_setFlag_apart _ _ _ _ (by decide) (by decide),
      flag_setFlag_apart _ _ _ _ (by decide) (by decide), flag_setFlag_same _ _ _ (by decide) rfl]
    exact ⟨hlock, hpresent, rfl⟩

theorem relock_clk (s : Chip) : (relock s).clk = { s.clk with everLock := true, tuncs := s.clk.endTunc s.frameNow } := by
  unfold relock
  split
  · exact (raise_announces EV.TREF_RESTORED (by decide) _).clk
  · rfl

theorem relock_rst (s : Chip) : (relock s).rst = s.rst := by
  unfold relock
  split
  · exact (raise_announces EV.TREF_RESTORED (by decide) _).rst
  · rfl

theorem relock_seen {s : Chip} (h : s.flag F.TIM_STAT_HOLDOVER = true) : (relock s).eventSeen EV.TREF_RESTORED = true := by
  unfold relock
  rw [if_pos h]
  exact raise_seen EV.TREF_RESTORED (by decide) _

theorem relock_readies (s : Chip) : (relock s).readies = (s.up && !s.rst.ready && s.rst.calDone && s.rst.memDone) := by
  unfold Chip.readies Chip.up
  rw [relock_rst, relock_clk]
  exact Bool.and_true _

/-- The first lock makes a device ready whose other conditions are met. -/
theorem becomeReady_relock_ready (us : Nat) (s : Chip) :
    (becomeReady us (relock s)).rst.ready = true ↔
      s.rst.ready = true ∨ (s.up = true ∧ s.rst.calDone = true ∧ s.rst.memDone = true) := by
  rw [becomeReady_ready, relock_readies, relock_rst]
  cases s.rst.ready <;> simp [and_assoc]

/-- Settles O30: TREF_PRESENT and TREF_RESTORED set TIM flags alone; the first lock does so before readiness, which leaves them. -/
theorem returnOfReferenceEndsHoldover : Obligations.ReturnOfReferenceEndsHoldover := by
  unfold Obligations.ReturnOfReferenceEndsHoldover
  intro s
  refine ⟨fun hp hs h => ?_, fun hup hl hp hh hn => ?_, fun _ _ hn => ?_, fun us hp hs hl => ?_⟩
  · refine ⟨_, exec_trefPresent s, ?_⟩
    rw [trefPresent_of_absent hp hs h]
    exact ⟨flag_setFlag_same _ _ _ (by decide) rfl, rfl, fun a ha => Chip.setFld_direct_ne _ _ _ _ ha.symm⟩
  · refine ⟨_, exec_trefRestored s, ?_⟩
    rw [trefRestored_of_stable hup hl hp hh hn]
    have hann := raise_announces EV.TREF_RESTORED (by decide) (endHoldover s.chip)
    obtain ⟨hlock, hhold⟩ := endHoldover_flags s.chip
    have htunc : ∀ g, (raise EV.TREF_RESTORED (endHoldover s.chip)).tunc g = (endHoldover s.chip).tunc g := fun g => by
      unfold Chip.tunc
      rw [hann.clk]
    refine ⟨(hann.flag _ rfl).trans hlock, (hann.flag _ rfl).trans hhold, raise_seen _ (by decide) _, ?_, fun g hg => ?_,
      fun hend hclosed hopen g hg => ?_⟩
    · rw [hann.clk]
      rfl
    · rw [htunc, endHoldover_tunc_le hg]
    · rw [htunc, endHoldover_tunc_gt hg hend hclosed hopen]
  · rw [exec_trefRestored, trefRestored_of_early hn]
  · refine ⟨_, exec_tpllLock us s, ?_⟩
    rw [tpllLock_of_first us hp hs hl]
    obtain ⟨hlock, hpresent, hhold⟩ := relock_flags s.chip
    refine ⟨?_, (becomeReady_flag us _ _ rfl).trans hlock, (becomeReady_flag us _ _ rfl).trans hpresent,
      (becomeReady_flag us _ _ rfl).trans hhold, fun h => becomeReady_keeps_seen us _ (by decide) (relock_seen h),
      becomeReady_relock_ready us s.chip⟩
    rw [becomeReady_clk, relock_clk]

end Sys2Proof.Machine
end

section
/-! PROOFS. The reorder buffers and the acquisition store (R19, R78, R80, R82, R93, R95). -/

namespace Sys2Proof.Machine

/-! ### The order of keys (R78) -/

theorem keyLt_trans {a b c : Nat × Nat × Nat × Nat} (hab : keyLt a b = true) (hbc : keyLt b c = true) : keyLt a c = true := by
  unfold keyLt at *
  simp only [Bool.or_eq_true, Bool.and_eq_true, decide_eq_true_eq, beq_iff_eq] at *
  omega

theorem insertHit_perm (b : Buffered) (q : List Buffered) : (insertHit b q).Perm (b :: q) := by
  induction q with
  | nil => exact List.Perm.refl _
  | cons c cs ih =>
    unfold insertHit
    split
    · exact List.Perm.refl _
    · exact (ih.cons c).trans (List.Perm.swap b c cs)

/-- Insertion keeps a buffer in ascending key order. -/
theorem insertHit_pairwise (b : Buffered) (q : List Buffered) (h : q.Pairwise fun x y => keyLt y.key x.key = false) :
    (insertHit b q).Pairwise fun x y => keyLt y.key x.key = false := by
  induction q with
  | nil => exact List.pairwise_singleton _ b
  | cons c cs ih =>
    obtain ⟨hc, hcs⟩ := List.pairwise_cons.mp h
    unfold insertHit
    split
    · next hbc =>
      refine List.pairwise_cons.mpr ⟨fun y hy => ?_, h⟩
      have hyc : keyLt y.key c.key = false ∨ y = c := (List.mem_cons.mp hy).elim Or.inr fun hm => Or.inl (hc y hm)
      rw [← Bool.not_eq_true]
      intro hyb
      have hlt : keyLt y.key c.key = true := keyLt_trans hyb hbc
      rcases hyc with hyc | rfl
      · exact Bool.false_ne_true (hyc.symm.trans hlt)
      · exact absurd (keyLt_trans hyb hbc) (by simp [keyLt])
    · next hbc =>
      refine List.pairwise_cons.mpr ⟨fun y hy => ?_, ih hcs⟩
      rcases List.mem_cons.mp ((insertHit_perm b cs).mem_iff.mp hy) with rfl | hm
      · exact Bool.eq_false_iff.mpr hbc
      · exact hc y hm

/-! ### The arbiter (R95) -/

theorem serve_length (n : Nat) (q : List Nat) : (serve n q).length = q.length := by
  induction q generalizing n with
  | nil => rfl
  | cons b bs ih => exact congrArg Nat.succ (ih (n - b))

/-- The arbiter serves each class after those above it. -/
theorem serve_take_sum (n j : Nat) (q : List Nat) : ((serve n q).take j).sum = (q.take j).sum - n := by
  induction q generalizing n j with
  | nil => simp [serve]
  | cons b bs ih =>
    cases j with
    | zero => simp
    | succ j =>
      simp only [serve, List.take_succ_cons, List.sum_cons, ih]
      omega

theorem exec_storeBandwidthGrant {s : State} (h : s.chip.up = true) :
    exec .storeBandwidthGrant s = .next { s with chip := grantStore s.chip } := by
  change execStoreBandwidthGrant s = _
  unfold execStoreBandwidthGrant
  rw [if_pos h]

/-! ### Freed space (R93) -/

theorem exec_queueSpaceFreed (n : Fin 10) (s : State) : exec (.queueSpaceFreed n) s = .next { s with chip := freeDone n s.chip } := rfl

theorem isHistory_iff (n : Nat) : isHistory n = true ↔ 1 ≤ n ∧ n ≤ 6 := by
  unfold isHistory
  simp

/-- The objects of a region that QUEUE_SPACE_FREED keeps. -/
def keptObjs (n : Nat) (s : Chip) : List Obj :=
  (s.region n).objs.filter fun o => !o.readers.isEmpty && (n != 9 || s.egressInUse o.id)

theorem freeDone_of_queue {n : Nat} (s : Chip) (h : isHistory n = false) :
    freeDone n s = s.setRegion n { s.region n with objs := keptObjs n s } := by
  unfold freeDone
  rw [h]
  rfl

theorem freeDone_of_history {n : Nat} (s : Chip) (h : isHistory n = true) : freeDone n s = s := by
  unfold freeDone
  rw [h]
  rfl

theorem Chip.region_setRegion_same {s : Chip} {n : Nat} (r : Region) (h : n < s.store.regions.length) :
    (s.setRegion n r).region n = r := by
  unfold Chip.region Chip.setRegion nth
  rw [List.getD_eq_getElem?_getD, List.getElem?_set_self h]
  rfl

/-! ### Hedges -/

theorem Chip.hedge_setHedge_same (s : Chip) (h : Nat) (x : Hedge) : (setHedge h x s).hedge h = x := Table.get_set_same _ _ _ _

theorem Chip.hedge_setHedge_ne (s : Chip) {h g : Nat} (x : Hedge) (hg : g ≠ h) : (setHedge h x s).hedge g = s.hedge g :=
  Table.get_set_ne _ _ _ hg.symm

/-- `u` has the hedges, the clock and the active bank of `t`. -/
structure SameHedges (t u : Chip) : Prop where
  hedge : ∀ g, u.hedge g = t.hedge g
  clk : u.clk = t.clk
  active : u.regs.active = t.regs.active

theorem SameHedges.refl (t : Chip) : SameHedges t t := ⟨fun _ => rfl, rfl, rfl⟩

theorem SameHedges.trans {t u v : Chip} (h1 : SameHedges t u) (h2 : SameHedges u v) : SameHedges t v :=
  ⟨fun g => (h2.hedge g).trans (h1.hedge g), h2.clk.trans h1.clk, h2.active.trans h1.active⟩

theorem bump_sameHedges (f : Fld) (t : Chip) : SameHedges t (t.bump f) := ⟨fun _ => rfl, rfl, rfl⟩

/-- A hedge that is set twice is set to the second value. -/
theorem setHedge_sameHedges (h : Nat) (x y : Hedge) (t : Chip) : SameHedges (setHedge h y t) (setHedge h y (setHedge h x t)) := by
  refine ⟨fun g => ?_, rfl, rfl⟩
  by_cases hg : g = h
  · rw [hg, Chip.hedge_setHedge_same, Chip.hedge_setHedge_same]
  · rw [Chip.hedge_setHedge_ne _ _ hg, Chip.hedge_setHedge_ne _ _ hg, Chip.hedge_setHedge_ne _ _ hg]

/-- `u` has the hedges of `t`, and a counter stands. -/
structure Past (f : Fld) (t u : Chip) : Prop extends SameHedges t u where
  fld : u.fld f = t.fld f

theorem Past.refl (f : Fld) (t : Chip) : Past f t t := ⟨SameHedges.refl t, rfl⟩

theorem Past.trans {f : Fld} {t u v : Chip} (h1 : Past f t u) (h2 : Past f u v) : Past f t v :=
  ⟨h1.toSameHedges.trans h2.toSameHedges, h2.fld.trans h1.fld⟩

theorem Feeds.past {t u : Chip} (h : Feeds t u) {f : Fld} (ha : announceAddr f.addr = false)
    (hg : f.addr < 0x38000 ∨ 0x39000 ≤ f.addr) : Past f t u :=
  ⟨⟨fun g => congrArg (Table.get _ · g) h.hedges, h.clk, h.active⟩, h.fld f ha hg⟩

theorem Announces.past {t u : Chip} (h : Announces t u) {f : Fld} (ha : announceAddr f.addr = false) : Past f t u :=
  ⟨⟨fun g => congrArg (Table.get _ · g) h.hedges, h.clk, h.active⟩, h.fld f ha⟩

theorem raise_past {e : Nat} (he : e < 384) {f : Fld} (ha : announceAddr f.addr = false) (t : Chip) : Past f t (raise e t) :=
  (raise_announces e he t).past ha

theorem bump_past {f g : Fld} (h : f.apart g) (hg : 1 ≤ g.w) (t : Chip) : Past g t (t.bump f) :=
  ⟨bump_sameHedges f t, Chip.fld_bump_apart t f g h hg⟩

/-- The last key of hedge h becomes `last`, and the words of a slot leave its buffer. -/
def leaveSlot (h slot : Nat) (last : Option (Nat × Nat × Nat × Nat)) (c : Chip) : Chip :=
  setHedge h { c.hedge h with buf := (c.hedge h).buf.filter fun x => x.slot != slot, last := last } c

/-- A hit has left the buffer of hedge `h`, and no other hedge changed. -/
structure GoneFrom (h slot : Nat) (c u : Chip) : Prop where
  buf : (u.hedge h).buf = (c.hedge h).buf.filter fun x => x.slot != slot
  inq : (u.hedge h).inq = (c.hedge h).inq
  clk : u.clk = c.clk
  active : u.regs.active = c.regs.active
  others : ∀ g, g ≠ h → u.hedge g = c.hedge g

/-- What follows a hit that left leaves it gone. -/
theorem SameHedges.gone {h slot : Nat} {last : Option (Nat × Nat × Nat × Nat)} {c u : Chip}
    (hs : SameHedges (leaveSlot h slot last c) u) : GoneFrom h slot c u ∧ (u.hedge h).last = last := by
  have hsame : u.hedge h = { c.hedge h with buf := (c.hedge h).buf.filter fun x => x.slot != slot, last := last } := by
    rw [hs.hedge]
    exact c.hedge_setHedge_same h _
  refine ⟨⟨?_, ?_, hs.clk, hs.active, fun g hg => ?_⟩, ?_⟩
  · rw [hsame]
  · rw [hsame]
  · rw [hs.hedge]
    exact c.hedge_setHedge_ne _ hg
  · rw [hsame]

/-- A hit has left its buffer, and a counter has counted it. -/
structure CountedAway (h slot : Nat) (last : Option (Nat × Nat × Nat × Nat)) (f : Fld) (c u : Chip) : Prop where
  gone : GoneFrom h slot c u
  last : (u.hedge h).last = last
  count : u.fld f = satTo f.w (c.fld f + 1)

/-- A hit is counted once, with whatever follows that leaves the hedges and the counter alone. -/
theorem countedAway_of_bump {h slot : Nat} {last : Option (Nat × Nat × Nat × Nat)} {f : Fld} {c t u : Chip}
    (h1 : Past f (leaveSlot h slot last c) t) (h2 : Past f (t.bump f) u) (hf : f.fits) (hr : f.rws = false) :
    CountedAway h slot last f c u := by
  obtain ⟨hgone, hlast⟩ := ((h1.toSameHedges.trans (bump_sameHedges f t)).trans h2.toSameHedges).gone
  refine ⟨hgone, hlast, ?_⟩
  rw [h2.fld, Chip.fld_bump_same t f hf hr, h1.fld]
  rfl

/-! ### The frame builder (R82) -/

theorem setAcc_eq (a : FrameAcc) (s : Chip) : ∃ fb, setAcc a s = { s with fb := fb } := by
  unfold setAcc
  split
  · split
    · exact ⟨_, rfl⟩
    · exact ⟨_, rfl⟩
  · exact ⟨_, rfl⟩

theorem setAcc_past (f : Fld) (a : FrameAcc) (s : Chip) : Past f s (setAcc a s) := by
  obtain ⟨fb, hfb⟩ := setAcc_eq a s
  rw [hfb]
  exact ⟨⟨fun _ => rfl, rfl, rfl⟩, rfl⟩

theorem calAccepted_eq (frame w : Nat) (s : Chip) : ∃ x, calAccepted frame w s = { s with cal := x } := by
  unfold calAccepted
  dsimp only
  split
  · exact ⟨_, rfl⟩
  · exact ⟨_, rfl⟩

theorem deliverHit_feeds (b : Buffered) (frame w kq : Nat) (s : Chip) : Feeds s (deliverHit b frame w kq s) :=
  (measureHit_feeds frame w kq s).trans (Feeds.parts _ _ _ _ _)

/-- An accepted hit is counted, and goes on to the rate reducer, the frame, the measures and the trigger engine. -/
theorem acceptHit_past (h : Nat) (b : Buffered) (a : FrameAcc) (w : W64) (s : Chip) :
    Past F.HIT_ACCEPT_CNT_COUNT (s.bump F.HIT_ACCEPT_CNT_COUNT) (acceptHit h b a w s) := by
  obtain ⟨cal, hcal⟩ := calAccepted_eq a.id w.toNat (s.bump F.HIT_ACCEPT_CNT_COUNT)
  unfold acceptHit
  extract_lets x p kq n s0 fb s1
  have hs1 : Past F.HIT_ACCEPT_CNT_COUNT (s.bump F.HIT_ACCEPT_CNT_COUNT) s1 := by
    dsimp only [s1, fb, s0, x]
    rw [hcal]
    exact ⟨⟨fun _ => rfl, rfl, rfl⟩, rfl⟩
  split
  · exact hs1.trans (bump_past (f := F.HIT_PRESCALE_CNT_COUNT) (by decide) (by decide) _)
  · split
    · exact ((hs1.trans (setAcc_past _ _ _)).trans (bump_past (f := F.HIT_OVF_CNT_COUNT) (by decide) (by decide) _)).trans
        (raise_past (by decide) rfl _)
    · exact (hs1.trans (setAcc_past _ _ _)).trans ((deliverHit_feeds b _ _ _ _).past rfl (Or.inl (by decide)))

/-- A hit of a frame that has closed, and is not ahead, is late. -/
theorem releaseToFrame_late {h : Nat} {b : Buffered} {w : W64} {s : Chip} (ho : s.openFrame b.frame = none)
    (hf : b.frame ≤ s.clk.frame) : ∃ t, Past F.HIT_LATE_CNT_COUNT s t ∧
      releaseToFrame h b w s = raise EV.HIT_LATE (t.bump F.HIT_LATE_CNT_COUNT) := by
  unfold releaseToFrame
  rw [ho]
  dsimp only
  rw [if_neg (Nat.not_lt.mpr hf)]
  refine ⟨_, ?_, rfl⟩
  split
  · exact setAcc_past _ _ _
  · exact Past.refl _ s

theorem releaseToFrame_future {h : Nat} {b : Buffered} {w : W64} {s : Chip} (ho : s.openFrame b.frame = none)
    (hf : s.clk.frame < b.frame) : releaseToFrame h b w s = raise EV.HIT_FUTURE (s.bump F.HIT_FUTURE_CNT_COUNT) := by
  unfold releaseToFrame
  rw [ho]
  dsimp only
  rw [if_pos hf]

theorem releaseToFrame_open {h : Nat} {b : Buffered} {w : W64} {s : Chip} {a : FrameAcc} (ho : s.openFrame b.frame = some a)
    (ha : a.emit = true) : releaseToFrame h b w s = acceptHit h b a w s := by
  unfold releaseToFrame
  rw [ho]
  dsimp only
  rw [if_pos ha]

/-! ### A release in key order (R19, R80) -/

theorem heldBack_iff (s : Chip) (frame : Nat) : s.heldBack frame = true ↔
    s.flag F.TIM_STAT_STEP_HOLD = true ∨ ∃ a, s.openFrame frame = some a ∧ a.stepHold = true ∧ a.emit = false := by
  unfold Chip.heldBack
  rw [Bool.or_eq_true]
  refine or_congr Iff.rfl ?_
  cases s.openFrame frame <;> simp

theorem judgeRelease_held {h : Nat} {b : Buffered} {w : W64} {s : Chip} (hh : s.heldBack b.frame = true) :
    judgeRelease h b w s = s.bump F.TIM_STEP_DROP_COUNT := by
  unfold judgeRelease
  dsimp only
  rw [if_pos hh]

/-- A hit below the last key is dropped and counted. -/
theorem judgeRelease_low {h : Nat} {b : Buffered} {w : W64} {s : Chip} {k : Nat × Nat × Nat × Nat} (hh : s.heldBack b.frame = false)
    (hl : (s.hedge h).last = some k) (hk : keyLt b.key k = true) :
    ∃ t, Past F.HIT_ODROP_CNT_COUNT (s.bump F.HIT_ODROP_CNT_COUNT) t ∧ judgeRelease h b w s = raise EV.HIT_ODROP t := by
  unfold judgeRelease
  dsimp only
  rw [hh, hl]
  dsimp only
  rw [if_neg Bool.false_ne_true, if_pos hk]
  refine ⟨_, ?_, rfl⟩
  have hapart : (F.HIT_HEDGE_STAT_ODROP h).apart F.HIT_ODROP_CNT_COUNT := Or.inl (show 0x30404 + 8 * h ≠ 0x30130 by omega)
  split
  · exact (bump_past hapart (by decide) _).trans (setAcc_past _ _ _)
  · exact bump_past hapart (by decide) _

theorem judgeRelease_ordered {h : Nat} {b : Buffered} {w : W64} {s : Chip} (hh : s.heldBack b.frame = false)
    (hk : ∀ k, (s.hedge h).last = some k → keyLt b.key k = false) :
    judgeRelease h b w s = releaseToFrame h b w (setHedge h { s.hedge h with last := some b.key } s) := by
  unfold judgeRelease
  dsimp only
  rw [hh, if_neg Bool.false_ne_true]
  refine if_neg ?_
  split
  · next k hl => rw [hk k hl]; exact Bool.false_ne_true
  · exact Bool.false_ne_true

/-! ### REORDER_RELEASE (R78, R390) -/

theorem memRead_clean {m w : Nat} {s : Chip} (h : (s.mem m).par.get w = 0#8) : memRead m w s = (s.memData m w, false, s) := by
  have hp : s.poisoned m w = false := by
    unfold Chip.poisoned
    rw [h]
    decide
  unfold memRead
  rw [h]
  dsimp only
  rw [if_pos (show (decide ((0#8).toNat = 0) || parPoisoned (0#8).toNat) = true by decide), hp, if_neg Bool.false_ne_true]

theorem memRead_poisoned {m w : Nat} {s : Chip} (h : (s.mem m).par.get w = 0xFF#8) :
    memRead m w s = (s.memData m w, true, notePoisonRead s) := by
  have hp : s.poisoned m w = true := by
    unfold Chip.poisoned
    rw [h]
    decide
  unfold memRead
  rw [h]
  dsimp only
  rw [if_pos (show (decide ((0xFF#8).toNat = 0) || parPoisoned (0xFF#8).toNat) = true by decide), if_pos hp]

theorem releaseBuffered_clean {h : Nat} {b : Buffered} {s : Chip} (hw : (s.mem 9).par.get (slotWord h b.slot) = 0#8) :
    ∃ w, releaseBuffered h b s = judgeRelease h b w (leaveSlot h b.slot (s.hedge h).last s) := by
  have hread := memRead_clean (s := leaveSlot h b.slot (s.hedge h).last s) hw
  unfold leaveSlot at hread
  unfold releaseBuffered
  dsimp only
  rw [hread]
  exact ⟨_, rfl⟩

theorem releaseBuffered_poisoned {h : Nat} {b : Buffered} {s : Chip} (hw : (s.mem 9).par.get (slotWord h b.slot) = 0xFF#8) :
    releaseBuffered h b s = (notePoisonRead (leaveSlot h b.slot (s.hedge h).last s)).bump F.MIN_HIT_POISON_COUNT := by
  have hread := memRead_poisoned (s := leaveSlot h b.slot (s.hedge h).last s) hw
  unfold leaveSlot at hread
  unfold releaseBuffered
  dsimp only
  rw [hread]
  rfl

/-- The window of the lowest hit has passed. -/
abbrev Chip.releaseDue (s : Chip) (b : Buffered) : Prop := b.frame * frameFtu + b.toa + s.reorderFtu (s.ageOf b.frame) ≤ s.now

theorem reorderRelease_of_due {h : Nat} {b : Buffered} {rest : List Buffered} {s : Chip} (hb : (s.hedge h).buf = b :: rest)
    (hup : s.domainUp 1 = true) (hd : s.releaseDue b) : reorderRelease h s = releaseBuffered h b s := by
  unfold reorderRelease
  rw [hb]
  dsimp only
  rw [hup, decide_eq_true hd]
  rfl

theorem reorderRelease_of_not_due {h : Nat} {b : Buffered} {rest : List Buffered} {s : Chip} (hb : (s.hedge h).buf = b :: rest)
    (hd : s.domainUp 1 = false ∨ ¬ s.releaseDue b) : reorderRelease h s = s := by
  unfold reorderRelease
  rw [hb]
  dsimp only
  refine if_neg ?_
  rw [Bool.and_eq_true, decide_eq_true_eq]
  rintro ⟨hup, hdue⟩
  rcases hd with hd | hd
  · exact Bool.false_ne_true (hd.symm.trans hup)
  · exact hd hdue

theorem exec_reorderRelease (h : Fin 32) (s : State) : exec (.reorderRelease h) s = .next { s with chip := reorderRelease h s.chip } := rfl

/-- A poisoned word drops its hit (R390). -/
theorem releaseBuffered_poisoned_effect {h : Nat} {b : Buffered} {c : Chip} (hw : (c.mem 9).par.get (slotWord h b.slot) = 0xFF#8) :
    CountedAway h b.slot (c.hedge h).last F.MIN_HIT_POISON_COUNT c (releaseBuffered h b c) ∧
      (releaseBuffered h b c).eventSeen EV.MEM_POISON_READ = true := by
  rw [releaseBuffered_poisoned hw]
  unfold notePoisonRead
  refine ⟨countedAway_of_bump ?_ (Past.refl _ _) (by decide) rfl, ?_⟩
  · exact (bump_past (by decide) (by decide) _).trans (raise_past (by decide) rfl _)
  · exact (setFld_seen _ _ _ _ (by decide) rfl).trans (raise_seen _ (by decide) _)

/-- In step hold a hit is dropped whatever its key (R19). -/
theorem releaseBuffered_held_effect {h : Nat} {b : Buffered} {c : Chip} (hw : (c.mem 9).par.get (slotWord h b.slot) = 0#8)
    (hh : c.heldBack b.frame = true) :
    CountedAway h b.slot (c.hedge h).last F.TIM_STEP_DROP_COUNT c (releaseBuffered h b c) ∧
      (releaseBuffered h b c).fld F.HIT_ODROP_CNT_COUNT = c.fld F.HIT_ODROP_CNT_COUNT := by
  obtain ⟨w, hr⟩ := releaseBuffered_clean hw
  rw [hr, judgeRelease_held (s := leaveSlot h b.slot (c.hedge h).last c) hh]
  exact ⟨countedAway_of_bump (Past.refl _ _) (Past.refl _ _) (by decide) rfl, Chip.fld_bump_apart _ _ _ (by decide) (by decide)⟩

/-- Below the last key a hit is dropped as out of order (R80). -/
theorem releaseBuffered_low_effect {h : Nat} {b : Buffered} {c : Chip} {k : Nat × Nat × Nat × Nat}
    (hw : (c.mem 9).par.get (slotWord h b.slot) = 0#8) (hh : c.heldBack b.frame = false) (hl : (c.hedge h).last = some k)
    (hk : keyLt b.key k = true) :
    CountedAway h b.slot (some k) F.HIT_ODROP_CNT_COUNT c (releaseBuffered h b c) ∧
      (releaseBuffered h b c).eventSeen EV.HIT_ODROP = true := by
  obtain ⟨w, hr⟩ := releaseBuffered_clean hw
  obtain ⟨t, ht, hj⟩ := judgeRelease_low (h := h) (w := w) (s := leaveSlot h b.slot (c.hedge h).last c) hh
    ((congrArg Hedge.last (c.hedge_setHedge_same h _)).trans hl) hk
  rw [hr, hj, ← hl]
  exact ⟨countedAway_of_bump (Past.refl _ _) (ht.trans (raise_past (by decide) rfl _)) (by decide) rfl, raise_seen _ (by decide) _⟩

/-- A hit in key order becomes the last key of its hedge and goes to the frame builder. -/
theorem releaseBuffered_ordered {h : Nat} {b : Buffered} {c : Chip} (hw : (c.mem 9).par.get (slotWord h b.slot) = 0#8)
    (hh : c.heldBack b.frame = false) (hk : ∀ k, (c.hedge h).last = some k → keyLt b.key k = false) :
    ∃ w t, releaseBuffered h b c = releaseToFrame h b w t ∧ SameHedges (leaveSlot h b.slot (some b.key) c) t ∧
      t.regs = c.regs ∧ t.fb = c.fb ∧ t.clk = c.clk := by
  obtain ⟨w, hr⟩ := releaseBuffered_clean hw
  have hsame : (leaveSlot h b.slot (c.hedge h).last c).hedge h =
      { c.hedge h with buf := (c.hedge h).buf.filter fun x => x.slot != b.slot } := c.hedge_setHedge_same h _
  refine ⟨w, _, hr.trans (judgeRelease_ordered (s := leaveSlot h b.slot (c.hedge h).last c) hh fun k hl => hk k ?_), ?_, rfl, rfl, rfl⟩
  · rwa [hsame] at hl
  · rw [hsame]
    exact setHedge_sameHedges h _ _ c

/-- What a hit in key order meets at the frame builder. -/
theorem releaseBuffered_ordered_effect {h : Nat} {b : Buffered} {c : Chip} (hw : (c.mem 9).par.get (slotWord h b.slot) = 0#8)
    (hh : c.heldBack b.frame = false) (hk : ∀ k, (c.hedge h).last = some k → keyLt b.key k = false) :
    (∀ a, c.openFrame b.frame = some a → a.emit = true →
      CountedAway h b.slot (some b.key) F.HIT_ACCEPT_CNT_COUNT c (releaseBuffered h b c)) ∧
    (c.openFrame b.frame = none → b.frame ≤ c.clk.frame →
      CountedAway h b.slot (some b.key) F.HIT_LATE_CNT_COUNT c (releaseBuffered h b c) ∧
        (releaseBuffered h b c).eventSeen EV.HIT_LATE = true) ∧
    (c.openFrame b.frame = none → c.clk.frame < b.frame →
      CountedAway h b.slot (some b.key) F.HIT_FUTURE_CNT_COUNT c (releaseBuffered h b c) ∧
        (releaseBuffered h b c).eventSeen EV.HIT_FUTURE = true) := by
  obtain ⟨w, t, hr, hs, hregs, hfb, hclk⟩ := releaseBuffered_ordered hw hh hk
  have hopen : t.openFrame b.frame = c.openFrame b.frame := by
    unfold Chip.openFrame
    rw [hfb]
  have hfld : ∀ f, Past f (leaveSlot h b.slot (some b.key) c) t := fun f => ⟨hs, by unfold Chip.fld; rw [hregs]; rfl⟩
  rw [hr, ← hopen, ← hclk]
  refine ⟨fun a ho ha => ?_, fun ho hf => ?_, fun ho hf => ?_⟩
  · rw [releaseToFrame_open ho ha]
    exact countedAway_of_bump (hfld _) (acceptHit_past h b a w t) (by decide) rfl
  · obtain ⟨u, hu, hl⟩ := releaseToFrame_late (h := h) (w := w) ho hf
    rw [hl]
    exact ⟨countedAway_of_bump ((hfld _).trans hu) (raise_past (by decide) rfl _) (by decide) rfl, raise_seen _ (by decide) _⟩
  · rw [releaseToFrame_future ho hf]
    exact ⟨countedAway_of_bump (hfld _) (raise_past (by decide) rfl _) (by decide) rfl, raise_seen _ (by decide) _⟩

theorem GoneFrom.effects {h slot : Nat} {c u : Chip} (hg : GoneFrom h slot c u) :
    (u.hedge h).buf = (c.hedge h).buf.filter (fun x => x.slot != slot) ∧ (u.hedge h).inq = (c.hedge h).inq ∧
      u.clk = c.clk ∧ u.regs.active = c.regs.active ∧ ∀ g, g ≠ h → u.hedge g = c.hedge g :=
  ⟨hg.buf, hg.inq, hg.clk, hg.active, hg.others⟩

/-- Settles O42: a hit that is due is counted once, by the first of poison, step hold, key order and frame that judges it. -/
theorem hitAndStoreRowsComplete : Obligations.HitAndStoreRowsComplete := by
  unfold Obligations.HitAndStoreRowsComplete
  refine ⟨fun b q => ⟨insertHit_perm b q, insertHit_pairwise b q⟩, fun h b rest s => ?_, fun s hup => ?_, fun n s => ⟨fun hn hlen => ?_,
    fun h1 h6 => ?_⟩⟩
  · intro c window due held gone hb
    have hdoes : c.domainUp 1 = true → due → ∀ P : Chip → Prop, P (releaseBuffered h b c) → Does (.reorderRelease h) s P :=
      fun hup hd P hP => ⟨_, exec_reorderRelease h s, by rwa [reorderRelease_of_due hb hup hd]⟩
    have hnot : ¬ held → c.heldBack b.frame = false := fun hn => Bool.eq_false_iff.mpr fun ht => hn ((heldBack_iff _ _).mp ht)
    refine ⟨fun hd => ?_, fun hup hd hw => ?_, fun hup hd hw hh => ?_,
      fun hup hd hw hk hh => ⟨fun a ho ha => ?_, fun ho hf => ?_, fun ho hf => ?_⟩, fun hup hd hw hh k hl hk => ?_⟩
    · rw [exec_reorderRelease, reorderRelease_of_not_due hb hd]
    · obtain ⟨hc, hseen⟩ := releaseBuffered_poisoned_effect hw
      exact hdoes hup hd _ ⟨hc.gone.effects, hc.last, hseen, hc.count⟩
    · obtain ⟨hc, hodrop⟩ := releaseBuffered_held_effect hw ((heldBack_iff _ _).mpr hh)
      exact hdoes hup hd _ ⟨hc.gone.effects, hc.last, hodrop, hc.count⟩
    · have hc := (releaseBuffered_ordered_effect hw (hnot hh) hk).1 a ho ha
      exact hdoes hup hd _ ⟨hc.gone.effects, hc.last, hc.count⟩
    · obtain ⟨hc, hseen⟩ := (releaseBuffered_ordered_effect hw (hnot hh) hk).2.1 ho hf
      exact hdoes hup hd _ ⟨hc.gone.effects, hc.last, hseen, hc.count⟩
    · obtain ⟨hc, hseen⟩ := (releaseBuffered_ordered_effect hw (hnot hh) hk).2.2 ho hf
      exact hdoes hup hd _ ⟨hc.gone.effects, hc.last, hseen, hc.count⟩
    · obtain ⟨hc, hseen⟩ := releaseBuffered_low_effect hw (hnot hh) hl hk
      exact hdoes hup hd _ ⟨hc.gone.effects, hc.last, hseen, hc.count⟩
  · refine ⟨_, exec_storeBandwidthGrant hup, rfl, serve_length 248 _, fun j => serve_take_sum 248 j _⟩
  · have hqueue : isHistory n.val = false := by
      rw [← Bool.not_eq_true, isHistory_iff]
      rcases hn with rfl | hn
      · decide
      · omega
    refine ⟨_, exec_queueSpaceFreed n s, ?_⟩
    rw [freeDone_of_queue _ hqueue]
    dsimp only
    rw [Chip.region_setRegion_same _ hlen]
    exact ⟨rfl, rfl⟩
  · rw [exec_queueSpaceFreed, freeDone_of_history _ ((isHistory_iff n).mpr ⟨h1, h6⟩)]

end Sys2Proof.Machine
end

section
/-! PROOFS. What the work of a tick leaves alone: the clock with its correction, the waiting batch, and the event bits that are set. Each
step of the work is one lemma; the composition follows the definitions. -/

namespace Sys2Proof.Machine

-- the lemmas are many and short: elaborated all at once they would take a thread each
set_option Elab.async false

/-! ### The relation -/

/-- `t` keeps the clock of `s` with the correction in progress, the batch that waits, and every event bit that is set. -/
structure Steady (s t : Chip) : Prop where
  clk : t.clk = s.clk
  rate : t.net.rate = s.net.rate
  batch : t.cmd.batch = s.cmd.batch
  events : ∀ e, e < 384 → s.eventSeen e = true → t.eventSeen e = true

section
variable {s t u v : Chip}

theorem Steady.refl (s : Chip) : Steady s s := ⟨rfl, rfl, rfl, fun _ _ h => h⟩

theorem Steady.trans (h : Steady s t) (k : Steady t u) : Steady s u :=
  ⟨k.clk.trans h.clk, k.rate.trans h.rate, k.batch.trans h.batch, fun e he hs => k.events e he (h.events e he hs)⟩

theorem Steady.announces (h : Steady s t) (k : Announces t u) : Steady s u :=
  h.trans ⟨k.clk, congrArg NetTime.rate k.net, congrArg CmdSt.batch k.cmd, k.events⟩

theorem Steady.ships (h : Steady s t) (k : Ships t u) : Steady s u :=
  h.trans ⟨k.clk, congrArg NetTime.rate k.net, congrArg CmdSt.batch k.cmd, k.events⟩

theorem Steady.feeds (h : Steady s t) (k : Feeds t u) : Steady s u :=
  h.trans ⟨k.clk, congrArg (fun c => c.net.rate) k.rest, congrArg (fun c => c.cmd.batch) k.rest, k.events⟩

theorem Steady.works (h : Steady s t) (k : Works t u) : Steady s u :=
  h.trans ⟨k.clk, congrArg (fun c => c.net.rate) k.rest, congrArg (fun c => c.cmd.batch) k.rest, k.events⟩

/-- A change beside the direct registers, the clock, the correction and the batch. -/
theorem Steady.same (h : Steady s t) (hr : u.regs.direct = t.regs.direct := by rfl) (hc : u.clk = t.clk := by rfl)
    (hn : u.net.rate = t.net.rate := by rfl) (hb : u.cmd.batch = t.cmd.batch := by rfl) : Steady s u := by
  refine h.trans ⟨hc, hn, hb, fun e _ he => ?_⟩
  have hseen : u.eventSeen e = t.eventSeen e := by
    show (fieldOf u.regs.direct (F.EVT_STAT_STAT (e / 32))).testBit (e % 32) = _
    rw [hr]
    rfl
  rw [hseen, he]

/-! ### Registers -/

/-- A register of an array behind the event registers is no event status register. -/
theorem statAddr_indexed {b x : Nat} (hb : 0x31C0 ≤ b := by decide) : statAddr (b + x) = false := by
  unfold statAddr
  have : ¬ b + x < 0x31C0 := by omega
  simp [this]

/-- A register of an array before the event registers is no event status register. -/
theorem statAddr_before {b x : Nat} (hx : b + x < 0x3100) : statAddr (b + x) = false := by
  unfold statAddr
  have : ¬ 0x3100 ≤ b + x := by omega
  simp [this]

variable {f : Fld}

theorem Steady.setFld {n : Nat} (h : Steady s t) (hf : statAddr f.addr = false := by rfl) : Steady s (t.setFld f n) :=
  h.trans ⟨rfl, rfl, rfl, fun e he hs => (setFld_seen t f n e he hf).trans hs⟩

theorem Steady.setFlag {b : Bool} (h : Steady s t) (hf : statAddr f.addr = false := by rfl) : Steady s (t.setFlag f b) := h.setFld hf
theorem Steady.bumpBy {n : Nat} (h : Steady s t) (hf : statAddr f.addr = false := by rfl) : Steady s (t.bumpBy f n) := h.setFld hf
theorem Steady.bump (h : Steady s t) (hf : statAddr f.addr = false := by rfl) : Steady s (t.bump f) := h.setFld hf
theorem Steady.setBit {b : Nat} {x : Bool} (h : Steady s t) (hf : statAddr f.addr = false := by rfl) : Steady s (t.setBit f b x) :=
  h.setFld hf

theorem Steady.latchBit {b : Nat} (h : Steady s t) (hf : statAddr f.addr = false := by rfl) : Steady s (t.latchBit f b) :=
  (h.same (u := t.noteSet f.addr (f.lo + b))).setBit hf

/-! ### Composition -/

theorem Steady.raise {e : Nat} (h : Steady s t) (he : e < 384 := by decide) : Steady s (raise e t) := h.announces (raise_announces e he t)

theorem Steady.ite {p : Prop} [Decidable p] (h : Steady s t) (k : Steady s u) : Steady s (if p then t else u) := by
  split
  · exact h
  · exact k

theorem Steady.iteSnd {α : Type} {p : Prop} [Decidable p] {a b : α × Chip} (h : Steady s a.2) (k : Steady s b.2) :
    Steady s (if p then a else b).2 := by
  split
  · exact h
  · exact k

theorem Steady.cond {b : Bool} {g : Chip → Chip} (h : Steady s t) (k : Steady s (g t)) : Steady s (cond b g t) := by
  cases b
  · exact h
  · exact k

theorem Steady.forAll {α : Type} {l : List α} {g : α → Chip → Chip} (h : Steady s t)
    (k : ∀ a, ∀ x, Steady s x → Steady s (g a x)) : Steady s (forAll l g t) :=
  List.foldlRecOn _ _ h fun x hx a _ => k a x hx

theorem Steady.forN {n : Nat} {g : Nat → Chip → Chip} (h : Steady s t)
    (k : ∀ i, i < n → ∀ x, Steady s x → Steady s (g i x)) : Steady s (forN n g t) :=
  List.foldlRecOn _ _ h fun x hx i hi => k i (List.mem_range.mp hi) x hx

/-- A fold whose accumulator holds a chip among its parts. -/
theorem Steady.fold {α β : Type} {l : List α} {g : β → α → β} {chip : β → Chip} {b : β} (h : Steady s (chip b))
    (k : ∀ b a, Steady s (chip b) → Steady s (chip (g b a))) : Steady s (chip (l.foldl g b)) :=
  List.foldlRecOn (motive := fun b => Steady s (chip b)) _ _ h fun b hb a _ => k b a hb

end

/-! ### The coded memories -/

section
variable {s t : Chip}

theorem logEvent_steady (h : Steady s t) (e : LogEntry) : Steady s (logEvent e t) := h.ships (logEvent_ships e t)

theorem noteCorrected_steady (h : Steady s t) (kind src m w bit : Nat) : Steady s (noteCorrected kind src m w bit t) :=
  ((logEvent_steady h _).bump.bump statAddr_indexed).raise

theorem noteUncorrectable_steady (h : Steady s t) (src m w : Nat) : Steady s (noteUncorrectable src m w t) :=
  ((logEvent_steady h _).bump.bump statAddr_indexed).raise

theorem poisonBlock_steady (h : Steady s t) (src m b : Nat) : Steady s (poisonBlock src m b t) :=
  noteUncorrectable_steady h.same _ _ _

theorem blockCheck_steady (h : Steady s t) (src m b : Nat) : Steady s (blockCheck src m b t) := by
  unfold blockCheck
  extract_lets x syn
  split
  · exact .ite h (poisonBlock_steady h _ _ _)
  · split
    · exact noteCorrected_steady h.same ..
    · split
      · exact noteCorrected_steady h.same ..
      · exact poisonBlock_steady h ..
  · extract_lets w
    split
    · exact noteCorrected_steady h.same ..
    · split
      · exact noteCorrected_steady h.same ..
      · exact poisonBlock_steady h ..
  · exact poisonBlock_steady h ..

theorem memRead_steady (h : Steady s t) (m w : Nat) : Steady s (memRead m w t).2.2 := by
  unfold memRead
  extract_lets par s1
  have h1 : Steady s s1 := .ite h (blockCheck_steady h ..)
  split
  · exact h1.bump.raise
  · exact h1

theorem memWrite_steady (h : Steady s t) (m w mask data : Nat) : Steady s (memWrite m w mask data t) := by
  unfold memWrite
  extract_lets par s1 new s2
  have h1 : Steady s s1 := .ite h (blockCheck_steady h ..)
  have h2 : Steady s s2 := .ite h1.same h1.same
  exact .ite h2.same h2

theorem memWritePoisoned_steady (h : Steady s t) (m w data : Nat) : Steady s (memWritePoisoned m w data t) :=
  (memWrite_steady h m w 255 data).same

/-! ### The acquisition store and the ring queues -/

theorem noteFill_steady (h : Steady s t) (n : Nat) : Steady s (noteFill n t) := by
  unfold noteFill
  refine Steady.ships ?_ (notePressure_ships n _)
  unfold Chip.highWater
  exact .ite (h.setFld statAddr_indexed) h

theorem readWords_steady (h : Steady s t) (n : Nat) (o : Obj) : Steady s (readWords n o t).2.2 := h.ships (readStore_ships _ t)

theorem readObj_steady (h : Steady s t) (n : Nat) (o : Obj) : Steady s (readObj n o t).2.2 := readWords_steady h n o

theorem setPort_steady (h : Steady s t) (p : Port) (x : PortSt) : Steady s (t.setPort p x) := h.ships (setPort_ships t p x)

theorem setLane_steady (h : Steady s t) (p : Port) (x : LaneSt) : Steady s (t.setLane p x) := by
  cases p
  · exact h.same
  · exact h.same

theorem sendContent_steady (h : Steady s t) (pt cls : Nat) (owner : Owner) (idx : Nat) (ws : List W64) (bad : Bool) :
    Steady s (sendContent pt cls owner idx ws bad t) := h.works (sendContent_works ..)

theorem tickQueues_steady (h : Steady s t) : Steady s (tickQueues t) := by
  unfold tickQueues
  refine h.forAll fun p x hx => hx.forN fun cls _ y hy => ?_
  split
  · exact hy
  · exact .ite (hy.ships (noteRefusedPressure_ships _ y)) hy

/-! ### The pair -/

theorem pairFormation_steady (h : Steady s t) (oldEn : Bool) : Steady s (pairFormation oldEn t) := by
  unfold pairFormation
  extract_lets en _ s1 _ s2
  have h1 : Steady s s1 := (h.same (u := { t with pair := { t.pair with paired := true } })).setFlag
  have h2 : Steady s s2 := (h.same (u := { t with pair := { t.pair with paired := false } })).setFld
  split
  · exact .ite h1 (Steady.setFld (Steady.setFlag (Steady.setFld h1.same)))
  · exact .ite (.ite h2 h2.setFlag.raise) h2.setFlag

theorem setClaimEntry_steady (h : Steady s t) (e seg claim src : Nat) : Steady s (setClaimEntry e seg claim src t) :=
  (((h.setFld statAddr_indexed).setFld statAddr_indexed).setFld statAddr_indexed).setFlag statAddr_indexed

theorem clearClaims_steady (h : Steady s t) : Steady s (clearClaims t) :=
  (h.forN fun _ _ _ hx =>
    (((hx.setFld statAddr_indexed).setFld statAddr_indexed).setFld statAddr_indexed).setFlag statAddr_indexed).setFld

theorem claimCheck_steady (h : Steady s t) (w0 : W64) : Steady s (claimCheck w0 t).2 := by
  unfold claimCheck
  extract_lets x claim src seg n
  split
  · split
    · exact h
    · split
      · exact (setClaimEntry_steady h ..).setFld
      · exact h.bump.raise
  · split
    · split
      · exact setClaimEntry_steady h ..
      · split
        · exact h
        · exact h.bump
    · exact h

theorem sendDrop_steady (h : Steady s t) (o : Offer) : Steady s (sendDrop raise o t).2 :=
  h.announces (sendDrop_announces raise_quiet o t)

theorem sendPairHb_steady (h : Steady s t) (handover : Bool) : Steady s (sendPairHb handover t) := by
  unfold sendPairHb
  extract_lets w0 w2 o r
  have hr : Steady s r.2 := sendDrop_steady h o
  exact .ite h (.ite hr hr.bump)

theorem sendMirror_steady (h : Steady s t) (frame : Nat) : Steady s (sendMirror frame t) := sendDrop_steady h _

theorem mirrorAfterEval_steady (h : Steady s t) (frame : Nat) : Steady s (mirrorAfterEval frame t) :=
  .ite (sendMirror_steady h.same frame) h.same

theorem applyMirror_steady (h : Steady s t) (ws : List W64) : Steady s (applyMirror ws t) := by
  unfold applyMirror
  extract_lets w0 w1 frame n s1 fired _ s2 s3
  have h1 : Steady s s1 := h.forN fun _ _ _ hx => (hx.setFld statAddr_indexed).setFld statAddr_indexed
  have h3 : Steady s s3 := (Steady.setFlag (Steady.setFld (h1.same (u := s2)))).bump
  exact .ite h (.ite h3.setFlag.raise h3)

theorem applyMirrors_steady (h : Steady s t) : Steady s (applyMirrors t) :=
  (h.same (u := { t with pair := { t.pair with mirrors := [] } })).forAll fun ws _ hx => applyMirror_steady hx ws

theorem countMissed_steady (h : Steady s t) : Steady s (countMissed t) := by
  unfold countMissed
  extract_lets _ m s1
  have h1 : Steady s s1 := h.setFld.bump
  exact .ite h (.ite h.same (.ite h1.raise h1))

theorem tickPair_steady (h : Steady s t) : Steady s (tickPair t) := by
  unfold tickPair
  extract_lets s0 due _ s1 s2 s3 _ s4
  have h0 : Steady s s0 := countMissed_steady h.setFld
  have h1 : Steady s s1 := h0.same
  have h2 : Steady s s2 := .ite (clearClaims_steady h1.setFld.setFlag) h1
  have h3 : Steady s s3 := .ite (h2.setFld.setFlag).bump.raise h2
  exact applyMirrors_steady h3.same

theorem tickPairSend_steady (h : Steady s t) : Steady s (tickPairSend t) := by
  unfold tickPairSend
  extract_lets _ s0
  have h0 : Steady s s0 := h.same
  exact .ite (.ite (sendPairHb_steady (sendMirror_steady h0 _) true).setFld (sendPairHb_steady h0 _)) (sendPairHb_steady h _)

/-! ### The capture store -/

theorem refuseObject_steady (h : Steady s t) : Steady s (refuseObject t) := h.bump.raise

theorem newItem_steady (h : Steady s t) (pt : Nat) (extent : Option Nat) (ws : List W64) : Steady s (newItem pt extent ws t) := by
  unfold newItem
  extract_lets n i sto
  exact Steady.ships h.same (sendWait_ships _ _)

theorem flushIndex_steady (h : Steady s t) : Steady s (flushIndex t) :=
  (h.same (u := { t with sto := { t.sto with dirty := [] } })).forAll fun _ _ hx => newItem_steady hx _ _ _

theorem findExtent_steady (h : Steady s t) (n e : Nat) : Steady s (findExtent n e t).2 := by
  induction n generalizing e t with
  | zero => exact h
  | succ n ih =>
    unfold findExtent
    have h1 := memRead_steady h 1 e
    generalize memRead 1 e t = r at h1 ⊢
    obtain ⟨v, bad, s1⟩ := r
    dsimp only at h1 ⊢
    split
    · exact ih h1.raise _
    · exact .iteSnd h1 (ih h1 _)

theorem openExtent_steady (h : Steady s t) (frame : Nat) (lock cont : Bool) : Steady s (openExtent frame lock cont t).2 := by
  unfold openExtent
  have h1 := findExtent_steady h 262143 (max 1 (t.fld F.STO_NEXT_EXTENT))
  generalize findExtent 262143 (max 1 (t.fld F.STO_NEXT_EXTENT)) t = r at h1 ⊢
  obtain ⟨r, s1⟩ := r
  dsimp only at h1 ⊢
  cases r with
  | none => exact h1.setFlag.raise
  | some e =>
    dsimp only
    have h2 : Steady s (if extState (s1.extent e) = 2 then s1.bump F.STO_REUSE_COUNT else s1) := .ite h1.bump h1
    generalize (if extState (s1.extent e) = 2 then s1.bump F.STO_REUSE_COUNT else s1) = s2 at h2 ⊢
    refine flushIndex_steady (Steady.ships ?_ (setExtent_ships e _ _))
    exact Steady.setFld (Steady.setFld (Steady.setFlag h2.same))

theorem retryFull_steady (h : Steady s t) : Steady s (retryFull t) := .ite (openExtent_steady h _ _ _) h

theorem setExtent_steady (h : Steady s t) (e v : Nat) : Steady s (setExtent e v t) := h.ships (setExtent_ships e v t)

theorem storeCtl_steady (h : Steady s t) (w : W64) : Steady s (storeCtl w t) := by
  unfold storeCtl
  extract_lets x first last n each s1
  refine flushIndex_steady ?_
  unfold s1
  split
  · exact h.forN fun _ _ _ hx => setExtent_steady hx _ _
  · exact h.forN fun _ _ _ hx => .ite hx (setExtent_steady hx _ _)
  · exact h.forN fun _ _ _ hx => .ite hx (setExtent_steady hx _ _)
  · exact h.forN fun _ _ x hx => hx.ships (markDirty_ships _ x)
  · exact h

theorem tickStore_steady (h : Steady s t) : Steady s (tickStore t) :=
  retryFull_steady (flushIndex_steady
    ((h.same (u := { t with sto := { t.sto with ctl := [] } })).forAll fun w _ hx => storeCtl_steady hx w))

end

end Sys2Proof.Machine
end

section
/-! PROOFS. The Lawn, the measures, the trigger conditions, calibration data, the frame builder, waveforms and the cross-channel
converter keep the clock, the batch and the event bits that are set. -/

namespace Sys2Proof.Machine

-- the lemmas are many and short: elaborated all at once they would take a thread each
set_option Elab.async false

section
variable {s t : Chip}

/-! ### The Lawn -/

theorem loadLatch_steady (h : Steady s t) (w : Nat) : Steady s (loadLatch w t) := by
  unfold loadLatch
  have h1 := memRead_steady h 2 w
  generalize memRead 2 w t = r at h1 ⊢
  exact h1.same

theorem schedulePulse_steady (h : Steady s t) : Steady s (schedulePulse t) := .ite h.same h

theorem settlingStart_steady (h : Steady s t) (old : Chip) : Steady s (settlingStart old t) := .ite (Steady.setFlag h.same) h

theorem follyCommit_steady (h : Steady s t) (old : Chip) : Steady s (follyCommit old t) := by
  unfold follyCommit startFolly
  extract_lets m _ s1
  have h1 : Steady s s1 := .ite h.same h
  exact .ite h1.same h1

theorem pulseSchedule_steady (h : Steady s t) (started : Bool) : Steady s (pulseSchedule started t) :=
  .ite (Steady.setFlag h.same) (.ite (Steady.setFlag h.same) h)

theorem tickLawn_steady (h : Steady s t) : Steady s (tickLawn t) := h.same

/-! ### The measures and the trigger conditions -/

theorem noteSource_steady (h : Steady s t) (typ sel frame : Nat) (v : Option Int) : Steady s (noteSource typ sel frame v t) := h.same

theorem dropFrame_steady (h : Steady s t) (frame : Nat) : Steady s (dropFrame frame t) := h.same

theorem setMeasure_steady (h : Steady s t) (n : Nat) (m : Meas) : Steady s (setMeasure n m t) := h.feeds (setMeasure_feeds n m t)

theorem measuresCommit_steady (h : Steady s t) (old : Chip) : Steady s (measuresCommit old t) := by
  unfold measuresCommit
  extract_lets was ok on s0 s1 s2 bad fresh s3
  have hon : ∀ typ f n x, Steady s x → Steady s (on typ f n x) := fun _ _ _ _ hx => .ite (noteSource_steady hx ..) hx
  have h0 : Steady s s0 := (h.forN fun i _ x hx => hon 4 _ i x hx).forN fun i _ x hx => hon 5 _ i x hx
  have h1 : Steady s s1 := h0.forN fun _ _ _ hx => .ite (.ite hx (setMeasure_steady hx _ _)) hx
  have h2 : Steady s s2 := h1.forN fun _ _ _ hx => .ite hx (hx.feeds (updateRuns_feeds _ _))
  have h3 : Steady s s3 := h2.forN fun _ _ _ hx => hx.setFld statAddr_indexed
  exact .cond h3 h3.raise

theorem setCond_steady (h : Steady s t) (n : Nat) (c : CondSt) : Steady s (setCond n c t) := h.feeds (setCond_feeds n c t)

theorem clearArmings_steady (h : Steady s t) (ch : Nat) : Steady s (clearArmings ch t) :=
  h.forN fun _ _ _ hx => .ite (setCond_steady hx _ _) hx

theorem triggersCommit_steady (h : Steady s t) (old : Chip) : Steady s (triggersCommit old t) := by
  unfold triggersCommit
  extract_lets s1 bad fresh
  have h1 : Steady s s1 := h.forN fun _ _ _ hx => .ite hx hx.same
  exact .cond h1.setFld h1.setFld.raise

theorem mergeUpTo_steady (h : Steady s t) (due : Merging → Bool) : Steady s (mergeUpTo due t) := h.feeds (mergeUpTo_feeds due t)

/-! ### The data of calibration -/

theorem setProc_steady (h : Steady s t) (i : Nat) (x : CalProc) : Steady s (setProc i x t) := h.same

theorem countCode_steady (h : Steady s t) (c m f1 f2 : Nat) : Steady s (countCode c m f1 f2 t) := .ite h h.same

theorem twPair_steady (h : Steady s t) (ta a tb b : Nat) : Steady s (twPair ta a tb b t) := .ite h h.same

theorem ecalHit_steady (h : Steady s t) (w : Nat) (shared : Bool) : Steady s (ecalHit w shared t) := .ite h (.ite h h.same)

theorem twHit_steady (h : Steady s t) (ta w : Nat) : Steady s (twHit ta w t) := by
  unfold twHit
  extract_lets near s1
  have h1 : Steady s s1 := h.forAll fun _ _ hx => twPair_steady hx ..
  exact h1.same

theorem ecalSee_steady (h : Steady s t) (ta w : Nat) : Steady s (ecalSee ta w t) := by
  unfold ecalSee
  extract_lets win gone near s1 kept
  have h1 : Steady s s1 := h.forAll fun _ _ hx => ecalHit_steady hx ..
  exact h1.same

theorem calHit_steady (h : Steady s t) (frame w : Nat) : Steady s (calHit frame w t) := by
  unfold calHit
  extract_lets ta s1
  have h1 : Steady s s1 := .ite (twHit_steady h ..) h
  exact .ite (ecalSee_steady h1 ..) h1

theorem calCloses_steady (h : Steady s t) (a : FrameAcc) : Steady s (calCloses a t) := by
  unfold calCloses
  extract_lets mine _ s0 s1 hits
  have h0 : Steady s s0 := h.same
  have h1 : Steady s s1 := h0.forAll fun d _ hx => by
    split
    · exact .ite (countCode_steady hx ..) hx
    · exact hx
  exact .ite h0 (h1.forAll fun _ _ hx => calHit_steady hx ..)

/-! ### The frame builder -/

theorem putHistory_steady (h : Steady s t) (whole : Bool) (n : Nat) (hn : n < 10) (ws : List W64) (tag t0 t1 : Nat) :
    Steady s (putHistory whole n ws tag t0 t1 t) := h.ships (putHistory_ships whole n hn ws tag t0 t1 t)

theorem addBacklog_steady (h : Steady s t) (cls n : Nat) : Steady s (addBacklog cls n t) := h.same

theorem writeHistory_steady (h : Steady s t) (k : Nat) (a : FrameAcc) : Steady s (writeHistory k a t) :=
  .ite (putHistory_steady (addBacklog_steady h _ _) false 1 (by decide) _ _ _ _) h

theorem tickQuadrant_steady (h : Steady s t) (q : Nat) : Steady s (tickQuadrant q t) := by
  unfold tickQuadrant
  extract_lets k press quiet step k' quiet' kk _ s1 s2 s3
  have h1 : Steady s s1 := Steady.setFld h.same
  have h2 : Steady s s2 := .ite h1.bump (.ite h1.bump h1)
  have h3 : Steady s s3 := .ite h2.raise h2
  exact .ite h3.raise h3

theorem tickReducer_steady (h : Steady s t) : Steady s (tickReducer t) := by
  unfold tickReducer
  extract_lets press s1
  have h1 : Steady s s1 := h.forN fun q _ _ hx => tickQuadrant_steady hx q
  exact Steady.setFld h1.same

theorem standingPressure_steady (h : Steady s t) : Steady s (standingPressure t) :=
  h.forAll fun n x hx => hx.ships (notePressure_ships n x)

/-! ### Waveforms -/

theorem setWch_steady (h : Steady s t) (c : Nat) (x : WavCh) : Steady s (setWch c x t) := h.same

theorem startSettling_steady (h : Steady s t) (c : Nat) : Steady s (startSettling c t) :=
  setWch_steady (Steady.setBit h.same) c _

theorem waveCommit_steady (h : Steady s t) (old : Chip) : Steady s (waveCommit old t) := by
  unfold waveCommit
  extract_lets d mode s1 folly s2 bad news
  have h1 : Steady s s1 := h.forN fun c _ x hx => by
    extract_lets on fresh _ x1
    have hx1 : Steady s x1 := .ite (startSettling_steady hx c) (.ite (setWch_steady hx c _).setBit hx)
    exact .ite (clearArmings_steady (hx1.setFlag statAddr_indexed) c) hx1
  have h2 : Steady s s2 := .ite (h1.forN fun c _ _ hx => setWch_steady hx c _) h1
  exact .cond h2.setFld h2.setFld.raise

theorem tickWave_steady (h : Steady s t) (stepped : Bool) : Steady s (tickWave stepped t) :=
  h.forN fun c _ _ hx => .ite hx (setWch_steady hx c _)

/-! ### The cross-channel converter -/

theorem emitResult_steady (h : Steady s t) (r : XdcRes) : Steady s (emitResult r t) := by
  unfold emitResult
  extract_lets s1 q s2 _ s3 s4
  have h2 : Steady s s2 := by
    unfold s2
    split
    · exact h.bump.setBit
    · exact h.bump.setBit
  have h3 : Steady s s3 := h2.same
  have h4 : Steady s s4 := .ite h3.bump.raise (.ite h3.bump.raise h3)
  exact .ite (.ite h4.same h4.same) h4

theorem startEntry_steady (h : Steady s t) (n : Nat) (slot : Option Nat) (at_ : Nat) : Steady s (startEntry n slot at_ t) := h.same

theorem xdcNext_steady (h : Steady s t) (at_ : Nat) : Steady s (xdcNext at_ t) := by
  unfold xdcNext
  extract_lets _ s0 _ todo s1
  have h0 : Steady s s0 := h.same
  have h1 : Steady s s1 := h0.same
  clear_value todo
  refine .ite h0 ?_
  split
  · exact startEntry_steady h0 ..
  · split
    · exact startEntry_steady h0.same ..
    · split
      · exact startEntry_steady h1.same ..
      · exact h1.same

theorem endEntry_steady (h : Steady s t) (at_ : Nat) : Steady s (endEntry at_ t) := by
  unfold endEntry
  split
  · exact h
  · exact xdcNext_steady h.same at_

theorem abandonEntry_steady (h : Steady s t) : Steady s (abandonEntry t) := .ite (endEntry_steady h.bump _) h

theorem invalidOutput_steady (h : Steady s t) (r : XdcRun) (time raw : Nat) : Steady s (invalidOutput r time raw t) :=
  .ite (emitResult_steady h _) h.bump

theorem restartEntry_steady (h : Steady s t) : Steady s (restartEntry t) := by
  unfold restartEntry
  split
  · exact h
  · rename_i r _
    have h0 : Steady s t.drawFree.2 := h.same
    generalize t.drawFree = z at h0 ⊢
    extract_lets _ _ s1 r'
    have h1 : Steady s s1 := .ite (invalidOutput_steady h0 ..) h
    exact h1.same

theorem urgentRequest_steady (h : Steady s t) (u : Nat) : Steady s (urgentRequest u t) := by
  unfold urgentRequest
  extract_lets n drop _ s1
  have hdrop : Steady s (drop t) := h.bump.raise
  have h1 : Steady s s1 := (h.same (u := { t with xdc := { t.xdc with took := t.xdc.took ||| 2 ^ u, pend := t.xdc.pend ||| 2 ^ u } })).bump
  refine .ite h (.ite hdrop (.ite h (.ite hdrop ?_)))
  split
  · exact xdcNext_steady h1 _
  · exact .ite (startEntry_steady (Steady.same (h1.bump (f := F.XDC_PREEMPT_CNT_COUNT))) ..) h1

theorem urgentFrom_steady (h : Steady s t) (src sel : Nat) : Steady s (urgentFrom src sel t) :=
  h.forN fun u _ _ hx => .ite (urgentRequest_steady hx u) hx

theorem xdcCommit_steady (h : Steady s t) (old : Chip) : Steady s (xdcCommit old t) := by
  unfold xdcCommit
  extract_lets judged bad news s1 s2 _ from_ _ s1'
  have h1 : Steady s s1 := .cond h.setFld.setFld h.setFld.setFld.raise
  have h2 : Steady s s2 := .ite h1.bump h1
  refine .ite h2.same ?_
  have h1' : Steady s s1' := .ite h1 h1.same
  split
  · exact h1'
  · exact .ite (abandonEntry_steady h1') (.ite (restartEntry_steady h1'.same) h1')

theorem tickXdc_steady (h : Steady s t) : Steady s (tickXdc t) := .ite h (.ite h.same h.same)

end

end Sys2Proof.Machine
end

section
/-! PROOFS. The closing of a frame's contents, the stream channels and the time-input and pulse units keep the clock, the batch and the
event bits that are set. -/

namespace Sys2Proof.Machine

-- the lemmas are many and short: elaborated all at once they would take a thread each
set_option Elab.async false

section
variable {s t : Chip}

/-! ### Frames and waveform blocks -/

theorem writeFrame_steady (h : Steady s t) (a : FrameAcc) (readers : List Reader) : Steady s (writeFrame a readers t).2 := by
  unfold writeFrame
  extract_lets room s1
  have h1 : Steady s s1 := h.bump.bumpBy
  refine .iteSnd h1.raise ?_
  generalize t.frameWords a room = z
  obtain ⟨ws, cut⟩ := z
  have h2 : Steady s (if cut = true then raise EV.HIT_OVF (t.bumpBy F.HIT_OVF_CNT_COUNT (a.hits.length + 2 - ws.length)) else t) :=
    .ite h.bumpBy.raise h
  dsimp only
  generalize (if cut = true then raise EV.HIT_OVF (t.bumpBy F.HIT_OVF_CNT_COUNT (a.hits.length + 2 - ws.length)) else t) = x at h2 ⊢
  split
  · next hq => exact (addBacklog_steady h2 _ _).ships (putQueue_ships 0 (by decide) _ _ _ _ _ _ _ hq)
  · exact h2

theorem closeWave_steady (h : Steady s t) (k c frame kk : Nat) (hc : c < 4) : Steady s (closeWave k c frame kk t).2 := by
  unfold closeWave
  extract_lets tidy ws n t0 per
  have htidy : ∀ x, Steady s x → Steady s (tidy x) := fun x hx => setWch_steady hx _ _
  refine .iteSnd (htidy _ h) (.iteSnd (htidy _ (h.bumpBy statAddr_indexed).raise) (htidy _ ?_))
  exact putHistory_steady (addBacklog_steady h _ _) true (2 + c) (by omega) ..

/-! ### The stream channels -/

theorem deliverUnit_steady (h : Steady s t) (n l : Nat) (hn : n < 16) (c : StreamCfg) (frame epoch : Nat) (obj : Option Nat)
    (ws : List W64) (at_ : List Nat) (from_ : Nat) : Steady s (deliverUnit n l c frame epoch obj ws at_ from_ t) :=
  h.works (deliverUnit_works n l hn c frame epoch obj ws at_ from_ t)

theorem streamHits_steady (h : Steady s t) (k frame epoch id : Nat) (ws : List W64) : Steady s (streamHits k frame epoch id ws t) := by
  refine .ite h (h.forN fun n hn x hx => ?_)
  split
  · exact .ite hx (hx.forN fun l _ y hy => deliverUnit_steady hy n l hn ..)
  · exact hx

theorem streamWave_steady (h : Steady s t) (k ch frame epoch : Nat) (ws : List W64) : Steady s (streamWave k ch frame epoch ws t) := by
  refine .ite h (h.forN fun n hn x hx => ?_)
  split
  · exact .ite hx (hx.forN fun l _ y hy => deliverUnit_steady hy n l hn ..)
  · exact hx

theorem streamRecord_steady (h : Steady s t) (out : Nat) (id : Option Nat) (ws : List W64) : Steady s (streamRecord out id ws t) := by
  refine .ite h (h.forN fun n hn x hx => ?_)
  split
  · exact .ite hx (deliverUnit_steady hx n 0 hn ..)
  · exact hx

theorem leaveUnit_steady (h : Steady s t) (n : Nat) (u : StreamIn) : Steady s (leaveUnit n u t) := h.works (leaveUnit_works n u t)

theorem closeBlock_steady (h : Steady s t) (n l : Nat) (hn : n < 16) (drop : Bool) : Steady s (closeBlock n l drop t) :=
  h.works (closeBlock_works n l hn drop t)

theorem dropUnconsumed_steady (h : Steady s t) (n l : Nat) (hn : n < 16) : Steady s (dropUnconsumed n l t) := by
  unfold dropUnconsumed
  extract_lets x left s0 s1 s2
  have h0 : Steady s s0 := h.forAll fun u _ hx => leaveUnit_steady hx n u
  have h1 : Steady s s1 := Steady.works (h0.bumpBy statAddr_indexed) (setSlane_works n l _ _)
  have h2 : Steady s s2 := closeBlock_steady h1 n l hn true
  exact .ite (h0.works (setSlane_works n l _ _)) (h2.works (setSlane_works n l _ _)).raise

theorem endFrameInput_steady (h : Steady s t) (n l : Nat) (hn : n < 16) : Steady s (endFrameInput n l t) := by
  unfold endFrameInput
  split
  · exact .ite (closeBlock_steady h n l hn false) h
  · exact h

theorem endStreams_steady (h : Steady s t) : Steady s (endStreams t) := by
  unfold endStreams
  extract_lets s1 s2
  have h1 : Steady s s1 := h.forN fun n hn x hx => hx.forAll fun l y hy =>
    endFrameInput_steady (dropUnconsumed_steady (hy.works (workLane_works n l hn y)) n l hn) n l hn
  have h2 : Steady s s2 := h1.setFld
  clear_value s1
  exact h2.same

theorem tickStreams_steady (h : Steady s t) : Steady s (tickStreams t) := by
  refine Steady.forN (Steady.forN h fun n hn x hx => ?_) fun n hn x hx => hx.forAll fun l y hy => ?_
  · split
    · exact .ite hx (hx.works (newSettings_works n hn none x))
    · exact hx
  · split
    · exact hy.works (reportBacklog_works ..)
    · exact hy

theorem streamsCommit_steady (h : Steady s t) : Steady s (streamsCommit t) := by
  unfold streamsCommit
  extract_lets owners s1 bad fresh
  have h1 : Steady s s1 := h.forN fun _ _ _ hx => (hx.setFlag statAddr_indexed).setFld statAddr_indexed
  exact .cond h1.setFld h1.setFld.raise

theorem resetStreams_steady (h : Steady s t) : Steady s (resetStreams t) := by
  unfold resetStreams
  extract_lets s1
  have h1 : Steady s s1 := h.forN fun n _ _ hx => hx.forAll fun _ _ hy => hy.forAll fun u _ hz => leaveUnit_steady hz n u
  clear_value s1
  exact h1.same

/-! ### The time-input and pulse units -/

theorem setTip_steady (h : Steady s t) (k : Nat) (c : TipCh) : Steady s (setTip k c t) := h.same

theorem setPair_steady {lo hi : Fld} {v : Nat} (h : Steady s t) (hlo : statAddr lo.addr = false) (hhi : statAddr hi.addr = false) :
    Steady s (setPair lo hi v t) := (h.setFld hlo).setFld hhi

theorem writeXhist_steady (h : Steady s t) (kind time : Nat) (ws : List W64) : Steady s (writeXhist kind time ws t) := by
  unfold writeXhist
  extract_lets s1
  have h1 : Steady s s1 := putHistory_steady (addBacklog_steady h _ _) true 6 (by decide) ..
  exact .ite (h1.works (streamResult_works kind ws s1)) h1

theorem completeSet_steady (h : Steady s t) (k time : Nat) (c : TipCh) : Steady s (completeSet k time c t) := by
  unfold completeSet
  extract_lets n mean var dev s1 s2 s3 s4 s5 t1 s6
  have h1 : Steady s s1 := setPair_steady h statAddr_indexed statAddr_indexed
  have h3 : Steady s s3 := setPair_steady (h1.setFld statAddr_indexed) statAddr_indexed statAddr_indexed
  have h4 : Steady s s4 := setPair_steady h3 statAddr_indexed statAddr_indexed
  have h5 : Steady s s5 := (h4.setFld statAddr_indexed).bump statAddr_indexed
  have h6 : Steady s s6 := .ite (writeXhist_steady (h5.bump statAddr_indexed) ..) h5
  exact (setTip_steady h6 _ _).raise

theorem addToSet_steady (h : Steady s t) (k time : Nat) (v : Int) : Steady s (addToSet k time v t) :=
  .ite h (.ite (completeSet_steady h ..) (setTip_steady h _ _))

theorem tipResult_steady (h : Steady s t) (k typ : Nat) (v : Int) (time : Nat) (subRes noEdge : Bool) (n gate : Nat) :
    Steady s (tipResult k typ v time subRes noEdge n gate t) := by
  unfold tipResult
  extract_lets hist s1 flags s2 s3
  have h1 : Steady s s1 := setPair_steady (.cond h (h.bump statAddr_indexed)) statAddr_indexed statAddr_indexed
  have h2 : Steady s s2 := .ite (writeXhist_steady h1 ..) h1
  have h3 : Steady s s3 := .ite (addToSet_steady h2 ..) h2
  exact h3.feeds (measureResult_feeds ..)

theorem stopEdge_steady (h : Steady s t) (k u : Nat) : Steady s (stopEdge k u t) := by
  unfold stopEdge
  extract_lets c s1
  split
  · have h1 : Steady s s1 := setTip_steady h _ _
    exact .ite (h.bump statAddr_indexed) (tipResult_steady (.ite (h1.bump statAddr_indexed) h1) ..)
  · exact h.bump statAddr_indexed

theorem startEdge_steady (h : Steady s t) (k u : Nat) : Steady s (startEdge k u t) :=
  setTip_steady (.ite (h.bump statAddr_indexed) h) _ _

theorem expireTip_steady (h : Steady s t) (k : Nat) : Steady s (expireTip k t) :=
  ((setTip_steady h k _).bump statAddr_indexed).raise

theorem takeEdge_steady (h : Steady s t) (k : Nat) (e : Nat × Nat) : Steady s (takeEdge k e t) := by
  unfold takeEdge
  extract_lets u s0 c m s1
  have h0 : Steady s s0 := .ite (expireTip_steady h k) h
  split
  · have hstop : Steady s (cond (decide (0 < e.2)) (stopEdge k u) s0) := .cond h0 (stopEdge_steady h0 k u)
    exact .cond hstop (startEdge_steady hstop k u)
  · split
    · exact tipResult_steady (setTip_steady h0 _ _) ..
    · exact setTip_steady h0 _ _
  · exact setTip_steady h0 _ _
  · exact tipResult_steady (setTip_steady h0 _ _) ..

theorem setTi_steady (h : Steady s t) (n : Nat) (x : TiIn) : Steady s (setTi n x t) := h.same

theorem channelTakes_steady (h : Steady s t) (upto : Int) (k : Nat) : Steady s (channelTakes upto k t) :=
  .ite (h.forAll fun e _ hx => takeEdge_steady hx k e) h

theorem drainTips_steady (h : Steady s t) : Steady s (drainTips t) :=
  .ite (Steady.forN (h.forN fun k _ _ hx => channelTakes_steady hx _ k) fun n _ _ hx => setTi_steady hx n _) h

theorem settleTips_steady (h : Steady s t) : Steady s (settleTips t) :=
  h.forN fun k _ _ hx => .ite hx (channelTakes_steady hx _ k)

theorem setPo_steady (h : Steady s t) (j : Nat) (x : PoSt) : Steady s (setPo j x t) := h.same

theorem drivePo_steady (h : Steady s t) (j : Nat) (level : Bool) : Steady s (drivePo j level t) := h.same

theorem skipTo_steady (h : Steady s t) (j n : Nat) : Steady s (skipTo j n t) :=
  .ite h ((setPo_steady h j _).bump statAddr_indexed).raise

theorem newSchedule_steady (h : Steady s t) (j : Nat) : Steady s (newSchedule j t) := by
  unfold newSchedule
  extract_lets x live s1 s2
  have h2 : Steady s s2 := skipTo_steady (setPo_steady h j _) j _
  exact .ite h2 (drivePo_steady h2 j _)

theorem driveFrom_steady (h : Steady s t) (j : Nat) : Steady s (driveFrom j t) := .ite (skipTo_steady h j _) h

theorem trackPulses_steady (h : Steady s t) (old : Chip) : Steady s (trackPulses old t) := by
  refine h.forN fun j _ x hx => .ite ?_ (.ite (driveFrom_steady hx j) hx)
  have h1 : Steady s (drivePo j (x.flag (F.TIP_PO_CTL_POL j)) (setPo j { x.po j with on := none } x)) :=
    drivePo_steady (setPo_steady hx j _) j _
  exact .ite h1 (setPo_steady h1 j _)

theorem tipCommit_steady (h : Steady s t) (old : Chip) : Steady s (tipCommit old t) := by
  unfold tipCommit
  extract_lets word d s1 s2 s3 bad ch po fresh s4
  have h1 : Steady s s1 := h.forN fun n _ _ hx => .ite (setTi_steady hx n _) hx
  have h2 : Steady s s2 := h1.forN fun k _ _ hx => .ite (setTip_steady hx k _) (.ite (setTip_steady hx k _) hx)
  have h3 : Steady s s3 := h2.forN fun j _ _ hx => .ite (newSchedule_steady hx j) hx
  have h4 : Steady s s4 := .cond h3.setFld.setFld h3.setFld.setFld.raise
  exact .ite h4 h4.same

theorem tickTip_steady (h : Steady s t) (wasHold stepped : Bool) : Steady s (tickTip wasHold stepped t) := by
  unfold tickTip
  extract_lets hold s1
  have h1 : Steady s s1 := h.forN fun k _ _ hx => .ite (setTip_steady hx k _) (setTip_steady hx k _)
  exact .ite (h1.forN fun j _ _ hx => skipTo_steady hx j _) h1

end

end Sys2Proof.Machine
end

section
/-! PROOFS. The calibration engine keeps the clock, the batch and the event bits that are set. -/

namespace Sys2Proof.Machine

-- the lemmas are many and short: elaborated all at once they would take a thread each
set_option Elab.async false

section
variable {s t : Chip}

/-- A step that goes on from the second part of a pair. -/
theorem Steady.letPair {α : Type} {p : α × Chip} {g : α → Chip → Chip} (h : Steady s p.2)
    (k : ∀ a x, Steady s x → Steady s (g a x)) : Steady s (Prod.casesOn p g) := k p.1 p.2 h

theorem drawFree_steady (h : Steady s t) : Steady s t.drawFree.2 := h.same

/-! ### Runs -/

theorem showRunning_steady (h : Steady s t) (i : Nat) (b : Bool) : Steady s (showRunning i b t) := (h.setFlag statAddr_indexed).setBit

theorem showPending_steady (h : Steady s t) (i : Nat) (b : Bool) : Steady s (showPending i b t) := (h.setFlag statAddr_indexed).setBit

theorem clearData_steady (h : Steady s t) (i : Nat) : Steady s (clearData i t) := by
  unfold clearData
  extract_lets
  split <;> exact h.same

theorem beginRun_steady (h : Steady s t) (i : Nat) : Steady s (beginRun i t) := by
  unfold beginRun
  extract_lets x s0
  have h0 : Steady s s0 := setProc_steady h i _
  exact .ite h0 (.ite (setProc_steady h i _).setFld.raise
    (showRunning_steady (clearData_steady (setProc_steady h0 i _) i) i true))

theorem leaveExt_steady (h : Steady s t) : Steady s (leaveExt t) :=
  showRunning_steady ((h.same (u := { t with cal := { t.cal with ext := none, extFirst := false, win := [], winFrames := 0 } })).forAll
    fun c _ hx => startSettling_steady hx c) 5 false

theorem aborted_steady (h : Steady s t) (i : Nat) : Steady s (aborted i t) := (h.setFld statAddr_indexed).bump statAddr_indexed

theorem abortRuns_steady (h : Steady s t) (mask : Nat) : Steady s (abortRuns mask t) := by
  unfold abortRuns
  extract_lets s1
  have h1 : Steady s s1 := h.forN fun i _ _ hx =>
    .ite (aborted_steady (showRunning_steady (clearData_steady (setProc_steady hx i _) i) i false) i) hx
  exact .ite (aborted_steady (leaveExt_steady h1) 5) h1

/-! ### Results -/

theorem noteOverride_steady (h : Steady s t) : Steady s (noteOverride t) := h.bump.raise

theorem engineField_steady (h : Steady s t) (f : Fld) (v : Nat) (done : SMap 32) : Steady s (engineField f v done t).2 :=
  .iteSnd (noteOverride_steady h) (.iteSnd (noteOverride_steady h.same) h.same)

theorem setTableByte_steady (h : Steady s t) (m a v : Nat) : Steady s (setTableByte m a v t) := memWrite_steady h ..

theorem setTableBits_steady (h : Steady s t) (m a mask v : Nat) : Steady s (setTableBits m a mask v t) := setTableByte_steady h ..

theorem engineByte_steady (h : Steady s t) (m a b v : Nat) (done : SMap 32) : Steady s (engineByte m a b v done t).2 :=
  .iteSnd (noteOverride_steady h)
    (.iteSnd (noteOverride_steady (setTableBits_steady h ..)) (setTableBits_steady (setTableBits_steady h ..) ..))

theorem applyConverter_steady (h : Steady s t) (i c : Nat) (done : SMap 32) : Steady s (applyConverter i c done t) := by
  unfold applyConverter
  extract_lets a r
  have hr : Steady s r.2.2 := Steady.fold (chip := fun b : List Nat × Bool × Chip => b.2.2) h fun b w hb => memRead_steady hb 6 (a / 8 + w)
  refine .ite (hr.setFld statAddr_indexed) (hr.forN fun w _ x hx => ?_)
  extract_lets key bytes
  have hbytes : ∀ m y, Steady s y → Steady s (bytes m y) := fun m y hy => hy.forN fun b _ z hz => setTableByte_steady hz ..
  exact .ite (noteOverride_steady hx) (.ite (noteOverride_steady (hbytes 4 x hx)) (hbytes 5 _ (hbytes 4 x hx)))

theorem applyOffset_steady (h : Steady s t) (key : Nat) (done : SMap 32) : Steady s (applyOffset key done t) := by
  unfold applyOffset
  extract_lets a
  have h1 := memRead_steady h 6 (a / 8)
  generalize memRead 6 (a / 8) t = r at h1 ⊢
  exact .ite (Steady.setFld h1) (engineByte_steady h1 ..)

theorem applyResults_steady (h : Steady s t) (i : Nat) (done : SMap 32) : Steady s (applyResults i done t) := by
  unfold applyResults
  extract_lets x s0 tab
  have h0 : Steady s s0 := (showPending_steady (setProc_steady h i _) i false).setFld statAddr_indexed
  clear_value s0
  split
  · exact h0.same
  · exact h0.forAll fun c _ hx => applyConverter_steady hx ..
  · exact h0.forAll fun c _ hx => applyConverter_steady hx ..
  · exact Steady.forAll h0.same fun _ _ hx => engineField_steady hx ..
  · exact h0.same
  · exact h0.forAll fun key _ hx => applyOffset_steady hx key done
  · exact Steady.forAll h0.same fun _ _ hx => (engineField_steady hx ..).setFlag statAddr_indexed
  · exact h0

/-! ### Quiet windows -/

theorem quietFrameEnds_steady (h : Steady s t) (act : Option Nat) : Steady s (quietFrameEnds act t) := by
  unfold quietFrameEnds
  split <;> exact h.same

theorem interrupt_steady (h : Steady s t) (act : Option Nat) : Steady s (interrupt act t) := by
  unfold interrupt
  extract_lets
  split
  · exact Steady.bump h.same
  · exact Steady.bump h.same
  · exact Steady.bump h.same
  · exact h

theorem skipMasked_steady (h : Steady s t) : Steady s (skipMasked t) := h.same

theorem tickQuiet_steady (h : Steady s t) (old : Chip) : Steady s (tickQuiet old t) := by
  unfold tickQuiet
  extract_lets run clear quiet act held _ s1 s2
  have h1 : Steady s s1 := h.same
  have h2 : Steady s s2 := .ite (quietFrameEnds_steady h1 act) (.ite (interrupt_steady (quietFrameEnds_steady h1 act) act)
    (quietFrameEnds_steady (interrupt_steady h1 act) act))
  exact skipMasked_steady h2.setFlag

/-! ### Slices -/

theorem setSlice_steady (h : Steady s t) (i : Nat) (x : SliceSt) : Steady s (setSlice i x t) := h.same

theorem judgeSlice_steady (h : Steady s t) (i : Nat) (win : Table (List (Nat × Int))) : Steady s (judgeSlice i win t) := by
  unfold judgeSlice
  split
  · exact h
  · extract_lets slices l isAt codesOf all mean sq minrms absOf low off skew a a0
    have h0 := drawFree_steady h
    generalize t.drawFree = z0 at h0 ⊢
    refine .ite (h.setFlag statAddr_indexed) ?_
    obtain ⟨fv, x0⟩ := z0
    have h1 := drawFree_steady h0
    simp -zeta only
    generalize x0.drawFree = z1 at h1 ⊢
    obtain ⟨spur, x1⟩ := z1
    simp -zeta only
    extract_lets skewHi skewLo inside x y s2 s3
    have h2 : Steady s s2 := ((setSlice_steady h1 i y).setFlag statAddr_indexed).setFld
    have h3 : Steady s s3 := .ite (h2.setFlag statAddr_indexed) (.ite (h2.setFlag statAddr_indexed) h2)
    exact h3.setFld statAddr_indexed

theorem sliceStep_steady (h : Steady s t) (f : Fld) (target : Int) (done : SMap 32) : Steady s (sliceStep f target done t).2 :=
  .iteSnd h (engineField_steady h ..)

theorem followSlice_steady (h : Steady s t) (i : Nat) (done : SMap 32) : Steady s (followSlice i done t) :=
  .letPair (sliceStep_steady h ..) fun _ _ h1 => .letPair (sliceStep_steady h1 ..) fun _ _ h2 =>
    .letPair (sliceStep_steady h2 ..) fun _ _ h3 => .ite (setSlice_steady h3 i _) h3

theorem adoptSlice_steady (h : Steady s t) (i : Nat) (old : Chip) (done : SMap 32) : Steady s (adoptSlice i old done t) := by
  unfold adoptSlice
  extract_lets x moving s1 t1
  have h1 : Steady s s1 := .ite (noteOverride_steady h) h
  exact .ite (setSlice_steady h1 i _) h1

theorem followSlices_steady (h : Steady s t) (slices : List Nat) (old : Chip) (done : SMap 32) :
    Steady s (forAll slices (fun i s => followSlice i done (adoptSlice i old done s)) t) :=
  h.forAll fun i _ hx => followSlice_steady (adoptSlice_steady hx i old done) i done

theorem tickSlices_steady (h : Steady s t) (old : Chip) (done : SMap 32) : Steady s (tickSlices old done t) := by
  unfold tickSlices
  refine .ite h ?_
  split
  · extract_lets n' _ s1 slices seen win s2
    refine .ite (Steady.forAll (showRunning_steady h.same 5 true) fun c _ hx => setWch_steady hx.setBit c _) (.ite h ?_)
    have h2 : Steady s s2 := .ite (h.forAll fun i _ hx => judgeSlice_steady hx i win) h
    clear_value s2
    exact followSlices_steady h2.same ..
  · extract_lets slices s1
    have h1 : Steady s s1 := followSlices_steady h ..
    clear_value s1
    exact .ite h1.same (Steady.forAll h1.same fun i _ hx => setSlice_steady hx i _)

theorem tickAp_steady (h : Steady s t) : Steady s (tickAp t) := by
  unfold tickAp
  refine .ite h ?_
  split
  · exact setWch_steady (Steady.setBit h.same) _ _
  · exact h

/-! ### The tick of the engine -/

theorem tickProc_steady (h : Steady s t) (done : SMap 32) (i : Nat) : Steady s (tickProc done i t) := by
  unfold tickProc
  extract_lets x age s1 max_ fall s2 _ s3
  have h1 : Steady s s1 := .ite h (h.setFld statAddr_indexed)
  have h2 : Steady s s2 := setProc_steady h1 i _
  have h3 : Steady s s3 := by
    unfold s3
    split
    · exact applyResults_steady h2 i done
    · exact applyResults_steady h2 i done
    · exact setProc_steady h2 i _
    · exact h2
  exact beginRun_steady h3 i

theorem restartRun_steady (h : Steady s t) (old : Chip) (i : Nat) : Steady s (restartRun old i t) := .ite (clearData_steady h i) h

theorem dropTargets_steady (h : Steady s t) (done : SMap 32) : Steady s (dropTargets done t) :=
  Steady.forN h.same fun _ _ _ hx => noteOverride_steady hx

theorem tickCal_steady (h : Steady s t) (old : Chip) (done : SMap 32) : Steady s (tickCal old done t) := by
  unfold tickCal
  extract_lets s1 _ s2
  have h1 : Steady s s1 := dropTargets_steady (tickQuiet_steady h old) done
  clear_value s1
  have h2 : Steady s s2 := Steady.forN h1.same fun i _ _ hx => tickProc_steady hx done i
  exact tickAp_steady (tickSlices_steady (h2.forN fun i _ _ hx => restartRun_steady hx old i) old done)

end

end Sys2Proof.Machine
end

section
/-! PROOFS. The loops, the safety conditions, the trigger decisions and the records keep the clock, the batch and the event bits that are
set. -/

namespace Sys2Proof.Machine

-- the lemmas are many and short: elaborated all at once they would take a thread each
set_option Elab.async false

section
variable {s t : Chip}

/-! ### The loops -/

theorem sendActuate_steady (h : Steady s t) (l : Nat) (urgent : Bool) (seg : Nat) (a : FrameAcc) (out m e : Int) (flags : Nat) :
    Steady s (sendActuate l urgent seg a out m e flags t) := by
  unfold sendActuate
  extract_lets seq s1 d dest w0 ws o r
  have h1 : Steady s s1 := h.setFld
  have hr : Steady s r.2 := .iteSnd (claimCheck_steady h1 w0) (sendDrop_steady h1 o)
  exact .ite hr.bump hr.bump.raise

/-- The chip of an evaluation in progress is steady, and so are the sendings that wait for its end. -/
def SteadyWith (s : Chip) (acc : Chip × List (Chip → Chip)) : Prop :=
  Steady s acc.1 ∧ ∀ g ∈ acc.2, ∀ x, Steady s x → Steady s (g x)

theorem closeLoop_steady (h : Steady s t) (k : Nat) (a : FrameAcc) (vals : List (Int × Bool × Bool)) (l : Nat) :
    Steady s (closeLoop k a vals l t).1 ∧ ∀ g ∈ (closeLoop k a vals l t).2, ∀ x, Steady s x → Steady s (g x) := by
  unfold closeLoop
  extract_lets m g gated hold i out r flags s1 s2 emit
  have h1 : Steady s s1 := .ite h h.bump.raise
  refine ⟨((h1.setFld statAddr_indexed).setFld statAddr_indexed).setFld statAddr_indexed, fun q hq x hx => ?_⟩
  obtain ⟨_, hsend⟩ := Option.ite_none_right_eq_some.mp hq
  obtain rfl := Option.some.inj hsend
  exact sendActuate_steady hx ..

theorem clearOff_steady (h : Steady s t) (ok : List Bool) : Steady s (clearOff ok t) :=
  h.forN fun _ _ _ hx => .ite hx ((hx.setFld statAddr_indexed).setBit statAddr_indexed)

theorem evaluateLoops_steady (h : Steady s t) (k : Nat) (a : FrameAcc) : Steady s (evaluateLoops k a t) := by
  unfold evaluateLoops
  extract_lets vals s1 s2 ok r
  have h2 : Steady s s2 := Steady.forN (h.forN fun _ _ _ hx => hx.setFld statAddr_indexed) fun _ _ _ hx => hx.setFld statAddr_indexed
  have hr : SteadyWith s r := by
    refine List.foldlRecOn _ _ ⟨h2, fun _ hg => absurd hg List.not_mem_nil⟩ fun acc hacc l _ => ?_
    split
    · obtain ⟨hc, hg⟩ := closeLoop_steady hacc.1 k a vals l
      refine ⟨hc, fun g hm => ?_⟩
      rcases List.mem_append.mp hm with hm | hm
      · exact hacc.2 g hm
      · exact hg g (Option.mem_toList.mp hm)
    · exact hacc
  have hsent : Steady s (r.2.foldl (fun x g => g x) r.1) := List.foldlRecOn _ _ hr.1 fun x hx g hg => hr.2 g hg x hx
  exact .ite (clearOff_steady h _) (.ite h2 (mirrorAfterEval_steady hsent _))

theorem loopsCommit_steady (h : Steady s t) (old : Chip) : Steady s (loopsCommit old t) := by
  unfold loopsCommit
  extract_lets ok s1 bad fresh
  have h1 : Steady s s1 := h.forN fun _ _ _ hx => .ite ((hx.setFld statAddr_indexed).setFld statAddr_indexed) hx
  exact .cond h1.setFld.setFld h1.setFld.setFld.raise

/-! ### The safety conditions -/

theorem setSc_steady (h : Steady s t) (c : Nat) (x : ScState) : Steady s (setSc c x t) := h.same

theorem stopAsserting_steady (h : Steady s t) (c : Nat) : Steady s (stopAsserting c t) := by
  unfold stopAsserting
  extract_lets _ s1
  have h1 : Steady s s1 := setSc_steady h.setBit c _
  exact h1.same

theorem refuseRelease_steady (h : Steady s t) : Steady s (refuseRelease t) := h.bump.raise

theorem tickSafety_steady (h : Steady s t) : Steady s (tickSafety t) := by
  refine h.forN fun c _ x hx => ?_
  have h1 : Steady s (setSc c { x.scState c with frames := (x.scState c).frames + 1, release := false } x) := setSc_steady hx c _
  exact .ite h1 (.ite (refuseRelease_steady h1) (.ite (stopAsserting_steady h1.setBit c) h1.setBit))

theorem safetyCommit_steady (h : Steady s t) : Steady s (safetyCommit t) := by
  unfold safetyCommit
  extract_lets ok s1 s2 s3 bad fresh
  have h1 : Steady s s1 := h.forN fun _ _ _ hx => .cond hx hx.setBit
  have h2 : Steady s s2 := h1.forN fun c _ _ hx => .ite hx (setSc_steady hx c _)
  have h3 : Steady s s3 := h2.forN fun n _ x hx => hx.feeds (evalLevel_feeds ok n _ x)
  exact .cond h3.setFld h3.setFld.raise

/-! ### Trigger decisions -/

theorem setOut_steady (h : Steady s t) (n : Nat) (o : OutSt) : Steady s (setOut n o t) := h.same

theorem outputTerms_steady (h : Steady s t) (k n frame : Nat) : Steady s (outputTerms k n frame t).2 :=
  Steady.fold (chip := fun b : List Met × Chip => b.2) h fun _ _ hb => .iteSnd hb hb.same

theorem takeTrigger_steady (h : Steady s t) (k n frame : Nat) (m : Met) (why : Why) : Steady s (takeTrigger k n frame m why t) := by
  unfold takeTrigger
  extract_lets _ _ r s1 s2 s3 s4 s5 c t1 _ s6
  have h1 : Steady s s1 := noteFill_steady (setOut_steady h.same n _) 7
  have h3 : Steady s s3 := ((h1.setFld.setFld statAddr_indexed).bump).bump statAddr_indexed
  have h4 : Steady s s4 := .ite h3 h3.bump
  have h5 : Steady s s5 := .ite h4.raise h4
  have ht : Steady s t1 := h5.setFld statAddr_indexed
  have h6 : Steady s s6 := .ite (.ite (setOut_steady ht n _).raise ht) h5
  refine .ite (Steady.bump h.same statAddr_indexed) (.ite (setOut_steady h n _).bump.raise ?_)
  exact urgentFrom_steady (h6.feeds (measureRecord_feeds n s6)) 2 n

theorem decideOutput_steady (h : Steady s t) (k frame n : Nat) : Steady s (decideOutput k frame n t) := by
  unfold decideOutput
  have h1 := outputTerms_steady h k n frame
  generalize outputTerms k n frame t = z at h1 ⊢
  obtain ⟨ms, s1⟩ := z
  simp -zeta only
  extract_lets o s2 start _ done
  have h2 : Steady s s2 := setOut_steady h1 n _
  have hd : Steady s done := setOut_steady h2 n _
  refine .ite h2 ?_
  split
  · exact takeTrigger_steady hd ..
  · exact .ite (takeTrigger_steady hd ..) (.ite (takeTrigger_steady h2 ..) h2)

theorem lateEvent_steady (h : Steady s t) (e : TrigEvent) : Steady s (lateEvent e t) := by
  unfold lateEvent
  extract_lets k r
  have hr : Steady s r.2 := Steady.fold (chip := fun b : Bool × Chip => b.2) h fun _ _ hb => .iteSnd (takeTrigger_steady hb ..) hb
  exact .ite hr hr.bump.raise

/-! ### Records -/

theorem hitPart_steady (h : Steady s t) (r : RecSt) (frame : Nat) (p : Part) : Steady s (hitPart r frame p t).2 := by
  unfold hitPart
  refine .iteSnd h ?_
  split
  · exact h
  · next o _ =>
    have h1 := readObj_steady h 1 o
    generalize readObj 1 o t = z at h1 ⊢
    exact h1

theorem wavePart_steady (h : Steady s t) (r : RecSt) (frame c : Nat) (p : Part) : Steady s (wavePart r frame c p t).2 := by
  unfold wavePart
  refine .iteSnd h ?_
  split
  · exact h
  · next o _ =>
    have h1 := readObj_steady h (2 + c) o
    generalize readObj (2 + c) o t = z at h1 ⊢
    exact h1

theorem resultPart_steady (h : Steady s t) (r : RecSt) (frame : Nat) (p : Part) : Steady s (resultPart r frame p t).2 := by
  unfold resultPart
  refine .iteSnd h (Steady.fold (chip := fun b : Part × Chip => b.2) h fun b o hb => ?_)
  have h1 := readObj_steady hb 6 o
  generalize readObj 6 o b.2 = z at h1 ⊢
  exact h1

theorem framePart_steady (h : Steady s t) (r : RecSt) (frame : Nat) : Steady s (framePart r frame t).2 := by
  unfold framePart
  extract_lets p0
  have h1 := hitPart_steady h r frame p0
  generalize hitPart r frame p0 t = z1 at h1 ⊢
  have h2 : Steady s ((List.range 4).foldl (fun (acc : Part × Chip) c => wavePart r frame c acc.1 acc.2) z1).2 :=
    Steady.fold (chip := fun b : Part × Chip => b.2) h1 fun _ _ hb => wavePart_steady hb ..
  exact resultPart_steady h2 r frame _

theorem handStore_steady (h : Steady s t) (o : StoObj) : Steady s (handStore o t) := h.works (handStore_works o t)

theorem deliverChunk_steady (h : Steady s t) (r : RecSt) (last : Bool) : Steady s (deliverChunk r last t) := by
  unfold deliverChunk
  extract_lets ws store ring whole readers copy
  generalize hq : putQueue 7 ws r.seq r.t0 r.tend readers (addBacklog 2 (8 * ws.length) t) = q
  split
  next id s1 hz =>
  have h1 : Steady s s1 := by
    split at hz
    · obtain ⟨rfl, rfl⟩ := Prod.mk.inj hz
      exact (addBacklog_steady h _ _).ships (putQueue_ships 7 (by decide) _ _ _ _ _ _ _ hq)
    · obtain ⟨rfl, rfl⟩ := Prod.mk.inj hz
      exact h
  extract_lets s2 s3
  have h2 : Steady s s2 := .ite (sendContent_steady h1 ..) h1
  have h3 : Steady s s3 := .ite (streamRecord_steady h2 ..) h2
  refine .ite ?_ h3
  split
  · exact handStore_steady h3 _
  · exact refuseObject_steady h3

theorem setRec_steady (h : Steady s t) (seq : Nat) (r : Option RecSt) : Steady s (setRec seq r t) := noteFill_steady h.same 7

theorem endRecord_steady (h : Steady s t) (r : RecSt) : Steady s (endRecord r t) := deliverChunk_steady (setRec_steady h _ _) _ _

theorem truncateRecord_steady (h : Steady s t) (r : RecSt) (frame : Nat) : Steady s (truncateRecord r frame t) :=
  endRecord_steady h.bump.raise _

theorem appendFrame_steady (h : Steady s t) (seq frame : Nat) : Steady s (appendFrame seq frame t) := by
  unfold appendFrame
  split
  · exact h
  · next r0 _ =>
    have h1 := framePart_steady h r0 frame
    generalize framePart r0 frame t = z at h1 ⊢
    obtain ⟨p, s1⟩ := z
    simp -zeta only
    extract_lets put s2 r1 r2 s3
    have hput : ∀ r x, Steady s x → Steady s (put r x) := fun r x hx =>
      .ite (deliverChunk_steady (setRec_steady hx _ _) _ _) (setRec_steady hx _ _)
    have h2 : Steady s s2 := .ite h1 h1.bump.raise
    have h3 : Steady s s3 := deliverChunk_steady (setRec_steady h2 _ _) _ _
    exact .ite (hput _ _ h1) (.ite (.ite (hput _ _ h3) (truncateRecord_steady h3 ..)) (truncateRecord_steady h1 ..))

theorem finishRecord_steady (h : Steady s t) (seq frame : Nat) : Steady s (finishRecord seq frame t) := by
  unfold finishRecord
  split
  · exact .ite (endRecord_steady h _) h
  · exact h

theorem assembleStart_steady (h : Steady s t) (seq frame : Nat) : Steady s (assembleStart seq frame t) := by
  unfold assembleStart
  split
  · exact h
  · extract_lets clip clipped start _ r first s1 upto s2
    have h1 : Steady s s1 := .ite (setRec_steady h _ _).bump.raise (setRec_steady h _ _)
    have h2 : Steady s s2 := .ite h1 (h1.forN fun _ _ _ hx => appendFrame_steady hx ..)
    exact finishRecord_steady h2 seq frame

theorem assembleNew_steady (h : Steady s t) (seqs : List Nat) (frame : Nat) : Steady s (assembleNew seqs frame t) :=
  h.forAll fun q _ hx => assembleStart_steady hx q frame

theorem closeTriggers_steady (h : Steady s t) (k frame : Nat) : Steady s (closeTriggers k frame t) := by
  unfold closeTriggers
  extract_lets s0 old s1 _ s2 s3
  have h0 : Steady s s0 := mergeUpTo_steady h _
  have h1 : Steady s s1 := h0.forN fun n _ _ hx => decideOutput_steady hx k frame n
  clear_value s1
  have h2 : Steady s s2 := h1.same
  have h3 : Steady s s3 := h2.forAll fun q x hx => by
    split
    · exact finishRecord_steady (.ite (appendFrame_steady hx ..) hx) ..
    · exact hx
  exact .ite h0 (assembleNew_steady h3 old frame)

theorem judgeLate_steady (h : Steady s t) : Steady s (judgeLate t) := by
  unfold judgeLate
  extract_lets from_ late old _ s1
  have h1 : Steady s s1 := h.same
  exact .ite h (assembleNew_steady (h1.forAll fun e _ hx => lateEvent_steady hx e) old _)

theorem tickArm_steady (h : Steady s t) : Steady s (tickArm t) := by
  unfold tickArm
  extract_lets s1
  have h1 : Steady s s1 := h.forN fun n _ x hx => by
    extract_lets o
    split
    · exact ((setOut_steady hx n _).setFld statAddr_indexed).setFld statAddr_indexed
    · exact hx
  clear_value s1
  exact h1.same

theorem tickAuto_steady (h : Steady s t) : Steady s (tickAuto t) := h.forN fun n _ _ hx => .ite hx (setOut_steady hx n _)

theorem dropRecords_steady (h : Steady s t) : Steady s (dropRecords t) := h.same

end

end Sys2Proof.Machine
end

section
/-! PROOFS. The scrubber, the lanes, the domain resets, the ring credits and the commit keep the clock, the batch and the event bits that
are set. -/

namespace Sys2Proof.Machine

-- the lemmas are many and short: elaborated all at once they would take a thread each
set_option Elab.async false

section
variable {s t : Chip}

theorem tickScrub_steady (h : Steady s t) : Steady s (tickScrub t) := h.same

theorem refreshDigests_steady (h : Steady s t) : Steady s (refreshDigests t) := h.same

theorem tickHeartbeat_steady (h : Steady s t) : Steady s (tickHeartbeat t) := h.same

/-! ### The lanes -/

/-- A raising of an event of a port. -/
theorem Steady.raisePort {e : Port → Nat} (h : Steady s t) (p : Port) (he : e .east < 384 := by decide)
    (hw : e .west < 384 := by decide) : Steady s (Sys2Proof.Machine.raise (e p) t) := by
  cases p
  · exact h.raise he
  · exact h.raise hw

theorem setExch_steady (h : Steady s t) (p : Port) (x : Exch) : Steady s (t.setExch p x) := by
  cases p
  · exact h.same
  · exact h.same

theorem freeEgress_steady (h : Steady s t) (q : TxPkt) : Steady s (freeEgress q t) := by
  unfold freeEgress
  split
  · exact h
  · exact h.ships (freeObj_ships ..)
  · exact h

theorem loseAll_steady (h : Steady s t) (p : Port) (qs : List TxPkt) : Steady s (loseAll p qs t) :=
  (h.bumpBy statAddr_indexed).forAll fun q _ hx => freeEgress_steady hx q

theorem portDown_steady (h : Steady s t) (p : Port) : Steady s (portDown p t) := by
  unfold portDown
  extract_lets x s1 _ s2 qs
  have h1 : Steady s s1 := loseAll_steady (h.bumpBy statAddr_indexed) p _
  have h2 : Steady s s2 := setPort_steady h1 p _
  exact .ite (h2.announces (startWrap_announces raise_quiet p s2)) (loseAll_steady (setPort_steady h2 p _) p _)

theorem setLnState_steady (h : Steady s t) (p : Port) (v : Nat) : Steady s (setLnState p v t) := h.setFld statAddr_indexed

theorem leaveTrained_steady (h : Steady s t) (p : Port) : Steady s (leaveTrained p t) := by
  unfold leaveTrained
  extract_lets x s0 _ s1 s2 s3
  have h1 : Steady s s1 := setExch_steady ((setLane_steady h p _).setFlag statAddr_indexed) p _
  have h2 : Steady s s2 := portDown_steady (setLnState_steady h1 p 1) p
  have h3 : Steady s s3 := (h2.bump statAddr_indexed).raisePort (e := EV.LN_LINK_DOWN) p
  clear_value s3
  exact .ite h3.same h1

theorem startTraining_steady (h : Steady s t) (p : Port) : Steady s (startTraining p t) := by
  unfold startTraining
  extract_lets s0 _ s1 s2
  have h1 : Steady s s1 := setLane_steady (leaveTrained_steady h p) p _
  have h2 : Steady s s2 := ((h1.setFld statAddr_indexed).setFld statAddr_indexed).setFld statAddr_indexed
  exact .ite ((setLnState_steady h2 p 0).setFld statAddr_indexed) (setLnState_steady (h2.setFld statAddr_indexed) p _)

theorem raiseInring_steady (h : Steady s t) : Steady s (raiseInring t) := by
  unfold raiseInring
  extract_lets s1
  have h1 : Steady s s1 := h.setFlag.setFlag.setFlag
  exact Steady.raise h1.same

theorem lowerInring_steady (h : Steady s t) : Steady s (lowerInring t) := by
  unfold lowerInring
  extract_lets s1
  have h1 : Steady s s1 := h.setFlag.setFlag.setFlag
  exact .ite h (Steady.raise h1.same)

theorem couple_steady (h : Steady s t) (p : Port) : Steady s (couple p t) :=
  (h.same (u := dropToggles p t)).forAll fun _ _ hx => hx.bump.latchBit.raise

theorem moveTaps_steady (h : Steady s t) (p : Port) (k new : Nat) : Steady s (moveTaps p k new t) := by
  unfold moveTaps
  refine h.setFld ?_
  unfold eqF laneF
  simp only [Nat.add_assoc]
  exact statAddr_indexed

theorem adaptLanes_steady (h : Steady s t) (p : Port) : Steady s (adaptLanes p t) := by
  refine .ite h (h.forAll fun k x hx => .ite hx ?_)
  exact moveTaps_steady (drawFree_steady hx) p k _

theorem setRate_steady (h : Steady s t) (p : Port) (v : Bool) : Steady s (setRate p v t) :=
  .ite h ((h.setFlag statAddr_indexed).raisePort (e := EV.LN_FALLBACK) p)

theorem setMode_steady (h : Steady s t) (p : Port) (m : Nat) : Steady s (setMode p m t) :=
  (setLane_steady h p _).setFlag statAddr_indexed

theorem deriveGap_steady (h : Steady s t) (p : Port) : Steady s (deriveGap p t) := by
  unfold deriveGap
  extract_lets g s1
  have h1 : Steady s s1 := h.setFld statAddr_indexed
  exact .ite (h1.raisePort (e := EV.LN_BYPASS_LIMIT) p) h1

theorem laneAction_steady (h : Steady s t) (x : Nat) (p : Port) : Steady s (laneAction x p t) := by
  unfold laneAction
  split
  · exact startTraining_steady (setRate_steady (setLane_steady h p _) p _) p
  · exact .ite (setMode_steady h p _) h
  · exact .ite h (startTraining_steady (h.setFld statAddr_indexed) p)
  · exact .ite h (startTraining_steady (h.setFlag statAddr_indexed) p)
  · exact h

theorem tickLanes_steady (h : Steady s t) : Steady s (tickLanes t) := by
  unfold tickLanes
  extract_lets s0 s1 _ s2
  have h0 : Steady s s0 := adaptLanes_steady (adaptLanes_steady h _) _
  have h1 : Steady s s1 := h0.forAll fun w _ hx => hx.forAll fun p _ hy => laneAction_steady hy w.toNat p
  clear_value s1
  have h2 : Steady s s2 := h1.same
  split
  · exact .ite h2 (raiseInring_steady h2)
  · exact lowerInring_steady h2
  · exact h2

theorem countPorts_steady (h : Steady s t) : Steady s (countPorts t) :=
  Steady.forAll h.same fun p _ hx => setPort_steady hx p _

theorem rateCommit_steady (h : Steady s t) (old : Chip) (p : Port) : Steady s (rateCommit old p t) := by
  unfold rateCommit
  extract_lets changed off _ s1
  have h1 : Steady s s1 := .ite (setLane_steady h p _) h
  exact .ite (setRate_steady h1 p _) h1

theorem lanesCommit_steady (h : Steady s t) (old : Chip) : Steady s (lanesCommit old t) := by
  refine h.forAll fun p x hx => ?_
  extract_lets en s0 s1 s2
  have h0 : Steady s s0 := .ite hx (hx.forN fun k _ _ hy => moveTaps_steady hy p k _)
  have h1 : Steady s s1 := rateCommit_steady h0 old p
  have h2 : Steady s s2 := .ite (startTraining_steady h1 p) h1
  exact .ite h2 (deriveGap_steady h2 p)

/-! ### The budget ledgers -/

theorem statAddr_ledger {i : Nat} (hi : i < 8) : statAddr (0x1040 + 4 * i) = false := statAddr_before (by omega)

theorem evalShadowLedgers_steady (h : Steady s t) : Steady s (evalShadowLedgers t) :=
  .ite h (Steady.forN h.same fun _ hi _ hx => hx.setFld (statAddr_ledger hi))

theorem evalActiveLedgers_steady (h : Steady s t) : Steady s (evalActiveLedgers t) :=
  h.forN fun _ hi _ hx => hx.setFld (statAddr_ledger hi)

/-! ### Domain resets -/

theorem abandonReaders_steady (h : Steady s t) (n : Nat) : Steady s (abandonReaders n t) := by
  unfold abandonReaders
  extract_lets mine s1 _ s2 left
  have h1 : Steady s s1 := h.forAll fun p _ hx => hx.forN fun _ _ _ hy => setPort_steady hy p _
  clear_value s1
  have h2 : Steady s s2 := h1.same
  exact h2.same

theorem abandonEgress_steady (h : Steady s t) (p : Port) : Steady s (abandonEgress p t) :=
  (setPort_steady h p _).bumpBy statAddr_indexed

theorem dropRegion_steady (h : Steady s t) (n : Nat) : Steady s (dropRegion n t) := by
  unfold dropRegion
  extract_lets s1 s2 s3
  have h1 : Steady s s1 := .ite h.bumpBy h
  have h2 : Steady s s2 := abandonReaders_steady (h1.ships (setRegion_ships _ _ _)) n
  have h3 : Steady s s3 := abandonEgress_steady (abandonEgress_steady h2 _) _
  clear_value s3
  exact .ite (dropRecords_steady h2) (.ite h3.same h2)

theorem resetLawn_steady (h : Steady s t) : Steady s (resetLawn t) :=
  Steady.forN h.same fun _ _ _ hx => (hx.setFlag statAddr_indexed).setFlag statAddr_indexed

theorem resetHit_steady (h : Steady s t) : Steady s (resetHit t) := by
  unfold resetHit
  extract_lets empty _ s1
  have h1 : Steady s s1 := h.same
  exact (dropRegion_steady h1 0).setFld

theorem resetTrg_steady (h : Steady s t) : Steady s (resetTrg t) := dropRecords_steady h.same

theorem resetXdc_steady (h : Steady s t) : Steady s (resetXdc t) := by
  unfold resetXdc
  extract_lets s1
  have h1 : Steady s s1 := .ite h.bump h
  exact h1.same

theorem resetTip_steady (h : Steady s t) : Steady s (resetTip t) := h.same

theorem resetCal_steady (h : Steady s t) : Steady s (resetCal t) := by
  unfold resetCal
  extract_lets s1 s2
  have h1 : Steady s s1 := abortRuns_steady h 255
  have h2 : Steady s s2 := h1.forN fun i _ _ hx => showPending_steady (setProc_steady hx i _) i false
  clear_value s2
  exact h2.same

theorem clearLaneStatus_steady (h : Steady s t) (p : Port) : Steady s (clearLaneStatus p t) := by
  unfold clearLaneStatus
  extract_lets zero s1
  have h1 : Steady s s1 := by
    refine List.foldlRecOn _ _ h fun x hx f hf => hx.setFld ?_
    simp only [List.mem_cons, List.not_mem_nil, or_false] at hf
    rcases hf with rfl | rfl | rfl | rfl | rfl | rfl | rfl | rfl | rfl | rfl | rfl <;> exact statAddr_indexed
  exact (setRate_steady h1 p _).setFld statAddr_indexed

theorem resetPort_steady (h : Steady s t) (p : Port) : Steady s (resetPort p t) := by
  unfold resetPort
  extract_lets s1 _ _ s2
  have h1 : Steady s s1 := clearLaneStatus_steady (leaveTrained_steady h p) p
  have h2 : Steady s s2 := setLane_steady (setPort_steady h1 p _) p _
  clear_value s2
  exact couple_steady h2.same p

theorem enterDomain_steady (h : Steady s t) (b : Nat) : Steady s (enterDomain b t) := by
  unfold enterDomain
  split
  · exact resetLawn_steady h
  · exact resetHit_steady h
  · exact resetTrg_steady h
  · exact h.forN fun c _ _ hx => .ite (startSettling_steady hx c) hx
  · exact resetXdc_steady h
  · exact resetTip_steady h
  · exact resetCal_steady h
  · exact resetStreams_steady h
  · exact resetPort_steady h _
  · exact resetPort_steady h _
  · exact h

theorem enterDomains_steady (h : Steady s t) : Steady s (enterDomains t) :=
  .ite h (Steady.forN h.same fun b _ _ hx => .ite (enterDomain_steady hx b) hx)

/-! ### The ring credits -/

theorem clipTokens_steady (h : Steady s t) : Steady s (clipTokens t) :=
  h.forAll fun p _ hx => hx.forN fun _ _ _ hy => setPort_steady hy p _

theorem setGrant_steady (h : Steady s t) (p : Port) (g2 g3 : Nat) : Steady s (setGrant p g2 g3 t).2 :=
  (h.setFld statAddr_indexed).setFld statAddr_indexed

theorem applyCredit_steady (h : Steady s t) (w : W64) : Steady s (applyCredit w t) := by
  unfold applyCredit
  extract_lets x a b s1 s2
  have hb : Steady s b.2 := setGrant_steady (setGrant_steady h ..) ..
  have h1 : Steady s s1 := .ite hb.bump hb
  have h2 : Steady s s2 := h1.bump.setFlag
  clear_value s2
  exact clipTokens_steady h2.same

theorem tickCredits_steady (h : Steady s t) : Steady s (tickCredits t) :=
  Steady.forAll h.same fun c _ hx => applyCredit_steady hx c.2

theorem ringCommit_steady (h : Steady s t) (old : Chip) : Steady s (ringCommit old t) := by
  unfold ringCommit
  extract_lets s1 s2
  have h2 : Steady s s2 := clipTokens_steady (h.forAll fun p _ hx => setGrant_steady hx p _ _)
  exact .ite h2 (h2.forN fun _ _ _ hx => setPort_steady (setPort_steady hx _ _) _ _)

/-! ### The commit -/

theorem copyTable_steady (h : Steady s t) (src dst : Nat) : Steady s (copyTable src dst t) := by
  refine h.forAll fun w x hx => ?_
  have h1 := memRead_steady hx src w
  generalize memRead src w x = z at h1 ⊢
  exact .ite (memWritePoisoned_steady h1 ..) (.ite h1 (memWrite_steady h1 ..))

theorem loadLatches_steady (h : Steady s t) (old : Chip) : Steady s (loadLatches old t) :=
  h.forAll fun w _ hx => loadLatch_steady hx w

theorem copyShadow_steady (h : Steady s t) : Steady s (copyShadow t) :=
  loadLatches_steady (copyTable_steady (copyTable_steady (copyTable_steady h.same 3 2) 5 4) 8 7) t

theorem clearPending_steady (h : Steady s t) : Steady s (clearPending t) :=
  ((h.same (u := { t with cmd := { t.cmd with target := none } })).setFld.setFld).setFld

theorem applyCommit_steady (h : Steady s t) : Steady s (applyCommit t) :=
  (clearPending_steady (copyShadow_steady h)).setFld.bump.raise

theorem moveRegions_steady (h : Steady s t) (old : Chip) : Steady s (moveRegions old t) :=
  h.forN fun n _ _ hx => .ite hx (dropRegion_steady hx n)

theorem followCommit_steady (h : Steady s t) (old : Chip) : Steady s (followCommit old t) := by
  unfold followCommit
  extract_lets s1 s2 s3 s4 s5 s6
  have h1 : Steady s s1 := pulseSchedule_steady (follyCommit_steady (settlingStart_steady h old) old) _
  have h2 : Steady s s2 := xdcCommit_steady (waveCommit_steady h1 old) old
  have h3 : Steady s s3 := loopsCommit_steady (measuresCommit_steady (triggersCommit_steady h2 old) old) old
  have h4 : Steady s s4 := streamsCommit_steady (tipCommit_steady (safetyCommit_steady h3) old)
  have h5 : Steady s s5 := pairFormation_steady (ringCommit_steady (lanesCommit_steady h4 old) old) _
  have h6 : Steady s s6 := evalActiveLedgers_steady (moveRegions_steady h5 old)
  clear_value s6
  exact h6.same

end

end Sys2Proof.Machine
end

section
/-! PROOFS. The work of a tick (R21) beside the time base: it keeps the clock but for the last frame emitted, the batch and the event bits
that are set. -/

namespace Sys2Proof.Machine

-- the lemmas are many and short: elaborated all at once they would take a thread each
set_option Elab.async false

section
variable {s t : Chip}

/-! ### Network time -/

theorem reroute_steady (h : Steady s t) (up : Option Port) : Steady s (reroute up t) := by
  unfold reroute
  extract_lets s1 _ s2 s3
  have h1 : Steady s s1 := h.setFlag.setFld.bump
  have h2 : Steady s s2 := h1.same
  have h3 : Steady s s3 := by
    unfold s3
    split
    · exact setExch_steady h2 _ _
    · exact h2
  exact h3.raise

theorem tickUpstream_steady (h : Steady s t) : Steady s (tickUpstream t) := by
  unfold tickUpstream
  extract_lets age s0 old new s1 s2 incons nbr _ s3 s4
  have h0 : Steady s s0 := setExch_steady (setExch_steady h _ _) _ _
  have h2 : Steady s s2 := h0.setFld.setFld
  have h3 : Steady s s3 := h2.same
  have h4 : Steady s s4 := .ite (reroute_steady h3 new) h3
  exact .ite h4.raise h4

theorem tickQuality_steady (h : Steady s t) : Steady s (tickQuality t) := by
  unfold tickQuality
  extract_lets upq q
  exact .ite h h.setFld.raise

/-! ### Ceilings, routes and banks -/

theorem protWord_steady (h : Steady s t) (w : W64) : Steady s (protWord w t) := by
  unfold protWord
  extract_lets x i
  split
  · next hi => exact (h.setFld (statAddr_before (by omega))).setFld (statAddr_before (by omega))
  · exact .ite h.setFld h.setFld

theorem protApply_steady (h : Steady s t) (ws : List W64) : Steady s (protApply ws t) := by
  unfold protApply
  extract_lets s1
  have h1 : Steady s s1 := h.forAll fun w _ hx => protWord_steady hx w
  clear_value s1
  exact .ite h h1.same

theorem ageBanks_steady (h : Steady s t) : Steady s (ageBanks t) := h.same

theorem routesAtTick_steady (h : Steady s t) : Steady s (routesAtTick t) :=
  .ite (h.forN fun _ _ _ hx => hx.same) h

theorem keepHeld_steady (h : Steady s t) (old : Chip) : Steady s (keepHeld old t) := by
  unfold keepHeld
  split
  · exact h.same
  · exact h

theorem countQuiet_steady (h : Steady s t) : Steady s (countQuiet t) := h.same

/-! ### The close of a frame -/

theorem closeHits_steady (h : Steady s t) (a : FrameAcc) : Steady s (closeHits a t) := by
  unfold closeHits
  extract_lets s1 ring
  have h1 : Steady s s1 := writeHistory_steady h 2 a
  have h2 := writeFrame_steady h1 a ((if ring then [.ring] else []) ++ s1.hitReaders 2)
  refine .ite h1 ?_
  split
  · next hw =>
    rw [hw] at h2
    exact streamHits_steady (.ite (sendContent_steady h2 ..) h2) ..
  · next hw =>
    rw [hw] at h2
    exact h2

theorem closeWaves_steady (h : Steady s t) (a : FrameAcc) : Steady s (closeWaves a t) := by
  refine h.forN fun c hc x hx => ?_
  have h1 := closeWave_steady hx 2 c a.id (a.ks.foldl max 0) hc
  split
  · next hw =>
    rw [hw] at h1
    exact streamWave_steady h1 ..
  · next hw =>
    rw [hw] at h1
    exact h1

theorem closeFrame_steady (h : Steady s t) (a0 : FrameAcc) : Steady s (closeFrame a0 t) := by
  unfold closeFrame
  extract_lets a s0 s1
  have h0 : Steady s s0 := calCloses_steady h a
  have h1 : Steady s s1 := .ite (closeHits_steady h0 a) h0
  exact .ite (dropFrame_steady h0 _)
    (dropFrame_steady (closeTriggers_steady (evaluateLoops_steady (closeWaves_steady h1 a) 2 a) 2 a.id) _)

/-! ### The pipeline -/

theorem tickIdle_steady (h : Steady s t) : Steady s (tickIdle t) := by
  unfold tickIdle
  extract_lets asked bad s1
  have h1 : Steady s s1 := h.setFlag.setFlag
  exact .ite h1.raise h1

theorem tickEvents_steady (h : Steady s t) : Steady s (tickEvents t) := h.same

/-- The pipeline is steady before the next frame opens, and after it. -/
theorem tickPipeline_steady (h : Steady s t) (old : Chip) (wasHold emit : Bool) :
    ∃ commit u, Steady s u ∧ Steady (openNext emit commit u) (tickPipeline old wasHold emit t) := by
  unfold tickPipeline
  extract_lets commit done stepped s1 s2 s3 closing s4 s5 s6 s8 s9 s10
  have h1 : Steady s s1 := tickTip_steady (tickLawn_steady (tickXdc_steady (tickWave_steady (endStreams_steady h) stepped))) wasHold stepped
  have h2 : Steady s s2 := schedulePulse_steady (.ite (followCommit_steady (applyCommit_steady (settleTips_steady h1)) old) h1)
  have h3 : Steady s s3 := refreshDigests_steady (enterDomains_steady (standingPressure_steady (tickReducer_steady h2)))
  refine ⟨commit, _, keepHeld_steady (tickCredits_steady h3) old, ?_⟩
  have h4 : Steady (openNext emit commit (keepHeld old (tickCredits s3))) s4 := tickStreams_steady (tickArm_steady (.refl _))
  have h5 : Steady (openNext emit commit (keepHeld old (tickCredits s3))) s5 := by
    unfold s5
    clear_value closing
    split
    · exact closeFrame_steady h4 _
    · exact h4
  have h8 := tickSafety_steady (tickCal_steady (tickAuto_steady h5) old done)
  have h10 := tickQueues_steady (tickLanes_steady (tickHeartbeat_steady (tickScrub_steady (tickIdle_steady (tickStore_steady h8)))))
  exact trackPulses_steady (tickPairSend_steady (tickPair_steady (tickEvents_steady h10))) old

end

end Sys2Proof.Machine
end

section
/-! PROOFS. The commands of a batch move no clock: they may only ask for steps of network time (R334 to R336). -/

namespace Sys2Proof.Machine

-- the lemmas are many and short: elaborated all at once they would take a thread each
set_option Elab.async false

/-- `t` keeps the clock of `s` but for the steps that wait. -/
structure SameTime (s t : Chip) : Prop where
  clk : t.clk = { s.clk with pendSteps := t.clk.pendSteps }

section
variable {s t u : Chip}

theorem SameTime.refl (s : Chip) : SameTime s s := ⟨rfl⟩

theorem SameTime.trans (h : SameTime s t) (k : SameTime t u) : SameTime s u := ⟨k.clk.trans (by rw [h.clk])⟩

theorem SameTime.same (h : SameTime s t) (hc : u.clk = t.clk := by rfl) : SameTime s u := ⟨by rw [hc, h.clk]⟩

theorem SameTime.steady (h : SameTime s t) (k : Steady t u) : SameTime s u := h.same k.clk

theorem SameTime.ite {p : Prop} [Decidable p] (h : SameTime s t) (k : SameTime s u) : SameTime s (if p then t else u) := by
  split
  · exact h
  · exact k

theorem SameTime.forAll {α : Type} {l : List α} {g : α → Chip → Chip} (h : SameTime s t)
    (k : ∀ a, ∀ x, SameTime s x → SameTime s (g a x)) : SameTime s (forAll l g t) :=
  List.foldlRecOn _ _ h fun x hx a _ => k a x hx

/-! ### Reads and writes of registers -/

theorem holdAt_sameTime (h : SameTime s t) (x : Sender) (a v : Nat) : SameTime s (holdAt x a v t) := by
  unfold holdAt setHold
  split
  · exact h.same
  · exact h.same
  · exact h.same

theorem clearRc_sameTime (h : SameTime s t) (a : Nat) : SameTime s (clearRc a t) := by
  unfold clearRc
  split
  · exact h
  · exact h.same

theorem readEffects_sameTime (h : SameTime s t) (a : Nat) : SameTime s (readEffects a t) :=
  .ite h.same (.ite h (.ite (SameTime.same (clearRc_sameTime h a)) (clearRc_sameTime h a)))

theorem readReg_sameTime (h : SameTime s t) (x : Sender) (shadow : Bool) (a : Nat) : SameTime s (readReg x shadow a t).2.2 := by
  unfold readReg
  split
  · exact h
  · split
    · next r _ =>
      have h1 := h.steady (memRead_steady (.refl t) r.mem r.word)
      generalize memRead r.mem r.word t = z at h1 ⊢
      exact h1.forAll fun b _ hx => holdAt_sameTime hx x b _
    · exact readEffects_sameTime (h.forAll fun b _ hx => holdAt_sameTime hx x b _) a

theorem readRegs_sameTime (h : SameTime s t) (x : Sender) (shadow : Bool) (as : List Nat) : SameTime s (readRegs x shadow as t).2.2 := by
  unfold readRegs
  refine List.foldlRecOn (motive := fun b : List Nat × Bool × Chip => SameTime s b.2.2) _ _ h fun acc hacc a _ => ?_
  have h1 := readReg_sameTime hacc x shadow a
  generalize readReg x shadow a acc.2.2 = z at h1 ⊢
  exact h1

theorem peekReg_steady (h : Steady s t) (x : Sender) (shadow : Bool) (a : Nat) : Steady s (peekReg x shadow a t).2 := by
  unfold peekReg
  split
  · next r _ =>
    have h1 := memRead_steady h r.mem r.word
    generalize memRead r.mem r.word t = z at h1 ⊢
    exact h1
  · exact h

theorem noteTouchedTable_steady (h : Steady s t) (mem word : Nat) (hi : Bool) : Steady s (noteTouchedTable mem word hi t) := h.same

theorem writeTable_steady (h : Steady s t) (mem word mask v : Nat) : Steady s (writeTable mem word mask v t) := by
  unfold writeTable
  extract_lets bytes s1 s1' s2
  have h1 : Steady s s1 := memWrite_steady h ..
  have h1' : Steady s s1' := memWrite_steady h ..
  have h2 : Steady s s2 := .ite (noteTouchedTable_steady h1' ..) h1'
  exact .ite (.ite h (.ite h1 (h1.ships (markDirty_ships _ _)))) (.ite (noteTouchedTable_steady h2 ..) h2)

theorem askRelease_steady (h : Steady s t) (mask : Nat) : Steady s (askRelease mask t) :=
  h.forN fun c _ _ hx => .ite (.ite (refuseRelease_steady hx) (setSc_steady hx c _)) hx

theorem urgentRequests_steady (h : Steady s t) (mask : Nat) : Steady s (urgentRequests mask t) :=
  h.forN fun u _ _ hx => .ite (urgentRequest_steady hx u) hx

theorem writeDirect_sameTime (h : SameTime s t) (a v : Nat) (r : RegRow) : SameTime s (writeDirect a v r t) :=
  .ite (h.steady (askRelease_steady (.refl t) _)) (.ite (h.steady (urgentRequests_steady (.refl t) _)) h.same)

theorem setCalPage_steady (h : Steady s t) (x : Sender) (v : Nat) : Steady s (setCalPage x v t) := by
  unfold setCalPage
  split
  · exact h.same
  · exact h.same
  · exact h.same

theorem setStoPage_steady (h : Steady s t) (x : Sender) (v : Nat) : Steady s (setStoPage x v t) := by
  unfold setStoPage
  split
  · exact h.same
  · exact h.same
  · exact h.same

theorem writeReg_sameTime (h : SameTime s t) (x : Sender) (shadow : Bool) (a v : Nat) : SameTime s (writeReg x shadow a v t) := by
  unfold writeReg
  split
  · exact h
  · refine .ite (h.steady (setCalPage_steady (.refl t) x _)) (.ite (h.steady (setStoPage_steady (.refl t) x _)) ?_)
    split
    · exact .ite h (h.steady (writeTable_steady (.refl t) ..))
    · exact .ite h.same (writeDirect_sameTime h ..)

theorem writeRegs_sameTime (h : SameTime s t) (x : Sender) (shadow : Bool) (ps : List (Nat × Nat)) :
    SameTime s (writeRegs x shadow ps t) := by
  induction ps, t using writeRegs.induct x shadow with
  | case1 t =>
    rw [writeRegs]
    exact h
  | case2 p t =>
    rw [writeRegs]
    exact writeReg_sameTime h ..
  | case3 p q rest t r href hpair ih =>
    rw [writeRegs, href]
    dsimp only
    rw [if_pos hpair]
    exact ih (h.steady (writeTable_steady (.refl t) ..))
  | case4 p q rest t r href hpair ih =>
    rw [writeRegs, href]
    dsimp only
    rw [if_neg hpair]
    exact ih (writeReg_sameTime h ..)
  | case5 p q rest t href ih =>
    rw [writeRegs, href]
    exact ih (writeReg_sameTime h ..)

theorem runRead_sameTime (h : SameTime s t) (c : Command) : SameTime s (runRead c t).2.2 := readRegs_sameTime h ..

theorem writeValues_steady (h : Steady s t) (c : Command) : Steady s (writeValues c t).2 := by
  unfold writeValues
  split
  · have h1 := peekReg_steady h c.sender (c.bank == 1) c.addr
    generalize peekReg c.sender (c.bank == 1) c.addr t = z at h1 ⊢
    exact h1
  · exact h
  · exact h

theorem runWrite_sameTime (h : SameTime s t) (c : Command) : SameTime s (runWrite c t) := by
  unfold runWrite
  have h1 := h.steady (writeValues_steady (.refl t) c)
  generalize writeValues c t = z at h1 ⊢
  exact SameTime.same (writeRegs_sameTime h1 c.sender (c.bank == 1) z.1)

/-! ### The commit and the ceilings -/

theorem pendCommit_steady (h : Steady s t) (epoch target : Nat) : Steady s (pendCommit epoch target t) :=
  (h.same (u := { t with cmd := { t.cmd with target := some target } })).setFld.setFld.setFld

theorem refuseBudget_steady (h : Steady s t) (epoch ledger : Nat) : Steady s (refuseBudget epoch ledger t) :=
  h.setFld.setFld.bump.raise

theorem runCommit_steady (h : Steady s t) (w0 w1 : Nat) : Steady s (runCommit w0 w1 t).2.2 := by
  unfold runCommit
  extract_lets epoch g target
  split
  · exact h
  · split
    · exact h
    · split
      · exact h
      · split
        · exact h
        · split
          · exact refuseBudget_steady h ..
          · exact pendCommit_steady h ..

theorem runDiscard_steady (h : Steady s t) : Steady s (runDiscard t) := by
  unfold runDiscard
  extract_lets s1 _ _ s2
  have h1 : Steady s s1 := clearPending_steady h
  have h2 : Steady s s2 := h1.same
  exact copyTable_steady (copyTable_steady (copyTable_steady h2 2 3) 4 5) 7 8

theorem runProt_steady (h : Steady s t) (ws : List W64) : Steady s (runProt ws t).2 := by
  unfold runProt
  extract_lets after _ s1
  have h1 : Steady s s1 := .ite h.same (protApply_steady h ws)
  exact .iteSnd h h1.raise

/-! ### Triggers -/

theorem armIn_steady (h : Steady s t) (w : W64) : Steady s (armIn w t) :=
  .ite h (h.forN fun n _ _ hx => .ite (setOut_steady hx n _) hx)

theorem forceIn_steady (h : Steady s t) (w : W64) : Steady s (forceIn w t) :=
  .ite h (h.forN fun n _ _ hx => .ite (setOut_steady hx n _) hx)

theorem dropFire_steady (h : Steady s t) : Steady s (dropFire t) := h.bump.raise

theorem acceptFire_steady (h : Steady s t) (d : FireDup) : Steady s (acceptFire d t) := Steady.bump h.same

theorem fireIn_steady (h : Steady s t) (cmd : Bool) (w0 w1 w2 : W64) (arrival : Nat) : Steady s (fireIn cmd w0 w1 w2 arrival t) := by
  unfold fireIn
  extract_lets code ns sub sec d at_ _
  have hfire : ∀ u al, Steady s (judgeLate (triggerFire cmd code u al (acceptFire d t))) := fun u al =>
    judgeLate_steady ((acceptFire_steady h d).feeds (triggerFire_feeds ..))
  exact .ite h (.ite (.ite h (dropFire_steady h)) (.ite h.bump (.ite
    (.ite (.ite (dropFire_steady h) (acceptFire_steady h.same d)) (hfire at_ false)) (hfire arrival true))))

/-! ### Calibration, the store, the pair, the lanes and diagnosis -/

theorem runCalStart_steady (h : Steady s t) (w : Nat) : Steady s (runCalStart w t) := by
  have hruns : Steady s (forN 8 (fun i s => if (bits w 7 0).testBit i then askStart i s else s) t) :=
    h.forN fun i _ _ hx => .ite (.ite hx (setProc_steady hx i _)) hx
  exact .ite (abortRuns_steady h _) (.cond hruns (.ite hruns.same hruns))

theorem runCalApply_steady (h : Steady s t) (w : Nat) : Steady s (runCalApply w t).2 := by
  have hruns : Steady s (applyRuns (bits w 7 0) t).2 := h.forAll fun i _ hx => setProc_steady hx i _
  exact .iteSnd hruns h

theorem runStoreCtl_steady (h : Steady s t) (w : W64) : Steady s (runStoreCtl w t).2 := .iteSnd h h.same

theorem runPairCtl_steady (h : Steady s t) (w : Nat) : Steady s (runPairCtl w t).2 := by
  unfold runPairCtl
  split
  · exact .iteSnd h (.iteSnd h h.same)
  · exact h.same
  · exact h

theorem runDomainReset_steady (h : Steady s t) (w : Nat) : Steady s (runDomainReset w t).2 := .iteSnd h h.same

theorem laneCtl_steady (h : Steady s t) (w : W64) : Steady s (laneCtl w t) := by
  unfold laneCtl
  split
  · exact h.same
  · exact h.same
  · exact h.same

theorem runLaneCtl_steady (h : Steady s t) (w : W64) : Steady s (runLaneCtl w t).2 := .iteSnd h (laneCtl_steady h w)

theorem diagWr_steady (h : Steady s t) (w0 w1 : Nat) : Steady s (diagWr w0 w1 t) := by
  unfold diagWr
  extract_lets m w
  split
  · exact Steady.same (refreshDigests_steady h)
  · exact logEvent_steady h.same _
  · exact blockCheck_steady h ..

theorem runDiag_steady (h : Steady s t) (w0 w1 : Nat) : Steady s (runDiag w0 w1 t).2 := .iteSnd (diagWr_steady h ..) h

/-! ### Time and events -/

theorem runTimeSet_sameTime (h : SameTime s t) (w0 w1 : Nat) : SameTime s (runTimeSet w0 w1 t).2 := by
  unfold runTimeSet
  split
  · exact h
  · exact h.trans ⟨rfl⟩

theorem runTimeAdj_sameTime (h : SameTime s t) (w0 w1 : Nat) : SameTime s (runTimeAdj w0 w1 t).2 := by
  unfold runTimeAdj
  extract_lets d
  split
  · exact h
  · split
    · exact h
    · split
      · exact h.trans ⟨rfl⟩
      · exact h.same

theorem runEvtAck_sameTime (h : SameTime s t) (w : Nat) : SameTime s (runEvtAck w t).2 := by
  unfold runEvtAck
  extract_lets g st keep
  split
  · exact h
  · exact h.same

/-! ### A command and its batch -/

theorem runOpcode_sameTime (h : SameTime s t) (c : Command) : SameTime s (runOpcode c t).2.2 := by
  unfold runOpcode
  have k : Steady t t := .refl t
  dsimp only
  split
  · exact runRead_sameTime h c
  · exact runRead_sameTime h c
  · exact runWrite_sameTime h c
  · exact runWrite_sameTime h c
  · exact runWrite_sameTime h c
  · exact h.steady (runCommit_steady k ..)
  · dsimp only
    exact h.steady (runDiscard_steady k)
  · exact h.same
  · exact h
  · exact h.steady (armIn_steady k _)
  · exact h.steady (fireIn_steady k ..)
  · exact h.steady (forceIn_steady k _)
  · exact h.steady (runCalStart_steady k _)
  · exact h.steady (runCalApply_steady k _)
  · exact runTimeSet_sameTime h ..
  · exact runTimeAdj_sameTime h ..
  · exact h.steady (runStoreCtl_steady k _)
  · exact h.steady (runPairCtl_steady k _)
  · exact runEvtAck_sameTime h _
  · exact h.steady (runProt_steady k _)
  · exact h.steady (runDomainReset_steady k _)
  · exact h.steady (runLaneCtl_steady k _)
  · exact h.steady (runDiag_steady k ..)
  · exact h

theorem sendStatus_steady (h : Steady s t) (x : Sender) (ws : List W64) : Steady s (sendStatus x ws t) := by
  unfold sendStatus
  split
  · exact h.same
  · exact h.ships (sendWait_ships _ _)

theorem noteReject_steady (h : Steady s t) (c : Command) (code : Nat) : Steady s (noteReject c code t) := by
  unfold noteReject
  extract_lets s1 s2
  have h1 : Steady s s1 := h.bump.setFld.setFld.setFld.setFld
  have h2 : Steady s s2 := by
    unfold s2
    split
    · exact h1.bump.raise
    · exact h1.bump.raise
    · exact h1.bump.raise
    · exact h1
  exact .ite h2.raise h2

theorem keepStatus_steady (h : Steady s t) (c : Command) (ws : List W64) : Steady s (keepStatus c ws t) := .ite h h.same

theorem runCommand_sameTime (h : SameTime s t) (c : Command) : SameTime s (runCommand c t) := by
  unfold runCommand
  split
  · exact h.steady (sendStatus_steady (Steady.refl t).bump ..)
  · extract_lets chk s0 r ws s1 s2
    have h0 : SameTime s s0 := .ite (h.steady (Steady.refl t).bump.raise) h
    have hr : SameTime s r.2.2 := by
      unfold r
      split
      · exact runOpcode_sameTime h0 c
      · exact h0
    have h1 : SameTime s s1 := hr.steady (.ite (Steady.refl _).bump (noteReject_steady (.refl _) c _))
    have h2 : SameTime s s2 := h1.steady (.ite (.refl _) (keepStatus_steady (.refl _) c ws))
    exact h2.steady (sendStatus_steady (.refl _) ..)

theorem runBatch_sameTime (h : SameTime s t) : SameTime s (runBatch t) := by
  unfold runBatch
  extract_lets b kept _ s1 run s2
  have hrun : ∀ c x, SameTime s x → SameTime s (run c x) := fun c x hx => runCommand_sameTime (hx.same (u := newCycle x)) c
  have h1 : SameTime s s1 := h.same
  exact SameTime.forAll (h1.forAll hrun) hrun

/-- Where no command waits, the batch does nothing that shows. -/
theorem runBatch_steady_of_empty (h : t.cmd.batch = []) : Steady t (runBatch t) := by
  unfold runBatch
  rw [h]
  exact (Steady.refl t).same rfl rfl rfl h.symm

end

end Sys2Proof.Machine
end

section
/-! PROOFS. The local frame tick and the time base (R17 to R20). -/

namespace Sys2Proof.Machine

-- the lemmas are many and short: elaborated all at once they would take a thread each
set_option Elab.async false

/-! ### What the work of a tick leaves of the clock -/

/-- `t` keeps the batch that waits, every event bit that is set, and the clock of `s` but for what the frames emitted and the presence of
TREF count in it. -/
structure Settled (s t : Chip) : Prop where
  clk : t.clk = { s.clk with lastEmit := t.clk.lastEmit, tstep := t.clk.tstep, presentFrames := t.clk.presentFrames }
  batch : t.cmd.batch = s.cmd.batch
  events : ∀ e, e < 384 → s.eventSeen e = true → t.eventSeen e = true

section
variable {s t u : Chip}

theorem Settled.trans (h : Settled s t) (k : Settled t u) : Settled s u :=
  ⟨k.clk.trans (by rw [h.clk]), k.batch.trans h.batch, fun e he hs => k.events e he (h.events e he hs)⟩

theorem Steady.settled (h : Steady s t) : Settled s t := ⟨by rw [h.clk], h.batch, h.events⟩

theorem Settled.refl (s : Chip) : Settled s s := (Steady.refl s).settled

theorem openNext_settled (emit commit : Bool) (s : Chip) : Settled s (openNext emit commit s) := ⟨rfl, rfl, fun _ _ h => h⟩

theorem tickTref_settled (s : Chip) : Settled s (tickTref s) := by
  unfold tickTref
  split
  · exact .refl s
  · extract_lets s1
    have h1 : Steady s s1 := (Steady.refl s).bump
    split
    · exact h1.settled.trans ⟨rfl, rfl, fun _ _ h => h⟩
    · exact h1.settled

theorem tickRate_settled (s : Chip) : Settled s (tickRate s) := ⟨rfl, rfl, fun _ _ h => h⟩

theorem tickPipeline_settled (old : Chip) (wasHold emit : Bool) (s : Chip) : Settled s (tickPipeline old wasHold emit s) := by
  obtain ⟨commit, u, hu, hp⟩ := tickPipeline_steady (.refl s) old wasHold emit
  exact hu.settled.trans ((openNext_settled emit commit u).trans hp.settled)

end

/-! ### The time base of the next frame -/

/-- The clock as a tick after n CCLK leaves it. -/
def tickClk (n : Nat) (s : Chip) : Clk :=
  let c := s.clk
  let stepped := c.counting && !c.pendSteps.isEmpty
  let now := if c.counting then c.pendSteps.foldl TimeStep.apply (c.tick + n * s.unitsPerCclk) else c.tick
  let f := if !c.counting then c.frame else if stepped then now / frameUnits else c.frame + 1
  { c with
    tick := now, cc := c.cc + n, cclk := 0, frame := f, ticks := c.ticks + 1, counting := true, lastFrame := c.frame
    residual := (now - f * frameUnits) / unitsPerFtu, steppedIn := stepped, pendSteps := if c.counting then [] else c.pendSteps
    tstep := c.tstep || stepped }

theorem moveTick_steady (n : Nat) (s : Chip) : Steady { s with clk := tickClk n s } (moveTick n s) := by
  unfold moveTick
  extract_lets c u stepped u' f c' _ s1 s2
  have h1 : Steady { s with clk := tickClk n s } s1 := (Steady.refl _).same
  have h2 : Steady { s with clk := tickClk n s } s2 := h1.setFlag
  exact .ite h2.raise h2

/-- A step that takes effect is announced (R336). -/
theorem moveTick_seen (n : Nat) (s : Chip) (hc : s.clk.counting = true) (hs : s.clk.pendSteps ≠ []) :
    (moveTick n s).eventSeen EV.TIME_STEP = true := by
  unfold moveTick
  extract_lets c u stepped u' f c' _ s1 s2
  have hst : stepped = true := by
    show (s.clk.counting && !s.clk.pendSteps.isEmpty) = true
    simp [hc, hs]
  rw [if_pos hst]
  exact raise_seen _ (by decide) _

theorem noteSlip_steady (n : Nat) (steppedIn : Bool) (s : Chip) : Steady s (noteSlip n steppedIn s) := by
  unfold noteSlip
  have hb : Steady s (s.bump (if n < 2048 then F.TIM_SLIP_CNT_SHORT else F.TIM_SLIP_CNT_LONG)) := by
    split
    · exact (Steady.refl s).bump
    · exact (Steady.refl s).bump
  exact .ite (.refl s) hb.raise

/-- A slip is announced (R18). -/
theorem noteSlip_seen (n : Nat) (s : Chip) (hn : n ≠ 2048) : (noteSlip n false s).eventSeen EV.FRAME_SLIP = true := by
  unfold noteSlip
  rw [if_neg (by simpa using hn)]
  exact raise_seen _ (by decide) _

theorem passCclk_steady (n : Nat) (s : Chip) :
    Steady { s with clk := { s.clk with cclk := s.clk.cclk + n } } (passCclk n s) := by
  unfold passCclk
  extract_lets _ s1 s2 _
  have h1 : Steady { s with clk := { s.clk with cclk := s.clk.cclk + n } } s1 := (Steady.refl _).same
  have h2 : Steady { s with clk := { s.clk with cclk := s.clk.cclk + n } } s2 := h1.announces (gainTokens_announces n s1)
  exact .ite (drainTips_steady (mergeUpTo_steady h2.same _)) h1

/-! ### The parts of a tick -/

/-- CCLK of the frame that ends at a tick: none before the first one. -/
def endingCclk (s : Chip) : Nat := if s.clk.counting then s.frameCclk else 0

/-- The chip as its frame ends: its last CCLK have passed. -/
def atTick (s : Chip) : Chip :=
  if s.clk.counting then evalShadowLedgers (countPorts (passCclk (endingCclk s - s.clk.cclk) s)) else newCycle s

/-- The chip as the next frame has started, with its slip and its step announced. -/
def startedTick (s : Chip) : Chip :=
  noteSlip (if s.clk.counting then endingCclk s else 2048) s.clk.steppedIn
    (routesAtTick (ageBanks (moveTick (endingCclk s) (atTick s))))

/-- The end of the frame moves no more than the CCLK count. -/
theorem atTick_steady (s : Chip) : ∃ k, Steady { s with clk := { s.clk with cclk := k } } (atTick s) := by
  unfold atTick
  split
  · exact ⟨_, evalShadowLedgers_steady (countPorts_steady (passCclk_steady _ s))⟩
  · exact ⟨s.clk.cclk, (Steady.refl _).same⟩

/-- The clock of a tick depends on the count of CCLK no more. -/
theorem tickClk_atTick (n : Nat) (s : Chip) : tickClk n (atTick s) = tickClk n s := by
  obtain ⟨k, hclk, hrate, -, -⟩ := atTick_steady s
  have hu : (atTick s).unitsPerCclk = s.unitsPerCclk := by
    unfold Chip.unitsPerCclk
    rw [hrate]
  unfold tickClk
  rw [hclk, hu]

theorem startedTick_steady (s : Chip) : Steady (moveTick (endingCclk s) (atTick s)) (startedTick s) :=
  (routesAtTick_steady (ageBanks_steady (.refl _))).trans (noteSlip_steady ..)

theorem startedTick_clk (s : Chip) : (startedTick s).clk = tickClk (endingCclk s) s := by
  rw [(startedTick_steady s).clk, (moveTick_steady _ _).clk]
  exact tickClk_atTick _ s

theorem startedTick_batch (s : Chip) : (startedTick s).cmd.batch = s.cmd.batch := by
  obtain ⟨k, -, -, hb, -⟩ := atTick_steady s
  rw [(startedTick_steady s).batch, (moveTick_steady _ _).batch]
  exact hb

/-- After the start of its frame a tick settles; then it runs the batch of the frame that ended (R363). -/
theorem frameTick_settled (s : Chip) (hp : s.rst.porst = false) (hs : s.rst.supply = false) (hl : s.clk.everLock = true) :
    ∃ x, Settled (startedTick s) x ∧ (frameTick s = x ∨ frameTick s = runBatch x) := by
  unfold frameTick
  rw [if_neg (by simp [hp, hs, hl])]
  extract_lets n s0 wasHold s1 s2 s3 _ s4 emit s5
  have h1 : Settled (startedTick s) s1 := tickTref_settled _
  have h2 : Settled (startedTick s) s2 :=
    h1.trans ((tickQuality_steady (tickUpstream_steady (.refl s1))).settled.trans (tickRate_settled _))
  split
  · exact ⟨s2, h2, .inl rfl⟩
  · have h3 : Steady s2 s3 := protApply_steady (.refl s2) _
    have h4 : Steady s2 s4 := keepHeld_steady h3.same s0
    have h5 : Settled s4 s5 := by
      unfold s5
      split
      · exact tickPipeline_settled s4 wasHold emit s4
      · exact (openNext_settled emit false s4).trans (countQuiet_steady (.refl _)).settled
    exact ⟨refreshDigests s5, h2.trans (h4.settled.trans (h5.trans (refreshDigests_steady (.refl s5)).settled)), .inr rfl⟩

/-- The clock that a tick leaves: that of the start of its frame, but for what the frames emitted, the presence of TREF and the commands
of the batch put into it. -/
theorem frameTick_clk (s : Chip) (hp : s.rst.porst = false) (hs : s.rst.supply = false) (hl : s.clk.everLock = true) :
    (frameTick s).clk = { tickClk (endingCclk s) s with
      pendSteps := (frameTick s).clk.pendSteps, lastEmit := (frameTick s).clk.lastEmit, tstep := (frameTick s).clk.tstep
      presentFrames := (frameTick s).clk.presentFrames } := by
  obtain ⟨x, hx, hu⟩ := frameTick_settled s hp hs hl
  have hux : SameTime x (frameTick s) := by
    rcases hu with hu | hu
    · rw [hu]
      exact .refl x
    · rw [hu]
      exact runBatch_sameTime (.refl x)
  rw [hux.clk, hx.clk, startedTick_clk]

/-- Where no command waits, a tick settles from the start of its frame on. -/
theorem frameTick_settled_of_empty (s : Chip) (hp : s.rst.porst = false) (hs : s.rst.supply = false) (hl : s.clk.everLock = true)
    (hb : s.cmd.batch = []) : Settled (startedTick s) (frameTick s) := by
  obtain ⟨x, hx, hu⟩ := frameTick_settled s hp hs hl
  rcases hu with hu | hu
  · rw [hu]
    exact hx
  · rw [hu]
    exact hx.trans (runBatch_steady_of_empty (by rw [hx.batch, startedTick_batch, hb])).settled

/-! ### The clock of the next frame, by cases -/

/-- Frames run on (R17). -/
theorem tickClk_run (s : Chip) (hc : s.clk.counting = true) (hs : s.clk.pendSteps = []) :
    tickClk (endingCclk s) s = { s.clk with
      tick := s.clk.tick + s.frameCclk * s.unitsPerCclk, cc := s.clk.cc + s.frameCclk, cclk := 0, frame := s.clk.frame + 1
      ticks := s.clk.ticks + 1, lastFrame := s.clk.frame
      residual := (s.clk.tick + s.frameCclk * s.unitsPerCclk - (s.clk.frame + 1) * frameUnits) / unitsPerFtu, steppedIn := false } := by
  simp [tickClk, endingCclk, hc, hs]

/-- The steps that wait take effect (R19). -/
theorem tickClk_step (s : Chip) (hc : s.clk.counting = true) (hs : s.clk.pendSteps ≠ []) :
    let stepped := s.clk.pendSteps.foldl TimeStep.apply (s.clk.tick + s.frameCclk * s.unitsPerCclk)
    tickClk (endingCclk s) s = { s.clk with
      tick := stepped, cc := s.clk.cc + s.frameCclk, cclk := 0, frame := stepped / frameUnits, ticks := s.clk.ticks + 1
      lastFrame := s.clk.frame, residual := stepped % frameUnits / unitsPerFtu, steppedIn := true, pendSteps := [], tstep := true } := by
  have hmod : ∀ u, u - u / frameUnits * frameUnits = u % frameUnits := fun u => by rw [Nat.mod_eq_sub, Nat.mul_comm]
  simp [tickClk, endingCclk, hc, hs, hmod]

/-- The first tick starts the counter (R17). -/
theorem tickClk_first (s : Chip) (hc : s.clk.counting = false) :
    tickClk (endingCclk s) s = { s.clk with
      cclk := 0, ticks := s.clk.ticks + 1, counting := true, lastFrame := s.clk.frame
      residual := (s.clk.tick - s.clk.frame * frameUnits) / unitsPerFtu, steppedIn := false } := by
  simp [tickClk, endingCclk, hc]

/-- A slip of the frame that ends stays to be seen after its tick (R18). -/
theorem frameTick_slip_seen (s : Chip) (hp : s.rst.porst = false) (hs : s.rst.supply = false) (hl : s.clk.everLock = true)
    (hc : s.clk.counting = true) (hi : s.clk.steppedIn = false) (hn : s.frameCclk ≠ 2048) (hb : s.cmd.batch = []) :
    (frameTick s).eventSeen EV.FRAME_SLIP = true := by
  refine (frameTick_settled_of_empty s hp hs hl hb).events _ (by decide) ?_
  unfold startedTick
  rw [hi]
  refine noteSlip_seen _ _ ?_
  simpa [endingCclk, hc] using hn

/-- Steps that take effect at a tick leave no step waiting, and stay to be seen after it (R19). -/
theorem frameTick_step_seen (s : Chip) (hp : s.rst.porst = false) (hs : s.rst.supply = false) (hl : s.clk.everLock = true)
    (hc : s.clk.counting = true) (hw : s.clk.pendSteps ≠ []) (hb : s.cmd.batch = []) :
    (frameTick s).clk.pendSteps = [] ∧ (frameTick s).eventSeen EV.TIME_STEP = true := by
  have h := frameTick_settled_of_empty s hp hs hl hb
  constructor
  · rw [h.clk, startedTick_clk, tickClk_step s hc hw]
  · obtain ⟨k, hclk, -⟩ := atTick_steady s
    refine h.events _ (by decide) ((startedTick_steady s).events _ (by decide) (moveTick_seen _ _ ?_ ?_))
    · rw [hclk]
      exact hc
    · rw [hclk]
      exact hw

/-- Settles O32: the tick's work after the start of its frame leaves the clock alone, and with no command waiting the event bits too. -/
theorem frameTickMovesTheTimeBase : Obligations.FrameTickMovesTheTimeBase := by
  unfold Obligations.FrameTickMovesTheTimeBase
  intro s
  extract_lets c units stepped ticked
  refine ⟨fun hno => ?_, fun hp hs hl => ?_⟩
  · have hstill : frameTick c = c := if_pos (by rcases hno with h | h | h <;> simp [h])
    show Host.Outcome.next { s with chip := frameTick c } = .next s
    rw [hstill]
  have hclk := frameTick_clk c hp hs hl
  have hticked : ticked (frameTick c) := by
    unfold ticked
    rw [hclk]
    exact ⟨rfl, rfl, rfl, rfl, hl, rfl⟩
  refine ⟨fun hc hw => ⟨frameTick c, rfl, hticked, ?_⟩, fun hc hw => ⟨frameTick c, rfl, hticked, ?_⟩,
    fun hc => ⟨frameTick c, rfl, hticked, ?_⟩⟩
  · rw [hclk, tickClk_run c hc hw]
    exact ⟨rfl, rfl, rfl, rfl, rfl, frameTick_slip_seen c hp hs hl hc⟩
  · have hseen := frameTick_step_seen c hp hs hl hc hw
    refine ⟨?_, ?_, ?_, ?_, ?_, hseen⟩ <;> rw [hclk, tickClk_step c hc hw]
  · rw [hclk, tickClk_first c hc]
    exact ⟨rfl, rfl, rfl⟩

end Sys2Proof.Machine
end

section
/-! PROOFS. The leading edge of a pixel (R49, R50, R55, R58): the pixels, TDCs and FIFOs of the Lawn, and the arbiter of a parterre. -/

namespace Sys2Proof.Machine

/-! ### Pixels and TDCs -/

theorem Chip.pixel_setPixel_same (s : Chip) (key : Nat) (x : PixSt) : (setPixel key x s).pixel key = x := Table.get_set_same _ _ _ _

theorem Chip.pixel_setPixel_ne (s : Chip) {key k : Nat} (x : PixSt) (hk : k ≠ key) : (setPixel key x s).pixel k = s.pixel k :=
  Table.get_set_ne _ _ _ hk.symm

theorem Chip.tdc_setTdc_same (s : Chip) (p i : Nat) (x : Tdc) : (setTdc p i x s).tdc p i = x := Table.get_set_same _ _ _ _

theorem Chip.tdc_setTdc_ne (s : Chip) {p i q j : Nat} (x : Tdc) (h : 2 * q + j ≠ 2 * p + i) : (setTdc p i x s).tdc q j = s.tdc q j :=
  Table.get_set_ne _ _ _ h.symm

/-! ### The arbiter (R58) -/

/-- TDC i converts an edge that gives way to `e`: the two arrive within 20 ps, and `e` has the lower PIX. -/
def Chip.Ties (s : Chip) (p : Nat) (e : Tdc) (i : Nat) : Prop :=
  (s.tdc p i).busy = true ∧ (s.tdc p i).close = none ∧ (s.tdc p i).held = none ∧ e.t0 ≤ (s.tdc p i).t0 + 6 ∧
    (s.tdc p i).t0 ≤ e.t0 + 6 ∧ e.pix < (s.tdc p i).pix

theorem Chip.tieTdc_eq_find (s : Chip) (p : Nat) (e : Tdc) [DecidablePred (s.Ties p e)] :
    s.tieTdc p e = (List.range 2).find? fun i => decide (s.Ties p e i) := by
  unfold Chip.tieTdc
  congr 1
  funext i
  rw [Bool.eq_iff_iff, decide_eq_true_iff]
  simp only [Bool.and_eq_true, Option.isNone_iff_eq_none, decide_eq_true_eq, and_assoc]
  exact Iff.rfl

theorem Chip.tieTdc_eq_none {s : Chip} {p : Nat} {e : Tdc} (h0 : ¬ s.Ties p e 0) (h1 : ¬ s.Ties p e 1) : s.tieTdc p e = none := by
  classical
  rw [Chip.tieTdc_eq_find]
  simp [List.range_succ, h0, h1]

theorem Chip.tieTdc_eq_some {s : Chip} {p i : Nat} {e : Tdc} (hi : i = 0 ∨ i = 1 ∧ ¬ s.Ties p e 0) (h : s.Ties p e i) :
    s.tieTdc p e = some i := by
  classical
  rw [Chip.tieTdc_eq_find]
  rcases hi with rfl | ⟨rfl, h0⟩
  · simp [List.range_succ, h]
  · simp [List.range_succ, h, h0]

/-- A free TDC converts nothing. -/
theorem Chip.busy_of_tdcFree {s : Chip} {p i t : Nat} (h : s.tdcFree p i t = true) : (s.tdc p i).busy = false := by
  unfold Chip.tdcFree Tdc.busyAt at h
  simp only [Bool.and_eq_true, Bool.not_eq_true', Bool.or_eq_false_iff] at h
  exact h.2.1

theorem Chip.not_tdcFree_of_busy {s : Chip} {p i : Nat} (t : Nat) (h : (s.tdc p i).busy = true) : s.tdcFree p i t = false := by
  unfold Chip.tdcFree Tdc.busyAt
  rw [h, Bool.true_or, Bool.not_true, Bool.and_false]

/-- What a TDC is free for rests on its settings, its lock and its own state. -/
theorem Chip.tdcFree_congr {s u : Chip} {p i : Nat} (t : Nat) (hr : u.regs = s.regs) (h : u.tdc p i = s.tdc p i) :
    u.tdcFree p i t = s.tdcFree p i t := by
  unfold Chip.tdcFree Chip.tdcEnabled Chip.tdcLocked Chip.flag Chip.fld
  rw [hr, h]

/-- The lowest free TDC takes an edge that wins no tie. -/
theorem placeEdge_of_free {n p i : Nat} {e : Tdc} {s : Chip} (h0 : ¬ s.Ties p e 0) (h1 : ¬ s.Ties p e 1)
    (hi : i = 0 ∨ i = 1 ∧ s.tdcFree p 0 e.t0 = false) (hf : s.tdcFree p i e.t0 = true) : placeEdge p (n + 1) e s = setTdc p i e s := by
  unfold placeEdge
  rw [Chip.tieTdc_eq_none h0 h1]
  rcases hi with rfl | ⟨rfl, hb⟩
  · simp only [hf, if_true]
  · simp [hf, hb]

/-- With no free TDC the edge is lost, and counted as what keeps the TDCs busy. -/
theorem placeEdge_of_full {n p : Nat} {e : Tdc} {s : Chip} (h0 : ¬ s.Ties p e 0) (h1 : ¬ s.Ties p e 1)
    (hb0 : s.tdcFree p 0 e.t0 = false) (hb1 : s.tdcFree p 1 e.t0 = false) :
    placeEdge p (n + 1) e s = s.bump (if s.stalled p then F.PRT_LOST_STALL p else F.PRT_LOST_BUSY p) := by
  unfold placeEdge
  rw [Chip.tieTdc_eq_none h0 h1]
  simp only [hb0, hb1, Bool.false_eq_true, if_false]
  cases s.stalled p <;> rfl

/-- An edge that wins a tie takes the TDC of the other edge, which goes to the other TDC where that is free. -/
theorem placeEdge_of_tie {n p i j : Nat} {e : Tdc} {s : Chip} (hij : i = 0 ∧ j = 1 ∨ i = 1 ∧ j = 0) (he : e.busy = true)
    (ht : s.Ties p e i) (hf : s.tdcFree p j (s.tdc p i).t0 = true) :
    placeEdge p (n + 2) e s = setTdc p j (s.tdc p i) (setTdc p i e s) := by
  have hjb := Chip.busy_of_tdcFree hf
  have hj : ¬ s.Ties p e j := fun h => Bool.false_ne_true (hjb.symm.trans h.1)
  have hi : (setTdc p i e s).tdc p i = e := s.tdc_setTdc_same p i e
  have hjs : (setTdc p i e s).tdc p j = s.tdc p j := s.tdc_setTdc_ne e (by omega)
  -- the edge that gave way neither beats the one that took its TDC, nor meets one in the free TDC
  have hni : ¬ (setTdc p i e s).Ties p (s.tdc p i) i := by
    rintro ⟨-, -, -, -, -, hpix⟩
    rw [hi] at hpix
    exact absurd ht.2.2.2.2.2 (Nat.lt_asymm hpix)
  have hnj : ¬ (setTdc p i e s).Ties p (s.tdc p i) j := by
    rintro ⟨hbusy, -⟩
    rw [hjs, hjb] at hbusy
    exact Bool.false_ne_true hbusy
  have hfj : (setTdc p i e s).tdcFree p j (s.tdc p i).t0 = true := (Chip.tdcFree_congr (s := s) (u := setTdc p i e s) _ rfl hjs).trans hf
  have hfi : (setTdc p i e s).tdcFree p i (s.tdc p i).t0 = false := Chip.not_tdcFree_of_busy _ (by rw [hi, he])
  have hstep : placeEdge p (n + 2) e s = placeEdge p (n + 1) (s.tdc p i) (setTdc p i e s) := by
    have hsome : s.tieTdc p e = some i := Chip.tieTdc_eq_some (by
      rcases hij with ⟨rfl, -⟩ | ⟨rfl, rfl⟩
      · exact Or.inl rfl
      · exact Or.inr ⟨rfl, hj⟩) ht
    conv => lhs; unfold placeEdge
    rw [hsome]
  rw [hstep]
  rcases hij with ⟨rfl, rfl⟩ | ⟨rfl, rfl⟩
  · exact placeEdge_of_free hni hnj (Or.inr ⟨rfl, hfi⟩) hfj
  · exact placeEdge_of_free hnj hni (Or.inl rfl) hfj

/-! ### HIT_LEADING_EDGE -/

/-- The pixel of an edge is above threshold, and its dead time begins. -/
def firePixel (key : Nat) (s : Chip) : Chip := setPixel key { s.pixel key with above := true, dead := true } s

/-- `u` is `c` with one pixel fired, as far as pixels, FIFOs, time, memories and settings go. -/
structure Fired (key : Nat) (c u : Chip) : Prop where
  above : (u.pixel key).above = true
  dead : (u.pixel key).dead = true
  others : ∀ k, k ≠ key → u.pixel k = c.pixel k
  fifos : u.lawn.fifos = c.lawn.fifos
  clk : u.clk = c.clk
  mems : u.mems = c.mems
  active : u.regs.active = c.regs.active

theorem firePixel_fired (key : Nat) (c : Chip) : Fired key c (firePixel key c) where
  above := congrArg PixSt.above (c.pixel_setPixel_same key _)
  dead := congrArg PixSt.dead (c.pixel_setPixel_same key _)
  others := fun _ hk => c.pixel_setPixel_ne _ hk
  fifos := rfl
  clk := rfl
  mems := rfl
  active := rfl

theorem Fired.setTdc {key : Nat} {c u : Chip} (h : Fired key c u) (p i : Nat) (x : Tdc) : Fired key c (setTdc p i x u) :=
  ⟨h.above, h.dead, h.others, h.fifos, h.clk, h.mems, h.active⟩

theorem Fired.bump {key : Nat} {c u : Chip} (h : Fired key c u) (f : Fld) : Fired key c (u.bump f) :=
  ⟨h.above, h.dead, h.others, h.fifos, h.clk, h.mems, h.active⟩

theorem Fired.effects {key : Nat} {c u : Chip} (h : Fired key c u) :
    (u.pixel key).above = true ∧ (u.pixel key).dead = true ∧ (∀ k, k ≠ key → u.pixel k = c.pixel k) ∧ u.lawn.fifos = c.lawn.fifos ∧
      u.clk = c.clk ∧ u.mems = c.mems ∧ u.regs.active = c.regs.active :=
  ⟨h.above, h.dead, h.others, h.fifos, h.clk, h.mems, h.active⟩

/-- An edge of the pixel would be one of a pixel at rest, with the Lawn in operation. -/
structure Chip.Armed (s : Chip) (key : Nat) : Prop where
  above : (s.pixel key).above = false
  dead : (s.pixel key).dead = false
  up : s.domainUp 0 = true
  enabled : s.flag F.HIT_FE_CTL_LAWN_EN = true

/-- What a TDC holds of the edge that it takes. -/
def edgeTdc (row col sub : Nat) (s : Chip) : Tdc :=
  { busy := true, pix := localPix row col, startC := (s.ltcNow + sub / 256) % 65536, t0 := s.clockFtu + sub, close := none,
    unc := false, test := s.inTestWindow (pixKey row col) (s.clockFtu + sub), held := none, until_ := s.clockFtu + sub + conversionFtu }

theorem leadingEdge_of_armed {row col : Nat} (sub : Nat) {s : Chip} (h : s.Armed (pixKey row col)) :
    leadingEdge row col sub s = if s.gateOpen (pixKey row col) (parterreOf row col) = true then
      placeEdge (parterreOf row col) 3 (edgeTdc row col sub s) (firePixel (pixKey row col) s) else firePixel (pixKey row col) s := by
  obtain ⟨habove, hdead, hup, hen⟩ := h
  unfold leadingEdge
  simp only [habove, hdead, hup, hen]
  cases s.gateOpen (pixKey row col) (parterreOf row col) <;> simp [firePixel, edgeTdc]

theorem leadingEdge_of_unarmed {row col : Nat} (sub : Nat) {s : Chip}
    (h : (s.pixel (pixKey row col)).above = true ∨ (s.pixel (pixKey row col)).dead = true ∨ s.domainUp 0 = false) :
    leadingEdge row col sub s = s := by
  unfold leadingEdge
  dsimp only
  rcases h with h | h | h <;> simp [h]

theorem exec_hitLeadingEdge (row col : Fin 256) (sub : Fin 512) (s : State) :
    exec (.hitLeadingEdge row col sub) s = .next { s with chip := leadingEdge row col sub s.chip } := rfl

/-- Settles O38: the arbiter gives an edge the TDC of a tie, or the lowest free one, or none; the pixel fires in each case. -/
theorem leadingEdgeClaimsLowestFreeTdc : Obligations.LeadingEdgeClaimsLowestFreeTdc := by
  unfold Obligations.LeadingEdgeClaimsLowestFreeTdc
  intro row col sub s c key p armed fired t free took ties alone
  have hfired : Fired key c (firePixel key c) := firePixel_fired key c
  have hclosed : armed → c.gateOpen key p = false → leadingEdge row col sub c = firePixel key c := by
    rintro ⟨habove, hdead, hup, hen⟩ hgate
    rw [leadingEdge_of_armed sub ⟨habove, hdead, hup, hen⟩, if_neg (Bool.eq_false_iff.mp hgate)]
  have hopen : armed → c.gateOpen key p = true → leadingEdge row col sub c = placeEdge p 3 took (firePixel key c) := by
    rintro ⟨habove, hdead, hup, hen⟩ hgate
    rw [leadingEdge_of_armed sub ⟨habove, hdead, hup, hen⟩, if_pos hgate]
    rfl
  have halone : alone → ¬ (firePixel key c).Ties p took 0 ∧ ¬ (firePixel key c).Ties p took 1 := id
  have hlost : armed → c.gateOpen key p = true → alone → free 0 = false → free 1 = false →
      leadingEdge row col sub c = (firePixel key c).bump (if c.stalled p then F.PRT_LOST_STALL p else F.PRT_LOST_BUSY p) :=
    fun ha hg hal hb0 hb1 => (hopen ha hg).trans (placeEdge_of_full (halone hal).1 (halone hal).2 hb0 hb1)
  refine ⟨fun i ha hg hal hf hi => ?_, fun i j hij ha hg ht hf => ?_, fun ha hg hal hb0 hb1 hs => ?_, fun ha hg hal hb0 hb1 hs => ?_,
    fun ha hg => ?_, fun h => ?_⟩
  · have hi' : i.val = 0 ∨ i.val = 1 ∧ free 0 = false := by
      rcases Fin.exists_fin_two.mp ⟨i, rfl⟩ with rfl | rfl
      · exact Or.inl rfl
      · exact Or.inr ⟨rfl, hi rfl⟩
    refine ⟨_, exec_hitLeadingEdge row col sub s, ?_⟩
    rw [hopen ha hg, placeEdge_of_free (halone hal).1 (halone hal).2 hi' hf]
    exact ⟨(hfired.setTdc p i took).effects, rfl, Chip.tdc_setTdc_same _ p i took, fun q j hq => Chip.tdc_setTdc_ne _ took hq⟩
  · have hij' : i.val = 0 ∧ j.val = 1 ∨ i.val = 1 ∧ j.val = 0 := by omega
    refine ⟨_, exec_hitLeadingEdge row col sub s, ?_⟩
    rw [hopen ha hg, placeEdge_of_tie (e := took) (s := firePixel key c) hij' rfl ht hf]
    refine ⟨((hfired.setTdc p i took).setTdc p j _).effects, rfl, ?_, Chip.tdc_setTdc_same _ p j _, fun q k h0 h1 => ?_⟩
    · rw [Chip.tdc_setTdc_ne _ _ (by omega), Chip.tdc_setTdc_same]
    · rw [Chip.tdc_setTdc_ne _ _ (by omega), Chip.tdc_setTdc_ne _ _ (by omega)]
      rfl
  · refine ⟨_, exec_hitLeadingEdge row col sub s, ?_⟩
    rw [hlost ha hg hal hb0 hb1, if_pos hs]
    exact ⟨(hfired.bump _).effects, rfl, Chip.fld_bump_same _ _ (by simp [Fld.fits, F.PRT_LOST_STALL]) rfl,
      Chip.fld_bump_apart _ _ _ (Or.inr (Or.inr (Nat.le_refl 16))) (by simp [F.PRT_LOST_BUSY])⟩
  · refine ⟨_, exec_hitLeadingEdge row col sub s, ?_⟩
    rw [hlost ha hg hal hb0 hb1, if_neg (Bool.eq_false_iff.mp hs)]
    exact ⟨(hfired.bump _).effects, rfl, Chip.fld_bump_same _ _ (by simp [Fld.fits, F.PRT_LOST_BUSY]) rfl,
      Chip.fld_bump_apart _ _ _ (Or.inr (Or.inl (Nat.le_refl 16))) (by simp [F.PRT_LOST_STALL])⟩
  · refine ⟨_, exec_hitLeadingEdge row col sub s, ?_⟩
    rw [hclosed ha hg]
    exact ⟨hfired.effects, rfl, rfl⟩
  · rw [exec_hitLeadingEdge, leadingEdge_of_unarmed sub h]

end Sys2Proof.Machine
end

section
/-! PROOFS. The raw records of a parterre (R57, R60, R61, R64, R68): the fields of a record, its entry in the FIFO, and the rows that end a
conversion. -/

namespace Sys2Proof.Machine

/-! ### The raw record (R64) -/

/-- The fields of a raw record, each cut to its width. -/
structure RawFields (r pix tdc startC f1 f2 totC s1 s2 : Nat) (order sat test folly unc : Bool) : Prop where
  pix : bits r 55 50 = pix % 2 ^ 6
  tdc : bits r 49 49 = tdc % 2 ^ 1
  startC : bits r 48 33 = startC % 2 ^ 16
  startF1 : bits r 32 29 = f1 % 2 ^ 4
  startF2 : bits r 28 25 = f2 % 2 ^ 4
  totC : bits r 24 16 = totC % 2 ^ 9
  stopF1 : bits r 15 12 = s1 % 2 ^ 4
  stopF2 : bits r 11 8 = s2 % 2 ^ 4
  order : r.testBit 7 = order
  sat : r.testBit 6 = sat
  test : r.testBit 5 = test
  folly : r.testBit 4 = folly
  unc : r.testBit 3 = unc
  zero : bits r 2 0 = 0

theorem rawRecord_fields (pix tdc startC f1 f2 totC s1 s2 : Nat) (order sat test folly unc : Bool) :
    RawFields (rawRecord pix tdc startC f1 f2 totC s1 s2 order sat test folly unc).toNat pix tdc startC f1 f2 totC s1 s2 order sat test
      folly unc := by
  unfold rawRecord
  constructor
  case order | sat | test | folly | unc =>
    rw [testBit_ofNat _ _ _ (by decide)]
    simp (disch := omega) only [Nat.testBit_or, testBit_place_one, testBit_place_out, Bool.or_false, Bool.false_or]
  all_goals
    rw [bits_ofNat _ _ _ _ (by decide)]
    simp (disch := omega) only [bits_or, bits_place_eq, bits_place_apart, Nat.or_zero, Nat.zero_or]

/-- Neither converter of an ORDER record has a stop: TOT_C and both stop codes are 0. -/
theorem rawRecord_order_stop (pix tdc startC f1 f2 : Nat) (sat test folly unc : Bool) :
    bits (rawRecord pix tdc startC f1 f2 0 0 0 true sat test folly unc).toNat 24 8 = 0 := by
  unfold rawRecord
  rw [bits_ofNat _ _ _ _ (by decide)]
  have hz : ∀ w lo, place w lo 0 = 0 := fun w lo => by simp [place]
  simp (disch := omega) only [bits_or, hz, bits_place_apart, Nat.or_zero]

/-! ### Announcements and other registers -/

theorem Announces.tdc {s t : Chip} (h : Announces s t) (p i : Nat) : t.tdc p i = s.tdc p i := by
  unfold Chip.tdc
  rw [h.lawn]

theorem Announces.fifo {s t : Chip} (h : Announces s t) (p : Nat) : t.fifo p = s.fifo p := by
  unfold Chip.fifo
  rw [h.lawn]

theorem Chip.fld_setFld_ne (s : Chip) {f g : Fld} (v : Nat) (h : g.addr ≠ f.addr) : (s.setFld f v).fld g = s.fld g :=
  Chip.fld_congr _ _ g rfl (s.setFld_direct_ne f v g.addr h.symm)

theorem Chip.fld_bump_ne (s : Chip) {f g : Fld} (h : g.addr ≠ f.addr) : (s.bump f).fld g = s.fld g := s.fld_setFld_ne _ h

theorem Chip.fld_highWater_ne (s : Chip) {f g : Fld} (v : Nat) (h : g.addr ≠ f.addr) : (s.highWater f v).fld g = s.fld g := by
  unfold Chip.highWater
  split
  · exact s.fld_setFld_ne _ h
  · rfl

/-- Two registers of one parterre. -/
theorem prtAddr_ne {a b : Nat} (p : Nat) (h : a ≠ b) : a + 64 * p ≠ b + 64 * p := fun e => h (Nat.add_right_cancel e)

theorem Chip.seen_highWater (s : Chip) (f : Fld) (v : Nat) {e : Nat} (he : e < 384) (h : statAddr f.addr = false) :
    (s.highWater f v).eventSeen e = s.eventSeen e := by
  unfold Chip.highWater
  split
  · exact setFld_seen _ _ _ _ he h
  · rfl

/-! ### The FIFO of a parterre (R64, R68) -/

/-- The place of a new record in the FIFO: behind all records but those of this CCLK whose source comes after its own. -/
def Chip.entryPlace (s : Chip) (p src : Nat) : Nat := (s.fifo p).length - (s.writtenNow p).countP fun x => decide (src < x)

/-- The FIFO with a new record at its place. -/
def Chip.fifoWith (s : Chip) (p src : Nat) (r : BitVec 56) : List (BitVec 56) :=
  (s.fifo p).take (s.entryPlace p src) ++ r :: (s.fifo p).drop (s.entryPlace p src)

theorem Chip.fifoWith_length (s : Chip) (p src : Nat) (r : BitVec 56) : (s.fifoWith p src r).length = (s.fifo p).length + 1 := by
  unfold Chip.fifoWith
  simp only [List.length_append, List.length_cons, List.length_take, List.length_drop]
  omega

/-- The chip with another state of the Lawn. -/
def Chip.setLawn (s : Chip) (l : Lawn) : Chip := { s with lawn := l }

theorem Chip.fld_setLawn (s : Chip) (l : Lawn) (f : Fld) : (s.setLawn l).fld f = s.fld f := rfl

theorem Chip.eventSeen_setLawn (s : Chip) (l : Lawn) (e : Nat) : (s.setLawn l).eventSeen e = s.eventSeen e := rfl

theorem Chip.highWater_setLawn (s : Chip) (l : Lawn) (f : Fld) (v : Nat) : (s.setLawn l).highWater f v = (s.highWater f v).setLawn l := by
  unfold Chip.highWater
  rw [Chip.fld_setLawn]
  split
  · rfl
  · rfl

/-- A record enters its FIFO at its place, and the high-water mark follows. -/
theorem fifoPut_eq (p src : Nat) (r : BitVec 56) (s : Chip) :
    ∃ w, fifoPut p src r s = (s.highWater (F.PRT_FIFO_HWM_LEVEL p) (s.fifoWith p src r).length).setLawn
      { s.lawn with fifos := Table.set s.lawn.fifos p (s.fifoWith p src r), written := w } := by
  have hset : setFifo p (s.fifoWith p src r) s = (s.highWater (F.PRT_FIFO_HWM_LEVEL p) (s.fifoWith p src r).length).setLawn
      { s.lawn with fifos := Table.set s.lawn.fifos p (s.fifoWith p src r) } := Chip.highWater_setLawn s _ _ _
  unfold Chip.fifoWith Chip.entryPlace at hset ⊢
  unfold fifoPut
  dsimp only
  rw [hset]
  generalize s.highWater (F.PRT_FIFO_HWM_LEVEL p) _ = t
  exact ⟨_, rfl⟩

theorem fifoPut_fifo (p src : Nat) (r : BitVec 56) (s : Chip) : (fifoPut p src r s).fifo p = s.fifoWith p src r := by
  obtain ⟨w, hput⟩ := fifoPut_eq p src r s
  rw [hput]
  exact Table.get_set_same _ _ _ _

theorem fifoPut_fld (p src : Nat) (r : BitVec 56) (s : Chip) {f : Fld} (h : f.addr ≠ 0x20014 + 64 * p) :
    (fifoPut p src r s).fld f = s.fld f := by
  obtain ⟨w, hput⟩ := fifoPut_eq p src r s
  rw [hput, Chip.fld_setLawn, Chip.fld_highWater_ne _ _ h]

theorem fifoPut_seen (p src : Nat) (r : BitVec 56) (s : Chip) {e : Nat} (he : e < 384) :
    (fifoPut p src r s).eventSeen e = s.eventSeen e := by
  obtain ⟨w, hput⟩ := fifoPut_eq p src r s
  rw [hput, Chip.eventSeen_setLawn, Chip.seen_highWater _ _ _ he statAddr_indexed]

/-! ### Real records -/

/-- A TDC is idle once its 28 ns are over, and its record is counted. -/
def freeTdc (p i until_ : Nat) (s : Chip) : Chip := (setTdc p i { Tdc.idle with until_ := until_ } s).bump (F.PRT_HITS_COUNT p)

theorem writeRecord_eq (p i : Nat) (r : BitVec 56) (s : Chip) : writeRecord p i r s = freeTdc p i (s.tdc p i).until_ (fifoPut p i r s) := rfl

theorem freeTdc_fifo (p i v : Nat) (s : Chip) (q : Nat) : (freeTdc p i v s).fifo q = s.fifo q := rfl

theorem freeTdc_tdc (p i v : Nat) (s : Chip) : (freeTdc p i v s).tdc p i = { Tdc.idle with until_ := v } := Chip.tdc_setTdc_same s p i _

theorem freeTdc_fld (p i v : Nat) (s : Chip) {f : Fld} (h : f.addr ≠ 0x20008 + 64 * p) : (freeTdc p i v s).fld f = s.fld f :=
  Chip.fld_bump_ne (setTdc p i _ s) h

theorem freeTdc_hits (p i v : Nat) (s : Chip) :
    (freeTdc p i v s).fld (F.PRT_HITS_COUNT p) = satTo 32 (s.fld (F.PRT_HITS_COUNT p) + 1) :=
  Chip.fld_bump_same (setTdc p i _ s) (F.PRT_HITS_COUNT p) (by simp [Fld.fits, F.PRT_HITS_COUNT]) rfl

theorem freeTdc_seen (p i v : Nat) (s : Chip) {e : Nat} (he : e < 384) : (freeTdc p i v s).eventSeen e = s.eventSeen e :=
  setFld_seen (setTdc p i _ s) (F.PRT_HITS_COUNT p) _ e he statAddr_indexed

/-- What writing a real record does: the record takes its place in the FIFO, it is counted, and its TDC is free. -/
structure RecordWritten (p i : Nat) (r : BitVec 56) (s u : Chip) : Prop where
  fifo : u.fifo p = s.fifoWith p i r
  tdc : u.tdc p i = { Tdc.idle with until_ := (s.tdc p i).until_ }
  hits : u.fld (F.PRT_HITS_COUNT p) = satTo 32 (s.fld (F.PRT_HITS_COUNT p) + 1)
  fld : ∀ f : Fld, f.addr ≠ 0x20014 + 64 * p → f.addr ≠ 0x20008 + 64 * p → u.fld f = s.fld f
  seen : ∀ e, e < 384 → u.eventSeen e = s.eventSeen e

theorem writeRecord_written (p i : Nat) (r : BitVec 56) (s : Chip) : RecordWritten p i r s (writeRecord p i r s) := by
  rw [writeRecord_eq]
  refine ⟨?_, freeTdc_tdc _ _ _ _, ?_, fun f h h' => ?_, fun e he => ?_⟩
  · rw [freeTdc_fifo, fifoPut_fifo]
  · rw [freeTdc_hits, fifoPut_fld p i r s (f := F.PRT_HITS_COUNT p) (prtAddr_ne p (by decide))]
  · rw [freeTdc_fld _ _ _ _ h', fifoPut_fld p i r s h]
  · rw [freeTdc_seen _ _ _ _ he, fifoPut_seen p i r s he]

/-! ### TDC_CONVERSION_DONE (R57, R61, R64, R68) -/

/-- A completed record goes to the FIFO, takes the entry of a synthetic one of this CCLK, or waits in its TDC. -/
def settleRecord (p i : Nat) (r : BitVec 56) (s : Chip) : Chip :=
  if s.fifoTakes p then writeRecord p i r s
  else if !s.stalled p && (s.writtenNow p).getLast? == some 2 then writeRecord p i r (evictFolly p s)
  else raise EV.LAWN_STALL (setTdc p i { s.tdc p i with held := some (r, s.cclkNow) } s)

/-- The chip with other values of its registers that are not RWS. -/
def Chip.setDirect (s : Chip) (m : SMap 32) : Chip := { s with regs := { s.regs with direct := m } }

/-- A SAT record counts as such. -/
def countSat (p : Nat) (sat : Bool) (s : Chip) : Chip := if sat then s.bump (F.PRT_FLAGCNT_SAT p) else s

theorem countSat_eq (p : Nat) (sat : Bool) (s : Chip) : ∃ m, countSat p sat s = s.setDirect m := by
  cases sat
  · exact ⟨_, rfl⟩
  · exact ⟨_, rfl⟩

theorem countSat_fld_same (p : Nat) (sat : Bool) (s : Chip) : (countSat p sat s).fld (F.PRT_FLAGCNT_SAT p) =
    if sat then satTo 16 (s.fld (F.PRT_FLAGCNT_SAT p) + 1) else s.fld (F.PRT_FLAGCNT_SAT p) := by
  cases sat
  · rfl
  · exact Chip.fld_bump_same s (F.PRT_FLAGCNT_SAT p) (show 1 ≤ 16 ∧ 16 + 16 ≤ 32 by decide) rfl

theorem countSat_fld_ne (p : Nat) (sat : Bool) (s : Chip) {f : Fld} (h : f.addr ≠ 0x20010 + 64 * p) :
    (countSat p sat s).fld f = s.fld f := by
  cases sat
  · rfl
  · exact s.fld_bump_ne h

theorem conversionDone_of_closed {p i f1 f2 g1 g2 tot : Nat} {sat : Bool} {s : Chip} (hb : (s.tdc p i).busy = true)
    (hh : (s.tdc p i).held = none) (hc : (s.tdc p i).close = some (tot, sat)) :
    conversionDone p i f1 f2 g1 g2 false s = settleRecord p i (rawRecord (s.tdc p i).pix i (s.tdc p i).startC f1 f2 tot
      (if sat then 0 else g1) (if sat then 0 else g2) false sat (s.tdc p i).test false (s.tdc p i).unc) (countSat p sat s) := by
  have hd : (s.tdc p i).close.getD (0, false) = (tot, sat) := by rw [hc]; rfl
  unfold conversionDone
  dsimp only
  rw [if_neg (by simp [hb, hh, hc]), hd]
  simp only [Bool.false_eq_true, if_false, Bool.false_or]
  cases sat
  · rfl
  · rfl

/-- Without a start before its stop a conversion gives an ORDER record, and its pixel counts as below threshold. -/
theorem conversionDone_of_order {p i f1 f2 g1 g2 : Nat} {s : Chip} (hb : (s.tdc p i).busy = true) (hh : (s.tdc p i).held = none) :
    ∃ key x, conversionDone p i f1 f2 g1 g2 true s = settleRecord p i (rawRecord (s.tdc p i).pix i (s.tdc p i).startC f1 f2 0 0 0 true
      false (s.tdc p i).test false (s.tdc p i).unc) ((setPixel key x s).bump (F.PRT_FLAGCNT_ORDER p)) := by
  unfold conversionDone
  dsimp only
  rw [if_neg (by simp [hb, hh])]
  exact ⟨_, _, rfl⟩

theorem Chip.fifoTakes_eq (s : Chip) (p : Nat) : s.fifoTakes p = (decide ((s.fifo p).length < 8) && !s.stalled p) := rfl

theorem settleRecord_of_room {p i : Nat} {r : BitVec 56} {s : Chip} (hl : (s.fifo p).length < 8) (hs : s.stalled p = false) :
    settleRecord p i r s = writeRecord p i r s := by
  unfold settleRecord
  rw [Chip.fifoTakes_eq, hs, decide_eq_true hl]
  rfl

theorem settleRecord_of_folly {p i : Nat} {r : BitVec 56} {s : Chip} (hl : 8 ≤ (s.fifo p).length) (hs : s.stalled p = false)
    (hf : (s.writtenNow p).getLast? = some 2) : settleRecord p i r s = writeRecord p i r (evictFolly p s) := by
  unfold settleRecord
  rw [Chip.fifoTakes_eq, hs, hf, decide_eq_false (Nat.not_lt.mpr hl)]
  rfl

theorem settleRecord_of_full {p i : Nat} {r : BitVec 56} {s : Chip}
    (h : s.stalled p = true ∨ 8 ≤ (s.fifo p).length ∧ ¬ (s.writtenNow p).getLast? = some 2) :
    settleRecord p i r s = raise EV.LAWN_STALL (setTdc p i { s.tdc p i with held := some (r, s.cclkNow) } s) := by
  unfold settleRecord
  rw [Chip.fifoTakes_eq]
  rcases h with hs | ⟨hl, hf⟩
  · simp [hs]
  · simp [hl, hf]

/-- A synthetic record that gives up the last entry is counted as dropped, and no longer as written. -/
structure Evicted (p : Nat) (s u : Chip) : Prop where
  fifo : u.fifo p = (s.fifo p).dropLast
  tdcs : u.lawn.tdcs = s.lawn.tdcs
  fld : ∀ f : Fld, announceAddr f.addr = false → f.addr ≠ 0x30050 → f.addr ≠ 0x30054 → u.fld f = s.fld f
  dropped : u.fld F.HIT_FOLLY_DROP_COUNT = satTo 32 (s.fld F.HIT_FOLLY_DROP_COUNT + 1)
  count : u.fld F.HIT_FOLLY_COUNT_COUNT = s.fld F.HIT_FOLLY_COUNT_COUNT - 1
  seen : u.eventSeen EV.LAWN_FOLLY_DROP = true

theorem evictFolly_evicted (p : Nat) (s : Chip) : Evicted p s (evictFolly p s) := by
  have hann : ∀ t, Announces t (raise EV.LAWN_FOLLY_DROP t) := raise_announces _ (by decide)
  unfold evictFolly
  extract_lets l s1 s2
  refine ⟨?_, ?_, fun f ha h50 h54 => ?_, ?_, ?_, raise_seen _ (by decide) _⟩
  · rw [(hann _).fifo]
    exact Table.get_set_same _ _ _ _
  · rw [(hann _).lawn]
    rfl
  · rw [(hann _).fld f ha, Chip.fld_bump_ne _ h54, Chip.fld_setFld_ne _ _ h50]
    rfl
  · rw [(hann _).fld _ (by decide), Chip.fld_bump_same _ _ (by decide) rfl, Chip.fld_setFld_ne _ _ (by decide)]
    rfl
  · have hlt : s.fld F.HIT_FOLLY_COUNT_COUNT < 2 ^ 32 := fld_lt s F.HIT_FOLLY_COUNT_COUNT (by decide)
    rw [(hann _).fld _ (by decide), Chip.fld_bump_ne _ (by decide), Chip.fld_setFld_same _ _ _ (by decide) rfl]
    exact Nat.mod_eq_of_lt (Nat.lt_of_le_of_lt (Nat.sub_le _ 1) hlt)

/-- A register of a parterre is none that an announcement touches. -/
theorem announceAddr_prt {a p : Nat} (ha : 0x20000 ≤ a) (h : a + 64 * p < 0x80000) : announceAddr (a + 64 * p) = false := by
  rw [← Bool.not_eq_true, announceAddr_iff]
  omega

/-- What a real record does that takes the entry of a synthetic one: it is written and counted, and the other one counts as dropped. -/
structure RecordDisplaces (p i : Nat) (r : BitVec 56) (s u : Chip) : Prop where
  tdc : u.tdc p i = { Tdc.idle with until_ := (s.tdc p i).until_ }
  mem : r ∈ u.fifo p
  length : (u.fifo p).length = (s.fifo p).length
  hits : u.fld (F.PRT_HITS_COUNT p) = satTo 32 (s.fld (F.PRT_HITS_COUNT p) + 1)
  seen : u.eventSeen EV.LAWN_FOLLY_DROP = true
  dropped : u.fld F.HIT_FOLLY_DROP_COUNT = satTo 32 (s.fld F.HIT_FOLLY_DROP_COUNT + 1)
  count : u.fld F.HIT_FOLLY_COUNT_COUNT = s.fld F.HIT_FOLLY_COUNT_COUNT - 1

theorem writeRecord_displaces {p i : Nat} {r : BitVec 56} {s : Chip} (hp : p < 1024) (hl : 8 ≤ (s.fifo p).length) :
    RecordDisplaces p i r s (writeRecord p i r (evictFolly p s)) := by
  have hev := evictFolly_evicted p s
  have hw := writeRecord_written p i r (evictFolly p s)
  have hfar : ∀ f : Fld, 0x30000 ≤ f.addr → (writeRecord p i r (evictFolly p s)).fld f = (evictFolly p s).fld f :=
    fun f hf => hw.fld f (by omega) (by omega)
  refine ⟨?_, ?_, ?_, ?_, (hw.seen _ (by decide)).trans hev.seen, (hfar _ (by decide)).trans hev.dropped,
    (hfar _ (by decide)).trans hev.count⟩
  · rw [hw.tdc]
    unfold Chip.tdc
    rw [hev.tdcs]
  · rw [hw.fifo]
    exact List.mem_append_right _ List.mem_cons_self
  · rw [hw.fifo, Chip.fifoWith_length, hev.fifo, List.length_dropLast]
    omega
  · rw [hw.hits, hev.fld (F.PRT_HITS_COUNT p) (announceAddr_prt (by decide) (by omega)) (show 0x20008 + 64 * p ≠ 0x30050 by omega)
      (show 0x20008 + 64 * p ≠ 0x30054 by omega)]

/-- A held record keeps its TDC, leaves the FIFO, and is announced. -/
structure RecordHeld (p i : Nat) (r : BitVec 56) (s u : Chip) : Prop where
  fifo : u.fifo p = s.fifo p
  tdc : u.tdc p i = { s.tdc p i with held := some (r, s.cclkNow) }
  seen : u.eventSeen EV.LAWN_STALL = true

theorem raiseStall_held (p i : Nat) (r : BitVec 56) (s : Chip) :
    RecordHeld p i r s (raise EV.LAWN_STALL (setTdc p i { s.tdc p i with held := some (r, s.cclkNow) } s)) := by
  have hann := raise_announces EV.LAWN_STALL (by decide) (setTdc p i { s.tdc p i with held := some (r, s.cclkNow) } s)
  exact ⟨hann.fifo p, (hann.tdc p i).trans (s.tdc_setTdc_same p i _), raise_seen _ (by decide) _⟩

/-! ### The other rows that end a conversion (R49, R57, R60, R64) -/

/-- A trailing edge or a close takes the TDC out of its wait, and keeps it busy for 28 ns more. -/
def Tdc.stopped (d : Tdc) (stop : Nat × Bool) (t : Nat) : Tdc := { d with close := some stop, until_ := max d.until_ t }

/-- TOT_C and its saturation, for a TDC that started at an LTC count and stops in the CCLK in progress (R60). -/
def Chip.stopNow (s : Chip) (sub startC : Nat) : Nat × Bool :=
  let tot := ((s.ltcNow + sub / 256) % 65536 + 65536 - startC) % 65536
  if tot < 512 then (tot, false) else (511, true)

/-- The stop of a TDC that waits for the trailing edge of a local position. -/
def stopTdc (p pix sub i : Nat) (s : Chip) : Chip :=
  let d := s.tdc p i
  if d.waitsFor pix then setTdc p i (d.stopped (s.stopNow sub d.startC) (s.clockFtu + sub + conversionFtu)) s else s

theorem stopTdc_only_tdcs (p pix sub i : Nat) (s : Chip) : ∃ x, stopTdc p pix sub i s = s.setLawn { s.lawn with tdcs := x } := by
  unfold stopTdc
  dsimp only
  split
  · exact ⟨_, rfl⟩
  · exact ⟨s.lawn.tdcs, rfl⟩

theorem stopTdc_tdc_ne (p pix sub : Nat) {i j : Nat} (hj : j ≠ i) (s : Chip) : (stopTdc p pix sub i s).tdc p j = s.tdc p j := by
  unfold stopTdc
  dsimp only
  split
  · exact s.tdc_setTdc_ne _ (by omega)
  · rfl

theorem stopTdc_tdc {p pix i : Nat} (sub : Nat) {s : Chip} (h : (s.tdc p i).waitsFor pix = true) :
    (stopTdc p pix sub i s).tdc p i =
      (s.tdc p i).stopped (s.stopNow sub (s.tdc p i).startC) (s.clockFtu + sub + conversionFtu) := by
  unfold stopTdc
  dsimp only
  rw [if_pos h]
  exact s.tdc_setTdc_same _ _ _

/-- The pixel of a trailing edge is below threshold. -/
def lowerPixel (key : Nat) (s : Chip) : Chip := setPixel key { s.pixel key with above := false } s

theorem trailingEdge_of_above {row col : Nat} (sub : Nat) {s : Chip} (h : (s.pixel (pixKey row col)).above = true) :
    trailingEdge row col sub s = stopTdc (parterreOf row col) (localPix row col) sub 1
      (stopTdc (parterreOf row col) (localPix row col) sub 0 (lowerPixel (pixKey row col) s)) := by
  unfold trailingEdge
  dsimp only
  rw [h]
  rfl

/-- A trailing edge changes its pixel and TDCs of its parterre, and nothing else. -/
theorem trailingEdge_only_tdcs {row col : Nat} (sub : Nat) {s : Chip} (h : (s.pixel (pixKey row col)).above = true) :
    ∃ x, trailingEdge row col sub s =
      (lowerPixel (pixKey row col) s).setLawn { (lowerPixel (pixKey row col) s).lawn with tdcs := x } := by
  rw [trailingEdge_of_above sub h]
  obtain ⟨x, hx⟩ := stopTdc_only_tdcs (parterreOf row col) (localPix row col) sub 0 (lowerPixel (pixKey row col) s)
  obtain ⟨y, hy⟩ := stopTdc_only_tdcs (parterreOf row col) (localPix row col) sub 1
    (stopTdc (parterreOf row col) (localPix row col) sub 0 (lowerPixel (pixKey row col) s))
  rw [hy, hx]
  exact ⟨y, rfl⟩

/-- The TDC that took the pixel stops (R57, R60). -/
theorem trailingEdge_tdc {row col i : Nat} (sub : Nat) {s : Chip} (hi : i < 2) (h : (s.pixel (pixKey row col)).above = true)
    (hw : (s.tdc (parterreOf row col) i).waitsFor (localPix row col) = true) :
    (trailingEdge row col sub s).tdc (parterreOf row col) i = (s.tdc (parterreOf row col) i).stopped
      (s.stopNow sub (s.tdc (parterreOf row col) i).startC) (s.clockFtu + sub + conversionFtu) := by
  rw [trailingEdge_of_above sub h]
  obtain rfl | rfl : i = 0 ∨ i = 1 := by omega
  · rw [stopTdc_tdc_ne _ _ _ (by decide)]
    exact stopTdc_tdc sub hw
  · have hne : (stopTdc (parterreOf row col) (localPix row col) sub 0 (lowerPixel (pixKey row col) s)).tdc (parterreOf row col) 1 =
        s.tdc (parterreOf row col) 1 := stopTdc_tdc_ne _ _ _ (by decide) _
    obtain ⟨x, hx⟩ := stopTdc_only_tdcs (parterreOf row col) (localPix row col) sub 0 (lowerPixel (pixKey row col) s)
    rw [stopTdc_tdc sub (by rw [hne]; exact hw), hne, hx]
    rfl

theorem saturationClose_of_late {p i : Nat} {s : Chip} (hb : (s.tdc p i).busy = true) (hc : (s.tdc p i).close = none)
    (hh : (s.tdc p i).held = none) (ht : 512 ≤ (s.ltcNow + 65536 - (s.tdc p i).startC) % 65536) :
    saturationClose p i s = setTdc p i ((s.tdc p i).stopped (511, true) ((s.tdc p i).t0 / 256 * 256 + 131072 + 9176)) s := by
  unfold saturationClose
  dsimp only
  rw [if_pos (by simp [hb, hc, hh, ht])]
  rfl

theorem pixelRearm_of_below {row col : Nat} {s : Chip} (h : (s.pixel (pixKey row col)).above = false) :
    pixelRearm row col s = setPixel (pixKey row col) { s.pixel (pixKey row col) with dead := false } s := by
  unfold pixelRearm
  dsimp only
  rw [if_neg (Bool.eq_false_iff.mp h)]

/-- The other TDC holds no record that completed before, or in the same CCLK in TDC 0. -/
theorem Chip.heldFirst_iff {s : Chip} {p i j t : Nat} (hj : 1 - i = j) :
    s.heldFirst p i t = true ↔ ∀ q u, (s.tdc p j).held = some (q, u) → t < u ∨ t = u ∧ i = 0 := by
  unfold Chip.heldFirst
  rw [hj]
  cases (s.tdc p j).held with
  | none => simp
  | some x =>
    obtain ⟨q, u⟩ := x
    simp

theorem stalledWrite_of_first {p i t : Nat} {r : BitVec 56} {s : Chip} (h : (s.tdc p i).held = some (r, t)) (hl : (s.fifo p).length < 8)
    (hf : s.heldFirst p i t = true) : stalledWrite p i s = writeRecord p i r s := by
  unfold stalledWrite
  rw [h]
  dsimp only
  rw [if_pos (by simp [hl, hf])]

theorem stalledWrite_of_later {p i t : Nat} {r : BitVec 56} {s : Chip} (h : (s.tdc p i).held = some (r, t))
    (hf : s.heldFirst p i t = false) : stalledWrite p i s = s := by
  unfold stalledWrite
  rw [h]
  dsimp only
  rw [if_neg (by simp [hf])]

/-! ### The statement -/

theorem exec_trailingEdge (row col : Fin 256) (sub : Fin 512) (s : State) :
    exec (.trailingEdge row col sub) s = .next { s with chip := trailingEdge row col sub s.chip } := rfl

theorem exec_pixelRearm (row col : Fin 256) (s : State) :
    exec (.pixelRearm row col) s = .next { s with chip := pixelRearm row col s.chip } := rfl

theorem exec_tdcSaturationClose (p : Fin 1024) (i : Fin 2) (s : State) :
    exec (.tdcSaturationClose p i) s = .next { s with chip := saturationClose p i s.chip } := rfl

theorem exec_tdcConversionDone (p : Fin 1024) (i : Fin 2) (f1 f2 g1 g2 : Fin 16) (order : Bool) (s : State) :
    exec (.tdcConversionDone p i f1 f2 g1 g2 order) s = .next { s with chip := conversionDone p i f1 f2 g1 g2 order s.chip } := rfl

theorem exec_stalledRecordWrite (p : Fin 1024) (i : Fin 2) (s : State) :
    exec (.stalledRecordWrite p i) s = .next { s with chip := stalledWrite p i s.chip } := rfl

/-- Settles O39: a conversion ends in one record, whose way to the FIFO rests on room, on the Folly and on held records alone. -/
theorem conversionWritesItsRawRecord : Obligations.ConversionWritesItsRawRecord := by
  unfold Obligations.ConversionWritesItsRawRecord
  refine ⟨fun row col sub i s => ?_, fun row col s ha => ?_, fun p i s => ?_, fun p i f1 f2 g1 g2 s => ?_, fun p i f1 f2 g1 g2 s => ?_,
    fun p i j r t s => ?_⟩
  · intro c key p d tot ha hb hp hc hh
    have hwaits : d.waitsFor (localPix row col) = true := by
      unfold Tdc.waitsFor
      rw [hb, hp, hc, hh, beq_self_eq_true]
      rfl
    have hkey : (lowerPixel key c).pixel key = { c.pixel key with above := false } := c.pixel_setPixel_same key _
    have hdead : ((lowerPixel key c).pixel key).dead = (c.pixel key).dead := by rw [hkey]
    have htdc := trailingEdge_tdc sub i.isLt ha hwaits
    obtain ⟨x, hx⟩ := trailingEdge_only_tdcs sub ha
    refine ⟨_, exec_trailingEdge row col sub s, ?_, ?_, htdc, ?_, ?_⟩
    · rw [hx]
      exact congrArg PixSt.above hkey
    · rw [hx]
      exact hdead
    · rw [hx]
      rfl
    · rw [hx]
      rfl
  · refine ⟨_, exec_pixelRearm row col s, ?_⟩
    rw [pixelRearm_of_below ha]
    exact ⟨congrArg PixSt.dead (s.chip.pixel_setPixel_same _ _), rfl, rfl, fun k hk => s.chip.pixel_setPixel_ne _ hk⟩
  · intro c d hb hc hh ht
    refine ⟨_, exec_tdcSaturationClose p i s, ?_⟩
    rw [saturationClose_of_late hb hc hh ht]
    exact ⟨rfl, c.tdc_setTdc_same p i _⟩
  · intro c d n folly tot sat hb hh hc hpix hstart htot
    have hr := rawRecord_fields d.pix i d.startC f1 f2 tot (if sat then 0 else g1) (if sat then 0 else g2) false sat d.test false d.unc
    have hdone := conversionDone_of_closed (f1 := f1) (f2 := f2) (g1 := g1) (g2 := g2) hb hh hc
    obtain ⟨m, hm⟩ := countSat_eq p sat c
    have hsat := countSat_fld_same p sat c
    have hfld : ∀ f : Fld, f.addr ≠ 0x20010 + 64 * p → (countSat p sat c).fld f = c.fld f := fun f => countSat_fld_ne p sat c
    have hfar : ∀ f : Fld, 0x30000 ≤ f.addr → f.addr ≠ 0x20010 + 64 * p.val := fun f hf => by omega
    rw [hm] at hdone hsat hfld
    generalize rawRecord d.pix i d.startC f1 f2 tot (if sat then 0 else g1) (if sat then 0 else g2) false sat d.test false d.unc = r at hr hdone
    refine ⟨r, hr.pix.trans (Nat.mod_eq_of_lt hpix), hr.tdc.trans (Nat.mod_eq_of_lt i.isLt), hr.startC.trans (Nat.mod_eq_of_lt hstart),
      hr.startF1.trans (Nat.mod_eq_of_lt f1.isLt), hr.startF2.trans (Nat.mod_eq_of_lt f2.isLt), hr.totC.trans (Nat.mod_eq_of_lt htot),
      ?_, ?_, hr.order, hr.sat, hr.test, hr.folly, hr.unc, hr.zero, fun hl hs => ?_, fun hl hs hf => ?_,
      fun h => ?_⟩
    · rw [hr.stopF1]
      cases sat
      · exact Nat.mod_eq_of_lt g1.isLt
      · rfl
    · rw [hr.stopF2]
      cases sat
      · exact Nat.mod_eq_of_lt g2.isLt
      · rfl
    · refine ⟨_, exec_tdcConversionDone p i f1 f2 g1 g2 false s, ?_⟩
      rw [hdone.trans (settleRecord_of_room hl hs)]
      have hw := writeRecord_written p i r (c.setDirect m)
      refine ⟨hw.fifo, hw.tdc, ?_, (hw.fld _ (prtAddr_ne p (by decide)) (prtAddr_ne p (by decide))).trans hsat⟩
      rw [hw.hits, hfld _ (prtAddr_ne p (by decide))]
    · refine ⟨_, exec_tdcConversionDone p i f1 f2 g1 g2 false s, ?_⟩
      rw [hdone.trans (settleRecord_of_folly hl hs hf)]
      have hw : RecordDisplaces p i r (c.setDirect m) _ := writeRecord_displaces p.isLt hl
      refine ⟨hw.tdc, hw.mem, hw.length, ?_, hw.seen, ?_, ?_⟩
      · rw [hw.hits, hfld _ (prtAddr_ne p (by decide))]
      · rw [hw.dropped, hfld _ (hfar _ (by decide))]
      · rw [hw.count, hfld _ (hfar _ (by decide))]
    · refine ⟨_, exec_tdcConversionDone p i f1 f2 g1 g2 false s, ?_⟩
      rw [hdone.trans (settleRecord_of_full h)]
      have hw := raiseStall_held p i r (c.setDirect m)
      exact ⟨hw.fifo, hw.tdc, hw.seen⟩
  · intro c d n hb hh hl hs
    obtain ⟨key, x, hdone⟩ := conversionDone_of_order (f1 := f1) (f2 := f2) (g1 := g1) (g2 := g2) hb hh
    have hr := rawRecord_fields d.pix i d.startC f1 f2 0 0 0 true false d.test false d.unc
    have hw := writeRecord_written p i (rawRecord d.pix i d.startC f1 f2 0 0 0 true false d.test false d.unc)
      ((setPixel key x c).bump (F.PRT_FLAGCNT_ORDER p))
    refine ⟨_, exec_tdcConversionDone p i f1 f2 g1 g2 true s, ?_⟩
    rw [hdone.trans (settleRecord_of_room hl hs)]
    refine ⟨hw.tdc, ?_, _, hw.fifo, rawRecord_order_stop .., hr.order, hr.sat, hr.startF1.trans (Nat.mod_eq_of_lt f1.isLt),
      hr.startF2.trans (Nat.mod_eq_of_lt f2.isLt)⟩
    rw [hw.fld _ (prtAddr_ne p (by decide)) (prtAddr_ne p (by decide))]
    exact Chip.fld_bump_same _ (F.PRT_FLAGCNT_ORDER p) (show 1 ≤ 16 ∧ 0 + 16 ≤ 32 by decide) rfl
  · intro c n later
    have hother : i ≠ j → 1 - i.val = j.val := by omega
    refine ⟨?_, fun hij hl hh hlen => ?_⟩
    · rintro ⟨hh, hij, q, v, hj, hv⟩
      have hlater : c.heldFirst p i t = false := by
        rw [← Bool.not_eq_true, Chip.heldFirst_iff (hother hij)]
        intro hf
        have := hf q v hj
        omega
      rw [exec_stalledRecordWrite, stalledWrite_of_later hh hlater]
    · have hfirst : c.heldFirst p i t = true := by
        rw [Chip.heldFirst_iff (hother hij)]
        intro q v hj
        have : ¬ (v < t ∨ v = t ∧ i = 1) := fun hv => hl ⟨hh, hij, q, v, hj, hv⟩
        omega
      have hw := writeRecord_written p i r c
      refine ⟨_, exec_stalledRecordWrite p i s, ?_⟩
      rw [stalledWrite_of_first hh hlen hfirst]
      exact ⟨hw.fifo, hw.tdc, hw.hits⟩

end Sys2Proof.Machine
end

section
/-! PROOFS. The correction of a hit (R26, R62, R74 to R79): the tables of an age, the quantities of a correction in the order of the rules,
and its place in the reorder buffer. -/

namespace Sys2Proof.Machine

/-! ### The calibration tables of an age (R26, R229) -/

/-- The calibration table words for data of age k. -/
def Chip.calTable (s : Chip) (k : Nat) : SMap 64 := if k = 0 then (s.mem 4).data else if k = 1 then s.tabs.cal1 else s.tabs.cal2

/-- A byte of the calibration tables for data of age k. -/
def Chip.calAt (s : Chip) (k a : Nat) : Nat :=
  bits (memReset 4 (a / 8) ^^^ (s.calTable k).get (a / 8)).toNat (8 * (a % 8) + 7) (8 * (a % 8))

/-- No word of the calibration tables has a failing parity. -/
def Chip.CalClean (s : Chip) : Prop := ∀ w, (s.mem 4).par.get w = 0#8

theorem memReadAt_cal {s : Chip} (h : s.CalClean) (k w : Nat) :
    memReadAt k 4 w s = ((memReset 4 w ^^^ (s.calTable k).get w).toNat, false, s) := by
  have hold : memReadAt k 4 w s = if (s.calTable k).get w = (s.mem 4).data.get w then memRead 4 w s
      else ((memReset 4 w ^^^ (s.calTable k).get w).toNat, false, s) := by
    match k with
    | 0 => rfl
    | 1 => rfl
    | _ + 2 => rfl
  rw [hold, memRead_clean (h w)]
  split
  · next heq => rw [heq]; rfl
  · rfl

theorem calByte_clean {s : Chip} (h : s.CalClean) (k a : Nat) : calByte k a s = (s.calAt k a, false, s) := by
  unfold calByte
  rw [memReadAt_cal h]
  rfl

theorem fineTime_clean {s : Chip} (h : s.CalClean) (k base f1 f2 : Nat) :
    fineTime k base f1 f2 s = (min 255 (s.calAt k (base + f1) + s.calAt k (base + 16 + f2)), false, s) := by
  unfold fineTime
  rw [calByte_clean h]
  dsimp only
  rw [calByte_clean h]
  rfl

theorem pixelOffset_clean {s : Chip} (h : s.CalClean) (k row col : Nat) :
    pixelOffset k row col s = (sext 8 (s.calAt k (0x20000 + 256 * row + col)), false, s) := by
  unfold pixelOffset pixKey
  rw [calByte_clean h, Nat.add_assoc]
  rfl

/-! ### The quantities of a correction (R62, R74 to R77) -/

section
variable (s : Chip) (k : Nat) (x : RawIn)

/-- A field of the raw record. -/
def RawIn.field (hi lo : Nat) : Nat := bits x.raw.toNat hi lo

/-- The record closed without a start before its stop (R61). -/
def RawIn.order : Bool := x.raw.toNat.testBit 7

/-- The record is of a saturated hit (R60). -/
def RawIn.sat : Bool := x.raw.toNat.testBit 6 && !x.order

/-- The tables of the TDC that made the record (R212). -/
def RawIn.base : Nat := 128 * x.prt + 64 * x.field 49 49

def RawIn.row : Nat := rowOf x.prt (x.field 55 50)
def RawIn.col : Nat := colOf x.prt (x.field 55 50)

/-- The start, in FTU of the LTC (R62). -/
def Chip.startFtu : Nat :=
  256 * x.field 48 33 + min 255 (s.calAt k (x.base + x.field 32 29) + s.calAt k (x.base + 16 + x.field 28 25))

/-- The stop, in FTU of the LTC (R62). -/
def Chip.stopFtu : Nat := 256 * (x.field 48 33 + x.field 24 16) +
  min 255 (s.calAt k (x.base + 32 + x.field 15 12) + s.calAt k (x.base + 48 + x.field 11 8))

/-- Time over threshold in FTU. -/
def Chip.totFtu : Int := (s.stopFtu k x : Int) - (s.startFtu k x : Int)

def Chip.shortHit : Bool := x.order || (!x.sat && decide (s.totFtu k x < 1))

/-- The ToT code (R75). -/
def Chip.totCode : Nat := if x.sat then 0xFFF else if s.shortHit k x then 0 else min 0xFFE (s.totFtu k x / 32).toNat

/-- The offset in the frame before corrections: the residual of the tick and the LTC since it, signed (R74). -/
def Chip.rawOffset : Int := (x.resid : Int) + (((s.startFtu k x : Int) - 256 * x.ltc + 8388608) % 16777216 - 8388608)

/-- The corrected offset in the frame (R75, R76). -/
def Chip.hitOffset : Int :=
  s.rawOffset k x - s.timewalk k (s.totCode k x) x.sat - sext 8 (s.calAt k (0x20000 + 256 * x.row + x.col))

/-- The frame of the corrected hit. -/
def Chip.hitFrame : Nat := ((x.frame : Int) + s.hitOffset k x / 1048576).toNat

/-- The energy code (R76). -/
def Chip.hitEnergyCode : Nat := if s.shortHit k x then 0 else if x.sat then 0xFFF else s.energyCode k x.prt (s.totCode k x)

/-- The hit word of the correction (R77). -/
def Chip.correctedWord : W64 :=
  hitWord x.row x.col (s.hitOffset k x % 1048576).toNat (s.totCode k x) (s.shortHit k x) x.sat
    (x.raw.toNat.testBit 3 || s.tunc (s.hitFrame k x)) (x.raw.toNat.testBit 5 || x.raw.toNat.testBit 4) (s.hitEnergyCode k x)

end

/-- The LTC difference taken as a signed number of 24 bits (R74). -/
theorem sext_unsext_24 (i : Int) : sext 24 (unsext 24 i) = (i + 8388608) % 16777216 - 8388608 := by
  unfold sext unsext
  dsimp only
  split
  · omega
  · omega

/-- With clean tables a correction gives the quantities of R62 and R74 to R77, and leaves the chip as it is. -/
theorem correctWith_clean {s : Chip} (h : s.CalClean) (k : Nat) (x : RawIn) : ∃ raw, correctWith k x s =
    ({ frame := s.hitFrame k x, toa := (s.hitOffset k x % 1048576).toNat, word := s.correctedWord k x, row := x.row, col := x.col,
       short := s.shortHit k x, sat := x.sat, raw := raw, energy := s.hitEnergyCode k x }, s) := by
  unfold correctWith
  extract_lets r p pix tdc row col order sat startC
  rw [fineTime_clean h]
  dsimp -zeta only
  have hstop : (if order || sat then (0, false, s) else fineTime k (128 * p + 64 * tdc + 32) (bits r 15 12) (bits r 11 8) s) =
      (if order || sat then 0 else min 255 (s.calAt k (x.base + 32 + x.field 15 12) + s.calAt k (x.base + 48 + x.field 11 8)), false, s) := by
    split
    · rfl
    · exact fineTime_clean h ..
  rw [hstop]
  dsimp -zeta only
  rw [pixelOffset_clean h]
  dsimp -zeta only
  extract_lets tStart tStop tot short t d u off tc frame toa energy tunc
  have htot : order = false → sat = false → tot = s.totFtu k x := by
    intro ho hs
    have htStop : tStop = (s.stopFtu k x : Int) := congrArg Int.ofNat (congrArg (_ + ·) (if_neg (by simp [ho, hs])))
    exact congrArg (· - tStart) htStop
  have hshort : short = s.shortHit k x := by
    show (order || (!sat && decide (tot < 1))) = (order || (!(sat && !order) && decide (s.totFtu k x < 1)))
    cases ho : order
    · cases hs : sat
      · rw [htot ho hs]
        rfl
      · simp
    · rfl
  have ht : t = s.totCode k x := by
    show (if (sat && !order) = true then 0xFFF else if short = true then 0 else min 0xFFE (tot / 32).toNat) =
      if (sat && !order) = true then 0xFFF else if s.shortHit k x = true then 0 else min 0xFFE (s.totFtu k x / 32).toNat
    rw [← hshort]
    cases ho : order
    · cases hs : sat
      · rw [htot ho hs]
      · simp
    · simp [short, ho]
  have henergy : energy = s.hitEnergyCode k x := by
    show (if (order || short) = true then 0 else if sat = true then 0xFFF else s.energyCode k p t) =
      if s.shortHit k x = true then 0 else if (sat && !order) = true then 0xFFF else s.energyCode k p (s.totCode k x)
    rw [← hshort, ← ht]
    cases ho : order
    · simp
    · simp [short, ho]
  have hoff : off = s.rawOffset k x - s.timewalk k (s.totCode k x) x.sat := by
    rw [← ht]
    exact congrArg (fun d => (x.resid : Int) + d - s.timewalk k t x.sat) (sext_unsext_24 _)
  have htc : tc = s.hitOffset k x := congrArg (· - sext 8 (s.calAt k (0x20000 + 256 * row + col))) hoff
  have hframe : frame = s.hitFrame k x := congrArg (fun v => ((x.frame : Int) + v / 1048576).toNat) htc
  have htoa : toa = (s.hitOffset k x % 1048576).toNat := congrArg (fun v => (v % 1048576).toNat) htc
  have htunc : tunc = (r.testBit 3 || s.tunc (s.hitFrame k x)) := by
    rw [← hframe]
    simp [tunc]
  refine ⟨off, ?_⟩
  rw [hframe, htoa, hshort, ht, henergy, htunc]
  rfl

/-! ### The age of the tables (R26) -/

/-- The tables of age k make a hit in a frame of that age. -/
def Chip.Fits (s : Chip) (x : RawIn) (k : Nat) : Prop := s.ageOf (s.hitFrame k x) = k

/-- The age of the tables that correct a record: the newest that fits, else that of the hit of the newest tables. -/
def Chip.HitAge (s : Chip) (x : RawIn) (k : Nat) : Prop :=
  (k < 3 ∧ s.Fits x k ∧ ∀ j, j < k → ¬ s.Fits x j) ∨ ((∀ j, j < 3 → ¬ s.Fits x j) ∧ k = s.ageOf (s.hitFrame 0 x))

theorem correctRecord_clean {s : Chip} (h : s.CalClean) {x : RawIn} {k : Nat} (hk : s.HitAge x k) :
    correctRecord x s = correctWith k x s := by
  have hframe : ∀ j, (correctWith j x s).1.frame = s.hitFrame j x := fun j => by
    obtain ⟨raw, hj⟩ := correctWith_clean h j x
    rw [hj]
  unfold correctRecord
  simp only [hframe]
  obtain ⟨hk3, hfit, hlow⟩ | ⟨hnone, rfl⟩ := hk
  · rw [List.find?_range_eq_some.mpr]
    exact ⟨beq_iff_eq.mpr hfit, List.mem_range.mpr hk3, fun j hj => by simpa [Chip.Fits] using hlow j hj⟩
  · rw [List.find?_range_eq_none.mpr]
    exact fun j hj => by simpa [Chip.Fits] using hnone j hj

/-! ### The hit word (R77) -/

/-- The fields of a hit word, each cut to its width. -/
structure HitFields (w row col toa tot : Nat) (short sat tunc test : Bool) (energy : Nat) : Prop where
  row : bits w 63 56 = row % 2 ^ 8
  col : bits w 55 48 = col % 2 ^ 8
  toa : bits w 47 28 = toa % 2 ^ 20
  tot : bits w 27 16 = tot % 2 ^ 12
  short : w.testBit 15 = short
  sat : w.testBit 14 = sat
  tunc : w.testBit 13 = tunc
  test : w.testBit 12 = test
  energy : bits w 11 0 = energy % 2 ^ 12

theorem hitWord_fields (row col toa tot : Nat) (short sat tunc test : Bool) (energy : Nat) :
    HitFields (hitWord row col toa tot short sat tunc test energy).toNat row col toa tot short sat tunc test energy := by
  unfold hitWord
  constructor
  case short | sat | tunc | test =>
    rw [w64, testBit_ofNat _ _ _ (by decide)]
    simp (disch := omega) only [Nat.testBit_or, testBit_place_one, testBit_place_out, Bool.or_false, Bool.false_or]
  all_goals
    rw [bits_w64 _ _ _ (by decide)]
    simp (disch := omega) only [bits_or, bits_place_eq, bits_place_apart, Nat.or_zero, Nat.zero_or]

theorem RawIn.pix_lt (x : RawIn) : x.field 55 50 < 64 := bits_lt _ 6 50 (by decide)

theorem RawIn.row_lt {x : RawIn} (hp : x.prt < 1024) : x.row < 2 ^ 8 := by
  have := x.pix_lt
  unfold RawIn.row rowOf
  omega

theorem RawIn.col_lt (x : RawIn) : x.col < 2 ^ 8 := by
  have := x.pix_lt
  unfold RawIn.col colOf
  omega

theorem Chip.totCode_lt (s : Chip) (k : Nat) (x : RawIn) : s.totCode k x < 2 ^ 12 := by
  unfold Chip.totCode
  split
  · decide
  · split <;> omega

theorem Chip.hitEnergyCode_lt (s : Chip) (k : Nat) (x : RawIn) : s.hitEnergyCode k x < 2 ^ 12 := by
  unfold Chip.hitEnergyCode Chip.energyCode
  split
  · decide
  · split
    · decide
    · omega

/-- Every field of the hit word of a correction is within its width. -/
theorem Chip.correctedWord_fields (s : Chip) (k : Nat) {x : RawIn} (hp : x.prt < 1024) :
    let w := (s.correctedWord k x).toNat
    bits w 63 56 = x.row ∧ bits w 55 48 = x.col ∧ bits w 47 28 = (s.hitOffset k x % 1048576).toNat ∧
      bits w 27 16 = s.totCode k x ∧ w.testBit 15 = s.shortHit k x ∧ w.testBit 14 = x.sat ∧
      w.testBit 13 = (x.raw.toNat.testBit 3 || s.tunc (s.hitFrame k x)) ∧
      w.testBit 12 = (x.raw.toNat.testBit 5 || x.raw.toNat.testBit 4) ∧ bits w 11 0 = s.hitEnergyCode k x := by
  obtain ⟨hrow, hcol, htoa, htot, hshort, hsat, htunc, htest, henergy⟩ := hitWord_fields x.row x.col (s.hitOffset k x % 1048576).toNat
    (s.totCode k x) (s.shortHit k x) x.sat (x.raw.toNat.testBit 3 || s.tunc (s.hitFrame k x))
    (x.raw.toNat.testBit 5 || x.raw.toNat.testBit 4) (s.hitEnergyCode k x)
  exact ⟨hrow.trans (Nat.mod_eq_of_lt (RawIn.row_lt hp)), hcol.trans (Nat.mod_eq_of_lt x.col_lt),
    htoa.trans (Nat.mod_eq_of_lt (by omega)), htot.trans (Nat.mod_eq_of_lt (s.totCode_lt k x)), hshort, hsat, htunc, htest,
    henergy.trans (Nat.mod_eq_of_lt (s.hitEnergyCode_lt k x))⟩

/-! ### The reorder buffer (R78, R79, R208) -/

/-- What the calibration engine notes of a record is its own. -/
theorem calRecord_eq (x : RawIn) (frame : Nat) (taken : Bool) (s : Chip) : ∃ cal, calRecord x frame taken s = { s with cal := cal } := by
  unfold calRecord
  dsimp only
  split
  · exact ⟨s.cal, rfl⟩
  · split
    · exact ⟨_, rfl⟩
    · exact ⟨_, rfl⟩

theorem highWater_sameHedges (f : Fld) (v : Nat) (t : Chip) : SameHedges t (t.highWater f v) := by
  unfold Chip.highWater
  split
  · exact ⟨fun _ => rfl, rfl, rfl⟩
  · exact SameHedges.refl t

theorem memWrite_sameHedges (w mask v : Nat) (t : Chip) : SameHedges t (memWrite 9 w mask v t) := by
  have hs := memWrite_ships 9 w mask v (by decide) (by decide) t
  exact ⟨fun g => congrArg (Table.get _ · g) hs.hedges, hs.clk, hs.active⟩

/-- A hit takes a free entry of the reorder buffer, at its place in key order. -/
theorem enterBuffer_of_free {h : Nat} {b : Buffered} {s : Chip} (hfree : (s.hedge h).buf.length < 256) :
    SameHedges (setHedge h { s.hedge h with buf := insertHit { b with slot := freeSlot (s.hedge h).buf } (s.hedge h).buf } s)
      (enterBuffer h b s) := by
  unfold enterBuffer
  dsimp only
  rw [if_pos hfree]
  exact (memWrite_sameHedges _ _ _ _).trans (highWater_sameHedges _ _ _)

/-- The hit of a corrected record, in an entry of the reorder buffer. -/
def Chip.correctedHit (s : Chip) (k : Nat) (x : RawIn) (slot : Nat) : Buffered :=
  { frame := s.hitFrame k x, toa := (s.hitOffset k x % 1048576).toNat, prt := x.prt, pix := x.field 55 50, word := s.correctedWord k x,
    slot := slot }

/-- The chip with the oldest record of a hedge taken. -/
def Chip.dequeued (s : Chip) (h : Nat) (rest : List RawIn) : Chip := setHedge h { s.hedge h with inq := rest } s

/-- A taken record touches no quantity of its correction. -/
theorem correctRecord_dequeued {h k : Nat} {x : RawIn} {s : Chip} (rest : List RawIn) (hclean : s.CalClean) (hk : s.HitAge x k) :
    ∃ c, correctRecord x (s.dequeued h rest) = (c, s.dequeued h rest) ∧ c.frame = s.hitFrame k x ∧
      c.toa = (s.hitOffset k x % 1048576).toNat ∧ c.word = s.correctedWord k x := by
  have hclean0 : (s.dequeued h rest).CalClean := hclean
  have hk0 : (s.dequeued h rest).HitAge x k := hk
  obtain ⟨raw, hc⟩ := correctWith_clean hclean0 k x
  exact ⟨_, (correctRecord_clean hclean0 hk0).trans hc, rfl, rfl, rfl⟩

/-- HEDGE_CORRECTION gives the oldest record, corrected, to the reorder buffer, where the calibration engine does not take it. -/
theorem hedgeCorrection_eq {h k : Nat} {x : RawIn} {rest : List RawIn} {s : Chip} (hup : s.domainUp 1 = true)
    (hq : (s.hedge h).inq = x :: rest) (hclean : s.CalClean) (hk : s.HitAge x k)
    (hnot : x.raw.toNat.testBit 4 = true ∨ s.calHolds (s.hitFrame k x) x.prt (x.field 55 50) = false) :
    hedgeCorrection h s = enterBuffer h (s.correctedHit k x 0) (calRecord x (s.hitFrame k x) false (s.dequeued h rest)) := by
  have htaken : (!x.raw.toNat.testBit 4 && s.calHolds (s.hitFrame k x) x.prt (bits x.raw.toNat 55 50)) = false := by
    rcases hnot with hfolly | hheld
    · rw [hfolly]
      rfl
    · exact (congrArg (_ && ·) hheld).trans (Bool.and_false _)
  obtain ⟨c, hc, hframe, htoa, hword⟩ := correctRecord_dequeued (h := h) rest hclean hk
  unfold hedgeCorrection
  rw [hup, hq]
  dsimp only [Bool.not_true, Bool.false_eq_true, if_false]
  rw [← Chip.dequeued, hc]
  dsimp only
  rw [hframe, htaken, htoa, hword]
  rfl

/-- The hit of a correction enters the reorder buffer of its hedge where an entry is free. -/
theorem hedgeCorrection_enters {h k : Nat} {x : RawIn} {rest : List RawIn} {s : Chip} (hup : s.domainUp 1 = true)
    (hq : (s.hedge h).inq = x :: rest) (hclean : s.CalClean) (hk : s.HitAge x k)
    (hnot : x.raw.toNat.testBit 4 = true ∨ s.calHolds (s.hitFrame k x) x.prt (x.field 55 50) = false)
    (hfree : (s.hedge h).buf.length < 256) :
    SameHedges (setHedge h { s.hedge h with
      inq := rest, buf := insertHit (s.correctedHit k x (freeSlot (s.hedge h).buf)) (s.hedge h).buf } s) (hedgeCorrection h s) := by
  obtain ⟨cal, hcal⟩ := calRecord_eq x (s.hitFrame k x) false (s.dequeued h rest)
  have hhedge : Chip.hedge { s.dequeued h rest with cal := cal } h = { s.hedge h with inq := rest } := Chip.hedge_setHedge_same _ _ _
  have hput := enterBuffer_of_free (b := s.correctedHit k x 0) (s := { s.dequeued h rest with cal := cal }) (h := h)
    (by rw [hhedge]; exact hfree)
  rw [hhedge] at hput
  rw [hedgeCorrection_eq hup hq hclean hk hnot, hcal]
  have htwice := setHedge_sameHedges h { s.hedge h with inq := rest }
    { s.hedge h with inq := rest, buf := insertHit (s.correctedHit k x (freeSlot (s.hedge h).buf)) (s.hedge h).buf } s
  exact ⟨fun g => (hput.hedge g).trans (htwice.hedge g), hput.clk, hput.active⟩

/-- Settles O41: the corrected hit is computed from the tables of its own frame (`correctRecord_clean`), written as a hit word
(`Chip.correctedWord_fields`) and put at its place in key order (`hedgeCorrection_enters`). -/
theorem correctionEntersTheReorderBuffer : Obligations.CorrectionEntersTheReorderBuffer := by
  unfold Obligations.CorrectionEntersTheReorderBuffer
  intro h x rest k s c r byte base pix row col order sat startC tStart tStop tot short t u lerp tw tc energy frame fits
    hk hup hq hprt hnot hfree hclean
  obtain ⟨hhedge, hclk, hactive⟩ := hedgeCorrection_enters (k := k) hup hq hclean hk hnot hfree
  refine ⟨_, rfl, fun g hg => (hhedge g).trans (Chip.hedge_setHedge_ne _ _ hg), hclk, hactive, c.correctedHit k x (freeSlot (c.hedge h).buf),
    (hhedge h).trans (Chip.hedge_setHedge_same _ _ _), rfl, ?_, rfl, rfl, c.correctedWord_fields k hprt⟩
  exact Int.toNat_of_nonneg (Int.emod_nonneg _ (by decide))

end Sys2Proof.Machine
end

section
/-! PROOFS. The FIXED record of the Folly (R67, R68): where it enters the FIFO. -/

namespace Sys2Proof.Machine

/-- A chip whose LAWN domain is up and whose Folly is due in parterre 0, with one record in that FIFO, written in this CCLK by a source
behind the Folly in the order of R68. -/
def chipOfLaterSource : Chip :=
  let on := ({ Chip.initial with rst := { RstSt.initial with ready := true } }.setActive F.HIT_FOLLY_CTL_MODE 1).setActive
    (F.PRT_CTL_FOLLY_EN 0) 1
  on.setLawn { Lawn.initial with fifos := [(0, [0#56])], written := [(0, (on.cclkNow, [3]))], follyBase := 2 * on.cclkNow }

/-- The state of that chip with nothing pending. -/
def stateOfLaterSource : State := { State.reset with chip := chipOfLaterSource }

/-- The Folly record goes before the record of the later source, which stays the last one. -/
theorem follyRecord_before_laterSource : ((follyRecord 0 0 chipOfLaterSource).fifo 0).getLast? = some 0#56 := by
  decide +kernel

/-- Refutes O40: the clause of the Folly says that its record becomes the last one of the FIFO, and has no premise on the sources of
the records of the same CCLK (`Chip.writtenNow`). A record goes before those of this CCLK whose source comes after its own, so the clause
fails where a source above 2 stands in the list. The model's own writers have the sources 0 to 2; the
clause lacks the premise that the list holds no other. -/
theorem not_lawnRowsComplete : ¬ Obligations.LawnRowsComplete := by
  unfold Obligations.LawnRowsComplete
  intro h
  obtain ⟨-, -, -, -, -, -, -, -, hfolly, -⟩ := h stateOfLaterSource
  obtain ⟨happend, -⟩ := hfolly 0 0 0 (by decide +kernel) (by decide +kernel) (by decide +kernel) (by decide +kernel) (by decide +kernel)
  obtain ⟨u, hrun, -, -, -, r, hfifo, -, -, -, -, -, -, hfolly⟩ := happend (by decide +kernel) (by decide +kernel)
  have hu : follyRecord 0 0 chipOfLaterSource = u := congrArg State.chip (Host.Outcome.next.inj hrun)
  have hlast : some r = some 0#56 := by
    rw [← follyRecord_before_laterSource, hu]
    exact (congrArg List.getLast? hfifo).trans List.getLast?_concat |>.symm
  rw [Option.some.inj hlast] at hfolly
  exact absurd hfolly (by decide)

end Sys2Proof.Machine
end

section
/-! PROOFS. The fires (R34, R107, R108, R112): the events that a fire posts for the conditions it meets, and what becomes of a fire. -/

namespace Sys2Proof.Machine

/-! ### What the work of the conditions leaves alone -/

/-- `t` differs from `s` at most in registers that are not RWS and in the trigger engine, whose spans of frames stepped over stay. -/
structure TrgOnly (s t : Chip) : Prop where
  rest : t = { s with regs := { s.regs with direct := t.regs.direct }, trg := t.trg }
  passed : t.trg.passed = s.trg.passed

theorem TrgOnly.refl (s : Chip) : TrgOnly s s := ⟨rfl, rfl⟩

theorem TrgOnly.trans {s t u : Chip} (h : TrgOnly s t) (k : TrgOnly t u) : TrgOnly s u :=
  ⟨by rw [k.rest, h.rest], k.passed.trans h.passed⟩

theorem TrgOnly.clk {s t : Chip} (h : TrgOnly s t) : t.clk = s.clk := by rw [h.rest]
theorem TrgOnly.active {s t : Chip} (h : TrgOnly s t) : t.regs.active = s.regs.active := by rw [h.rest]
theorem TrgOnly.mems {s t : Chip} (h : TrgOnly s t) : t.mems = s.mems := by rw [h.rest]
theorem TrgOnly.openFrom {s t : Chip} (h : TrgOnly s t) : t.openFrom = s.openFrom := by rw [h.rest]; rfl
theorem TrgOnly.ageOf {s t : Chip} (h : TrgOnly s t) (frame : Nat) : t.ageOf frame = s.ageOf frame := by rw [h.rest]; rfl

/-- A FIRE condition (or a CMD condition, with `cmd`) of data of age k that takes the code of a fire (R107). -/
def Chip.fireMeets (s : Chip) (cmd : Bool) (code k n : Nat) : Bool :=
  decide (s.condType k n = if cmd then 8 else 7) && s.condLive k n &&
    (decide (s.condCfg k n 4 4 = 1) || decide (s.condCfg k n 3 0 = code))

theorem TrgOnly.fireMeets {s t : Chip} (h : TrgOnly s t) (cmd : Bool) (code k n : Nat) :
    t.fireMeets cmd code k n = s.fireMeets cmd code k n := by rw [h.rest]; rfl

theorem Chip.fireMeets_iff (s : Chip) (cmd : Bool) (code k n : Nat) : s.fireMeets cmd code k n = true ↔
    s.condType k n = (if cmd then 8 else 7) ∧ s.condLive k n = true ∧ (s.condCfg k n 4 4 = 1 ∨ s.condCfg k n 3 0 = code) := by
  simp [Chip.fireMeets, and_assoc]

/-! ### The event of a condition (R101, R112) -/

/-- The time of an event that is due at t: in a frame stepped over, the start of the first frame after the step (R112). -/
def Chip.eventTime (s : Chip) (t : Nat) : Nat :=
  match s.trg.passed.find? fun x => decide (x.1 < t / frameFtu) && decide (t / frameFtu < x.2) with
  | some x => x.2 * frameFtu
  | none => t

/-- The event that condition n leaves for the combiner. -/
def Chip.eventOf (s : Chip) (t : Nat) (align : Bool) (n : Nat) : TrigEvent := ⟨n, s.eventTime t, s.eventTime t / frameFtu, align, []⟩

theorem TrgOnly.eventTime {s t : Chip} (h : TrgOnly s t) (x : Nat) : t.eventTime x = s.eventTime x := by
  unfold Chip.eventTime
  rw [h.passed]

theorem TrgOnly.eventOf {s t : Chip} (h : TrgOnly s t) (x : Nat) (align : Bool) (n : Nat) : t.eventOf x align n = s.eventOf x align n := by
  unfold Chip.eventOf
  rw [h.eventTime]

theorem postEvent_trg (n t : Nat) (align : Bool) (s : Chip) :
    (postEvent n t align s).trg = { s.trg with events := s.trg.events ++ [s.eventOf t align n] } := rfl

theorem postEvent_trgOnly (n t : Nat) (align : Bool) (s : Chip) : TrgOnly s (postEvent n t align s) := ⟨rfl, rfl⟩

theorem TRG_MET_fits (n : Nat) : (F.TRG_MET_COUNT n).fits := by simp [Fld.fits, F.TRG_MET_COUNT]

theorem postEvent_met_same (n t : Nat) (align : Bool) (s : Chip) :
    (postEvent n t align s).fld (F.TRG_MET_COUNT n) = satTo 32 (s.fld (F.TRG_MET_COUNT n) + 1) :=
  Chip.fld_bump_same _ _ (TRG_MET_fits n) rfl

theorem postEvent_fld_ne {n : Nat} {f : Fld} (h : f.addr ≠ 0x38300 + 4 * n) (t : Nat) (align : Bool) (s : Chip) :
    (postEvent n t align s).fld f = s.fld f :=
  Chip.fld_bump_ne _ h

/-! ### The conditions that a fire meets (R107) -/

/-- An event at the same time for each of a list of conditions. -/
def postAll (ns : List Nat) (t : Nat) (align : Bool) (s : Chip) : Chip := forAll ns (fun n u => postEvent n t align u) s

theorem postAll_cons (n : Nat) (ns : List Nat) (t : Nat) (align : Bool) (s : Chip) :
    postAll (n :: ns) t align s = postAll ns t align (postEvent n t align s) := rfl

theorem postAll_trgOnly (ns : List Nat) (t : Nat) (align : Bool) (s : Chip) : TrgOnly s (postAll ns t align s) := by
  induction ns generalizing s with
  | nil => exact .refl s
  | cons n ns ih => exact (postEvent_trgOnly n t align s).trans (ih _)

theorem postAll_trg (ns : List Nat) (t : Nat) (align : Bool) (s : Chip) :
    (postAll ns t align s).trg = { s.trg with events := s.trg.events ++ ns.map (s.eventOf t align) } := by
  induction ns generalizing s with
  | nil => simp [postAll, forAll]
  | cons n ns ih =>
    have hsame : (postEvent n t align s).eventOf t align = s.eventOf t align := funext ((postEvent_trgOnly n t align s).eventOf t align)
    rw [postAll_cons, ih, postEvent_trg, hsame]
    simp

theorem postAll_fld {ns : List Nat} {f : Fld} (h : ∀ n ∈ ns, f.addr ≠ 0x38300 + 4 * n) (t : Nat) (align : Bool) (s : Chip) :
    (postAll ns t align s).fld f = s.fld f := by
  induction ns generalizing s with
  | nil => rfl
  | cons n ns ih =>
    rw [postAll_cons, ih (fun m hm => h m (List.mem_cons_of_mem n hm)), postEvent_fld_ne (h n List.mem_cons_self)]

theorem postAll_met_of_mem {ns : List Nat} (hd : ns.Nodup) {n : Nat} (h : n ∈ ns) (t : Nat) (align : Bool) (s : Chip) :
    (postAll ns t align s).fld (F.TRG_MET_COUNT n) = satTo 32 (s.fld (F.TRG_MET_COUNT n) + 1) := by
  induction ns generalizing s with
  | nil => cases h
  | cons m ns ih =>
    obtain ⟨hm, hd⟩ := List.nodup_cons.mp hd
    have haddr : (F.TRG_MET_COUNT n).addr = 0x38300 + 4 * n := rfl
    rw [postAll_cons]
    rcases List.mem_cons.mp h with rfl | h
    · rw [postAll_fld (fun k hk => ?_), postEvent_met_same]
      have : k ≠ n := fun e => hm (e ▸ hk)
      omega
    · rw [ih hd h, postEvent_fld_ne]
      have : n ≠ m := fun e => hm (e ▸ h)
      omega

theorem postAll_met_of_notMem {ns : List Nat} {n : Nat} (h : n ∉ ns) (t : Nat) (align : Bool) (s : Chip) :
    (postAll ns t align s).fld (F.TRG_MET_COUNT n) = s.fld (F.TRG_MET_COUNT n) := by
  refine postAll_fld (fun k hk => ?_) t align s
  have hk : k ≠ n := fun e => h (e ▸ hk)
  show 0x38300 + 4 * n ≠ 0x38300 + 4 * k
  omega

/-- The conditions that a fire at time t meets, in ascending order. -/
def Chip.metBy (s : Chip) (cmd : Bool) (code t : Nat) : List Nat := (List.range 32).filter (s.fireMeets cmd code (s.ageOf (t / frameFtu)))

theorem Chip.mem_metBy (s : Chip) {cmd : Bool} {code t n : Nat} (hn : n < 32) :
    n ∈ s.metBy cmd code t ↔ s.fireMeets cmd code (s.ageOf (t / frameFtu)) n = true := by simp [Chip.metBy, hn]

theorem Chip.metBy_nodup (s : Chip) (cmd : Bool) (code t : Nat) : (s.metBy cmd code t).Nodup := List.nodup_range.filter _

theorem TrgOnly.metBy {s t : Chip} (h : TrgOnly s t) (cmd : Bool) (code x : Nat) : t.metBy cmd code x = s.metBy cmd code x := by
  unfold Chip.metBy
  rw [h.ageOf, funext (h.fireMeets cmd code _)]

/-- What the conditions look at is the same after each event, so a fire posts the events of the conditions that it meets at first. -/
theorem triggerFire_eq_postAll (cmd : Bool) (code t : Nat) (align : Bool) (s : Chip) :
    triggerFire cmd code t align s = postAll (s.metBy cmd code t) t align s := by
  have key : ∀ (k : Nat) (ns : List Nat) (u : Chip), TrgOnly s u →
      forAll ns (fun n v => if v.fireMeets cmd code k n then postEvent n t align v else v) u =
        postAll (ns.filter (s.fireMeets cmd code k)) t align u := by
    intro k ns
    induction ns with
    | nil => intro u _; rfl
    | cons n ns ih =>
      intro u hu
      show forAll ns _ (if u.fireMeets cmd code k n then postEvent n t align u else u) = _
      rw [hu.fireMeets, List.filter_cons]
      split
      · exact ih _ (hu.trans (postEvent_trgOnly n t align u))
      · exact ih _ hu
  exact key _ _ s (.refl s)

theorem triggerFire_trgOnly (cmd : Bool) (code t : Nat) (align : Bool) (s : Chip) : TrgOnly s (triggerFire cmd code t align s) := by
  rw [triggerFire_eq_postAll]
  exact postAll_trgOnly _ t align s

theorem triggerFire_trg (cmd : Bool) (code t : Nat) (align : Bool) (s : Chip) : (triggerFire cmd code t align s).trg =
    { s.trg with events := s.trg.events ++ (s.metBy cmd code t).map (s.eventOf t align) } := by
  rw [triggerFire_eq_postAll, postAll_trg]

/-- Each condition that the fire meets counts it once (R101). -/
theorem triggerFire_met {n : Nat} (hn : n < 32) (cmd : Bool) (code t : Nat) (align : Bool) (s : Chip) :
    (triggerFire cmd code t align s).fld (F.TRG_MET_COUNT n) =
      if s.fireMeets cmd code (s.ageOf (t / frameFtu)) n then satTo 32 (s.fld (F.TRG_MET_COUNT n) + 1) else s.fld (F.TRG_MET_COUNT n) := by
  rw [triggerFire_eq_postAll]
  split
  · next h => exact postAll_met_of_mem (s.metBy_nodup cmd code t) ((s.mem_metBy hn).mpr h) t align s
  · next h => exact postAll_met_of_notMem (fun hm => h ((s.mem_metBy hn).mp hm)) t align s

theorem triggerFire_fld {f : Fld} (h : f.addr < 0x38300) (cmd : Bool) (code t : Nat) (align : Bool) (s : Chip) :
    (triggerFire cmd code t align s).fld f = s.fld f := by
  rw [triggerFire_eq_postAll]
  exact postAll_fld (fun n _ => by omega) t align s

/-- No waiting event is late: there is nothing to judge (R112). -/
theorem judgeLate_of_open {s : Chip} (h : ∀ e ∈ s.trg.events, s.openFrom ≤ e.frame) : judgeLate s = s := by
  have hlate : s.trg.events.filter (fun e => decide (e.frame < s.openFrom)) = [] :=
    List.filter_eq_nil_iff.mpr fun e he => by simpa using h e he
  unfold judgeLate
  simp only [hlate, List.isEmpty_nil, if_true]

/-- Events posted in an open frame are not late. -/
theorem triggerFire_open {cmd : Bool} {code t : Nat} {align : Bool} {s : Chip} (h : ∀ e ∈ s.trg.events, s.openFrom ≤ e.frame)
    (ht : s.openFrom ≤ s.eventTime t / frameFtu) :
    ∀ e ∈ (triggerFire cmd code t align s).trg.events, (triggerFire cmd code t align s).openFrom ≤ e.frame := by
  intro e he
  rw [(triggerFire_trgOnly cmd code t align s).openFrom]
  rw [triggerFire_trg] at he
  rcases List.mem_append.mp he with he | he
  · exact h e he
  · obtain ⟨n, -, rfl⟩ := List.mem_map.mp he
    exact ht

/-! ### What becomes of a fire (R34, R107, R108) -/

/-- A fire as its argument words give it, received now. -/
def fireOf (w0 w1 w2 : W64) (s : Chip) : FireDup := ⟨bits w0.toNat 3 0, w2.toNat, bits w1.toNat 63 32, bits w1.toNat 31 16, s.clk.ticks⟩

/-- The fire repeats an accepted one (R108). -/
def Chip.repeats (s : Chip) (d : FireDup) : Bool :=
  s.trg.dups.any fun x => x.code == d.code && x.sec == d.sec && x.ns == d.ns && x.sub == d.sub

/-- The fire has a time of its own, which the time base can place (R34, R107). -/
def Chip.placesFire (s : Chip) (d : FireDup) : Bool := (d.sec != 0 || d.ns != 0 || d.sub != 0) && s.quality != 3

/-- The time that a fire names (R35). -/
def FireDup.time (d : FireDup) : Nat := ofTime128 d.sec d.ns d.sub

/-- A fire that waits for its frame (R108). -/
def holdFire (cmd : Bool) (d : FireDup) (s : Chip) : Chip :=
  if s.now + framesPerSec * frameFtu < d.time || 4 ≤ s.trg.pend.length then dropFire s
  else acceptFire d { s with trg := { s.trg with pend := s.trg.pend ++ [⟨d.time, d.code, cmd⟩] } }

/-- A fire that is accepted and meets its conditions at a time (R107, R108). -/
def meetFire (cmd : Bool) (d : FireDup) (t : Nat) (align : Bool) (s : Chip) : Chip :=
  judgeLate (triggerFire cmd d.code t align (acceptFire d s))

theorem fireIn_of_off {cmd : Bool} {w0 w1 w2 : W64} {arrival : Nat} {s : Chip} (h : s.domainUp 2 = false ∨ s.flag F.TRG_CTL_EN = false) :
    fireIn cmd w0 w1 w2 arrival s = s := by
  unfold fireIn
  rw [if_pos (by simpa using h)]

section
variable {cmd : Bool} {w0 w1 w2 : W64} {arrival : Nat} {s : Chip} (hup : s.domainUp 2 = true) (hen : s.flag F.TRG_CTL_EN = true)
include hup hen

/-- What a working trigger engine does with a fire, in the order of the rules. -/
theorem fireIn_of_on : fireIn cmd w0 w1 w2 arrival s =
    if 999999999 < (fireOf w0 w1 w2 s).ns then (if cmd then s else dropFire s)
    else if s.repeats (fireOf w0 w1 w2 s) then s.bump F.TRG_FIRE_DUP_COUNT
    else if s.placesFire (fireOf w0 w1 w2 s) then
      if (s.clk.frame + 1) * frameFtu < (fireOf w0 w1 w2 s).time then holdFire cmd (fireOf w0 w1 w2 s) s
      else meetFire cmd (fireOf w0 w1 w2 s) (fireOf w0 w1 w2 s).time false s
    else meetFire cmd (fireOf w0 w1 w2 s) arrival true s := by
  unfold fireIn
  rw [if_neg (by simp [hup, hen])]
  rfl

theorem fireIn_of_malformed (hns : 999999999 < (fireOf w0 w1 w2 s).ns) :
    fireIn cmd w0 w1 w2 arrival s = if cmd then s else dropFire s := by
  rw [fireIn_of_on hup hen, if_pos hns]

theorem fireIn_of_repeat (hns : (fireOf w0 w1 w2 s).ns ≤ 999999999) (hdup : s.repeats (fireOf w0 w1 w2 s) = true) :
    fireIn cmd w0 w1 w2 arrival s = s.bump F.TRG_FIRE_DUP_COUNT := by
  rw [fireIn_of_on hup hen, if_neg (Nat.not_lt.mpr hns), if_pos hdup]

theorem fireIn_of_later (hns : (fireOf w0 w1 w2 s).ns ≤ 999999999) (hdup : s.repeats (fireOf w0 w1 w2 s) = false)
    (hp : s.placesFire (fireOf w0 w1 w2 s) = true) (hlt : (s.clk.frame + 1) * frameFtu < (fireOf w0 w1 w2 s).time) :
    fireIn cmd w0 w1 w2 arrival s = holdFire cmd (fireOf w0 w1 w2 s) s := by
  rw [fireIn_of_on hup hen, if_neg (Nat.not_lt.mpr hns), if_neg (Bool.eq_false_iff.mp hdup), if_pos hp, if_pos hlt]

/-- A fire that is neither malformed nor a duplicate and that need not wait meets its conditions at the time that it names, or at
`arrival` with alignment where it names none or the time base cannot place it. -/
theorem fireIn_of_met {t : Nat} {align : Bool} (hns : (fireOf w0 w1 w2 s).ns ≤ 999999999) (hdup : s.repeats (fireOf w0 w1 w2 s) = false)
    (hnow : ¬ (s.placesFire (fireOf w0 w1 w2 s) = true ∧ (s.clk.frame + 1) * frameFtu < (fireOf w0 w1 w2 s).time))
    (hown : s.placesFire (fireOf w0 w1 w2 s) = true → t = (fireOf w0 w1 w2 s).time ∧ align = false)
    (harr : ¬ s.placesFire (fireOf w0 w1 w2 s) = true → t = arrival ∧ align = true) :
    fireIn cmd w0 w1 w2 arrival s = meetFire cmd (fireOf w0 w1 w2 s) t align s := by
  rw [fireIn_of_on hup hen, if_neg (Nat.not_lt.mpr hns), if_neg (Bool.eq_false_iff.mp hdup)]
  split
  · next hp =>
    obtain ⟨rfl, rfl⟩ := hown hp
    rw [if_neg fun hlt => hnow ⟨hp, hlt⟩]
  · next hp =>
    obtain ⟨rfl, rfl⟩ := harr hp
    rfl

end

theorem holdFire_of_no_room {cmd : Bool} {d : FireDup} {s : Chip} (h : s.now + framesPerSec * frameFtu < d.time ∨ 4 ≤ s.trg.pend.length) :
    holdFire cmd d s = dropFire s := by
  unfold holdFire
  rw [if_pos (by simpa using h)]

theorem holdFire_of_room {cmd : Bool} {d : FireDup} {s : Chip} (ht : d.time ≤ s.now + framesPerSec * frameFtu) (hp : s.trg.pend.length < 4) :
    holdFire cmd d s = acceptFire d { s with trg := { s.trg with pend := s.trg.pend ++ [⟨d.time, d.code, cmd⟩] } } := by
  unfold holdFire
  rw [if_neg (by simpa using ⟨ht, hp⟩)]

theorem dropFire_announces (s : Chip) : Announces (s.bump F.TRG_FIRE_DROP_COUNT) (dropFire s) := raise_announces _ (by decide) _

theorem dropFire_seen (s : Chip) : (dropFire s).eventSeen EV.TRG_FIRE_DROP = true := raise_seen _ (by decide) _

theorem acceptFire_trgOnly (d : FireDup) (s : Chip) : TrgOnly s (acceptFire d s) := ⟨rfl, rfl⟩

theorem acceptFire_count (d : FireDup) (s : Chip) : (acceptFire d s).fld F.TRG_FIRE_CNT_COUNT = satTo 32 (s.fld F.TRG_FIRE_CNT_COUNT + 1) :=
  Chip.fld_bump_same _ _ (by decide) rfl

theorem acceptFire_met (d : FireDup) (n : Nat) (s : Chip) : (acceptFire d s).fld (F.TRG_MET_COUNT n) = s.fld (F.TRG_MET_COUNT n) :=
  Chip.fld_bump_ne _ (show 0x38300 + 4 * n ≠ 0x38044 by omega)

/-- A fire that is not late: accepted, counted by the conditions that it meets, and their events left for the combiner. -/
theorem meetFire_eq {cmd : Bool} {d : FireDup} {t : Nat} {align : Bool} {s : Chip} (h : ∀ e ∈ s.trg.events, s.openFrom ≤ e.frame)
    (ht : s.openFrom ≤ s.eventTime t / frameFtu) : meetFire cmd d t align s = triggerFire cmd d.code t align (acceptFire d s) :=
  judgeLate_of_open (triggerFire_open h ht)

theorem triggerFire_acceptFire_trg (cmd : Bool) (d : FireDup) (t : Nat) (align : Bool) (s : Chip) :
    (triggerFire cmd d.code t align (acceptFire d s)).trg = { s.trg with
      dups := s.trg.dups ++ [d]
      events := s.trg.events ++ (s.metBy cmd d.code t).map (s.eventOf t align) } := by
  have ha := acceptFire_trgOnly d s
  rw [triggerFire_trg, ha.metBy, funext (ha.eventOf t align)]
  rfl

theorem triggerFire_acceptFire_met {n : Nat} (hn : n < 32) (cmd : Bool) (d : FireDup) (t : Nat) (align : Bool) (s : Chip) :
    (triggerFire cmd d.code t align (acceptFire d s)).fld (F.TRG_MET_COUNT n) =
      if s.fireMeets cmd d.code (s.ageOf (t / frameFtu)) n then satTo 32 (s.fld (F.TRG_MET_COUNT n) + 1) else s.fld (F.TRG_MET_COUNT n) := by
  have ha := acceptFire_trgOnly d s
  rw [triggerFire_met hn, ha.ageOf, ha.fireMeets, acceptFire_met]

theorem Chip.placesFire_iff (s : Chip) (d : FireDup) :
    s.placesFire d = true ↔ (d.sec ≠ 0 ∨ d.ns ≠ 0 ∨ d.sub ≠ 0) ∧ s.quality ≠ 3 := by
  simp [Chip.placesFire, or_assoc]

/-- Settles O43: the branches of `fireIn_of_on`, and for a fire that meets its conditions the events and counts of `triggerFire` on the
accepted fire. -/
theorem fireIsHeldDroppedOrMet : Obligations.FireIsHeldDroppedOrMet := by
  unfold Obligations.FireIsHeldDroppedOrMet
  intro cmd w0 w1 w2 arrival c u code ns sub dup aligned t dropped accepted
  have hplace : c.placesFire (fireOf w0 w1 w2 c) = true ↔ aligned := c.placesFire_iff _
  have hdropped : u = dropFire c → dropped := fun h => by
    show Announces _ u ∧ u.eventSeen _ = true
    rw [h]
    exact ⟨dropFire_announces c, dropFire_seen c⟩
  refine ⟨fireIn_of_off, fun hup hen => ⟨fun hns hcmd => ?_, fun hns hcmd => ?_, fireIn_of_repeat hup hen, fun hns hdup hal hlt => ?_,
    fun hns hdup hnow at_ align hown harr hopen => ?_⟩⟩
  · exact (fireIn_of_malformed hup hen hns).trans (if_pos hcmd)
  · exact hdropped ((fireIn_of_malformed hup hen hns).trans (if_neg (Bool.eq_false_iff.mp hcmd)))
  · have hhold := fireIn_of_later (cmd := cmd) (arrival := arrival) hup hen hns hdup (hplace.mpr hal) hlt
    exact ⟨fun hfull => hdropped (hhold.trans (holdFire_of_no_room hfull)), fun hnear hroom => hhold.trans (holdFire_of_room hnear hroom)⟩
  · intro passed moved hmoved met
    have hmet : ∀ n, c.fireMeets cmd code (c.ageOf (at_ / 1048576)) n = true ↔ met n := fun n => c.fireMeets_iff cmd code _ n
    have hu : u = triggerFire cmd code at_ align (acceptFire (fireOf w0 w1 w2 c) c) :=
      (fireIn_of_met hup hen hns hdup (by rwa [hplace]) (by rwa [hplace]) (by rwa [hplace])).trans (meetFire_eq hopen hmoved)
    have honly := (acceptFire_trgOnly (fireOf w0 w1 w2 c) c).trans (triggerFire_trgOnly cmd code at_ align _)
    have htrg := triggerFire_acceptFire_trg cmd (fireOf w0 w1 w2 c) at_ align c
    have hcount := fun n hn => triggerFire_acceptFire_met (n := n) hn cmd (fireOf w0 w1 w2 c) at_ align c
    rw [hu]
    refine ⟨(triggerFire_fld (by decide) ..).trans (acceptFire_count _ c), (congrArg Trg.dups htrg :), (congrArg Trg.pend htrg :), honly.clk,
      honly.active, honly.mems, fun n hn => ?_, _, (congrArg Trg.events htrg :), fun n hn => ?_, fun e he => ?_⟩
    · exact ⟨fun h => (hcount n hn).trans (if_pos ((hmet n).mpr h)), fun h => (hcount n hn).trans (if_neg (h ∘ (hmet n).mp))⟩
    · have hmem : n ∈ c.metBy cmd code at_ ↔ ∃ e ∈ (c.metBy cmd code at_).map (c.eventOf at_ align), e.cond = n := by
        simp [Chip.eventOf]
      exact (hmet n).symm.trans ((c.mem_metBy hn).symm.trans hmem)
    · obtain ⟨n, -, rfl⟩ := List.mem_map.mp he
      exact ⟨rfl, rfl, rfl⟩

end Sys2Proof.Machine
end

section
/-! PROOFS. The trigger rows (R107, R108, R115 to R117): the packets of the trigger engine, the arming and forcing of its outputs, and the
fires whose frame has opened. -/

namespace Sys2Proof.Machine

/-! ### A packet for this device (R300, R305) -/

/-- A whole packet on a port that receives, from another device to this one. -/
structure Addressed (p : Port) (q : Packet) (c : Chip) : Prop where
  receives : c.receives p = true
  dest : q.dest.toNat = c.addr
  src : q.src ≠ q.dest
  addr : c.addr < 31
  crc : q.crcOk = true
  whole : q.bad = false

theorem Addressed.dest_eq {p : Port} {q : Packet} {c : Chip} (h : Addressed p q c) : q.dest = BitVec.ofNat 5 c.addr := by
  rw [← h.dest, BitVec.ofNat_toNat, BitVec.setWidth_eq]

theorem Addressed.not_broadcast {p : Port} {q : Packet} {c : Chip} (h : Addressed p q c) : (q.dest == 31#5) = false := by
  have hd := h.dest
  have ha := h.addr
  rw [beq_eq_false_iff_ne]
  intro e
  rw [e] at hd
  simp at hd
  omega

/-- A well-formed packet for this device, no ACTUATE, is counted and handed to its consumer. -/
theorem receivePacket_of_addressed {p : Port} {q : Packet} {first : Nat} {c : Chip} (h : Addressed p q c) (ht : q.ptype ≠ 0x07#8)
    (hm : malformed q = false) : receivePacket p q first c = consume p q first (c.bump (F.RN_RXPKT_COUNT p.ix)) := by
  have hsrc : (q.src == q.dest) = false := by simpa using h.src
  unfold receivePacket deliver
  simp [← h.dest_eq, h.receives, hsrc, h.crc, h.whole, h.not_broadcast, ht, hm]

theorem receiveTyped_of_ne {t : Nat} {p : Port} {q : Packet} (first : Nat) (c : Chip) (h : q.ptype.toNat ≠ t) :
    receiveTyped t p q first c = c := if_neg h

theorem exec_firePacket (p : Port) (q : Packet) (first : Nat) (s : State) :
    exec (.firePacket p q first) s = .next { s with chip := receiveTyped 0x09 p q first s.chip } := rfl

theorem exec_armPacket (p : Port) (q : Packet) (s : State) :
    exec (.armPacket p q) s = .next { s with chip := receiveTyped 0x0A p q 0 s.chip } := rfl

theorem exec_firePendingDue (s : State) : exec .firePendingDue s = .next { s with chip := firePending s.chip } := rfl

theorem exec_autoTrigger (n : Fin 8) (s : State) : exec (.autoTrigger n) s = .next { s with chip := autoTrigger n s.chip } := rfl

/-- A FIRE packet (R107): its arrival is the time of its START less the compensation of the port. -/
theorem receiveTyped_fire {p : Port} {q : Packet} {first : Nat} {c : Chip} {w0 w1 w2 : W64} (h : Addressed p q c) (hc : q.cls = 0#2)
    (ht : q.ptype = 0x09#8) (hw : q.words = [w0, w1, w2]) : receiveTyped 0x09 p q first c =
      fireIn false w0 w1 w2 (c.now - first - c.fld (F.TRG_FIRE_COMP_FTU p.ix)) (c.bump (F.RN_RXPKT_COUNT p.ix)) := by
  have hcomp : (c.bump (F.RN_RXPKT_COUNT p.ix)).fld (F.TRG_FIRE_COMP_FTU p.ix) = c.fld (F.TRG_FIRE_COMP_FTU p.ix) :=
    Chip.fld_setFld_rws _ _ _ _ rfl
  have hm : malformed q = false := by
    unfold malformed
    rw [hc, ht, hw]
    rfl
  unfold receiveTyped
  rw [if_pos (by rw [ht]; rfl), receivePacket_of_addressed h (by rw [ht]; decide) hm, ← hcomp]
  unfold consume
  rw [ht, hw]
  rfl

/-- An ARM packet (R115). -/
theorem receiveTyped_arm {p : Port} {q : Packet} {first : Nat} {c : Chip} {w0 : W64} (h : Addressed p q c) (hc : q.cls = 1#2)
    (ht : q.ptype = 0x0A#8) (hw : q.words = [w0]) : receiveTyped 0x0A p q first c = armIn w0 (c.bump (F.RN_RXPKT_COUNT p.ix)) := by
  have hm : malformed q = false := by
    unfold malformed
    rw [hc, ht, hw]
    rfl
  unfold receiveTyped
  rw [if_pos (by rw [ht]; rfl), receivePacket_of_addressed h (by rw [ht]; decide) hm]
  unfold consume
  rw [ht, hw]
  rfl

/-! ### The trigger outputs -/

theorem Chip.out_setOut_same (s : Chip) (n : Nat) (o : OutSt) : (setOut n o s).out n = o := Table.get_set_same _ _ _ _

theorem Chip.out_setOut_ne (s : Chip) {n m : Nat} (o : OutSt) (h : m ≠ n) : (setOut n o s).out m = s.out m :=
  Table.get_set_ne _ _ _ h.symm

theorem forN_succ (n : Nat) (f : Nat → Chip → Chip) (s : Chip) : forN (n + 1) f s = f n (forN n f s) := by
  unfold forN
  rw [List.range_succ, List.foldl_append]
  rfl

/-- A relation that every step keeps relates the chip before the steps and after them. -/
theorem forN_related {R : Chip → Chip → Prop} (hrefl : ∀ s, R s s) (htrans : ∀ {s t u}, R s t → R t u → R s u) {f : Nat → Chip → Chip}
    (n : Nat) (h : ∀ i, i < n → ∀ s, R s (f i s)) (s : Chip) : R s (forN n f s) := by
  induction n with
  | zero => exact hrefl s
  | succ n ih =>
    rw [forN_succ]
    exact htrans (ih fun i hi => h i (by omega)) (h n (by omega) _)

/-- Of the steps for the numbers below n, only that for m matters to what the others keep. -/
theorem forN_through {R : Chip → Chip → Prop} (hrefl : ∀ s, R s s) (htrans : ∀ {s t u}, R s t → R t u → R s u) {f : Nat → Chip → Chip}
    {m n : Nat} (hm : m < n) (h : ∀ i, i ≠ m → ∀ s, R s (f i s)) (s : Chip) : ∃ u, R s u ∧ R (f m u) (forN n f s) := by
  induction n with
  | zero => omega
  | succ n ih =>
    rw [forN_succ]
    rcases Nat.lt_succ_iff_lt_or_eq.mp hm with hlt | rfl
    · obtain ⟨u, hu, hmu⟩ := ih hlt
      exact ⟨u, hu, htrans hmu (h n (by omega) _)⟩
    · exact ⟨_, forN_related hrefl htrans m (fun i hi => h i (by omega)) s, hrefl _⟩

/-- `t` differs from `s` at most in the trigger outputs. -/
structure OutsOnly (s t : Chip) : Prop where
  rest : t = { s with trg := { s.trg with outs := t.trg.outs } }

theorem OutsOnly.refl (s : Chip) : OutsOnly s s := ⟨rfl⟩

theorem OutsOnly.trans {s t u : Chip} (h : OutsOnly s t) (k : OutsOnly t u) : OutsOnly s u := ⟨by rw [k.rest, h.rest]⟩

theorem setOut_outsOnly (n : Nat) (o : OutSt) (s : Chip) : OutsOnly s (setOut n o s) := ⟨rfl⟩

/-- `t` differs from `s` at most in the trigger outputs other than output m. -/
structure OtherOuts (m : Nat) (s t : Chip) : Prop extends OutsOnly s t where
  out : t.out m = s.out m

theorem OtherOuts.refl (m : Nat) (s : Chip) : OtherOuts m s s := ⟨.refl s, rfl⟩

theorem OtherOuts.trans {m : Nat} {s t u : Chip} (h : OtherOuts m s t) (k : OtherOuts m t u) : OtherOuts m s u :=
  ⟨h.toOutsOnly.trans k.toOutsOnly, k.out.trans h.out⟩

theorem setOut_otherOuts {n m : Nat} (h : n ≠ m) (o : OutSt) (s : Chip) : OtherOuts m s (setOut n o s) :=
  ⟨setOut_outsOnly n o s, s.out_setOut_ne o h.symm⟩

/-- `t` is `s`, or `s` with a new state of output n. -/
def OutStep (n : Nat) (s t : Chip) : Prop := t = s ∨ ∃ o, t = setOut n o s

theorem OutStep.outsOnly {n : Nat} {s t : Chip} (h : OutStep n s t) : OutsOnly s t := by
  rcases h with rfl | ⟨o, rfl⟩
  · exact .refl _
  · exact setOut_outsOnly n o s

theorem OutStep.otherOuts {n m : Nat} {s t : Chip} (h : OutStep n s t) (hne : n ≠ m) : OtherOuts m s t := by
  rcases h with rfl | ⟨o, rfl⟩
  · exact .refl m _
  · exact setOut_otherOuts hne o s

section
variable {f : Nat → Chip → Chip} (hf : ∀ i s, OutStep i s (f i s))
include hf

theorem forN_outsOnly (n : Nat) (s : Chip) : OutsOnly s (forN n f s) :=
  forN_related OutsOnly.refl OutsOnly.trans n (fun i _ u => (hf i u).outsOnly) s

theorem forN_out {m n : Nat} (hm : m < n) (s : Chip) : ∃ u, OtherOuts m s u ∧ (forN n f s).out m = (f m u).out m := by
  obtain ⟨u, hu, hlast⟩ := forN_through (OtherOuts.refl m) OtherOuts.trans hm (fun i hi v => (hf i v).otherOuts hi) s
  exact ⟨u, hu, hlast.out⟩

end

theorem OutsOnly.fld {s t : Chip} (h : OutsOnly s t) (f : Fld) : t.fld f = s.fld f := by rw [h.rest]; rfl

theorem OutsOnly.flag {s t : Chip} (h : OutsOnly s t) (f : Fld) : t.flag f = s.flag f := by rw [h.rest]; rfl

theorem OutsOnly.clk {s t : Chip} (h : OutsOnly s t) : t.clk = s.clk := by rw [h.rest]

theorem OutsOnly.outEnabled {s t : Chip} (h : OutsOnly s t) (k n : Nat) : t.outEnabled k n = s.outEnabled k n := by rw [h.rest]; rfl

theorem OutsOnly.flagAt {s t : Chip} (h : OutsOnly s t) (k : Nat) (f : Fld) : t.flagAt k f = s.flagAt k f := by rw [h.rest]; rfl

theorem OtherOuts.outArmed {m : Nat} {s t : Chip} (h : OtherOuts m s t) (k frame : Nat) : t.outArmed k m frame = s.outArmed k m frame := by
  unfold Chip.outArmed
  rw [h.outEnabled, h.flagAt, h.fld, h.out]

/-! ### ARM and FORCE (R115, R116) -/

/-- What an ARM does at one output. -/
def armOut (w : W64) (n : Nat) (s : Chip) : Chip :=
  if (bits w.toNat 15 8).testBit n && s.flag (F.TRG_OUT_CTL_ARM_MODE n) then
    setOut n { s.out n with armNext := some (bits w.toNat 47 32, bits w.toNat 7 0) } s
  else s

/-- What a FORCE does at one output. -/
def forceOut (w : W64) (n : Nat) (s : Chip) : Chip :=
  if w.toNat.testBit n && s.outArmed 0 n s.clk.frame then
    setOut n { s.out n with force := if (s.out n).force.contains s.clk.frame then (s.out n).force else s.clk.frame :: (s.out n).force } s
  else s

theorem armIn_of_up {w : W64} {s : Chip} (h : s.domainUp 2 = true) : armIn w s = forN 8 (armOut w) s := by
  unfold armIn
  rw [h]
  rfl

theorem forceIn_of_up {w : W64} {s : Chip} (h : s.domainUp 2 = true) : forceIn w s = forN 8 (forceOut w) s := by
  unfold forceIn
  rw [h]
  rfl

theorem armOut_step (w : W64) (n : Nat) (s : Chip) : OutStep n s (armOut w n s) := by
  unfold armOut
  split
  · exact .inr ⟨_, rfl⟩
  · exact .inl rfl

theorem forceOut_step (w : W64) (n : Nat) (s : Chip) : OutStep n s (forceOut w n s) := by
  unfold forceOut
  split
  · exact .inr ⟨_, rfl⟩
  · exact .inl rfl

theorem armOut_out {n : Nat} (hn : n < 8) (w : W64) (s : Chip) : (armOut w n s).out n =
    if w.toNat.testBit (8 + n) && s.flag (F.TRG_OUT_CTL_ARM_MODE n) then
      { s.out n with armNext := some (bits w.toNat 47 32, bits w.toNat 7 0) } else s.out n := by
  have hbit : (bits w.toNat 15 8).testBit n = w.toNat.testBit (8 + n) := by simp [testBit_bits, hn]
  unfold armOut
  rw [hbit]
  split
  · exact s.out_setOut_same n _
  · rfl

theorem forceOut_out (w : W64) (n : Nat) (s : Chip) : (forceOut w n s).out n =
    if w.toNat.testBit n && s.outArmed 0 n s.clk.frame && !(s.out n).force.contains s.clk.frame then
      { s.out n with force := s.clk.frame :: (s.out n).force } else s.out n := by
  unfold forceOut
  split
  · next h =>
    rw [s.out_setOut_same, h, Bool.true_and]
    cases (s.out n).force.contains s.clk.frame <;> rfl
  · next h => rw [Bool.eq_false_iff.mpr h, Bool.false_and, if_neg Bool.false_ne_true]

theorem armIn_outsOnly {w : W64} {s : Chip} (h : s.domainUp 2 = true) : OutsOnly s (armIn w s) := by
  rw [armIn_of_up h]
  exact forN_outsOnly (armOut_step w) 8 s

theorem forceIn_outsOnly {w : W64} {s : Chip} (h : s.domainUp 2 = true) : OutsOnly s (forceIn w s) := by
  rw [forceIn_of_up h]
  exact forN_outsOnly (forceOut_step w) 8 s

theorem armIn_out {w : W64} {s : Chip} {n : Nat} (h : s.domainUp 2 = true) (hn : n < 8) : (armIn w s).out n =
    if w.toNat.testBit (8 + n) && s.flag (F.TRG_OUT_CTL_ARM_MODE n) then
      { s.out n with armNext := some (bits w.toNat 47 32, bits w.toNat 7 0) } else s.out n := by
  obtain ⟨u, hu, hout⟩ := forN_out (armOut_step w) hn s
  rw [armIn_of_up h, hout, armOut_out hn, hu.flag, hu.out]

theorem forceIn_out {w : W64} {s : Chip} {n : Nat} (h : s.domainUp 2 = true) (hn : n < 8) : (forceIn w s).out n =
    if w.toNat.testBit n && s.outArmed 0 n s.clk.frame && !(s.out n).force.contains s.clk.frame then
      { s.out n with force := s.clk.frame :: (s.out n).force } else s.out n := by
  obtain ⟨u, hu, hout⟩ := forN_out (forceOut_step w) hn s
  rw [forceIn_of_up h, hout, forceOut_out, hu.outArmed, hu.clk, hu.out]

/-! ### ARM_LOAD (R115) -/

/-- The state of an output after ARM_LOAD with a COUNT of c, where `was` tells that it had a COUNT before. -/
def OutSt.load (o : OutSt) (c : Nat) (was : Bool) (frame : Nat) : OutSt :=
  { o with armNext := none, armFrom := if c = 0 then none else if was then o.armFrom else some frame }

/-- What ARM_LOAD does at one output. -/
def loadArm (n : Nat) (s : Chip) : Chip :=
  match (s.out n).armNext with
  | some (id, c) =>
    ((setOut n ((s.out n).load c (s.fld (F.TRG_OUT_ARM_STAT_COUNT n) != 0) s.clk.frame) s).setFld
      (F.TRG_OUT_ARM_STAT_ARM_ID n) id).setFld (F.TRG_OUT_ARM_STAT_COUNT n) c
  | none => s

/-- `t` has output m with its ARM_ID and COUNT as `s` has them. -/
structure SameArm (m : Nat) (s t : Chip) : Prop where
  out : t.out m = s.out m
  armId : t.fld (F.TRG_OUT_ARM_STAT_ARM_ID m) = s.fld (F.TRG_OUT_ARM_STAT_ARM_ID m)
  count : t.fld (F.TRG_OUT_ARM_STAT_COUNT m) = s.fld (F.TRG_OUT_ARM_STAT_COUNT m)

theorem SameArm.refl (m : Nat) (s : Chip) : SameArm m s s := ⟨rfl, rfl, rfl⟩

theorem SameArm.trans {m : Nat} {s t u : Chip} (h : SameArm m s t) (k : SameArm m t u) : SameArm m s u :=
  ⟨k.out.trans h.out, k.armId.trans h.armId, k.count.trans h.count⟩

theorem setFld_sameArm {f : Fld} {m : Nat} (h : 0x38428 + 64 * m ≠ f.addr) (v : Nat) (s : Chip) : SameArm m s (s.setFld f v) :=
  ⟨rfl, s.fld_setFld_ne v h, s.fld_setFld_ne v h⟩

theorem setOut_sameArm {n m : Nat} (h : n ≠ m) (o : OutSt) (s : Chip) : SameArm m s (setOut n o s) :=
  ⟨(setOut_otherOuts h o s).out, rfl, rfl⟩

theorem loadArm_sameArm {n m : Nat} (h : n ≠ m) (s : Chip) : SameArm m s (loadArm n s) := by
  have haddr : 0x38428 + 64 * m ≠ 0x38428 + 64 * n := by omega
  unfold loadArm
  split
  · exact ((setOut_sameArm h _ s).trans (setFld_sameArm haddr _ _)).trans (setFld_sameArm haddr _ _)
  · exact .refl m s

theorem loadArm_of_none {n : Nat} {s : Chip} (h : (s.out n).armNext = none) : loadArm n s = s := by
  unfold loadArm
  rw [h]

theorem loadArm_of_some {n id c : Nat} {s : Chip} (h : (s.out n).armNext = some (id, c)) (hid : id < 65536) (hc : c < 256) :
    ((loadArm n s).out n).armNext = none ∧ (loadArm n s).fld (F.TRG_OUT_ARM_STAT_ARM_ID n) = id ∧
      (loadArm n s).fld (F.TRG_OUT_ARM_STAT_COUNT n) = c := by
  have hload : loadArm n s = ((setOut n ((s.out n).load c (s.fld (F.TRG_OUT_ARM_STAT_COUNT n) != 0) s.clk.frame) s).setFld
      (F.TRG_OUT_ARM_STAT_ARM_ID n) id).setFld (F.TRG_OUT_ARM_STAT_COUNT n) c := by
    unfold loadArm
    rw [h]
  rw [hload]
  refine ⟨?_, ?_, ?_⟩
  · exact congrArg OutSt.armNext (s.out_setOut_same n _)
  · have hapart : (F.TRG_OUT_ARM_STAT_COUNT n).apart (F.TRG_OUT_ARM_STAT_ARM_ID n) := .inr (.inl (by decide : 0 + 8 ≤ 16))
    rw [Chip.fld_setFld_apart _ _ _ _ hapart (by decide : 1 ≤ 16)]
    exact (Chip.fld_setFld_same _ _ _ (by decide : 1 ≤ 16 ∧ 16 + 16 ≤ 32) rfl).trans (Nat.mod_eq_of_lt hid)
  · exact (Chip.fld_setFld_same _ _ _ (by decide : 1 ≤ 8 ∧ 0 + 8 ≤ 32) rfl).trans (Nat.mod_eq_of_lt hc)

/-- The accepted fires that no duplicate can repeat any more are forgotten (R108). -/
def forgetFires (s : Chip) : Chip :=
  { s with trg := { s.trg with dups := s.trg.dups.filter fun d => decide (s.clk.ticks < d.frame + 16) } }

theorem forgetFires_sameArm (m : Nat) (s : Chip) : SameArm m s (forgetFires s) := ⟨rfl, rfl, rfl⟩

theorem tickArm_eq (s : Chip) : tickArm s = forgetFires (forN 8 loadArm s) := by
  unfold tickArm
  extract_lets s1
  have hs1 : s1 = forN 8 loadArm s := congrArg (forN 8 · s) rfl
  rw [← hs1]
  rfl

/-- ARM_LOAD at output n, up to what the loads of the other outputs leave alone. -/
theorem tickArm_through {n : Nat} (hn : n < 8) (s : Chip) : ∃ u, SameArm n s u ∧ SameArm n (loadArm n u) (tickArm s) := by
  obtain ⟨u, hu, hlast⟩ := forN_through (SameArm.refl n) SameArm.trans hn (fun i hi v => loadArm_sameArm hi v) s
  rw [tickArm_eq]
  exact ⟨u, hu, hlast.trans (forgetFires_sameArm n _)⟩

theorem tickArm_of_some {n id c : Nat} {s : Chip} (hn : n < 8) (h : (s.out n).armNext = some (id, c)) (hid : id < 65536) (hc : c < 256) :
    ((tickArm s).out n).armNext = none ∧ (tickArm s).fld (F.TRG_OUT_ARM_STAT_ARM_ID n) = id ∧
      (tickArm s).fld (F.TRG_OUT_ARM_STAT_COUNT n) = c := by
  obtain ⟨u, hu, hlast⟩ := tickArm_through hn s
  rw [hlast.out, hlast.armId, hlast.count]
  exact loadArm_of_some (by rw [hu.out, h]) hid hc

theorem tickArm_of_none {n : Nat} {s : Chip} (hn : n < 8) (h : (s.out n).armNext = none) : SameArm n s (tickArm s) := by
  obtain ⟨u, hu, hlast⟩ := tickArm_through hn s
  rw [loadArm_of_none (by rw [hu.out, h])] at hlast
  exact hu.trans hlast

/-! ### FIRE_PENDING_DUE (R108) -/

theorem satTo_satTo_add (w v n : Nat) : satTo w (satTo w v + n) = satTo w (v + n) := by
  unfold satTo
  omega

/-- The pending fires of a list meet their conditions in order. -/
def meetPending (ps : List PendFire) (s : Chip) : Chip := forAll ps (fun p u => triggerFire p.cmd p.code p.t false u) s

theorem meetPending_cons (p : PendFire) (ps : List PendFire) (s : Chip) :
    meetPending (p :: ps) s = meetPending ps (triggerFire p.cmd p.code p.t false s) := rfl

theorem meetPending_trgOnly (ps : List PendFire) (s : Chip) : TrgOnly s (meetPending ps s) := by
  induction ps generalizing s with
  | nil => exact .refl s
  | cons p ps ih => exact (triggerFire_trgOnly ..).trans (ih _)

/-- Fires that meet their conditions leave the pending fires and the duplicates alone. -/
theorem meetPending_queues (ps : List PendFire) (s : Chip) :
    (meetPending ps s).trg.pend = s.trg.pend ∧ (meetPending ps s).trg.dups = s.trg.dups := by
  induction ps generalizing s with
  | nil => exact ⟨rfl, rfl⟩
  | cons p ps ih =>
    obtain ⟨hpend, hdups⟩ := ih (triggerFire p.cmd p.code p.t false s)
    have htrg := triggerFire_trg p.cmd p.code p.t false s
    exact ⟨hpend.trans (congrArg Trg.pend htrg :), hdups.trans (congrArg Trg.dups htrg :)⟩

theorem meetPending_open {ps : List PendFire} {s : Chip} (h : ∀ e ∈ s.trg.events, s.openFrom ≤ e.frame)
    (hp : ∀ p ∈ ps, s.openFrom ≤ s.eventTime p.t / frameFtu) :
    ∀ e ∈ (meetPending ps s).trg.events, (meetPending ps s).openFrom ≤ e.frame := by
  induction ps generalizing s with
  | nil => exact h
  | cons p ps ih =>
    have honly := triggerFire_trgOnly p.cmd p.code p.t false s
    refine ih (triggerFire_open h (hp p List.mem_cons_self)) fun q hq => ?_
    rw [honly.openFrom, honly.eventTime]
    exact hp q (List.mem_cons_of_mem p hq)

/-- Condition n counts each fire that it takes (R101). -/
theorem meetPending_met {n : Nat} (hn : n < 32) (ps : List PendFire) (s : Chip) : (meetPending ps s).fld (F.TRG_MET_COUNT n) =
    satTo 32 (s.fld (F.TRG_MET_COUNT n) + ps.countP fun p => s.fireMeets p.cmd p.code (s.ageOf (p.t / frameFtu)) n) := by
  induction ps generalizing s with
  | nil =>
    have hlt : s.fld (F.TRG_MET_COUNT n) < 2 ^ 32 := fld_lt s _ (TRG_MET_fits n)
    show s.fld (F.TRG_MET_COUNT n) = min (s.fld (F.TRG_MET_COUNT n)) (2 ^ 32 - 1)
    omega
  | cons p ps ih =>
    have honly := triggerFire_trgOnly p.cmd p.code p.t false s
    rw [meetPending_cons, ih, triggerFire_met hn, List.countP_cons]
    simp only [honly.fireMeets, honly.ageOf]
    split
    · rw [satTo_satTo_add, Nat.add_right_comm, Nat.add_assoc]
    · rfl

/-- The chip without the pending fires whose frame has opened. -/
def dropDue (s : Chip) : Chip :=
  { s with trg := { s.trg with pend := s.trg.pend.filter fun p => !decide (p.t / frameFtu ≤ s.clk.frame) } }

theorem dropDue_trgOnly (s : Chip) : TrgOnly s (dropDue s) := ⟨rfl, rfl⟩

theorem firePending_of_off {s : Chip} (h : s.domainUp 2 = false ∨ s.flag F.TIM_STAT_STEP_HOLD = true) : firePending s = s := by
  unfold firePending
  rw [if_pos (by simpa using h)]

theorem firePending_of_on {s : Chip} (hup : s.domainUp 2 = true) (hhold : s.flag F.TIM_STAT_STEP_HOLD = false)
    (h : ∀ e ∈ s.trg.events, s.openFrom ≤ e.frame)
    (hp : ∀ p ∈ s.trg.pend.filter fun p => decide (p.t / frameFtu ≤ s.clk.frame), s.openFrom ≤ s.eventTime p.t / frameFtu) :
    firePending s = meetPending (s.trg.pend.filter fun p => decide (p.t / frameFtu ≤ s.clk.frame)) (dropDue s) := by
  unfold firePending
  rw [if_neg (by simp [hup, hhold])]
  exact judgeLate_of_open (meetPending_open h hp)

/-- The frame of an event: that of its time, or in a frame stepped over the first one after the step (R112). -/
theorem Chip.eventTime_frame (s : Chip) (t : Nat) : s.eventTime t / frameFtu =
    match s.trg.passed.find? fun x => decide (x.1 < t / frameFtu) && decide (t / frameFtu < x.2) with
    | some x => x.2
    | none => t / frameFtu := by
  unfold Chip.eventTime
  cases s.trg.passed.find? fun x => decide (x.1 < t / frameFtu) && decide (t / frameFtu < x.2) with
  | some x => exact Nat.mul_div_cancel x.2 (by decide : 0 < frameFtu)
  | none => rfl

/-! ### AUTO_TRIGGER (R117) -/

/-- The auto timer of output n has run out: it marks the frame in progress. -/
def Chip.AutoDue (s : Chip) (n : Nat) : Prop :=
  ∃ e, (s.out n).timer = some e ∧ s.domainUp 2 = true ∧ s.fld (F.TRG_OUT_AUTO_FRAMES n) ≠ 0 ∧
    s.clk.frame = e + s.fld (F.TRG_OUT_AUTO_FRAMES n) ∧ s.outArmed 0 n s.clk.frame = true ∧ s.capturing n = false

theorem autoTrigger_of_due {n : Nat} {s : Chip} (h : s.AutoDue n) :
    autoTrigger n s = setOut n { s.out n with auto := some s.clk.frame } s := by
  obtain ⟨e, htimer, hup, hauto, hframe, harmed, hfree⟩ := h
  unfold autoTrigger
  simp [htimer, hup, hauto, ← hframe, harmed, hfree]

theorem autoTrigger_of_not_due {n : Nat} {s : Chip} (h : ¬ s.AutoDue n) : autoTrigger n s = s := by
  unfold autoTrigger
  dsimp only
  split
  · next e htimer =>
    refine if_neg fun hc => h ⟨e, htimer, ?_⟩
    simpa [and_assoc] using hc
  · rfl

/-- Settles O44, row by row: the packets (`receiveTyped_fire`, `receiveTyped_arm`), ARM and FORCE at each output (`armIn_out`,
`forceIn_out`), ARM_LOAD (`tickArm_of_some`), the pending fires (`meetPending_met`) and the auto timer. -/
theorem triggerRowsComplete : Obligations.TriggerRowsComplete := by
  unfold Obligations.TriggerRowsComplete
  refine ⟨fun p q first s => ?_, fun w c hup => ?_, fun c n hn => ?_, fun s => ?_, fun n s => ?_⟩
  · intro c good good1
    refine ⟨fun w0 w1 w2 hgood ht hw => ?_, fun ht => ?_, fun w0 hgood ht hw => ?_, fun ht => ?_⟩
    · obtain ⟨hrec, hdest, hsrc, haddr, hcrc, hbad, hcls⟩ := hgood
      exact ⟨_, exec_firePacket p q first s, receiveTyped_fire ⟨hrec, hdest, hsrc, haddr, hcrc, hbad⟩ hcls ht hw⟩
    · rw [exec_firePacket, receiveTyped_of_ne (t := 0x09) first _ fun e => ht (BitVec.eq_of_toNat_eq e)]
    · obtain ⟨hrec, hdest, hsrc, haddr, hcrc, hbad, hcls⟩ := hgood
      exact ⟨_, exec_armPacket p q s, receiveTyped_arm ⟨hrec, hdest, hsrc, haddr, hcrc, hbad⟩ hcls ht hw⟩
    · rw [exec_armPacket, receiveTyped_of_ne (t := 0x0A) 0 _ fun e => ht (BitVec.eq_of_toNat_eq e)]
  · exact ⟨fun n hn => armIn_out hup hn, (armIn_outsOnly hup).rest, fun n hn => forceIn_out hup hn, (forceIn_outsOnly hup).rest⟩
  · exact ⟨fun id cnt h hid hcnt => tickArm_of_some hn h hid hcnt, fun h => ⟨(tickArm_of_none hn h).out, (tickArm_of_none hn h).count⟩⟩
  · intro c due
    refine ⟨fun hoff => ?_, fun hup hhold hev hdue => ?_⟩
    · rw [exec_firePendingDue, firePending_of_off hoff]
    · have hmet := firePending_of_on hup hhold hev fun p hp => by
        rw [Chip.eventTime_frame]
        exact hdue p hp
      obtain ⟨hpend, hdups⟩ := meetPending_queues due (dropDue c)
      have honly := (dropDue_trgOnly c).trans (meetPending_trgOnly due _)
      refine ⟨_, exec_firePendingDue s, ?_⟩
      rw [hmet]
      exact ⟨hpend, hdups, honly.clk, honly.active, honly.mems, fun n hn => meetPending_met hn due (dropDue c)⟩
  · intro c due
    refine ⟨fun h => ⟨_, exec_autoTrigger n s, ?_⟩, fun h => ?_⟩
    · rw [autoTrigger_of_due h]
      exact ⟨c.out_setOut_same n _, (setOut_outsOnly n _ c).rest, fun m hm => c.out_setOut_ne _ hm⟩
    · rw [exec_autoTrigger, autoTrigger_of_not_due h]

end Sys2Proof.Machine
end

section
/-! PROOFS. What decides the age of a frame's configuration (R26) and no raising touches: the clock, the banks of RWS fields, and the
frame that the frame builder holds as the previous one. -/

namespace Sys2Proof.Machine

/-! ### The previous frame of the frame builder -/

/-- `t` has the previous frame of the frame builder as `s` has it. -/
def SamePrev (s t : Chip) : Prop := t.fb.prev = s.fb.prev

section
variable {s t u : Chip}

theorem SamePrev.refl (s : Chip) : SamePrev s s := rfl

theorem SamePrev.trans (h : SamePrev s t) (k : SamePrev t u) : SamePrev s u := Eq.trans k h

theorem SamePrev.of_fb (h : t.fb = s.fb) : SamePrev s t := congrArg FrameBuilder.prev h

theorem SamePrev.ite {b : Prop} [Decidable b] (h : SamePrev s t) (k : SamePrev s u) : SamePrev s (if b then t else u) := by
  split
  · exact h
  · exact k

theorem SamePrev.forAll {α : Type} {f : α → Chip → Chip} (h : ∀ a s, SamePrev s (f a s)) (l : List α) (s : Chip) :
    SamePrev s (forAll l f s) := by
  unfold Sys2Proof.Machine.forAll
  induction l generalizing s with
  | nil => exact SamePrev.refl s
  | cons a l ih => exact (h a s).trans (ih _)

end

theorem setPort_samePrev (p : Port) (x : PortSt) (s : Chip) : SamePrev s (s.setPort p x) := .of_fb (s.setPort_fb p x)

theorem highWater_samePrev (f : Fld) (v : Nat) (s : Chip) : SamePrev s (s.highWater f v) := .of_fb (s.highWater_fb f v)

theorem bump_samePrev (f : Fld) (s : Chip) : SamePrev s (s.bump f) := rfl

/-- What a raiser is held to. -/
def KeepsPrev (rz : Nat → Chip → Chip) : Prop := ∀ e s, SamePrev s (rz e s)

section
variable {rz : Nat → Chip → Chip} (hz : KeepsPrev rz)
include hz

/-- A raising behind a counter. -/
theorem KeepsPrev.bump (e : Nat) (f : Fld) (s : Chip) : SamePrev s (rz e (s.bump f)) := (bump_samePrev f s).trans (hz e _)

theorem wrapInto_samePrev (o : Port) (q : TxPkt) (s : Chip) : SamePrev s (wrapInto rz o q s) :=
  .ite (.ite (.refl s) (hz.bump _ _ s)) (.ite ((setPort_samePrev o _ s).trans (highWater_samePrev _ _ _)) (hz.bump _ _ s))

theorem startWrap_samePrev (p : Port) (s : Chip) : SamePrev s (startWrap rz p s) := by
  unfold startWrap
  extract_lets t s1 s2
  have h2 : SamePrev s s2 := setPort_samePrev p _ s
  exact .ite (.refl s) ((h2.trans (hz _ _)).trans (.forAll (fun q => wrapInto_samePrev hz p.other q) _ _))

theorem placeTx_samePrev (p : Port) (q : TxPkt) (s : Chip) : SamePrev s (placeTx rz p q s) :=
  .ite (.ite (.ite ((setPort_samePrev p _ s).trans (highWater_samePrev _ _ _)) (hz.bump _ _ s)) (setPort_samePrev p _ s))
    (.ite ((startWrap_samePrev hz p s).trans (wrapInto_samePrev hz _ q _)) (bump_samePrev _ s))

theorem refuse_samePrev (cls : Nat) (s : Chip) : SamePrev s (refuse rz cls s) := hz.bump _ _ s

theorem offerDrop_samePrev (p : Port) (o : Offer) (v : Nat) (s : Chip) : SamePrev s (offerDrop rz p o v s).2 := by
  unfold offerDrop
  dsimp only
  split
  · exact (setPort_samePrev p _ s).trans (placeTx_samePrev hz p _ _)
  · split
    · exact (refuse_samePrev hz _ s).trans (hz.bump _ _ _)
    · exact refuse_samePrev hz _ s

theorem sendDrop_samePrev (o : Offer) (s : Chip) : SamePrev s (sendDrop rz o s).2 := by
  have hports : ∀ (l : List Port) (acc : Bool × Chip), SamePrev s acc.2 →
      SamePrev s (l.foldl (fun (acc : Bool × Chip) p =>
        let (a, t) := offerDrop rz p o (s.takePseq o.cls.toNat).1 acc.2; (acc.1 || a, t)) acc).2 := by
    intro l
    induction l with
    | nil => exact fun acc h => h
    | cons p l ih => exact fun acc h => ih _ (h.trans (offerDrop_samePrev hz p o _ acc.2))
  have hsent := hports (s.routes o.dest.toNat) (false, (s.takePseq o.cls.toNat).2) rfl
  unfold sendDrop
  dsimp only
  split
  · exact hsent
  · exact hsent

theorem sendStop_samePrev (c t : Nat) (s : Chip) : SamePrev s (sendStop rz c t s) := by
  unfold sendStop
  extract_lets seq s1 w0 o r
  have hr : SamePrev s r.2 := sendDrop_samePrev hz o s1
  exact .ite (hr.trans (bump_samePrev _ _)) hr

/-- HOLDLOOPS marks the frame in progress only (R245). -/
theorem meetCond_samePrev (c t : Nat) (s : Chip) : SamePrev s (meetCond rz c t s) := by
  unfold meetCond
  extract_lets sc fb s0 s1 s1a s2 s4
  have h0 : SamePrev s s0 := by
    dsimp only [s0, SamePrev]
    split
    · rfl
    · rfl
  have h1 : SamePrev s s1 := .ite (h0.trans (hz.bump _ _ _)) h0
  have h1a : SamePrev s s1a := .ite (b := s.flag (F.LOOP_SC_CFG_LATCH c) = true) h1 h1
  have h4 : SamePrev s s4 := h1a.trans (hz.bump _ _ s2)
  exact .ite h1a (.ite (h4.trans (sendStop_samePrev hz c t _)) h4)

theorem offerSafety_samePrev (e : Nat) (s : Chip) : SamePrev s (offerSafety rz e s) :=
  .forAll (fun c s => .ite (meetCond_samePrev hz c _ s) (.refl s)) (List.range 16) s

end

theorem markEvent_samePrev (e : Nat) (s : Chip) : SamePrev s (markEvent e s) := rfl

theorem raiseFuel_keepsPrev (n : Nat) : KeepsPrev (raiseFuel n) := by
  induction n with
  | zero => exact markEvent_samePrev
  | succ n ih =>
    intro e s
    unfold raiseFuel
    dsimp only
    split
    · exact markEvent_samePrev e s
    · split
      · exact markEvent_samePrev e s
      · exact .ite (markEvent_samePrev e s) ((markEvent_samePrev e s).trans (offerSafety_samePrev ih e _))
      · exact markEvent_samePrev e s

theorem raise_samePrev (e : Nat) (s : Chip) : SamePrev s (raise e s) := raiseFuel_keepsPrev 17 e s

/-! ### The age of a frame's configuration (R26) -/

/-- `t` reads the configuration of every frame as `s` does. -/
structure SameAges (s t : Chip) : Prop where
  active : t.regs.active = s.regs.active
  old1 : t.regs.old1 = s.regs.old1
  old2 : t.regs.old2 = s.regs.old2
  clk : t.clk = s.clk
  prev : SamePrev s t

section
variable {s t u : Chip}

theorem SameAges.trans (h : SameAges s t) (k : SameAges t u) : SameAges s u :=
  ⟨k.active.trans h.active, k.old1.trans h.old1, k.old2.trans h.old2, k.clk.trans h.clk, h.prev.trans k.prev⟩

theorem raise_sameAges {e : Nat} (he : e < 384) (s : Chip) : SameAges s (raise e s) :=
  have h := raise_announces e he s
  ⟨h.active, h.old1, h.old2, h.clk, raise_samePrev e s⟩

theorem bump_sameAges (f : Fld) (s : Chip) : SameAges s (s.bump f) := ⟨rfl, rfl, rfl, rfl, rfl⟩

theorem SameAges.ageOf (h : SameAges s t) (frame : Nat) : t.ageOf frame = s.ageOf frame := by
  have hprev : t.fb.prev = s.fb.prev := h.prev
  unfold Chip.ageOf
  rw [h.clk, hprev]

theorem SameAges.fldAt (h : SameAges s t) (k : Nat) (f : Fld) : t.fldAt k f = s.fldAt k f := by
  unfold Chip.fldAt
  rw [h.active, h.old1, h.old2]

theorem SameAges.flagAt (h : SameAges s t) (k : Nat) (f : Fld) : t.flagAt k f = s.flagAt k f := by
  unfold Chip.flagAt
  rw [h.fldAt]

end

end Sys2Proof.Machine
end

section
/-! PROOFS. The waveform rows (R133, R138, R140, R142 to R144, R149, R220, R221): the code and the stamp of a conversion, its counters,
and the place of its sample in the sequence of frames. -/

namespace Sys2Proof.Machine

/-! ### The waveform channels -/

theorem Chip.wch_setWch_same (s : Chip) (c : Nat) (x : WavCh) : (setWch c x s).wch c = x := Table.get_set_same _ _ _ _

theorem Chip.wch_setWch_ne (s : Chip) {c k : Nat} (x : WavCh) (h : k ≠ c) : (setWch c x s).wch k = s.wch k :=
  Table.get_set_ne _ _ _ h.symm

theorem Chip.wch_congr {s t : Chip} (h : t.wav = s.wav) (c : Nat) : t.wch c = s.wch c := by
  unfold Chip.wch
  rw [h]

theorem Feeds.wch {s t : Chip} (h : Feeds s t) (c : Nat) : t.wch c = s.wch c := Chip.wch_congr (congrArg (fun c => c.wav) h.rest) c

theorem Feeds.mems {s t : Chip} (h : Feeds s t) : t.mems = s.mems := congrArg (fun c => c.mems) h.rest

/-- No register of a waveform channel is one that an announcement touches. -/
theorem announceAddr_wavCh {a c : Nat} (hc : c < 4) (h : 0x40000 ≤ a := by decide) (h' : a < 0x40200 := by decide) :
    announceAddr (a + 32 * c) = false := by
  rw [← Bool.not_eq_true, announceAddr_iff]
  omega

/-- Two registers of one waveform channel. -/
theorem wavAddr_ne {a b : Nat} (c : Nat) (h : a ≠ b) : a + 32 * c ≠ b + 32 * c := fun e => h (Nat.add_right_cancel e)

/-! ### The code and the stamp of a conversion (R138, R143, R151) -/

/-- The code of a conversion: the signal within the range of its input mode, or the Folly's code. -/
def Chip.wavCode (s : Chip) (c : Nat) (raw : Int) : Int :=
  if s.wavFolly c then s.follyCode (s.flag (F.WAV_CH_CFG_SE c)) (s.wch c).folly else limitCode (s.flag (F.WAV_CH_CFG_SE c)) raw

/-- A signal, and no code of the Folly, gave a limit code. -/
def Chip.wavExcess (s : Chip) (c : Nat) (raw : Int) : Bool :=
  !s.wavFolly c && atLimit (s.flag (F.WAV_CH_CFG_SE c)) (s.wavCode c raw)

theorem Chip.wavExcess_iff (s : Chip) (c : Nat) (raw : Int) : s.wavExcess c raw = true ↔ s.wavFolly c = false ∧
    if s.flag (F.WAV_CH_CFG_SE c) then s.wavCode c raw = 0 ∨ s.wavCode c raw = 16383
    else s.wavCode c raw = -8192 ∨ s.wavCode c raw = 8191 := by
  unfold Chip.wavExcess atLimit
  cases s.flag (F.WAV_CH_CFG_SE c)
  · simp
  · simp

/-- The network time of a conversion's sample. -/
def Chip.wavStamp (s : Chip) (c : Nat) : Int :=
  ((s.now + (s.wch c).began + (s.wch c).n * modePeriod (s.fld F.WAV_CTL_MODE) : Nat) : Int) - (s.clockFtu : Int) + s.wavDelay 0 c

/-- The container value of a code for a frame (R26, R142). -/
def Chip.wavValue (s : Chip) (c frame : Nat) (code : Int) : Int := container (s.flagAt (s.ageOf frame) (F.WAV_CH_CFG_ALIGN c)) code

theorem SameAges.wavValue {s t : Chip} (h : SameAges s t) (c frame : Nat) (code : Int) :
    t.wavValue c frame code = s.wavValue c frame code := by
  unfold Chip.wavValue
  rw [h.ageOf, h.flagAt]

/-! ### A conversion is counted (R140, R144) -/

/-- The state of a channel after a conversion, whatever becomes of the sample. -/
def Chip.converted (s : Chip) (c : Nat) (raw : Int) : WavCh :=
  { s.wch c with
    n := (s.wch c).n + 1
    folly := if s.wavFolly c then (s.wch c).folly + 1 else (s.wch c).folly
    ovrAt := if s.wavExcess c raw then some s.clk.frame else (s.wch c).ovrAt }

/-- A limit code counts, with its event once in a frame. -/
def countExcess (c : Nat) (last : Option Nat) (s : Chip) : Chip :=
  if last = some s.clk.frame then s.bump (F.WAV_CH_OVR_COUNT c) else raise EV.WAV_OVR (s.bump (F.WAV_CH_OVR_COUNT c))

/-- A conversion counts. -/
def countSample (c : Nat) (raw : Int) (s : Chip) : Chip := (setWch c (s.converted c raw) s).bump (F.WAV_CH_SAMP_COUNT c)

/-- A conversion counts, and a limit code counts too. -/
def countConversion (c : Nat) (raw : Int) (s : Chip) : Chip :=
  cond (s.wavExcess c raw) (countExcess c (s.wch c).ovrAt) (countSample c raw s)

/-- What the treatment of a sample of channel c leaves: the count of its conversions, the other channels, the clock, the memories, the
configuration, the two counters of conversions, and every event that was seen. -/
structure KeepsConversion (c : Nat) (s t : Chip) : Prop where
  n : (t.wch c).n = (s.wch c).n
  others : ∀ k, k ≠ c → t.wch k = s.wch k
  clk : t.clk = s.clk
  mems : t.mems = s.mems
  active : t.regs.active = s.regs.active
  samples : t.fld (F.WAV_CH_SAMP_COUNT c) = s.fld (F.WAV_CH_SAMP_COUNT c)
  limits : t.fld (F.WAV_CH_OVR_COUNT c) = s.fld (F.WAV_CH_OVR_COUNT c)
  events : ∀ e, e < 384 → s.eventSeen e = true → t.eventSeen e = true

section
variable {c : Nat} {s t u : Chip}

theorem KeepsConversion.trans (h : KeepsConversion c s t) (k : KeepsConversion c t u) : KeepsConversion c s u :=
  ⟨k.n.trans h.n, fun m hm => (k.others m hm).trans (h.others m hm), k.clk.trans h.clk, k.mems.trans h.mems, k.active.trans h.active,
    k.samples.trans h.samples, k.limits.trans h.limits, fun e he hs => k.events e he (h.events e he hs)⟩

theorem Feeds.keepsConversion (h : Feeds s t) (hc : c < 4) : KeepsConversion c s t :=
  ⟨congrArg WavCh.n (h.wch c), fun k _ => h.wch k, h.clk, h.mems, h.active,
    h.fld (F.WAV_CH_SAMP_COUNT c) (announceAddr_wavCh hc) (.inr (show 0x39000 ≤ 0x40108 + 32 * c by omega)),
    h.fld (F.WAV_CH_OVR_COUNT c) (announceAddr_wavCh hc) (.inr (show 0x39000 ≤ 0x4010C + 32 * c by omega)), h.events⟩

theorem setWch_keepsConversion {x : WavCh} (h : x.n = (s.wch c).n) : KeepsConversion c s (setWch c x s) :=
  ⟨(congrArg WavCh.n (s.wch_setWch_same c x)).trans h, fun _ hk => s.wch_setWch_ne x hk, rfl, rfl, rfl, rfl, rfl, fun _ _ h => h⟩

theorem sampleForCal_keepsConversion (c n : Nat) (code : Int) (s : Chip) : KeepsConversion c s (sampleForCal c n code s) :=
  ⟨rfl, fun _ _ => rfl, rfl, rfl, rfl, rfl, rfl, fun _ _ h => h⟩

theorem bumpSlip_keepsConversion (c : Nat) (s : Chip) : KeepsConversion c s (s.bump (F.WAV_CH_DROP_SLIP c)) :=
  ⟨rfl, fun _ _ => rfl, rfl, rfl, rfl, s.fld_bump_ne (wavAddr_ne c (by decide)),
    s.fld_bump_ne (wavAddr_ne c (by decide)), fun e he h => (setFld_seen s _ _ e he statAddr_indexed).trans h⟩

end

/-- What a conversion does whatever becomes of its sample. -/
structure ConversionCounted (c : Nat) (raw : Int) (s u : Chip) : Prop where
  n : (u.wch c).n = (s.wch c).n + 1
  others : ∀ k, k ≠ c → u.wch k = s.wch k
  clk : u.clk = s.clk
  mems : u.mems = s.mems
  active : u.regs.active = s.regs.active
  samples : u.fld (F.WAV_CH_SAMP_COUNT c) = satTo 32 (s.fld (F.WAV_CH_SAMP_COUNT c) + 1)
  excess : s.wavExcess c raw = true → u.fld (F.WAV_CH_OVR_COUNT c) = satTo 32 (s.fld (F.WAV_CH_OVR_COUNT c) + 1) ∧
    ((s.wch c).ovrAt ≠ some s.clk.frame → u.eventSeen EV.WAV_OVR = true)
  within : s.wavExcess c raw = false → u.fld (F.WAV_CH_OVR_COUNT c) = s.fld (F.WAV_CH_OVR_COUNT c)

theorem ConversionCounted.keeps {c : Nat} {raw : Int} {s t u : Chip} (h : ConversionCounted c raw s t) (k : KeepsConversion c t u) :
    ConversionCounted c raw s u where
  n := k.n.trans h.n
  others m hm := (k.others m hm).trans (h.others m hm)
  clk := k.clk.trans h.clk
  mems := k.mems.trans h.mems
  active := k.active.trans h.active
  samples := k.samples.trans h.samples
  excess hx := ⟨k.limits.trans (h.excess hx).1, fun hne => k.events _ (by decide) ((h.excess hx).2 hne)⟩
  within hx := k.limits.trans (h.within hx)

/-- A conversion of step hold is counted as dropped before it is counted as a conversion (R144). -/
theorem ConversionCounted.of_bumpHold {c : Nat} {raw : Int} {s u : Chip}
    (h : ConversionCounted c raw (s.bump (F.WAV_CH_DROP_HOLD c)) u) : ConversionCounted c raw s u where
  n := h.n
  others := h.others
  clk := h.clk
  mems := h.mems
  active := h.active
  samples := by rw [h.samples, s.fld_bump_ne (wavAddr_ne c (by decide))]
  excess hx := by
    obtain ⟨hcount, hevent⟩ := h.excess hx
    exact ⟨by rw [hcount, s.fld_bump_ne (wavAddr_ne c (by decide))], hevent⟩
  within hx := (h.within hx).trans (s.fld_bump_ne (wavAddr_ne c (by decide)))

/-- What the counting of a limit code does. -/
structure ExcessCounted (c : Nat) (last : Option Nat) (s u : Chip) : Prop where
  ages : SameAges s u
  wch : ∀ k, u.wch k = s.wch k
  mems : u.mems = s.mems
  limits : u.fld (F.WAV_CH_OVR_COUNT c) = satTo 32 (s.fld (F.WAV_CH_OVR_COUNT c) + 1)
  event : last ≠ some s.clk.frame → u.eventSeen EV.WAV_OVR = true
  fld : ∀ f : Fld, announceAddr f.addr = false → f.addr ≠ 0x4010C + 32 * c → u.fld f = s.fld f

theorem countExcess_counted {c : Nat} (hc : c < 4) (last : Option Nat) (s : Chip) : ExcessCounted c last s (countExcess c last s) := by
  have hlim : (s.bump (F.WAV_CH_OVR_COUNT c)).fld (F.WAV_CH_OVR_COUNT c) = satTo 32 (s.fld (F.WAV_CH_OVR_COUNT c) + 1) :=
    Chip.fld_bump_same s (F.WAV_CH_OVR_COUNT c) (show 1 ≤ 32 ∧ 0 + 32 ≤ 32 by decide) rfl
  have hann := raise_announces EV.WAV_OVR (by decide) (s.bump (F.WAV_CH_OVR_COUNT c))
  unfold countExcess
  split
  · next hlast => exact ⟨bump_sameAges _ s, fun _ => rfl, rfl, hlim, fun hne => absurd hlast hne, fun f _ hf => s.fld_bump_ne hf⟩
  · exact ⟨(bump_sameAges _ s).trans (raise_sameAges (by decide) _), Chip.wch_congr hann.wav, hann.mems,
      (hann.fld (F.WAV_CH_OVR_COUNT c) (announceAddr_wavCh hc)).trans hlim, fun _ => raise_seen _ (by decide) _,
      fun f ha hf => (hann.fld f ha).trans (s.fld_bump_ne hf)⟩

section
variable (c : Nat) (raw : Int) (s : Chip)

theorem countSample_wch : (countSample c raw s).wch c = s.converted c raw := s.wch_setWch_same c _

theorem countSample_others {k : Nat} (h : k ≠ c) : (countSample c raw s).wch k = s.wch k := s.wch_setWch_ne _ h

theorem countSample_sameAges : SameAges s (countSample c raw s) := ⟨rfl, rfl, rfl, rfl, rfl⟩

theorem countSample_fld_ne {f : Fld} (h : f.addr ≠ 0x40108 + 32 * c) : (countSample c raw s).fld f = s.fld f :=
  Chip.fld_bump_ne (setWch c _ s) h

theorem countSample_samples : (countSample c raw s).fld (F.WAV_CH_SAMP_COUNT c) = satTo 32 (s.fld (F.WAV_CH_SAMP_COUNT c) + 1) :=
  Chip.fld_bump_same (setWch c _ s) (F.WAV_CH_SAMP_COUNT c) (show 1 ≤ 32 ∧ 0 + 32 ≤ 32 by decide) rfl

theorem countSample_limits : (countSample c raw s).fld (F.WAV_CH_OVR_COUNT c) = s.fld (F.WAV_CH_OVR_COUNT c) :=
  countSample_fld_ne c raw s (f := F.WAV_CH_OVR_COUNT c) (wavAddr_ne c (by decide))

variable {c raw s}

theorem countConversion_of_within (h : s.wavExcess c raw = false) : countConversion c raw s = countSample c raw s := by
  unfold countConversion
  rw [h]
  rfl

theorem countConversion_of_excess (h : s.wavExcess c raw = true) :
    countConversion c raw s = countExcess c (s.wch c).ovrAt (countSample c raw s) := by
  unfold countConversion
  rw [h]
  rfl

end

/-- What `countConversion` does beside the counters: the channel has its new state, ages and the drop counters stay. -/
structure ConversionCountedOnly (c : Nat) (raw : Int) (s u : Chip) : Prop extends ConversionCounted c raw s u where
  wch : u.wch c = s.converted c raw
  ages : SameAges s u
  drops : ∀ f : Fld, f.addr = 0x40110 + 32 * c → u.fld f = s.fld f

theorem countConversion_counted {c : Nat} (hc : c < 4) (raw : Int) (s : Chip) :
    ConversionCountedOnly c raw s (countConversion c raw s) := by
  have hwch := countSample_wch c raw s
  have hages := countSample_sameAges c raw s
  have hdrops : ∀ f : Fld, f.addr = 0x40110 + 32 * c → (countSample c raw s).fld f = s.fld f := fun f hf =>
    countSample_fld_ne c raw s (by omega)
  cases hx : s.wavExcess c raw with
  | false =>
    rw [countConversion_of_within hx]
    exact ⟨⟨congrArg WavCh.n hwch, fun _ => countSample_others c raw s, rfl, rfl, rfl, countSample_samples c raw s,
      fun h => absurd (h.symm.trans hx) (by decide), fun _ => countSample_limits c raw s⟩, hwch, hages, hdrops⟩
  | true =>
    have h := countExcess_counted hc (s.wch c).ovrAt (countSample c raw s)
    have hsamp := h.fld (F.WAV_CH_SAMP_COUNT c) (announceAddr_wavCh hc) (wavAddr_ne c (by decide))
    rw [countConversion_of_excess hx]
    exact ⟨⟨congrArg WavCh.n ((h.wch c).trans hwch), fun k hk => (h.wch k).trans (countSample_others c raw s hk), h.ages.clk, h.mems,
      h.ages.active, hsamp.trans (countSample_samples c raw s), fun _ => ⟨h.limits.trans (by rw [countSample_limits]), h.event⟩,
      fun h => absurd (h.symm.trans hx) (by decide)⟩, (h.wch c).trans hwch, hages.trans h.ages,
      fun f hf => (h.fld f (hf ▸ announceAddr_wavCh hc) (by omega)).trans (hdrops f hf)⟩

/-! ### A sample becomes part of a frame (R143) -/

/-- The channel once it took a sample of container value v at time t into block b. -/
def WavCh.taking (w : WavCh) (b : WavBlock) (v : Int) (t : Nat) : WavCh :=
  { w with frame := b.frame, open_ := true, fresh := false, blocks := (w.blocks.filter fun x => x.frame != b.frame) ++ [b], prev := some (v, t) }

theorem takeSample_feeds (c : Nat) (w : WavCh) (b : WavBlock) (code : Int) (t : Nat) (s : Chip) :
    Feeds (sampleForCal c (w.n - 1) code (setWch c (w.taking b (s.wavValue c b.frame code) t) s)) (takeSample c w b code t s) :=
  (triggerSample_feeds _ _ _ _ _ _ _).trans (measureSample_feeds _ _ _ _ _ _)

theorem takeSample_wch (c : Nat) (w : WavCh) (b : WavBlock) (code : Int) (t : Nat) (s : Chip) :
    (takeSample c w b code t s).wch c = w.taking b (s.wavValue c b.frame code) t :=
  ((takeSample_feeds c w b code t s).wch c).trans (s.wch_setWch_same c _)

theorem takeSample_keepsConversion {c : Nat} (hc : c < 4) {w : WavCh} {s : Chip} (h : w.n = (s.wch c).n) (b : WavBlock) (code : Int)
    (t : Nat) : KeepsConversion c s (takeSample c w b code t s) := by
  have hset : KeepsConversion c s (setWch c (w.taking b (s.wavValue c b.frame code) t) s) := setWch_keepsConversion h
  exact (hset.trans (sampleForCal_keepsConversion c _ code _)).trans ((takeSample_feeds c w b code t s).keepsConversion hc)

/-- The chip after a conversion whose sample is taken into block b at time t. -/
def keepSample (c : Nat) (raw : Int) (b : WavBlock) (t : Nat) (s : Chip) : Chip :=
  takeSample c (s.converted c raw) b (s.wavCode c raw) t (countConversion c raw s)

/-- The chip after a conversion that is no sample of frame f. -/
def skipSample (c : Nat) (raw : Int) (f : Nat) (s : Chip) : Chip :=
  setWch c { s.converted c raw with frame := f, open_ := false, prev := none } (countConversion c raw s)

/-- The chip after a conversion that a correction of network time put before frame f. -/
def slipSample (c : Nat) (raw : Int) (f : Nat) (s : Chip) : Chip :=
  raise EV.WAV_DROP ((skipSample c raw f s).bump (F.WAV_CH_DROP_SLIP c))

section
variable {c : Nat} (hc : c < 4)
include hc

theorem keepSample_counted (raw : Int) (b : WavBlock) (t : Nat) (s : Chip) : ConversionCounted c raw s (keepSample c raw b t s) :=
  have h := countConversion_counted hc raw s
  h.keeps (takeSample_keepsConversion hc (congrArg WavCh.n h.wch).symm b _ t)

theorem keepSample_wch (raw : Int) (b : WavBlock) (t : Nat) (s : Chip) :
    (keepSample c raw b t s).wch c = (s.converted c raw).taking b (s.wavValue c b.frame (s.wavCode c raw)) t := by
  unfold keepSample
  rw [takeSample_wch, (countConversion_counted hc raw s).ages.wavValue]

theorem skipSample_counted (raw : Int) (f : Nat) (s : Chip) : ConversionCounted c raw s (skipSample c raw f s) :=
  have h := countConversion_counted hc raw s
  h.keeps (setWch_keepsConversion (congrArg WavCh.n h.wch).symm)

omit hc in
theorem skipSample_wch (raw : Int) (f : Nat) (s : Chip) :
    (skipSample c raw f s).wch c = { s.converted c raw with frame := f, open_ := false, prev := none } := Chip.wch_setWch_same _ _ _

theorem skipSample_drops (raw : Int) (f : Nat) (s : Chip) :
    (skipSample c raw f s).fld (F.WAV_CH_DROP_SLIP c) = s.fld (F.WAV_CH_DROP_SLIP c) :=
  (countConversion_counted hc raw s).drops (F.WAV_CH_DROP_SLIP c) rfl

theorem slipSample_counted (raw : Int) (f : Nat) (s : Chip) : ConversionCounted c raw s (slipSample c raw f s) :=
  ((skipSample_counted hc raw f s).keeps (bumpSlip_keepsConversion c _)).keeps
    ((raise_announces EV.WAV_DROP (by decide) _).feeds.keepsConversion hc)

omit hc in
theorem slipSample_wch (raw : Int) (f : Nat) (s : Chip) : (slipSample c raw f s).wch c = (skipSample c raw f s).wch c :=
  Chip.wch_congr (raise_announces EV.WAV_DROP (by decide) _).wav c

theorem slipSample_drops (raw : Int) (f : Nat) (s : Chip) :
    (slipSample c raw f s).fld (F.WAV_CH_DROP_SLIP c) = satTo 16 (s.fld (F.WAV_CH_DROP_SLIP c) + 1) := by
  unfold slipSample
  rw [raise_fld _ (by decide) _ (F.WAV_CH_DROP_SLIP c) (announceAddr_wavCh hc),
    Chip.fld_bump_same _ (F.WAV_CH_DROP_SLIP c) (show 1 ≤ 16 ∧ 0 + 16 ≤ 32 by decide) rfl, skipSample_drops hc]
  rfl

end

/-! ### The place of a sample (R143, R144) -/

/-- The block of the frame in progress that a channel fills. -/
def WavCh.filling (w : WavCh) : Option WavBlock := if w.open_ then w.blocks.find? fun x => x.frame == w.frame else none

theorem WavCh.filling_eq_some {w : WavCh} {b : WavBlock} :
    w.filling = some b ↔ w.open_ = true ∧ w.blocks.find? (fun x => x.frame == w.frame) = some b := by
  unfold WavCh.filling
  cases w.open_
  · simp
  · simp

/-- What becomes of a sample that is the candidate for the start of frame f. -/
def judgeSample (c : Nat) (raw : Int) (f : Nat) (s : Chip) : Chip :=
  let rel := s.wavStamp c - ((f * frameFtu : Nat) : Int)
  if rel < 0 && !s.slipped c (s.wch c).fresh rel then skipSample c raw f s
  else if rel < 0 then slipSample c raw f s
  else keepSample c raw ⟨(s.wavStamp c).toNat / frameFtu, (s.wavStamp c).toNat % frameFtu, [s.wavCode c raw]⟩ (s.wavStamp c).toNat s

/-- What becomes of a sample outside step hold: the block that its channel fills takes it while the frame lasts. -/
def placeSample (c : Nat) (raw : Int) (s : Chip) : Chip :=
  match (s.wch c).filling with
  | some b =>
    if b.first + b.codes.length * modePeriod (s.fld F.WAV_CTL_MODE) < frameFtu then
      keepSample c raw { b with codes := b.codes ++ [s.wavCode c raw] }
        (b.frame * frameFtu + b.first + b.codes.length * modePeriod (s.fld F.WAV_CTL_MODE)) s
    else judgeSample c raw ((s.wch c).frame + 1) s
  | none => judgeSample c raw (s.wch c).frame s

theorem judgeSample_of_skip {c f : Nat} (raw : Int) {s : Chip} (h : s.wavStamp c < (f * frameFtu : Nat))
    (hs : (s.wch c).fresh = true ∨ ((f * frameFtu : Nat) : Int) ≤ s.wavStamp c - s.wavDelay 0 c + s.wavDelay 1 c) :
    judgeSample c raw f s = skipSample c raw f s := by
  have hnot : s.slipped c (s.wch c).fresh (s.wavStamp c - ((f * frameFtu : Nat) : Int)) = false := by
    unfold Chip.slipped
    rcases hs with hfresh | hbefore
    · simp [hfresh]
    · rw [decide_eq_false (by omega), Bool.and_false]
  unfold judgeSample
  dsimp only
  rw [hnot, if_pos (by simpa using h)]

theorem judgeSample_of_slip {c f : Nat} (raw : Int) {s : Chip} (h : s.wavStamp c < (f * frameFtu : Nat)) (hfresh : (s.wch c).fresh = false)
    (hb : s.wavStamp c - s.wavDelay 0 c + s.wavDelay 1 c < (f * frameFtu : Nat)) : judgeSample c raw f s = slipSample c raw f s := by
  have hslip : s.slipped c (s.wch c).fresh (s.wavStamp c - ((f * frameFtu : Nat) : Int)) = true := by
    unfold Chip.slipped
    rw [hfresh, decide_eq_true (by omega)]
    rfl
  unfold judgeSample
  dsimp only
  rw [hslip, if_neg (by simp), if_pos (by omega)]

theorem judgeSample_of_keep {c f : Nat} (raw : Int) {s : Chip} (h : ((f * frameFtu : Nat) : Int) ≤ s.wavStamp c) :
    judgeSample c raw f s = keepSample c raw
      ⟨(s.wavStamp c).toNat / frameFtu, (s.wavStamp c).toNat % frameFtu, [s.wavCode c raw]⟩ (s.wavStamp c).toNat s := by
  have hnot : ¬ s.wavStamp c - ((f * frameFtu : Nat) : Int) < 0 := by omega
  unfold judgeSample
  dsimp only
  rw [decide_eq_false hnot, Bool.false_and, if_neg Bool.false_ne_true, if_neg hnot]

theorem placeSample_of_room {c : Nat} (raw : Int) {s : Chip} {b : WavBlock} (hb : (s.wch c).filling = some b)
    (h : b.first + b.codes.length * modePeriod (s.fld F.WAV_CTL_MODE) < frameFtu) :
    placeSample c raw s = keepSample c raw { b with codes := b.codes ++ [s.wavCode c raw] }
      (b.frame * frameFtu + b.first + b.codes.length * modePeriod (s.fld F.WAV_CTL_MODE)) s := by
  unfold placeSample
  rw [hb]
  exact if_pos h

/-- A sample is the candidate for frame f: the frame after that of the block that is full, or the channel's own where none is filled. -/
theorem placeSample_of_candidate {c f : Nat} (raw : Int) {s : Chip}
    (hfull : ∀ b, (s.wch c).filling = some b →
      frameFtu ≤ b.first + b.codes.length * modePeriod (s.fld F.WAV_CTL_MODE) ∧ f = (s.wch c).frame + 1)
    (hnone : (∀ b, (s.wch c).filling ≠ some b) → f = (s.wch c).frame) : placeSample c raw s = judgeSample c raw f s := by
  unfold placeSample
  cases hb : (s.wch c).filling with
  | some b =>
    obtain ⟨hroom, rfl⟩ := hfull b hb
    exact if_neg (Nat.not_lt.mpr hroom)
  | none =>
    obtain rfl := hnone fun b h => by simp [hb] at h
    rfl

/-! ### WAVEFORM_CONVERSION (R133) -/

/-- Every conversion of step hold is counted as dropped (R144). -/
def countHeld (c : Nat) (s : Chip) : Chip := if s.flag F.TIM_STAT_STEP_HOLD then s.bump (F.WAV_CH_DROP_HOLD c) else s

theorem countHeld_eq (c : Nat) (s : Chip) : ∃ m, countHeld c s = s.setDirect m := by
  unfold countHeld
  split
  · exact ⟨_, rfl⟩
  · exact ⟨_, rfl⟩

theorem countHeld_fld_ne {c : Nat} {f : Fld} (h : f.addr ≠ 0x40110 + 32 * c) (s : Chip) : (countHeld c s).fld f = s.fld f := by
  unfold countHeld
  split
  · exact s.fld_bump_ne h
  · rfl

/-- A conversion of a settling channel in the external fall-back (R220). -/
def externSample (c : Nat) (code : Int) (s : Chip) : Chip :=
  setWch c { s.wch c with n := (s.wch c).n + 1 } (sampleForCal c (s.wch c).n code s)

theorem countHeld_of_hold {c : Nat} {s : Chip} (h : s.flag F.TIM_STAT_STEP_HOLD = true) : countHeld c s = s.bump (F.WAV_CH_DROP_HOLD c) :=
  if_pos h

theorem countHeld_of_off {c : Nat} {s : Chip} (h : s.flag F.TIM_STAT_STEP_HOLD = false) : countHeld c s = s :=
  if_neg (ne_true_of_eq_false h)

section
variable (c : Nat) (s : Chip)

theorem countHeld_cal : (countHeld c s).cal = s.cal := by
  obtain ⟨m, hm⟩ := countHeld_eq c s
  rw [hm]
  rfl

theorem countHeld_clk : (countHeld c s).clk = s.clk := by
  obtain ⟨m, hm⟩ := countHeld_eq c s
  rw [hm]
  rfl

theorem countHeld_wch (k : Nat) : (countHeld c s).wch k = s.wch k := by
  obtain ⟨m, hm⟩ := countHeld_eq c s
  rw [hm]
  rfl

theorem countHeld_apDrives (k : Nat) : (countHeld c s).apDrives k = s.apDrives k := by
  obtain ⟨m, hm⟩ := countHeld_eq c s
  rw [hm]
  rfl

theorem countHeld_fld_rws {f : Fld} (h : f.rws = true) : (countHeld c s).fld f = s.fld f := by
  unfold countHeld
  split
  · exact s.fld_setFld_rws _ f _ h
  · rfl

theorem countHeld_flag_rws {f : Fld} (h : f.rws = true) : (countHeld c s).flag f = s.flag f := by
  unfold Chip.flag
  rw [countHeld_fld_rws c s h]

end

/-- A conversion of a settling channel, for the calibration that drives it (R220, R221). -/
def settlingSample (c : Nat) (raw : Int) (s : Chip) : Chip :=
  if s.cal.ext.isNone then
    if s.apDrives c then stepSample c (limitCode (s.flag (F.WAV_CH_CFG_SE c)) raw) s else s
  else externSample c (limitCode (s.flag (F.WAV_CH_CFG_SE c)) raw) s

theorem waveConversion_of_off {c : Nat} (raw : Int) {s : Chip} (h : s.domainUp 3 = false ∨ s.wavEnabled 0 c = false) :
    waveConversion c raw s = s := by
  refine if_pos ?_
  rcases h with h | h
  · rw [h]
    rfl
  · rw [h, Bool.not_false, Bool.or_true]

section
variable {c : Nat} (raw : Int) {s : Chip} (hup : s.domainUp 3 = true) (hon : s.wavEnabled 0 c = true)
include hup hon

theorem waveConversion_of_settling (h : (s.fld F.WAV_STAT_SETTLING).testBit c = true) :
    waveConversion c raw s = settlingSample c raw (countHeld c s) := by
  have hset : ((countHeld c s).fld F.WAV_STAT_SETTLING).testBit c = true := by
    rwa [countHeld_fld_ne (show 0x40004 ≠ 0x40110 + 32 * c by omega)]
  unfold waveConversion
  rw [hup, hon]
  exact if_pos hset

theorem waveConversion_of_settled (h : (s.fld F.WAV_STAT_SETTLING).testBit c = false) :
    waveConversion c raw s =
      if s.flag F.TIM_STAT_STEP_HOLD then countConversion c raw (countHeld c s) else placeSample c raw (countHeld c s) := by
  have hset : ((countHeld c s).fld F.WAV_STAT_SETTLING).testBit c = false := by
    rwa [countHeld_fld_ne (show 0x40004 ≠ 0x40110 + 32 * c by omega)]
  have hhold : (countHeld c s).flag F.TIM_STAT_STEP_HOLD = s.flag F.TIM_STAT_STEP_HOLD := by
    unfold Chip.flag
    rw [countHeld_fld_ne (show 0x1004 ≠ 0x40110 + 32 * c by omega)]
  unfold waveConversion
  rw [hup, hon]
  extract_lets v w0 se per synth code stamp excess w s1 t s2 cur fits f rel at_
  have hv : countHeld c s = v := rfl
  have hstamp : stamp = v.wavStamp c := Int.add_assoc _ _ _
  rw [hv] at hset hhold ⊢
  rw [if_neg (by decide), if_neg (ne_true_of_eq_false hset), hhold]
  congr 1
  have hjudge : (if rel < 0 && !v.slipped c w.fresh rel then skipSample c raw f v
      else if rel < 0 then slipSample c raw f v
      else keepSample c raw ⟨stamp.toNat / frameFtu, stamp.toNat % frameFtu, [code]⟩ stamp.toNat v) = judgeSample c raw f v := by
    unfold judgeSample
    rw [← hstamp]
    rfl
  unfold placeSample
  cases hb : (v.wch c).filling with
  | some b =>
    have hcur : cur = some b := hb
    have hf : f = (v.wch c).frame + 1 := by simp only [f, hcur, Option.isSome_some, if_true, w, w0]
    by_cases hroom : b.first + b.codes.length * per < frameFtu
    · have hfits : fits = true := by simp only [fits, hcur, hroom, decide_true]
      rw [hcur, hfits]
      exact (if_pos hroom).symm
    · have hfits : fits = false := by simp only [fits, hcur, hroom, decide_false]
      rw [hcur, hfits, ← hf]
      exact hjudge.trans (if_neg hroom).symm
  | none =>
    have hcur : cur = none := hb
    have hf : f = (v.wch c).frame := by simp only [f, hcur, Option.isSome_none, Bool.false_eq_true, if_false, w, w0]
    have hfits : fits = false := by simp only [fits, hcur]
    rw [hcur, hfits, ← hf]
    exact hjudge

end

/-! ### A conversion of a settling channel (R220, R221) -/

section
variable {c : Nat} (raw : Int) {s : Chip}

theorem settlingSample_of_idle (he : s.cal.ext = none) (hd : s.apDrives c = false) : settlingSample c raw s = s := by
  unfold settlingSample
  rw [he, hd]
  rfl

theorem settlingSample_of_driven (he : s.cal.ext = none) (hd : s.apDrives c = true) :
    settlingSample c raw s = stepSample c (limitCode (s.flag (F.WAV_CH_CFG_SE c)) raw) s := by
  unfold settlingSample
  rw [he, hd]
  rfl

theorem settlingSample_of_external (he : s.cal.ext ≠ none) :
    settlingSample c raw s = externSample c (limitCode (s.flag (F.WAV_CH_CFG_SE c)) raw) s :=
  if_neg (by simpa using he)

end

/-- What a conversion of a settling channel leaves, driven by the step generator or in the external fall-back. -/
structure SettlingOnly (c : Nat) (s u : Chip) : Prop where
  regs : u.regs = s.regs
  wch : u.wch c = { s.wch c with n := (s.wch c).n + 1 }
  clk : u.clk = s.clk

section
variable (c : Nat) (code : Int) (s : Chip)

theorem stepSample_only : SettlingOnly c s (stepSample c code s) := ⟨rfl, Chip.wch_setWch_same _ _ _, rfl⟩

theorem externSample_only : SettlingOnly c s (externSample c code s) := ⟨rfl, Chip.wch_setWch_same _ _ _, rfl⟩

theorem stepSample_steps : Table.get [] (stepSample c code s).cal.steps c = Table.get [] s.cal.steps c ++
    [((((s.wch c).n * modePeriod (s.fld F.WAV_CTL_MODE) : Nat) : Int) + sext 16 (s.fld (F.WAV_CH_DELAY_FTU c)), code)] :=
  Table.get_set_same _ _ _ _

theorem externSample_win : Table.get [] (externSample c code s).cal.win c = Table.get [] s.cal.win c ++ [((s.wch c).n, code)] :=
  Table.get_set_same _ _ _ _

end

/-! ### WAV_SETTLING_END (R149) -/

/-- A cleared bit of a field, read back. -/
theorem Chip.testBit_setBit_false (s : Chip) {f : Fld} {b : Nat} (k : Nat) (hf : f.fits) (hr : f.rws = false) (hb : b < f.w) :
    ((s.setBit f b false).fld f).testBit k = ((s.fld f).testBit k && decide (k ≠ b)) := by
  have hpow : 2 ^ b < 2 ^ f.w := Nat.pow_lt_pow_right (by decide) hb
  have hmask : 2 ^ f.w - 1 - 2 ^ b = 2 ^ f.w - (2 ^ b + 1) := by omega
  unfold Chip.setBit
  rw [Chip.fld_setFld_same s f _ hf hr, if_neg Bool.false_ne_true, hmask, Nat.testBit_mod_two_pow, Nat.testBit_and,
    Nat.testBit_two_pow_sub_succ hpow, Nat.testBit_two_pow]
  by_cases hk : k < f.w
  · simp [hk, eq_comm]
  · have hlt : s.fld f < 2 ^ k := lt_of_lt_of_le (fld_lt s f hf) (Nat.pow_le_pow_right (by decide) (Nat.not_lt.mp hk))
    simp [hk, Nat.testBit_lt_two_pow hlt]

section
variable {c : Nat} {s : Chip}

theorem waveSettled_of_due (h : (s.fld F.WAV_STAT_SETTLING).testBit c = true) (hz : (s.wch c).settle = 0) (he : s.cal.ext = none) :
    waveSettled c s = setWch c { s.wch c with
      began := 512 * s.clk.cc, n := 0, frame := s.clk.frame, open_ := false, fresh := true, prev := none }
      (s.setBit F.WAV_STAT_SETTLING c false) :=
  if_pos (by simp [h, hz, he])

theorem waveSettled_of_not_due (h : (s.fld F.WAV_STAT_SETTLING).testBit c = false ∨ (s.wch c).settle ≠ 0) : waveSettled c s = s := by
  refine if_neg ?_
  rcases h with h | h
  · simp [h]
  · simp [h]

end

/-! ### The statement -/

theorem exec_waveformConversion (ch : Fin 4) (raw : Int) (s : State) :
    exec (.waveformConversion ch raw) s = .next { s with chip := waveConversion ch raw s.chip } := rfl

theorem exec_wavSettlingEnd (ch : Fin 4) (s : State) :
    exec (.wavSettlingEnd ch) s = .next { s with chip := waveSettled ch s.chip } := rfl

/-- Settles O45: a conversion is counted first (`countConversion_counted`); then step hold drops its sample, the block that its channel
fills takes it (`placeSample_of_room`), or its stamp is judged against the start of the next frame (`judgeSample_of_skip`,
`judgeSample_of_slip`, `judgeSample_of_keep`). A settling channel's conversion goes to the calibration (`settlingSample_of_driven`). -/
theorem waveformRowsComplete : Obligations.WaveformRowsComplete := by
  unfold Obligations.WaveformRowsComplete
  refine ⟨fun ch raw s => ?_, fun ch s => ?_⟩
  · intro c w se per synth code clip delay stamp cont runs open_ always taken
    have hclip : c.wavExcess ch raw = true ↔ clip := c.wavExcess_iff ch raw
    have halways : ∀ u, ConversionCounted ch raw c u → always u := fun u h =>
      ⟨h.samples, fun hx => h.excess (hclip.mpr hx), fun hx => h.within (Bool.eq_false_iff.mpr fun e => hx (hclip.mp e)), h.n, h.others,
        h.clk, h.mems, h.active⟩
    have hopen : ∀ b, w.filling = some b ↔ open_ b := fun b => WavCh.filling_eq_some
    have hkeep : ∀ b t, always (keepSample ch raw b t c) ∧ taken (keepSample ch raw b t c) b t := fun b t => by
      have hwch := keepSample_wch ch.isLt raw b t c
      exact ⟨halways _ (keepSample_counted ch.isLt raw b t c), congrArg WavCh.frame hwch, congrArg WavCh.open_ hwch,
        congrArg WavCh.prev hwch, congrArg WavCh.blocks hwch⟩
    have hsample : runs → c.flag F.TIM_STAT_STEP_HOLD = false →
        exec (.waveformConversion ch raw) s = .next { s with chip := placeSample ch raw c } := fun ⟨hup, hon, hset⟩ hhold => by
      rw [exec_waveformConversion, waveConversion_of_settled raw hup hon hset, hhold, countHeld_of_off hhold, if_neg Bool.false_ne_true]
    refine ⟨fun ⟨hup, hon, hset⟩ hhold => ⟨_, exec_waveformConversion ch raw s, ?_⟩,
      fun hruns hhold b hb hroom => ⟨_, hsample hruns hhold, ?_⟩, fun hruns hhold f hfull hnone => ?_, fun hoff => ?_, fun hup hon hset => ?_⟩
    · have h := countConversion_counted ch.isLt raw (c.bump (F.WAV_CH_DROP_HOLD ch))
      rw [waveConversion_of_settled raw hup hon hset, hhold, if_pos rfl, countHeld_of_hold hhold]
      exact ⟨halways _ h.of_bumpHold, (congrArg WavCh.blocks h.wch :), (h.drops (F.WAV_CH_DROP_HOLD ch) rfl).trans
        (Chip.fld_bump_same c (F.WAV_CH_DROP_HOLD ch) (show 1 ≤ 16 ∧ 16 + 16 ≤ 32 by decide) rfl)⟩
    · rw [placeSample_of_room raw ((hopen b).mpr hb) hroom]
      exact hkeep _ _
    · have hjudge : exec (.waveformConversion ch raw) s = .next { s with chip := judgeSample ch raw f c } := by
        rw [hsample hruns hhold, placeSample_of_candidate raw (fun b hb => hfull b ((hopen b).mp hb))
          fun h => hnone fun b hb => h b ((hopen b).mpr hb)]
      refine ⟨fun hearly hskip => ⟨_, hjudge, ?_⟩, fun hearly hfresh hslip => ⟨_, hjudge, ?_⟩, fun hlate => ⟨_, hjudge, ?_⟩⟩
      · have hwch := skipSample_wch (c := ch) raw f c
        rw [judgeSample_of_skip raw hearly hskip]
        exact ⟨halways _ (skipSample_counted ch.isLt raw f c), skipSample_drops ch.isLt raw f c, congrArg WavCh.frame hwch,
          congrArg WavCh.open_ hwch, (congrArg WavCh.blocks hwch :)⟩
      · have hwch := (slipSample_wch (c := ch) raw f c).trans (skipSample_wch raw f c)
        rw [judgeSample_of_slip raw hearly hfresh hslip]
        exact ⟨halways _ (slipSample_counted ch.isLt raw f c), raise_seen _ (by decide) _, slipSample_drops ch.isLt raw f c,
          congrArg WavCh.frame hwch, congrArg WavCh.open_ hwch, (congrArg WavCh.blocks hwch :)⟩
      · rw [judgeSample_of_keep raw hlate]
        exact hkeep _ _
    · rw [exec_waveformConversion, waveConversion_of_off raw hoff]
    · have hexec : exec (.waveformConversion ch raw) s = .next { s with chip := settlingSample ch raw (countHeld ch c) } := by
        rw [exec_waveformConversion, waveConversion_of_settling raw hup hon hset]
      have hcal := countHeld_cal ch c
      have hdrives := countHeld_apDrives ch c ch
      have hwch := countHeld_wch ch c ch
      refine ⟨fun hext hdrive => ?_, fun hext hdrive => ⟨_, hexec, ?_⟩, fun hext => ⟨_, hexec, ?_⟩⟩
      · rw [hexec, settlingSample_of_idle raw (by rw [hcal, hext]) (hdrives.trans hdrive)]
        rfl
      · have honly := stepSample_only ch (limitCode se raw) (countHeld ch c)
        rw [settlingSample_of_driven raw (by rw [hcal, hext]) (hdrives.trans hdrive), countHeld_flag_rws _ _ rfl]
        refine ⟨honly.regs, honly.wch.trans (by rw [hwch]), honly.clk.trans (countHeld_clk ch c), (stepSample_steps _ _ _).trans ?_⟩
        rw [hcal, hwch, countHeld_fld_rws _ _ rfl, countHeld_fld_rws _ _ rfl]
        rfl
      · have honly := externSample_only ch (limitCode se raw) (countHeld ch c)
        rw [settlingSample_of_external raw (by rwa [hcal]), countHeld_flag_rws _ _ rfl]
        refine ⟨honly.regs, honly.wch.trans (by rw [hwch]), honly.clk.trans (countHeld_clk ch c), (externSample_win _ _ _).trans ?_⟩
        rw [hcal, hwch]
        rfl
  · intro c
    refine ⟨fun hset hzero hext => ⟨_, exec_wavSettlingEnd ch s, ?_⟩, fun h => ?_⟩
    · rw [waveSettled_of_due hset hzero hext]
      refine ⟨Chip.wch_setWch_same _ _ _, fun k => ?_, fun k hk => Chip.wch_setWch_ne _ _ hk, rfl,
        fun a ha => c.setFld_direct_ne F.WAV_STAT_SETTLING _ a ha.symm⟩
      exact c.testBit_setBit_false k (by decide : 1 ≤ 4 ∧ 20 + 4 ≤ 32) rfl ch.isLt
    · rw [exec_wavSettlingEnd, waveSettled_of_not_due h]

end Sys2Proof.Machine
end

section
/-! PROOFS. The transducer sequencer (R153 to R171): results on their way to the linearisation engine, the end and the start of an entry, a
restart of its count, and the roles of the pins. -/

namespace Sys2Proof.Machine

/-! ### A counted event -/

/-- A bit of a field reads as it was set. -/
theorem Chip.testBit_setBit_same (s : Chip) {f : Fld} {b : Nat} (v : Bool) (hf : f.fits) (hr : f.rws = false) (hb : b < f.w) :
    ((s.setBit f b v).fld f).testBit b = v := by
  cases v with
  | false => simp [s.testBit_setBit_false b hf hr hb]
  | true =>
    unfold Chip.setBit
    rw [Chip.fld_setFld_same s f _ hf hr, if_pos rfl, Nat.testBit_mod_two_pow, Nat.testBit_or, Nat.testBit_two_pow_self]
    simp [hb]

/-- What an event that counts in a register of its unit leaves. -/
structure CountedEvent (e : Nat) (f : Fld) (s u : Chip) : Prop where
  xdc : u.xdc = s.xdc
  clk : u.clk = s.clk
  mems : u.mems = s.mems
  active : u.regs.active = s.regs.active
  seen : u.eventSeen e = true
  counted : u.fld f = satTo f.w (s.fld f + 1)
  others : ∀ g : Fld, announceAddr g.addr = false → g.addr ≠ f.addr → u.fld g = s.fld g

theorem raise_bump_counted {e : Nat} {f : Fld} (he : e < 384) (hf : f.fits) (hr : f.rws = false) (ha : announceAddr f.addr = false)
    (s : Chip) : CountedEvent e f s (raise e (s.bump f)) := by
  have h := raise_announces e he (s.bump f)
  exact ⟨h.xdc, h.clk, h.mems, h.active, raise_seen e he _, (h.fld f ha).trans (s.fld_bump_same f hf hr),
    fun g hg hne => (h.fld g hg).trans (s.fld_bump_ne hne)⟩

/-! ### A result is emitted (R163, R168 to R171) -/

/-- The register with the OPEN bit of an entry. -/
def openField (n : Nat) : Fld := if n < 32 then F.XDC_OPEN_LO_ENTRY else F.XDC_OPEN_HI_ENTRY

theorem openField_shape (n : Nat) : (openField n).fits ∧ (openField n).rws = false ∧ (openField n).w = 32 := by
  unfold openField
  split
  · decide
  · decide

theorem openField_addr (n : Nat) : (openField n).addr = 0x48038 ∨ (openField n).addr = 0x4803C := by
  unfold openField
  split
  · exact .inl rfl
  · exact .inr rfl

theorem openField_quiet (n : Nat) : announceAddr (openField n).addr = false := by
  unfold openField
  split
  · rfl
  · rfl

/-- A result with its number: the count of results that includes it, modulo 2^16 (R171). -/
def Chip.numbered (s : Chip) (r : XdcRes) : XdcRes :=
  { r with rseq := (s.bump F.XDC_RESULT_CNT_COUNT).fld F.XDC_RESULT_CNT_COUNT % 65536 }

/-- The chip that counted a result, kept its OPEN bit and sent it to the linearisation engine. -/
def bookResult (r : XdcRes) (s : Chip) : Chip :=
  let t := (s.bump F.XDC_RESULT_CNT_COUNT).setBit (openField r.entry) (r.entry % 32) r.opened
  { t with xdc := { s.xdc with results := s.xdc.results ++ [s.numbered r] } }

/-- A result of a faulty input is counted and announced. -/
def announceFault (r : XdcRes) (s : Chip) : Chip :=
  if r.opened then raise EV.XDC_OPEN (s.bump F.XDC_OPEN_CNT_COUNT)
  else if r.ovr then raise EV.XDC_OVR (s.bump F.XDC_OVR_CNT_COUNT) else s

theorem resultCount_bump (s : Chip) :
    (s.bump F.XDC_RESULT_CNT_COUNT).fld F.XDC_RESULT_CNT_COUNT = satTo 32 (s.fld F.XDC_RESULT_CNT_COUNT + 1) :=
  s.fld_bump_same F.XDC_RESULT_CNT_COUNT (by decide) rfl

/-- A faulty result sets what the next settle (`ext`), or else the next results, take from it (R169). -/
def noteOverrange (r : XdcRes) (ext : Bool) (s : Chip) : Chip :=
  if r.opened || r.ovr then
    if ext then { s with xdc := { s.xdc with ovr := true } } else { s with xdc := { s.xdc with near := 2 } }
  else s

theorem emitResult_eq (r : XdcRes) (s : Chip) :
    emitResult r s = noteOverrange r (s.flag F.XDC_SEQ_CTL_AUTO_EXT) (announceFault r (bookResult r s)) := rfl

/-- What the announcement of a faulty result leaves. -/
structure FaultAnnounced (r : XdcRes) (s u : Chip) : Prop where
  xdc : u.xdc = s.xdc
  clk : u.clk = s.clk
  mems : u.mems = s.mems
  active : u.regs.active = s.regs.active
  opened : r.opened = true → u.eventSeen EV.XDC_OPEN = true ∧ u.fld F.XDC_OPEN_CNT_COUNT = satTo 32 (s.fld F.XDC_OPEN_CNT_COUNT + 1)
  overrange : r.opened = false → r.ovr = true →
    u.eventSeen EV.XDC_OVR = true ∧ u.fld F.XDC_OVR_CNT_COUNT = satTo 32 (s.fld F.XDC_OVR_CNT_COUNT + 1)
  others : ∀ g : Fld, announceAddr g.addr = false → g.addr ≠ 0x48048 → g.addr ≠ 0x4804C → u.fld g = s.fld g

theorem announceFault_announced (r : XdcRes) (s : Chip) : FaultAnnounced r s (announceFault r s) := by
  unfold announceFault
  split
  · next hopen =>
    have h := raise_bump_counted (e := EV.XDC_OPEN) (f := F.XDC_OPEN_CNT_COUNT) (by decide) (by decide) rfl rfl s
    exact ⟨h.xdc, h.clk, h.mems, h.active, fun _ => ⟨h.seen, h.counted⟩, fun hno => absurd (hopen.symm.trans hno) (by decide),
      fun g hg _ hne => h.others g hg hne⟩
  · next hopen =>
    split
    · have h := raise_bump_counted (e := EV.XDC_OVR) (f := F.XDC_OVR_CNT_COUNT) (by decide) (by decide) rfl rfl s
      exact ⟨h.xdc, h.clk, h.mems, h.active, fun hyes => absurd hyes hopen, fun _ _ => ⟨h.seen, h.counted⟩,
        fun g hg hne _ => h.others g hg hne⟩
    · next hovr => exact ⟨rfl, rfl, rfl, rfl, fun hyes => absurd hyes hopen, fun _ hyes => absurd hyes hovr, fun _ _ _ _ => rfl⟩

/-- What the emission of a result leaves. -/
structure ResultEmitted (r : XdcRes) (s u : Chip) : Prop where
  results : u.xdc.results = s.xdc.results ++ [s.numbered r]
  count : u.fld F.XDC_RESULT_CNT_COUNT = satTo 32 (s.fld F.XDC_RESULT_CNT_COUNT + 1)
  openBit : (u.fld (openField r.entry)).testBit (r.entry % 32) = r.opened
  clk : u.clk = s.clk
  mems : u.mems = s.mems
  active : u.regs.active = s.regs.active
  opened : r.opened = true → u.eventSeen EV.XDC_OPEN = true ∧ u.fld F.XDC_OPEN_CNT_COUNT = satTo 32 (s.fld F.XDC_OPEN_CNT_COUNT + 1)
  overrange : r.opened = false → r.ovr = true →
    u.eventSeen EV.XDC_OVR = true ∧ u.fld F.XDC_OVR_CNT_COUNT = satTo 32 (s.fld F.XDC_OVR_CNT_COUNT + 1)

theorem bookResult_fld_ne (r : XdcRes) (s : Chip) {f : Fld} (hc : f.addr ≠ 0x48040) (hl : f.addr ≠ 0x48038) (hh : f.addr ≠ 0x4803C) :
    (bookResult r s).fld f = s.fld f := by
  have hopen : f.addr ≠ (openField r.entry).addr := by
    have := openField_addr r.entry
    omega
  exact (Chip.fld_setFld_ne _ _ hopen).trans (s.fld_bump_ne hc)

theorem bookResult_count (r : XdcRes) (s : Chip) :
    (bookResult r s).fld F.XDC_RESULT_CNT_COUNT = satTo 32 (s.fld F.XDC_RESULT_CNT_COUNT + 1) := by
  have hopen : 0x48040 ≠ (openField r.entry).addr := by
    have := openField_addr r.entry
    omega
  exact (Chip.fld_setFld_ne _ _ hopen).trans (resultCount_bump s)

theorem bookResult_openBit (r : XdcRes) (s : Chip) : ((bookResult r s).fld (openField r.entry)).testBit (r.entry % 32) = r.opened := by
  obtain ⟨hfits, hrws, hw⟩ := openField_shape r.entry
  exact Chip.testBit_setBit_same (s.bump F.XDC_RESULT_CNT_COUNT) r.opened hfits hrws (by omega)

/-- `u` differs from `s` in the sequencer alone, and has the same results on their way. -/
def Sequenced (s u : Chip) : Prop := ∃ x : Xdc, u = { s with xdc := x } ∧ x.results = s.xdc.results

theorem ResultEmitted.sequenced {r : XdcRes} {s t u : Chip} (h : ResultEmitted r s t) (k : Sequenced t u) : ResultEmitted r s u := by
  obtain ⟨x, rfl, hx⟩ := k
  exact ⟨hx.trans h.results, h.count, h.openBit, h.clk, h.mems, h.active, h.opened, h.overrange⟩

theorem noteOverrange_sequenced (r : XdcRes) (ext : Bool) (s : Chip) : Sequenced s (noteOverrange r ext s) := by
  unfold noteOverrange
  split
  · split
    · exact ⟨_, rfl, rfl⟩
    · exact ⟨_, rfl, rfl⟩
  · exact ⟨_, rfl, rfl⟩

theorem noteOverrange_entries (r : XdcRes) (ext : Bool) (s : Chip) :
    (noteOverrange r ext s).xdc.run = s.xdc.run ∧ (noteOverrange r ext s).xdc.todo = s.xdc.todo := by
  unfold noteOverrange
  split
  · split
    · exact ⟨rfl, rfl⟩
    · exact ⟨rfl, rfl⟩
  · exact ⟨rfl, rfl⟩

theorem emitResult_emitted (r : XdcRes) (s : Chip) : ResultEmitted r s (emitResult r s) := by
  have h := announceFault_announced r (bookResult r s)
  have hopen : ((announceFault r (bookResult r s)).fld (openField r.entry)).testBit (r.entry % 32) = r.opened := by
    have haddr := openField_addr r.entry
    rw [h.others _ (openField_quiet r.entry) (by omega) (by omega), bookResult_openBit]
  have hcount {f : Fld} (hc : f.addr ≠ 0x48040) (hl : f.addr ≠ 0x48038) (hh : f.addr ≠ 0x4803C) :
      satTo 32 ((bookResult r s).fld f + 1) = satTo 32 (s.fld f + 1) := by rw [bookResult_fld_ne r s hc hl hh]
  rw [emitResult_eq]
  refine ResultEmitted.sequenced ?_ (noteOverrange_sequenced r _ _)
  refine ⟨congrArg Xdc.results h.xdc, (h.others F.XDC_RESULT_CNT_COUNT rfl (by decide) (by decide)).trans (bookResult_count r s), hopen,
    h.clk, h.mems, h.active, fun hyes => ?_, fun hno hovr => ?_⟩
  · obtain ⟨hseen, hn⟩ := h.opened hyes
    exact ⟨hseen, hn.trans (hcount (by decide) (by decide) (by decide))⟩
  · obtain ⟨hseen, hn⟩ := h.overrange hno hovr
    exact ⟨hseen, hn.trans (hcount (by decide) (by decide) (by decide))⟩

/-- An emission from a chip whose registers, clock, memories and results are those of `s`. -/
theorem emitResult_emitted_from (r : XdcRes) {s t : Chip} (hresults : t.xdc.results = s.xdc.results := by rfl)
    (hregs : t.regs = s.regs := by rfl) (hclk : t.clk = s.clk := by rfl) (hmems : t.mems = s.mems := by rfl) :
    ResultEmitted r s (emitResult r t) := by
  have h := emitResult_emitted r t
  have hfld (f : Fld) : t.fld f = s.fld f := by
    unfold Chip.fld
    rw [hregs]
  have hnumbered : t.numbered r = s.numbered r := by
    unfold Chip.numbered
    rw [resultCount_bump, resultCount_bump, hfld]
  exact ⟨h.results.trans (by rw [hresults, hnumbered]), h.count.trans (by rw [hfld]), h.openBit, h.clk.trans hclk, h.mems.trans hmems,
    h.active.trans (by rw [hregs]), fun ho => hfld F.XDC_OPEN_CNT_COUNT ▸ h.opened ho,
    fun ho hv => hfld F.XDC_OVR_CNT_COUNT ▸ h.overrange ho hv⟩

/-- An emission leaves the running entry and those still to visit. -/
theorem emitResult_entries (r : XdcRes) (s : Chip) :
    (emitResult r s).xdc.run = s.xdc.run ∧ (emitResult r s).xdc.todo = s.xdc.todo := by
  have h := (announceFault_announced r (bookResult r s)).xdc
  have hrun : (announceFault r (bookResult r s)).xdc.run = s.xdc.run := (congrArg Xdc.run h :)
  have htodo : (announceFault r (bookResult r s)).xdc.todo = s.xdc.todo := (congrArg Xdc.todo h :)
  obtain ⟨krun, ktodo⟩ := noteOverrange_entries r (s.flag F.XDC_SEQ_CTL_AUTO_EXT) (announceFault r (bookResult r s))
  rw [emitResult_eq]
  exact ⟨krun.trans hrun, ktodo.trans htodo⟩

/-! ### The entry that runs next (R155, R162 to R167) -/

theorem xdcNext_sequenced (at_ : Nat) (s : Chip) : Sequenced s (xdcNext at_ s) := by
  unfold xdcNext
  extract_lets _ s0 _ todo s1
  clear_value todo
  split
  · exact ⟨_, rfl, rfl⟩
  · split
    · exact ⟨_, rfl, rfl⟩
    · split
      · exact ⟨_, rfl, rfl⟩
      · split
        · exact ⟨_, rfl, rfl⟩
        · exact ⟨_, rfl, rfl⟩

theorem endEntry_sequenced (at_ : Nat) (s : Chip) : Sequenced s (endEntry at_ s) := by
  unfold endEntry
  split
  · exact ⟨_, rfl, rfl⟩
  · next r _ =>
    extract_lets pend
    exact xdcNext_sequenced at_ { s with xdc := { s.xdc with run := none, pend := pend } }

theorem Chip.nextUrgent_of_idle {s : Chip} (h : s.xdc.pend = 0) : s.nextUrgent = none := by
  unfold Chip.nextUrgent
  rw [h]
  simp

section
variable {s : Chip} (at_ : Nat) (hp : s.xprofile ≠ 0) (hl : s.lent ≠ []) (hu : s.xdc.pend = 0) (hr : s.xdc.redo = none)
  (hn : s.xdc.newPass = true)
include hp hl hu hr hn

/-- A new pass with nothing else to do starts with its first entry. -/
theorem xdcNext_of_pass {n : Nat} {rest : List Nat} (h : s.xpass = n :: rest) :
    xdcNext at_ s = startEntry n none at_ { s with xdc := { s.xdc with run := none, newPass := false, redo := none, todo := rest } } := by
  unfold xdcNext
  extract_lets _ s0 _ todo s1
  have hurgent : s0.nextUrgent = none := Chip.nextUrgent_of_idle hu
  have hredo : s0.xdc.redo.filter s0.xpass.contains = none := by
    rw [show s0.xdc.redo = none from hr]
    rfl
  have htodo : todo = n :: rest := (if_pos hn).trans h
  rw [if_neg (by simp [hp, hl]), hurgent, hredo, htodo]

theorem xdcNext_of_empty_pass (h : s.xpass = []) :
    xdcNext at_ s = { s with xdc := { s.xdc with run := none, newPass := false, redo := none, todo := [] } } := by
  unfold xdcNext
  extract_lets _ s0 _ todo s1
  have hurgent : s0.nextUrgent = none := Chip.nextUrgent_of_idle hu
  have hredo : s0.xdc.redo.filter s0.xpass.contains = none := by
    rw [show s0.xdc.redo = none from hr]
    rfl
  have htodo : todo = [] := (if_pos hn).trans h
  rw [if_neg (by simp [hp, hl]), hurgent, hredo, htodo]

end

/-- The run `r` of entry n as a pass starts it at a device-clock time (R155, R159, R162, R163). -/
structure EntryStarted (n at_ : Nat) (s : Chip) (r : XdcRun) : Prop where
  entry : r.entry = n
  urgent : r.urgent = none
  start : r.start = at_
  sampling : r.sampling = false
  outputs : r.outputs = 0
  closeAt : r.closeAt = at_ + breakFtu
  onA : r.onA = at_
  onB : r.onB = at_
  slices : r.slices = s.lent.take (if s.xprofile = 1 then 1 else 2)
  resetAt : s.xdc.ovr = false → r.resetAt = at_ + s.xsettle n * usFtu
  srcA : r.srcA = true ↔ s.fld (F.XDC_ROUTE_EXC n) = 1 ∨ s.fld (F.XDC_ROUTE_EXC n) = 3
  srcB : r.srcB = true ↔ s.fld (F.XDC_ROUTE_EXC n) = 2 ∨ s.fld (F.XDC_ROUTE_EXC n) = 3

theorem startEntry_started (n at_ : Nat) (s : Chip) :
    ∃ r, (startEntry n none at_ s).xdc.run = some r ∧ EntryStarted n at_ s r := by
  refine ⟨_, rfl, rfl, rfl, rfl, rfl, rfl, rfl, rfl, rfl, ?_, fun hovr => ?_, ?_, ?_⟩
  · show s.runSlices false = _
    unfold Chip.runSlices
    split
    · rfl
    · rfl
  · simp [hovr]
  · simp
  · simp

/-! ### XDC_PASS_START and XDC_FILTER_RESET (R162, R163) -/

section
variable {s : Chip}

theorem passStart_of_not_due (h : s.domainUp 4 = false ∨ s.xprofile = 0 ∨ s.xdc.due = false) : passStart s = s := by
  refine if_pos ?_
  rcases h with h | h | h
  · simp [h]
  · simp [h]
  · simp [h]

theorem passStart_of_running {r : XdcRun} (hup : s.domainUp 4 = true) (hp : s.xprofile ≠ 0) (hdue : s.xdc.due = true)
    (hrun : s.xdc.run = some r) : passStart s =
      ({ s with xdc := { s.xdc with due := false, todo := [], newPass := true } } : Chip).bumpBy F.XDC_SKIP_CNT_COUNT
        s.xdc.todo.length := by
  unfold passStart
  rw [if_neg (by simp [hup, hp, hdue]), hrun]

theorem passStart_of_idle (hup : s.domainUp 4 = true) (hp : s.xprofile ≠ 0) (hdue : s.xdc.due = true) (hrun : s.xdc.run = none) :
    passStart s = xdcNext s.clockFtu { s with xdc := { s.xdc with due := false, newPass := true } } := by
  unfold passStart
  rw [if_neg (by simp [hup, hp, hdue]), hrun]

section
variable (hup : s.domainUp 4 = true) (hp : s.xprofile ≠ 0) (hdue : s.xdc.due = true) (hrun : s.xdc.run = none) (hl : s.lent ≠ [])
  (hu : s.xdc.pend = 0) (hr : s.xdc.redo = none)
include hup hp hdue hrun hl hu hr

theorem passStart_of_pass {n : Nat} {rest : List Nat} (h : s.xpass = n :: rest) : passStart s = startEntry n none s.clockFtu
    { s with xdc := { s.xdc with run := none, due := false, newPass := false, redo := none, todo := rest } } :=
  (passStart_of_idle hup hp hdue hrun).trans
    (xdcNext_of_pass (s := { s with xdc := { s.xdc with due := false, newPass := true } }) _ hp hl hu hr rfl h)

theorem passStart_of_empty_pass (h : s.xpass = []) : passStart s =
    { s with xdc := { s.xdc with run := none, due := false, newPass := false, redo := none, todo := [] } } :=
  (passStart_of_idle hup hp hdue hrun).trans
    (xdcNext_of_empty_pass (s := { s with xdc := { s.xdc with due := false, newPass := true } }) _ hp hl hu hr rfl h)

end

theorem filterReset_of_settled {r : XdcRun} (hrun : s.xdc.run = some r) (hs : r.sampling = false) (ht : r.resetAt ≤ s.clockFtu) :
    filterReset s = { s with xdc := { s.xdc with run := some { r with sampling := true, outputs := 0 } } } := by
  unfold filterReset
  rw [hrun]
  exact if_pos (by simp [hs, ht])

theorem filterReset_of_unsettled {r : XdcRun} (hrun : s.xdc.run = some r) (h : r.sampling = true ∨ s.clockFtu < r.resetAt) :
    filterReset s = s := by
  unfold filterReset
  rw [hrun]
  refine if_neg ?_
  rcases h with h | h
  · simp [h]
  · simp [h]

theorem filterReset_of_idle (hrun : s.xdc.run = none) : filterReset s = s := by
  unfold filterReset
  rw [hrun]

end

/-! ### A restart of the count (R163, R164) -/

section
variable {s : Chip} {r : XdcRun} {time raw : Nat}

theorem invalidOutput_of_mark (h : s.flag F.XDC_SEQ_CTL_MARK = true) :
    invalidOutput r time raw s = emitResult (runResult r time raw true false false false) s := if_pos h

theorem invalidOutput_of_discard (h : s.flag F.XDC_SEQ_CTL_MARK = false) :
    invalidOutput r time raw s = s.bump F.XDC_DISCARD_CNT_COUNT := if_neg (ne_true_of_eq_false h)

end

/-- The code of a filtered input limited to the regular codes (R160). -/
def regularCode (v : Int) : Nat := unsext 24 (max (-8388606) (min 8388606 v))

/-- No regular code is reserved (R160). -/
theorem regularCode_ne_reserved (v : Int) : regularCode v ≠ 0x7FFFFF ∧ regularCode v ≠ 0x800000 ∧ regularCode v ≠ 0x800001 := by
  unfold regularCode unsext
  have hlow : -8388606 ≤ max (-8388606) (min 8388606 v) := le_max_left _ _
  have hhigh : max (-8388606) (min 8388606 v) ≤ 8388606 := max_le (by decide) (min_le_left _ _)
  generalize max (-8388606) (min 8388606 v) = w at hlow hhigh
  omega

/-- A run whose filter is reset again after its settle time (R164). -/
def Chip.resettled (s : Chip) (r : XdcRun) : XdcRun :=
  { r with sampling := false, outputs := 0, resetAt := s.clockFtu + s.xsettle r.entry * usFtu }

/-- The time of the last sample of an output cut short. -/
def Chip.cutTime (s : Chip) (r : XdcRun) : Nat :=
  s.timeOfClock (r.resetAt + (s.clockFtu - r.resetAt - 1) / s.runTs r * s.runTs r)

/-- The code of an output cut short: a free value among the regular codes. -/
def Chip.cutCode (s : Chip) : Nat := regularCode (sext 24 (s.drawFree.1.toNat % 2 ^ 24))

/-- The chip with another running entry. -/
def Chip.setRun (s : Chip) (r : XdcRun) : Chip := { s with xdc := { s.xdc with run := some r } }

section
variable {s : Chip} {r : XdcRun}

theorem restartEntry_of_settling (hrun : s.xdc.run = some r) (h : r.sampling = false) : restartEntry s = s.setRun (s.resettled r) := by
  unfold restartEntry
  rw [hrun]
  dsimp only
  rw [if_neg (ne_true_of_eq_false h)]
  rfl

theorem restartEntry_of_sampling (hrun : s.xdc.run = some r) (h : r.sampling = true) :
    restartEntry s = (invalidOutput r (s.cutTime r) s.cutCode s.drawFree.2).setRun (s.resettled r) := by
  unfold restartEntry
  rw [hrun]
  dsimp only
  rw [if_pos h]
  rfl

end

theorem setRun_sequenced (s : Chip) (r : XdcRun) : Sequenced s (s.setRun r) := ⟨_, rfl, rfl⟩

/-- What a restart of the count of run r leaves. -/
structure EntryRestarted (r : XdcRun) (s u : Chip) : Prop where
  run : u.xdc.run = some (s.resettled r)
  todo : u.xdc.todo = s.xdc.todo
  clk : u.clk = s.clk
  mems : u.mems = s.mems
  active : u.regs.active = s.regs.active
  settling : r.sampling = false → u.xdc.results = s.xdc.results ∧ u.regs = s.regs
  discarded : r.sampling = true → s.flag F.XDC_SEQ_CTL_MARK = false → u.xdc.results = s.xdc.results ∧
    u.fld F.XDC_DISCARD_CNT_COUNT = satTo 32 (s.fld F.XDC_DISCARD_CNT_COUNT + 1)
  marked : r.sampling = true → s.flag F.XDC_SEQ_CTL_MARK = true →
    ResultEmitted (runResult r (s.cutTime r) s.cutCode true false false false) s u

theorem restartEntry_restarted {s : Chip} {r : XdcRun} (hrun : s.xdc.run = some r) : EntryRestarted r s (restartEntry s) := by
  cases hs : r.sampling with
  | false =>
    rw [restartEntry_of_settling hrun hs]
    exact ⟨rfl, rfl, rfl, rfl, rfl, fun _ => ⟨rfl, rfl⟩, fun h => absurd (hs.symm.trans h) (by decide),
      fun h => absurd (hs.symm.trans h) (by decide)⟩
  | true =>
    have hno {p : Prop} : r.sampling = false → p := fun h => absurd (hs.symm.trans h) (by decide)
    rw [restartEntry_of_sampling hrun hs]
    cases hm : s.flag F.XDC_SEQ_CTL_MARK with
    | false =>
      rw [invalidOutput_of_discard (s := s.drawFree.2) hm]
      have hcount := s.drawFree.2.fld_bump_same F.XDC_DISCARD_CNT_COUNT (by decide) rfl
      exact ⟨rfl, rfl, rfl, rfl, rfl, hno, fun _ _ => ⟨rfl, hcount⟩, fun _ h => absurd (hm.symm.trans h) (by decide)⟩
    | true =>
      rw [invalidOutput_of_mark (s := s.drawFree.2) hm]
      generalize hx : runResult r (s.cutTime r) s.cutCode true false false false = x
      have h : ResultEmitted x s (emitResult x s.drawFree.2) := emitResult_emitted_from x
      have htodo := (emitResult_entries x s.drawFree.2).2
      exact ⟨rfl, htodo, h.clk, h.mems, h.active, hno, fun _ h => absurd (hm.symm.trans h) (by decide),
        fun _ _ => hx.symm ▸ h.sequenced (setRun_sequenced _ _)⟩

/-! ### EXCITATION_PULSE_END and XDC_OPEN (R155 to R157, R164) -/

/-- PW has passed for source A of a run. -/
def Chip.endsA (s : Chip) (r : XdcRun) : Bool := r.srcA && decide (r.onA + s.xpw r.entry * usFtu ≤ s.clockFtu)

/-- PW has passed for source B of a run. -/
def Chip.endsB (s : Chip) (r : XdcRun) : Bool := r.srcB && decide (r.onB + s.xpw r.entry * usFtu ≤ s.clockFtu)

/-- The run with the sources off for which PW has passed. -/
def Chip.pulsed (s : Chip) (r : XdcRun) : XdcRun :=
  { r with srcA := r.srcA && !s.endsA r, srcB := r.srcB && !s.endsB r, offA := r.offA || s.endsA r, offB := r.offB || s.endsB r }

section
variable {s : Chip} {r : XdcRun} (hrun : s.xdc.run = some r)
include hrun

theorem pulseEnd_of_end (h : s.endsA r = true ∨ s.endsB r = true) : pulseEnd s = restartEntry (s.setRun (s.pulsed r)) := by
  unfold pulseEnd
  rw [hrun]
  exact if_pos (Bool.or_eq_true_iff.mpr h)

theorem pulseEnd_of_lasting (ha : s.endsA r = false) (hb : s.endsB r = false) : pulseEnd s = s := by
  unfold pulseEnd
  rw [hrun]
  exact if_neg (ne_true_of_eq_false (Bool.or_eq_false_iff.mpr ⟨ha, hb⟩))

theorem complianceOpen_of_driven (tclk : Nat) (h : r.srcA = true ∨ r.srcB = true) : complianceOpen tclk s =
    endEntry (s.clockFtu + 256 * tclk) (emitResult (runResult r (s.nowAt (256 * tclk)) 0x800001 false false false true) s) := by
  unfold complianceOpen
  rw [hrun]
  exact if_pos (Bool.or_eq_true_iff.mpr h)

theorem complianceOpen_of_undriven (tclk : Nat) (ha : r.srcA = false) (hb : r.srcB = false) : complianceOpen tclk s = s := by
  unfold complianceOpen
  rw [hrun]
  exact if_neg (ne_true_of_eq_false (Bool.or_eq_false_iff.mpr ⟨ha, hb⟩))

end

theorem pulseEnd_of_idle {s : Chip} (hrun : s.xdc.run = none) : pulseEnd s = s := by
  unfold pulseEnd
  rw [hrun]

theorem complianceOpen_of_idle {s : Chip} (tclk : Nat) (hrun : s.xdc.run = none) : complianceOpen tclk s = s := by
  unfold complianceOpen
  rw [hrun]

/-! ### The pins (R153, R155, R170) -/

section
variable {s : Chip}

theorem Chip.xclosed_of_open (h : ∀ r, s.xdc.run = some r → s.clockFtu < r.closeAt) : s.xclosed = none := by
  unfold Chip.xclosed
  cases hrun : s.xdc.run with
  | none => rfl
  | some r => simp [h r hrun]

theorem Chip.xclosed_of_closed {r : XdcRun} (hrun : s.xdc.run = some r) (h : r.closeAt ≤ s.clockFtu) : s.xclosed = some r := by
  unfold Chip.xclosed
  simp [hrun, h]

theorem Chip.xdRoles_of_open (h : s.xclosed = none) (p : Nat) : s.xdRoles p = [] := by
  unfold Chip.xdRoles
  rw [h]

theorem Chip.pgaNeg_of_open (h : s.xclosed = none) : s.pgaNeg = none := by
  unfold Chip.pgaNeg
  rw [h]
  rfl

theorem Chip.xdRoles_of_closed {r : XdcRun} (h : s.xclosed = some r) (p : Nat) : s.xdRoles p = s.xnames r.entry p := by
  unfold Chip.xdRoles
  rw [h]

theorem Chip.pgaNeg_of_closed {r : XdcRun} (h : s.xclosed = some r) : s.pgaNeg = some (
    if s.fld (F.XDC_ROUTE_NEGSEL r.entry) = 0 then .pin (s.fld (F.XDC_ROUTE_NEG r.entry))
    else if s.fld (F.XDC_ROUTE_NEGSEL r.entry) = 2 then .bias else .ground) := by
  unfold Chip.pgaNeg
  rw [h, Option.map_some]
  congr 1
  generalize s.fld (F.XDC_ROUTE_NEGSEL r.entry) = sel
  match sel with
  | 0 => rfl
  | 1 => rfl
  | 2 => rfl
  | _ + 3 => rfl

theorem Chip.burnoutPin_of_run {r : XdcRun} (hrun : s.xdc.run = some r) :
    s.burnoutPin = if s.flag (F.XDC_CONV_BURNOUT r.entry) then some (s.fld (F.XDC_ROUTE_POS r.entry)) else none := by
  unfold Chip.burnoutPin
  rw [hrun]
  cases hburn : s.flag (F.XDC_CONV_BURNOUT r.entry) with
  | false => simp [hburn]
  | true => simp [hburn]

theorem Chip.burnoutPin_of_idle (hrun : s.xdc.run = none) : s.burnoutPin = none := by
  unfold Chip.burnoutPin
  rw [hrun]
  rfl

end

/-- A role that a list gives where a condition holds. -/
theorem mem_roleIf {b : Prop} [Decidable b] {x y : XdRole} : x ∈ (if b then [y] else []) ↔ b ∧ x = y := by
  split
  · next hb => simp [hb]
  · next hb => simp [hb]

/-- The roles that an entry names for a pin are those that its ROUTE fields name (R153). -/
theorem Chip.mem_xnames (s : Chip) (n p : Nat) (x : XdRole) : x ∈ s.xnames n p ↔ match x with
    | .adcPos => s.fld (F.XDC_ROUTE_POS n) = p
    | .adcNeg => s.fld (F.XDC_ROUTE_NEGSEL n) = 0 ∧ s.fld (F.XDC_ROUTE_NEG n) = p
    | .sourceA => (s.fld (F.XDC_ROUTE_EXC n) = 1 ∨ s.fld (F.XDC_ROUTE_EXC n) = 3) ∧ s.fld (F.XDC_ROUTE_SRC n) = p
    | .sourceB => (s.fld (F.XDC_ROUTE_EXC n) = 2 ∨ s.fld (F.XDC_ROUTE_EXC n) = 3) ∧ s.fld (F.XDC_ROUTE_SRC2 n) = p
    | .sink => s.fld (F.XDC_ROUTE_SINK_EN n) = 1 ∧ s.fld (F.XDC_ROUTE_SINK n) = p
    | .bias => s.fld (F.XDC_ROUTE_BIAS_EN n) = 1 ∧ s.fld (F.XDC_ROUTE_BIAS n) = p := by
  unfold Chip.xnames
  simp only [List.mem_append, mem_roleIf]
  cases x <;> simp

/-! ### The statement -/

theorem exec_xdcPassStart (s : State) : exec .xdcPassStart s = .next { s with chip := passStart s.chip } := rfl

theorem exec_xdcFilterReset (s : State) : exec .xdcFilterReset s = .next { s with chip := filterReset s.chip } := rfl

theorem exec_excitationPulseEnd (s : State) : exec .excitationPulseEnd s = .next { s with chip := pulseEnd s.chip } := rfl

theorem exec_xdcOpen (e : Fin 2) (s : State) : exec (.xdcOpen e) s = .next { s with chip := complianceOpen e s.chip } := rfl

theorem Chip.numbered_rseq {s u : Chip} {r : XdcRes} (h : ResultEmitted r s u) :
    (s.numbered r).rseq = u.fld F.XDC_RESULT_CNT_COUNT % 65536 := by
  rw [h.count, ← resultCount_bump]
  rfl

/-- Settles O46: each row by its cases, a restart and an emission by what they leave, the pins by the switches that are closed. -/
theorem sequencerRowsComplete : Obligations.SequencerRowsComplete := by
  unfold Obligations.SequencerRowsComplete
  intro s c emits
  have hemits {r : XdcRes} {u : Chip} (h : ResultEmitted r c u) : emits u (c.numbered r) := ⟨h.results, h.count, Chip.numbered_rseq h⟩
  refine ⟨fun h => ?_, fun hup hp hdue => ⟨fun r hrun => ⟨_, exec_xdcPassStart s, ?_⟩,
    fun hrun hl hu hr => ⟨_, exec_xdcPassStart s, ?_⟩⟩, fun r hrun => ?_, fun hrun => ?_⟩
  · rw [exec_xdcPassStart, passStart_of_not_due h]
  · rw [passStart_of_running hup hp hdue hrun]
    exact ⟨rfl, Chip.fld_bumpBy_same _ F.XDC_SKIP_CNT_COUNT _ (by decide) rfl, rfl, fun a ha => Chip.setFld_direct_ne _ _ _ _ ha.symm⟩
  · cases hpass : c.xpass with
    | nil =>
      rw [passStart_of_empty_pass hup hp hdue hrun hl hu hr hpass]
      exact ⟨rfl, rfl, rfl, rfl, fun _ => ⟨rfl, rfl⟩, fun _ _ h => absurd h (List.cons_ne_nil _ _).symm⟩
    | cons n rest =>
      rw [passStart_of_pass hup hp hdue hrun hl hu hr hpass]
      refine ⟨rfl, rfl, rfl, rfl, fun h => absurd h (List.cons_ne_nil _ _), fun m todo h => ?_⟩
      obtain ⟨rfl, rfl⟩ := List.cons.inj h
      obtain ⟨r, hstart, hr⟩ := startEntry_started n c.clockFtu
        { c with xdc := { c.xdc with run := none, due := false, newPass := false, redo := none, todo := rest } }
      have hnone := Chip.xclosed_of_open fun q hq => by
        obtain rfl := Option.some.inj (hstart.symm.trans hq)
        rw [hr.closeAt]
        exact Nat.lt_add_of_pos_right (by decide)
      exact ⟨rfl, r, hstart, hr.entry, hr.urgent, hr.start, hr.sampling, hr.outputs, hr.closeAt, hr.onA, hr.onB, hr.slices,
        Chip.xdRoles_of_open hnone, hr.resetAt, hr.srcA, hr.srcB⟩
  · intro pw endA endB
    refine ⟨fun hs ht => ⟨_, exec_xdcFilterReset s, filterReset_of_settled hrun hs ht⟩, fun h => ?_,
      fun h => ⟨_, exec_excitationPulseEnd s, ?_⟩, fun h => ?_, fun e h => ⟨_, exec_xdcOpen e s, ?_⟩, fun e ha hb => ?_,
      c.burnoutPin_of_run hrun, fun hopen => ?_, fun hclosed => ?_⟩
    · rw [exec_xdcFilterReset, filterReset_of_unsettled hrun h]
    · rw [pulseEnd_of_end hrun h]
      have k := restartEntry_restarted (s := c.setRun (c.pulsed r)) (r := c.pulsed r) rfl
      refine ⟨k.run, k.clk, k.mems, k.active, k.todo, k.settling, k.discarded, fun hs hm => ?_⟩
      have hemit := k.marked hs hm
      exact ⟨_, ⟨hemit.results, hemit.count, Chip.numbered_rseq hemit⟩, rfl, rfl, regularCode_ne_reserved _⟩
    · rw [exec_excitationPulseEnd, pulseEnd_of_lasting hrun h.1 h.2]
    · rw [complianceOpen_of_driven hrun e h]
      have k := (emitResult_emitted (runResult r (c.nowAt (256 * e)) 0x800001 false false false true) c).sequenced
        (endEntry_sequenced (c.clockFtu + 256 * e) _)
      obtain ⟨hseen, hcount⟩ := k.opened rfl
      exact ⟨k.clk, k.mems, k.active, hseen, hcount, _, hemits k, rfl, rfl, rfl, rfl, rfl, rfl⟩
    · rw [exec_xdcOpen, complianceOpen_of_undriven hrun e ha hb]
    · have hnone : c.xclosed = none := Chip.xclosed_of_open fun q hq => by
        obtain rfl := Option.some.inj (hrun.symm.trans hq)
        exact hopen
      exact ⟨Chip.pgaNeg_of_open hnone, Chip.xdRoles_of_open hnone⟩
    · intro named
      have hsome : c.xclosed = some r := Chip.xclosed_of_closed hrun hclosed
      refine ⟨Chip.pgaNeg_of_closed hsome, fun p => ?_⟩
      rw [Chip.xdRoles_of_closed hsome]
      exact ⟨c.mem_xnames _ _ _, c.mem_xnames _ _ _, c.mem_xnames _ _ _, c.mem_xnames _ _ _, c.mem_xnames _ _ _, c.mem_xnames _ _ _⟩
  · have hnone : c.xclosed = none := Chip.xclosed_of_open fun q hq => absurd (hrun.symm.trans hq) (by simp)
    refine ⟨?_, ?_, fun e => ?_, Chip.pgaNeg_of_open hnone, Chip.burnoutPin_of_idle hrun, Chip.xdRoles_of_open hnone⟩
    · rw [exec_xdcFilterReset, filterReset_of_idle hrun]
    · rw [exec_excitationPulseEnd, pulseEnd_of_idle hrun]
    · rw [exec_xdcOpen, complianceOpen_of_idle e hrun]

end Sys2Proof.Machine
end

section
/-! PROOFS. The outputs of the transducer front end (R158, R160, R163, R168 to R170): the moment, the code and the flags of an output. -/

namespace Sys2Proof.Machine

/-! ### The moment and the code of an output -/

/-- The device-clock time at which the next output of a run is complete (R163). -/
def Chip.doneAt (s : Chip) (r : XdcRun) : Nat := r.resetAt + (r.outputs + 1) * 2 ^ s.xosr 0 r.entry * s.runTs r

/-- The time of the last sample of the next output of a run (R171). -/
def Chip.outputTime (s : Chip) (r : XdcRun) : Nat := s.timeOfClock (s.doneAt r - s.runTs r)

/-- The side of the limit that a conversion passed: that of the first limit code, else that of the code itself (R168). -/
def limitSide (limit : Option Bool) (v : Int) : Option Bool :=
  match limit with
  | some b => some b
  | none => if 8388606 < v then some true else if v < -8388606 then some false else none

theorem limitSide_eq_true {limit : Option Bool} {v : Int} :
    limitSide limit v = some true ↔ limit = some true ∨ limit = none ∧ 8388606 < v := by
  cases limit with
  | some b => simp [limitSide]
  | none =>
    simp only [limitSide]
    split
    · next h => simp [h]
    · next h => simp [h]

theorem limitSide_eq_false {limit : Option Bool} {v : Int} :
    limitSide limit v = some false ↔ limit = some false ∨ limit = none ∧ v < -8388606 := by
  cases limit with
  | some b => simp [limitSide]
  | none =>
    simp only [limitSide]
    split
    · next h => simp [show ¬ v < -8388606 by omega]
    · simp

theorem limitSide_eq_none {limit : Option Bool} {v : Int} (hhigh : limitSide limit v ≠ some true)
    (hlow : limitSide limit v ≠ some false) : limitSide limit v = none := by
  match h : limitSide limit v with
  | none => rfl
  | some true => exact absurd h hhigh
  | some false => exact absurd h hlow

/-- The result of a run for a limit side (R160, R168, R170). -/
def sideResult (r : XdcRun) (time raw : Nat) (burn near : Bool) (side : Option Bool) : XdcRes :=
  match side with
  | some true => if burn then runResult r time 0x800001 false false near true else runResult r time 0x7FFFFF false true near false
  | some false => runResult r time 0x800000 false true near false
  | none => runResult r time raw false false near false

/-- What every result of a run has in common, whatever its side. -/
structure ResultOfRun (r : XdcRun) (time : Nat) (near : Bool) (x : XdcRes) : Prop where
  entry : x.entry = r.entry
  time : x.time = time
  urgent : x.urgent = r.urgent.isSome
  ext : x.ext = r.ext
  invalid : x.invalid = false
  near : x.near = near
  fault : x.ovr = true → x.opened = false

theorem sideResult_ofRun (r : XdcRun) (time raw : Nat) (burn near : Bool) (side : Option Bool) :
    ResultOfRun r time near (sideResult r time raw burn near side) := by
  match side, burn with
  | some true, true => exact ⟨rfl, rfl, rfl, rfl, rfl, rfl, fun h => absurd h Bool.false_ne_true⟩
  | some true, false => exact ⟨rfl, rfl, rfl, rfl, rfl, rfl, fun _ => rfl⟩
  | some false, _ => exact ⟨rfl, rfl, rfl, rfl, rfl, rfl, fun _ => rfl⟩
  | none, _ => exact ⟨rfl, rfl, rfl, rfl, rfl, rfl, fun _ => rfl⟩

/-- With the internal reference, the voltage on XDREF does not enter (R158). -/
theorem Chip.xcode_eq (s : Chip) (n : Nat) (volt : Int) (xdref : Nat) : s.xcode n volt xdref =
    if s.flag (F.XDC_CONV_REFSEL n) then volt * (2 ^ (23 + s.fld (F.XDC_CONV_GAIN n)) : Nat) / (xdref : Int) else s.xcode n volt 0 := by
  unfold Chip.xcode
  dsimp only
  split
  · rfl
  · rfl

/-! ### XDC_OUTPUT_COMPLETE -/

section
variable {s : Chip} {r : XdcRun} (volt : Int) (xdref : Nat) (limit : Option Bool)

theorem outputComplete_of_idle (hrun : s.xdc.run = none) : outputComplete volt xdref limit s = s := by
  unfold outputComplete
  rw [hrun]

variable (hrun : s.xdc.run = some r)
include hrun

theorem outputComplete_of_early (h : r.sampling = false ∨ s.clockFtu < s.doneAt r) : outputComplete volt xdref limit s = s := by
  unfold outputComplete
  rw [hrun]
  refine if_pos ?_
  rcases h with h | h
  · rw [h]
    rfl
  · exact Bool.or_eq_true_iff.mpr (.inr (decide_eq_true h))

variable (hs : r.sampling = true) (hdone : s.doneAt r ≤ s.clockFtu)
include hs hdone

theorem outputComplete_of_invalid (h : r.outputs < 2) : outputComplete volt xdref limit s =
    invalidOutput r (s.outputTime r) (regularCode (s.xcode r.entry volt xdref)) (s.setRun { r with outputs := r.outputs + 1 }) := by
  have hnot : ¬ (!r.sampling || decide (s.clockFtu < s.doneAt r)) = true := by simp [hs, hdone]
  unfold outputComplete
  rw [hrun]
  exact (if_neg hnot).trans (if_pos h)

/-- The third output is the result, and its entry ends (R163). -/
theorem outputComplete_of_result (h : 2 ≤ r.outputs) : outputComplete volt xdref limit s =
    endEntry (s.doneAt r) (emitResult
      (sideResult r (s.outputTime r) (regularCode (s.xcode r.entry volt xdref)) (s.flag (F.XDC_CONV_BURNOUT r.entry))
        (r.nearOvr || s.xdc.near != 0) (limitSide limit (s.xcode r.entry volt xdref)))
      { s with xdc := { s.xdc with near := s.xdc.near - 1 } }) := by
  have hnot : ¬ (!r.sampling || decide (s.clockFtu < s.doneAt r)) = true := by simp [hs, hdone]
  unfold outputComplete
  rw [hrun]
  exact (if_neg hnot).trans (if_neg (Nat.not_lt.mpr h))

end

/-! ### The statement -/

theorem exec_xdcOutputComplete (volt : Int) (limit : Option Bool) (xdref : Fin 2000001) (s : State) :
    exec (.xdcOutputComplete volt limit xdref) s =
      .next { s with chip := outputComplete volt ((500000 + xdref) * 1000000) limit s.chip } := rfl

theorem Chip.runTs_eq (s : Chip) (r : XdcRun) : s.runTs r = if s.xprofile = 1 ∨ r.urgent.isSome = true then 131072 else 65536 := by
  unfold Chip.runTs samplePeriod
  simp

/-- Settles O47: the output is judged by its moment and its number; the result by the side of the limit that it passed. -/
theorem outputsFollowTheirCodes : Obligations.OutputsFollowTheirCodes := by
  unfold Obligations.OutputsFollowTheirCodes
  intro volt xdref limit s c i
  have hexec : exec i s = .next { s with chip := outputComplete volt ((500000 + xdref) * 1000000) limit c } :=
    exec_xdcOutputComplete volt limit xdref s
  have hidle (h : outputComplete volt ((500000 + xdref) * 1000000) limit c = c) : exec i s = .next s := by rw [hexec, h]
  refine ⟨fun hrun => hidle (outputComplete_of_idle _ _ _ hrun),
    fun r hrun hs => hidle (outputComplete_of_early _ _ _ hrun (.inl hs)), fun r hrun hs => ?_⟩
  intro ts done time v regular burn high low emits
  have hts : c.runTs r = ts := c.runTs_eq r
  have hdone : c.doneAt r = done := by
    unfold Chip.doneAt
    rw [hts]
  have htime : c.outputTime r = time := by
    unfold Chip.outputTime Chip.timeOfClock
    rw [hts, hdone]
  have hv : c.xcode r.entry volt ((500000 + xdref) * 1000000) = v := c.xcode_eq ..
  have hemits {x : XdcRes} {u : Chip} (h : ResultEmitted x c u) (he : x.entry = r.entry) (ht : x.time = time)
      (hu : x.urgent = r.urgent.isSome) (hx : x.ext = r.ext) : emits u (c.numbered x) :=
    ⟨h.results, h.count, Chip.numbered_rseq h, he, ht, hu, hx, h.clk, h.mems, h.active, he ▸ h.openBit⟩
  refine ⟨fun hearly => hidle (outputComplete_of_early _ _ _ hrun (.inr (hdone ▸ hearly))), fun hd hn hm => ⟨_, hexec, ?_⟩,
    fun hd hn hm => ⟨_, hexec, ?_⟩, fun hd hn => ⟨_, hexec, ?_⟩⟩
  · rw [outputComplete_of_invalid _ _ _ hrun hs (hdone.symm ▸ hd) hn, 
      invalidOutput_of_discard (s := c.setRun { r with outputs := r.outputs + 1 }) hm]
    rfl
  · rw [outputComplete_of_invalid _ _ _ hrun hs (hdone.symm ▸ hd) hn, 
      invalidOutput_of_mark (s := c.setRun { r with outputs := r.outputs + 1 }) hm, htime, hv]
    have k : ResultEmitted (runResult r time regular true false false false) c
        (emitResult _ (c.setRun { r with outputs := r.outputs + 1 })) := emitResult_emitted_from _
    exact ⟨(emitResult_entries _ _).1, _, hemits k rfl rfl rfl rfl, rfl, rfl, rfl, rfl⟩
  · have hnear : (c.xdc.near != 0) = decide (c.xdc.near ≠ 0) := by
      rw [Bool.eq_iff_iff]
      simp
    rw [outputComplete_of_result _ _ _ hrun hs (hdone.symm ▸ hd) hn, htime, hdone, hv, hnear]
    have hhigh (h : high) : limitSide limit v = some true := limitSide_eq_true.mpr h
    have hlow (h : low) : limitSide limit v = some false := limitSide_eq_false.mpr h
    have hnone (h : ¬ high) (h' : ¬ low) : limitSide limit v = none :=
      limitSide_eq_none (fun k => h (limitSide_eq_true.mp k)) fun k => h' (limitSide_eq_false.mp k)
    have hres := sideResult_ofRun r time (regularCode v) burn (r.nearOvr || decide (c.xdc.near ≠ 0)) (limitSide limit v)
    generalize hx : sideResult r time (regularCode v) burn (r.nearOvr || decide (c.xdc.near ≠ 0)) (limitSide limit v) = x at hres
    have k : ResultEmitted x c (endEntry done (emitResult x { c with xdc := { c.xdc with near := c.xdc.near - 1 } })) :=
      (emitResult_emitted_from x).sequenced (endEntry_sequenced done _)
    refine ⟨c.numbered x, hemits k hres.entry hres.time hres.urgent hres.ext, hres.invalid,
      hres.near, fun h h' => ?_, fun h hb => ?_,
      fun h hb => ?_, fun h => ?_, fun hovr => k.overrange (hres.fault hovr) hovr, k.opened⟩
    · rw [← hx, hnone h h']
      exact ⟨rfl, rfl, rfl⟩
    · rw [← hx, hhigh h, hb]
      exact ⟨rfl, rfl, rfl⟩
    · rw [← hx, hhigh h, hb]
      exact ⟨rfl, rfl, rfl⟩
    · rw [← hx, hlow h]
      exact ⟨rfl, rfl, rfl⟩

end Sys2Proof.Machine
end

section
/-! PROOFS. The linearisation engine (R171 to R178): the polynomial over tables that are current and clean, and the result registers. -/

namespace Sys2Proof.Machine

/-! ### What the rest of a delivery leaves to the transducer front end -/

/-- `t` keeps of `s` the transducer front end with its registers, the clock, the active bank, and every event that was seen. -/
structure KeepsFrontEnd (s t : Chip) : Prop where
  xdc : t.xdc = s.xdc
  clk : t.clk = s.clk
  active : t.regs.active = s.regs.active
  direct : ∀ a, 0x48000 ≤ a → a < 0x49000 → t.regs.direct.get a = s.regs.direct.get a
  events : ∀ e, e < 384 → s.eventSeen e = true → t.eventSeen e = true

section
variable {s t u : Chip}

theorem KeepsFrontEnd.refl (s : Chip) : KeepsFrontEnd s s := ⟨rfl, rfl, rfl, fun _ _ _ => rfl, fun _ _ h => h⟩

theorem KeepsFrontEnd.trans (h : KeepsFrontEnd s t) (k : KeepsFrontEnd t u) : KeepsFrontEnd s u :=
  ⟨k.xdc.trans h.xdc, k.clk.trans h.clk, k.active.trans h.active, fun a ha hb => (k.direct a ha hb).trans (h.direct a ha hb),
    fun e he hs => k.events e he (h.events e he hs)⟩

theorem KeepsFrontEnd.fld (h : KeepsFrontEnd s t) (f : Fld) (ha : 0x48000 ≤ f.addr) (hb : f.addr < 0x49000) : t.fld f = s.fld f :=
  Chip.fld_congr _ _ f h.active (h.direct _ ha hb)

theorem shipAddr_frontEnd {a : Nat} (ha : 0x48000 ≤ a) (hb : a < 0x49000) : shipAddr a = false := by
  have hannounce : announceAddr a = false := by
    rw [← Bool.not_eq_true, announceAddr_iff]
    omega
  unfold shipAddr
  rw [hannounce]
  simp only [Bool.false_or, Bool.or_eq_false_iff, Bool.and_eq_false_iff, decide_eq_false_iff_not]
  omega

theorem Works.keepsFrontEnd (h : Works s t) : KeepsFrontEnd s t :=
  ⟨h.xdc, h.clk, h.active, fun a ha hb => h.direct a (shipAddr_frontEnd ha hb) (.inl (by omega)), h.events⟩

theorem Ships.keepsFrontEnd (h : Ships s t) : KeepsFrontEnd s t := h.works.keepsFrontEnd

theorem Feeds.keepsFrontEnd (h : Feeds s t) : KeepsFrontEnd s t := by
  refine ⟨congrArg (fun c => c.xdc) h.rest, h.clk, h.active, fun a ha hb => h.direct a ?_ (.inr (by omega)), h.events⟩
  rw [← Bool.not_eq_true, announceAddr_iff]
  omega

end

/-! ### The polynomial (R177, R181) -/

/-- The LIN tables for data of age k are those held now, and no word of them has a failing parity. -/
structure LinCurrent (k : Nat) (s : Chip) : Prop where
  clean : ∀ w, (s.mem 7).par.get w = 0#8
  previous : k = 1 → s.tabs.lin1 = (s.mem 7).data
  older : 2 ≤ k → s.tabs.lin2 = (s.mem 7).data

/-- A coefficient c[i][j] of a table (R181). -/
def Chip.linCo (s : Chip) (t i j : Nat) : Nat := bits (s.memData 7 (16 * t + 2 * i + j / 2)) (32 * (j % 2) + 31) (32 * (j % 2))

/-- a[j] by Horner's rule in x (R177). -/
def Chip.linA (s : Chip) (t x j : Nat) : Nat :=
  (List.range 7).foldl (fun y i => f32Add (f32Mul y x) (s.linCo t (6 - i) j)) (s.linCo t 7 j)

/-- The polynomial of a table in x and T (R177). -/
def Chip.linY (s : Chip) (t x temp : Nat) : Nat :=
  f32Add (f32Mul (f32Add (f32Mul (f32Add (f32Mul (s.linA t x 3) temp) (s.linA t x 2)) temp) (s.linA t x 1)) temp) (s.linA t x 0)

section
variable {k : Nat} {s : Chip} (h : LinCurrent k s)
include h

theorem memReadAt_lin (w : Nat) : memReadAt k 7 w s = (s.memData 7 w, false, s) := by
  have hread {old : SMap 64} (ho : old = (s.mem 7).data) : (if old.get w = (s.mem 7).data.get w then memRead 7 w s
      else ((memReset 7 w ^^^ old.get w).toNat, false, s)) = (s.memData 7 w, false, s) := by
    rw [ho, if_pos rfl, memRead_clean (h.clean w)]
  match k, h with
  | 0, _ => exact hread rfl
  | 1, h => exact hread (h.previous rfl)
  | k + 2, h => exact hread (h.older (by omega))

theorem coefficient_of_current (t i j : Nat) : coefficient k t i j s = (s.linCo t i j, false, s) := by
  have hword : (128 * t + 16 * i + 4 * j) / 8 = 16 * t + 2 * i + j / 2 := by omega
  have hlt : s.memData 7 (16 * t + 2 * i + j / 2) < 2 ^ 64 := BitVec.isLt _
  unfold coefficient Chip.linCo bits
  dsimp only
  rw [memReadAt_lin h, hword]
  generalize s.memData 7 (16 * t + 2 * i + j / 2) = d at hlt
  rcases Nat.mod_two_eq_zero_or_one j with hj | hj
  · rw [if_pos (by omega), hj]
    rfl
  · rw [if_neg (by omega), hj, Nat.shiftRight_eq_div_pow, Nat.mod_eq_of_lt (by omega)]

omit h in
/-- A fold of reads that find no poison and leave the chip. -/
theorem foldl_clean_reads {f : Nat × Bool × Chip → Nat → Nat × Bool × Chip} {g : Nat → Nat → Nat}
    (hf : ∀ y i, f (y, false, s) i = (g y i, false, s)) (l : List Nat) (y : Nat) :
    l.foldl f (y, false, s) = (l.foldl g y, false, s) := by
  induction l generalizing y with
  | nil => rfl
  | cons i l ih => rw [List.foldl_cons, hf, ih, List.foldl_cons]

omit h in
theorem foldl_range_three (g : Nat → Nat → Nat) (y : Nat) : (List.range 3).foldl g y = g (g (g y 0) 1) 2 := rfl

theorem hornerX_of_current (t j x : Nat) : hornerX k t j x s = (s.linA t x j, false, s) := by
  unfold hornerX
  rw [coefficient_of_current h]
  refine foldl_clean_reads (fun y i => ?_) _ _
  simp only [coefficient_of_current h, Bool.or_false]

theorem polynomial_of_current (t x temp : Nat) : polynomial k t x temp s = (s.linY t x temp, false, s) := by
  unfold polynomial
  rw [hornerX_of_current h]
  refine (foldl_clean_reads (g := fun y i => f32Add (f32Mul y temp) (s.linA t x (2 - i))) (fun y i => ?_) _ _).trans ?_
  · simp only [hornerX_of_current h, Bool.or_false]
  · rw [foldl_range_three]
    simp only [Chip.linY, Nat.sub_zero, Nat.reduceSub]

end

/-! ### The result registers (R173, R174) -/

/-- A result is written to the registers of its entry. -/
def writeResult (r : XdcRes) (flags lin : Nat) (s : Chip) : Chip :=
  ((s.setFld (F.XDC_RES_LO_FLAGS r.entry) flags).setFld (F.XDC_RES_LO_RAW r.entry) r.raw).setFld (F.XDC_RES_HI_LIN r.entry) lin

/-- An invalid LIN is counted and announced (R178). -/
def countLinInvalid (s : Chip) : Chip :=
  raise EV.XDC_LIN_INV { s with xdc := { s.xdc with linInv := satTo 32 (s.xdc.linInv + 1) } }

/-- The chip whose oldest result has left the engine. -/
def Chip.popResult (s : Chip) (rest : List XdcRes) : Chip := { s with xdc := { s.xdc with results := rest } }

theorem countLinInvalid_xdc (s : Chip) :
    (countLinInvalid s).xdc = { s.xdc with linInv := satTo 32 (s.xdc.linInv + 1) } := (raise_announces EV.XDC_LIN_INV (by decide) _).xdc

theorem noteTemp_eq (r : XdcRes) (lin frame : Nat) (s : Chip) : noteTemp r lin frame s = { s with
    xdc := { s.xdc with temps := if r.stale then s.xdc.temps else Table.set s.xdc.temps r.entry (some (lin, frame)) } } := by
  unfold noteTemp
  split
  · rfl
  · rfl

/-- No result leaves the engine. -/
theorem resultToStreams_of_waiting {s : Chip}
    (h : s.xdc.results = [] ∨ ∃ r rest, s.xdc.results = r :: rest ∧ s.now < r.time + 131072) : resultToStreams s = s := by
  have hout : resultOut s = (none, s) := by
    unfold resultOut
    rcases h with h | ⟨r, rest, h, ht⟩
    · rw [h]
    · rw [h]
      exact if_pos ht
  unfold resultToStreams
  rw [hout]

theorem resultToStreams_keeps (s : Chip) : KeepsFrontEnd (resultOut s).2 (resultToStreams s) := by
  unfold resultToStreams
  split
  · next ws t h =>
    rw [h]
    exact (streamResult_works 1 ws t).keepsFrontEnd
  · next t h =>
    rw [h]
    exact .refl t

section
variable (s : Chip) (r : XdcRes)

/-- The age of the settings of a result (R26). -/
def Chip.resultAge : Nat := s.ageOf (r.time / frameFtu)

/-- The temperature input of a result (R176). -/
def Chip.resultTemp : Option Nat := s.xtemp (s.resultAge r) r.entry (r.time / frameFtu)

/-- The polynomial of a result is evaluated (R175 to R178). -/
def Chip.linearises : Bool :=
  s.flagAt (s.resultAge r) (F.XDC_OUT_LIN_EN r.entry) && !(r.invalid || r.ovr || r.opened) && !(s.resultTemp r).isNone

/-- The polynomial of a result, as the engine evaluates it. -/
def Chip.linEval (rest : List XdcRes) : Nat × Bool × Chip :=
  if s.linearises r then
    polynomial (s.resultAge r) (s.fldAt (s.resultAge r) (F.XDC_OUT_TABLE r.entry)) (s.xvalue (s.resultAge r) r.entry r.raw)
      ((s.resultTemp r).getD 0) (s.popResult rest)
  else (f32NaN, false, s.popResult rest)

/-- LIN of a result is invalid (R178). -/
def Chip.linFails (y : Nat) (poison : Bool) : Bool :=
  !s.flagAt (s.resultAge r) (F.XDC_OUT_LIN_EN r.entry) || (r.invalid || r.ovr || r.opened) || (s.resultTemp r).isNone
    || f32IsNaN y || f32IsInf y || poison

end

theorem resultOut_keeps {s t : Chip} {r : XdcRes} {rest : List XdcRes} {y : Nat} {poison : Bool} (hres : s.xdc.results = r :: rest)
    (htime : r.time + 131072 ≤ s.now) (heval : s.linEval r rest = (y, poison, t)) :
    ∃ flags, KeepsFrontEnd (writeResult r flags (if s.linFails r y poison then f32NaN else y)
      (if s.linFails r y poison then countLinInvalid t else noteTemp r y (r.time / frameFtu) t)) (resultOut s).2 := by
  generalize hout : resultOut s = out
  unfold resultOut at hout
  split at hout
  · next h => exact absurd (hres.symm.trans h).symm (List.cons_ne_nil _ _).symm
  · next q tail h =>
    obtain ⟨rfl, rfl⟩ := List.cons.inj (hres.symm.trans h)
    rw [← hout]
    rw [if_neg (Nat.not_lt.mpr htime)]
    extract_lets frame k n _ s0 lin fault temp tnv hist held
    have hmatch : (if (lin && !fault && !tnv) = true then
        polynomial k (s.fldAt k (F.XDC_OUT_TABLE n)) (s.xvalue k n r.raw) (temp.getD 0) s0
      else (f32NaN, false, s0)) = (y, poison, t) := heval
    rw [hmatch]
    dsimp -zeta only
    extract_lets inv linv _ s2 flags s3 words s4 s5
    have h4 : KeepsFrontEnd s3 s4 := by
      dsimp only [s4]
      split
      · exact (addBacklog_ships 1 32 s3).keepsFrontEnd.trans (putHistory_ships true 6 (by decide) words frame _ _ _).keepsFrontEnd
      · exact .refl s3
    have h5 : KeepsFrontEnd s3 s5 := h4.trans (triggerResult_feeds r linv inv s4).keepsFrontEnd
    refine ⟨flags / 256, ?_⟩
    show KeepsFrontEnd s3 (if inv then s5 else measureResult 4 n r.time (linv : Nat) s5)
    split
    · exact h5
    · exact h5.trans (measureResult_feeds 4 n r.time _ s5).keepsFrontEnd

/-- What a result that leaves the engine with a value `lin` for LIN leaves. -/
structure ResultOut (r : XdcRes) (rest : List XdcRes) (lin : Nat) (s u : Chip) : Prop where
  results : u.xdc.results = rest
  run : u.xdc.run = s.xdc.run
  clk : u.clk = s.clk
  active : u.regs.active = s.regs.active
  raw : u.fld (F.XDC_RES_LO_RAW r.entry) = r.raw
  lin : u.fld (F.XDC_RES_HI_LIN r.entry) = lin

theorem writeResult_fields {r : XdcRes} (flags lin : Nat) (s : Chip) (hraw : r.raw < 2 ^ 24) :
    (writeResult r flags lin s).fld (F.XDC_RES_LO_RAW r.entry) = r.raw ∧
      (writeResult r flags lin s).fld (F.XDC_RES_HI_LIN r.entry) = lin % 2 ^ 32 := by
  have hne : 0x48800 + 8 * r.entry ≠ 0x48804 + 8 * r.entry := by omega
  unfold writeResult
  refine ⟨?_, Chip.fld_setFld_same _ (F.XDC_RES_HI_LIN r.entry) _ (show 1 ≤ 32 ∧ 0 + 32 ≤ 32 by decide) rfl⟩
  rw [Chip.fld_setFld_ne _ _ hne,
    Chip.fld_setFld_same _ (F.XDC_RES_LO_RAW r.entry) _ (show 1 ≤ 24 ∧ 0 + 24 ≤ 32 by decide) rfl]
  exact Nat.mod_eq_of_lt hraw

theorem KeepsFrontEnd.resultOut {s v u : Chip} {r : XdcRes} {rest : List XdcRes} {flags lin : Nat}
    (h : KeepsFrontEnd (writeResult r flags lin v) u) (hraw : r.raw < 2 ^ 24) (hn : r.entry < 64) (hresults : v.xdc.results = rest)
    (hrun : v.xdc.run = s.xdc.run) (hclk : v.clk = s.clk) (hactive : v.regs.active = s.regs.active) :
    ResultOut r rest (lin % 2 ^ 32) s u := by
  obtain ⟨hfraw, hflin⟩ := writeResult_fields flags lin v hraw
  exact ⟨(congrArg Xdc.results h.xdc).trans hresults, (congrArg Xdc.run h.xdc).trans hrun, h.clk.trans hclk, h.active.trans hactive,
    (h.fld (F.XDC_RES_LO_RAW r.entry) (show 0x48000 ≤ 0x48800 + 8 * r.entry by omega)
      (show 0x48800 + 8 * r.entry < 0x49000 by omega)).trans hfraw,
    (h.fld (F.XDC_RES_HI_LIN r.entry) (show 0x48000 ≤ 0x48804 + 8 * r.entry by omega)
      (show 0x48804 + 8 * r.entry < 0x49000 by omega)).trans hflin⟩

section
variable {s : Chip} {r : XdcRes} {rest : List XdcRes} {y : Nat} (hres : s.xdc.results = r :: rest)
  (htime : r.time + 131072 ≤ s.now) (hraw : r.raw < 2 ^ 24) (hn : r.entry < 64)
  (heval : s.linEval r rest = (y, false, s.popResult rest))
include hres htime hraw hn heval

/-- A result with an invalid LIN (R178). -/
theorem resultToStreams_of_failing (hfails : s.linFails r y false = true) :
    ResultOut r rest f32NaN s (resultToStreams s) ∧ (resultToStreams s).xdc.linInv = satTo 32 (s.xdc.linInv + 1) ∧
      (resultToStreams s).eventSeen EV.XDC_LIN_INV = true ∧ (resultToStreams s).xdc.temps = s.xdc.temps := by
  obtain ⟨flags, hkeeps⟩ := resultOut_keeps hres htime heval
  rw [hfails, if_pos rfl, if_pos rfl] at hkeeps
  have h := hkeeps.trans (resultToStreams_keeps s)
  have hxdc := countLinInvalid_xdc (s.popResult rest)
  have hseen : (writeResult r flags f32NaN (countLinInvalid (s.popResult rest))).eventSeen EV.XDC_LIN_INV = true := by
    unfold writeResult
    rw [setFld_seen _ _ _ _ (by decide) statAddr_indexed, setFld_seen _ _ _ _ (by decide) statAddr_indexed,
      setFld_seen _ _ _ _ (by decide) statAddr_indexed]
    exact raise_seen _ (by decide) _
  have hclk : (countLinInvalid (s.popResult rest)).clk = s.clk := (raise_announces EV.XDC_LIN_INV (by decide) _).clk
  have hactive : (countLinInvalid (s.popResult rest)).regs.active = s.regs.active :=
    (raise_announces EV.XDC_LIN_INV (by decide) _).active
  have hout := h.xdc.trans hxdc
  exact ⟨h.resultOut hraw hn (congrArg Xdc.results hxdc) (congrArg Xdc.run hxdc :) hclk hactive, (congrArg Xdc.linInv hout :),
    h.events _ (by decide) hseen, (congrArg Xdc.temps hout :)⟩

/-- A result with a valid LIN (R176, R177). -/
theorem resultToStreams_of_valid (hfails : s.linFails r y false = false) :
    ResultOut r rest (y % 2 ^ 32) s (resultToStreams s) ∧ (resultToStreams s).xdc.linInv = s.xdc.linInv ∧
      (resultToStreams s).xdc.temps =
        if r.stale then s.xdc.temps else Table.set s.xdc.temps r.entry (some (y, r.time / frameFtu)) := by
  obtain ⟨flags, hkeeps⟩ := resultOut_keeps hres htime heval
  rw [hfails, if_neg Bool.false_ne_true, if_neg Bool.false_ne_true] at hkeeps
  rw [noteTemp_eq] at hkeeps
  have h := hkeeps.trans (resultToStreams_keeps s)
  exact ⟨h.resultOut hraw hn rfl rfl rfl rfl, (congrArg Xdc.linInv h.xdc :), (congrArg Xdc.temps h.xdc :)⟩

end

/-! ### The statement -/

theorem exec_xdcResult (s : State) : exec .xdcResult s = .next { s with chip := resultToStreams s.chip } := rfl

/-- Settles O48: a result whose LIN is invalid and one whose LIN is Horner's value differ in what the evaluation gives. -/
theorem resultsAreLinearised : Obligations.ResultsAreLinearised := by
  unfold Obligations.ResultsAreLinearised
  refine ⟨fun s h => ?_, fun s r rest => ?_⟩
  · rw [exec_xdcResult, resultToStreams_of_waiting h]
  · intro c k n lin fault temp co x a t y ok rests invalid hres htime hraw hn
    have hinvalid {z : Nat} (heval : c.linEval r rest = (z, false, c.popResult rest)) (hfails : c.linFails r z false = true) :
        Does .xdcResult s invalid := by
      obtain ⟨h, hcount, hseen, htemps⟩ := resultToStreams_of_failing hres htime hraw hn heval hfails
      exact ⟨_, exec_xdcResult s, ⟨h.results, h.run, h.clk, h.active, h.raw⟩, h.lin, hcount, hseen, htemps⟩
    have hlinearises : c.linearises r = (lin && !fault && !temp.isNone) := rfl
    have hfails (z : Nat) : c.linFails r z false = (!lin || fault || temp.isNone || f32IsNaN z || f32IsInf z || false) := rfl
    refine ⟨fun h => ?_, fun hlin hfault htemp hclean hprev holder => ?_⟩
    · have hnot : (lin && !fault && !temp.isNone) = false := by
        rcases h with h | h | h
        · simp [h]
        · simp [h]
        · simp [h]
      have heval : c.linEval r rest = (f32NaN, false, c.popResult rest) :=
        if_neg (ne_true_of_eq_false (hlinearises.trans hnot))
      refine hinvalid heval ?_
      rw [hfails]
      rcases h with h | h | h
      · simp [h]
      · simp [h]
      · simp [h]
    · have hnone : temp.isNone = false := by rw [← Option.not_isSome, htemp]; rfl
      have hcurrent : LinCurrent k (c.popResult rest) := ⟨hclean, hprev, holder⟩
      have heval : c.linEval r rest = (y, false, c.popResult rest) :=
        (if_pos (by rw [hlinearises, hlin, hfault, hnone]; rfl)).trans (polynomial_of_current hcurrent _ _ _)
      have hbad : c.linFails r y false = (f32IsNaN y || f32IsInf y) := by
        rw [hfails, hlin, hfault, hnone]
        simp
      refine ⟨fun hnot => hinvalid heval ?_, fun hok => ?_⟩
      · rw [hbad]
        by_contra hgood
        obtain ⟨hnan, hinf⟩ := Bool.or_eq_false_iff.mp (eq_false_of_ne_true hgood)
        exact hnot ⟨hlin, hfault, htemp, hnan, hinf⟩
      · obtain ⟨-, -, -, hnan, hinf⟩ := hok
        have hgood : c.linFails r y false = false := by rw [hbad, hnan, hinf]; rfl
        obtain ⟨h, hcount, htemps⟩ := resultToStreams_of_valid hres htime hraw hn heval hgood
        exact ⟨_, exec_xdcResult s, ⟨h.results, h.run, h.clk, h.active, h.raw⟩, h.lin, hcount, htemps⟩

end Sys2Proof.Machine
end

section
/-! PROOFS. The time-input and pulse unit (chapter 07): what the rest of a delivery leaves to it, its time inputs, channels and outputs, and
the registers of a channel. -/

namespace Sys2Proof.Machine

/-! ### What the other units leave to it -/

/-- `t` keeps of `s` the time inputs and the interval channels with the registers of their unit, the clock, the active bank, and every event
that was seen. -/
structure KeepsTip (s t : Chip) : Prop where
  tis : t.tis = s.tis
  tips : t.tips = s.tips
  clk : t.clk = s.clk
  active : t.regs.active = s.regs.active
  direct : ∀ a, 0x60000 ≤ a → a < 0x61000 → t.regs.direct.get a = s.regs.direct.get a
  events : ∀ e, e < 384 → s.eventSeen e = true → t.eventSeen e = true

section
variable {s t u : Chip}

theorem KeepsTip.refl (s : Chip) : KeepsTip s s := ⟨rfl, rfl, rfl, rfl, fun _ _ _ => rfl, fun _ _ h => h⟩

theorem KeepsTip.trans (h : KeepsTip s t) (k : KeepsTip t u) : KeepsTip s u :=
  ⟨k.tis.trans h.tis, k.tips.trans h.tips, k.clk.trans h.clk, k.active.trans h.active,
    fun a ha hb => (k.direct a ha hb).trans (h.direct a ha hb), fun e he hs => k.events e he (h.events e he hs)⟩

theorem KeepsTip.fld (h : KeepsTip s t) (f : Fld) (ha : 0x60000 ≤ f.addr) (hb : f.addr < 0x61000) : t.fld f = s.fld f :=
  Chip.fld_congr _ _ f h.active (h.direct _ ha hb)

theorem KeepsTip.ti (h : KeepsTip s t) (n : Nat) : t.ti n = s.ti n := congrArg (fun x => Table.get _ x n) h.tis

theorem KeepsTip.tip (h : KeepsTip s t) (k : Nat) : t.tip k = s.tip k := congrArg (fun x => Table.get _ x k) h.tips

theorem KeepsTip.ite {b : Prop} [Decidable b] (h : KeepsTip s t) (k : KeepsTip s u) : KeepsTip s (if b then t else u) := by
  split
  · exact h
  · exact k

theorem shipAddr_tip {a : Nat} (ha : 0x60000 ≤ a) (hb : a < 0x61000) : shipAddr a = false := by
  have hannounce : announceAddr a = false := by
    rw [← Bool.not_eq_true, announceAddr_iff]
    omega
  unfold shipAddr
  rw [hannounce]
  simp only [Bool.false_or, Bool.or_eq_false_iff, Bool.and_eq_false_iff, decide_eq_false_iff_not]
  omega

theorem Works.keepsTip (h : Works s t) : KeepsTip s t :=
  ⟨congrArg (fun c => c.tis) h.rest, congrArg (fun c => c.tips) h.rest, h.clk, h.active,
    fun a ha hb => h.direct a (shipAddr_tip ha hb) (.inl (by omega)), h.events⟩

theorem Ships.keepsTip (h : Ships s t) : KeepsTip s t := h.works.keepsTip

theorem Feeds.keepsTip (h : Feeds s t) : KeepsTip s t :=
  ⟨congrArg (fun c => c.tis) h.rest, congrArg (fun c => c.tips) h.rest, h.clk, h.active,
    fun a ha hb => h.direct a (announceAddr_of_shipAddr (shipAddr_tip ha hb)) (.inr (by omega)), h.events⟩

theorem Announces.keepsTip (h : Announces s t) : KeepsTip s t := h.ships.keepsTip

theorem setXdc_keepsTip (s : Chip) (x : Xdc) : KeepsTip s { s with xdc := x } := ⟨rfl, rfl, rfl, rfl, fun _ _ _ => rfl, fun _ _ h => h⟩

theorem Sequenced.keepsTip (h : Sequenced s t) : KeepsTip s t := by
  obtain ⟨x, rfl, -⟩ := h
  exact setXdc_keepsTip s x

end

theorem raise_keepsTip {e : Nat} (he : e < 384) (s : Chip) : KeepsTip s (raise e s) := (raise_announces e he s).keepsTip

/-- A counter of another unit, outside the event registers. -/
theorem bump_keepsTip {f : Fld} (s : Chip) (h : f.addr < 0x60000 ∨ 0x61000 ≤ f.addr) (hf : statAddr f.addr = false) :
    KeepsTip s (s.bump f) :=
  ⟨rfl, rfl, rfl, rfl, fun a ha hb => s.setFld_direct_ne f _ a (by omega), fun e he hs => (setFld_seen s f _ e he hf).trans hs⟩

theorem writeXhist_keepsTip (kind time : Nat) (ws : List W64) (s : Chip) : KeepsTip s (writeXhist kind time ws s) := by
  unfold writeXhist
  extract_lets s1
  have h1 : KeepsTip s s1 := (addBacklog_ships 1 _ s).keepsTip.trans (putHistory_ships true 6 (by decide) ws ..).keepsTip
  exact .ite (h1.trans (streamResult_works kind ws s1).keepsTip) h1

theorem memReadAt_ships (k m w : Nat) (hm : m < 12) (s : Chip) : Ships s (memReadAt k m w s).2.2 := by
  have hread (old : SMap 64) : Ships s (if old.get w = (s.mem m).data.get w then memRead m w s
      else ((memReset m w ^^^ old.get w).toNat, false, s)).2.2 := by
    split
    · exact memRead_ships m w hm s
    · exact .refl s
  exact hread _

theorem calByte_ships (k a : Nat) (s : Chip) : Ships s (calByte k a s).2.2 := memReadAt_ships k 4 (a / 8) (by decide) s

theorem fineTime_ships (k base f1 f2 : Nat) (s : Chip) : Ships s (fineTime k base f1 f2 s).2.2 := by
  have h := (calByte_ships k (base + f1) s).trans (calByte_ships k (base + 16 + f2) (calByte k (base + f1) s).2.2)
  unfold fineTime
  dsimp only
  split
  · exact h
  · exact h

theorem calEdge_keepsTip (conv f1 f2 frame : Nat) (s : Chip) : KeepsTip s (calEdge conv f1 f2 frame s) :=
  .ite ⟨rfl, rfl, rfl, rfl, fun _ _ _ => rfl, fun _ _ h => h⟩ (.refl s)

/-- A request that its slot cannot take is counted and announced (R167). -/
theorem dropRequest_keepsTip (s : Chip) : KeepsTip s (raise EV.XDC_URG_OVR (s.bump F.XDC_URG_OVR_COUNT)) :=
  (bump_keepsTip s (.inl (by decide)) rfl).trans (raise_keepsTip (by decide) _)

theorem urgentRequest_keepsTip (v : Nat) (s : Chip) : KeepsTip s (urgentRequest v s) := by
  unfold urgentRequest
  extract_lets n drop _ s1
  have h1 : KeepsTip s s1 := (setXdc_keepsTip s { s.xdc with took := s.xdc.took ||| 2 ^ v, pend := s.xdc.pend ||| 2 ^ v }).trans
    (bump_keepsTip (f := F.XDC_URG_CNT_COUNT) _ (.inl (by decide)) rfl)
  refine .ite (.refl s) (.ite (dropRequest_keepsTip s) (.ite (.refl s) (.ite (dropRequest_keepsTip s) ?_)))
  split
  · exact h1.trans (xdcNext_sequenced _ s1).keepsTip
  · refine .ite (h1.trans ((bump_keepsTip s1 (f := F.XDC_PREEMPT_CNT_COUNT) (.inl (by decide)) rfl).trans ?_)) h1
    exact setXdc_keepsTip _ _

theorem urgentFrom_keepsTip (src sel : Nat) (s : Chip) : KeepsTip s (urgentFrom src sel s) :=
  forN_related KeepsTip.refl KeepsTip.trans 4 (fun v _ t => .ite (urgentRequest_keepsTip v t) (.refl t)) s

/-! ### Time inputs, channels and pulse outputs -/

theorem Chip.ti_setTi_same (s : Chip) (n : Nat) (x : TiIn) : (setTi n x s).ti n = x := Table.get_set_same _ _ _ _

theorem Chip.ti_setTi_ne (s : Chip) {n m : Nat} (x : TiIn) (h : m ≠ n) : (setTi n x s).ti m = s.ti m := Table.get_set_ne _ _ _ h.symm

theorem Chip.tip_setTip_same (s : Chip) (k : Nat) (y : TipCh) : (setTip k y s).tip k = y := Table.get_set_same _ _ _ _

theorem Chip.tip_setTip_ne (s : Chip) {k m : Nat} (y : TipCh) (h : m ≠ k) : (setTip k y s).tip m = s.tip m :=
  Table.get_set_ne _ _ _ h.symm

theorem Chip.po_setPo_same (s : Chip) (j : Nat) (x : PoSt) : (setPo j x s).po j = x := Table.get_set_same _ _ _ _

theorem Chip.po_setPo_ne (s : Chip) {j m : Nat} (x : PoSt) (h : m ≠ j) : (setPo j x s).po m = s.po m := Table.get_set_ne _ _ _ h.symm

/-! ### The registers of a channel -/

/-- Two registers of one channel. -/
theorem chAddr_ne {a b : Nat} (k : Nat) (h : a ≠ b) : a + 128 * k ≠ b + 128 * k := fun e => h (Nat.add_right_cancel e)

/-- A field that fills its register. -/
theorem Fld.fits_of_word {f : Fld} (hl : f.lo = 0 := by rfl) (hw : f.w = 32 := by rfl) : f.fits := by
  unfold Fld.fits
  omega

theorem Chip.fld_setFld_word (s : Chip) {f : Fld} (v : Nat) (hl : f.lo = 0 := by rfl) (hw : f.w = 32 := by rfl)
    (hr : f.rws = false := by rfl) : (s.setFld f v).fld f = v % 2 ^ 32 :=
  (s.fld_setFld_same f v (Fld.fits_of_word hl hw) hr).trans (by rw [hw])

theorem Chip.fld_bump_word (s : Chip) {f : Fld} (hl : f.lo = 0 := by rfl) (hw : f.w = 32 := by rfl) (hr : f.rws = false := by rfl) :
    (s.bump f).fld f = satTo 32 (s.fld f + 1) :=
  (s.fld_bump_same f (Fld.fits_of_word hl hw) hr).trans (by rw [hw])

section
variable {lo hi : Fld} (v : Nat) (s : Chip)

theorem setPair_lo (hne : lo.addr ≠ hi.addr) (hl : lo.lo = 0 := by rfl) (hw : lo.w = 32 := by rfl) (hr : lo.rws = false := by rfl) :
    (setPair lo hi v s).fld lo = v % 2 ^ 32 :=
  (Chip.fld_setFld_ne _ _ hne).trans ((s.fld_setFld_word _ hl hw hr).trans (Nat.mod_mod ..))

theorem setPair_hi (hl : hi.lo = 0 := by rfl) (hw : hi.w = 32 := by rfl) (hr : hi.rws = false := by rfl) :
    (setPair lo hi v s).fld hi = v / 2 ^ 32 % 2 ^ 32 :=
  (Chip.fld_setFld_word _ _ hl hw hr).trans (Nat.mod_mod ..)

theorem setPair_tips : (setPair lo hi v s).tips = s.tips := rfl

theorem setPair_fld_ne {g : Fld} (hlo : g.addr ≠ lo.addr) (hhi : g.addr ≠ hi.addr) : (setPair lo hi v s).fld g = s.fld g :=
  (Chip.fld_setFld_ne _ _ hhi).trans (s.fld_setFld_ne _ hlo)

end

/-! ### The work of a channel -/

/-- `t` differs from `s` at most in channel k among the channels; it keeps the time inputs, the clock, the active bank and every event that
was seen. -/
structure TipWork (k : Nat) (s t : Chip) : Prop where
  tis : t.tis = s.tis
  others : ∀ m, m ≠ k → t.tip m = s.tip m
  clk : t.clk = s.clk
  active : t.regs.active = s.regs.active
  events : ∀ e, e < 384 → s.eventSeen e = true → t.eventSeen e = true

section
variable {k : Nat} {s t u : Chip}

theorem TipWork.trans (h : TipWork k s t) (i : TipWork k t u) : TipWork k s u :=
  ⟨i.tis.trans h.tis, fun m hm => (i.others m hm).trans (h.others m hm), i.clk.trans h.clk, i.active.trans h.active,
    fun e he hs => i.events e he (h.events e he hs)⟩

theorem KeepsTip.work (h : KeepsTip s t) : TipWork k s t := ⟨h.tis, fun m _ => h.tip m, h.clk, h.active, h.events⟩

theorem TipWork.refl (k : Nat) (s : Chip) : TipWork k s s := (KeepsTip.refl s).work

theorem TipWork.ite {b : Prop} [Decidable b] (h : TipWork k s t) (i : TipWork k s u) : TipWork k s (if b then t else u) := by
  split
  · exact h
  · exact i

theorem TipWork.cond {b : Bool} {f : Chip → Chip} (h : TipWork k s t) (i : ∀ x, TipWork k x (f x)) : TipWork k s (cond b f t) := by
  cases b
  · exact h
  · exact h.trans (i t)

end

theorem setTip_work (k : Nat) (y : TipCh) (s : Chip) : TipWork k s (setTip k y s) :=
  ⟨rfl, fun _ hm => s.tip_setTip_ne y hm, rfl, rfl, fun _ _ h => h⟩

theorem setFld_work {f : Fld} (k v : Nat) (s : Chip) (hf : statAddr f.addr = false) : TipWork k s (s.setFld f v) :=
  ⟨rfl, fun _ _ => rfl, rfl, rfl, fun e he hs => (setFld_seen s f v e he hf).trans hs⟩

theorem bump_work {f : Fld} (k : Nat) (s : Chip) (hf : statAddr f.addr = false) : TipWork k s (s.bump f) := setFld_work k _ s hf

theorem setPair_work {lo hi : Fld} (k v : Nat) (s : Chip) (hlo : statAddr lo.addr = false) (hhi : statAddr hi.addr = false) :
    TipWork k s (setPair lo hi v s) := (setFld_work k _ s hlo).trans (setFld_work k _ _ hhi)

end Sys2Proof.Machine
end

section
/-! PROOFS. Statistics and pulse outputs (R193, R194, R196 to R199, R201): the square root, a set of results, the rows of a pulse and of FTO. -/

namespace Sys2Proof.Machine

/-! ### The square root (R193) -/

/-- What the bits from n down still decide of a root: it lies between r and r + 2^n. -/
theorem isqrtFrom_spec (n x r : Nat) (hlo : r * r ≤ x) (hhi : x < (r + 2 ^ n) * (r + 2 ^ n)) :
    isqrtFrom n x r * isqrtFrom n x r ≤ x ∧ x < (isqrtFrom n x r + 1) * (isqrtFrom n x r + 1) := by
  induction n generalizing r with
  | zero => exact ⟨hlo, hhi⟩
  | succ n ih =>
    unfold isqrtFrom
    have htwice : r + 2 ^ n + 2 ^ n = r + 2 ^ (n + 1) := by omega
    split
    · next hle => exact ih _ hle (by rwa [htwice])
    · next hgt => exact ih _ hlo (Nat.lt_of_not_le hgt)

theorem isqrt_spec {x : Nat} (h : x < 2 ^ 200) : isqrt x * isqrt x ≤ x ∧ x < (isqrt x + 1) * (isqrt x + 1) :=
  isqrtFrom_spec 100 x 0 (Nat.zero_le x) (Nat.lt_of_lt_of_eq h (by decide))

/-! ### A set of results (R193, R194) -/

/-- MEAN of a set. -/
def TipCh.mean (c : TipCh) : Int := 256 * c.s1 / (c.setN : Int)

/-- DEV of a set before it saturates. -/
def TipCh.dev (c : TipCh) : Nat := isqrt (65536 * ((c.setN : Int) * (c.s2 : Int) - c.s1 * c.s1).toNat) / c.setN

/-- The set of a channel with one more result. -/
def Chip.joined (s : Chip) (k time : Nat) (v : Int) : TipCh :=
  let c := s.tip k
  { c with setN := c.setN + 1, s1 := c.s1 + v, s2 := c.s2 + (v * v).toNat
           mn := if c.setN = 0 then v else min c.mn v, mx := if c.setN = 0 then v else max c.mx v
           setTunc := c.setTunc || s.tunc (time / frameFtu), setLast := time / frameFtu }

/-- The registers that show a complete set, and the count of sets. -/
def showSet (k : Nat) (c : TipCh) (s : Chip) : Chip :=
  let s2 := (setPair (F.TIP_CH_MEAN_LO_MEAN k) (F.TIP_CH_MEAN_HI_MEAN k) (unsext 64 c.mean) s).setFld (F.TIP_CH_DEV_DEV k) (satTo 32 c.dev)
  let s3 := setPair (F.TIP_CH_MIN_LO_MIN k) (F.TIP_CH_MIN_HI_MIN k) (unsext 64 c.mn) s2
  let s4 := setPair (F.TIP_CH_MAX_LO_MAX k) (F.TIP_CH_MAX_HI_MAX k) (unsext 64 c.mx) s3
  (s4.setFld (F.TIP_CH_STAT_N_N k) c.setN).bump (F.TIP_CH_STATS_COUNT k)

/-- The registers that the close of a set may change: those that show it, the count of sets, and that of results. -/
def SetAddr (k a : Nat) : Prop := 0x60118 + 128 * k ≤ a ∧ a < 0x6013C + 128 * k ∨ a = 0x6014C + 128 * k

section
variable (k time : Nat) (v : Int) (c : TipCh) (s : Chip)

theorem addToSet_of_off (h : s.setSize k = 0) : addToSet k time v s = s := if_pos h

theorem addToSet_of_open (h : (s.tip k).setN + 1 < s.setSize k) : addToSet k time v s = setTip k (s.joined k time v) s :=
  (if_neg (by omega)).trans (if_neg (Nat.not_le_of_lt h))

theorem addToSet_of_full (h0 : s.setSize k ≠ 0) (h : s.setSize k ≤ (s.tip k).setN + 1) :
    addToSet k time v s = completeSet k time (s.joined k time v) s := (if_neg h0).trans (if_pos h)

/-- A set that completes is shown, kept in XHIST as SHIST says, and announced; the next one starts empty. -/
theorem completeSet_eq : ∃ b t, KeepsTip (cond b (·.bump (F.TIP_CH_RESULTS_COUNT k)) (showSet k c s)) t ∧
    completeSet k time c s = raise EV.TI_STAT_DONE (setTip k c.noSet t) := by
  unfold completeSet
  extract_lets n mean var dev s1 s2 s3 s4 s5 t s6
  refine ⟨s.flagAt (s.ageOf (time / frameFtu)) (F.TIP_CH_CTL_SHIST k), s6, ?_, rfl⟩
  dsimp only [s6]
  cases s.flagAt (s.ageOf (time / frameFtu)) (F.TIP_CH_CTL_SHIST k)
  · exact .refl _
  · exact writeXhist_keepsTip 2 time _ t

theorem showSet_work : TipWork k s (showSet k c s) :=
  ((((((setPair_work k _ s statAddr_indexed statAddr_indexed).trans (setFld_work k _ _ statAddr_indexed)).trans
    (setPair_work k _ _ statAddr_indexed statAddr_indexed)).trans (setPair_work k _ _ statAddr_indexed statAddr_indexed)).trans
    (setFld_work k _ _ statAddr_indexed)).trans (bump_work k _ statAddr_indexed))

theorem showSet_tips : (showSet k c s).tips = s.tips := by
  unfold showSet
  simp only [Chip.bump_tips, Chip.setFld_tips, setPair_tips]

theorem showSet_fld_ne {g : Fld} (h : ¬ SetAddr k g.addr) : (showSet k c s).fld g = s.fld g := by
  simp only [SetAddr, not_or, not_and, Nat.not_lt] at h
  obtain ⟨hset, hsets⟩ := h
  have hne {n : Nat} (hlo : 0x60118 ≤ n) (hhi : n < 0x6013C) : g.addr ≠ n + 128 * k := by omega
  unfold showSet
  rw [Chip.fld_bump_ne _ hsets, Chip.fld_setFld_ne _ _ (hne (by decide) (by decide)),
    setPair_fld_ne _ _ (hne (by decide) (by decide)) (hne (by decide) (by decide)),
    setPair_fld_ne _ _ (hne (by decide) (by decide)) (hne (by decide) (by decide)),
    Chip.fld_setFld_ne _ _ (hne (by decide) (by decide)),
    setPair_fld_ne _ _ (hne (by decide) (by decide)) (hne (by decide) (by decide))]

/-- What the registers of a complete set show. -/
structure SetShown (k : Nat) (c : TipCh) (s u : Chip) : Prop where
  meanLo : u.fld (F.TIP_CH_MEAN_LO_MEAN k) = unsext 64 c.mean % 2 ^ 32
  meanHi : u.fld (F.TIP_CH_MEAN_HI_MEAN k) = unsext 64 c.mean / 2 ^ 32 % 2 ^ 32
  dev : u.fld (F.TIP_CH_DEV_DEV k) = satTo 32 c.dev
  minLo : u.fld (F.TIP_CH_MIN_LO_MIN k) = unsext 64 c.mn % 2 ^ 32
  maxLo : u.fld (F.TIP_CH_MAX_LO_MAX k) = unsext 64 c.mx % 2 ^ 32
  size : u.fld (F.TIP_CH_STAT_N_N k) = c.setN % 2 ^ 25
  sets : u.fld (F.TIP_CH_STATS_COUNT k) = satTo 32 (s.fld (F.TIP_CH_STATS_COUNT k) + 1)

theorem showSet_shown : SetShown k c s (showSet k c s) := by
  unfold showSet
  extract_lets s2 s3 s4
  have hlast {g : Fld} {n : Nat} (hg : g.addr = n + 128 * k) (hn : n < 0x60134) :
      ((s4.setFld (F.TIP_CH_STAT_N_N k) c.setN).bump (F.TIP_CH_STATS_COUNT k)).fld g = s4.fld g := by
    rw [Chip.fld_bump_ne _ (hg ▸ chAddr_ne k (by omega)), Chip.fld_setFld_ne _ _ (hg ▸ chAddr_ne k (by omega))]
  have hmax {g : Fld} {n : Nat} (hg : g.addr = n + 128 * k) (hn : n < 0x6012C) : s4.fld g = s3.fld g :=
    setPair_fld_ne _ _ (hg ▸ chAddr_ne k (by omega)) (hg ▸ chAddr_ne k (by omega))
  have hmin {g : Fld} {n : Nat} (hg : g.addr = n + 128 * k) (hn : n < 0x60124) : s3.fld g = s2.fld g :=
    setPair_fld_ne _ _ (hg ▸ chAddr_ne k (by omega)) (hg ▸ chAddr_ne k (by omega))
  constructor
  case meanLo =>
    rw [hlast rfl (by decide), hmax rfl (by decide), hmin rfl (by decide), Chip.fld_setFld_ne _ _ (chAddr_ne k (by decide))]
    exact setPair_lo _ _ (chAddr_ne k (by decide))
  case meanHi =>
    rw [hlast rfl (by decide), hmax rfl (by decide), hmin rfl (by decide), Chip.fld_setFld_ne _ _ (chAddr_ne k (by decide))]
    exact setPair_hi _ _
  case dev =>
    rw [hlast rfl (by decide), hmax rfl (by decide), hmin rfl (by decide), Chip.fld_setFld_word]
    exact Nat.mod_eq_of_lt (by unfold satTo; omega)
  case minLo =>
    rw [hlast rfl (by decide), hmax rfl (by decide)]
    exact setPair_lo _ _ (chAddr_ne k (by decide))
  case maxLo =>
    rw [hlast rfl (by decide)]
    exact setPair_lo _ _ (chAddr_ne k (by decide))
  case size =>
    rw [Chip.fld_bump_ne _ (chAddr_ne k (by decide))]
    exact s4.fld_setFld_same (F.TIP_CH_STAT_N_N k) c.setN (show 1 ≤ 25 ∧ 0 + 25 ≤ 32 by decide) rfl
  case sets =>
    rw [Chip.fld_bump_word, Chip.fld_setFld_ne _ _ (chAddr_ne k (by decide)),
      setPair_fld_ne _ _ (chAddr_ne k (by decide)) (chAddr_ne k (by decide)),
      setPair_fld_ne _ _ (chAddr_ne k (by decide)) (chAddr_ne k (by decide)), Chip.fld_setFld_ne _ _ (chAddr_ne k (by decide)),
      setPair_fld_ne _ _ (chAddr_ne k (by decide)) (chAddr_ne k (by decide))]

end

section
variable {k : Nat} {c : TipCh} {s u w : Chip}

theorem SetShown.of_fld (h : SetShown k c s u) (hfld : ∀ (f : Fld) (n : Nat), f.addr = n + 128 * k → 0x60118 ≤ n → n < 0x60150 →
    n ≠ 0x60138 → w.fld f = u.fld f) : SetShown k c s w :=
  ⟨(hfld _ 0x60118 rfl (by decide) (by decide) (by decide)).trans h.meanLo, (hfld _ 0x6011C rfl (by decide) (by decide) (by decide)).trans h.meanHi,
    (hfld _ 0x60120 rfl (by decide) (by decide) (by decide)).trans h.dev, (hfld _ 0x60124 rfl (by decide) (by decide) (by decide)).trans h.minLo,
    (hfld _ 0x6012C rfl (by decide) (by decide) (by decide)).trans h.maxLo, (hfld _ 0x60134 rfl (by decide) (by decide) (by decide)).trans h.size,
    (hfld _ 0x6014C rfl (by decide) (by decide) (by decide)).trans h.sets⟩

theorem SetShown.of_keeps (h : SetShown k c s u) (hk : k < 4) (hw : KeepsTip u w) : SetShown k c s w :=
  h.of_fld fun f n hf hlo hhi _ => hw.fld f (by omega) (by omega)

theorem SetShown.bump_results (h : SetShown k c s u) (b : Bool) : SetShown k c s (cond b (·.bump (F.TIP_CH_RESULTS_COUNT k)) u) := by
  cases b with
  | false => exact h
  | true => exact h.of_fld fun f n hf _ _ hn => u.fld_bump_ne (hf ▸ chAddr_ne k hn)

theorem SetShown.setTip (h : SetShown k c s u) (y : TipCh) : SetShown k c s (setTip k y u) := h.of_fld fun _ _ _ _ _ _ => rfl

end

theorem setAddr_results (k : Nat) : SetAddr k (F.TIP_CH_RESULTS_COUNT k).addr :=
  .inl (show 0x60118 + 128 * k ≤ 0x60138 + 128 * k ∧ 0x60138 + 128 * k < 0x6013C + 128 * k by omega)

/-- What the statistics of channel k touch: of its state the set, of the registers of the unit those of the set. -/
structure SetWork (k : Nat) (s u : Chip) : Prop extends TipWork k s u where
  edges : (u.tip k).noSet = (s.tip k).noSet
  registers : k < 4 → ∀ g : Fld, 0x60000 ≤ g.addr → g.addr < 0x61000 → ¬ SetAddr k g.addr → u.fld g = s.fld g

theorem SetWork.trans {k : Nat} {s t u : Chip} (h : SetWork k s t) (i : SetWork k t u) : SetWork k s u :=
  ⟨h.toTipWork.trans i.toTipWork, i.edges.trans h.edges,
    fun hk g hlo hhi hg => (i.registers hk g hlo hhi hg).trans (h.registers hk g hlo hhi hg)⟩

theorem KeepsTip.setWork {k : Nat} {s u : Chip} (h : KeepsTip s u) : SetWork k s u :=
  ⟨h.work, congrArg TipCh.noSet (h.tip k), fun _ g hlo hhi _ => h.fld g hlo hhi⟩

theorem setTip_setWork {k : Nat} {s : Chip} {y : TipCh} (h : y.noSet = (s.tip k).noSet) : SetWork k s (setTip k y s) :=
  ⟨setTip_work k y s, (congrArg TipCh.noSet (s.tip_setTip_same k y)).trans h, fun _ _ _ _ _ => rfl⟩

theorem showSet_setWork (k : Nat) (c : TipCh) (s : Chip) : SetWork k s (showSet k c s) :=
  ⟨showSet_work k c s, congrArg TipCh.noSet (congrArg (fun x => Table.get _ x k) (showSet_tips k c s)),
    fun _ _ _ _ hg => showSet_fld_ne k c s hg⟩

theorem bumpResults_setWork (k : Nat) (b : Bool) (s : Chip) : SetWork k s (cond b (·.bump (F.TIP_CH_RESULTS_COUNT k)) s) := by
  cases b with
  | false => exact (KeepsTip.refl s).setWork
  | true => exact ⟨bump_work k s statAddr_indexed, rfl, fun _ g _ _ hg => s.fld_bump_ne fun e => hg (e ▸ setAddr_results k)⟩

/-- What the close of a set leaves. -/
structure SetClosed (k : Nat) (c : TipCh) (s u : Chip) : Prop extends SetWork k s u where
  tip : u.tip k = c.noSet
  seen : u.eventSeen EV.TI_STAT_DONE = true
  shown : k < 4 → SetShown k c s u

theorem completeSet_closed (k time : Nat) {c : TipCh} {s : Chip} (h : c.noSet = (s.tip k).noSet) :
    SetClosed k c s (completeSet k time c s) := by
  obtain ⟨b, t, ht, heq⟩ := completeSet_eq k time c s
  have hraise : KeepsTip (setTip k c.noSet t) (raise EV.TI_STAT_DONE (setTip k c.noSet t)) := raise_keepsTip (by decide) _
  have hwork : SetWork k s t := ((showSet_setWork k c s).trans (bumpResults_setWork k b _)).trans ht.setWork
  rw [heq]
  exact ⟨(hwork.trans (setTip_setWork (y := c.noSet) (h.trans hwork.edges.symm))).trans hraise.setWork, (hraise.tip k).trans (t.tip_setTip_same k _),
    raise_seen _ (by decide) _, fun hk => ((((showSet_shown k c s).bump_results b).of_keeps hk ht).setTip _).of_keeps hk hraise⟩

theorem joined_noSet (k time : Nat) (v : Int) (s : Chip) : (s.joined k time v).noSet = (s.tip k).noSet := rfl

theorem addToSet_setWork (k time : Nat) (v : Int) (s : Chip) : SetWork k s (addToSet k time v s) := by
  by_cases h0 : s.setSize k = 0
  · rw [addToSet_of_off k time v s h0]
    exact (KeepsTip.refl s).setWork
  · by_cases h : s.setSize k ≤ (s.tip k).setN + 1
    · rw [addToSet_of_full k time v s h0 h]
      exact (completeSet_closed k time (joined_noSet k time v s)).toSetWork
    · rw [addToSet_of_open k time v s (Nat.lt_of_not_le h)]
      exact setTip_setWork (joined_noSet k time v s)

/-! ### The pulse outputs (R196 to R199) -/

/-- A pulse output that drives its pin. -/
def drivenPo (j : Nat) (x : PoSt) (level : Bool) (s : Chip) : Chip := drivePo j level (setPo j x s)

section
variable (j : Nat) (s : Chip)

/-- The next pulse of output j is due (R196, R198, R397). -/
def Chip.PulseDue : Prop :=
  s.domainUp 5 = true ∧ s.standby = false ∧ (s.po j).live = true ∧ s.poLeft j = true ∧ (s.po j).on = none ∧
    s.poStart j (s.po j).next ≤ (s.now : Int) + 511

/-- The pulse that would start now ends its schedule (R197). -/
def Chip.lastPulse : Bool :=
  s.flag (F.TIP_PO_CTL_PERIODIC j) && s.fld (F.TIP_PO_COUNT_COUNT j) != 0 && decide (s.fld (F.TIP_PO_COUNT_COUNT j) ≤ (s.po j).fired + 1)

/-- Output j with a pulse that starts now. -/
def Chip.poStarted : PoSt :=
  { on := some (s.flag (F.TIP_PO_CTL_POL j), (s.poStart j (s.po j).next).toNat + 16 * s.poWidth j)
    live := s.flag (F.TIP_PO_CTL_PERIODIC j) && !s.lastPulse j, next := (s.po j).next + 1, fired := (s.po j).fired + 1 }

theorem not_pulseDue_iff : (!s.domainUp 5 || s.standby || !(s.po j).live || !s.poLeft j || (s.po j).on.isSome
    || decide ((s.now : Int) + 511 < s.poStart j (s.po j).next)) = true ↔ ¬ s.PulseDue j := by
  unfold Chip.PulseDue
  simp only [Bool.or_eq_true, Bool.not_eq_true', decide_eq_true_eq, not_and_or, Bool.not_eq_true, Bool.not_eq_false, or_assoc,
    Int.not_le, Option.isSome_iff_ne_none, ne_eq]

theorem pulseStart_of_due (h : s.PulseDue j) : pulseStart j s = cond (s.lastPulse j) (raise EV.PO_DONE)
    ((drivenPo j (s.poStarted j) (!s.flag (F.TIP_PO_CTL_POL j)) s).bump (F.TIP_PO_FIRED_COUNT j)) :=
  if_neg fun hn => (not_pulseDue_iff j s).mp hn h

theorem pulseStart_of_not_due (h : ¬ s.PulseDue j) : pulseStart j s = s := if_pos ((not_pulseDue_iff j s).mpr h)

/-- A pulse that starts may announce the end of its schedule. -/
theorem pulseStart_announces (h : s.PulseDue j) :
    Announces ((drivenPo j (s.poStarted j) (!s.flag (F.TIP_PO_CTL_POL j)) s).bump (F.TIP_PO_FIRED_COUNT j)) (pulseStart j s) := by
  rw [pulseStart_of_due j s h]
  cases s.lastPulse j
  · exact .refl _
  · exact raise_announces _ (by decide) _

theorem pulseStart_seen (h : s.PulseDue j) (hl : s.lastPulse j = true) : (pulseStart j s).eventSeen EV.PO_DONE = true := by
  rw [pulseStart_of_due j s h, hl]
  exact raise_seen _ (by decide) _

theorem pulseStart_fired (hj : j < 8) (h : s.PulseDue j) :
    (pulseStart j s).fld (F.TIP_PO_FIRED_COUNT j) = satTo 32 (s.fld (F.TIP_PO_FIRED_COUNT j) + 1) :=
  ((pulseStart_announces j s h).fld (F.TIP_PO_FIRED_COUNT j)
    (announceAddr_of_shipAddr (shipAddr_tip (show 0x60000 ≤ 0x60420 + 64 * j by omega) (show 0x60420 + 64 * j < 0x61000 by omega)))).trans
    (Chip.fld_bump_word _)

theorem lastPulse_iff : s.lastPulse j = true ↔ s.flag (F.TIP_PO_CTL_PERIODIC j) = true ∧ s.fld (F.TIP_PO_COUNT_COUNT j) ≠ 0 ∧
    s.fld (F.TIP_PO_COUNT_COUNT j) ≤ (s.po j).fired + 1 := by
  simp only [Chip.lastPulse, Bool.and_eq_true, bne_iff_ne, ne_eq, decide_eq_true_eq, and_assoc]

theorem pulseEndOut_of_over {p : Bool} {e : Nat} (hon : (s.po j).on = some (p, e)) (h : e ≤ s.now + 511) :
    pulseEndOut j s = drivenPo j { s.po j with on := none } (s.flag (F.TIP_PO_CTL_POL j)) s := by
  unfold pulseEndOut
  rw [hon]
  exact if_pos h

theorem pulseEndOut_of_lasting (h : (s.po j).on = none ∨ ∃ p e, (s.po j).on = some (p, e) ∧ s.now + 511 < e) : pulseEndOut j s = s := by
  unfold pulseEndOut
  rcases h with h | ⟨p, e, h, he⟩
  · rw [h]
  · rw [h]
    exact if_neg (Nat.not_le_of_lt he)

end

/-! ### FTO (R201) -/

/-- FTO rises now: at the start of a frame whose index is a multiple of 2^DIV (R19, R201). -/
def Chip.FtoRises (s : Chip) : Prop :=
  s.rst.porst = false ∧ s.rst.supply = false ∧ s.flag F.TIP_FTO_CTL_EN = true ∧ s.clk.everLock = true ∧ s.clk.counting = true ∧
    s.clk.cclk = 0 ∧ ¬ (s.clk.steppedIn = true ∧ 512 ≤ s.clk.residual) ∧
    (s.clk.frame % 312500) % 2 ^ min 8 (s.fld F.TIP_FTO_CTL_DIV) = 0

theorem ftoRises_iff (s : Chip) : (!s.rst.porst && !s.rst.supply && s.flag F.TIP_FTO_CTL_EN && s.clk.everLock && s.clk.counting
    && s.clk.cclk == 0 && !(s.clk.steppedIn && decide (512 ≤ s.clk.residual))
    && frameIdx s.clk.frame % 2 ^ min 8 (s.fld F.TIP_FTO_CTL_DIV) == 0) = true ↔ s.FtoRises := by
  simp only [Chip.FtoRises, Bool.and_eq_true, Bool.not_eq_true', Bool.and_eq_false_iff, decide_eq_false_iff_not, beq_iff_eq, and_assoc,
    not_and_or, Bool.not_eq_true]
  rfl

theorem ftoRise_of_rises {s : Chip} (h : s.FtoRises) : ftoRise s = { s with pins := { s.pins with fto := true } } :=
  if_pos ((ftoRises_iff s).mpr h)

theorem ftoRise_of_not_rises {s : Chip} (h : ¬ s.FtoRises) : ftoRise s = s := if_neg fun hr => h ((ftoRises_iff s).mp hr)

/-- CCLK of the frame in progress after which FTO falls. -/
def Chip.ftoWidth (s : Chip) : Nat := if s.flag F.TIP_FTO_CTL_SEC_MARK = true ∧ s.clk.frame % 312500 = 0 then 1536 else 1024

theorem ftoWidth_eq (s : Chip) :
    (if (s.flag F.TIP_FTO_CTL_SEC_MARK && frameIdx s.clk.frame == 0) = true then 1536 else 1024) = s.ftoWidth := by
  simp only [Chip.ftoWidth, Bool.and_eq_true, beq_iff_eq]
  rfl

theorem ftoFall_of_falls {s : Chip} (h : s.ftoWidth ≤ s.clk.cclk) : ftoFall s = { s with pins := { s.pins with fto := false } } :=
  if_pos ((ftoWidth_eq s).trans_le h)

theorem ftoFall_of_not_falls {s : Chip} (h : ¬ s.ftoWidth ≤ s.clk.cclk) : ftoFall s = s := if_neg fun hf => h ((ftoWidth_eq s).symm.trans_le hf)

/-! ### The statement -/

theorem exec_pulseStart (j : Fin 8) (s : State) : exec (.pulseStart j) s = .next { s with chip := pulseStart j s.chip } := rfl

theorem exec_pulseEnd (j : Fin 8) (s : State) : exec (.pulseEnd j) s = .next { s with chip := pulseEndOut j s.chip } := rfl

theorem exec_ftoRise (s : State) : exec .ftoRise s = .next { s with chip := ftoRise s.chip } := rfl

theorem exec_ftoFall (s : State) : exec .ftoFall s = .next { s with chip := ftoFall s.chip } := rfl

/-- Settles O50: the bits of the square root one by one, a set that stays open and one that closes, and the rows of a pulse and of FTO, each
due or not. -/
theorem pulseAndStatisticsRowsComplete : Obligations.PulseAndStatisticsRowsComplete := by
  unfold Obligations.PulseAndStatisticsRowsComplete
  refine ⟨fun x hx => isqrt_spec hx, fun k time v c hk => ?_, fun j s => ?_, fun s => ?_⟩
  · intro y size n s1 s2 mn mx u
    refine ⟨fun h => addToSet_of_off k time v c h, fun h => ?_, fun h0 h => ?_⟩
    · have hu : u = setTip k (c.joined k time v) c := addToSet_of_open k time v c h
      have htip : u.tip k = c.joined k time v := hu ▸ c.tip_setTip_same k _
      rw [htip]
      exact ⟨hu, rfl, rfl, rfl, rfl, rfl⟩
    · have hu : u = completeSet k time (c.joined k time v) c := addToSet_of_full k time v c h0 h
      have hclosed : SetClosed k (c.joined k time v) c u := hu ▸ completeSet_closed k time (joined_noSet k time v c)
      have hshown := hclosed.shown hk
      rw [hclosed.tip]
      exact ⟨rfl, rfl, rfl, hclosed.seen, hshown.meanLo, hshown.meanHi, hshown.dev, hshown.minLo, hshown.maxLo, hshown.size, hshown.sets,
        hclosed.clk, hclosed.active⟩
  · intro c x t pol periodic count due last frame
    have hlast : c.lastPulse j = true ↔ last := lastPulse_iff j c
    refine ⟨fun h => ?_, fun h => ?_, fun b e hon he => ?_, fun h => ?_⟩
    · have ha := pulseStart_announces j c h
      have hpo (m : Nat) : (pulseStart j c).po m = (setPo j (c.poStarted j) c).po m := congrArg (fun p => Table.get _ p m) ha.pos
      refine ⟨_, exec_pulseStart j s, ⟨ha.clk, ha.mems, ha.active, fun m hm => (hpo m).trans (c.po_setPo_ne _ hm)⟩, ?_⟩
      rw [hpo, Chip.po_setPo_same]
      refine ⟨rfl, rfl, rfl, ?_, ha.pins, pulseStart_fired j c j.isLt h, fun hl => pulseStart_seen j c h (hlast.mpr hl)⟩
      rw [← hlast]
      simp [Chip.poStarted, periodic]
    · rw [exec_pulseStart, pulseStart_of_not_due j s.chip h]
    · refine ⟨_, exec_pulseEnd j s, ?_⟩
      rw [pulseEndOut_of_over j c hon he]
      exact ⟨⟨rfl, rfl, rfl, fun m hm => c.po_setPo_ne _ hm⟩, c.po_setPo_same j _, rfl, rfl⟩
    · rw [exec_pulseEnd, pulseEndOut_of_lasting j s.chip h]
  · intro c rises falls
    refine ⟨fun h => ⟨_, exec_ftoRise s, ftoRise_of_rises h⟩, fun h => ?_, fun h => ⟨_, exec_ftoFall s, ftoFall_of_falls h⟩, fun h => ?_⟩
    · rw [exec_ftoRise, ftoRise_of_not_rises h]
    · rw [exec_ftoFall, ftoFall_of_not_falls h]

end Sys2Proof.Machine
end

section
/-! PROOFS. The edges of the time inputs (R182 to R184, R213): the prescaler, the stamp, and the row of an edge. -/

namespace Sys2Proof.Machine

/-! ### The prescaler (R183) -/

section
variable {p count : Nat}

theorem prescale_of_one (h : min 8 p = 0) (count : Nat) (rising : Bool) : prescale p count rising = (some rising, 0) := by
  unfold prescale
  rw [h]
  rfl

theorem prescale_of_falling (h : 0 < min 8 p) (count : Nat) : prescale p count false = (none, count) := if_neg (Nat.one_lt_two_pow h.ne').ne'

theorem prescale_of_rising (h : 0 < min 8 p) (count : Nat) : prescale p count true =
    (if count = 0 then some true else if count = 2 ^ (min 8 p - 1) then some false else none, (count + 1) % 2 ^ min 8 p) := by
  have hhalf : 2 ^ min 8 p / 2 = 2 ^ (min 8 p - 1) := Nat.pow_div (x := 2) (n := 1) h (by decide)
  rw [← hhalf]
  exact if_neg (Nat.one_lt_two_pow h.ne').ne'

end

/-! ### The stamp (R26, R184) -/

section
variable (s : Chip) (n : Nat) (rising : Bool) (tclk f1 f2 : Nat)

/-- The tables of the converter of an edge direction (R212). -/
def edgeBase : Nat := 0x30000 + 64 * n + (if rising then 0 else 32)

/-- The stamp of an edge with the settings for data of age k (R184). -/
def Chip.stampFor (k : Nat) : Nat :=
  (((s.now + 256 * tclk + min 255 (s.calAt k (edgeBase n rising + f1) + s.calAt k (edgeBase n rising + 16 + f2)) : Nat) : Int)
    - sext 16 (s.fldAt k (F.TIP_TI_DELAY_FTU n))).toNat

/-- The settings of age k make a stamp in a frame of that age. -/
def Chip.StampFits (k : Nat) : Prop := s.ageOf (s.stampFor n rising tclk f1 f2 k / 1048576) = k

/-- The age of the settings that stamp an edge: the newest that fit, else the newest. -/
def Chip.StampAge (k : Nat) : Prop :=
  (k < 3 ∧ s.StampFits n rising tclk f1 f2 k ∧ ∀ j, j < k → ¬ s.StampFits n rising tclk f1 f2 j) ∨
    (k = 0 ∧ ∀ j, j < 3 → ¬ s.StampFits n rising tclk f1 f2 j)

/-- The stamp of the last edge of a direction. -/
def TiIn.last (x : TiIn) : Option Nat := if rising then x.lastR else x.lastF

/-- The input with an edge of a direction on its converter. -/
def TiIn.taken (x : TiIn) (here : Nat) : TiIn := if rising then { x with lastR := some here } else { x with lastF := some here }

/-- The time of an edge on the device's own clock. -/
def Chip.edgeClock : Nat := s.clockFtu + 256 * tclk + 16 * f1 + f2

/-- The converter of an edge still works on the last one (R184). -/
def Chip.edgeBusy : Prop := ∃ b, (s.ti n).last rising = some b ∧ s.edgeClock tclk f1 f2 < b + 9175

theorem stampEdge_of_busy (h : s.edgeBusy n rising tclk f1 f2) :
    stampEdge n rising tclk f1 f2 s = raise EV.TI_EDGE_LOST (s.bump (F.TIP_TI_LOST_COUNT n)) := by
  obtain ⟨b, hlast, hlt⟩ := h
  unfold TiIn.last at hlast
  unfold stampEdge
  dsimp only
  rw [hlast]
  exact if_pos (decide_eq_true hlt)

/-- The stamp of an edge with the tables for data of age k as they are read, and the chip after the reads. -/
def readStamp (t : Chip) (k : Nat) : Nat × Chip :=
  let (b, _, u) := fineTime k (0x30000 + 64 * n + 32 * b2n (!rising)) f1 f2 t
  ((((s.now + 256 * tclk + b : Nat) : Int) - sext 16 (s.fldAt k (F.TIP_TI_DELAY_FTU n))).toNat, u)

/-- The age that an edge is stamped with, from the stamps of each age. -/
def Chip.pickAge (at_ : Nat → Nat × Chip) : Nat := ((List.range 3).find? fun k => s.ageOf ((at_ k).1 / frameFtu) == k).getD 0

theorem readStamp_keepsTip (t : Chip) (k : Nat) : KeepsTip t (readStamp s n rising tclk f1 f2 t k).2 := (fineTime_ships k _ f1 f2 t).keepsTip

theorem readStamp_of_clean {t : Chip} (hclean : t.CalClean) (hcal : t.calAt = s.calAt) (k : Nat) :
    (readStamp s n rising tclk f1 f2 t k).1 = s.stampFor n rising tclk f1 f2 k := by
  have hbase : 0x30000 + 64 * n + 32 * b2n (!rising) = edgeBase n rising := by cases rising <;> rfl
  unfold readStamp
  rw [fineTime_clean hclean, hbase, hcal]
  rfl

theorem pickAge_of_clean {t : Chip} (hclean : t.CalClean) (hcal : t.calAt = s.calAt) {k : Nat}
    (hk : s.StampAge n rising tclk f1 f2 k) : s.pickAge (readStamp s n rising tclk f1 f2 t) = k := by
  unfold Chip.pickAge
  simp only [readStamp_of_clean s n rising tclk f1 f2 hclean hcal]
  have hno {j : Nat} (hj : ¬ s.StampFits n rising tclk f1 f2 j) : (!(s.ageOf (s.stampFor n rising tclk f1 f2 j / frameFtu) == j)) = true :=
    (Bool.not_eq_true' _).mpr (beq_false_of_ne hj)
  obtain ⟨hk3, hfit, hlow⟩ | ⟨rfl, hnone⟩ := hk
  · refine congrArg (Option.getD · 0) (List.find?_range_eq_some.mpr ⟨?_, List.mem_range.mpr hk3, fun j hj => hno (hlow j hj)⟩)
    exact beq_iff_eq.mpr hfit
  · exact congrArg (Option.getD · 0) (List.find?_range_eq_none.mpr fun j hj => hno (hnone j hj))

theorem stampEdge_of_free (h : ¬ s.edgeBusy n rising tclk f1 f2) : ∃ t u,
    KeepsTip (setTi n ((s.ti n).taken rising (s.edgeClock tclk f1 f2)) s) u ∧
    (s.CalClean → ∀ k, s.StampAge n rising tclk f1 f2 k → t = s.stampFor n rising tclk f1 f2 k) ∧
    stampEdge n rising tclk f1 f2 s = setTi n { u.ti n with queue := (u.ti n).queue ++ [(t, rising)] } u := by
  unfold stampEdge
  extract_lets x here last busy s0 conv at_
  have hfree : ¬ busy = true := by
    have hlast : (s.ti n).last rising = last := rfl
    clear_value last
    cases last with
    | none => exact Bool.false_ne_true
    | some b => exact fun hlt => h ⟨b, hlast, of_decide_eq_true hlt⟩
  have hat : at_ = readStamp s n rising tclk f1 f2 s0 := rfl
  rw [if_neg hfree, hat]
  have hstamp : s.CalClean → ∀ k, s.StampAge n rising tclk f1 f2 k →
      (readStamp s n rising tclk f1 f2 s0 (s.pickAge (readStamp s n rising tclk f1 f2 s0))).1 = s.stampFor n rising tclk f1 f2 k :=
    fun hclean k hk => by
      rw [pickAge_of_clean s n rising tclk f1 f2 (t := s0) hclean rfl hk]
      exact readStamp_of_clean s n rising tclk f1 f2 (t := s0) hclean rfl k
  have hread := readStamp_keepsTip s n rising tclk f1 f2 s0 (s.pickAge (readStamp s n rising tclk f1 f2 s0))
  unfold Chip.pickAge at hstamp hread
  generalize readStamp s n rising tclk f1 f2 s0 _ = r at hstamp hread ⊢
  obtain ⟨t, u⟩ := r
  exact ⟨t, _, ((hread.trans (calEdge_keepsTip conv f1 f2 _ u)).trans (triggerEdge_feeds n rising t _).keepsTip).trans
    (urgentFrom_keepsTip 1 n _), hstamp, rfl⟩

end

/-! ### The row of an edge (R182, R213) -/

/-- Input n with a new count of its prescaler. -/
def setCount (n k : Nat) (s : Chip) : Chip := setTi n { s.ti n with count := k } s

section
variable {s : Chip} {n : Nat} {rising : Bool} {tclk f1 f2 : Nat}

theorem tiEdge_of_no_edge (h : s.domainUp 5 = false ∨ (s.flag (F.TIP_TI_CFG_EN n) = false ∧ s.calRuns 6 = false)) :
    tiEdge n rising tclk f1 f2 s = s := by
  unfold tiEdge
  rcases h with h | ⟨hen, hcal⟩
  · rw [h]
    rfl
  · rw [hen]
    split
    · rfl
    · exact (if_pos rfl).trans (if_neg (ne_true_of_eq_false hcal))

section
variable {k : Nat} (hup : s.domainUp 5 = true) (hen : s.flag (F.TIP_TI_CFG_EN n) = true)
include hup hen

theorem tiEdge_of_output {r : Bool} (hp : prescale (s.fld (F.TIP_TI_CFG_PRESC n)) (s.ti n).count rising = (some r, k)) :
    tiEdge n rising tclk f1 f2 s = stampEdge n r tclk f1 f2 (setCount n k s) := by
  unfold tiEdge
  rw [hup, hen, hp]
  rfl

theorem tiEdge_of_no_output (hp : prescale (s.fld (F.TIP_TI_CFG_PRESC n)) (s.ti n).count rising = (none, k)) :
    tiEdge n rising tclk f1 f2 s = setCount n k s := by
  unfold tiEdge
  rw [hup, hen, hp]
  rfl

end

theorem setCount_edgeBusy_iff (k : Nat) : (setCount n k s).edgeBusy n rising tclk f1 f2 ↔ s.edgeBusy n rising tclk f1 f2 := by
  have hlast : ((setCount n k s).ti n).last rising = (s.ti n).last rising := by
    rw [setCount, Chip.ti_setTi_same]
    rfl
  unfold Chip.edgeBusy
  rw [hlast]
  rfl

/-- What a lost edge leaves (R184). -/
structure EdgeLost (n k : Nat) (s u : Chip) : Prop where
  seen : u.eventSeen EV.TI_EDGE_LOST = true
  tips : u.tips = s.tips
  clk : u.clk = s.clk
  active : u.regs.active = s.regs.active
  input : u.ti n = { s.ti n with count := k }
  lost : u.fld (F.TIP_TI_LOST_COUNT n) = satTo 32 (s.fld (F.TIP_TI_LOST_COUNT n) + 1)

theorem stampEdge_lost (hn : n < 8) (k : Nat) (h : s.edgeBusy n rising tclk f1 f2) :
    EdgeLost n k s (stampEdge n rising tclk f1 f2 (setCount n k s)) := by
  have hraise : KeepsTip ((setCount n k s).bump (F.TIP_TI_LOST_COUNT n))
      (raise EV.TI_EDGE_LOST ((setCount n k s).bump (F.TIP_TI_LOST_COUNT n))) := raise_keepsTip (by decide) _
  rw [stampEdge_of_busy _ n rising tclk f1 f2 ((setCount_edgeBusy_iff k).mpr h)]
  exact ⟨raise_seen _ (by decide) _, hraise.tips, hraise.clk, hraise.active, (hraise.ti n).trans (s.ti_setTi_same n _),
    (hraise.fld _ (show 0x60000 ≤ 0x60040 + 4 * n by omega) (show 0x60040 + 4 * n < 0x61000 by omega)).trans (Chip.fld_bump_word _)⟩

/-- What an edge with a stamp leaves (R184). -/
structure EdgeStamped (n : Nat) (rising : Bool) (here k t : Nat) (s u : Chip) : Prop where
  clk : u.clk = s.clk
  active : u.regs.active = s.regs.active
  tips : u.tips = s.tips
  others : ∀ m, m ≠ n → u.ti m = s.ti m
  input : u.ti n = if rising then { s.ti n with count := k, lastR := some here, queue := (s.ti n).queue ++ [(t, rising)] }
    else { s.ti n with count := k, lastF := some here, queue := (s.ti n).queue ++ [(t, rising)] }

theorem stampEdge_stamped (k : Nat) (h : ¬ s.edgeBusy n rising tclk f1 f2) : ∃ t,
    (s.CalClean → ∀ j, s.StampAge n rising tclk f1 f2 j → t = s.stampFor n rising tclk f1 f2 j) ∧
    EdgeStamped n rising (s.edgeClock tclk f1 f2) k t s (stampEdge n rising tclk f1 f2 (setCount n k s)) := by
  obtain ⟨t, u, hu, ht, heq⟩ := stampEdge_of_free _ n rising tclk f1 f2 (mt (setCount_edgeBusy_iff k).mp h)
  have hcount : (setCount n k s).ti n = { s.ti n with count := k } := s.ti_setTi_same n _
  have hinput : u.ti n = TiIn.taken rising { s.ti n with count := k } (s.edgeClock tclk f1 f2) :=
    (hu.ti n).trans (((setCount n k s).ti_setTi_same n _).trans (congrArg (TiIn.taken rising · _) hcount))
  refine ⟨t, ht, ?_⟩
  rw [heq]
  refine ⟨hu.clk, hu.active, hu.tips, fun m hm => ?_, ?_⟩
  · rw [Chip.ti_setTi_ne _ _ hm, hu.ti, Chip.ti_setTi_ne _ _ hm]
    exact s.ti_setTi_ne _ hm
  · rw [Chip.ti_setTi_same, hinput]
    cases rising
    · rfl
    · rfl

end

end Sys2Proof.Machine
end

section
/-! PROOFS. The interval channels (R186 to R192, R195): the order of the waiting edges, a result, an edge in each mode, a timeout and the end of
a gate. -/

namespace Sys2Proof.Machine

/-! ### The order of the waiting edges (R186) -/

/-- Of two edges the first is taken no later: by its stamp, then by what it is to the channel. -/
def TakenBefore (a b : Nat × Nat) : Prop := a.1 < b.1 ∨ (a.1 = b.1 ∧ a.2 ≤ b.2)

theorem TakenBefore.trans {a b c : Nat × Nat} (h : TakenBefore a b) (k : TakenBefore b c) : TakenBefore a c := by
  unfold TakenBefore at *
  omega

theorem insertEdge_perm (e : Nat × Nat) (l : List (Nat × Nat)) : (insertEdge e l).Perm (e :: l) := by
  induction l with
  | nil => exact .refl _
  | cons x xs ih =>
    unfold insertEdge
    split
    · exact .refl _
    · exact (ih.cons x).trans (.swap e x xs)

theorem insertEdge_pairwise (e : Nat × Nat) (l : List (Nat × Nat)) (h : l.Pairwise TakenBefore) : (insertEdge e l).Pairwise TakenBefore := by
  induction l with
  | nil => exact List.pairwise_singleton _ e
  | cons x xs ih =>
    obtain ⟨hx, hxs⟩ := List.pairwise_cons.mp h
    unfold insertEdge
    split
    · next hlt =>
      have hex : TakenBefore e x := by
        unfold TakenBefore
        simp only [Bool.or_eq_true, Bool.and_eq_true, decide_eq_true_eq, beq_iff_eq] at hlt
        omega
      exact List.pairwise_cons.mpr ⟨List.forall_mem_cons.mpr ⟨hex, fun y hy => hex.trans (hx y hy)⟩, h⟩
    · next hnlt =>
      have hxe : TakenBefore x e := by
        unfold TakenBefore
        simp only [Bool.or_eq_true, Bool.and_eq_true, decide_eq_true_eq, beq_iff_eq] at hnlt
        omega
      refine List.pairwise_cons.mpr ⟨fun y hy => ?_, ih hxs⟩
      rcases List.mem_cons.mp ((insertEdge_perm e xs).mem_iff.mp hy) with rfl | hm
      · exact hxe
      · exact hx y hm

/-- The edges of a list inserted one after the other. -/
def insertEdges (l es : List (Nat × Nat)) : List (Nat × Nat) := es.foldl (fun l e => insertEdge e l) l

theorem insertEdges_perm (l es : List (Nat × Nat)) : (insertEdges l es).Perm (es ++ l) := by
  induction es generalizing l with
  | nil => exact .refl l
  | cons e es ih => exact (ih (insertEdge e l)).trans (((insertEdge_perm e l).append_left es).trans List.perm_middle)

theorem insertEdges_pairwise (l es : List (Nat × Nat)) (h : l.Pairwise TakenBefore) : (insertEdges l es).Pairwise TakenBefore := by
  induction es generalizing l with
  | nil => exact h
  | cons e es ih => exact ih _ (insertEdge_pairwise e l h)

/-- The edges that an input holds for a channel, in the order of their coming. -/
def Chip.inputEdges (s : Chip) (k : Nat) (upto : Int) (n : Nat) : List (Nat × Nat) :=
  (s.ti n).queue.filterMap fun e =>
    if (e.1 : Int) < upto && (s.tip k).begun ≤ e.1 then (s.edgeRole k n e.2).map fun r => (e.1, r) else none

theorem channelEdges_eq (s : Chip) (k : Nat) (upto : Int) :
    s.channelEdges k upto = insertEdges [] ((List.range 8).flatMap (s.inputEdges k upto)) := rfl

theorem mem_inputEdges {s : Chip} {k n t role : Nat} {upto : Int} : (t, role) ∈ s.inputEdges k upto n ↔
    (t : Int) < upto ∧ (s.tip k).begun ≤ t ∧ ∃ r, (t, r) ∈ (s.ti n).queue ∧ s.edgeRole k n r = some role := by
  unfold Chip.inputEdges
  simp only [List.mem_filterMap, Option.ite_none_right_eq_some, Option.map_eq_some_iff, Bool.and_eq_true, decide_eq_true_eq, Prod.mk.injEq,
    Prod.exists]
  constructor
  · rintro ⟨t, r, hmem, ⟨hlt, hbegun⟩, role, hrole, rfl, rfl⟩
    exact ⟨hlt, hbegun, r, hmem, hrole⟩
  · rintro ⟨hlt, hbegun, r, hmem, hrole⟩
    exact ⟨t, r, hmem, ⟨hlt, hbegun⟩, role, hrole, rfl, rfl⟩

theorem channelEdges_pairwise (s : Chip) (k : Nat) (upto : Int) : (s.channelEdges k upto).Pairwise TakenBefore := by
  rw [channelEdges_eq]
  exact insertEdges_pairwise _ _ .nil

theorem mem_channelEdges (s : Chip) (k t role : Nat) (upto : Int) : (t, role) ∈ s.channelEdges k upto ↔
    (t : Int) < upto ∧ (s.tip k).begun ≤ t ∧ ∃ n r, n < 8 ∧ (t, r) ∈ (s.ti n).queue ∧ s.edgeRole k n r = some role := by
  rw [channelEdges_eq, (insertEdges_perm [] _).mem_iff]
  simp only [List.append_nil, List.mem_flatMap, List.mem_range, mem_inputEdges]
  constructor
  · rintro ⟨n, hn, hlt, hbegun, r, hmem, hrole⟩
    exact ⟨hlt, hbegun, n, r, hn, hmem, hrole⟩
  · rintro ⟨hlt, hbegun, n, r, hn, hmem, hrole⟩
    exact ⟨n, hn, hlt, hbegun, r, hmem, hrole⟩

/-! ### A result (R186, R195) -/

/-- The registers that show a result, and the count of the results that XHIST keeps. -/
def showResult (k : Nat) (v : Int) (time : Nat) (s : Chip) : Chip :=
  setPair (F.TIP_CH_LAST_LO_VALUE k) (F.TIP_CH_LAST_HI_VALUE k) (unsext 64 v)
    (cond (s.flagAt (s.ageOf (time / frameFtu)) (F.TIP_CH_CTL_HIST k)) (·.bump (F.TIP_CH_RESULTS_COUNT k)) s)

section
variable (k : Nat) (v : Int) (time : Nat) (s : Chip)

theorem showResult_work : TipWork k s (showResult k v time s) :=
  ((TipWork.refl k s).cond fun x => bump_work k x statAddr_indexed).trans (setPair_work k _ _ statAddr_indexed statAddr_indexed)

theorem cond_bump_tips (b : Bool) (f : Fld) : (cond b (·.bump f) s).tips = s.tips := by
  cases b
  · rfl
  · rfl

theorem showResult_tip (m : Nat) : (showResult k v time s).tip m = s.tip m :=
  congrArg (fun x => Table.get _ x m) ((setPair_tips _ _).trans (cond_bump_tips s _ _))

theorem showResult_lo : (showResult k v time s).fld (F.TIP_CH_LAST_LO_VALUE k) = unsext 64 v % 2 ^ 32 :=
  setPair_lo _ _ (chAddr_ne k (by decide))

theorem showResult_hi : (showResult k v time s).fld (F.TIP_CH_LAST_HI_VALUE k) = unsext 64 v / 2 ^ 32 % 2 ^ 32 := setPair_hi _ _

theorem showResult_count : (showResult k v time s).fld (F.TIP_CH_RESULTS_COUNT k) =
    if s.flagAt (s.ageOf (time / frameFtu)) (F.TIP_CH_CTL_HIST k) then satTo 32 (s.fld (F.TIP_CH_RESULTS_COUNT k) + 1)
    else s.fld (F.TIP_CH_RESULTS_COUNT k) := by
  rw [showResult, setPair_fld_ne _ _ (chAddr_ne k (by decide)) (chAddr_ne k (by decide))]
  cases s.flagAt (s.ageOf (time / frameFtu)) (F.TIP_CH_CTL_HIST k)
  · rfl
  · exact Chip.fld_bump_word _

theorem showResult_fld_ne {g : Fld} (hlo : g.addr ≠ 0x60110 + 128 * k) (hhi : g.addr ≠ 0x60114 + 128 * k)
    (hn : g.addr ≠ 0x60138 + 128 * k) : (showResult k v time s).fld g = s.fld g := by
  rw [showResult, setPair_fld_ne _ _ hlo hhi]
  cases s.flagAt (s.ageOf (time / frameFtu)) (F.TIP_CH_CTL_HIST k)
  · rfl
  · exact Chip.fld_bump_ne _ hn

variable (typ : Nat) (subRes noEdge : Bool) (n gate : Nat)

/-- A result is shown, kept in XHIST as HIST says, joins its set in the modes that have one, and reaches the measures. -/
theorem tipResult_eq : ∃ t, KeepsTip (showResult k v time s) t ∧ tipResult k typ v time subRes noEdge n gate s =
    measureResult 5 k time v (if typ < 2 then addToSet k time v t else t) := by
  unfold tipResult
  extract_lets hist s1 flags s2 s3
  exact ⟨s2, .ite (writeXhist_keepsTip 2 time _ s1) (.refl s1), rfl⟩

theorem tipResult_keepsTip (h : 2 ≤ typ) : KeepsTip (showResult k v time s) (tipResult k typ v time subRes noEdge n gate s) := by
  obtain ⟨t, ht, heq⟩ := tipResult_eq k v time s typ subRes noEdge n gate
  rw [heq, if_neg (Nat.not_lt_of_le h)]
  exact ht.trans (measureResult_feeds 5 k time v t).keepsTip

theorem tipResult_setWork : SetWork k (showResult k v time s) (tipResult k typ v time subRes noEdge n gate s) := by
  obtain ⟨t, ht, heq⟩ := tipResult_eq k v time s typ subRes noEdge n gate
  rw [heq]
  refine SetWork.trans ?_ (measureResult_feeds 5 k time v _).keepsTip.setWork
  split
  · exact ht.setWork.trans (addToSet_setWork k time v t)
  · exact ht.setWork

/-- What a result of channel k leaves. -/
structure ResultGiven (k : Nat) (v : Int) (s u : Chip) : Prop extends TipWork k s u where
  edges : (u.tip k).noSet = (s.tip k).noSet
  lo : u.fld (F.TIP_CH_LAST_LO_VALUE k) = unsext 64 v % 2 ^ 32
  hi : u.fld (F.TIP_CH_LAST_HI_VALUE k) = unsext 64 v / 2 ^ 32 % 2 ^ 32
  counters : ∀ (g : Fld) (a : Nat), g.addr = a + 128 * k → 0x6013C ≤ a → a < 0x6014C → u.fld g = s.fld g

theorem tipResult_given (hk : k < 4) : ResultGiven k v s (tipResult k typ v time subRes noEdge n gate s) := by
  have h := tipResult_setWork k v time s typ subRes noEdge n gate
  have hfld {g : Fld} {a : Nat} (hg : g.addr = a + 128 * k) (ha : 0x60110 ≤ a ∧ a < 0x60118 ∨ 0x6013C ≤ a ∧ a < 0x6014C) :
      (tipResult k typ v time subRes noEdge n gate s).fld g = (showResult k v time s).fld g :=
    h.registers hk g (by omega) (by omega) (by unfold SetAddr; omega)
  exact ⟨(showResult_work k v time s).trans h.toTipWork, h.edges.trans (congrArg TipCh.noSet (showResult_tip k v time s k)),
    (hfld rfl (by decide)).trans (showResult_lo k v time s), (hfld rfl (by decide)).trans (showResult_hi k v time s),
    fun g a hg hlo hhi => (hfld hg (by omega)).trans (showResult_fld_ne k v time s (by omega) (by omega) (by omega))⟩

end

/-! ### A timeout (R187, R188) -/

section
variable (k : Nat) (s : Chip)

theorem tipExpired_iff (t : Nat) : s.tipExpired k t = true ↔ s.fld (F.TIP_CH_TMO_FRAMES k) ≠ 0 ∧
    ∃ a, (s.tip k).armed.or (s.tip k).prev = some a ∧ a + s.fld (F.TIP_CH_TMO_FRAMES k) * 1048576 ≤ t := by
  unfold Chip.tipExpired
  rw [Bool.and_eq_true, bne_iff_ne]
  refine and_congr_right fun _ => ?_
  cases (s.tip k).armed.or (s.tip k).prev with
  | none => simp
  | some a =>
    simp only [Option.some.injEq, exists_eq_left']
    exact decide_eq_true_iff

/-- What the timeout of channel k leaves. -/
structure TipExpired (k : Nat) (s u : Chip) : Prop extends TipWork k s u where
  tip : u.tip k = { s.tip k with armed := none, prev := none }
  seen : u.eventSeen EV.TI_TIMEOUT = true
  timeouts : k < 4 → u.fld (F.TIP_CH_TIMEOUT_COUNT k) = satTo 32 (s.fld (F.TIP_CH_TIMEOUT_COUNT k) + 1)

theorem expireTip_expired : TipExpired k s (expireTip k s) := by
  have hraise : KeepsTip ((setTip k { s.tip k with armed := none, prev := none } s).bump (F.TIP_CH_TIMEOUT_COUNT k)) (expireTip k s) :=
    raise_keepsTip (by decide) _
  exact ⟨((setTip_work k _ s).trans (bump_work k _ statAddr_indexed)).trans hraise.work, (hraise.tip k).trans (s.tip_setTip_same k _),
    raise_seen _ (by decide) _, fun hk => (hraise.fld _ (show 0x60000 ≤ 0x60148 + 128 * k by omega)
      (show 0x60148 + 128 * k < 0x61000 by omega)).trans (Chip.fld_bump_word _)⟩

/-- A channel that forgot its stamp has none that times out. -/
theorem expireTip_not_expired (t : Nat) : (expireTip k s).tipExpired k t = false := by
  rw [← Bool.not_eq_true, tipExpired_iff, (expireTip_expired k s).tip]
  rintro ⟨-, a, ha, -⟩
  exact absurd ha (Option.some_ne_none a).symm

theorem tiTimeout_of_due (h : s.tipExpired k s.tiHorizon.toNat = true) : tiTimeout k s = expireTip k s := if_pos h

theorem tiTimeout_of_not_due (h : s.tipExpired k s.tiHorizon.toNat ≠ true) : tiTimeout k s = s := if_neg h

end

/-! ### An edge, by the mode of its channel (R187 to R190) -/

section
variable {k : Nat} {e : Nat × Nat} {s : Chip}

/-- A timeout that fell before the edge comes first. -/
theorem takeEdge_of_expired (h : s.tipExpired k e.1 = true) : takeEdge k e s = takeEdge k e (expireTip k s) := by
  have hno : (expireTip k s).tipExpired k e.1 = false := expireTip_not_expired k s e.1
  simp only [takeEdge, h, hno, if_true, Bool.false_eq_true, if_false]

section
variable (h : s.tipExpired k e.1 = false)
include h

theorem takeEdge_of_interval (hm : s.fld (F.TIP_CH_CTL_MODE k) = 0) :
    takeEdge k e s = cond (decide (e.2 < 2)) (startEdge k e.1) (cond (decide (0 < e.2)) (stopEdge k e.1) s) := by
  simp only [takeEdge, h, Bool.false_eq_true, if_false, hm]

theorem takeEdge_of_period_first (hm : s.fld (F.TIP_CH_CTL_MODE k) = 1) (hp : (s.tip k).prev = none) :
    takeEdge k e s = setTip k { s.tip k with prev := some e.1 } s := by
  simp only [takeEdge, h, Bool.false_eq_true, if_false, hm, hp]

theorem takeEdge_of_period {p : Nat} (hm : s.fld (F.TIP_CH_CTL_MODE k) = 1) (hp : (s.tip k).prev = some p) :
    takeEdge k e s = tipResult k 1 ((e.1 : Int) - (p : Int)) e.1 false false 0 0 (setTip k { s.tip k with prev := some e.1 } s) := by
  simp only [takeEdge, h, Bool.false_eq_true, if_false, hm, hp]

theorem takeEdge_of_frequency (hm : s.fld (F.TIP_CH_CTL_MODE k) = 2) :
    takeEdge k e s = setTip k (gateEdge (s.tipGateEnd k) (s.tip k) e.1) s := by
  simp only [takeEdge, h, Bool.false_eq_true, if_false, hm]

theorem takeEdge_of_count (hm : s.fld (F.TIP_CH_CTL_MODE k) = 3) : takeEdge k e s =
    tipResult k 3 (((s.tip k).count + 1) % 2 ^ 64 : Nat) e.1 false false 0 0
      (setTip k { s.tip k with count := ((s.tip k).count + 1) % 2 ^ 64 } s) := by
  simp only [takeEdge, h, Bool.false_eq_true, if_false, hm]

end

end

section
variable {k t role : Nat} {s : Chip} (h : s.tipExpired k t = false)
include h

theorem takeEdge_period_prev (hm : s.fld (F.TIP_CH_CTL_MODE k) = 1) : ((takeEdge k (t, role) s).tip k).prev = some t := by
  cases hp : (s.tip k).prev with
  | none =>
    rw [takeEdge_of_period_first h hm hp]
    exact congrArg TipCh.prev (s.tip_setTip_same k _)
  | some p =>
    rw [takeEdge_of_period h hm hp]
    have hedges := (tipResult_setWork k ((t : Int) - p) t (setTip k { s.tip k with prev := some t } s) 1 false false 0 0).edges
    exact (congrArg TipCh.prev hedges).trans
      ((congrArg TipCh.prev (showResult_tip k _ t _ k)).trans (congrArg TipCh.prev (s.tip_setTip_same k _)))

theorem takeEdge_period_given {p : Nat} (hk : k < 4) (hm : s.fld (F.TIP_CH_CTL_MODE k) = 1) (hp : (s.tip k).prev = some p) :
    ResultGiven k ((t : Int) - p) (setTip k { s.tip k with prev := some t } s) (takeEdge k (t, role) s) := by
  rw [takeEdge_of_period h hm hp]
  exact tipResult_given k _ t _ 1 false false 0 0 hk

theorem takeEdge_count_given (hk : k < 4) (hm : s.fld (F.TIP_CH_CTL_MODE k) = 3) :
    ResultGiven k (((s.tip k).count + 1) % 2 ^ 64 : Nat) (setTip k { s.tip k with count := ((s.tip k).count + 1) % 2 ^ 64 } s)
      (takeEdge k (t, role) s) := by
  rw [takeEdge_of_count h hm]
  exact tipResult_given k _ t _ 3 false false 0 0 hk

theorem takeEdge_gate (hm : s.fld (F.TIP_CH_CTL_MODE k) = 2) :
    (takeEdge k (t, role) s).tip k = gateEdge (s.tipGateEnd k) (s.tip k) t := by
  rw [takeEdge_of_frequency h hm]
  exact s.tip_setTip_same k _

theorem takeEdge_count (hm : s.fld (F.TIP_CH_CTL_MODE k) = 3) : ((takeEdge k (t, role) s).tip k).count = ((s.tip k).count + 1) % 2 ^ 64 := by
  rw [takeEdge_of_count h hm]
  have hkeeps := tipResult_keepsTip k (((s.tip k).count + 1) % 2 ^ 64 : Nat) t
    (setTip k { s.tip k with count := ((s.tip k).count + 1) % 2 ^ 64 } s) 3 false false 0 0 (by decide)
  exact congrArg TipCh.count ((hkeeps.tip k).trans ((showResult_tip k _ t _ k).trans (s.tip_setTip_same k _)))

end

/-! ### The edges of an INTERVAL channel (R187) -/

section
variable (k t : Nat) (s : Chip)

theorem startEdge_tip : (startEdge k t s).tip k = { s.tip k with armed := some t } := Chip.tip_setTip_same _ k _

theorem startEdge_fld_ne {g : Fld} (hg : g.addr ≠ 0x60144 + 128 * k) : (startEdge k t s).fld g = s.fld g := by
  show (if (s.tip k).armed.isSome then s.bump (F.TIP_CH_REARM_COUNT k) else s).fld g = s.fld g
  split
  · exact s.fld_bump_ne hg
  · rfl

theorem startEdge_rearm : (startEdge k t s).fld (F.TIP_CH_REARM_COUNT k) = if (s.tip k).armed.isSome then
    satTo 32 (s.fld (F.TIP_CH_REARM_COUNT k) + 1) else s.fld (F.TIP_CH_REARM_COUNT k) := by
  show (if (s.tip k).armed.isSome then s.bump (F.TIP_CH_REARM_COUNT k) else s).fld _ = _
  split
  · exact s.fld_bump_word
  · rfl

theorem startEdge_work : TipWork k s (startEdge k t s) :=
  (TipWork.ite (bump_work k s statAddr_indexed) (.refl k s)).trans (setTip_work k _ _)

theorem stopEdge_of_early (h : ∀ a, (s.tip k).armed = some a → t < a) : stopEdge k t s = s.bump (F.TIP_CH_STOP_EARLY_COUNT k) := by
  unfold stopEdge
  dsimp only
  split
  · next a ha => exact if_pos (h a ha)
  · rfl

/-- The channel whose start met its stop, one of no length counted (R187). -/
def metStart (a : Nat) : Chip :=
  if t = a then (setTip k { s.tip k with armed := none } s).bump (F.TIP_CH_SUB_RES_COUNT k) else setTip k { s.tip k with armed := none } s

theorem stopEdge_of_armed {a : Nat} (ha : (s.tip k).armed = some a) (h : a ≤ t) :
    stopEdge k t s = tipResult k 0 ((t : Int) - a) t (t == a) false 0 0 (metStart k t s a) := by
  unfold stopEdge
  dsimp only
  rw [ha]
  exact if_neg (Nat.not_lt_of_le h)

theorem metStart_tip (a : Nat) : (metStart k t s a).tip k = { s.tip k with armed := none } := by
  unfold metStart
  split
  · exact s.tip_setTip_same k _
  · exact s.tip_setTip_same k _

theorem metStart_fld_ne (a : Nat) {g : Fld} (hg : g.addr ≠ 0x60140 + 128 * k) : (metStart k t s a).fld g = s.fld g := by
  unfold metStart
  split
  · exact Chip.fld_bump_ne _ hg
  · rfl

theorem metStart_subRes : (metStart k t s t).fld (F.TIP_CH_SUB_RES_COUNT k) = satTo 32 (s.fld (F.TIP_CH_SUB_RES_COUNT k) + 1) := by
  rw [metStart, if_pos rfl]
  exact Chip.fld_bump_word _

theorem metStart_work (a : Nat) : TipWork k s (metStart k t s a) :=
  .ite ((setTip_work k _ s).trans (bump_work k _ statAddr_indexed)) (setTip_work k _ s)

/-- What a stop that meets its start leaves in the registers. -/
structure IntervalEnded (k t a : Nat) (s u : Chip) : Prop where
  lo : u.fld (F.TIP_CH_LAST_LO_VALUE k) = unsext 64 ((t : Int) - a) % 2 ^ 32
  hi : u.fld (F.TIP_CH_LAST_HI_VALUE k) = unsext 64 ((t : Int) - a) / 2 ^ 32 % 2 ^ 32
  early : u.fld (F.TIP_CH_STOP_EARLY_COUNT k) = s.fld (F.TIP_CH_STOP_EARLY_COUNT k)
  rearm : u.fld (F.TIP_CH_REARM_COUNT k) = s.fld (F.TIP_CH_REARM_COUNT k)
  subRes : a = t → u.fld (F.TIP_CH_SUB_RES_COUNT k) = satTo 32 (s.fld (F.TIP_CH_SUB_RES_COUNT k) + 1)

section
variable {a : Nat} (hk : k < 4) (ha : (s.tip k).armed = some a) (h : a ≤ t)
include hk ha h

theorem stopEdge_given : ResultGiven k ((t : Int) - a) (metStart k t s a) (stopEdge k t s) := by
  rw [stopEdge_of_armed k t s ha h]
  exact tipResult_given k _ t _ 0 _ _ 0 0 hk

theorem stopEdge_armed : ((stopEdge k t s).tip k).armed = none :=
  (congrArg TipCh.armed (stopEdge_given k t s hk ha h).edges).trans (congrArg TipCh.armed (metStart_tip k t s a))

theorem stopEdge_ended : IntervalEnded k t a s (stopEdge k t s) := by
  have hgiven := stopEdge_given k t s hk ha h
  refine ⟨hgiven.lo, hgiven.hi, ?_, ?_, ?_⟩
  · exact (hgiven.counters _ 0x6013C rfl (by decide) (by decide)).trans (metStart_fld_ne k t s a (chAddr_ne k (by decide)))
  · exact (hgiven.counters _ 0x60144 rfl (by decide) (by decide)).trans (metStart_fld_ne k t s a (chAddr_ne k (by decide)))
  · rintro rfl
    exact (hgiven.counters _ 0x60140 rfl (by decide) (by decide)).trans (metStart_subRes k a s)

end

theorem stopEdge_work : TipWork k s (stopEdge k t s) := by
  unfold stopEdge
  dsimp only
  split
  · next a ha =>
    refine .ite (bump_work k s statAddr_indexed) ?_
    exact (metStart_work k t s a).trans ((showResult_work k _ t _).trans (tipResult_setWork k _ t _ 0 _ _ 0 0).toTipWork)
  · exact bump_work k s statAddr_indexed

/-- An edge that is a start follows what it was as a stop. -/
theorem cond_startEdge_fld_ne (b : Bool) {g : Fld} (hg : g.addr ≠ 0x60144 + 128 * k) : (cond b (startEdge k t) s).fld g = s.fld g := by
  cases b
  · rfl
  · exact startEdge_fld_ne k t s hg

theorem cond_startEdge_rearm (b : Bool) (h : (s.tip k).armed = none) :
    (cond b (startEdge k t) s).fld (F.TIP_CH_REARM_COUNT k) = s.fld (F.TIP_CH_REARM_COUNT k) := by
  cases b
  · rfl
  · exact (startEdge_rearm k t s).trans (if_neg (by simp [h]))

end

theorem takeEdge_work (k : Nat) (e : Nat × Nat) (s : Chip) : TipWork k s (takeEdge k e s) := by
  have hresult (typ : Nat) (v : Int) (t : Chip) : TipWork k t (tipResult k typ v e.1 false false 0 0 t) :=
    (showResult_work k v e.1 t).trans (tipResult_setWork k v e.1 t typ false false 0 0).toTipWork
  unfold takeEdge
  extract_lets t s0 c m s1
  have h0 : TipWork k s s0 := .ite (expireTip_expired k s).toTipWork (.refl k s)
  have hset (y : TipCh) : TipWork k s (setTip k y s0) := h0.trans (setTip_work k y s0)
  split
  · exact (h0.cond (stopEdge_work k t)).cond (startEdge_work k t)
  · split
    · exact (hset _).trans (hresult 1 _ _)
    · exact hset _
  · exact hset _
  · exact (hset _).trans (hresult 3 _ _)

section
variable {k t role : Nat} {s : Chip} (h : s.tipExpired k t = false) (hm : s.fld (F.TIP_CH_CTL_MODE k) = 0)
include h hm

theorem takeEdge_of_start : takeEdge k (t, 0) s = startEdge k t s := takeEdge_of_interval h hm

/-- An edge of the STOP is a stop first, then a start where it is both (R187). -/
theorem takeEdge_of_stop (hr : 0 < role) : takeEdge k (t, role) s = cond (decide (role < 2)) (startEdge k t) (stopEdge k t s) := by
  rw [takeEdge_of_interval h hm, decide_eq_true hr]
  rfl

theorem takeEdge_armed (hr : role < 2) : ((takeEdge k (t, role) s).tip k).armed = some t := by
  rw [takeEdge_of_interval h hm, decide_eq_true hr]
  exact congrArg TipCh.armed (startEdge_tip k t _)

theorem takeEdge_rearm (ha : (s.tip k).armed.isSome = true) :
    (takeEdge k (t, 0) s).fld (F.TIP_CH_REARM_COUNT k) = satTo 32 (s.fld (F.TIP_CH_REARM_COUNT k) + 1) := by
  rw [takeEdge_of_start h hm, startEdge_rearm, if_pos ha]

/-- What an edge of the STOP that meets no start leaves. -/
structure StoppedEarly (k role : Nat) (s u : Chip) : Prop where
  early : u.fld (F.TIP_CH_STOP_EARLY_COUNT k) = satTo 32 (s.fld (F.TIP_CH_STOP_EARLY_COUNT k) + 1)
  lo : u.fld (F.TIP_CH_LAST_LO_VALUE k) = s.fld (F.TIP_CH_LAST_LO_VALUE k)
  tip : role = 2 → u.tip k = s.tip k
  rearm : role = 1 → (s.tip k).armed.isSome = true → u.fld (F.TIP_CH_REARM_COUNT k) = satTo 32 (s.fld (F.TIP_CH_REARM_COUNT k) + 1)

theorem takeEdge_early (hr : 0 < role) (he : ∀ a, (s.tip k).armed = some a → t < a) :
    StoppedEarly k role s (takeEdge k (t, role) s) := by
  rw [takeEdge_of_stop h hm hr, stopEdge_of_early k t s he]
  refine ⟨?_, ?_, ?_, ?_⟩
  · rw [cond_startEdge_fld_ne k t _ _ (chAddr_ne k (by decide)), Chip.fld_bump_word]
  · rw [cond_startEdge_fld_ne k t _ _ (chAddr_ne k (by decide)), s.fld_bump_ne (chAddr_ne k (by decide))]
  · rintro rfl
    rfl
  · rintro rfl ha
    refine (startEdge_rearm k t _).trans ((if_pos ha).trans ?_)
    rw [s.fld_bump_ne (chAddr_ne k (by decide))]

section
variable {a : Nat} (hk : k < 4) (hr : 0 < role) (ha : (s.tip k).armed = some a) (hle : a ≤ t)
include hk hr ha hle

theorem takeEdge_ended : IntervalEnded k t a s (takeEdge k (t, role) s) := by
  have hend := stopEdge_ended k t s hk ha hle
  have hfld {g : Fld} (hg : g.addr ≠ 0x60144 + 128 * k) := cond_startEdge_fld_ne k t (stopEdge k t s) (decide (role < 2)) hg
  rw [takeEdge_of_stop h hm hr]
  exact ⟨(hfld (chAddr_ne k (by decide))).trans hend.lo, (hfld (chAddr_ne k (by decide))).trans hend.hi,
    (hfld (chAddr_ne k (by decide))).trans hend.early, (cond_startEdge_rearm k t _ _ (stopEdge_armed k t s hk ha hle)).trans hend.rearm,
    fun he => (hfld (chAddr_ne k (by decide))).trans (hend.subRes he)⟩

theorem takeEdge_disarmed (h2 : role = 2) : ((takeEdge k (t, role) s).tip k).armed = none := by
  rw [takeEdge_of_stop h hm hr, h2]
  exact stopEdge_armed k t s hk ha hle

end

end

/-! ### The edges that wait no more (R186) -/

theorem channelTakes_tis (upto : Int) (k : Nat) (s : Chip) : (channelTakes upto k s).tis = s.tis := by
  have hall (l : List (Nat × Nat)) : (forAll l (takeEdge k) s).tis = s.tis :=
    List.foldlRecOn (motive := fun u => u.tis = s.tis) l _ rfl fun u hu e _ => (takeEdge_work k e u).tis.trans hu
  unfold channelTakes
  split
  · exact hall _
  · rfl

/-- The inputs below n give up the edges with stamps before a time. -/
def dropTaken (h : Int) (n : Nat) (s : Chip) : Chip :=
  forN n (fun n s => setTi n { s.ti n with queue := (s.ti n).queue.filter fun e => decide (h ≤ (e.1 : Int)) } s) s

theorem dropTaken_queue (h : Int) (n m : Nat) (s : Chip) :
    ((dropTaken h n s).ti m).queue = (s.ti m).queue.filter fun e => decide (n ≤ m) || decide (h ≤ (e.1 : Int)) := by
  induction n with
  | zero => simp [dropTaken, forN]
  | succ n ih =>
    have hsucc : dropTaken h (n + 1) s = setTi n { (dropTaken h n s).ti n with
        queue := ((dropTaken h n s).ti n).queue.filter fun e => decide (h ≤ (e.1 : Int)) } (dropTaken h n s) := forN_succ n _ s
    rw [hsucc]
    by_cases hm : m = n
    · subst hm
      rw [Chip.ti_setTi_same, ih]
      simp
    · have hle : n + 1 ≤ m ↔ n ≤ m := by omega
      rw [Chip.ti_setTi_ne _ _ hm, ih]
      simp only [hle]

theorem drainTips_queue (s : Chip) (n : Nat) :
    ((drainTips s).ti n).queue = (s.ti n).queue.filter fun e => decide (8 ≤ n) || decide (s.tiHorizon ≤ (e.1 : Int)) := by
  unfold drainTips
  extract_lets h
  split
  · have htis : (forN 4 (channelTakes h) s).tis = s.tis :=
      forN_related (R := fun s t => t.tis = s.tis) (fun _ => rfl) (fun h k => k.trans h) 4 (fun k _ t => channelTakes_tis h k t) s
    have hti : (forN 4 (channelTakes h) s).ti n = s.ti n := congrArg (fun x => Table.get _ x n) htis
    exact (dropTaken_queue h 8 n _).trans (by rw [hti])
  · next hnone =>
    refine (List.filter_eq_self.mpr fun e he => ?_).symm
    by_cases hn : 8 ≤ n
    · exact Bool.or_eq_true .. |>.mpr (.inl (decide_eq_true hn))
    · have hlate : h ≤ (e.1 : Int) := Int.not_lt.mp fun hlt =>
        hnone (List.any_eq_true.mpr ⟨n, List.mem_range.mpr (Nat.lt_of_not_le hn), List.any_eq_true.mpr ⟨e, he, decide_eq_true hlt⟩⟩)
      exact Bool.or_eq_true .. |>.mpr (.inr (decide_eq_true hlate))

/-! ### The gate of a FREQUENCY channel (R189) -/

theorem gateEdge_before {stop t : Nat} {c : TipCh} (h : t < c.gate0) : gateEdge stop c t = c := if_pos h

theorem gateEdge_after {stop t : Nat} {c : TipCh} (h0 : c.gate0 ≤ t) (h : stop ≤ t) :
    gateEdge stop c t = { c with ahead := c.ahead ++ [t] } := (if_neg (Nat.not_lt_of_le h0)).trans (if_pos h)

theorem gateEdge_inside {stop t : Nat} {c : TipCh} (h0 : c.gate0 ≤ t) (h : t < stop) :
    gateEdge stop c t = { c with edges := c.edges + 1, tFirst := if c.edges = 0 then t else c.tFirst, tLast := t } :=
  (if_neg (Nat.not_lt_of_le h0)).trans (if_neg (Nat.not_le_of_lt h))

section
variable (k : Nat) (s : Chip)

/-- The gate of channel k has ended, and no edge with a stamp in it is still to come. -/
def Chip.GateOver : Prop :=
  s.tipOn k = true ∧ s.fld (F.TIP_CH_CTL_MODE k) = 2 ∧ s.tipGate k ≤ (s.tip k).gateN ∧ (s.tipGateEnd k : Int) ≤ s.tiHorizon

/-- Channel k at the start of its next gate. -/
def Chip.gateRestarted : TipCh :=
  { s.tip k with gate0 := s.tipGateEnd k, gateN := (s.tip k).gateN - s.tipGate k, edges := 0, tFirst := 0, tLast := 0, ahead := [] }

/-- Channel k in its next gate, with the edges that came ahead of it. -/
def Chip.nextGate : TipCh := (s.tip k).ahead.foldl (gateEdge (s.tipGateEnd k + s.tipGate k * frameFtu)) (s.gateRestarted k)

/-- The time between the first and the last edge of the gate. -/
def Chip.gateSpan : Nat := if (s.tip k).edges < 2 then 0 else (s.tip k).tLast - (s.tip k).tFirst

/-- TIME of the result of the gate. -/
def Chip.gateTime : Nat := if (s.tip k).edges = 0 then s.tipGateEnd k - frameFtu else (s.tip k).tLast

theorem gateOver_iff : (s.tipOn k && s.fld (F.TIP_CH_CTL_MODE k) == 2 && decide (s.tipGate k ≤ (s.tip k).gateN)
    && decide ((s.tipGateEnd k : Int) ≤ s.tiHorizon)) = true ↔ s.GateOver k := by
  simp only [Chip.GateOver, Bool.and_eq_true, beq_iff_eq, decide_eq_true_eq, and_assoc]

theorem gateEnd_of_not_over (h : ¬ s.GateOver k) : gateEnd k s = s := if_neg fun ho => h ((gateOver_iff k s).mp ho)

theorem gateEnd_of_over (h : s.GateOver k) : gateEnd k s = tipResult k 2 (s.gateSpan k : Nat) (s.gateTime k) false
    (decide ((s.tip k).edges < 2)) (s.tip k).edges (s.tipGate k) (setTip k (s.nextGate k) s) := if_pos ((gateOver_iff k s).mpr h)

/-- What the end of a gate leaves. -/
structure GateEnded (u : Chip) : Prop extends TipWork k s u where
  tip : u.tip k = s.nextGate k
  lo : u.fld (F.TIP_CH_LAST_LO_VALUE k) = unsext 64 (s.gateSpan k : Nat) % 2 ^ 32
  hi : u.fld (F.TIP_CH_LAST_HI_VALUE k) = unsext 64 (s.gateSpan k : Nat) / 2 ^ 32 % 2 ^ 32
  results : u.fld (F.TIP_CH_RESULTS_COUNT k) = if s.flagAt (s.ageOf (s.gateTime k / frameFtu)) (F.TIP_CH_CTL_HIST k) then
    satTo 32 (s.fld (F.TIP_CH_RESULTS_COUNT k) + 1) else s.fld (F.TIP_CH_RESULTS_COUNT k)

theorem gateEnd_ended (hk : k < 4) (h : s.GateOver k) : GateEnded k s (gateEnd k s) := by
  have hkeeps := tipResult_keepsTip k (s.gateSpan k : Nat) (s.gateTime k) (setTip k (s.nextGate k) s) 2 false
    (decide ((s.tip k).edges < 2)) (s.tip k).edges (s.tipGate k) (Nat.le_refl 2)
  rw [← gateEnd_of_over k s h] at hkeeps
  have hfld {g : Fld} {a : Nat} (hg : g.addr = a + 128 * k) (hlo : 0x60000 ≤ a) (hhi : a < 0x60150) :=
    hkeeps.fld g (by omega) (by omega)
  exact ⟨((setTip_work k _ s).trans (showResult_work k _ _ _)).trans hkeeps.work,
    (hkeeps.tip k).trans ((showResult_tip k _ _ _ k).trans (s.tip_setTip_same k _)),
    (hfld rfl (by decide) (by decide)).trans (showResult_lo k _ _ _), (hfld rfl (by decide) (by decide)).trans (showResult_hi k _ _ _),
    (hfld rfl (by decide) (by decide)).trans (showResult_count k _ _ _)⟩

theorem nextGate_of_none (h : (s.tip k).ahead = []) : s.nextGate k =
    { s.tip k with gate0 := s.tipGateEnd k, gateN := (s.tip k).gateN - s.tipGate k, edges := 0, tFirst := 0, tLast := 0 } := by
  simp only [Chip.nextGate, Chip.gateRestarted, h, List.foldl_nil]

theorem nextGate_of_one {a : Nat} (h : (s.tip k).ahead = [a]) (hlo : s.tipGateEnd k ≤ a) (hhi : a < s.tipGateEnd k + s.tipGate k * frameFtu) :
    s.nextGate k = { s.tip k with
      gate0 := s.tipGateEnd k, gateN := (s.tip k).gateN - s.tipGate k, edges := 1, tFirst := a, tLast := a, ahead := [] } := by
  unfold Chip.nextGate Chip.gateRestarted
  rw [h, List.foldl_cons, List.foldl_nil]
  generalize s.tipGateEnd k = stop at hlo hhi ⊢
  generalize s.tipGate k * frameFtu = gate at hhi ⊢
  exact gateEdge_inside hlo hhi

end

theorem unsext_natCast (w n : Nat) : unsext w (n : Int) = n % 2 ^ w := by
  unfold unsext
  rw [← Int.natCast_mod, Int.toNat_natCast]

/-! ### The statement -/

theorem exec_tiEdge (n : Fin 8) (r : Bool) (tclk : Fin 2) (f1 f2 : Fin 16) (s : State) :
    exec (.tiEdge n r tclk f1 f2) s = .next { s with chip := tiEdge n r tclk f1 f2 s.chip } := rfl

theorem exec_tiTimeout (k : Fin 4) (s : State) : exec (.tiTimeout k) s = .next { s with chip := tiTimeout k s.chip } := rfl

theorem exec_frequencyGateEnd (k : Fin 4) (s : State) : exec (.frequencyGateEnd k) s = .next { s with chip := gateEnd k s.chip } := rfl

/-- Settles O49: an edge by what the prescaler makes of it, the waiting edges by the insertion that orders them, an edge of a channel by the
channel's mode, and the two rows of a channel, each due or not. -/
theorem timeInputRowsComplete : Obligations.TimeInputRowsComplete := by
  unfold Obligations.TimeInputRowsComplete
  refine ⟨fun n r tclk f1 f2 s => ?_, fun k c upto => ?_, fun k t role c hk hrole => ?_, fun k s => ?_⟩
  · intro c i p here busy wait goes
    have hwait (hup : c.domainUp 5 = true) (hen : c.flag (F.TIP_TI_CFG_EN n) = true) {count : Nat}
        (hp : prescale (c.fld (F.TIP_TI_CFG_PRESC n)) (c.ti n).count r = (none, count)) : wait count := by
      refine ⟨_, exec_tiEdge n r tclk f1 f2 s, ?_⟩
      rw [tiEdge_of_no_output hup hen hp]
      exact ⟨rfl, c.ti_setTi_same n _, fun m hm => c.ti_setTi_ne _ hm⟩
    have hgoes (hup : c.domainUp 5 = true) (hen : c.flag (F.TIP_TI_CFG_EN n) = true) {out : Bool} {count : Nat}
        (hp : prescale (c.fld (F.TIP_TI_CFG_PRESC n)) (c.ti n).count r = (some out, count)) : goes out count := by
      have hexec : exec i s = .next { s with chip := stampEdge n out tclk f1 f2 (setCount n count c) } :=
        (exec_tiEdge n r tclk f1 f2 s).trans (by rw [tiEdge_of_output hup hen hp])
      refine ⟨fun hbusy => ⟨_, hexec, ?_⟩, fun hfree => ⟨_, hexec, ?_⟩⟩
      · have h : EdgeLost n count c _ := stampEdge_lost n.isLt count hbusy
        exact ⟨h.seen, h.tips, h.clk, h.active, h.input, h.lost⟩
      · obtain ⟨t, ht, h⟩ := stampEdge_stamped count hfree
        exact ⟨h.clk, h.active, h.tips, h.others, t, ht, h.input⟩
    refine ⟨fun h => ?_, fun hup hen => ⟨fun hp => ?_, fun hp hr => ?_, fun hp hr => ⟨fun h0 => ?_, fun hhalf => ?_, fun h0 hhalf => ?_⟩⟩⟩
    · rw [exec_tiEdge, tiEdge_of_no_edge h]
    · exact hgoes hup hen (prescale_of_one hp _ r)
    · exact hwait hup hen (hr ▸ prescale_of_falling hp _)
    · refine hgoes hup hen ?_
      rw [hr, prescale_of_rising hp, if_pos h0, h0]
    · have hne : 2 ^ (min 8 (c.fld (F.TIP_TI_CFG_PRESC n)) - 1) ≠ 0 := Nat.two_pow_pos _ |>.ne'
      refine hgoes hup hen ?_
      rw [hr, prescale_of_rising hp, hhalf, if_neg hne, if_pos rfl]
    · refine hwait hup hen ?_
      rw [hr, prescale_of_rising hp, if_neg h0, if_neg hhalf]
  · exact ⟨channelEdges_pairwise c k upto, fun t role => mem_channelEdges c k t role upto, drainTips_queue c⟩
  · intro u mode y gateEnd plus same result
    refine ⟨fun h => takeEdge_of_expired h, fun h hm => ⟨fun hr => takeEdge_armed h hm hr, fun hr hearly => ?_, fun a hr ha hle => ?_,
      fun hr harmed => ?_⟩, fun h hm => ⟨takeEdge_period_prev h hm, fun b hb => ?_⟩, fun h hm => ?_, fun h hm => ⟨takeEdge_count h hm, ?_⟩⟩
    · have hstopped := takeEdge_early h hm hr hearly
      exact ⟨hstopped.early, hstopped.lo, hstopped.tip, hstopped.rearm⟩
    · have hend := takeEdge_ended h hm hk hr ha hle
      exact ⟨⟨hend.lo, hend.hi⟩, hend.early, hend.rearm, hend.subRes, takeEdge_disarmed h hm hk hr ha hle⟩
    · subst hr
      exact takeEdge_rearm h hm harmed
    · have hgiven := takeEdge_period_given (role := role) h hk hm hb
      exact ⟨hgiven.lo, hgiven.hi⟩
    · have hu : u.tip k = gateEdge gateEnd y t := takeEdge_gate h hm
      rw [hu]
      exact ⟨fun ht => gateEdge_before ht, fun h0 ht => gateEdge_after h0 ht, fun h0 ht => gateEdge_inside h0 ht⟩
    · have hgiven := takeEdge_count_given (role := role) h hk hm
      exact ⟨hgiven.lo, hgiven.hi⟩
  · intro c y tmo due gate stop over_ v time
    have hdue : c.tipExpired k c.tiHorizon.toNat = true ↔ due := tipExpired_iff k c _
    refine ⟨fun h => ⟨_, exec_tiTimeout k s, ?_⟩, fun h => ?_, fun h => ⟨_, exec_frequencyGateEnd k s, ?_⟩, fun h => ?_⟩
    · have hexp := expireTip_expired k c
      rw [tiTimeout_of_due k s.chip (hdue.mpr h)]
      exact ⟨hexp.tip, hexp.seen, hexp.timeouts k.isLt, hexp.others, hexp.clk, hexp.active⟩
    · rw [exec_tiTimeout, tiTimeout_of_not_due k s.chip fun hx => h (hdue.mp hx)]
    · have hend := gateEnd_ended k c k.isLt h
      refine ⟨fun ha => ?_, fun a ha hlo hhi => ?_, hend.others, hend.results, ?_, ?_, hend.clk, hend.active⟩
      · rw [hend.tip, nextGate_of_none k c ha]
        rfl
      · rw [hend.tip, nextGate_of_one k c ha hlo hhi]
        rfl
      · rw [hend.lo, unsext_natCast]
        exact Nat.mod_mod_of_dvd _ (by decide)
      · rw [hend.hi, unsext_natCast]
        show c.gateSpan k % 2 ^ 64 / 2 ^ 32 % 2 ^ 32 = c.gateSpan k / 2 ^ 32 % 2 ^ 32
        omega
    · rw [exec_frequencyGateEnd, gateEnd_of_not_over k s.chip h]

end Sys2Proof.Machine
end

section
/-! PROOFS. The calibration engine's starts and quiet windows (R204, R207 to R211, R217): a start by INTERVAL, the end of a dwell, and the
injections of TDCCD and PULSE. -/

namespace Sys2Proof.Machine

/-! ### The tables of the engine -/

section
variable (s : Chip)

theorem Chip.calProc_setProc_same (i : Nat) (x : CalProc) : (setProc i x s).calProc i = x := Table.get_set_same _ _ _ _

theorem Chip.calProc_setProc_ne {i j : Nat} (x : CalProc) (h : j ≠ i) : (setProc i x s).calProc j = s.calProc j :=
  Table.get_set_ne _ _ _ h.symm

theorem Chip.calMay_iff (p pix : Nat) : s.calMay p pix = true ↔
    s.flag (F.PRT_CTL_EN p) = true ∧ pix ≠ 64 ∧ (s.pixLatch (pixKey (rowOf p pix) (colOf p pix))).testBit 6 = false := by
  simp only [Chip.calMay, Bool.and_eq_true, bne_iff_ne, ne_eq, Bool.not_eq_true', and_assoc]

end

/-! ### A start by INTERVAL (R204) -/

section
variable (i : Nat) (s : Chip)

/-- INTERVAL asks for a run of procedure i now. -/
def Chip.IntervalStarts : Prop :=
  i ≠ 5 ∧ s.fld (F.CAL_P_CTL_INTERVAL i) ≠ 0 ∧ s.fld (F.CAL_P_CTL_INTERVAL i) ≤ (s.calProc i).since ∧ (s.calProc i).run = false ∧
    s.flag F.CAL_CTL_EN = true ∧ s.domainUp 6 = true

theorem intervalDue_iff : (s.fld (F.CAL_P_CTL_INTERVAL i) != 0 && decide (s.fld (F.CAL_P_CTL_INTERVAL i) ≤ (s.calProc i).since)
    && !(s.calProc i).run) = true ↔
    s.fld (F.CAL_P_CTL_INTERVAL i) ≠ 0 ∧ s.fld (F.CAL_P_CTL_INTERVAL i) ≤ (s.calProc i).since ∧ (s.calProc i).run = false := by
  simp only [Bool.and_eq_true, bne_iff_ne, ne_eq, decide_eq_true_eq, Bool.not_eq_true', and_assoc]

theorem askRefused_iff : (decide (i = 5) || (s.calProc i).run || !s.flag F.CAL_CTL_EN || !s.domainUp 6) = true ↔
    ¬ (i ≠ 5 ∧ (s.calProc i).run = false ∧ s.flag F.CAL_CTL_EN = true ∧ s.domainUp 6 = true) := by
  simp only [Bool.or_eq_true, decide_eq_true_eq, Bool.not_eq_true', ne_eq, not_and_or, not_not, Bool.not_eq_true, Bool.not_eq_false, or_assoc]

theorem intervalStart_of_starts (h : s.IntervalStarts i) : intervalStart i s = setProc i { s.calProc i with start := true } s := by
  obtain ⟨h5, h0, hsince, hrun, hen, hup⟩ := h
  exact (if_pos ((intervalDue_iff i s).mpr ⟨h0, hsince, hrun⟩)).trans
    (if_neg fun hr => (askRefused_iff i s).mp hr ⟨h5, hrun, hen, hup⟩)

theorem intervalStart_of_not_starts (h : ¬ s.IntervalStarts i) : intervalStart i s = s := by
  unfold intervalStart
  dsimp only
  split
  · next hdue =>
    obtain ⟨h0, hsince, hrun⟩ := (intervalDue_iff i s).mp hdue
    exact if_pos ((askRefused_iff i s).mpr fun ⟨h5, _, hen, hup⟩ => h ⟨h5, h0, hsince, hrun, hen, hup⟩)
  · rfl

end

/-! ### The end of a dwell (R209) -/

section
variable (p : Nat) (s : Chip)

/-- The dwell of the pixel that parterre p probes has reached its length. -/
def Chip.DwellEnds : Prop :=
  s.calRuns 0 = true ∧ s.calMay p (s.probe p).pix = true ∧ max 1 (s.fld F.CAL_THEQ_CFG_DWELL) ≤ (s.probe p).frames

/-- The dwell counted hits enough. -/
def Chip.probeHit : Bool := decide (max 1 (s.fld F.CAL_THEQ_CFG_COUNT) ≤ (s.probe p).count)

/-- The lower end of the interval of the pixel's edge after the dwell. -/
def Chip.probeLo : Int := if s.probeHit p then (s.probe p).trial else (s.probe p).lo

/-- The upper end of the interval of the pixel's edge after the dwell. -/
def Chip.probeHi : Int := if s.probeHit p then (s.probe p).hi else (s.probe p).trial

theorem dwellGoesOn_iff : (!s.calRuns 0 || !s.calMay p (s.probe p).pix || decide ((s.probe p).frames < max 1 (s.fld F.CAL_THEQ_CFG_DWELL)))
    = true ↔ ¬ s.DwellEnds p := by
  simp only [Chip.DwellEnds, Bool.or_eq_true, Bool.not_eq_true', decide_eq_true_eq, not_and_or, Bool.not_eq_true, Nat.not_le, or_assoc]

theorem dwellEnd_of_not_ends (h : ¬ s.DwellEnds p) : dwellEnd p s = s := if_pos ((dwellGoesOn_iff p s).mpr h)

theorem dwellEnd_of_ends (h : s.DwellEnds p) : dwellEnd p s = if s.probeHi p - s.probeLo p > 1 then
      { s with cal := { s.cal with probes := Table.set s.cal.probes p ⟨(s.probe p).pix, s.probeLo p, s.probeHi p, 0, 0⟩ } }
    else { s with cal := { s.cal with
      probes := Table.set s.cal.probes p (freshProbe p ((s.probe p).pix + 1) s)
      edges := Table.set s.cal.edges (pixKey (rowOf p (s.probe p).pix) (colOf p (s.probe p).pix)) (s.probeLo p) } } :=
  if_neg fun hn => (dwellGoesOn_iff p s).mp hn h

end

/-! ### An injection of TDCCD (R211) -/

section
variable (p : Nat) (s : Chip)

/-- A converter of parterre p lacks samples. -/
def Chip.LacksSamples : Prop := ∃ v, v < 4 ∧ 4 * p + v ∈ s.tdcUnits ∧ s.convN (4 * p + v) < s.tdcM

/-- The pixel after the last one that was injected into, in the order of PIX. -/
def Chip.tdcUp : Nat := s.nextPix p (if (s.tdcPulse p).pix = 64 then 0 else (s.tdcPulse p).pix + 1)

/-- The pixel of the next injection: the order begins again after the last unmasked one. -/
def Chip.tdcTarget : Nat := if s.tdcUp p = 64 then s.nextPix p 0 else s.tdcUp p

/-- Parterre p takes an injection in this frame. -/
def Chip.TdcInjects : Prop :=
  s.quietProc = some 1 ∧ s.calMay p (s.tdcTarget p) = true ∧ s.LacksSamples p ∧ (s.tdcPulse p).at_ ≠ s.clk.ticks + 1

theorem lacksSamples_iff : ((List.range 4).any fun v => s.tdcUnits.contains (4 * p + v) && decide (s.convN (4 * p + v) < s.tdcM)) = true ↔
    s.LacksSamples p := by
  simp only [Chip.LacksSamples, List.any_eq_true, List.mem_range, Bool.and_eq_true, List.contains_iff_mem, decide_eq_true_eq]

theorem tdcRests_iff : (s.quietProc != some 1 || !s.calMay p (s.tdcTarget p)
    || !((List.range 4).any fun v => s.tdcUnits.contains (4 * p + v) && decide (s.convN (4 * p + v) < s.tdcM))
    || (s.tdcPulse p).at_ == s.clk.ticks + 1) = true ↔ ¬ s.TdcInjects p := by
  simp only [Chip.TdcInjects, ← lacksSamples_iff, Bool.or_eq_true, Bool.not_eq_true', bne_iff_ne, beq_iff_eq, ne_eq, not_and_or, not_not,
    Bool.not_eq_true, or_assoc]

theorem tdcInjection_of_injects (h : s.TdcInjects p) : tdcInjection p s = { s with cal := { s.cal with
    inj := Table.set s.cal.inj p ⟨s.tdcTarget p, (s.tdcPulse p).pix, s.clk.ticks + 1⟩ } } :=
  if_neg fun hr => (tdcRests_iff p s).mp hr h

theorem tdcInjection_of_not_injects (h : ¬ s.TdcInjects p) : tdcInjection p s = s := if_pos ((tdcRests_iff p s).mpr h)

end

/-! ### An injection of PULSE (R217) -/

section
variable (p : Nat) (s : Chip)

/-- Parterre p takes a test pulse in this frame, 1,024 TCLK after the tick. -/
def Chip.PulseInjects : Prop :=
  s.quietProc = some 4 ∧ s.calMay p (s.pulsePrt p).pix = true ∧ (s.pulsePrt p).at_ ≠ s.clk.ticks + 1 ∧ 512 ≤ s.clk.cclk ∧
    (s.pulsePrt p).shots < max 1 (s.fld F.CAL_PULSE_CFG_PULSES)

/-- Parterre p with a test pulse that goes out now. -/
def Chip.testPulsed : PulsePrt :=
  { s.pulsePrt p with
    shots := (s.pulsePrt p).shots + 1, at_ := s.clk.ticks + 1, got := none, total := (s.pulsePrt p).total + 1
    shot := some ((s.pulsePrt p).pix, s.clk.frame * frameFtu + s.clk.residual + 1024 * 256) }

theorem pulseRests_iff : (s.quietProc != some 4 || !s.calMay p (s.pulsePrt p).pix || (s.pulsePrt p).at_ == s.clk.ticks + 1
    || decide (s.clk.cclk < 512) || decide (max 1 (s.fld F.CAL_PULSE_CFG_PULSES) ≤ (s.pulsePrt p).shots)) = true ↔ ¬ s.PulseInjects p := by
  simp only [Chip.PulseInjects, Bool.or_eq_true, Bool.not_eq_true', bne_iff_ne, beq_iff_eq, decide_eq_true_eq, ne_eq, not_and_or, not_not,
    Bool.not_eq_true, Nat.not_le, Nat.not_lt, or_assoc]

theorem pulseInjection_of_injects (h : s.PulseInjects p) : pulseInjection p s = { s with
    lawn := { s.lawn with charge := some s.calCharge }
    cal := { s.cal with pulses := Table.set s.cal.pulses p (s.testPulsed p) } } :=
  if_neg fun hr => (pulseRests_iff p s).mp hr h

theorem pulseInjection_of_not_injects (h : ¬ s.PulseInjects p) : pulseInjection p s = s := if_pos ((pulseRests_iff p s).mpr h)

end

end Sys2Proof.Machine
end

section
/-! PROOFS. The results of a calibration run (R205, R210 to R218): what a procedure may touch before its results are applied, and what THEQ and
TWFIT propose. -/

namespace Sys2Proof.Machine

/-! ### What a procedure may touch -/

/-- `t` differs from `s` at most in what the results of a run may touch before they are applied (R205): the proposal copy with its error
log, the data and proposals of the engine, and the figures; no value in force, no procedure, and no status register of the engine. -/
structure Proposes (s t : Chip) : Prop where
  active : t.regs.active = s.regs.active
  shadow : t.regs.shadow = s.regs.shadow
  clk : t.clk = s.clk
  lawn : t.lawn = s.lawn
  procs : t.cal.procs = s.cal.procs
  mem : ∀ m, m ≠ 6 → t.mem m = s.mem m
  direct : ∀ a, 0x70000 ≤ a → a < 0x70200 → t.regs.direct.get a = s.regs.direct.get a

section
variable {s t u : Chip}

theorem Proposes.refl (s : Chip) : Proposes s s := ⟨rfl, rfl, rfl, rfl, rfl, fun _ _ => rfl, fun _ _ _ => rfl⟩

theorem Proposes.trans (h : Proposes s t) (k : Proposes t u) : Proposes s u :=
  ⟨k.active.trans h.active, k.shadow.trans h.shadow, k.clk.trans h.clk, k.lawn.trans h.lawn, k.procs.trans h.procs,
    fun m hm => (k.mem m hm).trans (h.mem m hm), fun a ha hb => (k.direct a ha hb).trans (h.direct a ha hb)⟩

/-- A change of the engine's data and proposals, or of the free values. -/
theorem Proposes.same (h : Proposes s t) (hr : u.regs = t.regs := by rfl) (hc : u.clk = t.clk := by rfl) (hl : u.lawn = t.lawn := by rfl)
    (hp : u.cal.procs = t.cal.procs := by rfl) (hm : u.mems = t.mems := by rfl) : Proposes s u :=
  h.trans ⟨by rw [hr], by rw [hr], hc, hl, hp, fun m _ => by unfold Chip.mem; rw [hm], fun a _ _ => by rw [hr]⟩

theorem Proposes.ite {p : Prop} [Decidable p] (h : Proposes s t) (k : Proposes s u) : Proposes s (if p then t else u) := by
  split
  · exact h
  · exact k

theorem Proposes.forAll {α : Type} {l : List α} {g : α → Chip → Chip} (h : Proposes s t)
    (k : ∀ a ∈ l, ∀ x, Proposes s x → Proposes s (g a x)) : Proposes s (forAll l g t) :=
  List.foldlRecOn _ _ h fun x hx a ha => k a ha x hx

theorem Proposes.forN {n : Nat} {g : Nat → Chip → Chip} (h : Proposes s t) (k : ∀ i, ∀ x, Proposes s x → Proposes s (g i x)) :
    Proposes s (forN n g t) := h.forAll fun i _ => k i

theorem Proposes.fld (h : Proposes s t) (f : Fld) (ha : 0x70000 ≤ f.addr) (hb : f.addr < 0x70200) : t.fld f = s.fld f :=
  Chip.fld_congr _ _ f h.active (h.direct _ ha hb)

theorem Proposes.fld_rws (h : Proposes s t) (f : Fld) (hf : f.rws = true) : t.fld f = s.fld f := by
  unfold Chip.fld
  rw [if_pos hf, if_pos hf, h.active]

theorem Proposes.calProc (h : Proposes s t) (i : Nat) : t.calProc i = s.calProc i := congrArg (Table.get _ · i) h.procs

/-- The enabled parterres are below 1,024. -/
theorem Chip.enabledPrts_lt {p : Nat} (h : p ∈ s.enabledPrts) : p < 1024 := List.mem_range.mp (List.mem_filter.mp h).1

/-- `t` differs from `s` in figures alone: the data and the proposals of the engine are those of `s`. -/
structure Shows (s t : Chip) : Prop extends Proposes s t where
  cal : t.cal = s.cal

theorem Shows.refl (s : Chip) : Shows s s := ⟨.refl s, rfl⟩

theorem Shows.trans (h : Shows s t) (k : Shows t u) : Shows s u := ⟨h.toProposes.trans k.toProposes, k.cal.trans h.cal⟩

theorem Proposes.shows (h : Proposes s t) (k : Shows t u) : Proposes s u := h.trans k.toProposes

/-- A figure in a register outside the engine's status registers. -/
theorem Shows.setFld {f : Fld} {v : Nat} (h : Shows s t) (hf : f.addr < 0x70000 ∨ 0x70200 ≤ f.addr) : Shows s (t.setFld f v) :=
  h.trans ⟨⟨rfl, rfl, rfl, rfl, rfl, fun _ _ => rfl, fun a ha hb => t.setFld_direct_ne f v a (by omega)⟩, rfl⟩

theorem Shows.noFigure {f : Fld} (h : Shows s t) (hf : f.addr < 0x70000 ∨ 0x70200 ≤ f.addr) : Shows s (noFigure f t) :=
  Shows.setFld (h.trans (u := t.drawFree.2) ⟨(Proposes.refl t).same, rfl⟩) hf

theorem Shows.ite {p : Prop} [Decidable p] (h : Shows s t) (k : Shows s u) : Shows s (if p then t else u) := by
  split
  · exact h
  · exact k

theorem Shows.forAll {α : Type} {l : List α} {g : α → Chip → Chip} (h : Shows s t) (k : ∀ a ∈ l, ∀ x, Shows s x → Shows s (g a x)) :
    Shows s (forAll l g t) := List.foldlRecOn _ _ h fun x hx a ha => k a ha x hx

end

/-! ### The proposal copy -/

section
variable {s : Chip} {m n : Nat}

theorem poisonBlock_mem_ne (h : n ≠ m) (src b : Nat) : (poisonBlock src m b s).mem n = s.mem n := by
  unfold poisonBlock Chip.mem
  rw [noteUncorrectable_mems]
  exact s.mem_setMem_ne m n _ h.symm

theorem noteCorrected_mem_ne (h : n ≠ m) (kind src k w bit : Nat) (x : Mem) :
    (noteCorrected kind src k w bit (s.setMem m x)).mem n = s.mem n := by
  unfold Chip.mem
  rw [noteCorrected_mems]
  exact s.mem_setMem_ne m n _ h.symm

/-- A block check leaves the other memories alone. -/
theorem blockCheck_mem_ne (h : n ≠ m) (src b : Nat) : (blockCheck src m b s).mem n = s.mem n := by
  unfold blockCheck
  extract_lets x syn
  split
  · split
    · rfl
    · exact poisonBlock_mem_ne h ..
  · split
    · exact noteCorrected_mem_ne h ..
    · split
      · exact noteCorrected_mem_ne h ..
      · exact poisonBlock_mem_ne h ..
  · extract_lets w
    split
    · exact noteCorrected_mem_ne h ..
    · split
      · exact noteCorrected_mem_ne h ..
      · exact poisonBlock_mem_ne h ..
  · exact poisonBlock_mem_ne h ..

/-- An address of the calibration block is no address that an offer of packets touches. -/
theorem shipAddr_cal {a : Nat} (ha : 0x70000 ≤ a) (hb : a < 0x71000) : shipAddr a = false := by
  have hannounce : announceAddr a = false := by
    rw [← Bool.not_eq_true, announceAddr_iff]
    omega
  unfold shipAddr
  rw [hannounce]
  simp only [Bool.false_or, Bool.or_eq_false_iff, Bool.and_eq_false_iff, decide_eq_false_iff_not]
  omega

theorem Ships.proposes {t : Chip} (h : Ships s t) (hm : ∀ k, k ≠ 6 → t.mem k = s.mem k) : Proposes s t :=
  ⟨h.active, h.shadow, h.clk, h.lawn, by rw [h.cal], hm, fun a ha hb => h.direct a (shipAddr_cal ha (by omega))⟩

theorem setMem_proposes (s : Chip) (x : Mem) : Proposes s (s.setMem 6 x) :=
  (setMem_ships s 6 x).proposes fun k hk => s.mem_setMem_ne 6 k x hk.symm

theorem memWrite_proposes (w mask data : Nat) (s : Chip) : Proposes s (memWrite 6 w mask data s) := by
  unfold memWrite
  extract_lets par s1 new s2
  have h1 : Proposes s s1 := .ite (.refl s) ((blockCheck_ships 2 6 _ (by decide) s).proposes fun k hk => blockCheck_mem_ne hk ..)
  have h2 : Proposes s s2 := .ite (h1.trans (setMem_proposes s1 _)) (h1.trans (setMem_proposes s1 _))
  exact .ite h2.same h2

theorem Proposes.proposeByte {t : Chip} (h : Proposes s t) (a v : Nat) : Proposes s (proposeByte a v t) :=
  .ite (h.trans (memWrite_proposes ..)) (h.trans (memWrite_proposes ..))

end

/-! ### The procedures (R210 to R218, R221) -/

section
variable {s : Chip}

/-- A figure of a parterre stands outside the calibration block. -/
theorem prtAddr_outside {p : Nat} (hp : p < 1024) {b : Nat} (hb : b < 0x20040 := by decide) :
    b + 64 * p < 0x70000 ∨ 0x70200 ≤ b + 64 * p := by omega

/-- The edges that a run saw (R210). -/
def Chip.seenEdges (s : Chip) : Table Int := s.cal.edges.filter fun e => decide (0 ≤ e.2) && decide (e.2 ≤ 62)

/-- The shift that brings the mean edge to trim 32 (R210). -/
def trimShift (seen : Table Int) : Int :=
  if seen.isEmpty then 0 else 32 - (2 * (seen.map Prod.snd).sum + (seen.length : Int)) / (2 * (seen.length : Int))

/-- The trims of the edges that were seen, within their limits. -/
def Chip.limitedTrims (s : Chip) : Table (Int × Bool) := s.seenEdges.map fun e => (e.1, limitTo 0 63 (e.2 + trimShift s.seenEdges))

/-- The chip with the trims that THEQ proposes. -/
def proposeTrims (s : Chip) : Chip := { s with cal := { s.cal with pendTrim := s.limitedTrims.map fun t => (t.1, t.2.1.toNat) } }

theorem theqResults_shows (s : Chip) : Shows (proposeTrims s) (theqResults s).2.2.2 := by
  unfold theqResults
  extract_lets es seen n sum delta targets _ s1 of_ s2 lacking
  have hs : proposeTrims s = s1 := rfl
  have h2 : Shows s1 s2 := by
    refine Shows.forAll (.refl s1) fun p hp x hx => ?_
    extract_lets mine m sm sq limit unseen x1
    have hp : p < 1024 := s.enabledPrts_lt hp
    have h1 : Shows s1 x1 := (hx.setFld (prtAddr_outside hp)).setFld (prtAddr_outside hp)
    exact .ite ((h1.noFigure (prtAddr_outside hp)).noFigure (prtAddr_outside hp)) ((h1.setFld (prtAddr_outside hp)).setFld (prtAddr_outside hp))
  clear_value s2
  exact hs ▸ h2

/-- The knots whose pairs suffice (R215). -/
def Chip.fullKnots (s : Chip) : List Nat :=
  s.knotUnits.filter fun j => decide (max 1 (s.fld F.CAL_TW_CFG_MINPAIRS) ≤ (Table.get (0, 0) s.cal.pairs j).2)

/-- The values of those knots, within their limits. -/
def Chip.limitedKnots (s : Chip) : Table (Int × Bool) := s.fullKnots.map fun j =>
  (j, limitTo (-32768) 32767 ((Table.get (0, 0) s.cal.pairs j).1 / ((Table.get (0, 0) s.cal.pairs j).2 : Int)))

/-- The chip with the knots that TWFIT proposes. -/
def proposeKnots (s : Chip) : Chip := { s with cal := { s.cal with pendKnot := s.limitedKnots.map fun v => (v.1, v.2.1) } }

theorem twResults_shows (s : Chip) : Shows (proposeKnots s) (twResults s).2.2.2 :=
  ((Shows.refl (proposeKnots s)).setFld (.inr (by decide))).setFld (.inr (by decide))

/-- The registers of the converters of the parterres stand outside the calibration block. -/
theorem convAddr_outside {c : Nat} (hc : c < 4096) : 0x20000 + 64 * (c / 4) + 0x28 < 0x70000 ∨ 0x70200 ≤ 0x20000 + 64 * (c / 4) + 0x28 := by
  omega

section
variable {t : Chip}

theorem converterResult_proposes (h : Proposes s t) (c m : Nat) : Proposes s (converterResult c m t).2 := by
  unfold converterResult
  extract_lets x dnl s0 bad
  have h0 : Proposes s s0 := by
    unfold s0
    split
    · next hc => exact h.shows ((Shows.refl t).setFld (convAddr_outside hc))
    · exact h
  split
  · exact h0
  · exact h0.forN fun k _ hx => (hx.proposeByte ..).proposeByte ..

theorem densityResults_proposes (h : Proposes s t) (i m : Nat) (units : List Nat) : Proposes s (densityResults i m units t).2.2.2 := by
  unfold densityResults
  extract_lets full r none_ s0 _ s1
  have hr : Proposes s r.2 := List.foldlRecOn (motive := fun b : List Nat × Chip => Proposes s b.2) full _ h
    fun b hb c _ => converterResult_proposes hb c m
  have h0 : Proposes s s0 := by
    refine hr.forAll fun c hc x hx => hx.shows ((Shows.refl x).setFld (convAddr_outside ?_))
    have hc := (List.mem_filter.mp hc).2
    simp only [Bool.and_eq_true, decide_eq_true_eq] at hc
    exact hc.1
  exact h0.same

theorem ecalHit_proposes (h : Proposes s t) (w : Nat) (shared : Bool) : Proposes s (ecalHit w shared t) := .ite h (.ite h h.same)

theorem ecalResults_proposes (h : Proposes s t) : Proposes s (ecalResults t).2.2.2 := by
  have hhits : Proposes s (forAll t.cal.recent (fun q s => ecalHit q.2.1.toNat q.2.2 s) t) := h.forAll fun q _ _ hx => ecalHit_proposes hx ..
  unfold ecalResults
  generalize forAll t.cal.recent _ t = t1 at hhits ⊢
  extract_lets _ _ s0 need prts full vals s1 _ s2
  have h0 : Proposes s s0 := hhits.same
  have h1 : Proposes s s1 := by
    refine h0.shows (Shows.forAll (.refl s0) fun p hp x hx => ?_)
    extract_lets y x1
    have hp : p < 1024 := s0.enabledPrts_lt hp
    have h1 : Shows s0 x1 := .ite (hx.noFigure (prtAddr_outside hp)) (hx.setFld (prtAddr_outside hp))
    exact h1.setFld (prtAddr_outside hp)
  clear_value s1
  exact h1.same

theorem pulseResults_proposes (h : Proposes s t) : Proposes s (pulseResults t).2.2.2 := by
  unfold pulseResults
  extract_lets shots good means lawn diffs vals s1 _ s2 of_ s3 probed
  have h1 : Proposes s s1 := h.forAll fun v _ _ hx => hx.proposeByte ..
  have h2 : Proposes s s2 := h1.same
  have h3 : Shows s2 s3 := by
    refine Shows.forAll (.refl s2) fun p hp x hx => ?_
    extract_lets q mine sq x0 x1 x2
    have hp : p < 1024 := t.enabledPrts_lt hp
    have hx0 : Shows s2 x0 := hx.setFld (prtAddr_outside hp)
    have hx1 : Shows s2 x1 := .ite (hx0.noFigure (prtAddr_outside hp)) (hx0.setFld (prtAddr_outside hp))
    have hx2 : Shows s2 x2 := .ite (hx1.noFigure (prtAddr_outside hp)) (hx1.setFld (prtAddr_outside hp))
    exact .ite (hx2.noFigure (prtAddr_outside hp)) (hx2.setFld (prtAddr_outside hp))
  clear_value s3
  exact h2.shows h3

end

/-- The results of procedure i: its units with data, whether some lack them, whether some were limited or rejected, and the chip that
proposes them. -/
def runResults (i : Nat) (s : Chip) : Nat × Bool × Bool × Chip :=
  match i with
  | 0 => theqResults s
  | 1 => densityResults 1 s.tdcM s.tdcUnits s
  | 2 => twResults s
  | 3 => ecalResults s
  | 4 => pulseResults s
  | 6 => densityResults 6 s.ticdM ticdUnits s
  | _ => apResults s

theorem runResults_proposes (i : Nat) (s : Chip) : Proposes s (runResults i s).2.2.2 := by
  unfold runResults
  split
  · exact ((Proposes.refl s).same (u := proposeTrims s)).shows (theqResults_shows s)
  · exact densityResults_proposes (.refl s) ..
  · exact ((Proposes.refl s).same (u := proposeKnots s)).shows (twResults_shows s)
  · exact ecalResults_proposes (.refl s)
  · exact pulseResults_proposes (.refl s)
  · exact densityResults_proposes (.refl s) ..
  · exact (Proposes.refl s).same

end

end Sys2Proof.Machine
end

section
/-! PROOFS. The end of a calibration run (R205, R222): when it comes, and what its registers, its procedure and the rest of the chip are then. -/

namespace Sys2Proof.Machine

/-! ### Direct registers alone -/

/-- `t` differs from `s` at most in registers that are not RWS. -/
structure DirectOnly (s t : Chip) : Prop where
  rest : t = { s with regs := { s.regs with direct := t.regs.direct } }

section
variable {s t u : Chip}

theorem DirectOnly.refl (s : Chip) : DirectOnly s s := ⟨rfl⟩

theorem DirectOnly.setFld {f : Fld} {v : Nat} (h : DirectOnly s t) : DirectOnly s (t.setFld f v) :=
  ⟨congrArg (fun x : Chip => { x with regs := { x.regs with direct := setFieldOf t.regs.direct f v } }) h.rest⟩

theorem DirectOnly.active (h : DirectOnly s t) : t.regs.active = s.regs.active := congrArg (fun x => x.regs.active) h.rest
theorem DirectOnly.shadow (h : DirectOnly s t) : t.regs.shadow = s.regs.shadow := congrArg (fun x => x.regs.shadow) h.rest
theorem DirectOnly.clk (h : DirectOnly s t) : t.clk = s.clk := congrArg (fun x => x.clk) h.rest
theorem DirectOnly.lawn (h : DirectOnly s t) : t.lawn = s.lawn := congrArg (fun x => x.lawn) h.rest
theorem DirectOnly.mems (h : DirectOnly s t) : t.mems = s.mems := congrArg (fun x => x.mems) h.rest
theorem DirectOnly.cal (h : DirectOnly s t) : t.cal = s.cal := congrArg (fun x => x.cal) h.rest
theorem DirectOnly.wav (h : DirectOnly s t) : t.wav = s.wav := congrArg (fun x => x.wav) h.rest

end

/-! ### The status registers of the engine (R226, R227) -/

/-- A field of CAL_Pi_STAT. -/
def calStatF (i lo w : Nat) : Fld := ⟨0x70108 + 16 * i, lo, w, false⟩

theorem calStat_ne (i : Nat) : 0x70108 + 16 * i ≠ 0x70004 := by omega

theorem Chip.flag_congr {s t : Chip} {f : Fld} (h : t.fld f = s.fld f) : t.flag f = s.flag f := congrArg (· != 0) h

theorem Chip.testBit_congr {s t : Chip} {f : Fld} (i : Nat) (h : t.fld f = s.fld f) : (t.fld f).testBit i = (s.fld f).testBit i :=
  congrArg (·.testBit i) h

section
variable {i lo w lo' w' : Nat} {s : Chip}

/-- The fields of CAL_Pi_STAT do not touch each other. -/
theorem fld_setFld_calStat (v : Nat) (h : lo + w ≤ lo' ∨ lo' + w' ≤ lo := by decide) (hw : 1 ≤ w' := by decide) :
    (s.setFld (calStatF i lo w) v).fld (calStatF i lo' w') = s.fld (calStatF i lo' w') :=
  s.fld_setFld_apart _ _ v (.inr h) hw

theorem fld_setFld_calStat_same (v : Nat) (h : 1 ≤ w ∧ lo + w ≤ 32 := by decide) :
    (s.setFld (calStatF i lo w) v).fld (calStatF i lo w) = v % 2 ^ w := s.fld_setFld_same _ v h rfl

theorem flag_setFlag_calStat_same (b : Bool) (h : lo + 1 ≤ 32 := by decide) :
    (s.setFlag (calStatF i lo 1) b).flag (calStatF i lo 1) = b := flag_setFlag_same s _ b ⟨Nat.le_refl 1, h⟩ rfl

/-- CAL_STAT does not touch CAL_Pi_STAT. -/
theorem fld_setFld_calCommon (v : Nat) : (s.setFld ⟨0x70004, lo', w', false⟩ v).fld (calStatF i lo w) = s.fld (calStatF i lo w) :=
  s.fld_setFld_ne v (calStat_ne i)

/-- CAL_Pi_STAT does not touch CAL_STAT. -/
theorem fld_calCommon_setFld (v : Nat) :
    (s.setFld (calStatF i lo w) v).fld ⟨0x70004, lo', w', false⟩ = s.fld ⟨0x70004, lo', w', false⟩ :=
  s.fld_setFld_ne v (calStat_ne i).symm

/-- RUNNING leaves the other fields of CAL_Pi_STAT alone. -/
theorem showRunning_calStat (b : Bool) (h : 27 + 1 ≤ lo ∨ lo + w ≤ 27 := by decide) (hw : 1 ≤ w := by decide) :
    (showRunning i b s).fld (calStatF i lo w) = s.fld (calStatF i lo w) :=
  (fld_setFld_calCommon _).trans (fld_setFld_calStat _ h hw)

theorem showRunning_flag (b : Bool) : (showRunning i b s).flag (F.CAL_P_STAT_RUNNING i) = b :=
  (Chip.flag_congr (fld_setFld_calCommon (i := i) (lo := 27) (w := 1) _)).trans (flag_setFlag_calStat_same b)

theorem showRunning_bit (hi : i < 8) (b : Bool) : ((showRunning i b s).fld F.CAL_STAT_RUNNING).testBit i = b :=
  Chip.testBit_setBit_same _ b (by decide) rfl hi

/-- PENDING leaves the other fields of CAL_Pi_STAT alone. -/
theorem showPending_calStat (b : Bool) (h : 26 + 1 ≤ lo ∨ lo + w ≤ 26 := by decide) (hw : 1 ≤ w := by decide) :
    (showPending i b s).fld (calStatF i lo w) = s.fld (calStatF i lo w) :=
  (fld_setFld_calCommon _).trans (fld_setFld_calStat _ h hw)

theorem showPending_flag (b : Bool) : (showPending i b s).flag (F.CAL_P_STAT_PENDING i) = b :=
  (Chip.flag_congr (fld_setFld_calCommon (i := i) (lo := 26) (w := 1) _)).trans (flag_setFlag_calStat_same b)

theorem showPending_bit (hi : i < 8) (b : Bool) : ((showPending i b s).fld F.CAL_STAT_PENDING).testBit i = b :=
  Chip.testBit_setBit_same _ b (by decide) rfl hi

theorem showPending_runningField (b : Bool) : (showPending i b s).fld F.CAL_STAT_RUNNING = s.fld F.CAL_STAT_RUNNING :=
  (Chip.fld_setFld_apart _ _ _ _ (by decide) (by decide)).trans (fld_calCommon_setFld _)

/-! ### A result -/

/-- RESULT, RUNS and FALLBACK at the end of a run (R205, R226). -/
def giveResult (i code : Nat) (fallback : Bool) (s : Chip) : Chip :=
  ((s.setFld (F.CAL_P_STAT_RESULT i) code).bump (F.CAL_P_STAT_RUNS i)).setFlag (F.CAL_P_STAT_FALLBACK i) fallback

section
variable (code : Nat) (b : Bool)

theorem giveResult_result : (giveResult i code b s).fld (F.CAL_P_STAT_RESULT i) = code % 16 :=
  (fld_setFld_calStat (lo := 25) (w := 1) _).trans ((fld_setFld_calStat (lo := 0) (w := 16) _).trans (fld_setFld_calStat_same _))

theorem giveResult_runs : (giveResult i code b s).fld (F.CAL_P_STAT_RUNS i) = satTo 16 (s.fld (F.CAL_P_STAT_RUNS i) + 1) :=
  (fld_setFld_calStat (lo := 25) (w := 1) _).trans ((Chip.fld_bump_same _ (calStatF i 0 16) (by decide : 1 ≤ 16 ∧ 0 + 16 ≤ 32) rfl).trans
    (congrArg (fun n => satTo 16 (n + 1)) (fld_setFld_calStat (lo := 28) (w := 4) code)))

theorem giveResult_fallback : (giveResult i code b s).flag (F.CAL_P_STAT_FALLBACK i) = b := flag_setFlag_calStat_same b

/-- A result leaves RUNNING and PENDING alone. -/
theorem giveResult_calStat (h : 26 ≤ lo ∧ lo + w ≤ 28 := by decide) (hw : 1 ≤ w := by decide) :
    (giveResult i code b s).fld (calStatF i lo w) = s.fld (calStatF i lo w) :=
  (fld_setFld_calStat (lo := 25) (w := 1) _ (.inl (by omega)) hw).trans
    ((fld_setFld_calStat (lo := 0) (w := 16) _ (.inl (by omega)) hw).trans (fld_setFld_calStat (lo := 28) (w := 4) code (.inr h.2) hw))

theorem giveResult_calCommon : (giveResult i code b s).fld ⟨0x70004, lo, w, false⟩ = s.fld ⟨0x70004, lo, w, false⟩ :=
  (fld_calCommon_setFld _).trans ((fld_calCommon_setFld _).trans (fld_calCommon_setFld _))

end

end

theorem DirectOnly.showRunning {s t : Chip} (h : DirectOnly s t) (i : Nat) (b : Bool) : DirectOnly s (showRunning i b t) :=
  (h.setFld (f := F.CAL_P_STAT_RUNNING i)).setFld

theorem DirectOnly.showPending {s t : Chip} (h : DirectOnly s t) (i : Nat) (b : Bool) : DirectOnly s (showPending i b t) :=
  (h.setFld (f := F.CAL_P_STAT_PENDING i)).setFld

theorem DirectOnly.giveResult {s t : Chip} (h : DirectOnly s t) (i code : Nat) (b : Bool) : DirectOnly s (giveResult i code b t) :=
  ((h.setFld (f := F.CAL_P_STAT_RESULT i) (v := code)).setFld (f := F.CAL_P_STAT_RUNS i)).setFld

/-! ### A run that is closed -/

/-- Procedure i after the end of its run (R205, R222). -/
def Chip.endedProc (s : Chip) (i : Nat) : CalProc :=
  { s.calProc i with run := false, since := 0, pend := true, applyIn := if s.flag (F.CAL_P_CTL_AUTO i) then some 2 else none }

/-- The procedure and the status registers at the end of a run. -/
def closeRun (i code : Nat) (fallback : Bool) (s : Chip) : Chip :=
  giveResult i code fallback (showPending i true (showRunning i false (setProc i (s.endedProc i) s)))

/-- `u` is `s` after the end of a run of procedure i with a result. -/
structure RunClosed (i : Nat) (fallback : Bool) (result : Nat) (s u : Chip) : Prop where
  active : u.regs.active = s.regs.active
  shadow : u.regs.shadow = s.regs.shadow
  clk : u.clk = s.clk
  lawn : u.lawn = s.lawn
  mems : u.mems = s.mems
  cal : u.cal = (setProc i (s.endedProc i) s).cal
  running : u.flag (F.CAL_P_STAT_RUNNING i) = false
  pending : u.flag (F.CAL_P_STAT_PENDING i) = true
  runningBit : (u.fld F.CAL_STAT_RUNNING).testBit i = false
  pendingBit : (u.fld F.CAL_STAT_PENDING).testBit i = true
  runs : u.fld (F.CAL_P_STAT_RUNS i) = satTo 16 (s.fld (F.CAL_P_STAT_RUNS i) + 1)
  fallback : u.flag (F.CAL_P_STAT_FALLBACK i) = fallback
  result : u.fld (F.CAL_P_STAT_RESULT i) = result

section
variable {i code : Nat} {fb : Bool} {s u v : Chip}

theorem closeRun_directOnly : DirectOnly (setProc i (s.endedProc i) s) (closeRun i code fb s) :=
  (((DirectOnly.refl _).showRunning i false).showPending i true).giveResult i code fb

theorem closeRun_closed (hi : i < 8) (hcode : code < 16) : RunClosed i fb code s (closeRun i code fb s) where
  active := closeRun_directOnly.active
  shadow := closeRun_directOnly.shadow
  clk := closeRun_directOnly.clk
  lawn := closeRun_directOnly.lawn
  mems := closeRun_directOnly.mems
  cal := closeRun_directOnly.cal
  running := (Chip.flag_congr ((giveResult_calStat (lo := 27) (w := 1) code fb).trans (showPending_calStat true))).trans (showRunning_flag false)
  pending := (Chip.flag_congr (giveResult_calStat (lo := 26) (w := 1) code fb)).trans (showPending_flag true)
  runningBit := (Chip.testBit_congr i ((giveResult_calCommon code fb).trans (showPending_runningField true))).trans (showRunning_bit hi false)
  pendingBit := (Chip.testBit_congr i (giveResult_calCommon code fb)).trans (showPending_bit hi true)
  runs := (giveResult_runs code fb).trans (congrArg (fun n => satTo 16 (n + 1))
    ((showPending_calStat (lo := 0) (w := 16) true).trans (showRunning_calStat false)))
  fallback := giveResult_fallback code fb
  result := (giveResult_result code fb).trans (Nat.mod_eq_of_lt hcode)

/-- Another result in the place of the first. -/
theorem RunClosed.setResult {result : Nat} (h : RunClosed i fb code s u) (hresult : result < 16) :
    RunClosed i fb result s (u.setFld (F.CAL_P_STAT_RESULT i) result) where
  active := h.active
  shadow := h.shadow
  clk := h.clk
  lawn := h.lawn
  mems := h.mems
  cal := h.cal
  running := (Chip.flag_congr (fld_setFld_calStat (lo' := 27) (w' := 1) _)).trans h.running
  pending := (Chip.flag_congr (fld_setFld_calStat (lo' := 26) (w' := 1) _)).trans h.pending
  runningBit := (Chip.testBit_congr i (fld_calCommon_setFld _)).trans h.runningBit
  pendingBit := (Chip.testBit_congr i (fld_calCommon_setFld _)).trans h.pendingBit
  runs := (fld_setFld_calStat _).trans h.runs
  fallback := (Chip.flag_congr (fld_setFld_calStat (lo' := 25) (w' := 1) _)).trans h.fallback
  result := (fld_setFld_calStat_same _).trans (Nat.mod_eq_of_lt hresult)

/-- What announces leaves the run closed. -/
theorem RunClosed.announces (h : RunClosed i fb code s u) (hi : i < 8) (k : Announces u v) : RunClosed i fb code s v := by
  have hstat : announceAddr (0x70108 + 16 * i) = false := announceAddr_of_shipAddr (shipAddr_cal (by omega) (by omega))
  have hfld {lo w : Nat} : v.fld (calStatF i lo w) = u.fld (calStatF i lo w) := k.fld _ hstat
  have hflag {lo w : Nat} : v.flag (calStatF i lo w) = u.flag (calStatF i lo w) := k.flag _ hstat
  exact ⟨k.active.trans h.active, k.shadow.trans h.shadow, k.clk.trans h.clk, k.lawn.trans h.lawn, k.mems.trans h.mems, k.cal.trans h.cal,
    hflag.trans h.running, hflag.trans h.pending, (Chip.testBit_congr i (k.fld _ (by decide))).trans h.runningBit,
    (Chip.testBit_congr i (k.fld _ (by decide))).trans h.pendingBit, hfld.trans h.runs, hflag.trans h.fallback, hfld.trans h.result⟩

end

/-! ### CAL_RUN_END -/

section
variable (i : Nat) (s : Chip)

/-- The result code of a run (R205): 3 where some results were limited or rejected, 2 where some units lack data, else 1. -/
def Chip.resultCode : Nat := if (runResults i s).2.2.1 then 3 else if (runResults i s).2.1 then 2 else 1

/-- The run with its results, closed. -/
def Chip.closedRun : Chip := closeRun i (s.resultCode i) (s.usedFallback i) (runResults i s).2.2.2

theorem runEnd_of_not_ends (h : s.calEnds i = false) : runEnd i s = s := if_pos (by rw [h]; rfl)

theorem runEnd_of_ends (h : s.calEnds i = true) : runEnd i s = if s.resultCode i = 1 then raise EV.CAL_DONE (s.closedRun i)
    else raise EV.CAL_INCOMPLETE (if (runResults i s).1 = 0 && i = 0 then (s.closedRun i).setFld (F.CAL_P_STAT_RESULT 0) 2
      else s.closedRun i) :=
  if_neg (by rw [h]; decide)

theorem calEnds_iff : s.calEnds i = true ↔ (s.calProc i).run = true ∧ s.flag F.CAL_CTL_EN = true ∧ s.domainUp 6 = true ∧
    (s.calComplete i = true ∨ (if i = 1 then 2 * max 1 (s.fld (F.CAL_P_MAX_FRAMES i)) else max 1 (s.fld (F.CAL_P_MAX_FRAMES i))) ≤
      (s.calProc i).age) := by
  simp only [Chip.calEnds, Chip.calRuns, Bool.and_eq_true, Bool.or_eq_true, decide_eq_true_eq, and_assoc]

theorem resultCode_bounds : 1 ≤ s.resultCode i ∧ s.resultCode i ≤ 3 := by
  unfold Chip.resultCode
  split
  · decide
  · split <;> decide

theorem runEnd_ended (hi : i < 8) (h : s.calEnds i = true) : ∃ r, 1 ≤ r ∧ r ≤ 3 ∧
    RunClosed i (s.usedFallback i) r (runResults i s).2.2.2 (runEnd i s) ∧ (r = 1 → (runEnd i s).eventSeen EV.CAL_DONE = true) ∧
    (r ≠ 1 → (runEnd i s).eventSeen EV.CAL_INCOMPLETE = true) := by
  obtain ⟨hlo, hhi⟩ := resultCode_bounds i s
  have hclosed : RunClosed i (s.usedFallback i) (s.resultCode i) (runResults i s).2.2.2 (s.closedRun i) := closeRun_closed hi (by omega)
  rw [runEnd_of_ends i s h]
  split
  · next hone =>
    exact ⟨_, hlo, hhi, hclosed.announces hi (raise_announces _ (by decide) _), fun _ => raise_seen _ (by decide) _, fun hne => absurd hone hne⟩
  · next hne =>
    have hseen (t : Chip) : (raise EV.CAL_INCOMPLETE t).eventSeen EV.CAL_INCOMPLETE = true := raise_seen _ (by decide) t
    split
    · next hnone =>
      obtain rfl : i = 0 := of_decide_eq_true ((Bool.and_eq_true _ _).mp hnone).2
      exact ⟨2, by decide, by decide, (hclosed.setResult (by decide)).announces hi (raise_announces _ (by decide) _),
        fun h => absurd h (by decide), fun _ => hseen _⟩
    · exact ⟨_, hlo, hhi, hclosed.announces hi (raise_announces _ (by decide) _), fun hone => absurd hone hne, fun _ => hseen _⟩

end

end Sys2Proof.Machine
end

section
/-! PROOFS. The slices (R219, R220): a window that is judged moves each target by at most one code, and the end of the foreground fall-back. -/

namespace Sys2Proof.Machine

/-! ### The state of a slice -/

section
variable (s : Chip)

theorem Chip.sliceSt_setSlice_same (i : Nat) (x : SliceSt) : (setSlice i x s).sliceSt i = x := Table.get_set_same _ _ _ _

theorem Chip.sliceSt_setSlice_ne {i m : Nat} (x : SliceSt) (h : m ≠ i) : (setSlice i x s).sliceSt m = s.sliceSt m :=
  Table.get_set_ne _ _ _ h.symm

theorem Chip.sliceSt_congr {s t : Chip} (hs : t.cal.slices = s.cal.slices) (ha : t.regs.active = s.regs.active) (m : Nat) :
    t.sliceSt m = s.sliceSt m := by
  have hfld {f : Fld} (hf : f.rws = true) : t.fld f = s.fld f := by simp [Chip.fld, hf, ha]
  unfold Chip.sliceSt
  rw [hs, hfld rfl, hfld rfl, hfld rfl]

theorem DirectOnly.sliceSt {s t : Chip} (h : DirectOnly s t) (m : Nat) : t.sliceSt m = s.sliceSt m :=
  Chip.sliceSt_congr (congrArg Cal.slices h.cal) h.active m

theorem setSlice_keeps (l : List Nat) (i : Nat) (x : SliceSt) : Keeps l s (setSlice i x s) := .same rfl rfl rfl rfl

end

/-- A target moves by at most one code. -/
theorem moveTrim_near {t : Int} (hlo : -512 ≤ t) (hhi : t ≤ 511) (above below : Bool) : (moveTrim t above below - t).natAbs ≤ 1 := by
  unfold moveTrim
  split
  · omega
  · split <;> omega

/-! ### A window that is judged (R219) -/

/-- The registers of a slice are of the calibration block, and no event status registers. -/
theorem slice_pages {i : Nat} (hi : i < 8) : pages [0x70] (0x70304 + 8 * i) = true ∧ statAddr (0x70304 + 8 * i) = false := by
  have hpage : (0x70304 + 8 * i) / 4096 = 0x70 := by omega
  exact ⟨by unfold pages; rw [hpage]; simp, statAddr_indexed⟩

/-- What a judged window shows (R219, R222): the targets, the quality of the slice, and AGE that starts again. -/
def showJudged (i : Nat) (y : SliceSt) (inside : Bool) (spur : Nat) (s : Chip) : Chip :=
  let s2 := ((setSlice i y s).setFlag (F.CAL_SL_Q_STALE i) false).setFld (F.CAL_P_AGE_FRAMES 5) 0
  let s3 := if !inside then s2.setFlag (F.CAL_SL_Q_CONVERGED i) false
    else if 16 ≤ y.good then s2.setFlag (F.CAL_SL_Q_CONVERGED i) true else s2
  s3.setFld (F.CAL_SL_Q_SPUR i) spur

/-- A target that stays, or moves one step. -/
def Steps (t v : Int) : Prop := v = t ∨ ∃ above below, v = moveTrim t above below

theorem Steps.near {t v : Int} (h : Steps t v) (hlo : -512 ≤ t) (hhi : t ≤ 511) : (v - t).natAbs ≤ 1 := by
  rcases h with rfl | ⟨above, below, rfl⟩
  · omega
  · exact moveTrim_near hlo hhi above below

/-- `y` has targets at most one step from those of `x`. -/
structure StepsFrom (x y : SliceSt) : Prop where
  due : y.due = x.due
  offset : Steps x.offset y.offset
  gain : Steps x.gain y.gain
  skew : Steps x.skew y.skew

theorem StepsFrom.refl (x : SliceSt) : StepsFrom x x := ⟨rfl, .inl rfl, .inl rfl, .inl rfl⟩

section
variable {i : Nat} {win : Table (List (Nat × Int))} {s : Chip}

/-- A window of a slice of no channel is not judged; one without codes, or with codes too quiet, makes the slice STALE; any other is judged. -/
theorem judgeSlice_cases (i : Nat) (win : Table (List (Nat × Int))) (s : Chip) :
    judgeSlice i win s = s ∨ judgeSlice i win s = s.setFlag (F.CAL_SL_Q_STALE i) true ∨
    ((∃ c, Table.get [] win c ≠ []) ∧ ∃ y inside spur n, StepsFrom (s.sliceSt i) y ∧
      judgeSlice i win s = showJudged i y inside spur { s with free := n }) := by
  unfold judgeSlice
  split
  · exact .inl rfl
  · next c hc =>
    right
    extract_lets slices l isAt codesOf all mean sq minrms absOf low off skew a a0
    split
    · exact .inl rfl
    · next hloud =>
      right
      have hcodes : Table.get [] win c ≠ [] := by
        rintro hnone
        refine hloud ?_
        have : all = [] := by unfold all l; rw [hnone]; rfl
        rw [this]
        rfl
      refine ⟨⟨c, hcodes⟩, ?_⟩
      refine ⟨_, _, _, _, ?_, rfl⟩
      exact ⟨rfl, .inr ⟨_, _, rfl⟩, .inr ⟨_, _, rfl⟩, .inr ⟨_, _, rfl⟩⟩

/-- `u` is `s` after the judging of a window of slice i. -/
structure SliceJudged (i : Nat) (s u : Chip) : Prop where
  keeps : Keeps [0x70] s u
  mems : u.mems = s.mems
  others : ∀ m, m ≠ i → u.sliceSt m = s.sliceSt m
  own : StepsFrom (s.sliceSt i) (u.sliceSt i) ∧
    (u.sliceSt i ≠ s.sliceSt i → u.fld (F.CAL_P_AGE_FRAMES 5) = 0 ∧ u.flag (F.CAL_SL_Q_STALE i) = false)

theorem SliceJudged.of_stay {i : Nat} {s u : Chip} (hk : Keeps [0x70] s u) (hm : u.mems = s.mems) (hs : ∀ m, u.sliceSt m = s.sliceSt m) :
    SliceJudged i s u :=
  ⟨hk, hm, fun m _ => hs m, by rw [hs]; exact .refl _, fun hne => absurd (hs i) hne⟩

theorem SliceJudged.refl (i : Nat) (s : Chip) : SliceJudged i s s := .of_stay (.refl _ s) rfl fun _ => rfl

theorem setStale_judged (hi : i < 8) (b : Bool) (s : Chip) : SliceJudged i s (s.setFlag (F.CAL_SL_Q_STALE i) b) :=
  .of_stay (Keeps.setFld _ s _ _ (slice_pages hi).1 (slice_pages hi).2) rfl (DirectOnly.sliceSt (.setFld (.refl s)))

/-- CONVERGED and SPUR stand beside STALE. -/
theorem SliceJudged.setQuality {u : Chip} (h : SliceJudged i s u) (hi : i < 8) {f : Fld} (v : Nat) (hf : f.addr = 0x70304 + 8 * i)
    (hapart : f.apart (F.CAL_SL_Q_STALE i)) : SliceJudged i s (u.setFld f v) := by
  have hpages := slice_pages hi
  have hslice (m : Nat) : (u.setFld f v).sliceSt m = u.sliceSt m := DirectOnly.sliceSt (.setFld (.refl u)) m
  have hage : (F.CAL_P_AGE_FRAMES 5).addr ≠ f.addr := by
    rw [hf]
    show 0x7010C + 16 * 5 ≠ _
    omega
  refine ⟨h.keeps.trans (Keeps.setFld _ u f v (hf ▸ hpages.1) (hf ▸ hpages.2)), h.mems, fun m hm => (hslice m).trans (h.others m hm), ?_⟩
  rw [hslice, u.fld_setFld_ne v hage, flag_setFld_apart u f _ v hapart (Nat.le_refl 1)]
  exact h.own

theorem setTargets_judged (hi : i < 8) {y : SliceSt} (h : StepsFrom (s.sliceSt i) y) :
    SliceJudged i s (((setSlice i y s).setFlag (F.CAL_SL_Q_STALE i) false).setFld (F.CAL_P_AGE_FRAMES 5) 0) := by
  have hpages := slice_pages hi
  have hage : (F.CAL_SL_Q_STALE i).addr ≠ (F.CAL_P_AGE_FRAMES 5).addr := by
    show 0x70304 + 8 * i ≠ 0x7010C + 16 * 5
    omega
  have hslice := DirectOnly.sliceSt (((DirectOnly.refl (setSlice i y s)).setFld (f := F.CAL_SL_Q_STALE i) (v := b2n false)).setFld
    (f := F.CAL_P_AGE_FRAMES 5) (v := 0))
  have hstale : ((setSlice i y s).setFlag (F.CAL_SL_Q_STALE i) false).flag (F.CAL_SL_Q_STALE i) = false :=
    flag_setFlag_same _ _ _ (by simp [Fld.fits, F.CAL_SL_Q_STALE]) rfl
  refine ⟨?_, rfl, fun m hm => (hslice m).trans (s.sliceSt_setSlice_ne y hm), ?_,
    fun _ => ⟨Chip.fld_setFld_word _ 0, ?_⟩⟩
  · exact (setSlice_keeps _ _ i y).trans ((Keeps.setFld _ _ (F.CAL_SL_Q_STALE i) _ hpages.1 hpages.2).trans
      (Keeps.setFld _ _ (F.CAL_P_AGE_FRAMES 5) _ (by decide) (by decide)))
  · exact ((hslice i).trans (s.sliceSt_setSlice_same i y)).symm ▸ h
  · exact (Chip.flag_congr (Chip.fld_setFld_ne _ _ hage)).trans hstale

theorem showJudged_judged (hi : i < 8) {y : SliceSt} (h : StepsFrom (s.sliceSt i) y) (inside : Bool) (spur : Nat) :
    SliceJudged i s (showJudged i y inside spur s) := by
  have hconv : (F.CAL_SL_Q_CONVERGED i).apart (F.CAL_SL_Q_STALE i) := .inr (.inr (Nat.le_refl 31))
  have hspur : (F.CAL_SL_Q_SPUR i).apart (F.CAL_SL_Q_STALE i) := .inr (.inl (by show 0 + 8 ≤ 30; decide))
  unfold showJudged
  extract_lets s2 s3
  have h2 : SliceJudged i s s2 := setTargets_judged hi h
  have h3 : SliceJudged i s s3 := by
    unfold s3
    split
    · exact h2.setQuality hi _ rfl hconv
    · split
      · exact h2.setQuality hi _ rfl hconv
      · exact h2
  exact h3.setQuality hi _ rfl hspur

theorem judgeSlice_judged (hi : i < 8) : SliceJudged i s (judgeSlice i win s) := by
  rcases judgeSlice_cases i win s with h | h | ⟨-, y, inside, spur, n, hsteps, h⟩
  · rw [h]
    exact .refl i s
  · rw [h]
    exact setStale_judged hi true s
  · have hj := showJudged_judged (s := { s with free := n }) hi hsteps inside spur
    have hfree : Keeps [0x70] s { s with free := n } := .same rfl rfl rfl rfl
    rw [h]
    exact ⟨hfree.trans hj.keeps, hj.mems, hj.others, hj.own⟩

/-- A window without codes moves no target. -/
theorem judgeSlice_of_no_codes (h : ∀ c, Table.get [] win c = []) : (judgeSlice i win s).sliceSt i = s.sliceSt i := by
  rcases judgeSlice_cases i win s with hj | hj | ⟨⟨c, hc⟩, -⟩
  · rw [hj]
  · rw [hj]
    exact DirectOnly.sliceSt (.setFld (.refl s)) i
  · exact absurd (h c) hc

end

/-! ### SLICE_WINDOW_END -/

section
variable (i : Nat) (s : Chip)

/-- The chip with the window of slice i taken. -/
def takeWindow : Chip := setSlice i { s.sliceSt i with due := false } s

theorem sliceWindowEnd_of_due (h : (s.sliceSt i).due = true) : sliceWindowEnd i s = judgeSlice i s.cal.winReady (takeWindow i s) :=
  if_neg (by rw [h]; decide)

theorem sliceWindowEnd_of_not_due (h : (s.sliceSt i).due = false) : sliceWindowEnd i s = s := if_pos (by rw [h]; rfl)

end

/-! ### SLICE_FALLBACK_END (R220) -/

/-- Channel c settles as for a new setting (R149). -/
def Chip.Settles (s : Chip) (c : Nat) : Prop := (s.wch c).settle = max 1 (s.fld F.WAV_SETTLE_FRAMES) ∧ (s.wch c).open_ = false

/-- `u` differs from `s` at most in the waveform channels, their windows, and the registers of the waveform and calibration blocks; channels that
settle go on settling. -/
structure Leaves (s u : Chip) : Prop where
  keeps : Keeps [0x40, 0x70] s u
  mems : u.mems = s.mems
  ext : u.cal.ext = s.cal.ext
  status : ∀ lo w, u.fld (calStatF 5 lo w) = s.fld (calStatF 5 lo w)
  settles : ∀ c, s.Settles c → u.Settles c

theorem Leaves.refl (s : Chip) : Leaves s s := ⟨.refl _ s, rfl, rfl, fun _ _ => rfl, fun _ h => h⟩

theorem Leaves.trans {s t u : Chip} (h : Leaves s t) (k : Leaves t u) : Leaves s u :=
  ⟨h.keeps.trans k.keeps, k.mems.trans h.mems, k.ext.trans h.ext, fun lo w => (k.status lo w).trans (h.status lo w),
    fun c hc => k.settles c (h.settles c hc)⟩

/-- The waveform channels of a chip. -/
theorem Chip.settles_congr {s t : Chip} (hw : t.wav = s.wav) (ha : t.regs.active = s.regs.active) {c : Nat} (h : s.Settles c) :
    t.Settles c := by
  have hfld : t.fld F.WAV_SETTLE_FRAMES = s.fld F.WAV_SETTLE_FRAMES := congrArg (fieldOf · _) ha
  unfold Chip.Settles
  rw [Chip.wch_congr hw, hfld]
  exact h

/-- The codes of channel c that wait to be judged are dropped. -/
def dropCodes (c : Nat) (s : Chip) : Chip := { s with cal := { s.cal with win := Table.set s.cal.win c [] } }

/-- Channel c as it starts to settle. -/
def Chip.settling (s : Chip) (c : Nat) : WavCh := { s.wch c with settle := max 1 (s.fld F.WAV_SETTLE_FRAMES), open_ := false, prev := none }

theorem startSettling_eq (c : Nat) (s : Chip) :
    startSettling c s = setWch c (s.settling c) ((dropCodes c s).setBit F.WAV_STAT_SETTLING c true) := rfl

theorem dropCodes_leaves (c : Nat) (s : Chip) : Leaves s (dropCodes c s) :=
  ⟨.same rfl rfl rfl rfl, rfl, rfl, fun _ _ => rfl, fun _ h => Chip.settles_congr rfl rfl h⟩

theorem setSettling_leaves (c : Nat) (b : Bool) (s : Chip) : Leaves s (s.setBit F.WAV_STAT_SETTLING c b) :=
  ⟨Keeps.setFld _ s _ _ (by decide) (by decide), rfl, rfl, fun _ _ => s.fld_setFld_ne _ (show 0x70108 + 16 * 5 ≠ 0x40004 by decide),
    fun _ h => Chip.settles_congr rfl rfl h⟩

theorem startSettling_settles (c : Nat) (s : Chip) : (startSettling c s).Settles c := by
  unfold Chip.Settles
  rw [startSettling_eq, Chip.wch_setWch_same]
  exact ⟨rfl, rfl⟩

theorem startSettling_leaves (c : Nat) (s : Chip) : Leaves s (startSettling c s) := by
  have h := (dropCodes_leaves c s).trans (setSettling_leaves c true _)
  refine ⟨h.keeps.trans (.same rfl rfl rfl rfl), h.mems, h.ext, h.status, fun k hk => ?_⟩
  by_cases hkc : k = c
  · rw [hkc]
    exact startSettling_settles c s
  · have hset := h.settles k hk
    unfold Chip.Settles at hset ⊢
    rw [startSettling_eq, Chip.wch_setWch_ne _ _ hkc]
    exact hset

/-- Every channel of a list settles. -/
theorem forAll_startSettling (l : List Nat) (s : Chip) :
    Leaves s (forAll l startSettling s) ∧ ∀ c ∈ l, (forAll l startSettling s).Settles c := by
  induction l generalizing s with
  | nil => exact ⟨.refl s, fun c hc => absurd hc (List.not_mem_nil)⟩
  | cons a l ih =>
    obtain ⟨hleaves, hall⟩ := ih (startSettling a s)
    refine ⟨(startSettling_leaves a s).trans hleaves, fun c hc => ?_⟩
    rcases List.mem_cons.mp hc with rfl | hc
    · exact hleaves.settles c (startSettling_settles c s)
    · exact hall c hc

/-- The foreground fall-back is over. -/
def dropExt (s : Chip) : Chip := { s with cal := { s.cal with ext := none, extFirst := false, win := [], winFrames := 0 } }

theorem leaveExt_eq (s : Chip) : leaveExt s = showRunning 5 false (forAll s.waveUnits startSettling (dropExt s)) := rfl

theorem giveResult_keeps (code : Nat) (b : Bool) (s : Chip) : Keeps [0x40, 0x70] s (giveResult 5 code b s) :=
  ((Keeps.setFld _ s _ _ (by decide) (by decide)).trans (Keeps.setFld _ _ _ _ (by decide) (by decide))).trans
    (Keeps.setFld _ _ _ _ (by decide) (by decide))

/-- `u` is `s` after the end of the foreground fall-back. -/
structure FallbackEnded (s u : Chip) : Prop where
  keeps : Keeps [0x40, 0x70] s u
  mems : u.mems = s.mems
  ext : u.cal.ext = none
  result : u.fld (F.CAL_P_STAT_RESULT 5) = if s.cal.extSeen then 1 else 2
  runs : u.fld (F.CAL_P_STAT_RUNS 5) = satTo 16 (s.fld (F.CAL_P_STAT_RUNS 5) + 1)
  fallback : u.flag (F.CAL_P_STAT_FALLBACK 5) = s.cal.extSeen
  running : u.flag (F.CAL_P_STAT_RUNNING 5) = false
  settles : ∀ c ∈ s.waveUnits, u.Settles c

/-- The channels left, and the result of the fall-back. -/
def closeFallback (s : Chip) : Chip := giveResult 5 (if s.cal.extSeen then 1 else 2) s.cal.extSeen (leaveExt s)

theorem closeFallback_ended (s : Chip) : FallbackEnded s (closeFallback s) := by
  obtain ⟨hleaves, hall⟩ := forAll_startSettling s.waveUnits (dropExt s)
  have hdrop : Keeps [0x40, 0x70] s (dropExt s) := .same rfl rfl rfl rfl
  have hcode : (if s.cal.extSeen then 1 else 2) < 16 := by split <;> decide
  unfold closeFallback
  rw [leaveExt_eq]
  generalize forAll s.waveUnits startSettling (dropExt s) = t at hleaves hall
  have hshow : Keeps [0x40, 0x70] t (showRunning 5 false t) :=
    (Keeps.setFld _ t _ _ (by decide) (by decide)).trans (Keeps.setFld _ _ _ _ (by decide) (by decide))
  have hregs := ((DirectOnly.refl t).showRunning 5 false).giveResult 5 (if s.cal.extSeen then 1 else 2) s.cal.extSeen
  exact {
    keeps := ((hdrop.trans hleaves.keeps).trans hshow).trans (giveResult_keeps _ _ _)
    mems := hregs.mems.trans hleaves.mems
    ext := (congrArg Cal.ext hregs.cal).trans hleaves.ext
    result := (giveResult_result _ _).trans (Nat.mod_eq_of_lt hcode)
    runs := (giveResult_runs _ _).trans (congrArg (fun n => satTo 16 (n + 1)) ((showRunning_calStat (lo := 0) (w := 16) false).trans
      (hleaves.status 0 16)))
    fallback := giveResult_fallback _ _
    running := (Chip.flag_congr (giveResult_calStat (lo := 27) (w := 1) _ _)).trans (showRunning_flag false)
    settles := fun c hc => Chip.settles_congr hregs.wav hregs.active (hall c hc) }

theorem FallbackEnded.announces {s u v : Chip} (h : FallbackEnded s u) (k : Announces u v) : FallbackEnded s v := by
  have hstat : announceAddr (0x70108 + 16 * 5) = false := by decide
  exact ⟨h.keeps.trans (k.keeps _), k.mems.trans h.mems, (congrArg Cal.ext k.cal).trans h.ext, (k.fld _ hstat).trans h.result,
    (k.fld _ hstat).trans h.runs, (k.flag _ hstat).trans h.fallback, (k.flag _ hstat).trans h.running,
    fun c hc => Chip.settles_congr k.wav k.active (h.settles c hc)⟩

/-- The foreground fall-back ends now. -/
def Chip.FallbackEnds (s : Chip) : Prop := s.cal.ext = some 0 ∧ s.cal.extFirst = false

theorem fallbackLasts_iff (s : Chip) : (s.cal.ext != some 0 || s.cal.extFirst) = true ↔ ¬ s.FallbackEnds := by
  simp only [Chip.FallbackEnds, Bool.or_eq_true, bne_iff_ne, ne_eq, not_and_or, Bool.not_eq_false]

theorem fallbackEnd_of_not_ends {s : Chip} (h : ¬ s.FallbackEnds) : fallbackEnd s = s := if_pos ((fallbackLasts_iff s).mpr h)

theorem fallbackEnd_of_ends {s : Chip} (h : s.FallbackEnds) :
    fallbackEnd s = raise (if s.cal.extSeen then EV.CAL_DONE else EV.CAL_INCOMPLETE) (closeFallback s) :=
  if_neg fun hl => (fallbackLasts_iff s).mp hl h

end Sys2Proof.Machine
end

section
/-! PROOFS. What the ramps keep (R223), and the bytes of the table words that they write. -/

namespace Sys2Proof.Machine

/-! ### The clock, the resets and the interval of the ramps -/

/-- `t` has the clock and the resets of `s`, and the ticks since the last step of the ramps. -/
structure SameRamp (s t : Chip) : Prop where
  clk : t.clk = s.clk
  rst : t.rst = s.rst
  ramp : t.cal.ramp = s.cal.ramp

section
variable {s t u : Chip}

theorem SameRamp.refl (s : Chip) : SameRamp s s := ⟨rfl, rfl, rfl⟩

theorem SameRamp.trans (h : SameRamp s t) (k : SameRamp t u) : SameRamp s u := 
  ⟨k.clk.trans h.clk, k.rst.trans h.rst, k.ramp.trans h.ramp⟩

theorem SameRamp.same (h : SameRamp s t) (hc : u.clk = t.clk := by rfl) (hr : u.rst = t.rst := by rfl)
    (hp : u.cal.ramp = t.cal.ramp := by rfl) : SameRamp s u := h.trans ⟨hc, hr, hp⟩

theorem SameRamp.ships (h : SameRamp s t) (k : Ships t u) : SameRamp s u := h.trans ⟨k.clk, k.rst, by rw [k.cal]⟩

theorem SameRamp.ite {p : Prop} [Decidable p] (h : SameRamp s t) (k : SameRamp s u) : SameRamp s (if p then t else u) := by
  split
  · exact h
  · exact k

theorem SameRamp.iteSnd {α : Type} {p : Prop} [Decidable p] {a b : α × Chip} (h : SameRamp s a.2) (k : SameRamp s b.2) :
    SameRamp s (if p then a else b).2 := by
  split
  · exact h
  · exact k

theorem SameRamp.forAll {α : Type} {l : List α} {g : α → Chip → Chip} (h : SameRamp s t)
    (k : ∀ a, ∀ x, SameRamp s x → SameRamp s (g a x)) : SameRamp s (forAll l g t) := List.foldlRecOn _ _ h fun x hx a _ => k a x hx

theorem noteOverride_sameRamp (h : SameRamp s t) : SameRamp s (noteOverride t) :=
  (h.same (u := t.bump F.CAL_OVERRIDE_CNT_COUNT)).ships (raise_ships _ (by decide) _)

theorem setTableBits_sameRamp {m : Nat} (hm : m < 12) (h : SameRamp s t) (a mask v : Nat) : SameRamp s (setTableBits m a mask v t) := by
  unfold setTableBits setTableByte memWrite
  extract_lets old par s1 new s2
  have h1 : SameRamp s s1 := .ite h (h.ships (blockCheck_ships 2 m _ hm t))
  have h2 : SameRamp s s2 := .ite h1.same h1.same
  exact .ite h2.same h2

theorem engineByte_sameRamp (h : SameRamp s t) (a b v : Nat) (done : SMap 32) : SameRamp s (engineByte 2 a b v done t).2 :=
  have h2 := setTableBits_sameRamp (by decide : 2 < 12) h a b v
  .iteSnd (noteOverride_sameRamp h) (.iteSnd (noteOverride_sameRamp h2) (setTableBits_sameRamp (by decide : 3 < 12) h2 a b v))

theorem engineField_sameRamp (h : SameRamp s t) (f : Fld) (v : Nat) (done : SMap 32) : SameRamp s (engineField f v done t).2 :=
  .iteSnd (noteOverride_sameRamp h) (.iteSnd (noteOverride_sameRamp h.same) h.same)

theorem loadLatch_sameRamp (h : SameRamp s t) (w : Nat) : SameRamp s (loadLatch w t) := by
  have hread := h.ships (memRead_ships 2 w (by decide) t)
  unfold loadLatch
  generalize memRead 2 w t = r at hread ⊢
  exact hread.same

theorem trimStep_sameRamp (h : SameRamp s t) (key target : Nat) : SameRamp s (trimStep key target t) := by
  have hread := h.ships (memRead_ships 2 (key / 8) (by decide) t)
  unfold trimStep
  generalize memRead 2 (key / 8) t = r at hread ⊢
  obtain ⟨d, bad, s0⟩ := r
  simp -zeta only
  extract_lets old drop v s2
  have h2 : SameRamp s s2 := loadLatch_sameRamp (engineByte_sameRamp hread ..) _
  clear_value s2
  exact .ite hread (.ite h2.same h2)

theorem clearData_sameRamp (h : SameRamp s t) (i : Nat) : SameRamp s (clearData i t) := by
  unfold clearData
  extract_lets
  split <;> exact h.same

end

/-! ### Bytes of a table word -/

/-- Byte b of a word. -/
def byteOf (x b : Nat) : Nat := bits x (8 * b + 7) (8 * b)

theorem byteOf_lt (x b : Nat) : byteOf x b < 256 := by
  unfold byteOf bits
  rw [show 8 * b + 7 + 1 - 8 * b = 8 by omega]
  exact Nat.mod_lt _ (by decide)

theorem byteOf_place (v b : Nat) : byteOf (place 8 (8 * b) v) b = v % 256 := bits_place_eq 8 (8 * b) v (8 * b + 7) (by omega) (by decide)

theorem testBit_byteOf (x b i : Nat) : (byteOf x b).testBit i = (decide (i < 8) && x.testBit (8 * b + i)) := by
  unfold byteOf
  rw [testBit_bits, show 8 * b + 7 + 1 - 8 * b = 8 by omega]

theorem testBit_foldl_or (f : Nat → Nat) (l : List Nat) (x i : Nat) :
    (l.foldl (fun acc j => acc ||| f j) x).testBit i = (x.testBit i || l.any fun j => (f j).testBit i) := by
  induction l generalizing x with
  | nil => simp
  | cons j l ih => rw [List.foldl_cons, ih, Nat.testBit_or, List.any_cons, Bool.or_assoc]

/-- A byte of merged words is that of the new word where the mask has a 1. -/
theorem byteOf_mergeBytes (old new mask : Nat) {b : Nat} (hb : b < 8) :
    byteOf (mergeBytes old new mask) b = byteOf (if mask.testBit b then new else old) b := by
  apply Nat.eq_of_testBit_eq
  intro i
  rw [testBit_byteOf]
  unfold mergeBytes
  rw [testBit_foldl_or, Nat.zero_testBit, Bool.false_or]
  by_cases hi : i < 8
  · rw [Bool.eq_iff_iff]
    simp only [hi, decide_true, Bool.true_and, List.any_eq_true, List.mem_range, testBit_place, Bool.and_eq_true, decide_eq_true_eq]
    constructor
    · rintro ⟨k, -, hle, hlt, hbit⟩
      obtain rfl : k = b := by omega
      rwa [Nat.add_sub_cancel_left] at hbit
    · intro hbit
      refine ⟨b, hb, by omega, by omega, ?_⟩
      rwa [Nat.add_sub_cancel_left]
  · rw [testBit_byteOf]
    simp [hi]

/-! ### A byte of a clean table word is written -/

section
variable {s : Chip} {m w : Nat}

theorem memWrite_clean (hc : memIsConfig m = true) (h : (s.mem m).par.get w = 0#8) (mask data : Nat) :
    memWrite m w mask data s = { s.setMem m ((s.mem m).put m w (mergeBytes (s.memData m w) data mask) 0) with
      cmd := { s.cmd with digDirty := true } } := by
  have hp : s.poisoned m w = false := by
    unfold Chip.poisoned
    rw [h]
    decide
  unfold memWrite
  rw [h]
  dsimp only
  rw [if_pos (show (decide ((0#8).toNat = 0) || parPoisoned (0#8).toNat) = true by decide), hp, hc]
  rfl

/-- `u` is `s` with one byte of a word of a table written. -/
structure ByteWritten (m w b v : Nat) (s u : Chip) : Prop where
  clk : u.clk = s.clk
  lawn : u.lawn = s.lawn
  cal : u.cal = s.cal
  touched : u.cmd.touched = s.cmd.touched
  length : u.mems.length = s.mems.length
  others : ∀ k, k ≠ m → u.mem k = s.mem k
  clean : (u.mem m).par.get w = 0#8
  byte : ∀ c, c < 8 → byteOf (u.memData m w) c = if c = b then v % 256 else byteOf (s.memData m w) c

theorem Mem.put_data (x : Mem) (m w data par : Nat) : (memReset m w ^^^ (x.put m w data par).data.get w).toNat = (w64 data).toNat := by
  simp [Mem.put]

theorem setTableByte_written (hm : m < s.mems.length) (hc : memIsConfig m = true) (a v : Nat) (h : (s.mem m).par.get (a / 8) = 0#8) :
    ByteWritten m (a / 8) (a % 8) v s (setTableByte m a v s) := by
  unfold setTableByte
  rw [memWrite_clean hc h]
  generalize hnew : mergeBytes _ _ _ = new
  have hmem : (s.setMem m ((s.mem m).put m (a / 8) new 0)).mem m = (s.mem m).put m (a / 8) new 0 := s.mem_setMem_same m _ hm
  refine ⟨rfl, rfl, rfl, rfl, List.length_set, fun k hk => s.mem_setMem_ne m k _ hk.symm, ?_, fun c hcb => ?_⟩
  · show ((s.setMem m _).mem m).par.get _ = _
    rw [hmem]
    simp [Mem.put]
  · have hdata : (s.setMem m ((s.mem m).put m (a / 8) new 0)).memData m (a / 8) = (w64 new).toNat := by
      unfold Chip.memData
      rw [hmem, Mem.put_data]
    show byteOf ((s.setMem m _).memData m _) c = _
    rw [hdata]
    unfold byteOf
    rw [bits_w64 _ _ _ (by omega)]
    show byteOf new c = if c = a % 8 then _ else byteOf _ c
    rw [← hnew, byteOf_mergeBytes _ _ _ hcb, Nat.testBit_two_pow]
    by_cases hca : c = a % 8
    · rw [if_pos hca, if_pos (decide_eq_true hca.symm), hca, byteOf_place]
    · rw [if_neg hca, if_neg (by simpa using fun e => hca e.symm)]

end

/-! ### The bits of a trim -/

/-- The low six bits of a byte replaced. -/
theorem replace_low_six {old v : Nat} (hv : v < 64) : (old - (old &&& 63)) ||| (v &&& 63) = old / 64 * 64 + v := by
  have hold : old &&& 63 = old % 64 := Nat.and_two_pow_sub_one_eq_mod old 6
  have hv' : v &&& 63 = v := (Nat.and_two_pow_sub_one_eq_mod v 6).trans (Nat.mod_eq_of_lt hv)
  have hhigh : old - old % 64 = 2 ^ 6 * (old / 64) := by omega
  rw [hold, hv', hhigh, ← Nat.two_pow_add_eq_or_of_lt hv]
  omega

theorem setTrim_written {s : Chip} {m : Nat} (hm : m < s.mems.length) (hc : memIsConfig m = true) {a v : Nat} (hv : v < 64)
    (h : (s.mem m).par.get (a / 8) = 0#8) :
    ByteWritten m (a / 8) (a % 8) (byteOf (s.memData m (a / 8)) (a % 8) / 64 * 64 + v) s (setTableBits m a 63 v s) := by
  unfold setTableBits
  rw [← replace_low_six hv]
  exact setTableByte_written hm hc a _ h

theorem loadLatch_clean {s : Chip} {w : Nat} (h : (s.mem 2).par.get w = 0#8) : loadLatch w s =
    { s with lawn := { s.lawn with latch := s.lawn.latch.set w (memReset 2 w ^^^ w64 (s.memData 2 w)) } } := by
  unfold loadLatch
  rw [memRead_clean h]
  rfl

end Sys2Proof.Machine
end

section
/-! PROOFS. A step of the ramps (R223): one trim with the latch of its pixel, and one gain. -/

namespace Sys2Proof.Machine

/-- One step toward a target, on numbers that are not negative. -/
theorem toNat_stepTo (n v t : Nat) : (stepTo n v t).toNat = if v < t then min t (v + n) else max t (v - n) := by
  unfold stepTo
  split
  · next h =>
    rw [if_pos (by exact_mod_cast h)]
    omega
  · next h =>
    rw [if_neg (by exact_mod_cast h)]
    omega

/-! ### The step of a trim (R223) -/

theorem Chip.memData_congr {s t : Chip} {m : Nat} (h : t.mem m = s.mem m) (w : Nat) : t.memData m w = s.memData m w := by
  unfold Chip.memData
  rw [h]

section
variable {key t : Nat} {s : Chip}

/-- The trim of a pixel after a step. -/
def Chip.nextTrim (s : Chip) (key t : Nat) : Nat := (stepTo 1 (byteOf (s.memData 2 (key / 8)) (key % 8) % 64 : Nat) t).toNat

theorem nextTrim_eq (s : Chip) (key t : Nat) : s.nextTrim key t =
    if byteOf (s.memData 2 (key / 8)) (key % 8) % 64 < t then byteOf (s.memData 2 (key / 8)) (key % 8) % 64 + 1
    else if t < byteOf (s.memData 2 (key / 8)) (key % 8) % 64 then byteOf (s.memData 2 (key / 8)) (key % 8) % 64 - 1 else t := by
  unfold Chip.nextTrim
  rw [toNat_stepTo]
  split
  · omega
  · split <;> omega

theorem nextTrim_lt (s : Chip) (key : Nat) {t : Nat} (h : t < 64) : s.nextTrim key t < 64 := by
  rw [nextTrim_eq]
  split
  · omega
  · split <;> omega

/-- The trim of a pixel set in both banks. -/
def setTrim (key v : Nat) (s : Chip) : Chip := setTableBits 3 key 63 v (setTableBits 2 key 63 v s)

/-- The target of a pixel is reached. -/
def dropTrim (key : Nat) (s : Chip) : Chip := { s with cal := { s.cal with tgtTrim := s.cal.tgtTrim.filter fun e => e.1 != key } }

theorem touchedBits_of_zero {m : SMap 32} {k : Nat} (h : (m.get k).toNat = 0) (mask : Nat) : touchedBits m k mask = false := by
  unfold touchedBits
  rw [h, Nat.zero_and]
  rfl

theorem engineByte_untouched (h : (s.cmd.touched.get (0x300000 + key / 4 * 4)).toNat = 0) (v : Nat) :
    engineByte 2 key 63 v [] s = (false, setTrim key v s) :=
  (if_neg (Bool.eq_false_iff.mp (touchedBits_of_zero rfl _))).trans (if_neg (Bool.eq_false_iff.mp (touchedBits_of_zero h _)))

theorem trimStep_of_clean (hclean : (s.mem 2).par.get (key / 8) = 0#8) (h : (s.cmd.touched.get (0x300000 + key / 4 * 4)).toNat = 0) :
    trimStep key t s = if s.nextTrim key t = t then dropTrim key (loadLatch (key / 8) (setTrim key (s.nextTrim key t) s))
      else loadLatch (key / 8) (setTrim key (s.nextTrim key t) s) := by
  unfold trimStep
  rw [memRead_clean hclean]
  simp -zeta only
  extract_lets old drop v s2
  have hs2 : s2 = loadLatch (key / 8) (setTrim key v s) := by
    unfold s2
    rw [engineByte_untouched h v]
  clear_value s2
  rw [if_neg Bool.false_ne_true, engineByte_untouched h v, hs2]
  dsimp only
  rw [Bool.false_or]
  by_cases hv : v = t
  · rw [if_pos (decide_eq_true hv)]
    exact (if_pos hv).symm
  · rw [if_neg (by simpa using hv)]
    exact (if_neg hv).symm

/-- `u` is `s` with a trim set in both banks, and the latch of its word loaded. -/
structure TrimStepped (key v : Nat) (s u : Chip) : Prop where
  clk : u.clk = s.clk
  active : byteOf (u.memData 2 (key / 8)) (key % 8) = byteOf (s.memData 2 (key / 8)) (key % 8) / 64 * 64 + v
  shadow : byteOf (u.memData 3 (key / 8)) (key % 8) = byteOf (s.memData 3 (key / 8)) (key % 8) / 64 * 64 + v
  latch : u.lawn.latch.get (key / 8) = memReset 2 (key / 8) ^^^ w64 (u.memData 2 (key / 8))
  others : ∀ b, b < 8 → b ≠ key % 8 → byteOf (u.memData 2 (key / 8)) b = byteOf (s.memData 2 (key / 8)) b

theorem loadTrim_stepped {v : Nat} (hlen : s.mems.length = 12) (h2 : (s.mem 2).par.get (key / 8) = 0#8)
    (h3 : (s.mem 3).par.get (key / 8) = 0#8) (hv : v < 64) : TrimStepped key v s (loadLatch (key / 8) (setTrim key v s)) := by
  have hfit (x : Nat) (hx : x < 256) : (x / 64 * 64 + v) % 256 = x / 64 * 64 + v := Nat.mod_eq_of_lt (by omega)
  have hb : key % 8 < 8 := Nat.mod_lt _ (by decide)
  have hw2 := setTrim_written (s := s) (m := 2) (by omega) rfl hv h2
  generalize ht : setTableBits 2 key 63 v s = t at hw2
  have hmem3 : t.mem 3 = s.mem 3 := hw2.others 3 (by decide)
  have hw3 := setTrim_written (s := t) (m := 3) (by rw [hw2.length]; omega) rfl hv (hmem3 ▸ h3)
  have hset : setTrim key v s = setTableBits 3 key 63 v t := congrArg (setTableBits 3 key 63 v) ht
  rw [← hset] at hw3
  generalize setTrim key v s = u at hw3
  have hmem2 : u.mem 2 = t.mem 2 := hw3.others 2 (by decide)
  have hdata2 : u.memData 2 (key / 8) = t.memData 2 (key / 8) := Chip.memData_congr hmem2 _
  have hdata3 : t.memData 3 (key / 8) = s.memData 3 (key / 8) := Chip.memData_congr hmem3 _
  rw [loadLatch_clean (hmem2 ▸ hw2.clean)]
  refine ⟨hw3.clk.trans hw2.clk, ?_, ?_, SMap.get_set_same _ _ _, fun b hb hne => ?_⟩
  · refine (congrArg (byteOf · (key % 8)) hdata2).trans ((hw2.byte _ hb).trans ?_)
    rw [if_pos rfl, hfit _ (byteOf_lt _ _)]
  · refine (hw3.byte _ hb).trans ?_
    rw [if_pos rfl, hfit _ (byteOf_lt _ _), hdata3]
  · refine (congrArg (byteOf · b) hdata2).trans ((hw2.byte _ hb).trans ?_)
    rw [if_neg hne]

theorem trimStep_stepped (hlen : s.mems.length = 12) (h2 : (s.mem 2).par.get (key / 8) = 0#8) (h3 : (s.mem 3).par.get (key / 8) = 0#8)
    (h : (s.cmd.touched.get (0x300000 + key / 4 * 4)).toNat = 0) (hv : s.nextTrim key t < 64) :
    TrimStepped key (s.nextTrim key t) s (trimStep key t s) := by
  have hload := loadTrim_stepped hlen h2 h3 hv
  rw [trimStep_of_clean h2 h]
  generalize loadLatch (key / 8) (setTrim key (s.nextTrim key t) s) = u at hload ⊢
  split
  · exact ⟨hload.clk, hload.active, hload.shadow, hload.latch, hload.others⟩
  · exact hload

end

/-! ### A step of a gain -/

section
variable {s : Chip}

theorem Chip.fld_setActive_same (s : Chip) (f : Fld) (v : Nat) (h : f.fits) (hr : f.rws = true) : (s.setActive f v).fld f = v % 2 ^ f.w := by
  simpa [Chip.fld, Chip.setActive, hr] using fieldOf_setFieldOf_same s.regs.active f v h

theorem Chip.shFld_setShadow_same (s : Chip) (f : Fld) (v : Nat) (h : f.fits) : (s.setShadow f v).shFld f = v % 2 ^ f.w :=
  fieldOf_setFieldOf_same s.regs.shadow f v h

/-- The ramps may move now (R223). -/
def Chip.RampDue (s : Chip) : Prop := s.flag F.CAL_CTL_EN = true ∧ s.domainUp 6 = true ∧ max 1 (s.fld F.CAL_RAMP_FRAMES) ≤ s.cal.ramp

theorem rampRests_iff (s : Chip) : (!s.flag F.CAL_CTL_EN || !s.domainUp 6 || decide (s.cal.ramp < max 1 (s.fld F.CAL_RAMP_FRAMES))) = true ↔
    ¬ s.RampDue := by
  simp only [Chip.RampDue, Bool.or_eq_true, Bool.not_eq_true', decide_eq_true_eq, not_and_or, Bool.not_eq_true, Nat.not_le, or_assoc]

theorem rampStep_of_not_due (h : ¬ s.RampDue) : rampStep s = s := if_pos ((rampRests_iff s).mpr h)

/-- The interval of the ramps starts again. -/
def restartRamp (s : Chip) : Chip := { s with cal := { s.cal with ramp := 0 } }

/-- The trims of a parterre that have not reached their targets, in the order of PIX. -/
def Chip.rampTrims (s : Chip) (p : Nat) : List (Nat × Nat) := (List.range 64).filterMap fun i =>
  (s.cal.tgtTrim.filter fun e => s.pixLatch e.1 % 64 != e.2).find? fun e => e.1 == pixKey (rowOf p i) (colOf p i)

/-- The trims of all parterres move. -/
def rampTrims (c : Chip) (s : Chip) : Chip :=
  forN 1024 (fun p s => forAll ((c.rampTrims p).take (max 1 (c.fld F.CAL_RAMP_PIX))) (fun e s => trimStep e.1 e.2 s) s) s

/-- A gain moves one step toward its target. -/
def gainStep (e : Nat × Nat) (s : Chip) : Chip :=
  let v := stepTo (max 1 (s.fld F.CAL_RAMP_GSTEP)) (s.fld (F.PRT_GAIN_G e.1) : Nat) (e.2 : Nat)
  let r := engineField (F.PRT_GAIN_G e.1) v.toNat [] s
  if r.1 || v.toNat = e.2 then { r.2 with cal := { r.2.cal with tgtGain := r.2.cal.tgtGain.filter fun q => q.1 != e.1 } } else r.2

/-- A procedure that reads the gains starts again where one moved (R206). -/
def rereadGains (moved : Bool) (i : Nat) (s : Chip) : Chip := if moved && (s.calProc i).run then clearData i s else s

theorem rampStep_of_due (h : s.RampDue) : ∃ moved, rampStep s = rereadGains moved 3 (rereadGains moved 2
    (forAll (rampTrims s (restartRamp s)).cal.tgtGain gainStep (rampTrims s (restartRamp s)))) := by
  unfold rampStep
  rw [if_neg fun hr => (rampRests_iff s).mp hr h]
  extract_lets _ s0 per off gains s1 again
  have h1 : rampTrims s (restartRamp s) = s1 := rfl
  rw [h1]
  clear_value s1
  exact ⟨gains, rfl⟩

theorem rampTrims_sameRamp (c : Chip) {t : Chip} (h : SameRamp s t) : SameRamp s (rampTrims c t) :=
  SameRamp.forAll (l := List.range 1024) h fun _ _ hx => hx.forAll fun _ _ hy => trimStep_sameRamp hy ..

theorem gainStep_sameRamp {t : Chip} (h : SameRamp s t) (e : Nat × Nat) : SameRamp s (gainStep e t) := by
  unfold gainStep
  extract_lets v r
  have hr : SameRamp s r.2 := engineField_sameRamp h ..
  clear_value r
  exact .ite hr.same hr

theorem rereadGains_sameRamp {t : Chip} (h : SameRamp s t) (moved : Bool) (i : Nat) : SameRamp s (rereadGains moved i t) :=
  .ite (clearData_sameRamp h i) h

theorem rampStep_sameRamp (h : s.RampDue) : SameRamp (restartRamp s) (rampStep s) := by
  obtain ⟨moved, heq⟩ := rampStep_of_due h
  rw [heq]
  exact rereadGains_sameRamp (rereadGains_sameRamp
    (SameRamp.forAll (rampTrims_sameRamp s (.refl _)) fun e _ hx => gainStep_sameRamp hx e) ..) ..

/-! ### One gain alone -/

/-- Without targets no trim moves. -/
theorem rampTrims_of_none {c : Chip} (h : c.cal.tgtTrim = []) (s : Chip) : rampTrims c s = s := by
  have hnone (p : Nat) : c.rampTrims p = [] := by simp [Chip.rampTrims, h]
  simp [rampTrims, hnone, forN, forAll]

/-- A gain set in both banks. -/
def setGain (p v : Nat) (s : Chip) : Chip := (s.setActive (F.PRT_GAIN_G p) v).setShadow (F.PRT_GAIN_G p) v

/-- The gain of a parterre after a step. -/
def Chip.nextGain (s : Chip) (p t : Nat) : Nat := (stepTo (max 1 (s.fld F.CAL_RAMP_GSTEP)) (s.fld (F.PRT_GAIN_G p) : Nat) t).toNat

theorem engineField_untouched {p : Nat} (h : (s.cmd.touched.get (F.PRT_GAIN_G p).addr).toNat % 2 ^ 13 = 0) (v : Nat) :
    engineField (F.PRT_GAIN_G p) v [] s = (false, setGain p v s) := by
  have htouched : touchedBits s.cmd.touched (F.PRT_GAIN_G p).addr (place 13 0 (2 ^ 13 - 1)) = false := by
    unfold touchedBits
    rw [show place 13 0 (2 ^ 13 - 1) = 2 ^ 13 - 1 by decide, Nat.and_two_pow_sub_one_eq_mod, h]
    rfl
  exact (if_neg (Bool.eq_false_iff.mp (touchedBits_of_zero rfl _))).trans (if_neg (Bool.eq_false_iff.mp htouched))

/-- What a step of the one gain that ramps leaves. -/
structure GainStepped (p v t : Nat) (u : Chip) : Prop where
  active : u.fld (F.PRT_GAIN_G p) = v
  shadow : u.shFld (F.PRT_GAIN_G p) = v
  targets : u.cal.tgtGain = if v = t then [] else [(p, t)]

theorem gainStep_stepped {p t : Nat} (h : (s.cmd.touched.get (F.PRT_GAIN_G p).addr).toNat % 2 ^ 13 = 0)
    (hgain : s.cal.tgtGain = [(p, t)]) (hv : s.nextGain p t < 2 ^ 13) : GainStepped p (s.nextGain p t) t (gainStep (p, t) s) := by
  have hfits : (F.PRT_GAIN_G p).fits := by simp [Fld.fits, F.PRT_GAIN_G]
  have hactive : (setGain p (s.nextGain p t) s).fld (F.PRT_GAIN_G p) = s.nextGain p t :=
    (s.fld_setActive_same _ _ hfits rfl).trans (Nat.mod_eq_of_lt hv)
  have hshadow : (setGain p (s.nextGain p t) s).shFld (F.PRT_GAIN_G p) = s.nextGain p t :=
    (Chip.shFld_setShadow_same _ _ _ hfits).trans (Nat.mod_eq_of_lt hv)
  have hstep : gainStep (p, t) s = if s.nextGain p t = t then
      { setGain p (s.nextGain p t) s with cal := { s.cal with tgtGain := s.cal.tgtGain.filter fun q => q.1 != p } }
      else setGain p (s.nextGain p t) s := by
    unfold gainStep
    extract_lets v r
    have hr : r = (false, setGain p (s.nextGain p t) s) := engineField_untouched h _
    clear_value r
    subst hr
    by_cases hreached : s.nextGain p t = t
    · rw [if_pos hreached]
      exact if_pos (decide_eq_true hreached)
    · rw [if_neg hreached]
      exact if_neg fun hd => hreached (of_decide_eq_true hd)
  rw [hstep]
  split
  · next heq => exact ⟨hactive, hshadow, by simp [hgain, heq]⟩
  · next hne => exact ⟨hactive, hshadow, hgain.trans (if_neg hne).symm⟩

theorem rereadGains_stepped {p v t i : Nat} {moved : Bool} (h : GainStepped p v t s) : GainStepped p v t (rereadGains moved i s) := by
  have hregs : (clearData i s).regs = s.regs ∧ (clearData i s).cal.tgtGain = s.cal.tgtGain := by
    unfold clearData
    extract_lets
    split <;> exact ⟨rfl, rfl⟩
  unfold rereadGains
  split
  · refine ⟨?_, ?_, hregs.2.trans h.targets⟩
    · unfold Chip.fld
      rw [hregs.1]
      exact h.active
    · unfold Chip.shFld
      rw [hregs.1]
      exact h.shadow
  · exact h

theorem rampStep_stepped {p t : Nat} (hdue : s.RampDue) (htrim : s.cal.tgtTrim = []) (hgain : s.cal.tgtGain = [(p, t)])
    (h : (s.cmd.touched.get (F.PRT_GAIN_G p).addr).toNat % 2 ^ 13 = 0) (ht : t < 2 ^ 13) :
    GainStepped p (s.nextGain p t) t (rampStep s) := by
  obtain ⟨moved, heq⟩ := rampStep_of_due hdue
  have hcur : s.fld (F.PRT_GAIN_G p) < 2 ^ 13 := fld_lt s _ (by simp [Fld.fits, F.PRT_GAIN_G])
  have hv : s.nextGain p t < 2 ^ 13 := by
    unfold Chip.nextGain
    rw [toNat_stepTo]
    split <;> omega
  have hall : forAll (restartRamp s).cal.tgtGain gainStep (restartRamp s) = gainStep (p, t) (restartRamp s) :=
    congrArg (fun l => forAll l gainStep (restartRamp s)) hgain
  rw [heq, rampTrims_of_none htrim, hall]
  exact rereadGains_stepped (rereadGains_stepped (gainStep_stepped (s := restartRamp s) h hgain hv))

end

end Sys2Proof.Machine
end

section
/-! PROOFS. The obligation on the rows of the calibration engine (chapter 08). -/

namespace Sys2Proof.Machine

theorem exec_calIntervalStart (i : Fin 8) (s : State) : exec (.calIntervalStart i) s = .next { s with chip := intervalStart i s.chip } := rfl

theorem exec_calRunEnd (i : Fin 8) (s : State) : exec (.calRunEnd i) s = .next { s with chip := runEnd i s.chip } := rfl

theorem exec_theqDwellEnd (p : Fin 1024) (s : State) : exec (.theqDwellEnd p) s = .next { s with chip := dwellEnd p s.chip } := rfl

theorem exec_calTdcInjection (p : Fin 1024) (s : State) : exec (.calTdcInjection p) s = .next { s with chip := tdcInjection p s.chip } := rfl

theorem exec_calPulseInjection (p : Fin 1024) (s : State) :
    exec (.calPulseInjection p) s = .next { s with chip := pulseInjection p s.chip } := rfl

theorem exec_sliceWindowEnd (i : Fin 8) (s : State) : exec (.sliceWindowEnd i) s = .next { s with chip := sliceWindowEnd i s.chip } := rfl

theorem exec_sliceFallbackEnd (s : State) : exec .sliceFallbackEnd s = .next { s with chip := fallbackEnd s.chip } := rfl

theorem exec_calRampStep (s : State) : exec .calRampStep s = .next { s with chip := rampStep s.chip } := rfl

/-! ### The proposals of THEQ and TWFIT -/

theorem seenEdges_eq (s : Chip) : s.seenEdges = s.cal.edges.filter fun e => decide (0 ≤ e.2 ∧ e.2 ≤ 62) := by
  simp only [Chip.seenEdges, Bool.decide_and]

theorem trimShift_eq (seen : Table Int) : trimShift seen =
    if seen = [] then 0 else 32 - (2 * (seen.map Prod.snd).sum + seen.length) / (2 * seen.length) := by
  simp only [trimShift, List.isEmpty_iff]

theorem theqResults_trims (s : Chip) : (theqResults s).2.2.2.cal.pendTrim =
    s.seenEdges.map fun e => (e.1, (max 0 (min 63 (e.2 + trimShift s.seenEdges))).toNat) := by
  rw [(theqResults_shows s).cal]
  exact List.map_map

theorem twResults_knots (s : Chip) : (twResults s).2.2.2.cal.pendKnot = s.fullKnots.map fun j =>
    (j, max (-32768) (min 32767 ((Table.get (0, 0) s.cal.pairs j).1 / ((Table.get (0, 0) s.cal.pairs j).2 : Int)))) := by
  rw [(twResults_shows s).cal]
  exact List.map_map

theorem runResults_zero (s : Chip) : runResults 0 s = theqResults s := rfl

theorem runResults_two (s : Chip) : runResults 2 s = twResults s := rfl

theorem Proposes.endedProc {s t : Chip} (h : Proposes s t) (i : Nat) : t.endedProc i = s.endedProc i := by
  have hauto : t.flag (F.CAL_P_CTL_AUTO i) = s.flag (F.CAL_P_CTL_AUTO i) := Chip.flag_congr (h.fld_rws _ rfl)
  unfold Chip.endedProc
  rw [h.calProc, hauto]

theorem RunClosed.calProc_same {i code : Nat} {fb : Bool} {s u : Chip} (h : RunClosed i fb code s u) : u.calProc i = s.endedProc i :=
  (congrArg (fun x : Cal => Table.get CalProc.rest x.procs i) h.cal).trans (s.calProc_setProc_same i _)

theorem RunClosed.calProc_ne {i j code : Nat} {fb : Bool} {s u : Chip} (h : RunClosed i fb code s u) (hj : j ≠ i) :
    u.calProc j = s.calProc j :=
  (congrArg (fun x : Cal => Table.get CalProc.rest x.procs j) h.cal).trans (s.calProc_setProc_ne _ hj)

theorem usedFallback_eq (i : Nat) (s : Chip) : s.usedFallback i = if i = 4 then s.flag F.CAL_PULSE_CFG_SRC
    else if i = 6 then (List.range 8).any (fun n => !s.flag (F.TIP_TI_CFG_EN n)) else (s.calProc i).fallback := by
  unfold Chip.usedFallback
  split
  · rfl
  · rfl
  · next h4 h6 => rw [if_neg h4, if_neg h6]

/-- Settles O51: each row due or not; a run by what its results may touch and by what its end writes, a window by whether it is judged, and the
ramps by the one gain and the one trim that move. -/
theorem calibrationRowsComplete : Obligations.CalibrationRowsComplete := by
  unfold Obligations.CalibrationRowsComplete
  refine ⟨fun i s => ?_, fun p s => ?_, fun i s => ?_, fun s => ?_, fun s => ?_, fun key t c hkey ht hlen h2 h3 htouched => ?_⟩
  · intro c x n starts max_ ends seen δ need full
    have hends : c.calEnds i = true ↔ ends := calEnds_iff i c
    refine ⟨fun h => ⟨_, exec_calIntervalStart i s, ?_⟩, fun h => ?_, fun h => ⟨_, exec_calRunEnd i s, ?_⟩, fun h => ?_⟩
    · rw [intervalStart_of_starts i c h]
      exact ⟨rfl, c.calProc_setProc_same i _, fun j hj => c.calProc_setProc_ne _ hj⟩
    · rw [exec_calIntervalStart, intervalStart_of_not_starts i s.chip h]
    · obtain ⟨r, hlo, hhi, hclosed, hdone, hincomplete⟩ := runEnd_ended i c i.isLt (hends.mpr h)
      have hres := runResults_proposes i c
      have hresult := hclosed.result
      refine ⟨hclosed.calProc_same.trans (hres.endedProc i), fun j hj => (hclosed.calProc_ne hj).trans (hres.calProc j), hclosed.clk.trans hres.clk,
        hclosed.active.trans hres.active, hclosed.shadow.trans hres.shadow,
        fun m hm => (congrArg (nth Mem.clean · m) hclosed.mems).trans (hres.mem m hm), hclosed.lawn.trans hres.lawn,
        hclosed.running, hclosed.pending, hclosed.runningBit, hclosed.pendingBit, ?_,
        hclosed.fallback.trans (usedFallback_eq i c), hresult.symm ▸ hlo, hresult.symm ▸ hhi,
        fun hr => hdone (hresult.symm.trans hr), fun hr => hincomplete fun he => hr (hresult.trans he), fun h0 => ?_, fun h2 => ?_⟩
      · rw [hclosed.runs, hres.fld _ (show 0x70000 ≤ 0x70108 + 16 * i.val by omega) (show 0x70108 + 16 * i.val < 0x70200 by omega)]
      · rw [hclosed.cal]
        show (runResults i.val c).2.2.2.cal.pendTrim = _
        rw [h0, runResults_zero, theqResults_trims, trimShift_eq, seenEdges_eq]
      · rw [hclosed.cal]
        show (runResults i.val c).2.2.2.cal.pendKnot = _
        rw [h2, runResults_two]
        exact twResults_knots c
    · rw [exec_calRunEnd, runEnd_of_not_ends i s.chip (Bool.eq_false_iff.mpr fun he => h (hends.mp he))]
  · intro c q may due mid hit lo hi y lacking up target inject z pulse
    have hdue : c.DwellEnds p ↔ due := and_congr_right' (and_congr_left' (c.calMay_iff p q.pix))
    have hinject : c.TdcInjects p ↔ inject := and_congr_right' (and_congr_left' (c.calMay_iff p target))
    have hpulse : c.PulseInjects p ↔ pulse := and_congr_right' (and_congr_left' (c.calMay_iff p z.pix))
    refine ⟨fun h => ⟨_, exec_theqDwellEnd p s, ?_⟩, fun h => ?_, fun h => ⟨_, exec_calTdcInjection p s, ?_⟩, fun h => ?_,
      fun h => ⟨_, exec_calPulseInjection p s, ?_⟩, fun h => ?_⟩
    · have hlo : c.probeLo p = lo := by simp only [Chip.probeLo, Chip.probeHit, decide_eq_true_eq]; rfl
      have hhi : c.probeHi p = hi := by simp only [Chip.probeHi, Chip.probeHit, decide_eq_true_eq]; rfl
      rw [dwellEnd_of_ends p c (hdue.mpr h), hlo, hhi]
      split
      · next hwide =>
        exact ⟨rfl, fun m hm => Table.get_set_ne _ _ _ hm.symm, fun _ => ⟨Table.get_set_same _ _ _ _, rfl⟩, fun hn => absurd hwide hn⟩
      · next hnarrow =>
        exact ⟨rfl, fun m hm => Table.get_set_ne _ _ _ hm.symm, fun hw => absurd hw hnarrow, fun _ => ⟨Table.get_set_same _ _ _ _, rfl⟩⟩
    · rw [exec_theqDwellEnd, dwellEnd_of_not_ends p s.chip fun hd => h (hdue.mp hd)]
    · rw [tdcInjection_of_injects p c (hinject.mpr h)]
      exact ⟨rfl, Table.get_set_same _ _ _ _, fun m hm => Table.get_set_ne _ _ _ hm.symm⟩
    · rw [exec_calTdcInjection, tdcInjection_of_not_injects p s.chip fun hi => h (hinject.mp hi)]
    · rw [pulseInjection_of_injects p c (hpulse.mpr h)]
      exact ⟨rfl, Table.get_set_same _ _ _ _, fun m hm => Table.get_set_ne _ _ _ hm.symm⟩
    · rw [exec_calPulseInjection, pulseInjection_of_not_injects p s.chip fun hi => h (hpulse.mp hi)]
  · intro c x codes
    refine ⟨fun h => ?_, fun h => ⟨_, exec_sliceWindowEnd i s, ?_⟩⟩
    · rw [exec_sliceWindowEnd, sliceWindowEnd_of_not_due i s.chip h]
    · have hown : (takeWindow i c).sliceSt i = { x with due := false } := c.sliceSt_setSlice_same i _
      have hj := judgeSlice_judged (win := c.cal.winReady) (s := takeWindow i c) i.isLt
      have hnone := judgeSlice_of_no_codes (i := i) (win := c.cal.winReady) (s := takeWindow i c)
      rw [sliceWindowEnd_of_due i c h]
      generalize judgeSlice i c.cal.winReady (takeWindow i c) = u at hj hnone
      rw [hown] at hnone
      obtain ⟨hsteps, hshown⟩ := hj.own
      rw [hown] at hsteps hshown
      refine ⟨hsteps.due, (setSlice_keeps c _ i _).trans hj.keeps, hj.mems, fun m hm => (hj.others m hm).trans (c.sliceSt_setSlice_ne _ hm),
        hshown, fun hcodes => ?_, fun hlo hhi => ?_, fun hlo hhi => ?_, fun hlo hhi => ?_⟩
      · rw [hnone hcodes]
        exact ⟨rfl, rfl, rfl⟩
      · exact hsteps.offset.near hlo hhi
      · exact hsteps.gain.near hlo hhi
      · exact hsteps.skew.near hlo hhi
  · intro c ok ends
    refine ⟨fun h => ?_, fun h => ⟨_, exec_sliceFallbackEnd s, ?_⟩⟩
    · rw [exec_sliceFallbackEnd, fallbackEnd_of_not_ends h]
    · have he : EV.CAL_DONE < 384 ∧ EV.CAL_INCOMPLETE < 384 := by decide
      have hev : (if ok then EV.CAL_DONE else EV.CAL_INCOMPLETE) < 384 := by split <;> simp [he]
      have hend := (closeFallback_ended c).announces (raise_announces _ hev (closeFallback c))
      rw [fallbackEnd_of_ends h]
      refine ⟨hend.keeps, hend.mems, hend.ext, hend.result, hend.runs, hend.fallback, raise_seen _ hev _, hend.running, fun ch hch => ?_⟩
      have hset := hend.settles ch hch
      have hfld : (raise (if ok then EV.CAL_DONE else EV.CAL_INCOMPLETE) (closeFallback c)).fld F.WAV_SETTLE_FRAMES = c.fld F.WAV_SETTLE_FRAMES :=
        congrArg (fieldOf · _) hend.keeps.active
      exact ⟨hset.1.trans (by rw [hfld]), hset.2⟩
  · intro c due step
    refine ⟨fun h => ?_, fun h => ⟨_, exec_calRampStep s, ?_⟩⟩
    · rw [exec_calRampStep, rampStep_of_not_due h]
    · have hsame := rampStep_sameRamp h
      refine ⟨hsame.ramp, hsame.clk, hsame.rst, fun p t hp ht htrim hgain htouched => ?_⟩
      have hstep := rampStep_stepped h htrim hgain htouched ht
      have hnext : c.nextGain p t = if c.fld (F.PRT_GAIN_G p) < t then min t (c.fld (F.PRT_GAIN_G p) + step)
        else max t (c.fld (F.PRT_GAIN_G p) - step) := toNat_stepTo _ _ _
      rw [hnext] at hstep
      exact ⟨hstep.active, hstep.shadow, hstep.targets⟩
  · intro u byte old latch v
    have hnext : c.nextTrim key t = v := nextTrim_eq c key t
    have hstep := trimStep_stepped (t := t) hlen h2 h3 htouched (nextTrim_lt c key ht)
    rw [hnext] at hstep
    exact ⟨hstep.active, hstep.shadow, hstep.clk, hstep.latch, hstep.others⟩

end Sys2Proof.Machine
end

section
/-! PROOFS. RUN blocks of the measures (R235): which measures move to another block, and what RUN is after it. -/

namespace Sys2Proof.Machine

/-! ### The blocks -/

/-- `t` differs from `s` at most in the measures. -/
structure MeasOnly (s t : Chip) : Prop where
  rest : t = { s with meas := t.meas }

section
variable {s t : Chip}

theorem MeasOnly.refl (s : Chip) : MeasOnly s s := ⟨rfl⟩

theorem MeasOnly.setMeasure (h : MeasOnly s t) (n : Nat) (m : Meas) : MeasOnly s (setMeasure n m t) :=
  ⟨congrArg (fun x : Chip => { x with meas := Table.set t.meas n m }) h.rest⟩

theorem MeasOnly.measType (h : MeasOnly s t) (k n : Nat) : t.measType k n = s.measType k n := by rw [h.rest]; rfl

theorem MeasOnly.now (h : MeasOnly s t) : t.now = s.now := by rw [h.rest]; rfl

theorem MeasOnly.fld (h : MeasOnly s t) (f : Fld) : t.fld f = s.fld f := by rw [h.rest]; rfl

end

theorem Chip.measure_setMeasure_same (s : Chip) (n : Nat) (m : Meas) : (setMeasure n m s).measure n = m := Table.get_set_same _ _ _ _

theorem Chip.measure_setMeasure_ne (s : Chip) {n k : Nat} (m : Meas) (h : k ≠ n) : (setMeasure n m s).measure k = s.measure k :=
  Table.get_set_ne _ _ _ h.symm

/-- The number of the block in which measure n counts now (R235). -/
def Chip.blockNow (s : Chip) (n : Nat) : Nat := s.now / blockFtu (s.measure n).rw

/-- Measure n moves to another block when those advance whose RW `sel` selects (R235). -/
def Chip.blockMoves (s : Chip) (ok : List Bool) (sel : Nat → Bool) (n : Nat) : Bool :=
  nth false ok n && [1, 2, 3, 6].contains (s.measType 0 n) && sel (s.measure n).rw && (s.measure n).blk != s.blockNow n

theorem Chip.blockMoves_iff (s : Chip) (sel : Nat → Bool) (n : Nat) : s.blockMoves (s.measTable 0) sel n = true ↔
    s.measOk 0 n = true ∧ (s.measType 0 n = 1 ∨ s.measType 0 n = 2 ∨ s.measType 0 n = 3 ∨ s.measType 0 n = 6) ∧
      sel (s.measure n).rw = true ∧ (s.measure n).blk ≠ s.blockNow n := by
  unfold Chip.blockMoves Chip.measOk
  simp only [Bool.and_eq_true, bne_iff_ne, List.contains_eq_mem, List.mem_cons, List.not_mem_nil, or_false, decide_eq_true_eq, and_assoc]

/-- One measure of those that advance. -/
def advanceOne (ok : List Bool) (sel : Nat → Bool) (acc : List (Nat × Nat) × Chip) (n : Nat) : List (Nat × Nat) × Chip :=
  if acc.2.blockMoves ok sel n then
    (acc.1 ++ [(n, acc.2.blockNow n * blockFtu (acc.2.measure n).rw)], setMeasure n ((acc.2.measure n).toBlock (acc.2.blockNow n)) acc.2)
  else acc

/-- The first N measures advance: those that moved, with the times of their boundaries, and the chip. -/
def advanceFirst (ok : List Bool) (sel : Nat → Bool) (N : Nat) (s : Chip) : List (Nat × Nat) × Chip :=
  (List.range N).foldl (advanceOne ok sel) ([], s)

theorem advanceFirst_succ (ok : List Bool) (sel : Nat → Bool) (N : Nat) (s : Chip) :
    advanceFirst ok sel (N + 1) s = advanceOne ok sel (advanceFirst ok sel N s) N := by
  unfold advanceFirst
  rw [List.range_succ, List.foldl_append]
  rfl

theorem advanceBlocks_of_off (sel : Nat → Bool) {s : Chip} (h : s.loopsOn 0 = false) : advanceBlocks sel s = s := if_pos (by rw [h]; rfl)

theorem advanceBlocks_of_on (sel : Nat → Bool) {s : Chip} (h : s.loopsOn 0 = true) : advanceBlocks sel s =
    updateRuns (advanceFirst (s.measTable 0) sel 128 s).1 (advanceFirst (s.measTable 0) sel 128 s).2 := if_neg (by rw [h]; decide)

/-- What the first N measures of `s` are, and which have moved, after they have advanced. -/
structure Advanced (ok : List Bool) (sel : Nat → Bool) (N : Nat) (s : Chip) (r : List (Nat × Nat) × Chip) : Prop where
  only : MeasOnly s r.2
  moved : ∀ n, n < N → s.blockMoves ok sel n = true → r.2.measure n = (s.measure n).toBlock (s.blockNow n)
  kept : ∀ n, N ≤ n ∨ s.blockMoves ok sel n = false → r.2.measure n = s.measure n
  named : ∀ n, n < N → s.blockMoves ok sel n = true → ∃ t, (n, t) ∈ r.1

section
variable {ok : List Bool} {sel : Nat → Bool} {N : Nat} {s : Chip} {r : List (Nat × Nat) × Chip}

theorem Advanced.advanceOne (h : Advanced ok sel N s r) : Advanced ok sel (N + 1) s (advanceOne ok sel r N) := by
  have hself : r.2.measure N = s.measure N := h.kept N (.inl (Nat.le_refl N))
  have hnow : r.2.blockNow N = s.blockNow N := by unfold Chip.blockNow; rw [h.only.now, hself]
  have hmoves : r.2.blockMoves ok sel N = s.blockMoves ok sel N := by unfold Chip.blockMoves; rw [h.only.measType, hself, hnow]
  unfold Sys2Proof.Machine.advanceOne
  rw [hmoves, hself, hnow]
  split
  · next hN =>
    refine ⟨h.only.setMeasure N _, fun n hn hm => ?_, fun n hn => ?_, fun n hn hm => ?_⟩
    · by_cases hnN : n = N
      · subst hnN
        exact r.2.measure_setMeasure_same n _
      · exact (r.2.measure_setMeasure_ne _ hnN).trans (h.moved n (by omega) hm)
    · have hnN : n ≠ N := by
        rintro rfl
        rcases hn with hn | hn
        · omega
        · rw [hN] at hn
          cases hn
      exact (r.2.measure_setMeasure_ne _ hnN).trans (h.kept n (hn.imp (by omega) id))
    · by_cases hnN : n = N
      · subst hnN
        exact ⟨_, List.mem_append_right _ (List.mem_singleton.mpr rfl)⟩
      · obtain ⟨t, ht⟩ := h.named n (by omega) hm
        exact ⟨t, List.mem_append_left _ ht⟩
  · next hN =>
    have hlt : ∀ n, n < N + 1 → s.blockMoves ok sel n = true → n < N := fun n hn hm => by
      rcases Nat.lt_succ_iff_lt_or_eq.mp hn with hlt | rfl
      · exact hlt
      · exact absurd hm hN
    exact ⟨h.only, fun n hn hm => h.moved n (hlt n hn hm) hm, fun n hn => h.kept n (hn.imp (by omega) id),
      fun n hn hm => h.named n (hlt n hn hm) hm⟩

theorem advanceFirst_advanced (ok : List Bool) (sel : Nat → Bool) (N : Nat) (s : Chip) :
    Advanced ok sel N s (advanceFirst ok sel N s) := by
  induction N with
  | zero => exact ⟨.refl s, fun n hn => absurd hn (by omega), fun _ _ => rfl, fun n hn => absurd hn (by omega)⟩
  | succ N ih =>
    rw [advanceFirst_succ]
    exact ih.advanceOne

end

/-! ### RUN -/

/-- The time at which measure i changed, where RUN of measure i is to be brought up to date (R233). -/
def runTime (ns : List (Nat × Nat)) (ok : List Bool) (acc : List (Nat × Nat) × Chip) (i : Nat) : Option Nat :=
  match ns.find? fun x => x.1 == i with
  | some x => some x.2
  | none =>
    if (acc.2.measType 0 i == 7 || acc.2.measType 0 i == 8) && nth false ok i then
      (acc.1.find? fun x => x.1 == acc.2.fld (F.LOOP_M_P3_A i) || x.1 == acc.2.fld (F.LOOP_M_P3_B i)).map Prod.snd
    else none

/-- RUN of one measure is brought up to date. -/
def updateRun (ns : List (Nat × Nat)) (ok : List Bool) (acc : List (Nat × Nat) × Chip) (i : Nat) : List (Nat × Nat) × Chip :=
  match runTime ns ok acc i with
  | some t => (acc.1 ++ [(i, t)], acc.2.setFld (F.LOOP_M_RUN_VALUE i) (unsext 32 (acc.2.runNow i ok)))
  | none => acc

/-- RUN of the first N measures is brought up to date: those that changed, and the chip. -/
def updateFirst (ns : List (Nat × Nat)) (ok : List Bool) (N : Nat) (s : Chip) : List (Nat × Nat) × Chip :=
  (List.range N).foldl (updateRun ns ok) ([], s)

theorem updateFirst_succ (ns : List (Nat × Nat)) (ok : List Bool) (N : Nat) (s : Chip) :
    updateFirst ns ok (N + 1) s = updateRun ns ok (updateFirst ns ok N s) N := by
  unfold updateFirst
  rw [List.range_succ, List.foldl_append]
  rfl

/-- RUN of each measure, and then the conditions that watch those that changed. -/
theorem updateRuns_eq {ns : List (Nat × Nat)} (h : ns ≠ []) (s : Chip) : updateRuns ns s =
    forAll (updateFirst ns (s.measTable 0) 128 s).1 (fun x u => evalLevel (s.measTable 0) x.1 x.2 u) (updateFirst ns (s.measTable 0) 128 s).2 :=
  if_neg (by rwa [List.isEmpty_iff])

theorem updateRuns_nil (s : Chip) : updateRuns [] s = s := rfl

section
variable {ns : List (Nat × Nat)} {ok : List Bool} {N n : Nat} {s : Chip}

/-- A measure's update leaves the chip alone or sets its RUN. -/
theorem updateRun_cases (ns : List (Nat × Nat)) (ok : List Bool) (acc : List (Nat × Nat) × Chip) (i : Nat) :
    (updateRun ns ok acc i).2 = acc.2 ∨ ∃ v, (updateRun ns ok acc i).2 = acc.2.setFld (F.LOOP_M_RUN_VALUE i) v := by
  unfold updateRun
  split
  · exact .inr ⟨_, rfl⟩
  · exact .inl rfl

theorem updateRun_of_named {t : Nat} (h : (n, t) ∈ ns) (ok : List Bool) (acc : List (Nat × Nat) × Chip) :
    (updateRun ns ok acc n).2 = acc.2.setFld (F.LOOP_M_RUN_VALUE n) (unsext 32 (acc.2.runNow n ok)) := by
  obtain ⟨x, hx⟩ := Option.isSome_iff_exists.mp (List.find?_isSome (p := fun x => x.1 == n) |>.mpr ⟨(n, t), h, beq_self_eq_true n⟩)
  have htime : runTime ns ok acc n = some x.2 := by
    unfold runTime
    rw [hx]
  unfold updateRun
  rw [htime]

theorem updateFirst_directOnly (ns : List (Nat × Nat)) (ok : List Bool) (N : Nat) (s : Chip) : DirectOnly s (updateFirst ns ok N s).2 := by
  induction N with
  | zero => exact .refl s
  | succ N ih =>
    rw [updateFirst_succ]
    rcases updateRun_cases ns ok (updateFirst ns ok N s) N with h | ⟨v, h⟩
    · rw [h]
      exact ih
    · rw [h]
      exact ih.setFld

theorem runAddr_ne {n k : Nat} (h : n ≠ k) : (F.LOOP_M_RUN_VALUE n).addr ≠ (F.LOOP_M_RUN_VALUE k).addr := by
  show 0x80904 + 8 * n ≠ 0x80904 + 8 * k
  omega

/-- RUN of a measure that changed is what it should be by the measures before it. -/
theorem updateFirst_run {t : Nat} (h : (n, t) ∈ ns) (hn : n < N) : (updateFirst ns ok N s).2.fld (F.LOOP_M_RUN_VALUE n) =
    unsext 32 ((updateFirst ns ok n s).2.runNow n ok) % 2 ^ 32 := by
  induction N with
  | zero => omega
  | succ N ih =>
    rw [updateFirst_succ]
    rcases Nat.lt_succ_iff_lt_or_eq.mp hn with hlt | rfl
    · rcases updateRun_cases ns ok (updateFirst ns ok N s) N with hu | ⟨v, hu⟩
      · rw [hu]
        exact ih hlt
      · rw [hu, Chip.fld_setFld_ne _ _ (runAddr_ne (by omega))]
        exact ih hlt
    · rw [updateRun_of_named h, Chip.fld_setFld_same _ (F.LOOP_M_RUN_VALUE n) _ (by decide : 1 ≤ 32 ∧ 0 + 32 ≤ 32) rfl]
      rfl

theorem evalLevel_meas (ok : List Bool) (n t : Nat) (s : Chip) : (evalLevel ok n t s).meas = s.meas := by
  refine List.foldlRecOn (motive := fun u : Chip => u.meas = s.meas) _ _ rfl fun u hu c hc => ?_
  have hmeet : ∀ (b : Bool) (v : Chip), v.meas = s.meas → (if b = true then meetCond raise c t v else v).meas = s.meas := fun b v hv => by
    split
    · exact (meetCond_announces raise_quiet c t (List.mem_range.mp hc) v).meas.trans hv
    · exact hv
  dsimp only
  split
  · exact hmeet _ _ hu
  · exact hu

theorem updateRuns_meas (ns : List (Nat × Nat)) (s : Chip) : (updateRuns ns s).meas = s.meas := by
  by_cases h : ns = []
  · rw [h, updateRuns_nil]
  · rw [updateRuns_eq h]
    have hfirst : (updateFirst ns (s.measTable 0) 128 s).2.meas = s.meas := by rw [(updateFirst_directOnly ns (s.measTable 0) 128 s).rest]
    exact List.foldlRecOn (motive := fun u : Chip => u.meas = s.meas) _ _ hfirst
      fun u hu x _ => (evalLevel_meas _ _ _ u).trans hu

/-- No condition is a level condition of a measure (R244). -/
def Chip.NoLevels (s : Chip) : Prop := ∀ k, k < 16 → s.fld (F.LOOP_SC_CFG_TYPE k) ≠ 1 ∧ s.fld (F.LOOP_SC_CFG_TYPE k) ≠ 2

theorem evalLevel_of_noLevels (h : s.NoLevels) (ok : List Bool) (n t : Nat) : evalLevel ok n t s = s := by
  refine List.foldlRecOn (motive := fun u => u = s) _ _ rfl fun u hu c hc => ?_
  obtain ⟨h1, h2⟩ := h c (List.mem_range.mp hc)
  subst hu
  simp only [h1, h2, decide_false, Bool.or_false, Bool.false_and, Bool.false_eq_true, if_false]

/-- Without level conditions RUN alone is brought up to date. -/
theorem updateRuns_of_noLevels (h : s.NoLevels) (hne : ns ≠ []) : updateRuns ns s = (updateFirst ns (s.measTable 0) 128 s).2 := by
  have hlev : (updateFirst ns (s.measTable 0) 128 s).2.NoLevels := fun k hk => by
    rw [(updateFirst_directOnly ns (s.measTable 0) 128 s).rest]
    exact h k hk
  rw [updateRuns_eq hne]
  exact List.foldlRecOn (motive := fun u => u = (updateFirst ns (s.measTable 0) 128 s).2) _ _ rfl fun u hu x _ => by
    rw [hu]
    exact evalLevel_of_noLevels hlev _ _ _

/-- RUN of a hit or record measure whose newer block is empty: the larger of the two sums (R235). -/
theorem Chip.runNow_of_fresh (hok : nth false ok n = true) (htyp : s.measType 0 n = 1 ∨ s.measType 0 n = 2 ∨ s.measType 0 n = 6)
    (hcur : (s.measure n).cur = Stat.empty) :
    s.runNow n ok = scaleQ (max 0 (s.measure n).old.sum) (s.fld (F.LOOP_M_CFG_SHIFT n)) := by
  have hraw : ∀ (x : Stat) (typ stat : Nat), typ ≠ 3 → x.raw typ stat = some x.sum := fun x typ stat h => if_neg h
  unfold Chip.runNow Chip.runOf
  rw [hok]
  rcases htyp with h | h | h <;> simp [h, hcur, hraw, Stat.empty]

end

/-! ### MEASURE_BLOCK_BOUNDARY -/

section
variable {sel : Nat → Bool} {n : Nat} {s : Chip}

theorem advanceBlocks_measure (sel : Nat → Bool) (n : Nat) (h : s.loopsOn 0 = true) :
    (advanceBlocks sel s).measure n = (advanceFirst (s.measTable 0) sel 128 s).2.measure n := by
  rw [advanceBlocks_of_on sel h]
  exact congrArg (Table.get Meas.rest · n) (updateRuns_meas _ _)

/-- RUN of a measure that moves to another block. -/
theorem advanceBlocks_run (h : s.loopsOn 0 = true) (hlev : s.NoLevels) (hn : n < 128) (hm : s.blockMoves (s.measTable 0) sel n = true)
    (htyp : s.measType 0 n ≠ 3) : (advanceBlocks sel s).fld (F.LOOP_M_RUN_VALUE n) =
      unsext 32 (scaleQ (max 0 (if (s.measure n).blk + 1 = s.blockNow n then (s.measure n).cur.sum else 0)) (s.fld (F.LOOP_M_CFG_SHIFT n)))
        % 2 ^ 32 := by
  have hadv := advanceFirst_advanced (s.measTable 0) sel 128 s
  rw [advanceBlocks_of_on sel h]
  generalize advanceFirst (s.measTable 0) sel 128 s = r at hadv
  have htable : r.2.measTable 0 = s.measTable 0 := by rw [hadv.only.rest]; rfl
  obtain ⟨t, ht⟩ := hadv.named n hn hm
  have hlev' : r.2.NoLevels := fun k hk => by
    rw [hadv.only.fld]
    exact hlev k hk
  rw [updateRuns_of_noLevels hlev' (List.ne_nil_of_mem ht), updateFirst_run ht hn, htable]
  have hrun := updateFirst_directOnly r.1 (s.measTable 0) n r.2
  generalize (updateFirst r.1 (s.measTable 0) n r.2).2 = v at hrun
  obtain ⟨hok, hown, -, hblk⟩ := (s.blockMoves_iff sel n).mp hm
  have hmeas : v.measure n = { s.measure n with
      blk := s.blockNow n, cur := Stat.empty, old := if (s.measure n).blk + 1 = s.blockNow n then (s.measure n).cur else Stat.empty } := by
    rw [hrun.rest]
    exact (hadv.moved n hn hm).trans (if_neg hblk)
  have hvtyp : v.measType 0 n = s.measType 0 n := by
    rw [hrun.rest]
    exact hadv.only.measType 0 n
  have hshift : v.fld (F.LOOP_M_CFG_SHIFT n) = s.fld (F.LOOP_M_CFG_SHIFT n) := by
    rw [hrun.rest]
    exact hadv.only.fld _
  rw [Chip.runNow_of_fresh hok (by rw [hvtyp]; omega) (by rw [hmeas]), hmeas, hshift]
  dsimp only
  split
  · rfl
  · rfl

end

end Sys2Proof.Machine
end

section
/-! PROOFS. The release of a safety condition (R245, R246, R248): when it comes, and the pins and loops after it. -/

namespace Sys2Proof.Machine

section
variable (k : Nat) (s : Chip)

/-- Condition k is released at this tick (R246). -/
def Chip.SafetyEnds : Prop :=
  s.asserting k = true ∧ s.latched k = false ∧ s.flag (F.LOOP_SC_CFG_LATCH k) = false ∧ (s.scState k).met = false ∧
    max 1 (s.fld (F.LOOP_SC_MIN_FRAMES k)) ≤ (s.scState k).frames ∧ s.clk.cclk = 0

theorem safetyEnds_iff : (s.asserting k && !s.latched k && !s.flag (F.LOOP_SC_CFG_LATCH k) && !(s.scState k).met
    && decide (s.scMin k ≤ (s.scState k).frames) && s.clk.cclk == 0) = true ↔ s.SafetyEnds k := by
  simp only [Bool.and_eq_true, Bool.not_eq_true', decide_eq_true_eq, beq_iff_eq, and_assoc]
  rfl

theorem safetyRelease_of_ends (h : s.SafetyEnds k) : safetyRelease k s = stopAsserting k s := if_pos ((safetyEnds_iff k s).mpr h)

theorem safetyRelease_of_not_ends (h : ¬ s.SafetyEnds k) : safetyRelease k s = s := if_neg fun he => h ((safetyEnds_iff k s).mp he)

end

section
variable {k : Nat} {s : Chip}

/-- Of the assertions a release ends that of its condition alone. -/
theorem stopAsserting_asserting (hk : k < 16) (j : Nat) : (stopAsserting k s).asserting j = (s.asserting j && decide (j ≠ k)) :=
  s.testBit_setBit_false j (by decide) rfl hk

theorem stopAsserting_fld {f : Fld} (h : f.addr ≠ F.LOOP_SAFE_STAT_ASSERT.addr) : (stopAsserting k s).fld f = s.fld f :=
  s.fld_setFld_ne _ h

/-- The loops are held after a release where another condition holds them (R248). -/
theorem release_holdsLoops (hk : k < 16) : (s.setBit F.LOOP_SAFE_STAT_ASSERT k false).holdsLoops =
    (List.range 16).any fun j => j != k && s.asserting j && s.flag (F.LOOP_SC_CFG_HOLDLOOPS j) := by
  unfold Chip.holdsLoops
  congr 1
  funext j
  have hj : (s.setBit F.LOOP_SAFE_STAT_ASSERT k false).asserting j = (s.asserting j && decide (j ≠ k)) :=
    s.testBit_setBit_false j (by decide) rfl hk
  have hflag : (s.setBit F.LOOP_SAFE_STAT_ASSERT k false).flag (F.LOOP_SC_CFG_HOLDLOOPS j) = s.flag (F.LOOP_SC_CFG_HOLDLOOPS j) := rfl
  rw [hj, hflag, Bool.and_comm (s.asserting j)]
  congr 2
  exact (decide_not ..).trans rfl

/-- What a release leaves: the registers other than ASSERT, and everything but the conditions and the open frame. -/
theorem stopAsserting_eq (hk : k < 16) : stopAsserting k s = { s with
    regs := { s.regs with direct := (stopAsserting k s).regs.direct }, sc := (stopAsserting k s).sc
    fb := { s.fb with cur := s.fb.cur.map fun a => { a with
      held := (List.range 16).any fun j => j != k && s.asserting j && s.flag (F.LOOP_SC_CFG_HOLDLOOPS j) } } } := by
  rw [← release_holdsLoops hk]
  rfl

/-- A pin that neither FORCE nor another condition drives is released (R245). -/
theorem stopAsserting_blankDrive (hk : k < 16) (pinB : Bool)
    (hforce : s.flag (if pinB then F.LOOP_CTL_FORCE_B else F.LOOP_CTL_FORCE_A) = false)
    (hpin : ∀ j, j < 16 → j ≠ k → s.asserting j = true → s.flag (if pinB then F.LOOP_SC_CFG_PIN_B j else F.LOOP_SC_CFG_PIN_A j) = false) :
    (stopAsserting k s).blankDrive pinB = false := by
  have hforce' : (stopAsserting k s).flag (if pinB then F.LOOP_CTL_FORCE_B else F.LOOP_CTL_FORCE_A) = false :=
    (Chip.flag_congr (stopAsserting_fld (by cases pinB <;> decide))).trans hforce
  have hother : ((List.range 16).any fun j => (stopAsserting k s).asserting j &&
      (stopAsserting k s).flag (if pinB then F.LOOP_SC_CFG_PIN_B j else F.LOOP_SC_CFG_PIN_A j)) = false := by
    rw [List.any_eq_false]
    intro j hj hdrive
    rw [Bool.and_eq_true, stopAsserting_asserting hk, Bool.and_eq_true, decide_eq_true_eq] at hdrive
    obtain ⟨⟨hassert, hne⟩, hflag⟩ := hdrive
    have hsame : (stopAsserting k s).flag (if pinB then F.LOOP_SC_CFG_PIN_B j else F.LOOP_SC_CFG_PIN_A j) =
        s.flag (if pinB then F.LOOP_SC_CFG_PIN_B j else F.LOOP_SC_CFG_PIN_A j) := by cases pinB <;> rfl
    rw [hsame, hpin j (List.mem_range.mp hj) hne hassert] at hflag
    cases hflag
  unfold Chip.blankDrive
  rw [hforce', hother, Bool.or_false, Bool.and_false]

end

end Sys2Proof.Machine
end

section
/-! PROOFS. Blocks of a stream channel on their way to CSTAGE (R256, R258, R259, R269): what an emission and a flush leave, and the close of
a block of coder 0. -/

namespace Sys2Proof.Machine

/-! ### The registers and the channels of the CMP block -/

/-- `t` has the registers and the channels of the CMP block as `s` has them. -/
structure KeepsCmp (s t : Chip) : Prop where
  cmp : t.cmp = s.cmp
  active : t.regs.active = s.regs.active
  direct : ∀ a, 0x90000 ≤ a → a < 0x91000 → t.regs.direct.get a = s.regs.direct.get a

section
variable {s t u : Chip}

theorem KeepsCmp.refl (s : Chip) : KeepsCmp s s := ⟨rfl, rfl, fun _ _ _ => rfl⟩

theorem KeepsCmp.trans (h : KeepsCmp s t) (k : KeepsCmp t u) : KeepsCmp s u :=
  ⟨k.cmp.trans h.cmp, k.active.trans h.active, fun a ha hb => (k.direct a ha hb).trans (h.direct a ha hb)⟩

/-- A change of parts that are neither registers nor channels. -/
theorem KeepsCmp.same (h : KeepsCmp s t) (hc : u.cmp = t.cmp := by rfl) (hr : u.regs = t.regs := by rfl) : KeepsCmp s u :=
  h.trans ⟨hc, by rw [hr], fun _ _ _ => by rw [hr]⟩

/-- An address of the CMP block is no address that an offer of packets touches. -/
theorem shipAddr_cmp {a : Nat} (ha : 0x90000 ≤ a) (hb : a < 0x91000) : shipAddr a = false := by
  have hannounce : announceAddr a = false := by
    rw [← Bool.not_eq_true, announceAddr_iff]
    omega
  unfold shipAddr
  rw [hannounce]
  simp only [Bool.false_or, Bool.or_eq_false_iff, Bool.and_eq_false_iff, decide_eq_false_iff_not]
  omega

theorem Ships.keepsCmp (h : Ships s t) : KeepsCmp s t := ⟨h.cmp, h.active, fun a ha hb => h.direct a (shipAddr_cmp ha hb)⟩

theorem KeepsCmp.fld (h : KeepsCmp s t) {f : Fld} (ha : 0x90000 ≤ f.addr) (hb : f.addr < 0x91000) : t.fld f = s.fld f :=
  Chip.fld_congr _ _ f h.active (h.direct _ ha hb)

theorem KeepsCmp.ite {p : Prop} [Decidable p] (h : KeepsCmp s t) (k : KeepsCmp s u) : KeepsCmp s (if p then t else u) := by
  split
  · exact h
  · exact k

theorem sendContent_keepsCmp (pt cls : Nat) (o : Owner) (idx : Nat) (ws : List W64) (bad : Bool) (s : Chip) :
    KeepsCmp s (sendContent pt cls o idx ws bad s) :=
  ((KeepsCmp.refl s).same (u := (takeCseq pt s).2)).trans (enqueueAll_ships _ _ (BitVec.isLt _) _ _).keepsCmp

theorem handStore_keepsCmp (o : StoObj) (s : Chip) : KeepsCmp s (handStore o s) := by
  refine .ite (KeepsCmp.refl s).same ?_
  exact (((Ships.setFld s F.STO_REFUSE_COUNT _ (by decide) (by decide)).trans (raise_ships _ (by decide) _)).trans
    (doneReading_ships _ _ _ _)).keepsCmp

end

/-! ### Channels and lanes -/

section
variable {n l : Nat} {s t : Chip}

theorem Chip.stream_congr (h : t.cmp = s.cmp) (n : Nat) : t.stream n = s.stream n := congrArg (fun c : Cmp => Table.get _ c.chans n) h

theorem Chip.slane_of_stream (h : t.stream n = s.stream n) (l : Nat) : t.slane n l = s.slane n l :=
  congrArg (fun c : StreamCh => Table.get StreamLane.rest c.lanes l) h

theorem Chip.stream_setStream_same (s : Chip) (n : Nat) (c : StreamCh) : (setStream n c s).stream n = c := Table.get_set_same _ _ _ _

theorem Chip.stream_setSlane_same (s : Chip) (n l : Nat) (x : StreamLane) :
    (setSlane n l x s).stream n = { s.stream n with lanes := Table.set (s.stream n).lanes l x } := s.stream_setStream_same n _

theorem Chip.slane_setSlane_same (s : Chip) (n l : Nat) (x : StreamLane) : (setSlane n l x s).slane n l = x := by
  unfold Chip.slane
  rw [s.stream_setSlane_same]
  exact Table.get_set_same _ _ _ _

theorem Chip.since_setSlane (s : Chip) (n l : Nat) (x : StreamLane) : ((setSlane n l x s).stream n).since = (s.stream n).since := by
  rw [s.stream_setSlane_same]

theorem reportBacklog_stream (c : StreamCfg) (s : Chip) : (reportBacklog n c s).stream n = s.stream n := by
  unfold reportBacklog
  split
  · rfl
  · rfl

theorem reportBacklog_regs (c : StreamCfg) (s : Chip) : (reportBacklog n c s).regs = s.regs := by
  unfold reportBacklog
  split
  · rfl
  · rfl

end

/-! ### The counters of a channel -/

/-- A counter of channel n. -/
def chanF (n d : Nat) : Fld := ⟨0x90100 + d + 64 * n, 0, 32, false⟩

section
variable {n d e : Nat} {s t : Chip}

theorem fld_chanF (hn : n < 16) (h : KeepsCmp s t) (hd : d < 64 := by decide) : t.fld (chanF n d) = s.fld (chanF n d) :=
  h.fld (chanAddr_in n d hn hd).1 (chanAddr_in n d hn hd).2

theorem fld_bumpBy_chanF_same (s : Chip) (n d k : Nat) : (s.bumpBy (chanF n d) k).fld (chanF n d) = satTo 32 (s.fld (chanF n d) + k) :=
  Chip.fld_bumpBy_same s (chanF n d) k (by decide : 1 ≤ 32 ∧ 0 + 32 ≤ 32) rfl

theorem fld_setFld_chanF_ne (s : Chip) (n v : Nat) (h : d ≠ e := by decide) :
    (s.setFld (chanF n d) v).fld (chanF n e) = s.fld (chanF n e) :=
  s.fld_setFld_ne v (by show 0x90100 + e + 64 * n ≠ 0x90100 + d + 64 * n; omega)

end

/-! ### An emission -/

/-- The counts of a channel after a block with a payload of k bytes has left for CSTAGE (R259). -/
structure CountsBlock (n k : Nat) (s t : Chip) : Prop where
  blocks : t.fld (F.CMP_CH_BLOCKS_COUNT n) = satTo 32 (s.fld (F.CMP_CH_BLOCKS_COUNT n) + 1)
  bytes : t.fld (F.CMP_CH_OUT_COUNT n) = satTo 32 (s.fld (F.CMP_CH_OUT_COUNT n) + k)

/-- `t` is `s` after a block with a payload of k bytes of channel n has taken its space in CSTAGE. -/
structure Emitted (n k : Nat) (s t : Chip) : Prop extends CountsBlock n k s t where
  cmp : t.cmp = s.cmp
  bseq : t.fld (F.CMP_CH_BSEQ_NEXT n) = s.fld (F.CMP_CH_BSEQ_NEXT n)

section
variable {n l k : Nat} {o : StreamOut} {s t u : Chip}

theorem Emitted.keepsCmp (hn : n < 16) (h : Emitted n k s t) (hu : KeepsCmp t u) : Emitted n k s u where
  blocks := (fld_chanF (d := 36) hn hu).trans h.blocks
  bytes := (fld_chanF (d := 24) hn hu).trans h.bytes
  cmp := hu.cmp.trans h.cmp
  bseq := (fld_chanF (d := 16) hn hu).trans h.bseq

/-- A count in NOGAIN. -/
theorem Emitted.noGain (h : Emitted n k s t) : Emitted n k s (t.bump (F.CMP_CH_NOGAIN_COUNT n)) where
  blocks := (fld_setFld_chanF_ne (d := 32) (e := 36) t n _).trans h.blocks
  bytes := (fld_setFld_chanF_ne (d := 32) (e := 24) t n _).trans h.bytes
  cmp := h.cmp
  bseq := (fld_setFld_chanF_ne (d := 32) (e := 16) t n _).trans h.bseq

theorem Emitted.ite {p : Prop} [Decidable p] (h : Emitted n k s t) (h' : Emitted n k s u) : Emitted n k s (if p then t else u) := by
  split
  · exact h
  · exact h'

/-- The counts of a block. -/
theorem bump_emitted (hn : n < 16) (h : KeepsCmp s t) : Emitted n k s ((t.bump (F.CMP_CH_BLOCKS_COUNT n)).bumpBy (F.CMP_CH_OUT_COUNT n) k) where
  blocks := (fld_setFld_chanF_ne (d := 24) (e := 36) _ n _).trans
    ((fld_bumpBy_chanF_same t n 36 1).trans (congrArg (fun v => satTo 32 (v + 1)) (fld_chanF hn h)))
  bytes := (fld_bumpBy_chanF_same _ n 24 k).trans
    (congrArg (fun v => satTo 32 (v + k)) ((fld_setFld_chanF_ne (d := 36) t n _).trans (fld_chanF hn h)))
  cmp := h.cmp
  bseq := (fld_setFld_chanF_ne (d := 24) (e := 16) _ n _).trans ((fld_setFld_chanF_ne (d := 36) t n _).trans (fld_chanF hn h))

theorem emitBlock_emitted (hn : n < 16) (h : emitBlock n l o s = some t) : Emitted n o.payload.length s t := by
  unfold emitBlock at h
  extract_lets ws ring store at h
  split at h
  · cases h
  · next id s1 hp =>
    extract_lets s2 s3 s4 s5 at h
    have h1 : KeepsCmp s s1 :=
      ((KeepsCmp.refl s).same (u := addBacklog 3 (8 * ws.length) s)).trans (putQueue_ships 8 (by decide) _ _ _ _ _ _ _ hp).keepsCmp
    have h3 : Emitted n o.payload.length s s3 := bump_emitted hn h1
    have h4 : Emitted n o.payload.length s s4 := .ite h3.noGain h3
    have h5 : Emitted n o.payload.length s s5 := .ite (h4.keepsCmp hn (sendContent_keepsCmp ..)) h4
    cases h
    exact .ite (h5.keepsCmp hn (handStore_keepsCmp ..)) h5

end

/-! ### A flush -/

/-- What a flush leaves of lane l of channel n: its input, its open block, and the block numbers of the channel. -/
structure Flushed (n l : Nat) (s u : Chip) : Prop where
  inq : (u.slane n l).inq = (s.slane n l).inq
  open_ : (u.slane n l).open_ = (s.slane n l).open_
  since : (u.stream n).since = (s.stream n).since
  bseq : u.fld (F.CMP_CH_BSEQ_NEXT n) = s.fld (F.CMP_CH_BSEQ_NEXT n)

/-- A flush of one block that found room in CSTAGE. -/
structure FlushSent (n l k : Nat) (s u : Chip) : Prop extends Flushed n l s u, CountsBlock n k s u where
  outq : (u.slane n l).outq = []
  waits : (u.slane n l).waits = false

/-- A flush of a block that found no room in CSTAGE. -/
structure FlushWaits (n l : Nat) (s u : Chip) : Prop extends Flushed n l s u where
  outq : (u.slane n l).outq = (s.slane n l).outq
  waits : (u.slane n l).waits = true
  blocks : u.fld (F.CMP_CH_BLOCKS_COUNT n) = s.fld (F.CMP_CH_BLOCKS_COUNT n)
  bytes : u.fld (F.CMP_CH_OUT_COUNT n) = s.fld (F.CMP_CH_OUT_COUNT n)

section
variable {n l : Nat} {o : StreamOut} {s t : Chip}

theorem flushLane_sent (hn : n < 16) (hout : (s.slane n l).outq = [o]) (h : emitBlock n l o s = some t) :
    FlushSent n l o.payload.length s (flushLane n l 1 s) := by
  have hemit := emitBlock_emitted hn h
  have hlane : t.slane n l = s.slane n l := Chip.slane_of_stream (Chip.stream_congr hemit.cmp n) l
  have hflush : flushLane n l 1 s = setSlane n l { s.slane n l with
      outq := [], waits := false, busy := if (s.slane n l).waits then max (s.slane n l).busy t.time8 else (s.slane n l).busy } t := by
    simp only [flushLane, hout, h, hlane, List.isEmpty_nil, if_true]
  rw [hflush]
  refine ⟨⟨?_, ?_, ?_, hemit.bseq⟩, ⟨hemit.blocks, hemit.bytes⟩, ?_, ?_⟩
  · rw [Chip.slane_setSlane_same]
  · rw [Chip.slane_setSlane_same]
  · rw [Chip.since_setSlane, Chip.stream_congr hemit.cmp]
  · rw [Chip.slane_setSlane_same]
  · rw [Chip.slane_setSlane_same]

theorem flushLane_waits (hout : (s.slane n l).outq = [o]) (h : emitBlock n l o s = none) : FlushWaits n l s (flushLane n l 1 s) := by
  have hflush : flushLane n l 1 s = reportBacklog n o.cfg (setSlane n l { s.slane n l with waits := true } s) := by
    simp only [flushLane, hout, h]
  have hregs := reportBacklog_regs (n := n) o.cfg (setSlane n l { s.slane n l with waits := true } s)
  have hfld : ∀ f, (flushLane n l 1 s).fld f = s.fld f := fun f => by
    rw [hflush]
    unfold Chip.fld
    rw [hregs]
    rfl
  have hstream : (flushLane n l 1 s).stream n = (setSlane n l { s.slane n l with waits := true } s).stream n := by
    rw [hflush]
    exact reportBacklog_stream _ _
  have hlane : (flushLane n l 1 s).slane n l = { s.slane n l with waits := true } := by
    exact (Chip.slane_of_stream hstream l).trans (s.slane_setSlane_same n l _)
  refine ⟨⟨?_, ?_, ?_, hfld _⟩, ?_, ?_, hfld _, hfld _⟩
  · rw [hlane]
  · rw [hlane]
  · rw [hstream, Chip.since_setSlane]
  · rw [hlane]
  · rw [hlane]

end

/-! ### The close of a block of coder 0 -/

section
variable {n l : Nat} {b : StreamBlk} {s : Chip}

/-- The next block of a channel starts afresh, WRESET (R268): the block asks for it, or WIN blocks have passed. -/
def Chip.startsFresh (s : Chip) (n : Nat) (b : StreamBlk) : Bool :=
  b.wreset || (b.cfg.win != 0 && decide (b.cfg.win ≤ (s.stream n).since + 1))

/-- The bytes of a block as they came in. -/
def StreamBlk.raw (b : StreamBlk) : List Nat := b.words.flatMap wordBytes

/-- The flags of a block of coder 0 (R259). -/
def StreamBlk.rawFlags (b : StreamBlk) (fresh : Bool) : Nat :=
  place 1 15 (b2n false) ||| place 1 14 (b2n (b.bad.any fun i => decide (0 ≤ 8 * i) && decide (8 * i < 0 + b.raw.length)))
    ||| place 1 13 (b2n (b.cfg.xform && decide (b.cfg.src ≤ 3))) ||| place 1 12 (b2n fresh) ||| place 1 11 (b2n false)
    ||| place 1 10 (b2n (b.newcfg && true))

/-- The stream block that coder 0 makes of a block (R253, R259). -/
def Chip.rawOut (s : Chip) (n : Nat) (b : StreamBlk) : StreamOut :=
  ⟨b.cfg, s.fld (F.CMP_CH_BSEQ_NEXT n), (b.at_ 0).1, (b.at_ 0).2, 0, b.raw, b.raw.length, b.rawFlags (s.startsFresh n b)⟩

/-- `u` is `s` after the open block of lane l of channel n has been coded and numbered by coder 0: it waits to leave. -/
structure Coded (n l : Nat) (b : StreamBlk) (s u : Chip) : Prop where
  inq : (u.slane n l).inq = (s.slane n l).inq
  open_ : (u.slane n l).open_ = none
  outq : (u.slane n l).outq = [s.rawOut n b]
  since : (u.stream n).since = if s.startsFresh n b then 0 else (s.stream n).since + 1
  bseq : u.fld (F.CMP_CH_BSEQ_NEXT n) = (s.fld (F.CMP_CH_BSEQ_NEXT n) + 1) % 2 ^ 32
  blocks : u.fld (F.CMP_CH_BLOCKS_COUNT n) = s.fld (F.CMP_CH_BLOCKS_COUNT n)
  bytes : u.fld (F.CMP_CH_OUT_COUNT n) = s.fld (F.CMP_CH_OUT_COUNT n)

theorem bufferRead_of_coder0 (h : b.cfg.coder = 0) (n l pos : Nat) (ws : List W64) (s : Chip) : bufferRead n l pos b.cfg ws s = (ws, [], s) := by
  have hbuf : s.coderBuffer n l b.cfg = none := by
    unfold Chip.coderBuffer
    simp only [h]
  unfold bufferRead
  rw [hbuf]

theorem codedParts_of_coder0 (h : b.cfg.coder = 0) (old words : List W64) :
    codedParts b old words = [(0, words.flatMap wordBytes, (words.flatMap wordBytes).length, false)] := by
  unfold codedParts
  simp only [h]

/-- `s` after the open block of lane l of channel n has been coded by coder 0 and numbered. -/
def rawClosed (n l : Nat) (b : StreamBlk) (s : Chip) : Chip :=
  (setSlane n l { s.slane n l with
      open_ := none, outq := [s.rawOut n b], wreset := (s.slane n l).wreset || !b.bad.isEmpty, hist := [] }
    (setStream n { s.stream n with since := if s.startsFresh n b then 0 else (s.stream n).since + 1 } s)).setFld
      (F.CMP_CH_BSEQ_NEXT n) ((s.fld (F.CMP_CH_BSEQ_NEXT n) + 1) % 2 ^ 32)

theorem closeBlock_of_coder0 (hopen : (s.slane n l).open_ = some b) (hout : (s.slane n l).outq = []) (hcoder : b.cfg.coder = 0) :
    closeBlock n l false s = flushLane n l 1 (rawClosed n l b s) := by
  unfold closeBlock
  simp only [hopen, bufferRead_of_coder0 hcoder, codedParts_of_coder0 hcoder, List.drop_left, List.map_nil,
    List.append_nil, hcoder, hout, List.nil_append, numberParts, Bool.or_false]
  rfl

theorem rawClosed_coded (n l : Nat) (b : StreamBlk) (s : Chip) : Coded n l b s (rawClosed n l b s) := by
  have hlane : (rawClosed n l b s).slane n l = { s.slane n l with
      open_ := none, outq := [s.rawOut n b], wreset := (s.slane n l).wreset || !b.bad.isEmpty, hist := [] } := Chip.slane_setSlane_same _ n l _
  have hstream : (rawClosed n l b s).stream n = (setSlane n l _ (setStream n _ s)).stream n := rfl
  refine ⟨?_, ?_, ?_, ?_, ?_, fld_setFld_chanF_ne (d := 16) (e := 36) _ n _, fld_setFld_chanF_ne (d := 16) (e := 24) _ n _⟩
  · rw [hlane]
  · rw [hlane]
  · rw [hlane]
  · rw [hstream, Chip.since_setSlane, Chip.stream_setStream_same]
  · exact (Chip.fld_setFld_same _ (chanF n 16) _ (by decide : 1 ≤ 32 ∧ 0 + 32 ≤ 32) rfl).trans (Nat.mod_mod _ _)

/-- A coded block leaves for CSTAGE and is counted, or waits. -/
theorem Coded.flush {u : Chip} (hn : n < 16) (h : Coded n l b s u) : Flushed n l u (flushLane n l 1 u) ∧
    ((((flushLane n l 1 u).slane n l).outq = [s.rawOut n b] ∧
        (flushLane n l 1 u).fld (F.CMP_CH_BLOCKS_COUNT n) = s.fld (F.CMP_CH_BLOCKS_COUNT n) ∧
        (flushLane n l 1 u).fld (F.CMP_CH_OUT_COUNT n) = s.fld (F.CMP_CH_OUT_COUNT n)) ∨
      (((flushLane n l 1 u).slane n l).outq = [] ∧ CountsBlock n b.raw.length s (flushLane n l 1 u))) := by
  cases he : emitBlock n l (s.rawOut n b) u with
  | none =>
    have hwaits := flushLane_waits h.outq he
    exact ⟨hwaits.toFlushed, .inl ⟨hwaits.outq.trans h.outq, hwaits.blocks.trans h.blocks, hwaits.bytes.trans h.bytes⟩⟩
  | some t =>
    have hsent := flushLane_sent hn h.outq he
    exact ⟨hsent.toFlushed, .inr ⟨hsent.outq, h.blocks ▸ hsent.blocks, h.bytes ▸ hsent.bytes⟩⟩

theorem foldl_snd_eq_getLastD {α β : Type} (l : List (α × β)) (d : α × β) : l.foldl (fun _ x => x.2) d.2 = (l.getLastD d).2 := by
  induction l generalizing d with
  | nil => rfl
  | cons x l ih => rw [List.foldl_cons, ih, List.getLastD_cons]

/-- Frame and epoch of the first byte of a block (R259). -/
theorem StreamBlk.at_zero (b : StreamBlk) : b.at_ 0 = ((b.starts.filter fun x => x.1 == 0).getLastD (0, b.frame, b.epoch)).2 := by
  have hfirst : (fun x : Nat × Nat × Nat => decide (8 * x.1 ≤ 0)) = fun x => x.1 == 0 := by
    funext x
    rw [Bool.eq_iff_iff]
    simp
  unfold StreamBlk.at_
  rw [hfirst]
  exact foldl_snd_eq_getLastD _ (0, b.frame, b.epoch)

theorem testBit_place_b2n (lo i : Nat) (v : Bool) : (place 1 lo (b2n v)).testBit i = (decide (i = lo) && v) := by
  by_cases h : i = lo
  · rw [h, testBit_place_one, decide_eq_true rfl, Bool.true_and]
  · rw [testBit_place_out _ _ _ _ (by omega), decide_eq_false h, Bool.false_and]

/-- The flags of a block of coder 0, bit by bit (R259, R272). -/
theorem StreamBlk.testBit_rawFlags (b : StreamBlk) (fresh : Bool) :
    (b.rawFlags fresh).testBit 14 = decide (∃ i ∈ b.bad, 8 * i < b.raw.length) ∧ (b.rawFlags fresh).testBit 12 = fresh ∧
      (b.rawFlags fresh).testBit 11 = false ∧ (b.rawFlags fresh).testBit 10 = b.newcfg := by
  have hbad : (b.bad.any fun i => decide (0 ≤ 8 * i) && decide (8 * i < 0 + b.raw.length)) = decide (∃ i ∈ b.bad, 8 * i < b.raw.length) := by
    rw [Bool.eq_iff_iff]
    simp
  unfold StreamBlk.rawFlags
  rw [hbad]
  simp only [Nat.testBit_or, testBit_place_b2n]
  simp

end

/-! ### A lane without input -/

section
variable {n l : Nat} {s : Chip}

theorem workLane_of_waiting {o : StreamOut} (hout : (s.slane n l).outq = [o]) : workLane n l s = s := by
  have hrun : ∀ k, runLane n l (k + 1) s = s := fun k => by
    unfold runLane
    simp only [hout]
  unfold workLane
  split
  · exact hrun _
  · rfl

theorem runLane_of_rest (hin : (s.slane n l).inq = []) (hout : (s.slane n l).outq = [])
    (hopen : ∀ b, (s.slane n l).open_ = some b → b.words.length < 512 * b.cfg.blk) (k : Nat) : runLane n l (k + 1) s = s := by
  unfold runLane
  simp only [hin, hout]
  split
  · next b hb => exact if_neg (Nat.not_le.mpr (hopen b hb))
  · rfl

theorem workLane_of_rest (hin : (s.slane n l).inq = []) (hout : (s.slane n l).outq = [])
    (hopen : ∀ b, (s.slane n l).open_ = some b → b.words.length < 512 * b.cfg.blk) : workLane n l s = s := by
  unfold workLane
  split
  · exact runLane_of_rest hin hout hopen _
  · rfl

theorem workLane_of_full {b : StreamBlk} (hup : s.domainUp 7 = true) (hin : (s.slane n l).inq = []) (hout : (s.slane n l).outq = [])
    (hopen : (s.slane n l).open_ = some b) (hfull : 512 * b.cfg.blk ≤ b.words.length) : workLane n l s = closeBlock n l false s := by
  have hrun : ∀ k, runLane n l (k + 1) s = closeBlock n l false s := fun k => by
    unfold runLane
    simp only [hin, hout, hopen]
    exact if_pos hfull
  exact (if_pos hup).trans (hrun _)

theorem workLane_of_down (hup : s.domainUp 7 = false) : workLane n l s = s := if_neg (by rw [hup]; decide)

theorem laneRoom_of_down (hup : s.domainUp 7 = false) : laneRoom n l s = s := if_neg (by rw [hup]; decide)

theorem laneRoom_of_rest (hin : (s.slane n l).inq = []) (hout : (s.slane n l).outq = [])
    (hopen : ∀ b, (s.slane n l).open_ = some b → b.words.length < 512 * b.cfg.blk) : laneRoom n l s = s := by
  unfold laneRoom
  rw [hout]
  split
  · exact workLane_of_rest hin hout hopen
  · rfl

/-- A block that waits leaves, or waits on, and the lane does no more. -/
theorem laneRoom_of_one {o : StreamOut} (hn : n < 16) (hup : s.domainUp 7 = true) (hin : (s.slane n l).inq = []) (hopen : (s.slane n l).open_ = none)
    (hout : (s.slane n l).outq = [o]) : laneRoom n l s = flushLane n l 1 s := by
  have hroom : laneRoom n l s = workLane n l (flushLane n l 1 s) := by
    unfold laneRoom
    rw [if_pos hup, hout]
    rfl
  rw [hroom]
  cases h : emitBlock n l o s with
  | none => exact workLane_of_waiting ((flushLane_waits hout h).outq.trans hout)
  | some t =>
    have hsent := flushLane_sent hn hout h
    exact workLane_of_rest (hsent.inq.trans hin) hsent.outq fun b hb => by
      rw [hsent.open_, hopen] at hb
      cases hb

/-- A full block of coder 0 closes: it is numbered, and leaves or waits. -/
theorem workLane_of_full_coder0 {b : StreamBlk} (hup : s.domainUp 7 = true) (hin : (s.slane n l).inq = []) (hout : (s.slane n l).outq = [])
    (hopen : (s.slane n l).open_ = some b) (hfull : 512 * b.cfg.blk ≤ b.words.length) (hcoder : b.cfg.coder = 0) :
    workLane n l s = flushLane n l 1 (rawClosed n l b s) :=
  (workLane_of_full hup hin hout hopen hfull).trans (closeBlock_of_coder0 hopen hout hcoder)

end

end Sys2Proof.Machine
end

section
/-! PROOFS. The obligation on the rows of the measures, the safety conditions and the stream channels. -/

namespace Sys2Proof.Machine

theorem exec_measureBlockBoundary (rw : Fin 6) (s : State) :
    exec (.measureBlockBoundary rw) s = .next { s with chip := blockBoundaryOf rw s.chip } := rfl

theorem exec_safetyRelease (k : Fin 16) (s : State) : exec (.safetyRelease k) s = .next { s with chip := safetyRelease k s.chip } := rfl

theorem exec_streamBlockClose (n : Fin 16) (l : Fin 8) (s : State) :
    exec (.streamBlockClose n l) s = .next { s with chip := workLane n l s.chip } := rfl

theorem exec_cstageRoom (n : Fin 16) (l : Fin 8) (s : State) : exec (.cstageRoom n l) s = .next { s with chip := laneRoom n l s.chip } := rfl

/-- Settles O52: a boundary by the measures that move (`advanceFirst_advanced`, `advanceBlocks_run`), a release by what it leaves, a lane by
what it holds, and a block by whether CSTAGE has room for it. -/
theorem measureSafetyAndStreamRowsComplete : Obligations.MeasureSafetyAndStreamRowsComplete := by
  unfold Obligations.MeasureSafetyAndStreamRowsComplete
  refine ⟨fun rw s => ?_, fun k s => ?_, fun n l s => ?_⟩
  · intro c on b moves
    refine ⟨fun hoff => ?_, fun hon => ⟨_, exec_measureBlockBoundary rw s, blockBoundaryOf_feeds rw c, fun n hn => ?_⟩⟩
    · rw [exec_measureBlockBoundary]
      exact congrArg (fun u => Host.Outcome.next { s with chip := u }) (advanceBlocks_of_off _ (Bool.eq_false_iff.mpr hoff))
    · intro m
      have hadv := advanceFirst_advanced (c.measTable 0) (· == rw.val) 128 c
      have hmeas := advanceBlocks_measure (· == rw.val) n (s := c) hon
      have hmoves : c.blockMoves (c.measTable 0) (· == rw.val) n = true ↔ moves n := by
        rw [Chip.blockMoves_iff]
        refine and_congr_right' (and_congr_right' ?_)
        rw [beq_iff_eq]
        exact and_congr_right fun hrw => by unfold Chip.blockNow; rw [hrw]
      have hblock : moves n → c.blockNow n = b := fun ⟨_, _, hrw, _⟩ => by
        unfold Chip.blockNow
        rw [hrw]
      refine ⟨fun h => ?_, fun h => ?_, fun hlev h htyp => ?_⟩
      · have hnew := hmeas.trans (hadv.moved n hn (hmoves.mpr h))
        obtain ⟨-, -, -, hblk⟩ := id h
        rw [hblock h] at hnew
        exact hnew.trans (if_neg hblk)
      · exact hmeas.trans (hadv.kept n (.inr (Bool.eq_false_iff.mpr fun hm => h (hmoves.mp hm))))
      · have hrun := advanceBlocks_run (s := c) hon hlev hn (hmoves.mpr h) htyp
        rw [hblock h] at hrun
        exact hrun
  · intro c x ends alone
    refine ⟨fun h => ?_, fun h => ⟨_, exec_safetyRelease k s, ?_⟩⟩
    · rw [exec_safetyRelease, safetyRelease_of_not_ends k s.chip h]
    · rw [safetyRelease_of_ends k s.chip h]
      refine ⟨stopAsserting_eq k.isLt, fun a ha => c.setFld_direct_ne _ _ _ ha.symm, fun j _ => stopAsserting_asserting k.isLt j,
        fun ⟨hforce, hpin⟩ => stopAsserting_blankDrive k.isLt false hforce hpin,
        fun ⟨hforce, hpin⟩ => stopAsserting_blankDrive k.isLt true hforce hpin⟩
  · intro c x bseq same sent
    refine ⟨fun hdown => ?_, fun hup => ⟨⟨_, exec_streamBlockClose n l s, workLane_works n l n.isLt c⟩,
      ⟨_, exec_cstageRoom n l s, laneRoom_works n l n.isLt c⟩, fun hin hout hopen => ?_, fun b hin hout hopen hfull hcoder => ?_,
      fun o hin hopen hout => ?_⟩⟩
    · rw [exec_streamBlockClose, exec_cstageRoom, workLane_of_down hdown, laneRoom_of_down hdown]
      exact ⟨rfl, rfl⟩
    · rw [exec_streamBlockClose, exec_cstageRoom, workLane_of_rest hin hout hopen, laneRoom_of_rest hin hout hopen]
      exact ⟨rfl, rfl⟩
    · intro raw first fresh
      refine ⟨_, exec_streamBlockClose n l s, workLane_works n l n.isLt c, ?_⟩
      have hcoded := rawClosed_coded n l b c
      rw [workLane_of_full_coder0 hup hin hout hopen hfull hcoder]
      generalize rawClosed n.val l.val b c = v at hcoded
      obtain ⟨hflush, hend⟩ := hcoded.flush n.isLt
      exact ⟨hflush.open_.trans hcoded.open_, hflush.bseq.trans hcoded.bseq, hflush.since.trans hcoded.since, c.rawOut n b, rfl, rfl,
        b.at_zero, rfl, rfl, rfl, b.testBit_rawFlags _, hend.imp_right fun ⟨hout, hcount⟩ => ⟨hout, hcount.blocks, hcount.bytes⟩⟩
    · have hroom := laneRoom_of_one (s := c) n.isLt hup hin hopen hout
      refine ⟨fun hsome => ?_, fun hnone => ?_⟩
      · obtain ⟨t, ht⟩ := Option.isSome_iff_exists.mp hsome
        have hsent := flushLane_sent n.isLt hout ht
        refine ⟨_, exec_cstageRoom n l s, laneRoom_works n l n.isLt c, ?_⟩
        rw [hroom]
        exact ⟨hsent.outq, hsent.waits, hsent.bseq, hsent.blocks, hsent.bytes⟩
      · have hwaits := flushLane_waits hout hnone
        refine ⟨_, exec_cstageRoom n l s, laneRoom_works n l n.isLt c, ?_⟩
        rw [hroom]
        exact ⟨hwaits.outq.trans hout, hwaits.waits, hwaits.bseq, hwaits.blocks, hwaits.bytes⟩

end Sys2Proof.Machine
end

section
/-! PROOFS. The commands that wait for the tick (R292, R296, R348, R400, R419). -/

namespace Sys2Proof.Machine

/-! ### The operand words -/

/-- A PAIR_CTL word names the action that its row sets in bits [3:0]. -/
theorem bits_pairCtlWord (w0 a : W64) (ha : a.toNat < 16) : bits ((w0 &&& ~~~(0xF#64)) ||| a).toNat 3 0 = a.toNat := by
  apply Nat.eq_of_testBit_eq
  intro i
  rw [testBit_bits, Nat.zero_add]
  by_cases hi : i < 4
  · have hmask : (~~~(0xF#64)).toNat.testBit i = false := by
      revert i
      decide
    simp only [BitVec.toNat_or, BitVec.toNat_and, Nat.testBit_or, Nat.testBit_and, hmask, Bool.and_false, Bool.false_or,
      decide_eq_true hi, Bool.true_and]
  · have hbig : a.toNat.testBit i = false :=
      Nat.testBit_lt_two_pow (Nat.lt_of_lt_of_le ha (Nat.pow_le_pow_right (n := 2) (i := 4) (by decide) (by omega)))
    simp [hbig, show ¬ i < 3 + 1 - 0 by omega]

/-- The word of a STORE_CTL. -/
def storeCtlWord (action first last : Nat) : W64 := w64 (place 18 44 last ||| place 18 24 first ||| action)

theorem bits_storeCtlWord {action : Nat} (first last : Fin 262144) (ha : action < 16) :
    bits (storeCtlWord action first last).toNat 3 0 = action ∧ bits (storeCtlWord action first last).toNat 41 24 = first.val ∧
      bits (storeCtlWord action first last).toNat 61 44 = last.val := by
  have hact : bits action 3 0 = action := Nat.mod_eq_of_lt ha
  have hout : ∀ hi lo, 4 ≤ lo → bits action hi lo = 0 := fun hi lo hlo => bits_small action hi lo 4 ha hlo
  unfold storeCtlWord
  refine ⟨?_, ?_, ?_⟩
  · rw [bits_w64 _ _ _ (by decide), bits_or, bits_or, bits_place_apart 18 44 _ 3 0 (by decide), bits_place_apart 18 24 _ 3 0 (by decide),
      hact, Nat.zero_or, Nat.zero_or]
  · rw [bits_w64 _ _ _ (by decide), bits_or, bits_or, bits_place_apart 18 44 _ 41 24 (by decide), bits_place_eq 18 24 _ 41 rfl (by decide),
      hout 41 24 (by decide), Nat.zero_or, Nat.or_zero]
    exact Nat.mod_eq_of_lt first.isLt
  · rw [bits_w64 _ _ _ (by decide), bits_or, bits_or, bits_place_eq 18 44 _ 61 rfl (by decide), bits_place_apart 18 24 _ 61 44 (by decide),
      hout 61 44 (by decide), Nat.or_zero, Nat.or_zero]
    exact Nat.mod_eq_of_lt last.isLt

/-! ### What the opcodes answer -/

theorem runDomainReset_of_high {w : Nat} (s : Chip) (h : 1023 < w % 65536) : runDomainReset w s = (0xA, s) := if_pos h

theorem runDomainReset_of_named {w : Nat} (s : Chip) (h : ¬ 1023 < w % 65536) :
    runDomainReset w s = (0, { s with rst := { s.rst with drstNext := s.rst.drstNext ||| (w % 65536) } }) := if_neg h

theorem runPairCtl_switch {w : Nat} (s : Chip) (h : bits w 3 0 = 1) : runPairCtl w s =
    if s.pair.paired = false then (0xB, s)
    else if s.fld F.PAIR_STAT_ROLE = 2 then (0xA, s)
    else (0, { s with pair := { s.pair with switchNext := true } }) := by
  unfold runPairCtl Chip.standby
  rw [h]
  cases hp : s.pair.paired
  · simp
  · simp

theorem runPairCtl_clear {w : Nat} (s : Chip) (h : bits w 3 0 = 2) :
    runPairCtl w s = (0, { s with pair := { s.pair with clearNext := true } }) := by
  unfold runPairCtl
  rw [h]
  rfl

theorem runStoreCtl_of_action {w : W64} {action : Nat} (s : Chip) (hw : bits w.toNat 3 0 = action) (h1 : 1 ≤ action) (h4 : action ≤ 4) :
    runStoreCtl w s = (0, { s with sto := { s.sto with ctl := s.sto.ctl ++ [w] } }) := by
  unfold runStoreCtl
  rw [hw, if_neg]
  simp only [Bool.or_eq_true, decide_eq_true_eq, not_or]
  omega

/-- A LANE_CTL word is refused, or waits. -/
theorem runLaneCtl_eq (w : W64) (s : Chip) : runLaneCtl w s = if s.laneCtlRefused w then (0xA, s) else (0, laneCtl w s) := rfl

/-- The conditions of a JOIN (R292, R415). -/
theorem joinOk_iff (s : Chip) : s.joinOk = true ↔ s.flag F.GLB_RST_STAT_ADDR_ERR = false ∧
    ∀ p : Port, s.trained p = true ∧ s.inTest p = false ∧ s.flag (F.LN_STAT_PLL_LOCK p.ix) = true := by
  have hall : ∀ f : Port → Bool, [Port.east, Port.west].all f = true ↔ ∀ p, f p = true := fun f => by
    refine ⟨fun h p => ?_, fun h => ?_⟩
    · cases p <;> simp_all
    · simp [h]
  simp only [Chip.joinOk, Bool.and_eq_true, Bool.not_eq_true', hall, and_assoc]

theorem exists_laneCtlPorts (ports : Fin 4) (x : Nat) (h : bits x 5 4 = ports.val) (f : Port → Bool) :
    (laneCtlPorts x).any f = true ↔ ∃ p : Port, ports.val.testBit p.ix = true ∧ f p = true := by
  have hbit : ∀ p : Port, ports.val.testBit p.ix = x.testBit (4 + p.ix) := fun p => by
    rw [← h, testBit_bits]
    cases p <;> rfl
  have hports : ∀ p, p ∈ laneCtlPorts x ↔ ports.val.testBit p.ix = true := fun p => by
    rw [hbit]
    unfold laneCtlPorts
    cases p <;> simp [Port.ix]
  simp only [List.any_eq_true, hports]

/-! ### The rows -/

section
variable {i : Instr} {s : State} {h : CmdHead} {a : Nat}

theorem answers_domainReset {w : W64} (ht : Taken i s) (hr : rowCommand i = some (cmdOf h 0xB0 0 [w])) :
    Answers i s (runDomainReset w.toNat s.chip).1 [] (runDomainReset w.toNat s.chip).2 :=
  row_answers ht hr _ _ _ (runOpcode_B0 h 0 [w] s.chip (taken_len ht hr (by decide) (by simp)))

theorem answers_pairCtl {w : W64} (ht : Taken i s) (hr : rowCommand i = some (cmdOf h 0x80 0 [w])) :
    Answers i s (runPairCtl w.toNat s.chip).1 [] (runPairCtl w.toNat s.chip).2 :=
  row_answers ht hr _ _ _ (runOpcode_80 h 0 [w] s.chip (taken_len ht hr (by decide) (by simp)))

theorem answers_storeCtl {first last : Nat} (ht : Taken i s) (hr : rowCommand i = some (storeCtlOf h a first last)) :
    Answers i s (runStoreCtl (storeCtlWord a first last) s.chip).1 [] (runStoreCtl (storeCtlWord a first last) s.chip).2 :=
  row_answers ht hr _ _ _ (runOpcode_70 h 0 [storeCtlWord a first last] s.chip (taken_len ht hr (by decide) (by simp)))

theorem answers_laneCtl (ht : Taken i s) (hr : rowCommand i = some (laneCtlOf h a)) :
    Answers i s (runLaneCtl (w64 a) s.chip).1 [] (runLaneCtl (w64 a) s.chip).2 :=
  row_answers ht hr _ _ _ (runOpcode_C0 h 0 [w64 a] s.chip (taken_len ht hr (by decide) (by simp)))

theorem answers_laneCtl_refused (ht : Taken i s) (hr : rowCommand i = some (laneCtlOf h a)) (hw : s.chip.laneCtlRefused (w64 a) = true) :
    Answers i s 0xA [] s.chip := by
  have hans := answers_laneCtl ht hr
  rwa [runLaneCtl_eq, if_pos hw] at hans

theorem answers_laneCtl_waits (ht : Taken i s) (hr : rowCommand i = some (laneCtlOf h a)) (hw : s.chip.laneCtlRefused (w64 a) = false) :
    Answers i s 0 [] (laneCtl (w64 a) s.chip) := by
  have hans := answers_laneCtl ht hr
  rwa [runLaneCtl_eq, if_neg (Bool.eq_false_iff.mp hw)] at hans

end

/-- A LANE_CTL word of RETRAIN, MODE, LOOP or PRBS waits in the order of the commands. -/
theorem laneCtl_args {w : W64} (s : Chip) (h : 3 ≤ bits w.toNat 3 0) :
    laneCtl w s = { s with ring := { s.ring with laneArgs := s.ring.laneArgs ++ [w] } } := by
  unfold laneCtl
  split
  · omega
  · omega
  · rfl

/-- Settles O25: by what each opcode answers to the word of its row. -/
theorem resetPairAndStoreCommandsWait : Obligations.ResetPairAndStoreCommandsWait := by
  unfold Obligations.ResetPairAndStoreCommandsWait
  intro h w0 s
  dsimp only
  refine ⟨fun ht => ?_, fun ht => ?_, fun ht => ?_, fun i first last action hi ht => ?_⟩
  · have hans := answers_domainReset ht rfl
    split
    · next hhigh => rwa [runDomainReset_of_high s.chip hhigh] at hans
    · next hnamed => rwa [runDomainReset_of_named s.chip hnamed] at hans
  · have hans := answers_pairCtl ht rfl
    rw [runPairCtl_switch s.chip (bits_pairCtlWord w0 1#64 (by decide))] at hans
    split
    · next hp => rwa [if_pos hp] at hans
    · next hp =>
      rw [if_neg hp] at hans
      split
      · next hr => rwa [if_pos hr] at hans
      · next hr => rwa [if_neg hr] at hans
  · have hans := answers_pairCtl ht rfl
    rwa [runPairCtl_clear s.chip (bits_pairCtlWord w0 2#64 (by decide))] at hans
  · have hrow : rowCommand i = some (storeCtlOf h action first.val last.val) ∧ 1 ≤ action ∧ action ≤ 4 := by
      obtain ⟨rfl, rfl⟩ | ⟨rfl, rfl⟩ | ⟨rfl, rfl⟩ | ⟨rfl, rfl⟩ := hi <;> exact ⟨rfl, by decide, by decide⟩
    obtain ⟨hr, h1, h4⟩ := hrow
    have hbits := bits_storeCtlWord first last (show action < 16 by omega)
    have hans := answers_storeCtl ht hr
    rw [runStoreCtl_of_action s.chip hbits.1 h1 h4] at hans
    exact ⟨_, hans, hbits⟩

/-! ### The words of LANE_CTL -/

theorem bits_retrainWord (ports : Fin 4) (rate : Bool) :
    let w := w64 (3 + 16 * ports.val + 65536 * b2n rate)
    bits w.toNat 3 0 = 3 ∧ w.toNat.testBit 16 = rate ∧ bits w.toNat 5 4 = ports.val := by
  revert ports rate
  decide

theorem bits_modeWord (ports mode : Fin 4) :
    let w := w64 (4 + 16 * ports.val + 256 * mode.val)
    bits w.toNat 3 0 = 4 ∧ bits w.toNat 9 8 = mode.val ∧ bits w.toNat 5 4 = ports.val := by
  revert ports mode
  decide

theorem bits_loopWord (ports code : Fin 4) :
    let w := w64 (5 + 16 * ports.val + 4096 * code.val)
    bits w.toNat 3 0 = 5 ∧ bits w.toNat 13 12 = code.val ∧ bits w.toNat 5 4 = ports.val := by
  revert ports code
  decide

theorem bits_prbsWord (ports : Fin 4) (on : Bool) :
    let w := w64 (6 + 16 * ports.val + 131072 * b2n on)
    bits w.toNat 3 0 = 6 ∧ w.toNat.testBit 17 = on ∧ bits w.toNat 5 4 = ports.val := by
  revert ports on
  decide

/-- A LANE_CTL word that is not refused waits, with its fields. -/
theorem waits_of_args {i : Instr} {s : State} {h : CmdHead} {a : Nat} {P : W64 → Prop} (ht : Taken i s)
    (hr : rowCommand i = some (laneCtlOf h a)) (hw : s.chip.laneCtlRefused (w64 a) = false) (h3 : 3 ≤ bits (w64 a).toNat 3 0) (hP : P (w64 a)) :
    ∃ w : W64, Answers i s 0 [] { s.chip with ring := { s.chip.ring with laneArgs := s.chip.ring.laneArgs ++ [w] } } ∧ P w := by
  refine ⟨w64 a, ?_, hP⟩
  rw [← laneCtl_args s.chip h3]
  exact answers_laneCtl_waits ht hr hw

section
variable (s : Chip)

theorem laneCtl_join : laneCtl (w64 1) s = { s with ring := { s.ring with joinAct := some true } } := rfl

theorem laneCtl_leave : laneCtl (w64 2) s = { s with ring := { s.ring with joinAct := some false } } := rfl

theorem laneCtlRefused_leave : s.laneCtlRefused (w64 2) = false := rfl

theorem laneCtlRefused_join : s.laneCtlRefused (w64 1) = !s.joinOk := rfl

theorem laneCtlRefused_retrain (ports : Fin 4) (rate : Bool) : s.laneCtlRefused (w64 (3 + 16 * ports.val + 65536 * b2n rate)) = false := by
  unfold Chip.laneCtlRefused
  simp only [(bits_retrainWord ports rate).1]

theorem laneCtlRefused_mode (ports mode : Fin 4) : s.laneCtlRefused (w64 (4 + 16 * ports.val + 256 * mode.val)) = true ↔
    mode = 3 ∨ ∃ p : Port, ports.val.testBit p.ix = true ∧ s.trained p = false := by
  obtain ⟨hop, hmode, hports⟩ := bits_modeWord ports mode
  unfold Chip.laneCtlRefused
  simp only [hop, hmode, Bool.or_eq_true, exists_laneCtlPorts ports _ hports, Bool.not_eq_true', beq_iff_eq]
  refine or_congr_left ?_
  rw [← Fin.val_inj]
  rfl

theorem laneCtlRefused_loop (ports code : Fin 4) : s.laneCtlRefused (w64 (5 + 16 * ports.val + 4096 * code.val)) = true ↔
    code ≠ 0 ∧ s.inring = true := by
  obtain ⟨hop, hcode, -⟩ := bits_loopWord ports code
  unfold Chip.laneCtlRefused
  simp only [hop, hcode, Bool.and_eq_true, bne_iff_ne, ne_eq]
  refine and_congr_left' (not_congr ?_)
  rw [← Fin.val_inj]
  rfl

theorem laneCtlRefused_prbs (ports : Fin 4) (on : Bool) : s.laneCtlRefused (w64 (6 + 16 * ports.val + 131072 * b2n on)) = true ↔
    on = true ∧ s.inring = true := by
  obtain ⟨hop, hon, -⟩ := bits_prbsWord ports on
  unfold Chip.laneCtlRefused
  simp only [hop, hon, Bool.and_eq_true]

end

/-- Settles O26: by when each LANE_CTL word is refused, and by the fields of the word that waits. -/
theorem laneCommandsAreRefusedOrWait : Obligations.LaneCommandsAreRefusedOrWait := by
  unfold Obligations.LaneCommandsAreRefusedOrWait
  intro h s
  refine ⟨fun ht => ⟨fun hj => ?_, fun hj => ?_⟩, fun ht => ?_, fun ports rate ht => ?_, fun ports mode ht => ⟨fun hm => ?_, fun hm => ?_⟩,
    fun ports code ht => ?_, fun ports on ht => ?_⟩
  · have hok : s.chip.joinOk = true := (joinOk_iff s.chip).mpr hj
    rw [← laneCtl_join]
    exact answers_laneCtl_waits ht rfl (by rw [laneCtlRefused_join, hok]; rfl)
  · have hok : s.chip.joinOk = false := Bool.eq_false_iff.mpr fun hok => hj ((joinOk_iff s.chip).mp hok)
    exact answers_laneCtl_refused ht rfl (by rw [laneCtlRefused_join, hok]; rfl)
  · rw [← laneCtl_leave]
    exact answers_laneCtl_waits ht rfl (laneCtlRefused_leave s.chip)
  · have hbits := bits_retrainWord ports rate
    exact waits_of_args ht rfl (laneCtlRefused_retrain s.chip ports rate) hbits.1.ge hbits
  · exact answers_laneCtl_refused ht rfl ((laneCtlRefused_mode s.chip ports mode).mpr hm)
  · have hbits := bits_modeWord ports mode
    exact waits_of_args ht rfl (Bool.eq_false_iff.mpr fun hr => hm ((laneCtlRefused_mode s.chip ports mode).mp hr))
      (by rw [hbits.1]; decide) hbits
  · have hbits := bits_loopWord ports code
    split
    · next hc => exact answers_laneCtl_refused ht rfl ((laneCtlRefused_loop s.chip ports code).mpr hc)
    · next hc =>
      exact waits_of_args ht rfl (Bool.eq_false_iff.mpr fun hr => hc ((laneCtlRefused_loop s.chip ports code).mp hr))
        (by rw [hbits.1]; decide) hbits
  · have hbits := bits_prbsWord ports on
    split
    · next hc => exact answers_laneCtl_refused ht rfl ((laneCtlRefused_prbs s.chip ports on).mpr hc)
    · next hc =>
      exact waits_of_args ht rfl (Bool.eq_false_iff.mpr fun hr => hc ((laneCtlRefused_prbs s.chip ports on).mp hr))
        (by rw [hbits.1]; decide) hbits

end Sys2Proof.Machine
end

section
/-! PROOFS. What a port that leaves TRAINED or starts to train changes and keeps (R281, R283, R288, R316, R318). -/

namespace Sys2Proof.Machine

/-! ### Fields that a step of the lanes leaves alone -/

/-- `t` keeps of `s` the resets, the toggle crossings, the event bits that are set, and every field outside the offer of packets that is apart
from the fields `fs`. -/
structure Retains (fs : List Fld) (s t : Chip) : Prop where
  fld : ∀ g : Fld, 1 ≤ g.w → shipAddr g.addr = false → (∀ f ∈ fs, f.apart g) → t.fld g = s.fld g
  seen : ∀ e, e < 384 → s.eventSeen e = true → t.eventSeen e = true
  rst : t.rst = s.rst
  cdc : t.cdc = s.cdc

section
variable {fs : List Fld} {s t u : Chip}

theorem Retains.refl (fs : List Fld) (s : Chip) : Retains fs s s := ⟨fun _ _ _ _ => rfl, fun _ _ h => h, rfl, rfl⟩

theorem Retains.trans (h : Retains fs s t) (k : Retains fs t u) : Retains fs s u :=
  ⟨fun g hw hs hg => (k.fld g hw hs hg).trans (h.fld g hw hs hg), fun e he hs => k.seen e he (h.seen e he hs), k.rst.trans h.rst,
    k.cdc.trans h.cdc⟩

theorem Ships.retains (h : Ships s t) : Retains fs s t := ⟨fun g _ hs _ => h.fld g hs, h.events, h.rst, h.cdc⟩

theorem Announces.retains (h : Announces s t) : Retains fs s t := h.ships.retains

theorem Retains.raise (h : Retains fs s t) {e : Nat} (he : e < 384) : Retains fs s (raise e t) := h.trans (raise_ships e he t).retains

theorem Retains.setFld (h : Retains fs s t) {f : Fld} (v : Nat) (hf : f ∈ fs) (hs : statAddr f.addr = false) : Retains fs s (t.setFld f v) :=
  h.trans ⟨fun g hw _ hg => t.fld_setFld_apart f g v (hg f hf) hw, fun e he k => by rwa [eventSeen_setFld t f v e he hs], rfl, rfl⟩

/-- A change of anything but registers, resets and crossings. -/
theorem Retains.same (h : Retains fs s t) (hr : u.regs = t.regs) (ht : u.rst = t.rst) (hc : u.cdc = t.cdc) : Retains fs s u := by
  have hfld : ∀ f, u.fld f = t.fld f := fun f => by unfold Chip.fld; rw [hr]
  refine h.trans ⟨fun g _ _ _ => hfld g, fun e _ k => ?_, ht, hc⟩
  unfold Chip.eventSeen at k ⊢
  rwa [hfld]

theorem Retains.setLane (h : Retains fs s t) (p : Port) (x : LaneSt) : Retains fs s (t.setLane p x) := by
  cases p <;> exact h.same rfl rfl rfl

theorem Retains.setExch (h : Retains fs s t) (p : Port) (x : Exch) : Retains fs s (t.setExch p x) := by
  cases p <;> exact h.same rfl rfl rfl

theorem Retains.mono {gs : List Fld} (h : Retains fs s t) (hsub : ∀ f ∈ fs, f ∈ gs) : Retains gs s t :=
  ⟨fun g hw hs hg => h.fld g hw hs fun f hf => hg f (hsub f hf), h.seen, h.rst, h.cdc⟩

theorem Retains.flag (h : Retains fs s t) (g : Fld) (hw : 1 ≤ g.w) (hs : shipAddr g.addr = false) (hg : ∀ f ∈ fs, f.apart g) :
    t.flag g = s.flag g := Chip.flag_congr (h.fld g hw hs hg)

theorem Retains.running (h : Retains fs s t) : t.running = s.running := by
  unfold Chip.running Chip.up
  rw [h.rst]

end

/-! ### The lane states of the two ports -/

section
variable (s : Chip) (p : Port)

theorem Chip.lane_setFld (f : Fld) (v : Nat) (q : Port) : (s.setFld f v).lane q = s.lane q := by cases q <;> rfl

theorem Chip.lane_setExch (x : Exch) (q : Port) : (s.setExch p x).lane q = s.lane q := by cases p <;> cases q <;> rfl

theorem Chip.lane_setLane_other (x : LaneSt) : (s.setLane p x).lane p.other = s.lane p.other := by cases p <;> rfl

theorem Chip.setLane_fld (x : LaneSt) (f : Fld) : (s.setLane p x).fld f = s.fld f := by cases p <;> rfl

theorem Chip.setExch_fld (x : Exch) (f : Fld) : (s.setExch p x).fld f = s.fld f := by cases p <;> rfl

variable {s} {t : Chip}

theorem Ships.lane (h : Ships s t) (q : Port) : t.lane q = s.lane q := by
  cases q
  · exact h.laneE
  · exact h.laneW

theorem raise_lane {e : Nat} (he : e < 384) (q : Port) : (raise e s).lane q = s.lane q := (raise_ships e he s).lane q

end

/-! ### Packets lost with a port (R316, R318) -/

theorem freeEgress_ships (q : TxPkt) (s : Chip) : Ships s (freeEgress q s) := by
  unfold freeEgress
  split
  · exact Ships.refl s
  · exact freeObj_ships _ _ _
  · exact Ships.refl s

theorem loseAll_ships (p : Port) (qs : List TxPkt) (s : Chip) : Ships s (loseAll p qs s) :=
  (Ships.setFld s _ _ (by cases p <;> decide) (by cases p <;> decide)).trans (Ships.forAll _ _ (fun q _ u => freeEgress_ships q u) _)

theorem portDown_ships (p : Port) (s : Chip) : Ships s (portDown p s) := by
  unfold portDown
  extract_lets t s1 pp s2 pq qs
  have hrx : Ships s (s.bumpBy (F.RN_LOST_COUNT p.ix) t.rx.length) := Ships.setFld s _ _ (by cases p <;> decide) (by cases p <;> decide)
  have h2 : Ships s s2 := (hrx.trans (loseAll_ships p _ _)).trans (setPort_ships _ p _)
  split
  · exact h2.trans (startWrap_announces raise_quiet p _).ships
  · exact h2.trans ((setPort_ships _ p _).trans (loseAll_ships p _ _))

/-! ### Leaving TRAINED (R283, R288) -/

/-- A port's change of lanes and its TIME exchange are abandoned. -/
def abandonLanes (p : Port) (s : Chip) : Chip :=
  let s0 := (s.setLane p { s.lane p with nmask := modeMask (s.lane p).mode, narrowing := false }).setFlag (F.LN_STAT_MODE_BUSY p.ix) false
  s0.setExch p { s0.exch p with ticks := none }

/-- A port that was TRAINED is down: its packets, LINK_DOWN and its count. -/
def linkDown (p : Port) (s : Chip) : Chip :=
  raise (EV.LN_LINK_DOWN p) ((portDown p (setLnState p 1 s)).bump (F.LN_LOSS_CNT_LINK_DOWN p.ix))

/-- The fields of a port that leaving TRAINED touches. -/
def leaveFlds (p : Port) : List Fld := [F.LN_STAT_MODE_BUSY p.ix, F.LN_STAT_STATE p.ix, F.LN_LOSS_CNT_LINK_DOWN p.ix]

section
variable (p : Port) (s : Chip)

theorem leaveTrained_of_untrained (h : s.trained p = false) : leaveTrained p s = abandonLanes p s := by
  unfold leaveTrained
  rw [h]
  rfl

theorem leaveTrained_of_trained (h : s.trained p = true) : leaveTrained p s =
    { linkDown p (abandonLanes p s) with ring := { (linkDown p (abandonLanes p s)).ring with outNow := true } } := by
  unfold leaveTrained
  rw [h]
  rfl

theorem abandonLanes_retains : Retains (leaveFlds p) s (abandonLanes p s) :=
  (((Retains.refl _ s).setLane p _).setFld _ (by simp [leaveFlds]) (by cases p <;> decide)).setExch p _

theorem linkDown_retains : Retains (leaveFlds p) s (linkDown p s) := by
  have hstate : Retains (leaveFlds p) s (setLnState p 1 s) := (Retains.refl _ s).setFld _ (by simp [leaveFlds]) (by cases p <;> decide)
  exact ((hstate.trans (portDown_ships p _).retains).setFld _ (by simp [leaveFlds]) (by cases p <;> decide)).raise (by cases p <;> decide)

theorem linkDown_lane (q : Port) : (linkDown p s).lane q = s.lane q :=
  (raise_lane (by cases p <;> decide) q).trans ((Chip.lane_setFld _ _ _ q).trans (((portDown_ships p _).lane q).trans (Chip.lane_setFld ..)))

theorem abandonLanes_lane : (abandonLanes p s).lane p = { s.lane p with nmask := modeMask (s.lane p).mode, narrowing := false } :=
  (Chip.lane_setExch ..).trans ((Chip.lane_setFld ..).trans (Chip.lane_setLane_same ..))

theorem leaveTrained_retains : Retains (leaveFlds p) s (leaveTrained p s) := by
  cases h : s.trained p with
  | false => rw [leaveTrained_of_untrained p s h]; exact abandonLanes_retains p s
  | true =>
    rw [leaveTrained_of_trained p s h]
    exact ((abandonLanes_retains p s).trans (linkDown_retains p _)).same rfl rfl rfl

theorem leaveTrained_lane : (leaveTrained p s).lane p = { s.lane p with nmask := modeMask (s.lane p).mode, narrowing := false } := by
  cases h : s.trained p with
  | false => rw [leaveTrained_of_untrained p s h]; exact abandonLanes_lane p s
  | true =>
    rw [leaveTrained_of_trained p s h]
    refine Eq.trans ?_ ((linkDown_lane p _ p).trans (abandonLanes_lane p s))
    cases p <;> rfl

/-- A port that leaves TRAINED announces and counts it. -/
theorem leaveTrained_down (h : s.trained p = true) : (leaveTrained p s).eventSeen (EV.LN_LINK_DOWN p) = true ∧
    (leaveTrained p s).fld (F.LN_LOSS_CNT_LINK_DOWN p.ix) = satTo 16 (s.fld (F.LN_LOSS_CNT_LINK_DOWN p.ix) + 1) := by
  rw [leaveTrained_of_trained p s h]
  have hs : Ships (setLnState p 1 (abandonLanes p s)) (portDown p (setLnState p 1 (abandonLanes p s))) := portDown_ships p _
  refine ⟨raise_seen _ (by cases p <;> decide) _, ?_⟩
  have hcount : (linkDown p (abandonLanes p s)).fld (F.LN_LOSS_CNT_LINK_DOWN p.ix) =
      satTo 16 ((portDown p (setLnState p 1 (abandonLanes p s))).fld (F.LN_LOSS_CNT_LINK_DOWN p.ix) + 1) :=
    (raise_fld _ (by cases p <;> decide) _ _ (by cases p <;> decide)).trans (Chip.fld_bump_same _ _ (by cases p <;> decide) rfl)
  have hbefore : (portDown p (setLnState p 1 (abandonLanes p s))).fld (F.LN_LOSS_CNT_LINK_DOWN p.ix) = s.fld (F.LN_LOSS_CNT_LINK_DOWN p.ix) := by
    rw [hs.fld _ (by cases p <;> decide)]
    unfold setLnState abandonLanes
    rw [Chip.fld_setFld_ne _ _ (by cases p <;> decide), Chip.setExch_fld]
    unfold Chip.setFlag
    rw [Chip.fld_setFld_ne _ _ (by cases p <;> decide), Chip.setLane_fld]
  exact hcount.trans (by rw [hbefore])

theorem leaveTrained_modeBusy : (leaveTrained p s).flag (F.LN_STAT_MODE_BUSY p.ix) = false := by
  have habandon : (abandonLanes p s).flag (F.LN_STAT_MODE_BUSY p.ix) = false := by
    refine (Chip.flag_congr (Chip.setExch_fld ..)).trans (flag_setFlag_same _ _ _ (by cases p <;> decide) rfl)
  cases h : s.trained p with
  | false => rw [leaveTrained_of_untrained p s h]; exact habandon
  | true =>
    rw [leaveTrained_of_trained p s h]
    refine (Chip.flag_congr (s := abandonLanes p s) ?_).trans habandon
    refine (raise_fld _ (by cases p <;> decide) _ _ (by cases p <;> decide)).trans ?_
    rw [Chip.fld_bump_ne _ (by cases p <;> decide), (portDown_ships p _).fld _ (by cases p <;> decide)]
    exact Chip.fld_setFld_apart _ _ _ _ (by cases p <;> decide) (Nat.le_refl 1)

end

/-! ### The start of training (R281, R417) -/

/-- No lane of a port is locked, and no AM was received since. -/
def clearLocks (p : Port) (s : Chip) : Chip :=
  (((s.setLane p { s.lane p with rxok := 0, wide := 0 }).setFld (F.LN_STAT_LANE_LOCK p.ix) 0).setFld (F.LN_STAT_LMASK_RX p.ix) 0).setFld
    (F.LN_STAT_RXOK_PART p.ix) 0

/-- A port can train: from ready, enabled, with its lane PLL locked. -/
def Chip.CanTrain (s : Chip) (p : Port) : Prop := s.running = true ∧ s.lnEnabled p = true ∧ s.flag (F.LN_STAT_PLL_LOCK p.ix) = true

/-- The fields of a port that a start of training touches. -/
def trainFlds (p : Port) : List Fld :=
  leaveFlds p ++ [F.LN_STAT_LANE_LOCK p.ix, F.LN_STAT_LMASK_RX p.ix, F.LN_STAT_RXOK_PART p.ix, F.LN_STAT_LMASK_TX p.ix]

/-- What a start of training from `s` leaves of a port in `u` (R281, R288). -/
structure Trained (p : Port) (s u : Chip) : Prop where
  lock : u.fld (F.LN_STAT_LANE_LOCK p.ix) = 0
  maskRx : u.fld (F.LN_STAT_LMASK_RX p.ix) = 0
  partner : u.fld (F.LN_STAT_RXOK_PART p.ix) = 0
  rxok : (u.lane p).rxok = 0
  wide : (u.lane p).wide = 0
  modeBusy : u.flag (F.LN_STAT_MODE_BUSY p.ix) = false
  starts : s.running = true ∧ s.lnEnabled p = true ∧ u.flag (F.LN_STAT_PLL_LOCK p.ix) = true →
    u.lnState p = (if s.inTest p then 5 else 1) ∧ u.fld (F.LN_STAT_LMASK_TX p.ix) = modeMask (s.lane p).mode
  off : ¬ (s.running = true ∧ s.lnEnabled p = true ∧ u.flag (F.LN_STAT_PLL_LOCK p.ix) = true) →
    u.lnState p = 0 ∧ u.fld (F.LN_STAT_LMASK_TX p.ix) = 0
  down : s.trained p = true → u.eventSeen (EV.LN_LINK_DOWN p) = true ∧
    u.fld (F.LN_LOSS_CNT_LINK_DOWN p.ix) = satTo 16 (s.fld (F.LN_LOSS_CNT_LINK_DOWN p.ix) + 1)

section
variable {fs : List Fld} {s t : Chip}

/-- What decides how a port trains is among what a step keeps that leaves its fields alone. -/
theorem Retains.canTrain {p : Port} (h : Retains fs s t) (hfs : ∀ f ∈ fs, f.apart F.GLB_RST_STAT_ADDR_ERR ∧ f.apart (F.LN_CFG_EN p.ix) ∧
    f.apart (F.LN_STAT_PLL_LOCK p.ix)) : t.CanTrain p ↔ s.CanTrain p := by
  have herr : t.flag F.GLB_RST_STAT_ADDR_ERR = s.flag F.GLB_RST_STAT_ADDR_ERR := h.flag _ (by decide) (by decide) fun f hf => (hfs f hf).1
  have hen : t.flag (F.LN_CFG_EN p.ix) = s.flag (F.LN_CFG_EN p.ix) :=
    h.flag _ (Nat.le_refl 1) (by cases p <;> decide) fun f hf => (hfs f hf).2.1
  have hpll : t.flag (F.LN_STAT_PLL_LOCK p.ix) = s.flag (F.LN_STAT_PLL_LOCK p.ix) :=
    h.flag _ (Nat.le_refl 1) (by cases p <;> decide) fun f hf => (hfs f hf).2.2
  unfold Chip.CanTrain Chip.lnEnabled
  rw [h.running, herr, hen, hpll]

theorem Retains.inTest {p : Port} (h : Retains fs s t) (hfs : ∀ f ∈ fs, f.apart (F.LN_TEST_LOOP p.ix) ∧ f.apart (F.LN_TEST_PRBS p.ix)) :
    t.inTest p = s.inTest p := by
  have hloop : t.fld (F.LN_TEST_LOOP p.ix) = s.fld (F.LN_TEST_LOOP p.ix) :=
    h.fld _ (show 1 ≤ 2 by decide) (by cases p <;> decide) fun f hf => (hfs f hf).1
  have hprbs : t.flag (F.LN_TEST_PRBS p.ix) = s.flag (F.LN_TEST_PRBS p.ix) :=
    h.flag _ (Nat.le_refl 1) (by cases p <;> decide) fun f hf => (hfs f hf).2
  unfold Chip.inTest
  rw [hloop, hprbs]

end

section
variable (p : Port) (s : Chip)

theorem clearLocks_retains : Retains (trainFlds p) s (clearLocks p s) :=
  ((((Retains.refl _ s).setLane p _).setFld 0 (by simp [trainFlds]) (by cases p <;> decide)).setFld 0 (by simp [trainFlds])
    (by cases p <;> decide)).setFld 0 (by simp [trainFlds]) (by cases p <;> decide)

theorem leaveTrained_canTrain : (leaveTrained p s).CanTrain p ↔ s.CanTrain p :=
  (leaveTrained_retains p s).canTrain (by cases p <;> decide)

theorem cannotTrain_iff (x : LaneSt) : (!(s.setLane p x).lnEnabled p || !(s.setLane p x).flag (F.LN_STAT_PLL_LOCK p.ix) ||
    !(s.setLane p x).running) = true ↔ ¬ s.CanTrain p := by
  have hsame : (s.setLane p x).lnEnabled p = s.lnEnabled p ∧ (s.setLane p x).flag (F.LN_STAT_PLL_LOCK p.ix) = s.flag (F.LN_STAT_PLL_LOCK p.ix) ∧
      (s.setLane p x).running = s.running := by
    cases p <;> exact ⟨rfl, rfl, rfl⟩
  obtain ⟨hen, hpll, hrun⟩ := hsame
  rw [hen, hpll, hrun]
  unfold Chip.CanTrain
  cases s.running <;> cases s.lnEnabled p <;> cases s.flag (F.LN_STAT_PLL_LOCK p.ix) <;> decide

theorem startTraining_of_canTrain (h : s.CanTrain p) : startTraining p s =
    setLnState p (if s.inTest p then 5 else 1)
      ((clearLocks p (leaveTrained p s)).setFld (F.LN_STAT_LMASK_TX p.ix) (modeMask (s.lane p).mode)) := by
  have hmode : ((leaveTrained p s).lane p).mode = (s.lane p).mode := by rw [leaveTrained_lane]
  have htest : (leaveTrained p s).inTest p = s.inTest p := (leaveTrained_retains p s).inTest (by cases p <;> decide)
  rw [← hmode, ← htest]
  have hcan := (leaveTrained_canTrain p s).mpr h
  unfold startTraining
  refine (if_neg fun hc => (cannotTrain_iff p _ _).mp hc hcan).trans ?_
  cases p <;> rfl

theorem startTraining_of_cannotTrain (h : ¬ s.CanTrain p) : startTraining p s =
    (setLnState p 0 (clearLocks p (leaveTrained p s))).setFld (F.LN_STAT_LMASK_TX p.ix) 0 := by
  unfold startTraining
  exact if_pos ((cannotTrain_iff p _ _).mpr fun hc => h ((leaveTrained_canTrain p s).mp hc))

theorem startTraining_lane (q : Port) : (startTraining p s).lane q = (clearLocks p (leaveTrained p s)).lane q := by
  by_cases h : s.CanTrain p
  · rw [startTraining_of_canTrain p s h]
    exact (Chip.lane_setFld _ (F.LN_STAT_STATE p.ix) _ q).trans (Chip.lane_setFld ..)
  · rw [startTraining_of_cannotTrain p s h]
    exact (Chip.lane_setFld ..).trans (Chip.lane_setFld _ (F.LN_STAT_STATE p.ix) _ q)

theorem startTraining_of_left : Retains (trainFlds p) (leaveTrained p s) (startTraining p s) := by
  have hcleared := clearLocks_retains p (leaveTrained p s)
  have hmem : F.LN_STAT_STATE p.ix ∈ trainFlds p ∧ F.LN_STAT_LMASK_TX p.ix ∈ trainFlds p := by simp [trainFlds, leaveFlds]
  have hstat : statAddr (F.LN_STAT_STATE p.ix).addr = false ∧ statAddr (F.LN_STAT_LMASK_TX p.ix).addr = false := by cases p <;> decide
  by_cases h : s.CanTrain p
  · rw [startTraining_of_canTrain p s h]
    exact (hcleared.setFld _ hmem.2 hstat.2).setFld _ hmem.1 hstat.1
  · rw [startTraining_of_cannotTrain p s h]
    exact (hcleared.setFld _ hmem.1 hstat.1).setFld _ hmem.2 hstat.2

theorem startTraining_retains : Retains (trainFlds p) s (startTraining p s) :=
  ((leaveTrained_retains p s).mono fun _ hf => List.mem_append_left _ hf).trans (startTraining_of_left p s)

theorem startTraining_pllLock : (startTraining p s).flag (F.LN_STAT_PLL_LOCK p.ix) = s.flag (F.LN_STAT_PLL_LOCK p.ix) :=
  (startTraining_retains p s).flag _ (Nat.le_refl 1) (by cases p <;> decide) (by cases p <;> decide)

/-- The last two settings of a start of training, STATE and LMASK_TX, leave the other fields of a port alone. -/
theorem startTraining_fld_rest {g : Fld} (hw : 1 ≤ g.w) (hstate : (F.LN_STAT_STATE p.ix).apart g) (hmask : (F.LN_STAT_LMASK_TX p.ix).apart g) :
    (startTraining p s).fld g = (clearLocks p (leaveTrained p s)).fld g := by
  by_cases h : s.CanTrain p
  · rw [startTraining_of_canTrain p s h]
    unfold setLnState
    rw [Chip.fld_setFld_apart _ _ _ _ hstate hw, Chip.fld_setFld_apart _ _ _ _ hmask hw]
  · rw [startTraining_of_cannotTrain p s h]
    unfold setLnState
    rw [Chip.fld_setFld_apart _ _ _ _ hmask hw, Chip.fld_setFld_apart _ _ _ _ hstate hw]

theorem modeMask_lt (m : Nat) : modeMask m % 2 ^ 4 = modeMask m := by
  unfold modeMask
  split <;> rfl

theorem startTraining_starts (h : s.CanTrain p) : (startTraining p s).lnState p = (if s.inTest p then 5 else 1) ∧
    (startTraining p s).fld (F.LN_STAT_LMASK_TX p.ix) = modeMask (s.lane p).mode := by
  rw [startTraining_of_canTrain p s h]
  constructor
  · refine (Chip.fld_setFld_same _ (F.LN_STAT_STATE p.ix) _ (by cases p <;> decide) rfl).trans ?_
    split <;> rfl
  · refine (Chip.fld_setFld_apart _ (F.LN_STAT_STATE p.ix) _ _ (by cases p <;> decide) (by cases p <;> decide)).trans ?_
    exact (Chip.fld_setFld_same _ _ _ (by cases p <;> decide) rfl).trans (modeMask_lt _)

theorem startTraining_off (h : ¬ s.CanTrain p) : (startTraining p s).lnState p = 0 ∧ (startTraining p s).fld (F.LN_STAT_LMASK_TX p.ix) = 0 := by
  rw [startTraining_of_cannotTrain p s h]
  constructor
  · refine (Chip.fld_setFld_apart _ _ (F.LN_STAT_STATE p.ix) _ (by cases p <;> decide) (by cases p <;> decide)).trans ?_
    exact Chip.fld_setFld_same _ (F.LN_STAT_STATE p.ix) _ (by cases p <;> decide) rfl
  · exact Chip.fld_setFld_same _ _ _ (by cases p <;> decide) rfl

theorem clearLocks_fld : (clearLocks p s).fld (F.LN_STAT_LANE_LOCK p.ix) = 0 ∧ (clearLocks p s).fld (F.LN_STAT_LMASK_RX p.ix) = 0 ∧
    (clearLocks p s).fld (F.LN_STAT_RXOK_PART p.ix) = 0 := by
  unfold clearLocks
  refine ⟨?_, ?_, Chip.fld_setFld_same _ _ _ (by cases p <;> decide) rfl⟩
  · rw [Chip.fld_setFld_apart _ _ _ _ (by cases p <;> decide) (by cases p <;> decide),
      Chip.fld_setFld_apart _ _ _ _ (by cases p <;> decide) (by cases p <;> decide)]
    exact Chip.fld_setFld_same _ _ _ (by cases p <;> decide) rfl
  · rw [Chip.fld_setFld_apart _ _ _ _ (by cases p <;> decide) (by cases p <;> decide)]
    exact Chip.fld_setFld_same _ _ _ (by cases p <;> decide) rfl

theorem clearLocks_lane : (clearLocks p s).lane p = { s.lane p with rxok := 0, wide := 0 } := by
  unfold clearLocks
  rw [Chip.lane_setFld, Chip.lane_setFld, Chip.lane_setFld, Chip.lane_setLane_same]

theorem clearLocks_fld_apart {g : Fld} (hw : 1 ≤ g.w) (hlock : (F.LN_STAT_LANE_LOCK p.ix).apart g) (hrx : (F.LN_STAT_LMASK_RX p.ix).apart g)
    (hpart : (F.LN_STAT_RXOK_PART p.ix).apart g) : (clearLocks p s).fld g = s.fld g := by
  unfold clearLocks
  rw [Chip.fld_setFld_apart _ _ _ _ hpart hw, Chip.fld_setFld_apart _ _ _ _ hrx hw, Chip.fld_setFld_apart _ _ _ _ hlock hw, Chip.setLane_fld]

theorem startTraining_trained : Trained p s (startTraining p s) := by
  obtain ⟨hlock, hrx, hpart⟩ := clearLocks_fld p (leaveTrained p s)
  have hlane := (startTraining_lane p s p).trans (clearLocks_lane p _)
  refine ⟨?_, ?_, ?_, by rw [hlane], by rw [hlane], ?_, ?_, ?_, fun h => ?_⟩
  · exact (startTraining_fld_rest p s (by cases p <;> decide) (by cases p <;> decide) (by cases p <;> decide)).trans hlock
  · exact (startTraining_fld_rest p s (by cases p <;> decide) (by cases p <;> decide) (by cases p <;> decide)).trans hrx
  · exact (startTraining_fld_rest p s (by cases p <;> decide) (by cases p <;> decide) (by cases p <;> decide)).trans hpart
  · refine (Chip.flag_congr ((startTraining_fld_rest p s ?_ ?_ ?_).trans (clearLocks_fld_apart p _ ?_ ?_ ?_ ?_))).trans
      (leaveTrained_modeBusy p s) <;> cases p <;> decide
  · rw [startTraining_pllLock]
    exact startTraining_starts p s
  · rw [startTraining_pllLock]
    exact startTraining_off p s
  · obtain ⟨hseen, hcount⟩ := leaveTrained_down p s h
    refine ⟨(startTraining_of_left p s).seen _ (by cases p <;> decide) hseen, ?_⟩
    refine ((startTraining_fld_rest p s ?_ ?_ ?_).trans (clearLocks_fld_apart p _ ?_ ?_ ?_ ?_)).trans hcount <;> cases p <;> decide

end

/-- The fields that decide how a port trains, beside its PLL_LOCK, and those that its leaving TRAINED is told from. -/
def trainInputs (p : Port) : List Fld := [F.GLB_RST_STAT_ADDR_ERR, F.LN_CFG_EN p.ix, F.LN_TEST_LOOP p.ix, F.LN_TEST_PRBS p.ix,
  F.LN_STAT_STATE p.ix, F.LN_LOSS_CNT_LINK_DOWN p.ix]

section
variable {fs : List Fld} {p : Port} {s t u : Chip}

/-- A start of training after a step that leaves alone what it turns on. -/
theorem Trained.of_inputs (hrst : t.rst = s.rst) (hlane : (t.lane p).mode = (s.lane p).mode) (hfld : ∀ g ∈ trainInputs p, t.fld g = s.fld g)
    (ht : Trained p t u) : Trained p s u := by
  have hrun : t.running = s.running := by
    unfold Chip.running Chip.up
    rw [hrst]
  have hstate : t.lnState p = s.lnState p := hfld (F.LN_STAT_STATE p.ix) (by simp [trainInputs])
  have hcount : t.fld (F.LN_LOSS_CNT_LINK_DOWN p.ix) = s.fld (F.LN_LOSS_CNT_LINK_DOWN p.ix) := hfld _ (by simp [trainInputs])
  have hen : t.lnEnabled p = s.lnEnabled p := by
    unfold Chip.lnEnabled
    rw [Chip.flag_congr (hfld (F.LN_CFG_EN p.ix) (by simp [trainInputs])), Chip.flag_congr (hfld F.GLB_RST_STAT_ADDR_ERR (by simp [trainInputs]))]
  have htest : t.inTest p = s.inTest p := by
    unfold Chip.inTest
    rw [hfld (F.LN_TEST_LOOP p.ix) (by simp [trainInputs]), Chip.flag_congr (hfld (F.LN_TEST_PRBS p.ix) (by simp [trainInputs]))]
  have htrained : t.trained p = s.trained p := congrArg (· == 4) hstate
  obtain ⟨hlock, hrx, hpart, hrxok, hwide, hbusy, hstarts, hoff, hdown⟩ := ht
  rw [hrun, hen, htest, hlane] at hstarts
  rw [hrun, hen] at hoff
  rw [htrained, hcount] at hdown
  exact ⟨hlock, hrx, hpart, hrxok, hwide, hbusy, hstarts, hoff, hdown⟩

theorem trainInputs_shape : ∀ g ∈ trainInputs p, 1 ≤ g.w ∧ shipAddr g.addr = false := by cases p <;> decide

theorem Trained.of_retains (h : Retains fs s t) (hlane : (t.lane p).mode = (s.lane p).mode)
    (hfs : ∀ g ∈ trainInputs p, ∀ f ∈ fs, f.apart g) (ht : Trained p t u) : Trained p s u :=
  .of_inputs h.rst hlane (fun g hg => h.fld g (trainInputs_shape g hg).1 (trainInputs_shape g hg).2 (hfs g hg)) ht

end

end Sys2Proof.Machine
end

section
/-! PROOFS. The equaliser taps and the deskew of the lanes (R282, R285): registers of one lane after another. -/

namespace Sys2Proof.Machine

/-! ### Registers of a set of addresses -/

/-- `t` differs from `s` at most in registers that are not RWS, of the addresses `A`. -/
structure RegsAt (A : Nat → Prop) (s t : Chip) : Prop extends DirectOnly s t where
  direct : ∀ a, ¬ A a → t.regs.direct.get a = s.regs.direct.get a

section
variable {A B : Nat → Prop} {s t u : Chip}

theorem RegsAt.refl (A : Nat → Prop) (s : Chip) : RegsAt A s s := ⟨.refl s, fun _ _ => rfl⟩

theorem DirectOnly.trans (h : DirectOnly s t) (k : DirectOnly t u) : DirectOnly s u := by
  have hrest := k.rest
  rw [h.rest] at hrest
  exact ⟨hrest⟩

theorem RegsAt.trans (h : RegsAt A s t) (k : RegsAt A t u) : RegsAt A s u :=
  ⟨h.toDirectOnly.trans k.toDirectOnly, fun a ha => (k.direct a ha).trans (h.direct a ha)⟩

theorem RegsAt.mono (h : RegsAt A s t) (hAB : ∀ a, A a → B a) : RegsAt B s t := ⟨h.toDirectOnly, fun a ha => h.direct a fun k => ha (hAB a k)⟩

theorem RegsAt.setFld (h : RegsAt A s t) {f : Fld} (v : Nat) (hf : A f.addr) : RegsAt A s (t.setFld f v) :=
  ⟨h.toDirectOnly.setFld, fun a ha => (t.setFld_direct_ne f v a fun e => ha (e ▸ hf)).trans (h.direct a ha)⟩

theorem RegsAt.forAll {α : Type} {l : List α} {g : α → Chip → Chip} (hg : ∀ a ∈ l, ∀ t, RegsAt A t (g a t)) (s : Chip) :
    RegsAt A s (forAll l g s) := by
  unfold Machine.forAll
  induction l generalizing s with
  | nil => exact .refl A s
  | cons a l ih => exact (hg a List.mem_cons_self s).trans (ih (fun b hb => hg b (List.mem_cons_of_mem a hb)) _)

theorem RegsAt.fld (h : RegsAt A s t) {f : Fld} (hf : ¬ A f.addr) : t.fld f = s.fld f := Chip.fld_congr _ _ f h.active (h.direct _ hf)

theorem Chip.fld_of_active (h : t.regs.active = s.regs.active) {f : Fld} (hf : f.rws = true) : t.fld f = s.fld f := by
  unfold Chip.fld
  rw [if_pos hf, if_pos hf, h]

theorem DirectOnly.lane (h : DirectOnly s t) (q : Port) : t.lane q = s.lane q := by
  rw [h.rest]
  cases q <;> rfl

theorem DirectOnly.rst (h : DirectOnly s t) : t.rst = s.rst := congrArg (fun x => x.rst) h.rest

theorem DirectOnly.cdc (h : DirectOnly s t) : t.cdc = s.cdc := congrArg (fun x => x.cdc) h.rest

theorem RegsAt.seen (h : RegsAt A s t) (hA : ∀ a, A a → statAddr a = false) {e : Nat} (he : e < 384) : t.eventSeen e = s.eventSeen e := by
  unfold Chip.eventSeen
  rw [h.fld fun hstat => ?_]
  have := hA _ hstat
  rw [statAddr_stat (e / 32) (by omega)] at this
  cases this

theorem RegsAt.keeps {l : List Nat} (h : RegsAt A s t) (hA : ∀ a, A a → pages l a = true ∧ statAddr a = false) : Keeps l s t where
  active := h.active
  shadow := h.shadow
  old1 := congrArg (fun x => x.regs.old1) h.rest
  old2 := congrArg (fun x => x.regs.old2) h.rest
  before := congrArg (fun x => x.regs.before) h.rest
  direct a ha := h.direct a fun k => by rw [(hA a k).1] at ha; cases ha
  events e he hs := (h.seen (fun a ha => (hA a ha).2) he).trans hs
  clk := h.clk
  rst := h.rst
  cmd := congrArg (fun x => x.cmd) h.rest

/-- Steps over registers of their own: one of them reads as it was set, and the others as they were. -/
theorem fld_forAll_other {α : Type} {l : List α} {key : α → Nat} {step : α → Chip → Chip} {φ : Nat → Fld} {j : Nat}
    (hstep : ∀ x ∈ l, ∀ t, RegsAt (· = (φ (key x)).addr) t (step x t)) (hj : ∀ x ∈ l, (φ j).addr ≠ (φ (key x)).addr) (s : Chip) :
    (forAll l step s).fld (φ j) = s.fld (φ j) := by
  have hall : RegsAt (· ≠ (φ j).addr) s (forAll l step s) :=
    RegsAt.forAll (fun x hx t => (hstep x hx t).mono fun a ha e => hj x hx (e.symm.trans ha)) s
  exact hall.fld fun h => h rfl

theorem fld_forAll_once {α : Type} {l : List α} {key : α → Nat} {step : α → Chip → Chip} {φ : Nat → Fld}
    (hinj : ∀ j k, j ≠ k → (φ j).addr ≠ (φ k).addr) (hstep : ∀ x ∈ l, ∀ t, RegsAt (· = (φ (key x)).addr) t (step x t))
    (hnodup : (l.map key).Nodup) {x : α} (hx : x ∈ l) (s : Chip) :
    ∃ t, RegsAt (fun a => ∃ y ∈ l, a = (φ (key y)).addr) s t ∧ t.fld (φ (key x)) = s.fld (φ (key x)) ∧
      (forAll l step s).fld (φ (key x)) = (step x t).fld (φ (key x)) := by
  induction l generalizing s with
  | nil => cases hx
  | cons y l ih =>
    obtain ⟨hy, hl⟩ := List.nodup_cons.mp hnodup
    have hstepl : ∀ x ∈ l, ∀ t, RegsAt (· = (φ (key x)).addr) t (step x t) := fun x hx => hstep x (List.mem_cons_of_mem y hx)
    rcases List.mem_cons.mp hx with rfl | hx
    · exact ⟨s, .refl _ s, rfl, fld_forAll_other hstepl (fun z hz => hinj (key x) (key z) fun e => hy (e ▸ List.mem_map_of_mem (f := key) hz)) _⟩
    · obtain ⟨t, hreg, hsame, hset⟩ := ih hstepl hl hx (step y s)
      have hfirst := hstep y List.mem_cons_self s
      have hne : key x ≠ key y := fun e => hy (e ▸ List.mem_map_of_mem (f := key) hx)
      refine ⟨t, ?_, hsame.trans (hfirst.fld (hinj _ _ hne)), hset⟩
      exact (hfirst.mono fun a ha => ⟨y, List.mem_cons_self, ha⟩).trans (hreg.mono fun a ⟨z, hz, ha⟩ => ⟨z, List.mem_cons_of_mem y hz, ha⟩)

end

theorem nodup_map_fst_zip {α β : Type} {l : List α} (xs : List β) (h : l.Nodup) : ((l.zip xs).map Prod.fst).Nodup := by
  induction l generalizing xs with
  | nil => exact .nil
  | cons a l ih =>
    obtain ⟨ha, hl⟩ := List.nodup_cons.mp h
    cases xs with
    | nil => exact .nil
    | cons x xs =>
      refine List.nodup_cons.mpr ⟨fun hmem => ?_, ih xs hl⟩
      obtain ⟨y, hy, rfl⟩ := List.mem_map.mp hmem
      exact ha (List.of_mem_zip (a := y.1) (b := y.2) hy).1

theorem mem_zip_range {β : Type} {d : β} {n j : Nat} {xs : List β} (hj : j < n) (hx : j < xs.length) : (j, nth d xs j) ∈ (List.range n).zip xs := by
  refine List.mem_iff_getElem.mpr ⟨j, by simp; omega, ?_⟩
  rw [List.getElem_zip, List.getElem_range]
  unfold nth
  rw [List.getD_eq_getElem _ _ hx]

/-! ### The registers of a lane -/

/-- An address of one register of the four lanes of a port. -/
def LaneAddr (p : Port) (off a : Nat) : Prop := ∃ k, k < 4 ∧ a = (laneF p k off 0 1).addr

theorem laneF_addr_ne {p : Port} {j k : Nat} (off lo w : Nat) (h : j ≠ k) : (laneF p j off lo w).addr ≠ (laneF p k off lo w).addr := by
  show 0x4020 + 0x1000 * p.ix + 32 * j + off ≠ 0x4020 + 0x1000 * p.ix + 32 * k + off
  omega

theorem LaneAddr.bounds {p : Port} {off a : Nat} (h : LaneAddr p off a) (hoff : off < 32) : 0x4020 + 0x1000 * p.ix ≤ a ∧ a < 0x40A0 + 0x1000 * p.ix := by
  obtain ⟨k, hk, rfl⟩ := h
  show 0x4020 + 0x1000 * p.ix ≤ 0x4020 + 0x1000 * p.ix + 32 * k + off ∧ 0x4020 + 0x1000 * p.ix + 32 * k + off < 0x40A0 + 0x1000 * p.ix
  omega

theorem LaneAddr.page {p : Port} {off a : Nat} (h : LaneAddr p off a) (hoff : off < 32) : pages [4 + p.ix] a = true ∧ statAddr a = false := by
  obtain ⟨hlo, hhi⟩ := h.bounds hoff
  have hpage : a / 4096 = 4 + p.ix := by omega
  refine ⟨?_, ?_⟩
  · unfold pages
    rw [hpage]
    simp
  · simp only [statAddr, Bool.and_eq_false_iff, decide_eq_false_iff_not]
    omega

/-- A field of a port outside its lanes. -/
theorem not_laneAddr {p : Port} {off a : Nat} (hoff : off < 32) (ha : a < 0x4020 + 0x1000 * p.ix ∨ 0x40A0 + 0x1000 * p.ix ≤ a) :
    ¬ LaneAddr p off a := fun h => by
  have := h.bounds hoff
  omega

/-! ### Taps (R285) -/

theorem bits_eqWord (dfe auto : Bool) (old new : Nat) :
    bits (eqWord dfe auto old new) 31 28 = bits (if auto then new else old) 31 28 ∧
      bits (eqWord dfe auto old new) 27 0 = (if dfe then bits new 27 0 else 0) := by
  have hctle : bits (if auto then new else old) 31 28 % 2 ^ 4 = bits (if auto then new else old) 31 28 :=
    Nat.mod_eq_of_lt (bits_lt _ 4 28 (by decide))
  have hdfe : (if dfe then bits new 27 0 else 0) < 2 ^ 28 := by
    split
    · exact bits_lt new 28 0 (by decide)
    · decide
  unfold eqWord
  rw [bits_or, bits_or, bits_place_eq 4 28 _ 31 rfl (by decide), hctle, bits_place_apart 4 28 _ 27 0 (by decide), Nat.zero_or,
    bits_small _ 31 28 28 hdfe (by decide), Nat.or_zero]
  exact ⟨rfl, Nat.mod_eq_of_lt hdfe⟩

theorem eqWord_lt (dfe auto : Bool) (old new : Nat) : eqWord dfe auto old new < 2 ^ 32 := by
  refine Nat.or_lt_two_pow (place_lt 4 28 _) ?_
  split
  · exact Nat.lt_trans (bits_lt new 28 0 (by decide)) (by decide)
  · decide

/-- The equaliser of a lane has gone to other taps, as far as LNx_ADAPT lets it. -/
def TapsMoved (p : Port) (s u : Chip) (j new : Nat) : Prop :=
  bits (u.fld (eqF p j)) 31 28 = bits (if s.flag (F.LN_ADAPT_CTLE_AUTO p.ix) then new else s.fld (eqF p j)) 31 28 ∧
    bits (u.fld (eqF p j)) 27 0 = if s.flag (F.LN_ADAPT_DFE_EN p.ix) then bits new 27 0 else 0

section
variable {p : Port} {s t u : Chip} {j : Nat}

theorem moveTaps_regs (p : Port) (k new : Nat) (s : Chip) : RegsAt (· = (eqF p k).addr) s (moveTaps p k new s) := (RegsAt.refl _ s).setFld _ rfl

theorem moveTaps_moved (p : Port) (k new : Nat) (s : Chip) : TapsMoved p s (moveTaps p k new s) k new := by
  unfold TapsMoved moveTaps
  rw [Chip.fld_setFld_word _ _, Nat.mod_eq_of_lt (eqWord_lt ..)]
  exact bits_eqWord ..

/-- What moves a lane's taps after other parts of the chip have changed. -/
theorem TapsMoved.of_active {new : Nat} (h : t.regs.active = s.regs.active) (hsame : t.fld (eqF p j) = s.fld (eqF p j)) (hu : TapsMoved p t u j new) :
    TapsMoved p s u j new := by
  unfold TapsMoved at hu ⊢
  rwa [Chip.flag_congr (Chip.fld_of_active h (f := F.LN_ADAPT_CTLE_AUTO p.ix) rfl),
    Chip.flag_congr (Chip.fld_of_active h (f := F.LN_ADAPT_DFE_EN p.ix) rfl), hsame] at hu

theorem TapsMoved.congr {v : Chip} {new : Nat} (h : v.fld (eqF p j) = u.fld (eqF p j)) (hu : TapsMoved p s u j new) : TapsMoved p s v j new := by
  unfold TapsMoved at hu ⊢
  rwa [h]

/-- The adaptation of a set of lanes starts. -/
def startLanes (p : Port) (mask : Nat) (s : Chip) : Chip := forAll (lanesOf mask) (fun k s => moveTaps p k (s.startTaps p k) s) s

theorem mem_lanesOf {mask : Nat} : j ∈ lanesOf mask ↔ j < 4 ∧ mask.testBit j = true := by
  unfold lanesOf
  rw [List.mem_filter, List.mem_range]

theorem startLanes_regs (p : Port) (mask : Nat) (s : Chip) : RegsAt (LaneAddr p 0) s (startLanes p mask s) :=
  RegsAt.forAll (fun k hk t => (moveTaps_regs p k _ t).mono fun _ ha => ⟨k, (mem_lanesOf.mp hk).1, ha⟩) s

theorem startLanes_moved {mask : Nat} (hj : j < 4) (hm : mask.testBit j = true) : TapsMoved p s (startLanes p mask s) j (s.startTaps p j) := by
  obtain ⟨t, hreg, hsame, hset⟩ := fld_forAll_once (l := lanesOf mask) (key := id) (step := fun k s => moveTaps p k (s.startTaps p k) s)
    (φ := eqF p) (fun _ _ h => laneF_addr_ne 0 0 32 h) (fun k _ t => moveTaps_regs p k _ t)
    (by rw [List.map_id]; exact List.Nodup.filter _ List.nodup_range) (mem_lanesOf.mpr ⟨hj, hm⟩) s
  have htaps : t.startTaps p j = s.startTaps p j := by
    unfold Chip.startTaps
    rw [hreg.lane]
  exact htaps ▸ .congr hset (.of_active hreg.active hsame (moveTaps_moved p j _ t))

theorem startLanes_same {mask : Nat} (hm : mask.testBit j = false) : (startLanes p mask s).fld (eqF p j) = s.fld (eqF p j) :=
  fld_forAll_other (key := id) (φ := eqF p) (fun k _ t => moveTaps_regs p k _ t)
    (fun k hk => laneF_addr_ne 0 0 32 fun e : j = k => by rw [e, (mem_lanesOf.mp hk).2] at hm; cases hm) s

/-- One lane of a mask takes the taps its adaptation reached, if it is locked. -/
def holdLane (p : Port) (mask : Nat) (x : Nat × EqTaps) (s : Chip) : Chip :=
  if (mask &&& s.fld (F.LN_STAT_LANE_LOCK p.ix)).testBit x.1 then moveTaps p x.1 (tapsWord x.2) s else s

theorem holdTaps_eq (p : Port) (mask : Nat) (eqs : List EqTaps) (s : Chip) :
    holdTaps p mask eqs s = forAll ((List.range 4).zip eqs) (holdLane p mask) s := rfl

theorem holdLane_regs (p : Port) (mask : Nat) (x : Nat × EqTaps) (s : Chip) : RegsAt (· = (eqF p x.1).addr) s (holdLane p mask x s) := by
  unfold holdLane
  split
  · exact moveTaps_regs p x.1 _ s
  · exact .refl _ s

theorem holdTaps_regs (p : Port) (mask : Nat) (eqs : List EqTaps) (s : Chip) : RegsAt (LaneAddr p 0) s (holdTaps p mask eqs s) :=
  RegsAt.forAll (fun x hx t => (holdLane_regs p mask x t).mono fun _ ha =>
    ⟨x.1, List.mem_range.mp (List.of_mem_zip (a := x.1) (b := x.2) hx).1, ha⟩) s

/-- The step of holdTaps at lane j, after those of other lanes. -/
theorem holdTaps_once {mask : Nat} {eqs : List EqTaps} {e : EqTaps} (hx : (j, e) ∈ (List.range 4).zip eqs) :
    ∃ t, DirectOnly s t ∧ t.fld (eqF p j) = s.fld (eqF p j) ∧
      (holdTaps p mask eqs s).fld (eqF p j) =
        (if (mask &&& s.fld (F.LN_STAT_LANE_LOCK p.ix)).testBit j then moveTaps p j (tapsWord e) t else t).fld (eqF p j) := by
  obtain ⟨t, hreg, hsame, hset⟩ := fld_forAll_once (key := Prod.fst) (φ := eqF p) (fun _ _ h => laneF_addr_ne 0 0 32 h)
    (fun x _ t => holdLane_regs p mask x t) (nodup_map_fst_zip eqs List.nodup_range) hx s
  have hlock : t.fld (F.LN_STAT_LANE_LOCK p.ix) = s.fld (F.LN_STAT_LANE_LOCK p.ix) := by
    refine hreg.fld fun ⟨y, hy, ha⟩ => ?_
    have : 0x4004 + 4096 * p.ix = 0x4020 + 0x1000 * p.ix + 32 * y.1 + 0 := ha
    omega
  refine ⟨t, hreg.toDirectOnly, hsame, ?_⟩
  rw [holdTaps_eq, hset]
  unfold holdLane
  rw [hlock]

theorem holdTaps_moved {mask : Nat} {eqs : List EqTaps} {e : EqTaps} (hx : (j, e) ∈ (List.range 4).zip eqs)
    (hm : (mask &&& s.fld (F.LN_STAT_LANE_LOCK p.ix)).testBit j = true) : TapsMoved p s (holdTaps p mask eqs s) j (tapsWord e) := by
  obtain ⟨t, hdir, hsame, hset⟩ := holdTaps_once (mask := mask) (s := s) (p := p) hx
  rw [if_pos hm] at hset
  exact .congr hset (.of_active hdir.active hsame (moveTaps_moved p j _ t))

theorem holdTaps_same {mask : Nat} {eqs : List EqTaps} {e : EqTaps} (hx : (j, e) ∈ (List.range 4).zip eqs)
    (hm : (mask &&& s.fld (F.LN_STAT_LANE_LOCK p.ix)).testBit j = false) : (holdTaps p mask eqs s).fld (eqF p j) = s.fld (eqF p j) := by
  obtain ⟨t, hdir, hsame, hset⟩ := holdTaps_once (mask := mask) (s := s) (p := p) hx
  rw [if_neg (Bool.eq_false_iff.mp hm)] at hset
  exact hset.trans hsame

/-- The taps word is the sum of its fields (R297). -/
theorem tapsWord_eq (e : EqTaps) : tapsWord e = e.ctle.toNat * 2 ^ 28 + e.tap1.toNat * 2 ^ 21 + e.tap2.toNat * 2 ^ 15 +
    e.tap3.toNat * 2 ^ 10 + e.tap4.toNat * 2 ^ 5 + e.tap5.toNat := by
  obtain ⟨c, a, b, d, f, g⟩ := e
  have hc := c.isLt; have ha := a.isLt; have hb := b.isLt; have hd := d.isLt; have hf := f.isLt; have hg := g.isLt
  have hplace : ∀ w lo v, v < 2 ^ w → place w lo v = v <<< lo := fun w lo v hv => by unfold place; rw [Nat.mod_eq_of_lt hv]
  unfold tapsWord
  dsimp only
  rw [hplace 4 28 _ hc, hplace 7 21 _ ha, hplace 6 15 _ hb, hplace 5 10 _ hd, hplace 5 5 _ hf, hplace 5 0 _ hg]
  simp only [Nat.or_assoc]
  have hlow : g.toNat <<< 0 = g.toNat := rfl
  rw [hlow, ← Nat.shiftLeft_add_eq_or_of_lt (by omega) f.toNat, ← Nat.shiftLeft_add_eq_or_of_lt (by rw [Nat.shiftLeft_eq]; omega) d.toNat,
    ← Nat.shiftLeft_add_eq_or_of_lt (by simp only [Nat.shiftLeft_eq]; omega) b.toNat,
    ← Nat.shiftLeft_add_eq_or_of_lt (by simp only [Nat.shiftLeft_eq]; omega) a.toNat,
    ← Nat.shiftLeft_add_eq_or_of_lt (by simp only [Nat.shiftLeft_eq]; omega) c.toNat]
  simp only [Nat.shiftLeft_eq]
  omega

/-! ### Deskew (R282) -/

/-- One lane of a mask is deskewed by its lead. -/
def deskewLane (p : Port) (mask : Nat) (x : Nat × Nat) (s : Chip) : Chip := if mask.testBit x.1 then s.setFld (skewF p x.1) x.2 else s

theorem deskewLane_regs (p : Port) (mask : Nat) (x : Nat × Nat) (s : Chip) : RegsAt (· = (skewF p x.1).addr) s (deskewLane p mask x s) := by
  unfold deskewLane
  split
  · exact (RegsAt.refl _ s).setFld _ rfl
  · exact .refl _ s

theorem deskew_regs (p : Port) (mask : Nat) (leads : List Nat) (s : Chip) : RegsAt (LaneAddr p 0x0C) s (deskew p mask leads s) :=
  RegsAt.forAll (fun x hx t => (deskewLane_regs p mask x t).mono fun _ ha =>
    ⟨x.1, List.mem_range.mp (List.of_mem_zip (a := x.1) (b := x.2) hx).1, ha⟩) s

theorem deskew_fld (p : Port) (mask : Nat) (leads : List Nat) (s : Chip) (hj : j < 4) : (deskew p mask leads s).fld (skewF p j) =
    if mask.testBit j && decide (j < leads.length) then nth 0 leads j % 2 ^ 11 else s.fld (skewF p j) := by
  by_cases hlen : j < leads.length
  · obtain ⟨t, -, hsame, hset⟩ := fld_forAll_once (key := Prod.fst) (φ := skewF p) (fun _ _ h => laneF_addr_ne 0x0C 0 11 h)
      (fun x _ t => deskewLane_regs p mask x t) (nodup_map_fst_zip leads List.nodup_range) (mem_zip_range (d := 0) hj hlen) s
    have hstep : (deskew p mask leads s).fld (skewF p j) = (deskewLane p mask (j, nth 0 leads j) t).fld (skewF p j) := hset
    rw [hstep, decide_eq_true hlen, Bool.and_true]
    unfold deskewLane
    split
    · exact Chip.fld_setFld_same _ (skewF p j) _ ⟨show 1 ≤ 11 by decide, show 0 + 11 ≤ 32 by decide⟩ rfl
    · exact hsame
  · rw [decide_eq_false hlen, Bool.and_false, if_neg Bool.false_ne_true]
    refine fld_forAll_other (key := Prod.fst) (φ := skewF p) (fun x _ t => deskewLane_regs p mask x t) (fun x hx => ?_) s
    refine laneF_addr_ne 0x0C 0 11 fun e : j = x.1 => hlen ?_
    obtain ⟨i, hi, hxi⟩ := List.mem_iff_getElem.mp hx
    rw [List.length_zip, List.length_range] at hi
    rw [List.getElem_zip, List.getElem_range] at hxi
    rw [e, ← hxi]
    exact lt_of_lt_of_le hi (Nat.min_le_right _ _)

end

end Sys2Proof.Machine
end

section
/-! PROOFS. The rows of the lane PLLs and of training (R275, R281 to R285, R288, R292, R422, R423), each by what it leaves. -/

namespace Sys2Proof.Machine

/-! ### INRING falls (R292) -/

/-- The chip as INRING falls, before RING_LEFT. -/
def outOfRing (s : Chip) : Chip :=
  let s1 := ((s.setFlag F.LNE_RING_INRING false).setFlag F.LNE_RING_JOINED false).setFlag F.RNG_STAT_BYPASSED true
  { s1 with
    ring := { s1.ring with hbFrames := none, leaveRun := 0 }
    ringE := { s1.ringE with usableAll := false }
    ringW := { s1.ringW with usableAll := false } }

section
variable {s : Chip}

theorem lowerInring_of_out (h : s.inring = false) : lowerInring s = s := if_pos (by rw [h]; rfl)

theorem lowerInring_of_in (h : s.inring = true) : lowerInring s = raise EV.RING_LEFT (outOfRing s) := if_neg (by rw [h]; decide)

/-- The fields that the fall of INRING touches, the ring's own apart. -/
def ringFlds : List Fld := [F.LNE_RING_INRING, F.LNE_RING_JOINED]

theorem outOfRing_retains (s : Chip) : Retains ringFlds s (outOfRing s) := by
  have hset : Retains ringFlds s ((s.setFlag F.LNE_RING_INRING false).setFlag F.LNE_RING_JOINED false) :=
    ((Retains.refl _ s).setFld 0 (by simp [ringFlds]) (by decide)).setFld 0 (by simp [ringFlds]) (by decide)
  exact (hset.trans (Ships.setFld _ F.RNG_STAT_BYPASSED 1 (by decide) (by decide)).retains).same rfl rfl rfl

theorem outOfRing_keeps (s : Chip) : Keeps [4] s (outOfRing s) := by
  have hset : Keeps [4] s (((s.setFlag F.LNE_RING_INRING false).setFlag F.LNE_RING_JOINED false).setFlag F.RNG_STAT_BYPASSED true) :=
    ((Keeps.setFld _ s F.LNE_RING_INRING 0 (by decide) (by decide)).trans (Keeps.setFld _ _ F.LNE_RING_JOINED 0 (by decide) (by decide))).trans
      (Keeps.setFld _ _ F.RNG_STAT_BYPASSED 1 (by decide) (by decide))
  exact hset.trans (Keeps.same rfl rfl rfl rfl)

theorem lowerInring_retains (s : Chip) : Retains ringFlds s (lowerInring s) := by
  cases h : s.inring with
  | false => rw [lowerInring_of_out h]; exact .refl _ s
  | true => rw [lowerInring_of_in h]; exact (outOfRing_retains s).raise (by decide)

theorem lowerInring_keeps (s : Chip) : Keeps [4] s (lowerInring s) := by
  cases h : s.inring with
  | false => rw [lowerInring_of_out h]; exact .refl _ s
  | true => rw [lowerInring_of_in h]; exact (outOfRing_keeps s).trans (raise_keeps _ _ (by decide) _)

theorem outOfRing_inring (s : Chip) : (outOfRing s).inring = false := by
  have hflag : (((s.setFlag F.LNE_RING_INRING false).setFlag F.LNE_RING_JOINED false).setFlag F.RNG_STAT_BYPASSED true).flag F.LNE_RING_INRING =
      (s.setFlag F.LNE_RING_INRING false).flag F.LNE_RING_INRING :=
    (flag_setFlag_apart _ _ _ _ (by decide) (by decide)).trans (flag_setFlag_apart _ _ _ _ (by decide) (by decide))
  exact hflag.trans (flag_setFlag_same s F.LNE_RING_INRING false (by decide) rfl)

theorem lowerInring_inring (s : Chip) : (lowerInring s).inring = false := by
  cases h : s.inring with
  | false => rw [lowerInring_of_out h, h]
  | true =>
    rw [lowerInring_of_in h]
    exact (Chip.flag_congr (raise_fld _ (by decide) _ _ (by decide))).trans (outOfRing_inring s)

theorem lowerInring_left (h : s.inring = true) : (lowerInring s).eventSeen EV.RING_LEFT = true := by
  rw [lowerInring_of_in h]
  exact raise_seen _ (by decide) _

end

/-! ### Sticky bits of the crossings (R422, R423) -/

theorem latchBit_retains {fs : List Fld} {f : Fld} (b : Nat) (s : Chip) (hf : f ∈ fs) (hs : statAddr f.addr = false) :
    Retains fs s (s.latchBit f b) :=
  (Announces.noteSet s _ _).retains.setFld _ hf hs

theorem latchBit_keeps {l : List Nat} {f : Fld} (b : Nat) (s : Chip) (h : pages l f.addr = true) (hs : statAddr f.addr = false) :
    Keeps l s (s.latchBit f b) := ((Announces.noteSet s _ _).keeps l).trans (Keeps.setFld _ _ _ _ h hs)

theorem latchBit_testBit {f : Fld} {b : Nat} (s : Chip) (hf : f.fits) (hr : f.rws = false) (hb : b < f.w) :
    ((s.latchBit f b).fld f).testBit b = true := Chip.testBit_setBit_same _ true hf hr hb

theorem latchBit_testBit_of_set {f : Fld} {n : Nat} (b : Nat) (s : Chip) (hf : f.fits) (hr : f.rws = false) (h : (s.fld f).testBit n = true) :
    ((s.latchBit f b).fld f).testBit n = true := by
  have hn : n < f.w := by
    by_contra hn
    have hlt : s.fld f < 2 ^ n := lt_of_lt_of_le (fld_lt s f hf) (Nat.pow_le_pow_right (by decide) (Nat.not_lt.mp hn))
    rw [Nat.testBit_lt_two_pow hlt] at h
    cases h
  have hset : (s.latchBit f b).fld f = ((s.noteSet f.addr (f.lo + b)).fld f ||| 2 ^ b) % 2 ^ f.w := Chip.fld_setFld_same _ _ _ hf hr
  rw [hset, Nat.testBit_mod_two_pow, Nat.testBit_or, show (s.noteSet f.addr (f.lo + b)).fld f = s.fld f from rfl, h, decide_eq_true hn]
  rfl

/-! ### A one-sided reset of a port (R423) -/

/-- A crossing is coupled across. -/
def dropCrossing (n : Nat) (s : Chip) : Chip := raise EV.CDC_DROP ((s.bump F.GLB_CDC_DROP_COUNT).latchBit F.GLB_CDC_STAT_DROP n)

/-- The fields that a coupling touches. -/
def dropFlds : List Fld := [F.GLB_CDC_DROP_COUNT, F.GLB_CDC_STAT_DROP]

section
variable (n : Nat) (s : Chip)

theorem dropCrossing_retains : Retains dropFlds s (dropCrossing n s) :=
  (((Retains.refl _ s).setFld _ (by simp [dropFlds]) (by decide)).trans (latchBit_retains n _ (by simp [dropFlds]) (by decide))).raise (by decide)

theorem dropCrossing_keeps : Keeps [0] s (dropCrossing n s) :=
  ((Keeps.setFld _ _ _ _ (by decide) (by decide)).trans (latchBit_keeps n _ (by decide) (by decide))).trans (raise_keeps _ _ (by decide) _)

theorem dropCrossing_count : (dropCrossing n s).fld F.GLB_CDC_DROP_COUNT = satTo 32 (s.fld F.GLB_CDC_DROP_COUNT + 1) := by
  refine (raise_fld _ (by decide) _ _ (by decide)).trans ?_
  exact (Chip.fld_setFld_ne _ (f := F.GLB_CDC_STAT_DROP) _ (by decide)).trans (s.fld_bump_same _ (by decide) rfl)

theorem dropCrossing_stat (k : Nat) : ((dropCrossing n s).fld F.GLB_CDC_STAT_DROP).testBit k =
    (((s.bump F.GLB_CDC_DROP_COUNT).latchBit F.GLB_CDC_STAT_DROP n).fld F.GLB_CDC_STAT_DROP).testBit k :=
  Chip.testBit_congr k (raise_fld _ (by decide) _ _ (by decide))

theorem dropCrossing_stat_same (hn : n < 11) : ((dropCrossing n s).fld F.GLB_CDC_STAT_DROP).testBit n = true :=
  (dropCrossing_stat n s n).trans (latchBit_testBit _ (by decide) rfl hn)

theorem dropCrossing_stat_of_set {k : Nat} (h : (s.fld F.GLB_CDC_STAT_DROP).testBit k = true) :
    ((dropCrossing n s).fld F.GLB_CDC_STAT_DROP).testBit k = true :=
  (dropCrossing_stat n s k).trans (latchBit_testBit_of_set n _ (by decide) rfl
    ((Chip.testBit_congr k (Chip.fld_bump_ne s (f := F.GLB_CDC_DROP_COUNT) (by decide))).trans h))

theorem dropCrossing_seen : (dropCrossing n s).eventSeen EV.CDC_DROP = true := raise_seen _ (by decide) _

end

/-- What the coupling of crossings leaves. -/
structure Coupled (l : List Nat) (s u : Chip) : Prop where
  retains : Retains dropFlds s u
  keeps : Keeps [0] s u
  count : u.fld F.GLB_CDC_DROP_COUNT = satTo 32 (s.fld F.GLB_CDC_DROP_COUNT + l.length)
  stat : ∀ n ∈ l, (u.fld F.GLB_CDC_STAT_DROP).testBit n = true
  kept : ∀ n, (s.fld F.GLB_CDC_STAT_DROP).testBit n = true → (u.fld F.GLB_CDC_STAT_DROP).testBit n = true

theorem forAll_dropCrossing (l : List Nat) (hl : ∀ n ∈ l, n < 11) (s : Chip) : Coupled l s (forAll l dropCrossing s) := by
  induction l generalizing s with
  | nil =>
    refine ⟨.refl _ s, .refl _ s, ?_, fun _ hn => (List.not_mem_nil hn).elim, fun _ h => h⟩
    exact (Nat.min_eq_left (Nat.le_sub_one_of_lt (fld_lt s F.GLB_CDC_DROP_COUNT (by decide)))).symm
  | cons a l ih =>
    obtain ⟨hret, hkeeps, hcount, hstat, hkept⟩ := ih (fun n hn => hl n (List.mem_cons_of_mem a hn)) (dropCrossing a s)
    refine ⟨(dropCrossing_retains a s).trans hret, (dropCrossing_keeps a s).trans hkeeps, hcount.trans ?_, fun n hn => ?_,
      fun n h => hkept n (dropCrossing_stat_of_set a s h)⟩
    · rw [dropCrossing_count, satTo_satTo_add, List.length_cons, Nat.add_assoc, Nat.add_comm 1]
    · rcases List.mem_cons.mp hn with rfl | hn
      · exact hkept _ (dropCrossing_stat_same _ s (hl _ List.mem_cons_self))
      · exact hstat n hn

theorem couple_coupled (p : Port) (s : Chip) : Coupled (portCrossings p) (dropToggles p s) (couple p s) :=
  forAll_dropCrossing _ (by cases p <;> decide) _

theorem couple_seen (p : Port) (s : Chip) : (couple p s).eventSeen EV.CDC_DROP = true := by
  cases p <;> exact dropCrossing_seen 6 _

/-! ### LANE_PLL_LOCK and PLL_UNLOCK (R275) -/

section
variable (p : Port) {s : Chip}

theorem pllLock_of_held (h : ¬ (s.up = true ∧ s.flag (F.LN_STAT_PLL_LOCK p.ix) = false)) : pllLock p s = s := by
  refine if_pos ?_
  cases hup : s.up
  · rfl
  · cases hl : s.flag (F.LN_STAT_PLL_LOCK p.ix)
    · exact absurd ⟨hup, hl⟩ h
    · rfl

theorem pllLock_of_unlocked (hup : s.up = true) (h : s.flag (F.LN_STAT_PLL_LOCK p.ix) = false) :
    pllLock p s = if s.running = true then startTraining p (s.setFlag (F.LN_STAT_PLL_LOCK p.ix) true) else s.setFlag (F.LN_STAT_PLL_LOCK p.ix) true := by
  refine (if_neg ?_).trans rfl
  rw [hup, h]
  decide

theorem pllUnlock_of_unlocked (h : s.flag (F.LN_STAT_PLL_LOCK p.ix) = false) : pllUnlock p s = s := if_pos (by rw [h]; rfl)

theorem pllUnlock_of_locked (h : s.flag (F.LN_STAT_PLL_LOCK p.ix) = true) : pllUnlock p s =
    lowerInring (couple p (raise (EV.LN_PLL_UNLOCK p) (startTraining p (s.setFlag (F.LN_STAT_PLL_LOCK p.ix) false)))) :=
  (if_neg (by rw [h]; decide)).trans rfl

variable (s)

theorem setPllLock_retains (b : Bool) : Retains [F.LN_STAT_PLL_LOCK p.ix] s (s.setFlag (F.LN_STAT_PLL_LOCK p.ix) b) :=
  (Retains.refl _ s).setFld _ (by simp) (by cases p <;> decide)

theorem setPllLock_flag (b : Bool) : (s.setFlag (F.LN_STAT_PLL_LOCK p.ix) b).flag (F.LN_STAT_PLL_LOCK p.ix) = b :=
  flag_setFlag_same _ _ _ (by cases p <;> decide) rfl

theorem setPllLock_keeps (b : Bool) : Keeps [4 + p.ix] s (s.setFlag (F.LN_STAT_PLL_LOCK p.ix) b) :=
  Keeps.setFld _ _ _ _ (by cases p <;> decide) (by cases p <;> decide)

theorem setPllLock_trained (b : Bool) : Trained p s (startTraining p (s.setFlag (F.LN_STAT_PLL_LOCK p.ix) b)) :=
  .of_retains (setPllLock_retains p s b) (by cases p <;> rfl) (by cases p <;> decide) (startTraining_trained p _)

theorem startTraining_setPllLock_flag (b : Bool) :
    (startTraining p (s.setFlag (F.LN_STAT_PLL_LOCK p.ix) b)).flag (F.LN_STAT_PLL_LOCK p.ix) = b :=
  (startTraining_pllLock p _).trans (setPllLock_flag p s b)

end

/-! ### What follows the training of an unlocked PLL (R423, R292) -/

/-- PLL_UNLOCK is announced, the port's crossings are coupled across, and INRING falls. -/
def unlocked (p : Port) (s : Chip) : Chip := lowerInring (couple p (raise (EV.LN_PLL_UNLOCK p) s))

section
variable (p : Port) (s : Chip)

theorem unlocked_retains : Retains (dropFlds ++ ringFlds) (dropToggles p (raise (EV.LN_PLL_UNLOCK p) s)) (unlocked p s) :=
  ((couple_coupled p _).retains.mono fun _ hf => List.mem_append_left _ hf).trans
    ((lowerInring_retains _).mono fun _ hf => List.mem_append_right _ hf)

theorem unlocked_fld {g : Fld} (hw : 1 ≤ g.w) (hs : shipAddr g.addr = false) (hg : ∀ f ∈ dropFlds ++ ringFlds, f.apart g) :
    (unlocked p s).fld g = s.fld g :=
  ((unlocked_retains p s).fld g hw hs hg).trans ((raise_ships (EV.LN_PLL_UNLOCK p) (by cases p <;> decide) s).fld g hs)

theorem unlocked_seen {e : Nat} (he : e < 384) (h : s.eventSeen e = true) : (unlocked p s).eventSeen e = true :=
  (unlocked_retains p s).seen e he ((raise_announces (EV.LN_PLL_UNLOCK p) (by cases p <;> decide) s).events e he h)

theorem unlocked_announced : (unlocked p s).eventSeen (EV.LN_PLL_UNLOCK p) = true :=
  (unlocked_retains p s).seen _ (by cases p <;> decide) (raise_seen (EV.LN_PLL_UNLOCK p) (by cases p <;> decide) s)

theorem unlocked_cdc : (unlocked p s).cdc = s.cdc.filter fun e => e.1 / 32 != p.ix :=
  (unlocked_retains p s).cdc.trans (congrArg (List.filter _) (raise_announces (EV.LN_PLL_UNLOCK p) (by cases p <;> decide) s).cdc)

theorem unlocked_count : (unlocked p s).fld F.GLB_CDC_DROP_COUNT = satTo 32 (s.fld F.GLB_CDC_DROP_COUNT + 4) := by
  refine ((lowerInring_retains _).fld _ (by decide) (by decide) (by decide)).trans ((couple_coupled p _).count.trans ?_)
  have hlen : (portCrossings p).length = 4 := by cases p <;> rfl
  have hraise : (dropToggles p (raise (EV.LN_PLL_UNLOCK p) s)).fld F.GLB_CDC_DROP_COUNT = s.fld F.GLB_CDC_DROP_COUNT :=
    raise_fld _ (by cases p <;> decide) s _ (by decide)
  rw [hlen, hraise]

theorem unlocked_stat {n : Nat} (hn : n ∈ portCrossings p) : ((unlocked p s).fld F.GLB_CDC_STAT_DROP).testBit n = true :=
  (Chip.testBit_congr n ((lowerInring_retains _).fld _ (by decide) (by decide) (by decide))).trans ((couple_coupled p _).stat n hn)

theorem unlocked_dropped : (unlocked p s).eventSeen EV.CDC_DROP = true := (lowerInring_retains _).seen _ (by decide) (couple_seen p _)

theorem unlocked_left (h : s.inring = true) : (unlocked p s).eventSeen EV.RING_LEFT = true := by
  refine lowerInring_left (Eq.trans (Chip.flag_congr ?_) h)
  refine ((couple_coupled p _).retains.fld _ (by decide) (by decide) (by decide)).trans ?_
  exact raise_fld (EV.LN_PLL_UNLOCK p) (by cases p <;> decide) s _ (by decide)

theorem unlocked_keeps : Keeps [0, 4, 5] s (unlocked p s) := by
  have hraise : Keeps [0] s (dropToggles p (raise (EV.LN_PLL_UNLOCK p) s)) :=
    (raise_keeps _ (EV.LN_PLL_UNLOCK p) (by cases p <;> decide) s).trans (Keeps.same rfl rfl rfl rfl)
  exact ((hraise.trans (couple_coupled p _).keeps).mono (pages_mono (by decide))).trans
    ((lowerInring_keeps _).mono (pages_mono (by decide)))

end

/-! ### The registers of a port's page -/

/-- The addresses of the LN registers of a port. -/
abbrev LnPage (p : Port) (a : Nat) : Prop := 0x4000 + 0x1000 * p.ix ≤ a ∧ a < 0x5000 + 0x1000 * p.ix

theorem LnPage.pages {p : Port} {a : Nat} (h : LnPage p a) : pages [4 + p.ix] a = true ∧ statAddr a = false := by
  obtain ⟨hlo, hhi⟩ := h
  have hpage : a / 4096 = 4 + p.ix := by omega
  refine ⟨?_, ?_⟩
  · unfold Machine.pages
    rw [hpage]
    simp
  · simp only [statAddr, Bool.and_eq_false_iff, decide_eq_false_iff_not]
    omega

theorem LaneAddr.lnPage {p : Port} {off a : Nat} (h : LaneAddr p off a) (hoff : off < 32) : LnPage p a := by
  have := h.bounds hoff
  constructor <;> omega

theorem RegsAt.lnKeeps {p : Port} {s t : Chip} (h : RegsAt (LnPage p) s t) : Keeps [4 + p.ix] s t := h.keeps fun _ ha => ha.pages

/-! ### LANE_ACQUIRE_DONE (R281, R285, R288) -/

section
variable (p : Port) {s : Chip} {lanes : Nat}

/-- The lanes found in ACQUIRE are locked, and ADAPT starts. -/
def acquired (p : Port) (lanes : Nat) (s : Chip) : Chip := setLnState p 2 (s.setFld (F.LN_STAT_LANE_LOCK p.ix) lanes)

/-- More lanes of a port that is TRAINED are locked. -/
def widened (p : Port) (more : Nat) (s : Chip) : Chip :=
  let s1 := s.setFld (F.LN_STAT_LANE_LOCK p.ix) (s.fld (F.LN_STAT_LANE_LOCK p.ix) ||| more)
  s1.setLane p { s1.lane p with wide := 1 }

theorem acquireDone_of_acquire (hst : s.lnState p = 1) (hl : lanes ≠ 0) : acquireDone p lanes s = startLanes p lanes (acquired p lanes s) :=
  if_pos (by rw [hst, bne_iff_ne.mpr hl]; rfl)

theorem acquireDone_of_more (hst : ¬ (s.lnState p = 1 ∧ lanes ≠ 0)) (hm : lanes &&& s.newLanes p ≠ 0) :
    acquireDone p lanes s = startLanes p (lanes &&& s.newLanes p) (widened p (lanes &&& s.newLanes p) s) :=
  (if_neg (by simpa using hst)).trans (if_pos (bne_iff_ne.mpr hm))

theorem acquireDone_of_none (hst : ¬ (s.lnState p = 1 ∧ lanes ≠ 0)) (hm : lanes &&& s.newLanes p = 0) : acquireDone p lanes s = s :=
  (if_neg (by simpa using hst)).trans (if_neg (by rw [hm]; decide))

theorem newLanes_eq (s : Chip) : s.newLanes p = if s.lnState p = 4 then
    bits ((s.lane p).partnerNmask &&& (15 - s.fld (F.LN_STAT_LMASK_RX p.ix))) 3 0 else 0 := by
  unfold Chip.newLanes
  exact if_congr beq_iff_eq rfl rfl

theorem newLanes_lt (s : Chip) : s.newLanes p < 16 := by
  rw [newLanes_eq]
  split
  · exact bits_lt _ 4 0 (by decide)
  · decide

/-- What the start of adaptation leaves of the equalisers. -/
theorem startLanes_starts (s t : Chip) (mask : Nat) (hact : t.regs.active = s.regs.active) (hgood : (t.lane p).lastGood = (s.lane p).lastGood)
    (heq : ∀ j, j < 4 → t.fld (eqF p j) = s.fld (eqF p j)) : ∀ j, j < 4 →
      (mask.testBit j = true → TapsMoved p s (startLanes p mask t) j (s.startTaps p j)) ∧
      (mask.testBit j = false → (startLanes p mask t).fld (eqF p j) = s.fld (eqF p j)) := fun j hj => by
  have htaps : t.startTaps p j = s.startTaps p j := by
    unfold Chip.startTaps
    rw [hgood]
  exact ⟨fun hm => htaps ▸ .of_active hact (heq j hj) (startLanes_moved hj hm), fun hm => (startLanes_same hm).trans (heq j hj)⟩

theorem fld_eqF_setFld_lnStat (s : Chip) (lo w v j : Nat) : (s.setFld ⟨0x4004 + 4096 * p.ix, lo, w, false⟩ v).fld (eqF p j) = s.fld (eqF p j) :=
  Chip.fld_setFld_ne _ _ (by show 0x4020 + 0x1000 * p.ix + 32 * j + 0 ≠ 0x4004 + 4096 * p.ix; omega)

theorem fld_lnStat_of_laneRegs {t : Chip} {off lo w : Nat} (h : RegsAt (LaneAddr p off) s t) (hoff : off < 32 := by decide) :
    t.fld ⟨0x4004 + 4096 * p.ix, lo, w, false⟩ = s.fld ⟨0x4004 + 4096 * p.ix, lo, w, false⟩ :=
  h.fld (not_laneAddr hoff (.inl (by show 0x4004 + 4096 * p.ix < 0x4020 + 0x1000 * p.ix; omega)))

end

end Sys2Proof.Machine
end

section
/-! PROOFS. The three steps of training and the widening of a partner, by what each leaves (R281, R282, R285, R288, R321). -/

namespace Sys2Proof.Machine

section
variable {p : Port} {s : Chip}

theorem lnPage_of_offset (p : Port) {off : Nat} (h : off < 4096 := by decide) : LnPage p (0x4000 + off + 4096 * p.ix) := by
  constructor <;> omega

theorem lnPage_lnStat (p : Port) : LnPage p (0x4004 + 4096 * p.ix) := lnPage_of_offset p (off := 4)

/-- What a step of training that sets STATE and LANE_LOCK leaves. -/
structure LanesFound (p : Port) (state lock : Nat) (u : Chip) : Prop where
  state : u.lnState p = state
  lock : u.fld (F.LN_STAT_LANE_LOCK p.ix) = lock

/-! ### LANE_ACQUIRE_DONE -/

theorem acquired_regs (lanes : Nat) : RegsAt (LnPage p) s (acquired p lanes s) :=
  ((RegsAt.refl _ s).setFld lanes (lnPage_lnStat p)).setFld 2 (lnPage_lnStat p)

theorem acquired_found {lanes : Nat} (hlt : lanes < 16) : LanesFound p 2 lanes (acquired p lanes s) where
  state := Chip.fld_setFld_same _ (F.LN_STAT_STATE p.ix) 2 (by cases p <;> decide) rfl
  lock := (Chip.fld_setFld_apart _ (F.LN_STAT_STATE p.ix) _ 2 (by cases p <;> decide) (by cases p <;> decide)).trans
    ((Chip.fld_setFld_same s (F.LN_STAT_LANE_LOCK p.ix) lanes (by cases p <;> decide) rfl).trans (Nat.mod_eq_of_lt hlt))

theorem fld_eqF_acquired (lanes j : Nat) : (acquired p lanes s).fld (eqF p j) = s.fld (eqF p j) :=
  (fld_eqF_setFld_lnStat p _ 28 4 2 j).trans (fld_eqF_setFld_lnStat p s 12 4 lanes j)

theorem LanesFound.of_laneRegs {state lock off : Nat} {t u : Chip} (ht : LanesFound p state lock t) (h : RegsAt (LaneAddr p off) t u)
    (hoff : off < 32 := by decide) : LanesFound p state lock u :=
  ⟨(fld_lnStat_of_laneRegs p h hoff).trans ht.state, (fld_lnStat_of_laneRegs p h hoff).trans ht.lock⟩

theorem acquireDone_regs {lanes : Nat} (hst : s.lnState p = 1) (hl : lanes ≠ 0) : RegsAt (LnPage p) s (acquireDone p lanes s) := by
  rw [acquireDone_of_acquire p hst hl]
  exact (acquired_regs lanes).trans ((startLanes_regs p lanes _).mono fun _ ha => ha.lnPage (by decide))

theorem acquireDone_found {lanes : Nat} (hst : s.lnState p = 1) (hl : lanes ≠ 0) (hlt : lanes < 16) :
    LanesFound p 2 lanes (acquireDone p lanes s) := by
  rw [acquireDone_of_acquire p hst hl]
  exact (acquired_found hlt).of_laneRegs (startLanes_regs p lanes _)

/-- Adaptation has started from `s` in the lanes of a mask. -/
def AdaptsFrom (p : Port) (s u : Chip) (mask : Nat) : Prop := ∀ j, j < 4 →
  (mask.testBit j = true → TapsMoved p s u j (s.startTaps p j)) ∧ (mask.testBit j = false → u.fld (eqF p j) = s.fld (eqF p j))

theorem acquireDone_adapts {lanes : Nat} (hst : s.lnState p = 1) (hl : lanes ≠ 0) : AdaptsFrom p s (acquireDone p lanes s) lanes := by
  rw [acquireDone_of_acquire p hst hl]
  have hreg : RegsAt (LnPage p) s (acquired p lanes s) := acquired_regs lanes
  exact startLanes_starts p s _ lanes hreg.active (by rw [hreg.lane]) fun j _ => fld_eqF_acquired lanes j

theorem widened_keeps (more : Nat) : Keeps [4 + p.ix] s (widened p more s) :=
  (Keeps.setFld _ s (F.LN_STAT_LANE_LOCK p.ix) _ (by cases p <;> decide) (by cases p <;> decide)).trans (setLane_keeps _ _ p _)

theorem widened_fld (more : Nat) (f : Fld) : (widened p more s).fld f =
    (s.setFld (F.LN_STAT_LANE_LOCK p.ix) (s.fld (F.LN_STAT_LANE_LOCK p.ix) ||| more)).fld f := Chip.setLane_fld ..

theorem widened_found {more : Nat} (hlt : more < 16) :
    LanesFound p (s.lnState p) (s.fld (F.LN_STAT_LANE_LOCK p.ix) ||| more) (widened p more s) where
  state := (widened_fld more _).trans (Chip.fld_setFld_apart _ _ (F.LN_STAT_STATE p.ix) _ (by cases p <;> decide) (by cases p <;> decide))
  lock := by
    rw [widened_fld, Chip.fld_setFld_same _ _ _ (by cases p <;> decide) rfl]
    exact Nat.mod_eq_of_lt (Nat.or_lt_two_pow (fld_lt s (F.LN_STAT_LANE_LOCK p.ix) (by cases p <;> decide)) hlt)

theorem widened_lane (more : Nat) : (widened p more s).lane p = { s.lane p with wide := 1 } :=
  (Chip.lane_setLane_same ..).trans (by rw [Chip.lane_setFld])

/-- The rows of LANE_ACQUIRE_DONE for a widening partner. -/
theorem acquireDone_widens {lanes : Nat} (hst : ¬ (s.lnState p = 1 ∧ lanes ≠ 0)) (hm : lanes &&& s.newLanes p ≠ 0) :
    Keeps [4 + p.ix] s (acquireDone p lanes s) ∧
      LanesFound p (s.lnState p) (s.fld (F.LN_STAT_LANE_LOCK p.ix) ||| (lanes &&& s.newLanes p)) (acquireDone p lanes s) ∧
      ((acquireDone p lanes s).lane p).wide = 1 ∧ AdaptsFrom p s (acquireDone p lanes s) (lanes &&& s.newLanes p) := by
  rw [acquireDone_of_more p hst hm]
  have hlt : lanes &&& s.newLanes p < 16 := lt_of_le_of_lt Nat.and_le_right (newLanes_lt p s)
  have hregs : RegsAt (LaneAddr p 0) (widened p (lanes &&& s.newLanes p) s) _ := startLanes_regs p (lanes &&& s.newLanes p) _
  refine ⟨(widened_keeps _).trans (hregs.mono fun _ ha => ha.lnPage (by decide)).lnKeeps, (widened_found hlt).of_laneRegs hregs, ?_, ?_⟩
  · rw [hregs.lane, widened_lane]
  · refine startLanes_starts p s _ _ (widened_keeps _).active (by rw [widened_lane]) fun j _ => ?_
    exact (widened_fld _ _).trans (fld_eqF_setFld_lnStat p s 12 4 _ j)

/-! ### LANE_ADAPT_DONE -/

/-- The locked lanes of a mask hold the taps that their adaptation reached from `s`. -/
def Adapted (p : Port) (s u : Chip) (mask : Nat) (eqs : List EqTaps) (e0 : EqTaps) : Prop := ∀ j, j < 4 →
  ((mask &&& s.fld (F.LN_STAT_LANE_LOCK p.ix)).testBit j = false → u.fld (eqF p j) = s.fld (eqF p j)) ∧
  ((mask &&& s.fld (F.LN_STAT_LANE_LOCK p.ix)).testBit j = true → TapsMoved p s u j (tapsWord (nth e0 eqs j)))

theorem holdTaps_adapted (mask : Nat) {eqs : List EqTaps} (e0 : EqTaps) (hlen : eqs.length = 4) : Adapted p s (holdTaps p mask eqs s) mask eqs e0 :=
  fun _ hj =>
  have hx := mem_zip_range (d := e0) hj (xs := eqs) (hlen ▸ hj)
  ⟨holdTaps_same hx, holdTaps_moved hx⟩

theorem Adapted.of_same {t u v : Chip} {mask : Nat} {eqs : List EqTaps} {e0 : EqTaps} (h : Adapted p t u mask eqs e0)
    (hact : t.regs.active = s.regs.active) (hlock : t.fld (F.LN_STAT_LANE_LOCK p.ix) = s.fld (F.LN_STAT_LANE_LOCK p.ix))
    (heq : ∀ j, t.fld (eqF p j) = s.fld (eqF p j)) (hv : ∀ j, v.fld (eqF p j) = u.fld (eqF p j)) : Adapted p s v mask eqs e0 := fun j hj => by
  obtain ⟨hsame, hmoved⟩ := h j hj
  rw [hlock] at hsame hmoved
  exact ⟨fun hm => (hv j).trans ((hsame hm).trans (heq j)), fun hm => .congr (hv j) (.of_active hact (heq j) (hmoved hm))⟩

theorem adaptDone_of_adapt (eqs : List EqTaps) (hst : s.lnState p = 2) : adaptDone p eqs s = setLnState p 3 (holdTaps p 15 eqs s) := if_pos hst

theorem adaptDone_of_wide (eqs : List EqTaps) (hst : s.lnState p ≠ 2) (hw : (s.lane p).wide = 1) (hn : s.newLanes p ≠ 0) :
    adaptDone p eqs s = holdTaps p (s.newLanes p) eqs (s.setLane p { s.lane p with wide := 2 }) :=
  (if_neg hst).trans (if_pos (by rw [hw, bne_iff_ne.mpr hn]; rfl))

theorem adaptDone_of_none (eqs : List EqTaps) (hst : s.lnState p ≠ 2) (h : (s.lane p).wide ≠ 1 ∨ s.newLanes p = 0) : adaptDone p eqs s = s := by
  refine (if_neg hst).trans (if_neg ?_)
  rcases h with h | h
  · rw [decide_eq_false h]
    exact Bool.false_ne_true
  · rw [h, Bool.and_comm]
    exact Bool.false_ne_true

theorem adaptDone_regs (eqs : List EqTaps) (hst : s.lnState p = 2) : RegsAt (LnPage p) s (adaptDone p eqs s) := by
  rw [adaptDone_of_adapt eqs hst]
  exact ((holdTaps_regs p 15 eqs s).mono fun _ ha => ha.lnPage (by decide)).setFld 3 (lnPage_lnStat p)

theorem adaptDone_state (eqs : List EqTaps) (hst : s.lnState p = 2) : (adaptDone p eqs s).lnState p = 3 := by
  rw [adaptDone_of_adapt eqs hst]
  exact Chip.fld_setFld_same _ (F.LN_STAT_STATE p.ix) 3 (by cases p <;> decide) rfl

theorem adaptDone_adapted {eqs : List EqTaps} (e0 : EqTaps) (hlen : eqs.length = 4) (hst : s.lnState p = 2) :
    Adapted p s (adaptDone p eqs s) 15 eqs e0 := by
  rw [adaptDone_of_adapt eqs hst]
  exact (holdTaps_adapted 15 e0 hlen).of_same rfl rfl (fun _ => rfl) fun j => fld_eqF_setFld_lnStat p _ 28 4 3 j

/-- The row of LANE_ADAPT_DONE for a widening partner. -/
theorem adaptDone_widens {eqs : List EqTaps} (e0 : EqTaps) (hlen : eqs.length = 4) (hst : s.lnState p ≠ 2) (hw : (s.lane p).wide = 1)
    (hn : s.newLanes p ≠ 0) : Keeps [4 + p.ix] s (adaptDone p eqs s) ∧
      LanesFound p (s.lnState p) (s.fld (F.LN_STAT_LANE_LOCK p.ix)) (adaptDone p eqs s) ∧ ((adaptDone p eqs s).lane p).wide = 2 ∧
      Adapted p s (adaptDone p eqs s) (s.newLanes p) eqs e0 := by
  rw [adaptDone_of_wide eqs hst hw hn]
  have hregs := holdTaps_regs p (s.newLanes p) eqs (s.setLane p { s.lane p with wide := 2 })
  have hfld : ∀ f, (s.setLane p { s.lane p with wide := 2 }).fld f = s.fld f := fun f => Chip.setLane_fld ..
  refine ⟨(setLane_keeps _ s p _).trans (hregs.mono fun _ ha => ha.lnPage (by decide)).lnKeeps,
    LanesFound.of_laneRegs ⟨hfld _, hfld _⟩ hregs, ?_, ?_⟩
  · rw [hregs.lane, Chip.lane_setLane_same]
  · exact (holdTaps_adapted _ e0 hlen).of_same (setLane_keeps [] s p _).active (hfld _) (fun _ => hfld _) fun _ => rfl

end

end Sys2Proof.Machine
end

section
/-! PROOFS. The end of training (R281, R282, R288, R321). -/

namespace Sys2Proof.Machine

/-! ### Steps over the registers and the states of the ports -/

/-- `t` differs from `s` at most in the lane and ring states of the ports, and in registers that are not RWS, of the addresses `A`. -/
structure LinesAt (A : Nat → Prop) (s t : Chip) : Prop where
  rest : { t with laneE := s.laneE, laneW := s.laneW, ringE := s.ringE, ringW := s.ringW } =
    { s with regs := { s.regs with direct := t.regs.direct } }
  direct : ∀ a, ¬ A a → t.regs.direct.get a = s.regs.direct.get a

section
variable {A : Nat → Prop} {s t u : Chip}

theorem LinesAt.trans (h : LinesAt A s t) (k : LinesAt A t u) : LinesAt A s u where
  rest := (congrArg (fun x : Chip => { x with laneE := s.laneE, laneW := s.laneW, ringE := s.ringE, ringW := s.ringW }) k.rest).trans
    (congrArg (fun x : Chip => { x with regs := { x.regs with direct := u.regs.direct } }) h.rest)
  direct a ha := (k.direct a ha).trans (h.direct a ha)

theorem RegsAt.lines (h : RegsAt A s t) : LinesAt A s t where
  rest := by
    have hrest := congrArg (fun x : Chip => { x with laneE := s.laneE, laneW := s.laneW, ringE := s.ringE, ringW := s.ringW }) h.rest
    exact hrest
  direct := h.direct

theorem LinesAt.setFld (h : LinesAt A s t) {f : Fld} (v : Nat) (hf : A f.addr) : LinesAt A s (t.setFld f v) :=
  h.trans ((RegsAt.refl A t).setFld v hf).lines

theorem LinesAt.setLane (h : LinesAt A s t) (p : Port) (x : LaneSt) : LinesAt A s (t.setLane p x) :=
  h.trans (by cases p <;> exact ⟨rfl, fun _ _ => rfl⟩)

theorem LinesAt.setPort (h : LinesAt A s t) (p : Port) (x : PortSt) : LinesAt A s (t.setPort p x) :=
  h.trans (by cases p <;> exact ⟨rfl, fun _ _ => rfl⟩)

theorem LinesAt.keeps {l : List Nat} (h : LinesAt A s t) (hA : ∀ a, A a → pages l a = true ∧ statAddr a = false) : Keeps l s t := by
  have hregs : RegsAt A s { t with laneE := s.laneE, laneW := s.laneW, ringE := s.ringE, ringW := s.ringW } := ⟨⟨h.rest⟩, h.direct⟩
  exact (hregs.keeps hA).trans (Keeps.same rfl rfl rfl rfl)

end

theorem Chip.setPort_fld (s : Chip) (p : Port) (x : PortSt) (f : Fld) : (s.setPort p x).fld f = s.fld f := by cases p <;> rfl

theorem Chip.lane_setPort (s : Chip) (p : Port) (x : PortSt) (q : Port) : (s.setPort p x).lane q = s.lane q := by cases p <;> cases q <;> rfl

/-! ### What the trained lanes reached -/

/-- The registers of LANE_ALIGN_DONE: the page of the port, and RNx_FWD. -/
def AlignAddr (p : Port) (a : Nat) : Prop := LnPage p a ∨ a = (F.RN_FWD_FTU p.ix).addr

theorem AlignAddr.pages {p : Port} {a : Nat} (h : AlignAddr p a) : pages [4 + p.ix] a = true ∧ statAddr a = false := by
  rcases h with h | rfl
  · exact h.pages
  · cases p <;> decide

/-- The latencies of a port that is trained. -/
def latencies (p : Port) (tx rx : Nat) (s : Chip) : Chip :=
  let s2 := (s.setFld (F.LN_LAT_TX p.ix) tx).setFld (F.LN_LAT_RX p.ix) rx
  s2.setFld (F.RN_FWD_FTU p.ix) (s2.forwardLatency p)

/-- The registers of a port that is trained. -/
def alignedRegs (p : Port) (leads : List Nat) (tx rx : Nat) (s : Chip) : Chip :=
  setLnState p 4 (latencies p tx rx (deskew p 15 leads (keepLanes p (s.rxMask p) s)))

/-- A port that is trained, before it faces a neighbour. -/
def aligned (p : Port) (leads : List Nat) (tx rx : Nat) (s : Chip) : Chip :=
  let s3 := alignedRegs p leads tx rx s
  let s4 := s3.setLane p { s3.lane p with
    rxok := s3.fld (F.LN_STAT_LANE_LOCK p.ix), lanes := (s3.lane p).lanes.map fun (x : LaneOne) => { LaneOne.rest with frozen := x.frozen } }
  s4.setPort p { s4.port p with usableAll := false }

section
variable (p : Port) (leads : List Nat) (tx rx : Nat) (s : Chip)

theorem keepLanes_lines (mask : Nat) : LinesAt (AlignAddr p) s (keepLanes p mask s) :=
  (((RegsAt.refl _ s).setFld _ (.inl (lnPage_lnStat p))).lines).setLane p _

theorem keepLanes_fld (mask : Nat) (g : Fld) : (keepLanes p mask s).fld g =
    (s.setFld (F.LN_STAT_LANE_LOCK p.ix) (s.fld (F.LN_STAT_LANE_LOCK p.ix) &&& mask)).fld g := Chip.setLane_fld ..

theorem keepLanes_lock (mask : Nat) : (keepLanes p mask s).fld (F.LN_STAT_LANE_LOCK p.ix) = s.fld (F.LN_STAT_LANE_LOCK p.ix) &&& mask := by
  rw [keepLanes_fld, Chip.fld_setFld_same _ _ _ (by cases p <;> decide) rfl]
  exact Nat.mod_eq_of_lt (lt_of_le_of_lt Nat.and_le_left (fld_lt s (F.LN_STAT_LANE_LOCK p.ix) (by cases p <;> decide)))

theorem keepLanes_fld_apart (mask : Nat) {g : Fld} (hw : 1 ≤ g.w) (hg : (F.LN_STAT_LANE_LOCK p.ix).apart g) : (keepLanes p mask s).fld g = s.fld g :=
  (keepLanes_fld p s mask g).trans (Chip.fld_setFld_apart _ _ _ _ hg hw)

theorem keepLanes_lane (mask : Nat) : (keepLanes p mask s).lane p = { s.lane p with rxok := (s.lane p).rxok &&& mask } :=
  (Chip.lane_setLane_same ..).trans (by rw [Chip.lane_setFld])

theorem keepLanes_retains (mask : Nat) : Retains [F.LN_STAT_LANE_LOCK p.ix] s (keepLanes p mask s) :=
  ((Retains.refl _ s).setFld _ (by simp) (by cases p <;> decide)).setLane p _

theorem keepLanes_keeps (mask : Nat) : Keeps [4 + p.ix] s (keepLanes p mask s) := (keepLanes_lines p s mask).keeps fun _ => AlignAddr.pages

theorem alignedRegs_lines : LinesAt (AlignAddr p) s (alignedRegs p leads tx rx s) := by
  have hlat : AlignAddr p (F.LN_LAT_TX p.ix).addr := .inl (lnPage_of_offset p (off := 0x10))
  have hregs : LinesAt (AlignAddr p) s (deskew p 15 leads (keepLanes p (s.rxMask p) s)) :=
    (keepLanes_lines p s _).trans ((deskew_regs p 15 leads _).mono fun _ ha => .inl (ha.lnPage (by decide))).lines
  have hlats : LinesAt (AlignAddr p) s (latencies p tx rx (deskew p 15 leads (keepLanes p (s.rxMask p) s))) :=
    ((hregs.setFld (f := F.LN_LAT_TX p.ix) tx hlat).setFld (f := F.LN_LAT_RX p.ix) rx hlat).setFld (f := F.RN_FWD_FTU p.ix) _ (.inr rfl)
  exact hlats.setFld (f := F.LN_STAT_STATE p.ix) 4 (.inl (lnPage_lnStat p))

theorem aligned_lines : LinesAt (AlignAddr p) s (aligned p leads tx rx s) := ((alignedRegs_lines p leads tx rx s).setLane p _).setPort p _

theorem aligned_fld (g : Fld) : (aligned p leads tx rx s).fld g = (alignedRegs p leads tx rx s).fld g :=
  (Chip.setPort_fld ..).trans (Chip.setLane_fld ..)

theorem aligned_state : (aligned p leads tx rx s).lnState p = 4 :=
  (aligned_fld ..).trans (Chip.fld_setFld_same _ (F.LN_STAT_STATE p.ix) 4 (by cases p <;> decide) rfl)

/-- STATE and the latencies are set last. -/
theorem aligned_fld_deskew {g : Fld} (hw : 1 ≤ g.w) (hstate : (F.LN_STAT_STATE p.ix).apart g) (hlat : g.addr ≠ (F.LN_LAT_TX p.ix).addr)
    (hfwd : g.addr ≠ (F.RN_FWD_FTU p.ix).addr) :
    (aligned p leads tx rx s).fld g = (deskew p 15 leads (keepLanes p (s.rxMask p) s)).fld g := by
  rw [aligned_fld]
  unfold alignedRegs setLnState latencies
  rw [Chip.fld_setFld_apart _ _ _ _ hstate hw, Chip.fld_setFld_ne _ _ hfwd, Chip.fld_setFld_ne _ (f := F.LN_LAT_RX p.ix) _ hlat,
    Chip.fld_setFld_ne _ _ hlat]

theorem deskewed_fld {g : Fld} (hg : g.addr < 0x4020 + 0x1000 * p.ix ∨ 0x40A0 + 0x1000 * p.ix ≤ g.addr) :
    (deskew p 15 leads s).fld g = s.fld g := (deskew_regs p 15 leads s).fld (not_laneAddr (by decide) hg)

theorem aligned_lock : (aligned p leads tx rx s).fld (F.LN_STAT_LANE_LOCK p.ix) = s.fld (F.LN_STAT_LANE_LOCK p.ix) &&& s.rxMask p := by
  rw [aligned_fld_deskew p leads tx rx s (by cases p <;> decide) (by cases p <;> decide) (by cases p <;> decide) (by cases p <;> decide),
    deskewed_fld p leads _ (by cases p <;> decide), keepLanes_lock]

/-- A field of the port that training leaves alone. -/
theorem aligned_fld_same {g : Fld} (hw : 1 ≤ g.w) (hstate : (F.LN_STAT_STATE p.ix).apart g) (hlat : g.addr ≠ (F.LN_LAT_TX p.ix).addr)
    (hfwd : g.addr ≠ (F.RN_FWD_FTU p.ix).addr) (hlane : g.addr < 0x4020 + 0x1000 * p.ix ∨ 0x40A0 + 0x1000 * p.ix ≤ g.addr)
    (hlock : (F.LN_STAT_LANE_LOCK p.ix).apart g) : (aligned p leads tx rx s).fld g = s.fld g := by
  rw [aligned_fld_deskew p leads tx rx s hw hstate hlat hfwd, deskewed_fld p leads _ hlane, keepLanes_fld_apart p s _ hw hlock]

theorem aligned_skew {j : Nat} (hj : j < 4) (hlen : j < leads.length) (hlead : nth 0 leads j < 2 ^ 11) :
    (aligned p leads tx rx s).fld (skewF p j) = nth 0 leads j := by
  have haddr : (skewF p j).addr = 0x402C + 0x1000 * p.ix + 32 * j := by
    show 0x4020 + 0x1000 * p.ix + 32 * j + 0x0C = _
    omega
  have hix : p.ix < 2 := by cases p <;> decide
  rw [aligned_fld_deskew p leads tx rx s (show 1 ≤ 11 by decide) (.inl ?_) ?_ ?_, deskew_fld p 15 leads _ hj,
    if_pos (by rw [decide_eq_true hlen]; interval_cases j <;> rfl), Nat.mod_eq_of_lt hlead]
  · rw [haddr]
    show 0x4004 + 4096 * p.ix ≠ _
    omega
  · rw [haddr]
    show _ ≠ 0x4010 + 4096 * p.ix
    omega
  · rw [haddr]
    show _ ≠ 0x6114 + 128 * p.ix
    omega

theorem aligned_latTx (htx : tx < 2 ^ 16) : (aligned p leads tx rx s).fld (F.LN_LAT_TX p.ix) = tx := by
  rw [aligned_fld]
  unfold alignedRegs setLnState latencies
  rw [Chip.fld_setFld_ne _ _ (by cases p <;> decide), Chip.fld_setFld_ne _ _ (by cases p <;> decide),
    Chip.fld_setFld_apart _ _ _ _ (by cases p <;> decide) (by cases p <;> decide), Chip.fld_setFld_same _ _ _ (by cases p <;> decide) rfl]
  exact Nat.mod_eq_of_lt htx

theorem aligned_latRx (hrx : rx < 2 ^ 16) : (aligned p leads tx rx s).fld (F.LN_LAT_RX p.ix) = rx := by
  rw [aligned_fld]
  unfold alignedRegs setLnState latencies
  rw [Chip.fld_setFld_ne _ _ (by cases p <;> decide), Chip.fld_setFld_ne _ _ (by cases p <;> decide),
    Chip.fld_setFld_same _ _ _ (by cases p <;> decide) rfl]
  exact Nat.mod_eq_of_lt hrx

theorem aligned_forward (htx : tx < 2 ^ 16) : (aligned p leads tx rx s).fld (F.RN_FWD_FTU p.ix) =
    (4096 + (if s.flag (F.LN_STAT_FALLBACK p.ix) then 1048 else 419) + tx) % 2 ^ 16 := by
  rw [aligned_fld]
  unfold alignedRegs setLnState latencies
  rw [Chip.fld_setFld_ne _ _ (by cases p <;> decide), Chip.fld_setFld_same _ _ _ (by cases p <;> decide) rfl]
  unfold Chip.forwardLatency
  rw [Chip.fld_setFld_apart _ _ _ _ (by cases p <;> decide) (by cases p <;> decide), Chip.fld_setFld_same _ _ _ (by cases p <;> decide) rfl,
    show tx % 2 ^ (F.LN_LAT_TX p.ix).w = tx from Nat.mod_eq_of_lt htx]
  have hrate : (((deskew p 15 leads (keepLanes p (s.rxMask p) s)).setFld (F.LN_LAT_TX p.ix) tx).setFld (F.LN_LAT_RX p.ix) rx).flag
      (F.LN_STAT_FALLBACK p.ix) = s.flag (F.LN_STAT_FALLBACK p.ix) := by
    refine Chip.flag_congr ?_
    rw [Chip.fld_setFld_ne _ _ (by cases p <;> decide), Chip.fld_setFld_ne _ _ (by cases p <;> decide),
      deskewed_fld p leads _ (by cases p <;> decide), keepLanes_fld_apart p s _ (by cases p <;> decide) (by cases p <;> decide)]
  rw [hrate]
  rfl

theorem aligned_rxok : ((aligned p leads tx rx s).lane p).rxok = s.fld (F.LN_STAT_LANE_LOCK p.ix) &&& s.rxMask p := by
  have hlane : ((aligned p leads tx rx s).lane p).rxok = (alignedRegs p leads tx rx s).fld (F.LN_STAT_LANE_LOCK p.ix) := by
    unfold aligned
    rw [Chip.lane_setPort, Chip.lane_setLane_same]
  rw [hlane, ← aligned_fld, aligned_lock]

theorem linkUp_keeps : Keeps [4 + p.ix] s (linkUp p s) :=
  ((setExch_keeps _ s p _).trans (Keeps.setFld _ _ (F.LN_TRAIN_CNT_COUNT p.ix) _ (by cases p <;> decide) (by cases p <;> decide))).trans
    (raise_keeps _ _ (by cases p <;> decide) _)

theorem linkUp_retains : Retains [F.LN_TRAIN_CNT_COUNT p.ix] s (linkUp p s) :=
  (((Retains.refl _ s).setExch p _).setFld _ (by simp) (by cases p <;> decide)).raise (by cases p <;> decide)

theorem linkUp_seen : (linkUp p s).eventSeen (EV.LN_LINK_UP p) = true := raise_seen _ (by cases p <;> decide) _

theorem linkUp_count : (linkUp p s).fld (F.LN_TRAIN_CNT_COUNT p.ix) = satTo 32 (s.fld (F.LN_TRAIN_CNT_COUNT p.ix) + 1) := by
  refine (raise_fld _ (by cases p <;> decide) _ _ (by cases p <;> decide)).trans ?_
  rw [Chip.fld_bump_word, Chip.setExch_fld]

theorem linkUp_lane (q : Port) : (linkUp p s).lane q = s.lane q :=
  (raise_lane (by cases p <;> decide) q).trans ((Chip.lane_setFld ..).trans (Chip.lane_setExch ..))

end

/-! ### LANE_ALIGN_DONE -/

section
variable {p : Port} {leads : List Nat} {tx rx : Nat} {s : Chip}

theorem any_leadTooLong_iff {l : List Nat} : (l.any (s.leadTooLong p)) = true ↔
    ∃ x, x ∈ l ∧ (if s.flag (F.LN_STAT_FALLBACK p.ix) then 660 else 1650) < x := by
  simp [List.any_eq_true, Chip.leadTooLong]

theorem alignDone_of_late (hst : s.lnState p = 3) (h : leads.any (s.leadTooLong p) = true) : alignDone p leads tx rx s =
    raise (EV.LN_DESKEW_FAIL p) (setLnState p 1 (s.bump (F.LN_DESKEW_ERR_COUNT p.ix))) :=
  (if_neg (by rw [hst]; decide)).trans (if_pos h)

theorem alignDone_of_fine (hst : s.lnState p = 3) (h : leads.any (s.leadTooLong p) = false) : alignDone p leads tx rx s =
    if (aligned p leads tx rx s).flag (F.LN_STAT_LOCAL p.ix) then aligned p leads tx rx s else linkUp p (aligned p leads tx rx s) :=
  (if_neg (by rw [hst]; decide)).trans ((if_neg (by rw [h]; decide)).trans rfl)

theorem alignDone_of_wide (hst : s.lnState p ≠ 3) (hn : s.newLanes p ≠ 0) (hw : (s.lane p).wide = 2) :
    alignDone p leads tx rx s = wideDone p leads s :=
  (if_pos (bne_iff_ne.mpr hst)).trans (if_pos (by rw [hw, bne_iff_ne.mpr hn]; rfl))

theorem alignDone_of_none (hst : s.lnState p ≠ 3) (h : s.newLanes p = 0 ∨ (s.lane p).wide ≠ 2) : alignDone p leads tx rx s = s := by
  refine (if_pos (bne_iff_ne.mpr hst)).trans (if_neg ?_)
  rcases h with h | h
  · rw [h]
    exact Bool.false_ne_true
  · rw [decide_eq_false h, Bool.and_comm]
    exact Bool.false_ne_true

/-- A port that is not LOCAL faces a neighbour as it is trained. -/
theorem aligned_local : (aligned p leads tx rx s).flag (F.LN_STAT_LOCAL p.ix) = s.flag (F.LN_STAT_LOCAL p.ix) := by
  refine Chip.flag_congr (aligned_fld_same p leads tx rx s ?_ ?_ ?_ ?_ ?_ ?_) <;> cases p <;> decide

theorem aligned_count : (aligned p leads tx rx s).fld (F.LN_TRAIN_CNT_COUNT p.ix) = s.fld (F.LN_TRAIN_CNT_COUNT p.ix) := by
  refine aligned_fld_same p leads tx rx s ?_ ?_ ?_ ?_ ?_ ?_ <;> cases p <;> decide

end

end Sys2Proof.Machine
end

section
/-! PROOFS. The losses of a port, its fall-back, and the rows of O53 (R282 to R284, R288, R422). -/

namespace Sys2Proof.Machine

/-! ### Something announced and counted -/

/-- An event with the count of its unit. -/
def counted (e : Nat) (f : Fld) (s : Chip) : Chip := raise e (s.bump f)

section
variable {e : Nat} {f : Fld} (s : Chip)

theorem counted_retains (he : e < 384) (hs : statAddr f.addr = false) : Retains [f] s (counted e f s) :=
  ((Retains.refl _ s).setFld _ (by simp) hs).raise he

theorem counted_keeps {l : List Nat} (he : e < 384) (h : pages l f.addr = true) (hs : statAddr f.addr = false) : Keeps l s (counted e f s) :=
  (Keeps.setFld _ _ _ _ h hs).trans (raise_keeps _ _ he _)

theorem counted_lane (he : e < 384) (q : Port) : (counted e f s).lane q = s.lane q := (raise_lane he q).trans (Chip.lane_setFld ..)

end

/-! ### The port returns to ACQUIRE (R283) -/

section
variable {p : Port} {s : Chip}

theorem reacquire_of_trained (h : s.lnState p = 4) : reacquire p s = startTraining p s := if_pos h

theorem reacquire_of_training (h : s.lnState p = 2 ∨ s.lnState p = 3) : reacquire p s = setLnState p 1 s := by
  refine (if_neg (by omega)).trans (if_pos ?_)
  rcases h with h | h <;> (rw [h]; rfl)

theorem reacquire_of_idle (h2 : s.lnState p ≠ 2) (h3 : s.lnState p ≠ 3) (h4 : s.lnState p ≠ 4) : reacquire p s = s :=
  (if_neg h4).trans (if_neg (by rw [decide_eq_false h2, decide_eq_false h3]; decide))

theorem setLnState_keeps (v : Nat) (s : Chip) : Keeps [4 + p.ix] s (setLnState p v s) :=
  Keeps.setFld _ _ _ _ (by cases p <;> decide) (by cases p <;> decide)

theorem setLnState_retains (v : Nat) (s : Chip) : Retains [F.LN_STAT_STATE p.ix] s (setLnState p v s) :=
  (Retains.refl _ s).setFld _ (by simp) (by cases p <;> decide)

theorem setLnState_state {v : Nat} (s : Chip) (hv : v < 16) : (setLnState p v s).lnState p = v :=
  (Chip.fld_setFld_same _ (F.LN_STAT_STATE p.ix) _ (by cases p <;> decide) rfl).trans (Nat.mod_eq_of_lt hv)

theorem reacquire_keeps (s : Chip) : Keeps [4 + p.ix] s (reacquire p s) := by
  by_cases h4 : s.lnState p = 4
  · rw [reacquire_of_trained h4]
    exact startTraining_keeps p s
  · by_cases h : s.lnState p = 2 ∨ s.lnState p = 3
    · rw [reacquire_of_training h]
      exact setLnState_keeps 1 s
    · rw [reacquire_of_idle (fun k => h (.inl k)) (fun k => h (.inr k)) h4]
      exact .refl _ s

theorem reacquire_retains (s : Chip) : Retains (trainFlds p) s (reacquire p s) := by
  by_cases h4 : s.lnState p = 4
  · rw [reacquire_of_trained h4]
    exact startTraining_retains p s
  · by_cases h : s.lnState p = 2 ∨ s.lnState p = 3
    · rw [reacquire_of_training h]
      exact (setLnState_retains 1 s).mono (by simp [trainFlds, leaveFlds])
    · rw [reacquire_of_idle (fun k => h (.inl k)) (fun k => h (.inr k)) h4]
      exact .refl _ s

theorem trained_iff : s.trained p = true ↔ s.lnState p = 4 := beq_iff_eq

/-- A port that is TRAINED starts to train again when its unit counts and announces a failure. -/
theorem reacquire_counted {e : Nat} {f : Fld} (h : s.lnState p = 4) (he : e < 384) (hs : statAddr f.addr = false)
    (hf : ∀ g ∈ trainInputs p, f.apart g) : Trained p s (reacquire p (counted e f s)) := by
  have hret := counted_retains s he hs
  have hstate : (counted e f s).lnState p = 4 := by
    refine (hret.fld _ (by cases p <;> decide) (by cases p <;> decide) fun g hg => ?_).trans h
    rw [List.mem_singleton.mp hg]
    exact hf _ (by simp [trainInputs])
  rw [reacquire_of_trained hstate]
  exact .of_retains hret (by rw [counted_lane s he]) (fun g hg k hk => List.mem_singleton.mp hk ▸ hf g hg) (startTraining_trained p _)

/-- The count and the event of a failure stand after the port has returned to ACQUIRE. -/
theorem reacquire_counted_seen {e : Nat} {f : Fld} (s : Chip) (he : e < 384) : (reacquire p (counted e f s)).eventSeen e = true :=
  (reacquire_retains _).seen _ he (raise_seen e he _)

theorem reacquire_counted_count {e : Nat} {f : Fld} (s : Chip) (he : e < 384) (hf : f.fits) (hr : f.rws = false) (hs : shipAddr f.addr = false)
    (ha : announceAddr f.addr = false) (hap : ∀ g ∈ trainFlds p, g.apart f) : (reacquire p (counted e f s)).fld f = satTo f.w (s.fld f + 1) :=
  ((reacquire_retains _).fld f hf.1 hs hap).trans ((raise_fld e he _ _ ha).trans (s.fld_bump_same f hf hr))

end

/-! ### The lanes of a widening partner (R282, R288) -/

section
variable {p : Port} {leads : List Nat} {s : Chip}

/-- The lanes of a widening partner that are locked. -/
def Chip.foundLanes (s : Chip) (p : Port) : Nat := s.newLanes p &&& s.fld (F.LN_STAT_LANE_LOCK p.ix)

theorem any_lanesOf_iff {mask : Nat} : ((lanesOf mask).any fun k => s.leadTooLong p (nth 0 leads k)) = true ↔
    ∃ j, j < 4 ∧ mask.testBit j = true ∧ (if s.flag (F.LN_STAT_FALLBACK p.ix) then 660 else 1650) < nth 0 leads j := by
  rw [List.any_eq_true]
  simp only [mem_lanesOf, Chip.leadTooLong, decide_eq_true_eq, and_assoc]

theorem wideDone_of_late (h : ((lanesOf (s.foundLanes p)).any fun k => s.leadTooLong p (nth 0 leads k)) = true) :
    wideDone p leads s = reacquire p (counted (EV.LN_DESKEW_FAIL p) (F.LN_DESKEW_ERR_COUNT p.ix) s) := if_pos h

/-- The lanes of a widening partner are deskewed, and count as received. -/
def widenedDone (p : Port) (leads : List Nat) (s : Chip) : Chip :=
  let s1 := deskew p (s.foundLanes p) leads s
  s1.setLane p { s1.lane p with rxok := (s1.lane p).rxok ||| s.foundLanes p, wide := 0 }

theorem wideDone_of_fine (h : ¬ ((lanesOf (s.foundLanes p)).any fun k => s.leadTooLong p (nth 0 leads k)) = true) :
    wideDone p leads s = widenedDone p leads s := if_neg h

theorem widenedDone_keeps : Keeps [4 + p.ix] s (widenedDone p leads s) :=
  (((deskew_regs p _ leads s).mono fun _ ha => ha.lnPage (by decide)).lnKeeps).trans (setLane_keeps _ _ p _)

theorem widenedDone_fld (f : Fld) : (widenedDone p leads s).fld f = (deskew p (s.foundLanes p) leads s).fld f := Chip.setLane_fld ..

theorem widenedDone_state : (widenedDone p leads s).lnState p = s.lnState p :=
  (widenedDone_fld _).trans (fld_lnStat_of_laneRegs p (deskew_regs p _ leads s))

theorem widenedDone_lane : (widenedDone p leads s).lane p = { s.lane p with rxok := (s.lane p).rxok ||| s.foundLanes p, wide := 0 } := by
  have hdeskew : (deskew p (s.foundLanes p) leads s).lane p = s.lane p := (deskew_regs p _ leads s).lane p
  refine (Chip.lane_setLane_same ..).trans ?_
  rw [hdeskew]

theorem widenedDone_skew (h : ¬ ((lanesOf (s.foundLanes p)).any fun k => s.leadTooLong p (nth 0 leads k)) = true) {j : Nat} (hj : j < 4) :
    (widenedDone p leads s).fld (skewF p j) =
      if (s.foundLanes p).testBit j && decide (j < leads.length) then nth 0 leads j else s.fld (skewF p j) := by
  rw [widenedDone_fld, deskew_fld p _ leads s hj]
  cases hbit : (s.foundLanes p).testBit j with
  | false => rfl
  | true =>
    have hlead : nth 0 leads j ≤ 1650 := by
      refine not_lt.mp fun hlt => h (any_lanesOf_iff.mpr ⟨j, hj, hbit, lt_of_le_of_lt ?_ hlt⟩)
      split <;> decide
    rw [Nat.mod_eq_of_lt (lt_of_le_of_lt hlead (by decide))]

end

/-! ### LANE_SIGNAL_LOSS (R283, R422) -/

/-- The overrun of a crossing touches its count and its bit. -/
def overrunFlds : List Fld := [F.GLB_CDC_OVR_COUNT, F.GLB_CDC_STAT_OVR]

section
variable (bit lost : Nat) (s : Chip)

theorem noteOverrun_of_lost (h : lost ≠ 0) : noteOverrun bit lost s =
    raise EV.CDC_OVERRUN ((s.bumpBy F.GLB_CDC_OVR_COUNT lost).latchBit F.GLB_CDC_STAT_OVR bit) := if_neg h

theorem noteOverrun_keeps : Keeps [0] s (noteOverrun bit lost s) := by
  unfold noteOverrun
  split
  · exact .refl _ s
  · exact ((Keeps.setFld _ _ _ _ (by decide) (by decide)).trans (latchBit_keeps bit _ (by decide) (by decide))).trans (raise_keeps _ _ (by decide) _)

theorem noteOverrun_fld {g : Fld} (hw : 1 ≤ g.w) (ha : announceAddr g.addr = false) (hg : ∀ f ∈ overrunFlds, f.apart g) :
    (noteOverrun bit lost s).fld g = s.fld g := by
  unfold noteOverrun
  split
  · rfl
  · rw [raise_fld _ (by decide) _ _ ha]
    exact (Chip.fld_setFld_apart _ F.GLB_CDC_STAT_OVR _ _ (hg _ (by simp [overrunFlds])) hw).trans
      (Chip.fld_bumpBy_apart _ _ _ _ (hg _ (by simp [overrunFlds])) hw)

theorem noteOverrun_announced (h : lost ≠ 0) : (noteOverrun bit lost s).eventSeen EV.CDC_OVERRUN = true := by
  rw [noteOverrun_of_lost bit lost s h]
  exact raise_seen _ (by decide) _

theorem noteOverrun_count : (noteOverrun bit lost s).fld F.GLB_CDC_OVR_COUNT = satTo 32 (s.fld F.GLB_CDC_OVR_COUNT + lost) := by
  unfold noteOverrun
  split
  next h =>
    rw [h]
    exact (Nat.min_eq_left (Nat.le_sub_one_of_lt (fld_lt s F.GLB_CDC_OVR_COUNT (by decide)))).symm
  next h =>
    rw [raise_fld _ (by decide) _ _ (by decide)]
    exact (Chip.fld_setFld_ne _ (f := F.GLB_CDC_STAT_OVR) _ (by decide)).trans (s.fld_bumpBy_same _ _ (by decide) rfl)

theorem noteOverrun_stat (hbit : bit < 11) (h : lost ≠ 0) : ((noteOverrun bit lost s).fld F.GLB_CDC_STAT_OVR).testBit bit = true := by
  rw [noteOverrun_of_lost bit lost s h]
  exact (Chip.testBit_congr bit (raise_fld _ (by decide) _ _ (by decide))).trans (latchBit_testBit _ (by decide) rfl hbit)

end

section
variable (p : Port) (s : Chip)

/-- A toggle of a port at this instant. -/
def Chip.toggleAt (s : Chip) (p : Port) (key : Nat) : Option Toggle :=
  (s.cdc.find? fun e => e.1 == key).bind fun e => e.2.advance (s.ackPhase p) s.clockFtu

/-- How many of `n` pulses are lost in a crossing that holds `room` back. -/
def Chip.pulsesLost (s : Chip) (p : Port) (key room n : Nat) : Nat := (Toggle.pulse (s.ackPhase p) s.clockFtu room n (s.toggleAt p key)).1

/-- Pulses change the crossings and, when some are lost, what an overrun touches. -/
theorem cross_eq (key bit room n : Nat) : ∃ cdc, cross p key bit room n s =
    (n - s.pulsesLost p key room n, noteOverrun bit (s.pulsesLost p key room n) { s with cdc }) := ⟨_, rfl⟩

/-- How many state pulses of a port are lost, of one. -/
def Chip.stateLost (s : Chip) (p : Port) : Nat := s.pulsesLost p (32 * p.ix + 16) 0 1

/-- A state pulse changes the crossings and, when it is lost, what an overrun touches. -/
theorem crossState_eq : ∃ cdc, crossState p s = noteOverrun 6 (s.stateLost p) { s with cdc } := ⟨_, rfl⟩

theorem crossState_keeps : Keeps [0] s (crossState p s) := by
  obtain ⟨cdc, h⟩ := crossState_eq p s
  rw [h]
  exact Keeps.trans (t := { s with cdc }) (Keeps.same rfl rfl rfl rfl) (noteOverrun_keeps 6 _ _)

theorem crossState_fld {g : Fld} (hw : 1 ≤ g.w) (ha : announceAddr g.addr = false) (hg : ∀ f ∈ overrunFlds, f.apart g) :
    (crossState p s).fld g = s.fld g := by
  obtain ⟨cdc, h⟩ := crossState_eq p s
  rw [h]
  exact (noteOverrun_fld 6 _ _ hw ha hg).trans rfl

theorem noteOverrun_lane (bit lost : Nat) (q : Port) : (noteOverrun bit lost s).lane q = s.lane q := by
  unfold noteOverrun
  split
  · rfl
  · refine (raise_lane (by decide) q).trans ((Chip.lane_setFld _ F.GLB_CDC_STAT_OVR _ q).trans ?_)
    cases q <;> rfl

theorem crossState_lane (q : Port) : (crossState p s).lane q = s.lane q := by
  obtain ⟨cdc, h⟩ := crossState_eq p s
  rw [h, noteOverrun_lane]
  cases q <;> rfl

theorem crossState_count : (crossState p s).fld F.GLB_CDC_OVR_COUNT = satTo 32 (s.fld F.GLB_CDC_OVR_COUNT + s.stateLost p) := by
  obtain ⟨cdc, h⟩ := crossState_eq p s
  rw [h]
  exact noteOverrun_count 6 _ _

theorem crossState_stat (hlost : s.stateLost p ≠ 0) : ((crossState p s).fld F.GLB_CDC_STAT_OVR).testBit 6 = true ∧
    (crossState p s).eventSeen EV.CDC_OVERRUN = true := by
  obtain ⟨cdc, h⟩ := crossState_eq p s
  rw [h]
  exact ⟨noteOverrun_stat 6 _ _ (by decide) hlost, noteOverrun_announced 6 _ _ hlost⟩

variable {p s}

theorem toggleAt_of_over {key : Nat} (h : ∀ x, (s.cdc.find? fun e => e.1 == key) = some x → x.2.pending = 0 ∧ x.2.ends ≤ s.clockFtu) :
    s.toggleAt p key = none := by
  unfold Chip.toggleAt
  cases hx : s.cdc.find? fun e => e.1 == key with
  | none => rfl
  | some x =>
    obtain ⟨hpend, hends⟩ := h x hx
    exact (if_neg (not_lt.mpr hends)).trans (if_pos (by rw [hpend]; rfl))

theorem toggleAt_of_busy {key : Nat} {x : Nat × Toggle} (hx : (s.cdc.find? fun e => e.1 == key) = some x) (hends : s.clockFtu < x.2.ends) :
    s.toggleAt p key = some x.2 := by
  unfold Chip.toggleAt
  rw [hx]
  exact if_pos hends

/-- A toggle that is free takes the pulse. -/
theorem stateLost_of_free (h : ∀ x, (s.cdc.find? fun e => e.1 == 32 * p.ix + 16) = some x → x.2.pending = 0 ∧ x.2.ends ≤ s.clockFtu) :
    s.stateLost p = 0 := by
  unfold Chip.stateLost Chip.pulsesLost
  rw [toggleAt_of_over h]
  rfl

/-- A toggle that is busy loses it. -/
theorem stateLost_of_busy {x : Nat × Toggle} (hx : (s.cdc.find? fun e => e.1 == 32 * p.ix + 16) = some x) (hpend : x.2.pending = 0)
    (hends : s.clockFtu < x.2.ends) : s.stateLost p = 1 := by
  unfold Chip.stateLost Chip.pulsesLost
  rw [toggleAt_of_busy hx hends]
  show x.2.pending + 1 - 0 = 1
  rw [hpend]

/-! The lane's lock goes, over its crossing. -/

/-- The chip after the crossing of a lane's loss, if the lane was locked, and its lock. -/
def unlockLane (p : Port) (k : Nat) (s : Chip) : Chip :=
  keepLanes p (15 - 2 ^ k) (cond ((s.fld (F.LN_STAT_LANE_LOCK p.ix)).testBit k) (crossState p) s)

theorem signalLoss_of_rx {k : Nat} (h : s.rxLane p k = true) : signalLoss p k s = reacquire p (unlockLane p k s) := if_pos h

theorem signalLoss_of_idle {k : Nat} (h : s.rxLane p k = false) : signalLoss p k s = unlockLane p k s := if_neg (by rw [h]; decide)

variable (p s) (k : Nat)

/-- What the loss of a lane's lock turns on. -/
theorem unlockLane_cases : unlockLane p k s = keepLanes p (15 - 2 ^ k) s ∨ unlockLane p k s = keepLanes p (15 - 2 ^ k) (crossState p s) := by
  unfold unlockLane cond
  split
  · exact .inr rfl
  · exact .inl rfl

theorem unlockLane_of_locked (h : (s.fld (F.LN_STAT_LANE_LOCK p.ix)).testBit k = true) :
    unlockLane p k s = keepLanes p (15 - 2 ^ k) (crossState p s) := by
  unfold unlockLane cond
  rw [if_pos h]

theorem unlockLane_keeps : Keeps [0, 4 + p.ix] s (unlockLane p k s) := by
  rcases unlockLane_cases p s k with h | h <;> rw [h]
  · exact (keepLanes_keeps p s _).mono (pages_mono (by simp))
  · exact ((crossState_keeps p s).mono (pages_mono (by simp))).trans ((keepLanes_keeps p _ _).mono (pages_mono (by simp)))

theorem unlockLane_fld {g : Fld} (hw : 1 ≤ g.w) (ha : announceAddr g.addr = false) (hg : ∀ f ∈ overrunFlds, f.apart g)
    (hlock : (F.LN_STAT_LANE_LOCK p.ix).apart g) : (unlockLane p k s).fld g = s.fld g := by
  rcases unlockLane_cases p s k with h | h <;> rw [h, keepLanes_fld_apart p _ _ hw hlock]
  exact crossState_fld p s hw ha hg

theorem unlockLane_lane : (unlockLane p k s).lane p = { s.lane p with rxok := (s.lane p).rxok &&& (15 - 2 ^ k) } := by
  rcases unlockLane_cases p s k with h | h <;> rw [h, keepLanes_lane]
  rw [crossState_lane]

theorem unlockLane_lock : (unlockLane p k s).fld (F.LN_STAT_LANE_LOCK p.ix) = s.fld (F.LN_STAT_LANE_LOCK p.ix) &&& (15 - 2 ^ k) := by
  rcases unlockLane_cases p s k with h | h <;> rw [h, keepLanes_lock]
  rw [crossState_fld p s (by cases p <;> decide) (by cases p <;> decide) (by cases p <;> decide)]

theorem unlockLane_state : (unlockLane p k s).lnState p = s.lnState p := by
  refine unlockLane_fld p s k (g := F.LN_STAT_STATE p.ix) ?_ ?_ ?_ ?_ <;> cases p <;> decide

/-- A port in TRAINED starts to train again when the loss is of a lane of LMASK. -/
theorem reacquire_unlockLane (h : s.lnState p = 4) : Trained p s (reacquire p (unlockLane p k s)) := by
  rw [reacquire_of_trained ((unlockLane_state p s k).trans h)]
  refine .of_inputs (unlockLane_keeps p s k).rst (by rw [unlockLane_lane]) (fun g hg => ?_) (startTraining_trained p _)
  have hshape : ∀ g ∈ trainInputs p, 1 ≤ g.w ∧ announceAddr g.addr = false ∧ (∀ f ∈ overrunFlds, f.apart g) ∧ (F.LN_STAT_LANE_LOCK p.ix).apart g := by
    cases p <;> decide
  obtain ⟨hw, ha, hover, hlock⟩ := hshape g hg
  exact unlockLane_fld p s k hw ha hover hlock

theorem testBit_and_without {x k : Nat} (hk : k < 4) : (x &&& (15 - 2 ^ k)).testBit k = false := by
  rw [Nat.testBit_and]
  have hoff : (15 - 2 ^ k).testBit k = false := by interval_cases k <;> rfl
  rw [hoff, Bool.and_false]

end

end Sys2Proof.Machine
end

section
/-! PROOFS. The rows of the lanes' training (O53). -/

namespace Sys2Proof.Machine

section
variable {p : Port} {s u : Chip}

/-- What O53 says of a start of training. -/
theorem Trained.shown (h : Trained p s u) : u.fld (F.LN_STAT_LANE_LOCK p.ix) = 0 ∧ u.fld (F.LN_STAT_LMASK_RX p.ix) = 0 ∧
    u.fld (F.LN_STAT_RXOK_PART p.ix) = 0 ∧ (u.lane p).rxok = 0 ∧ (u.lane p).wide = 0 ∧ u.flag (F.LN_STAT_MODE_BUSY p.ix) = false ∧
    (s.running = true ∧ s.lnEnabled p = true ∧ u.flag (F.LN_STAT_PLL_LOCK p.ix) = true →
      u.lnState p = (if s.inTest p then 5 else 1) ∧ u.fld (F.LN_STAT_LMASK_TX p.ix) = modeMask (s.lane p).mode) ∧
    (¬ (s.running = true ∧ s.lnEnabled p = true ∧ u.flag (F.LN_STAT_PLL_LOCK p.ix) = true) →
      u.lnState p = 0 ∧ u.fld (F.LN_STAT_LMASK_TX p.ix) = 0) :=
  ⟨h.lock, h.maskRx, h.partner, h.rxok, h.wide, h.modeBusy, h.starts, h.off⟩

/-! ### LANE_PLL_LOCK and PLL_UNLOCK -/

theorem pllLock_keeps (hup : s.up = true) (h : s.flag (F.LN_STAT_PLL_LOCK p.ix) = false) : Keeps [4 + p.ix] s (pllLock p s) := by
  rw [pllLock_of_unlocked p hup h]
  split
  · exact (setPllLock_keeps p s true).trans (startTraining_keeps p _)
  · exact setPllLock_keeps p s true

theorem pllLock_flag (hup : s.up = true) (h : s.flag (F.LN_STAT_PLL_LOCK p.ix) = false) : (pllLock p s).flag (F.LN_STAT_PLL_LOCK p.ix) = true := by
  rw [pllLock_of_unlocked p hup h]
  split
  · exact startTraining_setPllLock_flag p s true
  · exact setPllLock_flag p s true

theorem pllLock_trains (hup : s.up = true) (h : s.flag (F.LN_STAT_PLL_LOCK p.ix) = false) (hrun : s.running = true) : Trained p s (pllLock p s) := by
  rw [pllLock_of_unlocked p hup h, if_pos hrun]
  exact setPllLock_trained p s true

theorem pllLock_waits (hup : s.up = true) (h : s.flag (F.LN_STAT_PLL_LOCK p.ix) = false) (hrun : s.running = false) :
    (pllLock p s).lnState p = s.lnState p := by
  rw [pllLock_of_unlocked p hup h, if_neg (by rw [hrun]; decide)]
  exact (setPllLock_retains p s true).fld _ (by cases p <;> decide) (by cases p <;> decide) (by cases p <;> decide)

/-- The chip as its port is OFF, before PLL_UNLOCK is announced. -/
def untrained (p : Port) (s : Chip) : Chip := startTraining p (s.setFlag (F.LN_STAT_PLL_LOCK p.ix) false)

theorem untrained_retains (p : Port) (s : Chip) : Retains (F.LN_STAT_PLL_LOCK p.ix :: trainFlds p) s (untrained p s) :=
  ((setPllLock_retains p s false).mono (by simp)).trans ((startTraining_retains p _).mono fun _ hf => List.mem_cons_of_mem _ hf)

theorem untrained_off (p : Port) (s : Chip) : (untrained p s).lnState p = 0 :=
  (startTraining_off p _ fun ⟨_, _, hlock⟩ => by rw [setPllLock_flag] at hlock; cases hlock).1

theorem unlocked_lnStat (p q : Port) (s : Chip) : (unlocked p s).lnState q = s.lnState q :=
  unlocked_fld p s (by cases q <;> decide) (by cases q <;> decide) (by cases q <;> decide)

theorem pllUnlock_of_held (h : s.flag (F.LN_STAT_PLL_LOCK p.ix) = true) : pllUnlock p s = unlocked p (untrained p s) := pllUnlock_of_locked p h

theorem unlocked_untrained_keeps (p : Port) (s : Chip) : Keeps [0, 4, 5] s (unlocked p (untrained p s)) := by
  have hport : Keeps [4 + p.ix] s (untrained p s) := (setPllLock_keeps p s false).trans (startTraining_keeps p _)
  exact (hport.mono (pages_mono (by cases p <;> simp [Port.ix]))).trans (unlocked_keeps p _)

theorem untrained_down (h : s.trained p = true) : (untrained p s).eventSeen (EV.LN_LINK_DOWN p) = true ∧
    (untrained p s).fld (F.LN_LOSS_CNT_LINK_DOWN p.ix) = satTo 16 (s.fld (F.LN_LOSS_CNT_LINK_DOWN p.ix) + 1) := (setPllLock_trained p s false).down h

theorem unlocked_down (h : s.trained p = true) : (unlocked p (untrained p s)).eventSeen (EV.LN_LINK_DOWN p) = true ∧
    (unlocked p (untrained p s)).fld (F.LN_LOSS_CNT_LINK_DOWN p.ix) = satTo 16 (s.fld (F.LN_LOSS_CNT_LINK_DOWN p.ix) + 1) := by
  obtain ⟨hseen, hcount⟩ := untrained_down h
  refine ⟨unlocked_seen p _ (by cases p <;> decide) hseen, (unlocked_fld p _ ?_ ?_ ?_).trans hcount⟩ <;> cases p <;> decide

theorem unlocked_pll (p : Port) (s : Chip) : (unlocked p (untrained p s)).flag (F.LN_STAT_PLL_LOCK p.ix) = false := by
  refine (Chip.flag_congr (unlocked_fld p _ ?_ ?_ ?_)).trans (startTraining_setPllLock_flag p s false) <;> cases p <;> decide

theorem untrained_other (p : Port) (s : Chip) : (untrained p s).lnState p.other = s.lnState p.other :=
  (untrained_retains p s).fld _ (by cases p <;> decide) (by cases p <;> decide) (by cases p <;> decide)

theorem untrained_inring (p : Port) (s : Chip) : (untrained p s).inring = s.inring :=
  (untrained_retains p s).flag F.LNE_RING_INRING (by decide) (by decide) (by cases p <;> decide)

theorem untrained_dropCount (p : Port) (s : Chip) : (untrained p s).fld F.GLB_CDC_DROP_COUNT = s.fld F.GLB_CDC_DROP_COUNT :=
  (untrained_retains p s).fld _ (by decide) (by decide) (by cases p <;> decide)

/-! ### LANE_ALIGN_DONE -/

variable {leads : List Nat} {tx rx : Nat}

theorem alignDone_late_keeps (hst : s.lnState p = 3) (h : leads.any (s.leadTooLong p) = true) :
    Keeps [4 + p.ix] s (alignDone p leads tx rx s) := by
  rw [alignDone_of_late hst h]
  exact ((Keeps.setFld _ s (F.LN_DESKEW_ERR_COUNT p.ix) _ (by cases p <;> decide) (by cases p <;> decide)).trans (setLnState_keeps 1 _)).trans
    (raise_keeps _ _ (by cases p <;> decide) _)

theorem alignDone_late (hst : s.lnState p = 3) (h : leads.any (s.leadTooLong p) = true) :
    (alignDone p leads tx rx s).lnState p = 1 ∧
    (alignDone p leads tx rx s).fld (F.LN_DESKEW_ERR_COUNT p.ix) = satTo 32 (s.fld (F.LN_DESKEW_ERR_COUNT p.ix) + 1) ∧
    (alignDone p leads tx rx s).eventSeen (EV.LN_DESKEW_FAIL p) = true := by
  rw [alignDone_of_late hst h]
  refine ⟨(raise_fld _ (by cases p <;> decide) _ _ (by cases p <;> decide)).trans (setLnState_state _ (by decide)), ?_,
    raise_seen _ (by cases p <;> decide) _⟩
  refine (raise_fld _ (by cases p <;> decide) _ _ (by cases p <;> decide)).trans ?_
  exact (Chip.fld_setFld_ne _ (f := F.LN_STAT_STATE p.ix) _ (by cases p <;> decide)).trans (Chip.fld_bump_word s)

/-- The fields of a port that is trained, whether it faces a neighbour or is LOCAL. -/
theorem alignDone_fld_fine (hst : s.lnState p = 3) (h : leads.any (s.leadTooLong p) = false) {g : Fld} (hw : 1 ≤ g.w)
    (hs : shipAddr g.addr = false) (hg : (F.LN_TRAIN_CNT_COUNT p.ix).apart g) :
    (alignDone p leads tx rx s).fld g = (aligned p leads tx rx s).fld g := by
  rw [alignDone_of_fine hst h]
  split
  · rfl
  · exact (linkUp_retains p _).fld g hw hs (by simpa using hg)

theorem alignDone_lane_fine (hst : s.lnState p = 3) (h : leads.any (s.leadTooLong p) = false) (q : Port) :
    (alignDone p leads tx rx s).lane q = (aligned p leads tx rx s).lane q := by
  rw [alignDone_of_fine hst h]
  split
  · rfl
  · exact linkUp_lane p _ q

theorem alignDone_keeps_fine (hst : s.lnState p = 3) (h : leads.any (s.leadTooLong p) = false) : Keeps [4 + p.ix] s (alignDone p leads tx rx s) := by
  have haligned : Keeps [4 + p.ix] s (aligned p leads tx rx s) := (aligned_lines p leads tx rx s).keeps fun _ => AlignAddr.pages
  rw [alignDone_of_fine hst h]
  split
  · exact haligned
  · exact haligned.trans (linkUp_keeps p _)

theorem alignDone_of_neighbour (hst : s.lnState p = 3) (h : leads.any (s.leadTooLong p) = false) (hlocal : s.flag (F.LN_STAT_LOCAL p.ix) = false) :
    alignDone p leads tx rx s = linkUp p (aligned p leads tx rx s) := by
  rw [alignDone_of_fine hst h, aligned_local, hlocal]
  rfl

theorem alignDone_of_local (hst : s.lnState p = 3) (h : leads.any (s.leadTooLong p) = false) (hlocal : s.flag (F.LN_STAT_LOCAL p.ix) = true) :
    alignDone p leads tx rx s = aligned p leads tx rx s := by
  rw [alignDone_of_fine hst h, aligned_local, hlocal]
  rfl

/-! ### LANE_SIGNAL_LOSS -/

theorem signalLoss_keeps (k : Nat) (s : Chip) : Keeps [0, 4 + p.ix] s (signalLoss p k s) := by
  have hunlock := unlockLane_keeps p s k
  cases h : s.rxLane p k with
  | false =>
    rw [signalLoss_of_idle h]
    exact hunlock
  | true =>
    rw [signalLoss_of_rx h]
    exact hunlock.trans ((reacquire_keeps _).mono (pages_mono (by simp)))

/-- Returning to ACQUIRE clears the locks or leaves them, and leaves the lanes' own. -/
theorem reacquire_locks (s : Chip) : Trained p s (reacquire p s) ∨
    ((reacquire p s).fld (F.LN_STAT_LANE_LOCK p.ix) = s.fld (F.LN_STAT_LANE_LOCK p.ix) ∧ (reacquire p s).lane p = s.lane p) := by
  by_cases h4 : s.lnState p = 4
  · rw [reacquire_of_trained h4]
    exact .inl (startTraining_trained p s)
  · by_cases h : s.lnState p = 2 ∨ s.lnState p = 3
    · rw [reacquire_of_training h]
      exact .inr ⟨(setLnState_retains 1 s).fld _ (by cases p <;> decide) (by cases p <;> decide) (by cases p <;> decide),
        Chip.lane_setFld ..⟩
    · rw [reacquire_of_idle (fun k => h (.inl k)) (fun k => h (.inr k)) h4]
      exact .inr ⟨rfl, rfl⟩

theorem signalLoss_unlocks {k : Nat} (hk : k < 4) (s : Chip) : ((signalLoss p k s).fld (F.LN_STAT_LANE_LOCK p.ix)).testBit k = false ∧
    ((signalLoss p k s).lane p).rxok.testBit k = false := by
  have hunlock : ((unlockLane p k s).fld (F.LN_STAT_LANE_LOCK p.ix)).testBit k = false ∧ ((unlockLane p k s).lane p).rxok.testBit k = false := by
    rw [unlockLane_lock, unlockLane_lane]
    exact ⟨testBit_and_without hk, testBit_and_without hk⟩
  cases h : s.rxLane p k with
  | false =>
    rw [signalLoss_of_idle h]
    exact hunlock
  | true =>
    rw [signalLoss_of_rx h]
    rcases reacquire_locks (p := p) (unlockLane p k s) with htrained | ⟨hlock, hlane⟩
    · rw [htrained.lock, htrained.rxok, Nat.zero_testBit]
      exact ⟨rfl, rfl⟩
    · rw [hlock, hlane]
      exact hunlock

theorem signalLoss_trains {k : Nat} (h : s.rxLane p k = true) (hst : s.lnState p = 4) : Trained p s (signalLoss p k s) := by
  rw [signalLoss_of_rx h]
  exact reacquire_unlockLane p s k hst

theorem signalLoss_acquires {k : Nat} (h : s.rxLane p k = true) (hst : s.lnState p = 2 ∨ s.lnState p = 3) : (signalLoss p k s).lnState p = 1 := by
  rw [signalLoss_of_rx h, reacquire_of_training (by rwa [unlockLane_state])]
  exact setLnState_state _ (by decide)

theorem signalLoss_stays {k : Nat} (h : s.rxLane p k = true) (h2 : s.lnState p ≠ 2) (h3 : s.lnState p ≠ 3) (h4 : s.lnState p ≠ 4) :
    (signalLoss p k s).lnState p = s.lnState p := by
  have hstate := unlockLane_state p s k
  rw [signalLoss_of_rx h, reacquire_of_idle (by rwa [hstate]) (by rwa [hstate]) (by rwa [hstate]), hstate]

/-- What follows the crossing of a loss leaves the overruns alone. -/
theorem signalLoss_fld_cross {k : Nat} (hlock : (s.fld (F.LN_STAT_LANE_LOCK p.ix)).testBit k = true) {g : Fld} (hw : 1 ≤ g.w)
    (hs : shipAddr g.addr = false) (hg : ∀ f ∈ trainFlds p, f.apart g) : (signalLoss p k s).fld g = (crossState p s).fld g := by
  have hunlock : (unlockLane p k s).fld g = (crossState p s).fld g := by
    rw [unlockLane_of_locked p s k hlock]
    exact keepLanes_fld_apart p _ _ hw (hg _ (by simp [trainFlds]))
  cases h : s.rxLane p k with
  | false =>
    rw [signalLoss_of_idle h]
    exact hunlock
  | true =>
    rw [signalLoss_of_rx h]
    exact ((reacquire_retains _).fld g hw hs hg).trans hunlock

theorem signalLoss_seen_cross {k e : Nat} (hlock : (s.fld (F.LN_STAT_LANE_LOCK p.ix)).testBit k = true) (he : e < 384)
    (hs : (crossState p s).eventSeen e = true) : (signalLoss p k s).eventSeen e = true := by
  have hunlock : (unlockLane p k s).eventSeen e = true := by
    rw [unlockLane_of_locked p s k hlock]
    exact (keepLanes_retains p _ _).seen e he hs
  cases h : s.rxLane p k with
  | false =>
    rw [signalLoss_of_idle h]
    exact hunlock
  | true =>
    rw [signalLoss_of_rx h]
    exact (reacquire_retains _).seen e he hunlock

theorem signalLoss_count {k : Nat} (hlock : (s.fld (F.LN_STAT_LANE_LOCK p.ix)).testBit k = true) :
    (signalLoss p k s).fld F.GLB_CDC_OVR_COUNT = satTo 32 (s.fld F.GLB_CDC_OVR_COUNT + s.stateLost p) :=
  (signalLoss_fld_cross hlock (by decide) (by decide) (by cases p <;> decide)).trans (crossState_count p s)

/-! ### HIBER and FALLBACK -/

theorem hiberLoss_of_trained (h : s.lnState p = 4) :
    hiberLoss p s = reacquire p (counted (EV.LN_HIBER p) (F.LN_LOSS_CNT_HIBER p.ix) s) := if_pos (trained_iff.mpr h)

theorem hiberLoss_of_untrained (h : s.lnState p ≠ 4) : hiberLoss p s = s := if_neg fun k => h (trained_iff.mp k)

theorem fallBack_iff : (s.flag (F.LN_CFG_FALLBACK_EN p.ix) && !(s.lane p).rateHeld && decide (1 ≤ s.lnState p) && decide (s.lnState p ≤ 3)) = true ↔
    s.flag (F.LN_CFG_FALLBACK_EN p.ix) = true ∧ (s.lane p).rateHeld = false ∧ 1 ≤ s.lnState p ∧ s.lnState p ≤ 3 := by
  simp only [Bool.and_eq_true, Bool.not_eq_true', decide_eq_true_eq, and_assoc]

/-- The chip that tries to train at the other rate. -/
def rateToggled (p : Port) (s : Chip) : Chip := setLnState p 1 (s.setLane p { s.lane p with rateHeld := true })

theorem rateToggled_flag (p : Port) (s : Chip) : (rateToggled p s).flag (F.LN_STAT_FALLBACK p.ix) = s.flag (F.LN_STAT_FALLBACK p.ix) :=
  Chip.flag_congr ((Chip.fld_setFld_apart _ (F.LN_STAT_STATE p.ix) _ _ (by cases p <;> decide) (by cases p <;> decide)).trans (Chip.setLane_fld ..))

theorem fallBack_of_toggles (h : s.flag (F.LN_CFG_FALLBACK_EN p.ix) = true ∧ (s.lane p).rateHeld = false ∧ 1 ≤ s.lnState p ∧ s.lnState p ≤ 3) :
    fallBack p s = raise (EV.LN_FALLBACK p) ((rateToggled p s).setFlag (F.LN_STAT_FALLBACK p.ix) (!s.flag (F.LN_STAT_FALLBACK p.ix))) := by
  refine (if_pos (fallBack_iff.mpr h)).trans (if_neg ?_)
  have hflag := rateToggled_flag p s
  unfold rateToggled at hflag
  rw [hflag]
  cases s.flag (F.LN_STAT_FALLBACK p.ix) <;> decide

theorem fallBack_of_held (h : ¬ (s.flag (F.LN_CFG_FALLBACK_EN p.ix) = true ∧ (s.lane p).rateHeld = false ∧ 1 ≤ s.lnState p ∧ s.lnState p ≤ 3)) :
    fallBack p s = s := if_neg fun k => h (fallBack_iff.mp k)

theorem fallBack_toggles (h : s.flag (F.LN_CFG_FALLBACK_EN p.ix) = true ∧ (s.lane p).rateHeld = false ∧ 1 ≤ s.lnState p ∧ s.lnState p ≤ 3) :
    Keeps [4 + p.ix] s (fallBack p s) ∧ (fallBack p s).lnState p = 1 ∧
      (fallBack p s).flag (F.LN_STAT_FALLBACK p.ix) = (!s.flag (F.LN_STAT_FALLBACK p.ix)) ∧ (fallBack p s).eventSeen (EV.LN_FALLBACK p) = true := by
  rw [fallBack_of_toggles h]
  have hraise := fun g hg => raise_fld (EV.LN_FALLBACK p) (by cases p <;> decide)
    ((rateToggled p s).setFlag (F.LN_STAT_FALLBACK p.ix) (!s.flag (F.LN_STAT_FALLBACK p.ix))) g hg
  refine ⟨?_, ?_, ?_, raise_seen _ (by cases p <;> decide) _⟩
  · exact (((setLane_keeps _ s p _).trans (setLnState_keeps 1 _)).trans
      (Keeps.setFld _ _ (F.LN_STAT_FALLBACK p.ix) _ (by cases p <;> decide) (by cases p <;> decide))).trans (raise_keeps _ _ (by cases p <;> decide) _)
  · refine (hraise _ (by cases p <;> decide)).trans ?_
    exact (Chip.fld_setFld_apart _ _ _ _ (by cases p <;> decide) (by cases p <;> decide)).trans (setLnState_state _ (by decide))
  · exact (Chip.flag_congr (hraise _ (by cases p <;> decide))).trans (flag_setFlag_same _ _ _ (by cases p <;> decide) rfl)

end

/-- Settles O53. Each row turns on one condition of the model; what a start of training leaves is `Trained`, said once, and every row that ends
TRAINED goes through it. -/
theorem laneTrainingRowsComplete : Obligations.LaneTrainingRowsComplete := by
  unfold Obligations.LaneTrainingRowsComplete
  intro p s c st k down lock rxMask asked dfe moved start starts trains onlyRegs locks toggles
  have hasked : c.newLanes p = asked := newLanes_eq p c
  have htrains : ∀ u, Trained p c u → trains u := fun u h => h.shown
  have hdown : ∀ u, (st = 4 → Trained p c u) → down u := fun u h ht => (h (trained_iff.mp ht)).down ht
  refine ⟨fun h => ⟨_, rfl, ?_⟩, fun h => ?_, fun h => ⟨_, rfl, ?_⟩, fun h => ?_, fun lanes => ?_, fun e0 e1 e2 e3 => ?_, fun leads tx rx => ?_,
    fun lane => ?_, fun h => ?_, fun h => ?_⟩
  case refine_1 =>
    obtain ⟨hup, hpll⟩ := h
    exact ⟨pllLock_keeps hup hpll, pllLock_flag hup hpll, fun hrun => ⟨htrains _ (pllLock_trains hup hpll hrun),
      (pllLock_trains hup hpll hrun).down⟩, pllLock_waits hup hpll⟩
  case refine_2 => exact congrArg (fun x => Host.Outcome.next { s with chip := x }) (pllLock_of_held p h)
  case refine_3 =>
    show _ ∧ _
    rw [pllUnlock_of_held h]
    refine ⟨unlocked_untrained_keeps p c, unlocked_pll p c, (unlocked_lnStat p p _).trans (untrained_off p c),
      (unlocked_lnStat p p.other _).trans (untrained_other p c), unlocked_down, unlocked_announced p _, lowerInring_inring _,
      fun hin => unlocked_left p _ ((untrained_inring p c).trans hin), fun n hn => unlocked_stat p _ hn, unlocked_dropped p _, ?_, ?_⟩
    · rw [unlocked_cdc, (untrained_retains p c).cdc]
    · rw [unlocked_count, untrained_dropCount]
  case refine_4 => exact congrArg (fun x => Host.Outcome.next { s with chip := x }) (pllUnlock_of_unlocked p h)
  case refine_5 =>
    refine ⟨fun ⟨hst, hl⟩ => ⟨_, rfl, ?_⟩, fun hst hm => ⟨_, rfl, ?_⟩, fun hst hm => ?_⟩
    · have hregs := acquireDone_regs (s := c) hst hl
      have hfound := acquireDone_found (s := c) hst hl lanes.isLt
      exact ⟨hregs.rest, hregs.lnKeeps, hfound.state, hfound.lock, acquireDone_adapts hst hl⟩
    · rw [← hasked] at hm ⊢
      obtain ⟨hkeeps, hfound, hwide, hadapts⟩ := acquireDone_widens (s := c) (lanes := lanes) (fun h => hst h.1) hm
      exact ⟨hkeeps, hfound.state, hfound.lock, hwide, hadapts⟩
    · rw [← hasked] at hm
      exact congrArg (fun x => Host.Outcome.next { s with chip := x }) (acquireDone_of_none p hst hm)
  case refine_6 =>
    have hshown : ∀ u mask, Adapted p c u mask [e0, e1, e2, e3] e0 → _ := fun u mask h j hj => tapsWord_eq (nth e0 [e0, e1, e2, e3] j) ▸ h j hj
    refine ⟨fun hst => ⟨_, rfl, ?_⟩, fun hst hw hn => ⟨_, rfl, ?_⟩, fun hst h => ?_⟩
    · have hregs := adaptDone_regs (s := c) [e0, e1, e2, e3] hst
      exact ⟨hregs.rest, hregs.lnKeeps, adaptDone_state _ hst, hshown _ _ (adaptDone_adapted e0 rfl hst)⟩
    · rw [← hasked] at hn ⊢
      obtain ⟨hkeeps, hfound, hwide, hadapted⟩ := adaptDone_widens (s := c) (eqs := [e0, e1, e2, e3]) e0 rfl hst hw hn
      exact ⟨hkeeps, hfound.state, hwide, hfound.lock, hshown _ _ hadapted⟩
    · rw [← hasked] at h
      exact congrArg (fun x => Host.Outcome.next { s with chip := x }) (adaptDone_of_none _ hst h)
  case refine_7 =>
    intro most new late widens
    have hfound : c.foundLanes p = new := congrArg (· &&& lock) hasked
    have hlate : ((lanesOf (c.foundLanes p)).any fun j => c.leadTooLong p (nth 0 leads j)) = true ↔ late := by
      rw [hfound]
      exact any_lanesOf_iff
    have hwide : widens → alignDone p leads tx rx c = wideDone p leads c := fun ⟨hst, hn, hw⟩ => alignDone_of_wide hst (hasked ▸ hn) hw
    have hfour : widens → c.lnState p = 4 := fun ⟨_, hn, _⟩ => by
      by_contra h4
      exact hn (if_neg h4)
    refine ⟨fun hst hno => ?_, fun hw hl => ⟨_, rfl, ?_⟩, fun hw hl => ⟨_, rfl, ?_⟩, fun hst hl => ⟨_, rfl, ?_⟩, fun hst hl => ⟨_, rfl, ?_⟩⟩
    · refine congrArg (fun x => Host.Outcome.next { s with chip := x }) (alignDone_of_none hst ?_)
      rw [hasked]
      by_contra hand
      rw [not_or, not_not] at hand
      exact hno ⟨hst, hand⟩
    · have htrained := reacquire_counted (p := p) (s := c) (e := EV.LN_DESKEW_FAIL p) (f := F.LN_DESKEW_ERR_COUNT p.ix) (hfour hw)
        (by cases p <;> decide) (by cases p <;> decide) (by cases p <;> decide)
      rw [hwide hw, wideDone_of_late (hlate.mpr hl)]
      refine ⟨(counted_keeps c ?_ ?_ ?_).trans (reacquire_keeps _), htrains _ htrained, htrained.down,
        reacquire_counted_count c ?_ ?_ rfl ?_ ?_ ?_, reacquire_counted_seen c ?_⟩ <;> cases p <;> decide
    · have hfine := fun h => hl (hlate.mp h)
      rw [hwide hw, wideDone_of_fine hfine]
      refine ⟨widenedDone_keeps, widenedDone_state, ?_, ?_, fun j hj => ?_⟩
      · rw [widenedDone_lane, hfound]
      · rw [widenedDone_lane]
      · rw [widenedDone_skew hfine hj, hfound]
    · have hany := any_leadTooLong_iff.mpr hl
      exact ⟨alignDone_late_keeps hst hany, alignDone_late hst hany⟩
    · have hfine : leads.any (c.leadTooLong p) = false := by
        rw [Bool.eq_false_iff]
        intro h
        obtain ⟨x, hx, hlt⟩ := any_leadTooLong_iff.mp h
        exact absurd (hl x hx) (not_le.mpr hlt)
      have hfld := fun (g : Fld) => alignDone_fld_fine (tx := tx) (rx := rx) hst hfine (g := g)
      refine ⟨alignDone_keeps_fine hst hfine, trained_iff.mpr ?_, ?_, ?_, ?_, ?_, fun j hj hlen => ?_, fun hlocal => ?_, fun hlocal => ?_⟩
      · exact (hfld _ (by cases p <;> decide) (by cases p <;> decide) (by cases p <;> decide)).trans (aligned_state p leads tx rx c)
      · exact (hfld _ (by cases p <;> decide) (by cases p <;> decide) (by cases p <;> decide)).trans (aligned_latTx p leads tx rx c tx.isLt)
      · exact (hfld _ (by cases p <;> decide) (by cases p <;> decide) (by cases p <;> decide)).trans (aligned_latRx p leads tx rx c rx.isLt)
      · exact (hfld _ (by cases p <;> decide) (by cases p <;> decide) (by cases p <;> decide)).trans (aligned_lock p leads tx rx c)
      · rw [alignDone_lane_fine hst hfine]
        exact aligned_rxok p leads tx rx c
      · have hlead : nth 0 leads j ≤ most := hl _ (by unfold nth; rw [List.getD_eq_getElem _ _ hlen]; exact List.getElem_mem hlen)
        have hmost : most ≤ 1650 := by
          show (if _ then 660 else 1650) ≤ 1650
          split <;> decide
        refine (hfld (skewF p j) (show 1 ≤ 11 by decide) ?_ ?_).trans (aligned_skew p leads tx rx c hj hlen (by omega)) <;>
          cases p <;> interval_cases j <;> decide
      · rw [alignDone_of_neighbour hst hfine hlocal]
        exact ⟨linkUp_seen p _, (linkUp_count p _).trans (by rw [aligned_count])⟩
      · rw [alignDone_of_local hst hfine hlocal]
        exact ⟨(aligned_lines p leads tx rx c).rest, aligned_count, aligned_forward p leads tx rx c tx.isLt⟩
  case refine_8 =>
    intro toggle lost
    refine ⟨⟨_, rfl, signalLoss_keeps lane c, (signalLoss_unlocks lane.isLt c).1, (signalLoss_unlocks lane.isLt c).2, fun hrx => ?_, fun hrx => ?_,
      fun hlock hfree => ?_, fun hlock ⟨x, hx, hpend, hends⟩ => ?_⟩, fun h => ?_, fun ⟨hrx, hst⟩ => ⟨_, rfl, ?_⟩⟩
    · exact ⟨hdown _ (signalLoss_trains hrx), fun hst => htrains _ (signalLoss_trains hrx hst), signalLoss_acquires hrx, signalLoss_stays hrx⟩
    · rw [signalLoss_of_idle hrx]
      exact ⟨unlockLane_state p c lane, unlockLane_lock p c lane⟩
    · rw [signalLoss_count hlock, stateLost_of_free hfree]
      exact Nat.min_eq_left (Nat.le_sub_one_of_lt (fld_lt c F.GLB_CDC_OVR_COUNT (by decide)))
    · have hone : c.stateLost p = 1 := stateLost_of_busy hx hpend hends
      obtain ⟨hstat, hseen⟩ := crossState_stat p c (by rw [hone]; decide)
      refine ⟨(signalLoss_count hlock).trans (by rw [hone]), ?_, signalLoss_seen_cross hlock (by decide) hseen⟩
      exact (Chip.testBit_congr 6 (signalLoss_fld_cross hlock (by decide) (by decide) (by cases p <;> decide))).trans hstat
    · refine congrArg (fun x => Host.Outcome.next { s with chip := x }) ?_
      by_cases hrx : c.rxLane p lane = true
      · exact (if_pos hrx).trans (hiberLoss_of_untrained fun hst => h ⟨hrx, hst⟩)
      · exact if_neg hrx
    · have htrained := reacquire_counted (p := p) (s := c) (e := EV.LN_HIBER p) (f := F.LN_LOSS_CNT_HIBER p.ix) hst
        (by cases p <;> decide) (by cases p <;> decide) (by cases p <;> decide)
      have hrow : (if c.rxLane p lane = true then hiberLoss p c else c) = reacquire p (counted (EV.LN_HIBER p) (F.LN_LOSS_CNT_HIBER p.ix) c) :=
        (if_pos hrx).trans (hiberLoss_of_trained hst)
      rw [hrow]
      refine ⟨(counted_keeps c ?_ ?_ ?_).trans (reacquire_keeps _), htrained.down, htrains _ htrained, reacquire_counted_seen c ?_,
        reacquire_counted_count c ?_ ?_ rfl ?_ ?_ ?_⟩ <;> cases p <;> decide
  case refine_9 => exact ⟨_, rfl, fallBack_toggles h⟩
  case refine_10 => exact congrArg (fun x => Host.Outcome.next { s with chip := x }) (fallBack_of_held h)

end Sys2Proof.Machine
end

section
/-! PROOFS. Counts over the crossings of a port, and the lines of its lanes (R278, R286, R289, R422). -/

namespace Sys2Proof.Machine

/-! ### Errors counted over a crossing (R421, R422) -/

section
variable {p : Port} {n : LaneCount} {lane : Nat} {f : Fld} {s t u : Chip}

/-- An error of a lane has been counted: it arrives while the crossing has room, and is lost, and told of, while that is full and busy. -/
def ErrorCounted (p : Port) (n : LaneCount) (lane : Nat) (f : Fld) (s u : Chip) : Prop :=
  ((∀ x, (s.cdc.find? fun e => e.1 == toggleKey p n lane) = some x → x.2.pending < 15) → u.fld f = satTo f.w (s.fld f + 1)) ∧
  ((∃ x, (s.cdc.find? fun e => e.1 == toggleKey p n lane) = some x ∧ x.2.pending = 15 ∧ s.clockFtu < x.2.ends) → u.fld f = s.fld f ∧
    (u.fld F.GLB_CDC_STAT_OVR).testBit (4 + p.ix) = true ∧ u.eventSeen EV.CDC_OVERRUN = true)

/-- The shape of a count of a lane. -/
structure LaneCounter (p : Port) (f : Fld) : Prop where
  fits : f.fits
  direct : f.rws = false
  page : LnPage p f.addr
  lane : ∃ k, k < 4 ∧ 0x4020 + 0x1000 * p.ix + 32 * k ≤ f.addr ∧ f.addr < 0x4040 + 0x1000 * p.ix + 32 * k

theorem laneF_counter (p : Port) {k off lo w : Nat} (hk : k < 4) (hoff : off < 32) (hw : 1 ≤ w) (hlo : lo + w ≤ 32) :
    LaneCounter p (laneF p k off lo w) where
  fits := ⟨hw, hlo⟩
  direct := rfl
  page := by
    unfold laneF LnPage
    dsimp only
    omega
  lane := ⟨k, hk, by unfold laneF; dsimp only; omega⟩

theorem LaneCounter.shape (h : LaneCounter p f) : shipAddr f.addr = false ∧ announceAddr f.addr = false ∧ ∀ g ∈ overrunFlds, f.addr ≠ g.addr := by
  obtain ⟨hlo, hhi⟩ := h.page
  have hix : p.ix < 2 := by cases p <;> decide
  refine ⟨?_, ?_, fun g hg => ?_⟩
  · simp only [shipAddr, announceAddr, Bool.or_eq_false_iff, Bool.and_eq_false_iff, decide_eq_false_iff_not]
    omega
  · simp only [announceAddr, Bool.or_eq_false_iff, Bool.and_eq_false_iff, decide_eq_false_iff_not]
    omega
  · have hlow : g.addr < 0x1000 := by
      revert g
      decide
    omega

theorem LaneCounter.apart_train (h : LaneCounter p f) : ∀ g ∈ trainFlds p, g.apart f := fun g hg => by
  obtain ⟨k, hk, hlo, hhi⟩ := h.lane
  have hout : g.addr < 0x4020 + 0x1000 * p.ix ∨ 0x40A0 + 0x1000 * p.ix ≤ g.addr := by
    revert g
    cases p <;> decide
  exact .inl (by omega)

theorem crossCount_eq (p : Port) (n : LaneCount) (lane : Nat) (f : Fld) (m : Nat) (s : Chip) : ∃ cdc, crossCount p n lane f m s =
    (noteOverrun (4 + p.ix) (s.pulsesLost p (toggleKey p n lane) 15 m) { s with cdc }).bumpBy f (m - s.pulsesLost p (toggleKey p n lane) 15 m) := by
  obtain ⟨cdc, h⟩ := cross_eq p s (toggleKey p n lane) (4 + p.ix) 15 m
  refine ⟨cdc, ?_⟩
  unfold crossCount
  rw [h]

theorem crossCount_keeps (hf : LaneCounter p f) (m : Nat) (s : Chip) : Keeps [0, 4 + p.ix] s (crossCount p n lane f m s) := by
  obtain ⟨cdc, h⟩ := crossCount_eq p n lane f m s
  rw [h]
  obtain ⟨hpage, hstat⟩ := hf.page.pages
  have hover : Keeps [0] s (noteOverrun (4 + p.ix) (s.pulsesLost p (toggleKey p n lane) 15 m) { s with cdc }) :=
    Keeps.trans (t := { s with cdc }) (Keeps.same rfl rfl rfl rfl) (noteOverrun_keeps _ _ _)
  exact (hover.mono (pages_mono (by simp))).trans ((Keeps.setFld _ _ f _ hpage hstat).mono (pages_mono (by simp)))

theorem crossCount_lane (m : Nat) (s : Chip) (q : Port) : (crossCount p n lane f m s).lane q = s.lane q := by
  obtain ⟨cdc, h⟩ := crossCount_eq p n lane f m s
  rw [h]
  refine (Chip.lane_setFld ..).trans ((noteOverrun_lane _ _ _ q).trans ?_)
  cases q <;> rfl

theorem crossCount_fld_other (m : Nat) (s : Chip) {g : Fld} (hw : 1 ≤ g.w) (ha : announceAddr g.addr = false) (hne : g.addr ≠ f.addr)
    (hg : ∀ f ∈ overrunFlds, f.apart g) : (crossCount p n lane f m s).fld g = s.fld g := by
  obtain ⟨cdc, h⟩ := crossCount_eq p n lane f m s
  rw [h]
  exact (Chip.fld_setFld_ne _ _ hne).trans ((noteOverrun_fld _ _ _ hw ha hg).trans rfl)

theorem crossCount_fld (hf : LaneCounter p f) (m : Nat) (s : Chip) : (crossCount p n lane f m s).fld f =
    satTo f.w (s.fld f + (m - s.pulsesLost p (toggleKey p n lane) 15 m)) := by
  obtain ⟨cdc, h⟩ := crossCount_eq p n lane f m s
  obtain ⟨-, ha, hover⟩ := hf.shape
  rw [h, Chip.fld_bumpBy_same _ _ _ hf.fits hf.direct, noteOverrun_fld _ _ _ hf.fits.1 ha fun g hg => .inl (hover g hg).symm]
  rfl

theorem crossCount_overruns (hf : LaneCounter p f) (m : Nat) (s : Chip) : (crossCount p n lane f m s).fld F.GLB_CDC_OVR_COUNT =
    satTo 32 (s.fld F.GLB_CDC_OVR_COUNT + s.pulsesLost p (toggleKey p n lane) 15 m) := by
  obtain ⟨cdc, h⟩ := crossCount_eq p n lane f m s
  obtain ⟨-, -, hover⟩ := hf.shape
  rw [h]
  exact (Chip.fld_setFld_ne _ _ (hover _ (by simp [overrunFlds])).symm).trans (noteOverrun_count _ _ _)

theorem crossCount_lost (hf : LaneCounter p f) {m : Nat} (hlost : s.pulsesLost p (toggleKey p n lane) 15 m ≠ 0) :
    ((crossCount p n lane f m s).fld F.GLB_CDC_STAT_OVR).testBit (4 + p.ix) = true ∧ (crossCount p n lane f m s).eventSeen EV.CDC_OVERRUN = true := by
  obtain ⟨cdc, h⟩ := crossCount_eq p n lane f m s
  obtain ⟨-, -, hover⟩ := hf.shape
  have hsmall : 4 + p.ix < 11 := by cases p <;> decide
  rw [h]
  constructor
  · exact (Chip.testBit_congr _ (Chip.fld_setFld_ne _ _ (hover F.GLB_CDC_STAT_OVR (by simp [overrunFlds])).symm)).trans
      (noteOverrun_stat _ _ _ hsmall hlost)
  · exact (setFld_seen _ _ _ _ (by decide) hf.page.pages.2).trans (noteOverrun_announced _ _ _ hlost)

/-- A crossing that holds less than 15 pulses back takes one more. -/
theorem pulsesLost_of_room {key : Nat} (h : ∀ x, (s.cdc.find? fun e => e.1 == key) = some x → x.2.pending < 15) : s.pulsesLost p key 15 1 = 0 := by
  have hat : ∀ y, s.toggleAt p key = some y → y.pending < 15 := fun y hy => by
    obtain ⟨x, hx, hadv⟩ := Option.bind_eq_some_iff.mp hy
    unfold Toggle.advance at hadv
    split at hadv
    · exact Option.some.inj hadv ▸ h x hx
    · split at hadv
      · cases hadv
      · exact Option.some.inj hadv ▸ Nat.zero_lt_succ 14
  unfold Chip.pulsesLost Toggle.pulse
  cases hy : s.toggleAt p key with
  | none => rfl
  | some y => exact Nat.sub_eq_zero_of_le (hat y hy)

theorem pulsesLost_of_full {key : Nat} {x : Nat × Toggle} (hx : (s.cdc.find? fun e => e.1 == key) = some x) (hpend : x.2.pending = 15)
    (hends : s.clockFtu < x.2.ends) : s.pulsesLost p key 15 1 = 1 := by
  unfold Chip.pulsesLost
  rw [toggleAt_of_busy hx hends]
  show x.2.pending + 1 - 15 = 1
  rw [hpend]

theorem crossCount_counted (hf : LaneCounter p f) (s : Chip) : ErrorCounted p n lane f s (crossCount p n lane f 1 s) := by
  refine ⟨fun h => ?_, fun ⟨x, hx, hpend, hends⟩ => ?_⟩
  · rw [crossCount_fld hf, pulsesLost_of_room h]
  · have hone := pulsesLost_of_full (p := p) hx hpend hends
    refine ⟨?_, crossCount_lost hf (by rw [hone]; decide)⟩
    rw [crossCount_fld hf, hone]
    exact Nat.min_eq_left (Nat.le_sub_one_of_lt (fld_lt s f hf.fits))

/-- What comes before and after the count leaves what it turns on. -/
theorem ErrorCounted.of_before (hcdc : t.cdc = s.cdc) (hclk : t.clockFtu = s.clockFtu) (hfld : t.fld f = s.fld f)
    (h : ErrorCounted p n lane f t u) : ErrorCounted p n lane f s u := by
  unfold ErrorCounted at h ⊢
  rwa [hcdc, hclk, hfld] at h

theorem ErrorCounted.of_after (hfld : u.fld f = t.fld f)
    (hstat : (t.fld F.GLB_CDC_STAT_OVR).testBit (4 + p.ix) = true → (u.fld F.GLB_CDC_STAT_OVR).testBit (4 + p.ix) = true)
    (hseen : t.eventSeen EV.CDC_OVERRUN = true → u.eventSeen EV.CDC_OVERRUN = true) (h : ErrorCounted p n lane f s t) :
    ErrorCounted p n lane f s u :=
  ⟨fun hroom => hfld.trans (h.1 hroom), fun hfull =>
    have ⟨hsame, hbit, hevent⟩ := h.2 hfull
    ⟨hfld.trans hsame, hstat hbit, hseen hevent⟩⟩

end

/-! ### The lanes of a port -/

section
variable {p : Port} {k : Nat} {s t : Chip}

theorem nth_set_same {α : Type} (d : α) {l : List α} {i : Nat} (h : i < l.length) (x : α) : nth d (l.set i x) i = x := by
  unfold nth
  rw [List.getD_eq_getElem _ _ (by rwa [List.length_set]), List.getElem_set_self]

theorem setLaneOne_lane (p : Port) (k : Nat) (x : LaneOne) (s : Chip) :
    (setLaneOne p k x s).lane p = { s.lane p with lanes := (s.lane p).lanes.set k x } := Chip.lane_setLane_same ..

theorem laneOne_setLaneOne (h : k < (s.lane p).lanes.length) (x : LaneOne) : (setLaneOne p k x s).laneOne p k = x := by
  unfold Chip.laneOne
  rw [setLaneOne_lane]
  exact nth_set_same _ h x

theorem laneOne_of_lane (h : t.lane p = s.lane p) : t.laneOne p k = s.laneOne p k := by
  unfold Chip.laneOne
  rw [h]

theorem setLaneOne_fld (x : LaneOne) (f : Fld) : (setLaneOne p k x s).fld f = s.fld f := Chip.setLane_fld ..

theorem setLaneOne_keeps (l : List Nat) (x : LaneOne) : Keeps l s (setLaneOne p k x s) := setLane_keeps l s p _

/-! ### The bits of a slot (R278, R286, R289) -/

theorem setLine_lane (x : LineSt) (q : Port) : (setLine p k x s).lane q = s.lane q := by cases q <;> rfl

theorem setLine_lineOf (x : LineSt) : (setLine p k x s).lineOf p k = x := Table.get_set_same ..

/-- `t` is `s` but for the lines, and the states of the lanes of a port. -/
def LineHeard (p : Port) (s t : Chip) : Prop := t = { s.setLane p { s.lane p with lanes := (t.lane p).lanes } with line := t.line }

theorem LineHeard.refl (p : Port) (s : Chip) : LineHeard p s s := by cases p <;> rfl

theorem LineHeard.setLaneOne (h : LineHeard p s t) (x : LaneOne) : LineHeard p s (setLaneOne p k x t) := by
  unfold LineHeard at h ⊢
  rw [h]
  cases p <;> rfl

theorem LineHeard.setLine (h : LineHeard p s t) (q : Port) (x : LineSt) : LineHeard p s (setLine q k x t) := by
  unfold LineHeard at h ⊢
  rw [h]
  cases p <;> rfl

section
variable (h : LineHeard p s t)
include h

theorem LineHeard.regs : t.regs = s.regs := by rw [h]; cases p <;> rfl
theorem LineHeard.clk : t.clk = s.clk := by rw [h]; cases p <;> rfl
theorem LineHeard.rst : t.rst = s.rst := by rw [h]; cases p <;> rfl
theorem LineHeard.cdc : t.cdc = s.cdc := by rw [h]; cases p <;> rfl
theorem LineHeard.keeps (l : List Nat) : Keeps l s t := by rw [h]; cases p <;> exact Keeps.same rfl rfl rfl rfl
theorem LineHeard.fld (f : Fld) : t.fld f = s.fld f := by unfold Chip.fld; rw [h.regs]
theorem LineHeard.lane : t.lane p = { s.lane p with lanes := (t.lane p).lanes } := by
  have hlane := congrArg (Chip.lane · p) h
  refine hlane.trans ?_
  cases p <;> rfl

end

/-- The line after a slot that is heard, and whether the window that it ended toggled enough. -/
def heardLine (p : Port) (bitsIn : List Bool) (x : LineSt) (s : Chip) : LineSt :=
  if s.fld (F.LN_TEST_LOOP p.ix) = 3 then { (x.count bitsIn).2 with wire := slotBits bitsIn } else (x.count bitsIn).2

section
variable {bitsIn : List Bool} {x : LineSt}

theorem lineSlot_of_deaf (h : s.hearsBits p = false) : lineSlot p k bitsIn x s = s := if_pos (by rw [h]; rfl)

theorem lineSlot_of_heard (h : s.hearsBits p = true) : lineSlot p k bitsIn x s =
    if (x.count bitsIn).1 && (s.laneOne p k).frozen then
      setLaneOne p k { s.laneOne p k with frozen := false } (setLine p k (heardLine p bitsIn x s) s)
    else setLine p k (heardLine p bitsIn x s) s := by
  refine (if_neg (by rw [h]; decide)).trans ?_
  have hsame : (setLine p k (heardLine p bitsIn x s) s).laneOne p k = s.laneOne p k := laneOne_of_lane (setLine_lane _ p)
  rw [← hsame]
  rfl

theorem lineSlot_heard (bitsIn : List Bool) (x : LineSt) (s : Chip) : LineHeard p s (lineSlot p k bitsIn x s) := by
  cases h : s.hearsBits p with
  | false => rw [lineSlot_of_deaf h]; exact .refl p s
  | true =>
    rw [lineSlot_of_heard h]
    split
    · exact ((LineHeard.refl p s).setLine p _).setLaneOne _
    · exact (LineHeard.refl p s).setLine p _

theorem lineSlot_line (h : s.hearsBits p = true) : (lineSlot p k bitsIn x s).lineOf p k = heardLine p bitsIn x s := by
  rw [lineSlot_of_heard h]
  split
  · refine Eq.trans ?_ (setLine_lineOf (p := p) (k := k) (s := s) _)
    cases p <;> rfl
  · exact setLine_lineOf _

theorem lineSlot_lanes_length (bitsIn : List Bool) (x : LineSt) (s : Chip) :
    ((lineSlot p k bitsIn x s).lane p).lanes.length = (s.lane p).lanes.length := by
  cases h : s.hearsBits p with
  | false => rw [lineSlot_of_deaf h]
  | true =>
    rw [lineSlot_of_heard h]
    split
    · rw [setLaneOne_lane, setLine_lane]
      exact List.length_set
    · rw [setLine_lane]

/-- A freeze ends with a window that toggled enough. -/
theorem lineSlot_laneOne (hk : k < (s.lane p).lanes.length) : (lineSlot p k bitsIn x s).laneOne p k =
    { s.laneOne p k with frozen := (s.laneOne p k).frozen && !(s.hearsBits p && (x.count bitsIn).1) } := by
  have hone : (setLine p k (heardLine p bitsIn x s) s).laneOne p k = s.laneOne p k := laneOne_of_lane (setLine_lane _ p)
  cases h : s.hearsBits p with
  | false =>
    rw [lineSlot_of_deaf h, Bool.false_and, Bool.not_false, Bool.and_true]
  | true =>
    rw [lineSlot_of_heard h]
    split
    next hends =>
      obtain ⟨hwin, hfrozen⟩ := Bool.and_eq_true_iff.mp hends
      rw [laneOne_setLaneOne (by rwa [setLine_lane]), hwin, hfrozen]
      rfl
    next hends =>
      have hstays : ((s.laneOne p k).frozen && !(true && (x.count bitsIn).1)) = (s.laneOne p k).frozen := by
        revert hends
        cases (s.laneOne p k).frozen <;> cases (x.count bitsIn).1 <;> decide
      rw [hone, hstays]

theorem lineSlot_amBad (bitsIn : List Bool) (x : LineSt) (s : Chip) : ((lineSlot p k bitsIn x s).laneOne p k).amBad = (s.laneOne p k).amBad := by
  by_cases hk : k < (s.lane p).lanes.length
  · rw [lineSlot_laneOne hk]
  · have hrest : ∀ t : Chip, (t.lane p).lanes.length = (s.lane p).lanes.length → t.laneOne p k = LaneOne.rest := fun t ht => by
      unfold Chip.laneOne nth
      exact List.getD_eq_default _ _ (by rw [ht]; exact not_lt.mp hk)
    rw [hrest _ (lineSlot_lanes_length ..), hrest s rfl]

end

end

end Sys2Proof.Machine
end

section
/-! PROOFS. Alignment markers (R280, R283, R288, R294, R295): those that are not valid, the fields of lane 0, and a change of neighbour. -/

namespace Sys2Proof.Machine

/-! ### Markers that are not valid (R283) -/

section
variable {p : Port} {k : Nat} {s t u : Chip}

/-- The lane's count of markers in a row that are not valid goes up. -/
def countBad (p : Port) (k : Nat) (s : Chip) : Chip := setLaneOne p k { s.laneOne p k with amBad := (s.laneOne p k).amBad + 1 } s

/-- The fourth marker in a row that is not valid, on a lane of LMASK of a port that is TRAINED. -/
def Chip.EndsTrained (s : Chip) (p : Port) (k : Nat) : Prop := s.lnState p = 4 ∧ s.rxLane p k = true ∧ 4 ≤ (s.laneOne p k).amBad + 1

theorem endsTrained_iff : (s.trained p && s.rxLane p k && decide (4 ≤ (s.laneOne p k).amBad + 1)) = true ↔ s.EndsTrained p k := by
  rw [Bool.and_eq_true, Bool.and_eq_true, decide_eq_true_eq, trained_iff, and_assoc]
  rfl

theorem badAm_of_ends (h : s.EndsTrained p k) : badAm p k s = reacquire p (crossState p (countBad p k s)) := if_pos (endsTrained_iff.mpr h)

theorem badAm_of_stays (h : ¬ s.EndsTrained p k) : badAm p k s = countBad p k s := if_neg fun hc => h (endsTrained_iff.mp hc)

/-- What a marker that is not valid leaves, its count of the lane's errors apart. -/
structure BadMarker (p : Port) (k : Nat) (s u : Chip) : Prop where
  keeps : Keeps [0, 4 + p.ix] s u
  amBad : k < (s.lane p).lanes.length → (u.laneOne p k).amBad = (s.laneOne p k).amBad + 1
  ends : s.EndsTrained p k → u.trained p = false ∧ u.eventSeen (EV.LN_LINK_DOWN p) = true
  stays : ¬ s.EndsTrained p k → u.lnState p = s.lnState p

theorem countBad_fld (f : Fld) : (countBad p k s).fld f = s.fld f := setLaneOne_fld ..

theorem countBad_amBad (h : k < (s.lane p).lanes.length) : ((countBad p k s).laneOne p k).amBad = (s.laneOne p k).amBad + 1 := by
  unfold countBad
  rw [laneOne_setLaneOne h]

theorem crossState_countBad_state (s : Chip) : (crossState p (countBad p k s)).lnState p = s.lnState p :=
  (crossState_fld p _ (by cases p <;> decide) (by cases p <;> decide) (by cases p <;> decide)).trans (countBad_fld _)

/-- A start of training leaves the counts of the lanes. -/
theorem startTraining_laneOne (s : Chip) : (startTraining p s).laneOne p k = s.laneOne p k := by
  have hlane : ((startTraining p s).lane p).lanes = (s.lane p).lanes := by
    rw [startTraining_lane, clearLocks_lane, leaveTrained_lane]
  unfold Chip.laneOne
  rw [hlane]

theorem Trained.untrained (h : Trained p s u) : u.trained p = false := by
  refine beq_eq_false_iff_ne.mpr fun hfour => ?_
  have hstate : u.lnState p = 4 := hfour
  by_cases hcan : s.running = true ∧ s.lnEnabled p = true ∧ u.flag (F.LN_STAT_PLL_LOCK p.ix) = true
  · rw [(h.starts hcan).1] at hstate
    split at hstate <;> cases hstate
  · rw [(h.off hcan).1] at hstate
    cases hstate

theorem badAm_bad (s : Chip) : BadMarker p k s (badAm p k s) := by
  have hcount : Keeps [0, 4 + p.ix] s (countBad p k s) := setLaneOne_keeps _ _
  by_cases h : s.EndsTrained p k
  · have hstate := (crossState_countBad_state (k := k) s).trans h.1
    rw [badAm_of_ends h, reacquire_of_trained hstate]
    have htrained := startTraining_trained p (crossState p (countBad p k s))
    refine ⟨(hcount.trans ((crossState_keeps p _).mono (pages_mono (by simp)))).trans ((startTraining_keeps p _).mono (pages_mono (by simp))),
      fun hk => ?_, fun _ => ⟨htrained.untrained, (htrained.down (trained_iff.mpr hstate)).1⟩, fun hno => absurd h hno⟩
    rw [startTraining_laneOne, laneOne_of_lane (crossState_lane p _ p), countBad_amBad hk]
  · rw [badAm_of_stays h]
    exact ⟨hcount, countBad_amBad, fun hyes => absurd hyes h, fun _ => countBad_fld _⟩

/-- What comes before a marker that is not valid leaves what it turns on. -/
theorem BadMarker.of_before (hkeeps : Keeps [0, 4 + p.ix] s t) (hstate : t.lnState p = s.lnState p) (hrx : t.rxLane p k = s.rxLane p k)
    (hlen : (t.lane p).lanes.length = (s.lane p).lanes.length) (hbad : (t.laneOne p k).amBad = (s.laneOne p k).amBad) (h : BadMarker p k t u) :
    BadMarker p k s u := by
  obtain ⟨hk, hcount, hends, hstays⟩ := h
  unfold Chip.EndsTrained at hends hstays
  rw [hstate, hrx, hbad] at hends hstays
  rw [hlen, hbad] at hcount
  exact ⟨hkeeps.trans hk, hcount, hends, hstays⟩

theorem noteOverrun_stat_of_set {bit lost n : Nat} (h : (s.fld F.GLB_CDC_STAT_OVR).testBit n = true) :
    ((noteOverrun bit lost s).fld F.GLB_CDC_STAT_OVR).testBit n = true := by
  unfold noteOverrun
  split
  · exact h
  · refine (Chip.testBit_congr n (raise_fld _ (by decide) _ _ (by decide))).trans (latchBit_testBit_of_set bit _ (by decide) rfl ?_)
    exact (Chip.testBit_congr n (Chip.fld_setFld_ne s (f := F.GLB_CDC_OVR_COUNT) _ (by decide))).trans h

theorem crossState_stat_of_set {n : Nat} (h : (s.fld F.GLB_CDC_STAT_OVR).testBit n = true) :
    ((crossState p s).fld F.GLB_CDC_STAT_OVR).testBit n = true := by
  obtain ⟨cdc, hcross⟩ := crossState_eq p s
  rw [hcross]
  exact noteOverrun_stat_of_set h

theorem badAm_stat_of_set {n : Nat} (h : (s.fld F.GLB_CDC_STAT_OVR).testBit n = true) : ((badAm p k s).fld F.GLB_CDC_STAT_OVR).testBit n = true := by
  have hcount : ((countBad p k s).fld F.GLB_CDC_STAT_OVR).testBit n = true := (Chip.testBit_congr n (countBad_fld _)).trans h
  by_cases hends : s.EndsTrained p k
  · rw [badAm_of_ends hends]
    refine (Chip.testBit_congr n ((reacquire_retains _).fld _ (by decide) (by decide) (by cases p <;> decide))).trans (crossState_stat_of_set hcount)
  · rw [badAm_of_stays hends]
    exact hcount

theorem badAm_fld {f : Fld} (hf : LaneCounter p f) : (badAm p k s).fld f = s.fld f := by
  obtain ⟨hship, ha, hover⟩ := hf.shape
  by_cases hends : s.EndsTrained p k
  · rw [badAm_of_ends hends, (reacquire_retains _).fld f hf.fits.1 hship hf.apart_train,
      crossState_fld p _ hf.fits.1 ha fun g hg => .inl (hover g hg).symm, countBad_fld]
  · rw [badAm_of_stays hends, countBad_fld]

theorem rxLane_congr (h : t.fld (F.LN_STAT_LMASK_RX p.ix) = s.fld (F.LN_STAT_LMASK_RX p.ix)) : t.rxLane p k = s.rxLane p k := by
  unfold Chip.rxLane
  rw [h]

/-- A marker that is not valid is counted, and may end TRAINED. -/
theorem badAm_crossCount {n : LaneCount} {f : Fld} (hf : LaneCounter p f) (s : Chip) :
    BadMarker p k s (badAm p k (crossCount p n k f 1 s)) ∧ ErrorCounted p n k f s (badAm p k (crossCount p n k f 1 s)) := by
  have hstat : ∀ g, g = F.LN_STAT_STATE p.ix ∨ g = F.LN_STAT_LMASK_RX p.ix →
      1 ≤ g.w ∧ announceAddr g.addr = false ∧ (∀ o ∈ overrunFlds, o.apart g) ∧ g.addr < 0x4020 + 0x1000 * p.ix := fun g hg => by
    rcases hg with rfl | rfl <;> cases p <;> decide
  have hfld : ∀ g, g = F.LN_STAT_STATE p.ix ∨ g = F.LN_STAT_LMASK_RX p.ix → (crossCount p n k f 1 s).fld g = s.fld g := fun g hg => by
    obtain ⟨hw, ha, hover, hlow⟩ := hstat g hg
    obtain ⟨j, -, hlo, -⟩ := hf.lane
    exact crossCount_fld_other 1 s hw ha (by omega) hover
  have hlane := crossCount_lane (n := n) (lane := k) (f := f) (p := p) 1 s p
  refine ⟨.of_before (crossCount_keeps hf 1 s) (hfld _ (.inl rfl)) (rxLane_congr (hfld _ (.inr rfl))) (by rw [hlane])
    (congrArg LaneOne.amBad (laneOne_of_lane hlane)) (badAm_bad _), ?_⟩
  exact (crossCount_counted hf s).of_after (badAm_fld hf) badAm_stat_of_set ((badAm_bad _).keeps.events _ (by decide))

/-! ### ALIGNMENT_MARKER by its cases (R280) -/

variable {x : Nat} {found : Bool}

theorem alignmentMarker_of_off (h : s.lnState p = 0 ∨ s.flag (F.LN_TEST_PRBS p.ix) = true) : alignmentMarker p k found x s = s := by
  refine if_pos ?_
  rcases h with h | h
  · rw [h]
    rfl
  · rw [h, Bool.or_true]

theorem alignmentMarker_on (hst : s.lnState p ≠ 0) (hprbs : s.flag (F.LN_TEST_PRBS p.ix) = false) :
    ¬ (s.lnState p = 0 || s.flag (F.LN_TEST_PRBS p.ix)) = true := by
  rw [decide_eq_false hst, hprbs]
  decide

theorem alignmentMarker_of_missing (hst : s.lnState p ≠ 0) (hprbs : s.flag (F.LN_TEST_PRBS p.ix) = false) :
    alignmentMarker p k false x s = badAm p k (crossCount p .amPos k (amPosF p k) 1 s) :=
  (if_neg (alignmentMarker_on hst hprbs)).trans rfl

theorem alignmentMarker_of_invalid (hst : s.lnState p ≠ 0) (hprbs : s.flag (F.LN_TEST_PRBS p.ix) = false) (h : amValid k x = false) :
    alignmentMarker p k true x s = badAm p k (crossCount p .amCrc k (amCrcF p k) 1 s) :=
  (if_neg (alignmentMarker_on hst hprbs)).trans ((if_neg Bool.false_ne_true).trans (if_pos (by rw [h]; rfl)))

/-- The lane's count of markers in a row that are not valid ends. -/
def clearBad (p : Port) (k : Nat) (s : Chip) : Chip := setLaneOne p k { s.laneOne p k with amBad := 0 } s

/-- A valid marker names a neighbour that the port does not hold. -/
def Chip.namesNew (s : Chip) (p : Port) (x : Nat) : Bool :=
  !(s.lane p).hasNbr || bits x 22 18 != s.fld (F.LN_STAT_NBR_ADDR p.ix) || bits x 55 32 != s.fld (F.LN_NBR_NID_NID p.ix)

theorem alignmentMarker_of_upper (hst : s.lnState p ≠ 0) (hprbs : s.flag (F.LN_TEST_PRBS p.ix) = false) (h : amValid k x = true) (hk : k ≠ 0) :
    alignmentMarker p k true x s = clearBad p k s :=
  (if_neg (alignmentMarker_on hst hprbs)).trans
    ((if_neg Bool.false_ne_true).trans ((if_neg (by rw [h]; decide)).trans (if_pos (bne_iff_ne.mpr hk))))

theorem alignmentMarker_of_lane0 (hst : s.lnState p ≠ 0) (hprbs : s.flag (F.LN_TEST_PRBS p.ix) = false) (h : amValid 0 x = true) :
    alignmentMarker p 0 true x s =
      if (s.lane p).lastAm = some (bits x 22 18, bits x 55 32) ∧ s.namesNew p x = true then
        neighbourChange p (bits x 22 18) (bits x 55 32) (amFields p x (clearBad p 0 s))
      else amFields p x (clearBad p 0 s) := by
  refine (if_neg (alignmentMarker_on hst hprbs)).trans
    ((if_neg Bool.false_ne_true).trans ((if_neg (by rw [h]; decide)).trans ((if_neg (by decide)).trans ?_)))
  have hlane : ((clearBad p 0 s).lane p).lastAm = (s.lane p).lastAm ∧ ((clearBad p 0 s).lane p).hasNbr = (s.lane p).hasNbr := by
    unfold clearBad
    rw [setLaneOne_lane]
    exact ⟨rfl, rfl⟩
  rw [← hlane.1]
  unfold Chip.namesNew
  rw [← hlane.2]
  refine if_congr ?_ rfl rfl
  rw [Bool.and_eq_true, decide_eq_true_eq]
  exact Iff.rfl

end

end Sys2Proof.Machine
end

section
/-! PROOFS. The fields of an alignment marker of lane 0 (R280, R288), and a change of neighbour (R294, R295). -/

namespace Sys2Proof.Machine

section
variable {p : Port} {s t : Chip}

/-! ### The fields of lane 0 -/

/-- What lane 0 tells of the partner. -/
def partnerTold (p : Port) (x : Nat) (s : Chip) : Chip :=
  ((s.setFld (F.LN_STAT_LMASK_RX p.ix) (bits x 13 10)).setFld (F.LN_STAT_RXOK_PART p.ix) (bits x 17 14)).setLane p
    { s.lane p with partnerNmask := bits x 29 26, partnerByp := bits x 25 23, lastAm := some (bits x 22 18, bits x 55 32)
                    wide := if (bits x 29 26 &&& (15 - bits x 13 10)) = 0 then 0 else (s.lane p).wide }

theorem partnerTold_fld (x : Nat) (g : Fld) : (partnerTold p x s).fld g =
    ((s.setFld (F.LN_STAT_LMASK_RX p.ix) (bits x 13 10)).setFld (F.LN_STAT_RXOK_PART p.ix) (bits x 17 14)).fld g := Chip.setLane_fld ..

theorem partnerTold_fld_apart (x : Nat) {g : Fld} (hw : 1 ≤ g.w) (hrx : (F.LN_STAT_LMASK_RX p.ix).apart g)
    (hpart : (F.LN_STAT_RXOK_PART p.ix).apart g) : (partnerTold p x s).fld g = s.fld g := by
  rw [partnerTold_fld, Chip.fld_setFld_apart _ _ _ _ hpart hw, Chip.fld_setFld_apart _ _ _ _ hrx hw]

theorem partnerTold_told (x : Nat) : (partnerTold p x s).fld (F.LN_STAT_LMASK_RX p.ix) = bits x 13 10 ∧
    (partnerTold p x s).fld (F.LN_STAT_RXOK_PART p.ix) = bits x 17 14 := by
  rw [partnerTold_fld, partnerTold_fld]
  constructor
  · refine (Chip.fld_setFld_apart _ _ _ _ (by cases p <;> decide) (by cases p <;> decide)).trans ?_
    exact (Chip.fld_setFld_same _ _ _ (by cases p <;> decide) rfl).trans (Nat.mod_eq_of_lt (bits_lt x 4 10 (by decide)))
  · exact (Chip.fld_setFld_same _ _ _ (by cases p <;> decide) rfl).trans (Nat.mod_eq_of_lt (bits_lt x 4 14 (by decide)))

theorem partnerTold_keeps (x : Nat) : Keeps [4 + p.ix] s (partnerTold p x s) :=
  ((Keeps.setFld _ s (F.LN_STAT_LMASK_RX p.ix) _ (by cases p <;> decide) (by cases p <;> decide)).trans
    (Keeps.setFld _ _ (F.LN_STAT_RXOK_PART p.ix) _ (by cases p <;> decide) (by cases p <;> decide))).trans (setLane_keeps _ _ p _)

theorem amFields_eq (p : Port) (x : Nat) (s : Chip) : amFields p x s =
    if s.trained p = true then keepLanes p (bits x 13 10 ||| bits x 29 26) (partnerTold p x s) else partnerTold p x s := rfl

theorem amFields_keeps (x : Nat) : Keeps [4 + p.ix] s (amFields p x s) := by
  rw [amFields_eq]
  split
  · exact (partnerTold_keeps x).trans (keepLanes_keeps p _ _)
  · exact partnerTold_keeps x

theorem amFields_fld (x : Nat) {g : Fld} (hw : 1 ≤ g.w) (hlock : (F.LN_STAT_LANE_LOCK p.ix).apart g) :
    (amFields p x s).fld g = (partnerTold p x s).fld g := by
  rw [amFields_eq]
  split
  · exact keepLanes_fld_apart p _ _ hw hlock
  · rfl

/-- The fields that a marker of lane 0 gives. -/
def amFlds (p : Port) : List Fld := [F.LN_STAT_LMASK_RX p.ix, F.LN_STAT_RXOK_PART p.ix, F.LN_STAT_LANE_LOCK p.ix]

theorem amFields_fld_apart (x : Nat) {g : Fld} (hw : 1 ≤ g.w) (hg : ∀ f ∈ amFlds p, f.apart g) : (amFields p x s).fld g = s.fld g :=
  (amFields_fld x hw (hg _ (by simp [amFlds]))).trans
    (partnerTold_fld_apart x hw (hg _ (by simp [amFlds])) (hg _ (by simp [amFlds])))

theorem amFields_told (x : Nat) : (amFields p x s).fld (F.LN_STAT_LMASK_RX p.ix) = bits x 13 10 ∧
    (amFields p x s).fld (F.LN_STAT_RXOK_PART p.ix) = bits x 17 14 := by
  obtain ⟨hrx, hpart⟩ := partnerTold_told (p := p) (s := s) x
  exact ⟨(amFields_fld x (by cases p <;> decide) (by cases p <;> decide)).trans hrx,
    (amFields_fld x (by cases p <;> decide) (by cases p <;> decide)).trans hpart⟩

theorem amFields_lock (x : Nat) : (amFields p x s).fld (F.LN_STAT_LANE_LOCK p.ix) =
    if s.lnState p = 4 then s.fld (F.LN_STAT_LANE_LOCK p.ix) &&& (bits x 13 10 ||| bits x 29 26) else s.fld (F.LN_STAT_LANE_LOCK p.ix) := by
  have htold : (partnerTold p x s).fld (F.LN_STAT_LANE_LOCK p.ix) = s.fld (F.LN_STAT_LANE_LOCK p.ix) := by
    refine partnerTold_fld_apart x ?_ ?_ ?_ <;> cases p <;> decide
  rw [amFields_eq]
  by_cases h : s.lnState p = 4
  · rw [if_pos (trained_iff.mpr h), if_pos h, keepLanes_lock, htold]
  · rw [if_neg fun hc => h (trained_iff.mp hc), if_neg h, htold]

theorem amFields_lane (x : Nat) : ((amFields p x s).lane p).partnerNmask = bits x 29 26 ∧ ((amFields p x s).lane p).partnerByp = bits x 25 23 ∧
    ((amFields p x s).lane p).lastAm = some (bits x 22 18, bits x 55 32) ∧ ((amFields p x s).lane p).hasNbr = (s.lane p).hasNbr := by
  have htold : (partnerTold p x s).lane p = _ := Chip.lane_setLane_same ..
  rw [amFields_eq]
  split
  · rw [keepLanes_lane, htold]
    exact ⟨rfl, rfl, rfl, rfl⟩
  · rw [htold]
    exact ⟨rfl, rfl, rfl, rfl⟩

/-! ### GAP (R294) -/

/-- The gap that a port derives. -/
def Chip.gapNow (s : Chip) (p : Port) : Nat := if (s.lane p).hasNbr then s.gapOf p (s.fld (F.LN_STAT_NBR_ADDR p.ix)) else 7

theorem gapNow_lt (p : Port) (s : Chip) : s.gapNow p < 8 := by
  unfold Chip.gapNow Chip.gapOf
  split
  · exact Nat.lt_succ_of_le (Nat.min_le_left 7 _)
  · decide

theorem deriveGap_retains (p : Port) (s : Chip) : Retains [F.LN_STAT_GAP p.ix] s (deriveGap p s) := by
  have hset : Retains [F.LN_STAT_GAP p.ix] s (s.setFld (F.LN_STAT_GAP p.ix) (s.gapNow p)) :=
    (Retains.refl _ s).setFld _ (by simp) (by cases p <;> decide)
  unfold deriveGap
  extract_lets g s1
  split
  · exact hset.raise (by cases p <;> decide)
  · exact hset

theorem deriveGap_keeps (p : Port) (s : Chip) : Keeps [4 + p.ix] s (deriveGap p s) := by
  have hset : Keeps [4 + p.ix] s (s.setFld (F.LN_STAT_GAP p.ix) (s.gapNow p)) := Keeps.setFld _ _ _ _ (by cases p <;> decide) (by cases p <;> decide)
  unfold deriveGap
  extract_lets g s1
  split
  · exact hset.trans (raise_keeps _ _ (by cases p <;> decide) _)
  · exact hset

theorem deriveGap_gap (p : Port) (s : Chip) : (deriveGap p s).fld (F.LN_STAT_GAP p.ix) = s.gapNow p := by
  have hset : (s.setFld (F.LN_STAT_GAP p.ix) (s.gapNow p)).fld (F.LN_STAT_GAP p.ix) = s.gapNow p :=
    (Chip.fld_setFld_same _ _ _ (by cases p <;> decide) rfl).trans (Nat.mod_eq_of_lt (gapNow_lt p s))
  unfold deriveGap
  extract_lets g s1
  split
  · exact (raise_fld _ (by cases p <;> decide) _ _ (by cases p <;> decide)).trans hset
  · exact hset

theorem deriveGap_lane (p : Port) (s : Chip) (q : Port) : (deriveGap p s).lane q = s.lane q := by
  unfold deriveGap
  extract_lets g s1
  split
  · exact (raise_lane (by cases p <;> decide) q).trans (Chip.lane_setFld ..)
  · exact Chip.lane_setFld ..

/-- A gap of 3 to 6 that is new raises BYPASS_LIMIT. -/
theorem deriveGap_limit (h3 : 3 ≤ s.gapNow p) (h6 : s.gapNow p ≤ 6) (hnew : s.gapNow p ≠ s.fld (F.LN_STAT_GAP p.ix)) :
    (deriveGap p s).eventSeen (EV.LN_BYPASS_LIMIT p) = true := by
  have hlimit : deriveGap p s = raise (EV.LN_BYPASS_LIMIT p) (s.setFld (F.LN_STAT_GAP p.ix) (s.gapNow p)) := by
    refine if_pos ?_
    show (decide (3 ≤ s.gapNow p) && decide (s.gapNow p ≤ 6) && (s.gapNow p != s.fld (F.LN_STAT_GAP p.ix))) = true
    rw [decide_eq_true h3, decide_eq_true h6, bne_iff_ne.mpr hnew]
    rfl
  rw [hlimit]
  exact raise_seen _ (by cases p <;> decide) _

/-! ### A change of neighbour (R295) -/

/-- The marker is the device's own. -/
def Chip.ownMarker (s : Chip) (p : Port) (src nid : Nat) : Bool := src == s.addr && nid == s.fld (F.LN_NID_OWN_NID p.ix)

/-- The registers that name a neighbour. -/
def nameFlds (p : Port) : List Fld := [F.LN_STAT_NBR_ADDR p.ix, F.LN_NBR_NID_NID p.ix, F.LN_STAT_LOCAL p.ix]

/-- A neighbour is named, in the registers. -/
def nameRegs (p : Port) (src nid : Nat) (s : Chip) : Chip :=
  ((s.setFld (F.LN_STAT_NBR_ADDR p.ix) src).setFld (F.LN_NBR_NID_NID p.ix) nid).setFlag (F.LN_STAT_LOCAL p.ix) (s.ownMarker p src nid)

/-- A port that names itself is not usable. -/
def namedPort (p : Port) (src nid : Nat) (s : Chip) : Chip :=
  if s.ownMarker p src nid then
    (nameRegs p src nid s).setPort p { (nameRegs p src nid s).port p with usableAll := false }
  else nameRegs p src nid s

/-- A neighbour is named. -/
def named (p : Port) (src nid : Nat) (s : Chip) : Chip :=
  (namedPort p src nid s).setLane p { (namedPort p src nid s).lane p with hasNbr := true }

/-- The TIME exchanges of a port begin afresh. -/
def exchFresh (p : Port) (s : Chip) : Chip := s.setExch p { s.exch p with sent := none, restart := true, incons := 0, upRun := 0 }

/-- The neighbour that the device follows has changed. -/
def exchUp (p : Port) (s : Chip) : Chip := if s.upstream = some p then { s with net := { s.net with nbrUp := true } } else s

/-- A change of neighbour is counted and announced, and its TIME exchanges begin afresh. -/
def neighbourShown (p : Port) (s : Chip) : Chip := counted (EV.LN_NBR_CHANGE p) (F.LN_NBR_CNT_COUNT p.ix) (exchUp p (exchFresh p s))

variable {src nid : Nat}

theorem neighbourChange_eq (p : Port) (src nid : Nat) (s : Chip) : neighbourChange p src nid s =
    if (s.flag (F.LN_STAT_LOCAL p.ix) && !s.ownMarker p src nid && s.trained p) = true then
      linkUp p (neighbourShown p (deriveGap p (named p src nid s)))
    else neighbourShown p (deriveGap p (named p src nid s)) := rfl

theorem nameRegs_retains : Retains (nameFlds p) s (nameRegs p src nid s) :=
  (((Retains.refl _ s).setFld _ (by simp [nameFlds]) (by cases p <;> decide)).setFld _ (by simp [nameFlds]) (by cases p <;> decide)).setFld _
    (by simp [nameFlds]) (by cases p <;> decide)

theorem nameRegs_keeps : Keeps [4 + p.ix] s (nameRegs p src nid s) :=
  ((Keeps.setFld _ s (F.LN_STAT_NBR_ADDR p.ix) _ (by cases p <;> decide) (by cases p <;> decide)).trans
    (Keeps.setFld _ _ (F.LN_NBR_NID_NID p.ix) _ (by cases p <;> decide) (by cases p <;> decide))).trans
    (Keeps.setFld _ _ (F.LN_STAT_LOCAL p.ix) _ (by cases p <;> decide) (by cases p <;> decide))

theorem nameRegs_named (hsrc : src < 2 ^ 5) (hnid : nid < 2 ^ 24) : (nameRegs p src nid s).fld (F.LN_STAT_NBR_ADDR p.ix) = src ∧
    (nameRegs p src nid s).fld (F.LN_NBR_NID_NID p.ix) = nid ∧ (nameRegs p src nid s).flag (F.LN_STAT_LOCAL p.ix) = s.ownMarker p src nid := by
  refine ⟨?_, ?_, flag_setFlag_same _ _ _ (by cases p <;> decide) rfl⟩ <;> unfold nameRegs Chip.setFlag
  · rw [Chip.fld_setFld_apart _ _ _ _ (by cases p <;> decide) (by cases p <;> decide), Chip.fld_setFld_ne _ _ (by cases p <;> decide),
      Chip.fld_setFld_same _ _ _ (by cases p <;> decide) rfl]
    exact Nat.mod_eq_of_lt hsrc
  · rw [Chip.fld_setFld_ne _ _ (by cases p <;> decide), Chip.fld_setFld_same _ _ _ (by cases p <;> decide) rfl]
    exact Nat.mod_eq_of_lt hnid

theorem namedPort_fld (g : Fld) : (namedPort p src nid s).fld g = (nameRegs p src nid s).fld g := by
  unfold namedPort
  split
  · exact Chip.setPort_fld ..
  · rfl

theorem namedPort_keeps : Keeps [4 + p.ix] s (namedPort p src nid s) := by
  unfold namedPort
  split
  · exact nameRegs_keeps.trans (setPort_keeps _ _ p _)
  · exact nameRegs_keeps

theorem namedPort_retains : Retains (nameFlds p) s (namedPort p src nid s) := by
  unfold namedPort
  split
  · cases p <;> exact nameRegs_retains.same rfl rfl rfl
  · exact nameRegs_retains

theorem nameRegs_lane (q : Port) : (nameRegs p src nid s).lane q = s.lane q :=
  (Chip.lane_setFld ..).trans ((Chip.lane_setFld ..).trans (Chip.lane_setFld ..))

theorem namedPort_lane (q : Port) : (namedPort p src nid s).lane q = s.lane q := by
  unfold namedPort
  split
  · exact (Chip.lane_setPort ..).trans (nameRegs_lane q)
  · exact nameRegs_lane q

theorem named_fld (g : Fld) : (named p src nid s).fld g = (nameRegs p src nid s).fld g := (Chip.setLane_fld ..).trans (namedPort_fld g)

theorem named_keeps : Keeps [4 + p.ix] s (named p src nid s) := namedPort_keeps.trans (setLane_keeps _ _ p _)

theorem named_retains : Retains (nameFlds p) s (named p src nid s) := namedPort_retains.setLane p _

theorem named_lane : (named p src nid s).lane p = { s.lane p with hasNbr := true } := by
  unfold named
  rw [Chip.lane_setLane_same, namedPort_lane]

/-- The exchanges of a port are beside the registers and the lanes. -/
theorem exch_same (s : Chip) : (exchUp p (exchFresh p s)).regs = s.regs ∧ (exchUp p (exchFresh p s)).clk = s.clk ∧
    (exchUp p (exchFresh p s)).rst = s.rst ∧ (exchUp p (exchFresh p s)).cmd = s.cmd ∧ (exchUp p (exchFresh p s)).cdc = s.cdc ∧
    ∀ q, (exchUp p (exchFresh p s)).lane q = s.lane q := by
  unfold exchUp exchFresh
  split <;> (cases p <;> exact ⟨rfl, rfl, rfl, rfl, rfl, fun q => by cases q <;> rfl⟩)

theorem neighbourShown_retains (s : Chip) : Retains [F.LN_NBR_CNT_COUNT p.ix] s (neighbourShown p s) := by
  obtain ⟨hregs, -, hrst, -, hcdc, -⟩ := exch_same (p := p) s
  exact ((Retains.refl _ s).same hregs hrst hcdc).trans (counted_retains _ (by cases p <;> decide) (by cases p <;> decide))

theorem neighbourShown_keeps (s : Chip) : Keeps [4 + p.ix] s (neighbourShown p s) := by
  obtain ⟨hregs, hclk, hrst, hcmd, -, -⟩ := exch_same (p := p) s
  exact (Keeps.same hregs hclk hrst hcmd).trans (counted_keeps _ (by cases p <;> decide) (by cases p <;> decide) (by cases p <;> decide))

theorem neighbourShown_lane (s : Chip) (q : Port) : (neighbourShown p s).lane q = s.lane q := by
  obtain ⟨-, -, -, -, -, hlane⟩ := exch_same (p := p) s
  exact (counted_lane _ (by cases p <;> decide) q).trans (hlane q)

theorem neighbourShown_count (s : Chip) : (neighbourShown p s).fld (F.LN_NBR_CNT_COUNT p.ix) = satTo 32 (s.fld (F.LN_NBR_CNT_COUNT p.ix) + 1) := by
  obtain ⟨hregs, -⟩ := exch_same (p := p) s
  refine (raise_fld _ (by cases p <;> decide) _ _ (by cases p <;> decide)).trans ((Chip.fld_bump_word _).trans ?_)
  unfold Chip.fld
  rw [hregs]

theorem neighbourShown_seen (s : Chip) : (neighbourShown p s).eventSeen (EV.LN_NBR_CHANGE p) = true := raise_seen _ (by cases p <;> decide) _

/-! What a change of neighbour leaves. -/

/-- The fields that a change of neighbour touches. -/
def changeFlds (p : Port) : List Fld := nameFlds p ++ [F.LN_STAT_GAP p.ix, F.LN_NBR_CNT_COUNT p.ix, F.LN_TRAIN_CNT_COUNT p.ix]

/-- The port has named its neighbour, and derived its gap. -/
def gapDerived (p : Port) (src nid : Nat) (s : Chip) : Chip := deriveGap p (named p src nid s)

theorem neighbourChange_cases (p : Port) (src nid : Nat) (s : Chip) :
    neighbourChange p src nid s = neighbourShown p (gapDerived p src nid s) ∨
      neighbourChange p src nid s = linkUp p (neighbourShown p (gapDerived p src nid s)) := by
  rw [neighbourChange_eq]
  split
  · exact .inr rfl
  · exact .inl rfl

theorem neighbourChange_retains : Retains (changeFlds p) s (neighbourChange p src nid s) := by
  have hshown : Retains (changeFlds p) s (neighbourShown p (gapDerived p src nid s)) :=
    ((named_retains.mono fun _ hf => List.mem_append_left _ hf).trans ((deriveGap_retains p _).mono (by simp))).trans
      ((neighbourShown_retains _).mono (by simp))
  rcases neighbourChange_cases p src nid s with h | h <;> rw [h]
  · exact hshown
  · exact hshown.trans ((linkUp_retains p _).mono (by simp [changeFlds]))

theorem neighbourChange_keeps : Keeps [4 + p.ix] s (neighbourChange p src nid s) := by
  have hshown : Keeps [4 + p.ix] s (neighbourShown p (gapDerived p src nid s)) :=
    (named_keeps.trans (deriveGap_keeps p _)).trans (neighbourShown_keeps _)
  rcases neighbourChange_cases p src nid s with h | h <;> rw [h]
  · exact hshown
  · exact hshown.trans (linkUp_keeps p _)

theorem neighbourChange_lane : (neighbourChange p src nid s).lane p = { s.lane p with hasNbr := true } := by
  have hshown : (neighbourShown p (gapDerived p src nid s)).lane p = { s.lane p with hasNbr := true } :=
    (neighbourShown_lane _ p).trans ((deriveGap_lane p _ p).trans named_lane)
  rcases neighbourChange_cases p src nid s with h | h <;> rw [h]
  · exact hshown
  · exact (linkUp_lane p _ p).trans hshown

/-- The link comes up last: it counts in TRAIN_CNT alone. -/
theorem neighbourChange_fld_shown {g : Fld} (hw : 1 ≤ g.w) (hs : shipAddr g.addr = false) (hg : (F.LN_TRAIN_CNT_COUNT p.ix).apart g) :
    (neighbourChange p src nid s).fld g = (neighbourShown p (gapDerived p src nid s)).fld g := by
  rcases neighbourChange_cases p src nid s with h | h <;> rw [h]
  exact (linkUp_retains p _).fld g hw hs (by simpa using hg)

theorem neighbourChange_seen_shown {e : Nat} (he : e < 384) (hs : (neighbourShown p (gapDerived p src nid s)).eventSeen e = true) :
    (neighbourChange p src nid s).eventSeen e = true := by
  rcases neighbourChange_cases p src nid s with h | h <;> rw [h]
  · exact hs
  · exact (linkUp_retains p _).seen e he hs

theorem neighbourShown_fld_gap {g : Fld} (hw : 1 ≤ g.w) (hs : shipAddr g.addr = false) (hg : (F.LN_NBR_CNT_COUNT p.ix).apart g) :
    (neighbourShown p (gapDerived p src nid s)).fld g = (gapDerived p src nid s).fld g :=
  (neighbourShown_retains _).fld g hw hs (by simpa using hg)

theorem gapDerived_fld_named {g : Fld} (hw : 1 ≤ g.w) (hs : shipAddr g.addr = false) (hg : (F.LN_STAT_GAP p.ix).apart g) :
    (gapDerived p src nid s).fld g = (named p src nid s).fld g := (deriveGap_retains p _).fld g hw hs (by simpa using hg)

theorem neighbourChange_fld_named {g : Fld} (hw : 1 ≤ g.w) (hs : shipAddr g.addr = false) (htrain : (F.LN_TRAIN_CNT_COUNT p.ix).apart g)
    (hnbr : (F.LN_NBR_CNT_COUNT p.ix).apart g) (hgap : (F.LN_STAT_GAP p.ix).apart g) :
    (neighbourChange p src nid s).fld g = (nameRegs p src nid s).fld g :=
  (neighbourChange_fld_shown hw hs htrain).trans ((neighbourShown_fld_gap hw hs hnbr).trans ((gapDerived_fld_named hw hs hgap).trans (named_fld g)))

theorem neighbourChange_named (hsrc : src < 2 ^ 5) (hnid : nid < 2 ^ 24) : (neighbourChange p src nid s).fld (F.LN_STAT_NBR_ADDR p.ix) = src ∧
    (neighbourChange p src nid s).fld (F.LN_NBR_NID_NID p.ix) = nid ∧
    (neighbourChange p src nid s).flag (F.LN_STAT_LOCAL p.ix) = s.ownMarker p src nid := by
  obtain ⟨haddr, hid, hlocal⟩ := nameRegs_named (p := p) (s := s) hsrc hnid
  refine ⟨(neighbourChange_fld_named ?_ ?_ ?_ ?_ ?_).trans haddr, (neighbourChange_fld_named ?_ ?_ ?_ ?_ ?_).trans hid,
    (Chip.flag_congr (neighbourChange_fld_named ?_ ?_ ?_ ?_ ?_)).trans hlocal⟩ <;> cases p <;> decide

theorem neighbourChange_count : (neighbourChange p src nid s).fld (F.LN_NBR_CNT_COUNT p.ix) = satTo 32 (s.fld (F.LN_NBR_CNT_COUNT p.ix) + 1) := by
  have hnamed : (gapDerived p src nid s).fld (F.LN_NBR_CNT_COUNT p.ix) = s.fld (F.LN_NBR_CNT_COUNT p.ix) := by
    refine (gapDerived_fld_named ?_ ?_ ?_).trans (named_retains.fld _ ?_ ?_ ?_) <;> cases p <;> decide
  rw [neighbourChange_fld_shown (by cases p <;> decide) (by cases p <;> decide) (by cases p <;> decide), neighbourShown_count, hnamed]

theorem neighbourChange_seen : (neighbourChange p src nid s).eventSeen (EV.LN_NBR_CHANGE p) = true :=
  neighbourChange_seen_shown (by cases p <;> decide) (neighbourShown_seen _)

theorem neighbourChange_up (hlocal : s.flag (F.LN_STAT_LOCAL p.ix) = true) (hown : s.ownMarker p src nid = false) (hst : s.lnState p = 4) :
    (neighbourChange p src nid s).eventSeen (EV.LN_LINK_UP p) = true ∧
      (neighbourChange p src nid s).fld (F.LN_TRAIN_CNT_COUNT p.ix) = satTo 32 (s.fld (F.LN_TRAIN_CNT_COUNT p.ix) + 1) := by
  have hup : neighbourChange p src nid s = linkUp p (neighbourShown p (gapDerived p src nid s)) := by
    rw [neighbourChange_eq, hlocal, hown, trained_iff.mpr hst]
    rfl
  have hcount : (neighbourShown p (gapDerived p src nid s)).fld (F.LN_TRAIN_CNT_COUNT p.ix) = s.fld (F.LN_TRAIN_CNT_COUNT p.ix) := by
    refine (neighbourShown_fld_gap ?_ ?_ ?_).trans ((gapDerived_fld_named ?_ ?_ ?_).trans (named_retains.fld _ ?_ ?_ ?_)) <;> cases p <;> decide
  rw [hup]
  exact ⟨linkUp_seen p _, (linkUp_count p _).trans (by rw [hcount])⟩

theorem neighbourChange_gap : (neighbourChange p src nid s).fld (F.LN_STAT_GAP p.ix) = (named p src nid s).gapNow p := by
  refine ((neighbourChange_fld_shown ?_ ?_ ?_).trans (neighbourShown_fld_gap ?_ ?_ ?_)).trans (deriveGap_gap p _) <;> cases p <;> decide

theorem neighbourChange_limit (h3 : 3 ≤ (named p src nid s).gapNow p) (h6 : (named p src nid s).gapNow p ≤ 6)
    (hnew : (named p src nid s).gapNow p ≠ s.fld (F.LN_STAT_GAP p.ix)) :
    (neighbourChange p src nid s).eventSeen (EV.LN_BYPASS_LIMIT p) = true := by
  have hgap : (named p src nid s).fld (F.LN_STAT_GAP p.ix) = s.fld (F.LN_STAT_GAP p.ix) := by
    refine named_retains.fld _ ?_ ?_ ?_ <;> cases p <;> decide
  exact neighbourChange_seen_shown (by cases p <;> decide)
    ((neighbourShown_retains _).seen _ (by cases p <;> decide) (deriveGap_limit h3 h6 (by rwa [hgap])))

/-- The gap that a named neighbour gives (R294). -/
def gapFrom (p : Port) (own : Bool) (src a last : Nat) : Nat := min 7
  (if own then 0
  else match p with
    | .west => if src < a then a - src - 1 else 7
    | .east => if a < src then src - a - 1 else if src = 0 && decide (a ≤ last) then last - a else 7)

theorem named_gap (hsrc : src < 2 ^ 5) (hnid : nid < 2 ^ 24) : (named p src nid s).gapNow p =
    gapFrom p (s.ownMarker p src nid) src s.addr (s.fld (F.LN_CFG_LAST 0)) := by
  obtain ⟨haddr, -, hlocal⟩ := nameRegs_named (p := p) (s := s) hsrc hnid
  have hown : (named p src nid s).flag (F.LN_STAT_LOCAL p.ix) = s.ownMarker p src nid := (Chip.flag_congr (named_fld _)).trans hlocal
  have hstrap : (named p src nid s).addr = s.addr := named_retains.fld _ (by decide) (by decide) (by cases p <;> decide)
  have hlast : (named p src nid s).fld (F.LN_CFG_LAST 0) = s.fld (F.LN_CFG_LAST 0) :=
    named_retains.fld _ (by decide) (by decide) (by cases p <;> decide)
  unfold Chip.gapNow Chip.gapOf
  rw [named_lane, if_pos rfl, named_fld, haddr, hown, hstrap, hlast]
  rfl

end

end Sys2Proof.Machine
end

section
/-! PROOFS. Freezes, scans and lane modes (R286 to R288). -/

namespace Sys2Proof.Machine

section
variable {p : Port} {k : Nat} {s t u : Chip}

/-! ### ADAPT_FREEZE -/

/-- A lane's adaptation is frozen, with a window that starts afresh. -/
def frozenLane (p : Port) (k : Nat) (s : Chip) : Chip :=
  setLine p k { s.lineOf p k with slots := 0, toggles := 0 } (setLaneOne p k { s.laneOne p k with frozen := true } s)

theorem adaptFreeze_of_frozen (h : ¬ ((s.lnState p = 2 ∨ s.lnState p = 4) ∧ (s.laneOne p k).frozen = false)) : adaptFreeze p k s = s := by
  refine if_neg fun hc => h ?_
  rw [Bool.and_eq_true, Bool.or_eq_true, decide_eq_true_eq, Bool.not_eq_true'] at hc
  exact ⟨hc.1.imp_right trained_iff.mp, hc.2⟩

theorem adaptFreeze_of_adapts (hst : s.lnState p = 2 ∨ s.lnState p = 4) (h : (s.laneOne p k).frozen = false) :
    adaptFreeze p k s = counted (EV.LN_ADAPT_FREEZE p) (freezeF p k) (frozenLane p k s) := by
  refine (if_pos ?_).trans ?_
  · rw [Bool.and_eq_true, Bool.or_eq_true, decide_eq_true_eq, Bool.not_eq_true']
    exact ⟨hst.imp_right trained_iff.mpr, h⟩
  · cases p <;> rfl

theorem frozenLane_heard (p : Port) (k : Nat) (s : Chip) : LineHeard p s (frozenLane p k s) := ((LineHeard.refl p s).setLaneOne _).setLine p _

theorem raise_line {e : Nat} (he : e < 384) (s : Chip) : (raise e s).line = s.line := (raise_ships e he s).line

theorem counted_lineOf {e : Nat} {f : Fld} (he : e < 384) (s : Chip) (j : Nat) : (counted e f s).lineOf p j = s.lineOf p j :=
  congrArg (fun x => Table.get LineSt.rest x (4 * p.ix + j)) (raise_line he (s.bump f))

theorem counted_fld_same {e : Nat} {f : Fld} (he : e < 384) (hf : LaneCounter p f) (s : Chip) : (counted e f s).fld f = satTo f.w (s.fld f + 1) :=
  (raise_fld e he _ _ hf.shape.2.1).trans (Chip.fld_bump_same s f hf.fits hf.direct)

theorem counted_fld_other {e : Nat} {f g : Fld} (he : e < 384) (s : Chip) (ha : announceAddr g.addr = false) (hne : g.addr ≠ f.addr) :
    (counted e f s).fld g = s.fld g := (raise_fld e he _ _ ha).trans (Chip.fld_bump_ne s hne)

theorem counted_lane_keeps {e : Nat} {f : Fld} (he : e < 384) (hf : LaneCounter p f) (s : Chip) : Keeps [4 + p.ix] s (counted e f s) :=
  counted_keeps s he hf.page.pages.1 hf.page.pages.2

theorem lnStat_ne_lane {f : Fld} (hf : LaneCounter p f) : 0x4004 + 4096 * p.ix ≠ f.addr := by
  obtain ⟨j, -, hlo, -⟩ := hf.lane
  omega

/-- What an ADAPT_FREEZE leaves. -/
theorem adaptFreeze_freezes (hk : k < 4) (hst : s.lnState p = 2 ∨ s.lnState p = 4) (h : (s.laneOne p k).frozen = false) :
    Keeps [4 + p.ix] s (adaptFreeze p k s) ∧ (adaptFreeze p k s).lnState p = s.lnState p ∧
      (adaptFreeze p k s).fld (freezeF p k) = satTo 16 (s.fld (freezeF p k) + 1) ∧ (adaptFreeze p k s).eventSeen (EV.LN_ADAPT_FREEZE p) = true ∧
      ((adaptFreeze p k s).lineOf p k).slots = 0 ∧ ((adaptFreeze p k s).lineOf p k).toggles = 0 ∧
      (k < (s.lane p).lanes.length → ((adaptFreeze p k s).laneOne p k).frozen = true) := by
  have hev : EV.LN_ADAPT_FREEZE p < 384 := by cases p <;> decide
  have hf : LaneCounter p (freezeF p k) := laneF_counter p hk (by decide) (by decide) (by decide)
  have hheard := frozenLane_heard p k s
  rw [adaptFreeze_of_adapts hst h]
  refine ⟨(hheard.keeps _).trans (counted_lane_keeps hev hf _), ?_, (counted_fld_same hev hf _).trans (by rw [hheard.fld]; rfl),
    raise_seen _ hev _, ?_, ?_, fun hlen => ?_⟩
  · exact (counted_fld_other hev _ (by cases p <;> decide) (lnStat_ne_lane hf)).trans (hheard.fld _)
  · rw [counted_lineOf hev]
    exact congrArg LineSt.slots (setLine_lineOf _)
  · rw [counted_lineOf hev]
    exact congrArg LineSt.toggles (setLine_lineOf _)
  · rw [laneOne_of_lane (counted_lane _ hev p)]
    unfold frozenLane
    rw [laneOne_of_lane (setLine_lane _ p), laneOne_setLaneOne hlen]

/-! ### Lane modes (R288) -/

theorem laneNarrow_of_wide (h : ¬ (s.lnState p = 4 ∧ (s.lane p).narrowing = true)) : laneNarrow p s = s := by
  refine if_neg fun hc => h ?_
  rw [Bool.and_eq_true] at hc
  exact ⟨trained_iff.mp hc.1, hc.2⟩

/-- A port sends on the lanes of a mask, and its change of lanes is over. -/
def modeDone (p : Port) (mask : Nat) (s : Chip) : Chip := (s.setFld (F.LN_STAT_LMASK_TX p.ix) mask).setFlag (F.LN_STAT_MODE_BUSY p.ix) false

theorem modeDone_keeps (mask : Nat) (s : Chip) : Keeps [4 + p.ix] s (modeDone p mask s) :=
  (Keeps.setFld _ s (F.LN_STAT_LMASK_TX p.ix) _ (by cases p <;> decide) (by cases p <;> decide)).trans
    (Keeps.setFld _ _ (F.LN_STAT_MODE_BUSY p.ix) _ (by cases p <;> decide) (by cases p <;> decide))

theorem modeDone_lane (mask : Nat) (s : Chip) (q : Port) : (modeDone p mask s).lane q = s.lane q := (Chip.lane_setFld ..).trans (Chip.lane_setFld ..)

theorem modeDone_mask {mask : Nat} (h : mask < 16) (s : Chip) : (modeDone p mask s).fld (F.LN_STAT_LMASK_TX p.ix) = mask :=
  (Chip.fld_setFld_apart _ _ _ _ (by cases p <;> decide) (by cases p <;> decide)).trans
    ((Chip.fld_setFld_same _ _ _ (by cases p <;> decide) rfl).trans (Nat.mod_eq_of_lt h))

theorem modeDone_busy (mask : Nat) (s : Chip) : (modeDone p mask s).flag (F.LN_STAT_MODE_BUSY p.ix) = false :=
  flag_setFlag_same _ _ _ (by cases p <;> decide) rfl

theorem modeDone_state (mask : Nat) (s : Chip) : (modeDone p mask s).lnState p = s.lnState p :=
  (Chip.fld_setFld_apart _ _ (F.LN_STAT_STATE p.ix) _ (by cases p <;> decide) (by cases p <;> decide)).trans
    (Chip.fld_setFld_apart _ _ (F.LN_STAT_STATE p.ix) _ (by cases p <;> decide) (by cases p <;> decide))

theorem laneNarrow_of_narrowing (hst : s.lnState p = 4) (h : (s.lane p).narrowing = true) :
    laneNarrow p s = modeDone p 1 (s.setLane p { s.lane p with narrowing := false }) :=
  (if_pos (by rw [trained_iff.mpr hst, h]; rfl)).trans rfl

theorem laneNarrow_narrows (hst : s.lnState p = 4) (h : (s.lane p).narrowing = true) : Keeps [4 + p.ix] s (laneNarrow p s) ∧
    (laneNarrow p s).trained p = true ∧ (laneNarrow p s).fld (F.LN_STAT_LMASK_TX p.ix) = 1 ∧
    (laneNarrow p s).flag (F.LN_STAT_MODE_BUSY p.ix) = false ∧ ((laneNarrow p s).lane p).narrowing = false ∧
    (laneNarrow p s).lane p.other = s.lane p.other := by
  rw [laneNarrow_of_narrowing hst h]
  refine ⟨(setLane_keeps _ s p _).trans (modeDone_keeps 1 _), trained_iff.mpr ?_, modeDone_mask (by decide) _, modeDone_busy 1 _, ?_, ?_⟩
  · exact (modeDone_state 1 _).trans ((Chip.setLane_fld ..).trans hst)
  · rw [modeDone_lane, Chip.lane_setLane_same]
  · rw [modeDone_lane, Chip.lane_setLane_other]

/-- The transmitter waits for the lanes of a widening. -/
theorem widening_iff : s.widening p = true ↔ s.lnState p = 4 ∧ s.fld (F.LN_STAT_LMASK_TX p.ix) = 1 ∧ (s.lane p).nmask = 15 := by
  unfold Chip.widening
  rw [Bool.and_eq_true, Bool.and_eq_true, beq_iff_eq, beq_iff_eq, trained_iff, and_assoc]

theorem laneWiden_of_widens (h : s.widening p = true) (hok : s.fld (F.LN_STAT_RXOK_PART p.ix) = 15) : laneWiden p s = modeDone p 15 s :=
  (if_pos (by rw [h, hok]; rfl)).trans rfl

theorem laneWiden_of_waits (h : ¬ (s.widening p = true ∧ s.fld (F.LN_STAT_RXOK_PART p.ix) = 15)) : laneWiden p s = s := by
  refine if_neg fun hc => h ?_
  rwa [Bool.and_eq_true, beq_iff_eq] at hc

theorem laneWiden_widens (h : s.widening p = true) (hok : s.fld (F.LN_STAT_RXOK_PART p.ix) = 15) : Keeps [4 + p.ix] s (laneWiden p s) ∧
    (laneWiden p s).trained p = true ∧ (laneWiden p s).fld (F.LN_STAT_LMASK_TX p.ix) = 15 ∧
    (laneWiden p s).flag (F.LN_STAT_MODE_BUSY p.ix) = false ∧ (laneWiden p s).lane p = s.lane p ∧
    (laneWiden p s).lane p.other = s.lane p.other := by
  rw [laneWiden_of_widens h hok]
  exact ⟨modeDone_keeps 15 s, trained_iff.mpr ((modeDone_state 15 s).trans (widening_iff.mp h).1), modeDone_mask (by decide) s, modeDone_busy 15 s,
    modeDone_lane 15 s p, modeDone_lane 15 s p.other⟩

theorem modeTimeout_of_narrow (h : s.widening p = false) : modeTimeout p s = s := if_neg (by rw [h]; decide)

theorem modeTimeout_of_widening (h : s.widening p = true) : modeTimeout p s =
    raise (EV.LN_MODE_TIMEOUT p) ((s.setLane p { s.lane p with nmask := 1 }).setFlag (F.LN_STAT_MODE_BUSY p.ix) false) := if_pos h

theorem modeTimeout_times_out (h : s.widening p = true) : Keeps [4 + p.ix] s (modeTimeout p s) ∧ (modeTimeout p s).trained p = true ∧
    (modeTimeout p s).fld (F.LN_STAT_LMASK_TX p.ix) = 1 ∧ (modeTimeout p s).flag (F.LN_STAT_MODE_BUSY p.ix) = false ∧
    ((modeTimeout p s).lane p).nmask = 1 ∧ (modeTimeout p s).eventSeen (EV.LN_MODE_TIMEOUT p) = true := by
  have hev : EV.LN_MODE_TIMEOUT p < 384 := by cases p <;> decide
  obtain ⟨hst, hmask, -⟩ := widening_iff.mp h
  have hfld : ∀ g, announceAddr g.addr = false → (F.LN_STAT_MODE_BUSY p.ix).apart g → 1 ≤ g.w → (modeTimeout p s).fld g = s.fld g :=
    fun g ha hg hw => by
      rw [modeTimeout_of_widening h]
      exact (raise_fld _ hev _ _ ha).trans ((Chip.fld_setFld_apart _ _ _ _ hg hw).trans (Chip.setLane_fld ..))
  refine ⟨?_, trained_iff.mpr ((hfld _ ?_ ?_ ?_).trans hst), (hfld _ ?_ ?_ ?_).trans hmask, ?_, ?_, ?_⟩
  case refine_1 =>
    rw [modeTimeout_of_widening h]
    exact ((setLane_keeps _ s p _).trans (Keeps.setFld _ _ (F.LN_STAT_MODE_BUSY p.ix) _ (by cases p <;> decide) (by cases p <;> decide))).trans
      (raise_keeps _ _ hev _)
  case refine_8 =>
    rw [modeTimeout_of_widening h]
    exact (Chip.flag_congr (raise_fld _ hev _ _ (by cases p <;> decide))).trans (flag_setFlag_same _ _ _ (by cases p <;> decide) rfl)
  case refine_9 =>
    rw [modeTimeout_of_widening h, raise_lane hev]
    exact congrArg LaneSt.nmask ((Chip.lane_setFld ..).trans (Chip.lane_setLane_same ..))
  case refine_10 =>
    rw [modeTimeout_of_widening h]
    exact raise_seen _ hev _
  all_goals cases p <;> decide

end

end Sys2Proof.Machine
end

section
/-! PROOFS. BELVEDERE_SCAN (R285, R287): the eye, the last-good taps and their restoration. -/

namespace Sys2Proof.Machine

section
variable {p : Port} {k ew eh : Nat} {s t u : Chip}

theorem laneF_addr_off {off off' lo w lo' w' : Nat} (h : off ≠ off' := by decide) : (laneF p k off lo w).addr ≠ (laneF p k off' lo' w').addr := by
  show 0x4020 + 0x1000 * p.ix + 32 * k + off ≠ 0x4020 + 0x1000 * p.ix + 32 * k + off'
  omega

/-- The eye that a scan found. -/
def eyeSet (p : Port) (k ew eh : Nat) (s : Chip) : Chip := (s.setFld (ewF p k) ew).setFld (ehF p k) eh

/-- A scan's eye is low, or not. -/
def eyeLow (p : Port) (low : Bool) (s : Chip) : Chip := if low then raise (EV.LN_EYE_LOW p) s else s

/-- A scan finds the eye below its least width. -/
def Chip.eyeBelow (s : Chip) (p : Port) (ew : Nat) : Bool := decide (ew < s.fld (F.LN_ADAPT_EW_MIN p.ix))

/-- The last-good taps are restored. -/
def restored (p : Port) (k : Nat) (s : Chip) : Chip :=
  counted (EV.LN_TAP_RESTORE p) (restoreF p k) (s.setFld (eqF p k) (eqWord (s.flag (F.LN_ADAPT_DFE_EN p.ix)) true 0 (s.fld (lkgF p k))))

theorem eyeLow_keeps (low : Bool) (s : Chip) : Keeps [4 + p.ix] s (eyeLow p low s) := by
  unfold eyeLow
  split
  · exact raise_keeps _ _ (by cases p <;> decide) s
  · exact .refl _ s

theorem eyeLow_fld (low : Bool) (s : Chip) {f : Fld} (ha : announceAddr f.addr = false) : (eyeLow p low s).fld f = s.fld f := by
  unfold eyeLow
  split
  · exact raise_fld _ (by cases p <;> decide) s f ha
  · rfl

theorem eyeLow_lane (low : Bool) (s : Chip) (q : Port) : (eyeLow p low s).lane q = s.lane q := by
  unfold eyeLow
  split
  · exact raise_lane (by cases p <;> decide) q
  · rfl

theorem eyeLow_seen (s : Chip) : (eyeLow p true s).eventSeen (EV.LN_EYE_LOW p) = true := raise_seen _ (by cases p <;> decide) s

/-! ### What a scan leaves, before its eye is judged -/

/-- What every scan leaves. -/
structure EyeKept (p : Port) (k ew eh : Nat) (new : LaneOne) (s t : Chip) : Prop where
  keeps : Keeps [4 + p.ix] s t
  state : t.lnState p = s.lnState p
  ew : t.fld (ewF p k) = ew
  eh : t.fld (ehF p k) = eh
  one : k < (s.lane p).lanes.length → t.laneOne p k = new

/-- The current taps have become the last-good ones. -/
structure TapsSaved (p : Port) (k ew : Nat) (s t : Chip) : Prop where
  lastGood : (t.lane p).lastGood = (s.lane p).lastGood.set k (some (s.fld (eqF p k)))
  lg : t.fld (lgF p k) = ew
  lkg : t.fld (lkgF p k) = s.fld (eqF p k)
  eq : t.fld (eqF p k) = s.fld (eqF p k)

/-- The last-good taps stand. -/
structure TapsHeld (p : Port) (k : Nat) (s t : Chip) : Prop where
  lg : t.fld (lgF p k) = s.fld (lgF p k)
  lkg : t.fld (lkgF p k) = s.fld (lkgF p k)

theorem lane_counters (hk : k < 4) : LaneCounter p (ewF p k) ∧ LaneCounter p (ehF p k) ∧ LaneCounter p (lgF p k) ∧ LaneCounter p (lkgF p k) ∧
    LaneCounter p (eqF p k) ∧ LaneCounter p (restoreF p k) := by
  refine ⟨laneF_counter p hk ?_ ?_ ?_, laneF_counter p hk ?_ ?_ ?_, laneF_counter p hk ?_ ?_ ?_, laneF_counter p hk ?_ ?_ ?_,
    laneF_counter p hk ?_ ?_ ?_, laneF_counter p hk ?_ ?_ ?_⟩ <;> decide

theorem LaneCounter.set_keeps {f : Fld} (hf : LaneCounter p f) (v : Nat) (s : Chip) : Keeps [4 + p.ix] s (s.setFld f v) :=
  Keeps.setFld _ s f v hf.page.pages.1 hf.page.pages.2

theorem LaneCounter.set_state {f : Fld} (hf : LaneCounter p f) (v : Nat) (s : Chip) : (s.setFld f v).lnState p = s.lnState p :=
  Chip.fld_setFld_ne s v (lnStat_ne_lane hf)

theorem eyeSet_keeps (hk : k < 4) (s : Chip) : Keeps [4 + p.ix] s (eyeSet p k ew eh s) :=
  have ⟨hew, heh, _⟩ := lane_counters (p := p) hk
  (hew.set_keeps ew s).trans (heh.set_keeps eh _)

theorem eyeSet_state (hk : k < 4) (s : Chip) : (eyeSet p k ew eh s).lnState p = s.lnState p :=
  have ⟨hew, heh, _⟩ := lane_counters (p := p) hk
  (heh.set_state eh _).trans (hew.set_state ew s)

theorem eyeSet_lane (s : Chip) (q : Port) : (eyeSet p k ew eh s).lane q = s.lane q := (Chip.lane_setFld ..).trans (Chip.lane_setFld ..)

theorem eyeSet_eye (hew : ew < 65) (heh : eh < 33) (s : Chip) : (eyeSet p k ew eh s).fld (ewF p k) = ew ∧ (eyeSet p k ew eh s).fld (ehF p k) = eh := by
  constructor
  · refine (Chip.fld_setFld_apart _ (ehF p k) (ewF p k) eh (.inr (.inl (show 8 + 8 ≤ 16 by decide))) (show 1 ≤ 8 by decide)).trans ?_
    refine (Chip.fld_setFld_same s (ewF p k) ew ⟨show 1 ≤ 8 by decide, show 16 + 8 ≤ 32 by decide⟩ rfl).trans ?_
    exact Nat.mod_eq_of_lt (lt_trans hew (show 65 < 2 ^ 8 by decide))
  · refine (Chip.fld_setFld_same _ (ehF p k) eh ⟨show 1 ≤ 8 by decide, show 8 + 8 ≤ 32 by decide⟩ rfl).trans ?_
    exact Nat.mod_eq_of_lt (lt_trans heh (show 33 < 2 ^ 8 by decide))

theorem eyeSet_fld_ne {g : Fld} (hg : g.addr ≠ (ewF p k).addr) : (eyeSet p k ew eh s).fld g = s.fld g :=
  (Chip.fld_setFld_ne _ _ (f := ehF p k) hg).trans (Chip.fld_setFld_ne _ _ hg)

theorem eyeSet_lg : (eyeSet p k ew eh s).fld (lgF p k) = s.fld (lgF p k) :=
  (Chip.fld_setFld_apart _ (ehF p k) (lgF p k) eh (.inr (.inl (show 8 + 8 ≤ 24 by decide))) (show 1 ≤ 8 by decide)).trans
    (Chip.fld_setFld_apart _ (ewF p k) (lgF p k) ew (.inr (.inl (show 16 + 8 ≤ 24 by decide))) (show 1 ≤ 8 by decide))

theorem eyeSet_held : TapsHeld p k s (eyeSet p k ew eh s) ∧ (eyeSet p k ew eh s).fld (eqF p k) = s.fld (eqF p k) :=
  ⟨⟨eyeSet_lg, eyeSet_fld_ne laneF_addr_off⟩, eyeSet_fld_ne laneF_addr_off⟩

/-- The eye with a lane state. -/
theorem eyeSet_kept (hk : k < 4) (hew : ew < 65) (heh : eh < 33) (new : LaneOne) (s : Chip) :
    EyeKept p k ew eh new s (setLaneOne p k new (eyeSet p k ew eh s)) where
  keeps := (eyeSet_keeps hk s).trans (setLaneOne_keeps _ _)
  state := (setLaneOne_fld ..).trans (eyeSet_state hk s)
  ew := (setLaneOne_fld ..).trans (eyeSet_eye hew heh s).1
  eh := (setLaneOne_fld ..).trans (eyeSet_eye hew heh s).2
  one hlen := laneOne_setLaneOne (by rwa [eyeSet_lane]) new

theorem saveTaps_eq (p : Port) (k ew : Nat) (s : Chip) : ∃ x : LaneSt, x = { s.lane p with lastGood := (s.lane p).lastGood.set k (some (s.fld (eqF p k))) } ∧
    saveTaps p k ew s = (((s.setLane p x).setFld (lkgF p k) (s.fld (eqF p k))).setFld (lgF p k) ew) :=
  ⟨_, rfl, by cases p <;> rfl⟩

theorem saveTaps_keeps (hk : k < 4) (s : Chip) : Keeps [4 + p.ix] s (saveTaps p k ew s) := by
  obtain ⟨x, -, h⟩ := saveTaps_eq p k ew s
  obtain ⟨-, -, hlg, hlkg, -⟩ := lane_counters (p := p) hk
  rw [h]
  exact ((setLane_keeps _ s p x).trans (hlkg.set_keeps _ _)).trans (hlg.set_keeps _ _)

theorem saveTaps_fld {g : Fld} (hw : 1 ≤ g.w) (hlkg : g.addr ≠ (lkgF p k).addr) (hlg : (lgF p k).apart g) :
    (saveTaps p k ew s).fld g = s.fld g := by
  obtain ⟨x, -, h⟩ := saveTaps_eq p k ew s
  rw [h, Chip.fld_setFld_apart _ _ _ _ hlg hw, Chip.fld_setFld_ne _ _ hlkg, Chip.setLane_fld]

theorem saveTaps_lane (s : Chip) : (saveTaps p k ew s).lane p =
    { s.lane p with lastGood := (s.lane p).lastGood.set k (some (s.fld (eqF p k))) } := by
  obtain ⟨x, hx, h⟩ := saveTaps_eq p k ew s
  rw [h, Chip.lane_setFld, Chip.lane_setFld, Chip.lane_setLane_same, hx]

theorem saveTaps_saved (hew : ew < 65) (s : Chip) : TapsSaved p k ew s (saveTaps p k ew s) where
  lastGood := by rw [saveTaps_lane]
  lg := by
    obtain ⟨x, -, h⟩ := saveTaps_eq p k ew s
    rw [h]
    refine (Chip.fld_setFld_same _ (lgF p k) ew ⟨show 1 ≤ 8 by decide, show 24 + 8 ≤ 32 by decide⟩ rfl).trans ?_
    exact Nat.mod_eq_of_lt (lt_trans hew (show 65 < 2 ^ 8 by decide))
  lkg := by
    obtain ⟨x, -, h⟩ := saveTaps_eq p k ew s
    rw [h, Chip.fld_setFld_ne _ (f := lgF p k) (g := lkgF p k) _ laneF_addr_off, Chip.fld_setFld_word]
    exact Nat.mod_eq_of_lt (fld_lt s (eqF p k) ⟨show 1 ≤ 32 by decide, show 0 + 32 ≤ 32 by decide⟩)
  eq := saveTaps_fld (show 1 ≤ 32 by decide) laneF_addr_off (.inl laneF_addr_off)

/-- The taps that a scan saves are those before it. -/
theorem saveTaps_eyeSet (hew : ew < 65) (new : LaneOne) (s : Chip) :
    TapsSaved p k ew s (setLaneOne p k new (saveTaps p k ew (eyeSet p k ew eh s))) := by
  obtain ⟨hgood, hlg, hlkg, heq⟩ := saveTaps_saved (p := p) (k := k) hew (eyeSet p k ew eh s)
  have heq0 : (eyeSet p k ew eh s).fld (eqF p k) = s.fld (eqF p k) := eyeSet_fld_ne laneF_addr_off
  rw [eyeSet_lane, heq0] at hgood
  exact ⟨by rw [setLaneOne_lane]; exact hgood, (setLaneOne_fld ..).trans hlg, (setLaneOne_fld ..).trans (hlkg.trans heq0),
    (setLaneOne_fld ..).trans (heq.trans heq0)⟩

theorem saveTaps_kept (hk : k < 4) (hew : ew < 65) (heh : eh < 33) (new : LaneOne) (s : Chip) :
    EyeKept p k ew eh new s (setLaneOne p k new (saveTaps p k ew (eyeSet p k ew eh s))) where
  keeps := ((eyeSet_keeps hk s).trans (saveTaps_keeps hk _)).trans (setLaneOne_keeps _ _)
  state := (setLaneOne_fld ..).trans ((saveTaps_fld (g := F.LN_STAT_STATE p.ix) (show 1 ≤ 4 by decide)
    (lnStat_ne_lane (lane_counters (p := p) hk).2.2.2.1) (.inl (lnStat_ne_lane (lane_counters (p := p) hk).2.2.1).symm)).trans (eyeSet_state hk s))
  ew := (setLaneOne_fld ..).trans ((saveTaps_fld (show 1 ≤ 8 by decide) laneF_addr_off
    (.inr (.inr (show 16 + 8 ≤ 24 by decide)))).trans (eyeSet_eye hew heh s).1)
  eh := (setLaneOne_fld ..).trans ((saveTaps_fld (show 1 ≤ 8 by decide) laneF_addr_off
    (.inr (.inr (show 8 + 8 ≤ 24 by decide)))).trans (eyeSet_eye hew heh s).2)
  one hlen := by
    refine laneOne_setLaneOne ?_ new
    rw [saveTaps_lane, eyeSet_lane]
    exact hlen

/-! ### The restoration of taps -/

theorem restored_keeps (hk : k < 4) (s : Chip) : Keeps [4 + p.ix] s (restored p k s) :=
  have ⟨_, _, _, _, heq, hres⟩ := lane_counters (p := p) hk
  (heq.set_keeps _ s).trans (counted_lane_keeps (by cases p <;> decide) hres _)

theorem restored_fld {g : Fld} (ha : announceAddr g.addr = false) (heq : g.addr ≠ (eqF p k).addr) (hres : g.addr ≠ (restoreF p k).addr) :
    (restored p k s).fld g = s.fld g := (counted_fld_other (by cases p <;> decide) _ ha hres).trans (Chip.fld_setFld_ne _ _ heq)

theorem restored_lane (s : Chip) (q : Port) : (restored p k s).lane q = s.lane q :=
  (counted_lane _ (by cases p <;> decide) q).trans (Chip.lane_setFld ..)

theorem restored_taps (hk : k < 4) (s : Chip) : bits ((restored p k s).fld (eqF p k)) 31 28 = bits (s.fld (lkgF p k)) 31 28 ∧
    bits ((restored p k s).fld (eqF p k)) 27 0 = (if s.flag (F.LN_ADAPT_DFE_EN p.ix) then bits (s.fld (lkgF p k)) 27 0 else 0) := by
  have hword : (restored p k s).fld (eqF p k) = eqWord (s.flag (F.LN_ADAPT_DFE_EN p.ix)) true 0 (s.fld (lkgF p k)) := by
    refine (counted_fld_other (by cases p <;> decide) _ (lane_counters (p := p) hk).2.2.2.2.1.shape.2.1 laneF_addr_off).trans ?_
    rw [Chip.fld_setFld_word]
    exact Nat.mod_eq_of_lt (eqWord_lt ..)
  rw [hword]
  exact bits_eqWord ..

theorem restored_count (hk : k < 4) (s : Chip) : (restored p k s).fld (restoreF p k) = satTo 16 (s.fld (restoreF p k) + 1) := by
  refine (counted_fld_same (by cases p <;> decide) (lane_counters (p := p) hk).2.2.2.2.2 _).trans ?_
  rw [Chip.fld_setFld_ne _ (f := eqF p k) (g := restoreF p k) _ laneF_addr_off]
  rfl

theorem restored_seen (s : Chip) : (restored p k s).eventSeen (EV.LN_TAP_RESTORE p) = true := raise_seen _ (by cases p <;> decide) _

end

end Sys2Proof.Machine
end

section
/-! PROOFS. The cases of BELVEDERE_SCAN, and the rows of markers, scans and modes (O54). -/

namespace Sys2Proof.Machine

section
variable {p : Port} {k ew eh : Nat} {s t u : Chip}

theorem belvedere_of_off (h : ¬ (s.lnState p = 4 ∧ s.rxLane p k = true)) : belvedere p k ew eh s = s := by
  refine if_pos ?_
  rw [Bool.or_eq_true, Bool.not_eq_true', Bool.not_eq_true', ← Bool.not_eq_true, ← Bool.not_eq_true, trained_iff]
  exact not_and_or.mp h

theorem belvedere_on (hst : s.lnState p = 4) (hrx : s.rxLane p k = true) : ¬ (!s.trained p || !s.rxLane p k) = true := by
  rw [trained_iff.mpr hst, hrx]
  decide

/-- The first scan of a lane saves its taps. -/
theorem belvedere_of_first (hst : s.lnState p = 4) (hrx : s.rxLane p k = true) (h : (s.laneOne p k).scanned = false) : belvedere p k ew eh s =
    eyeLow p (s.eyeBelow p ew) (setLaneOne p k { s.laneOne p k with scanned := true, fell := false } (saveTaps p k ew (eyeSet p k ew eh s))) :=
  (if_neg (belvedere_on hst hrx)).trans (if_pos (by rw [h]; rfl))

theorem scanned_not {b : Bool} (h : b = true) : ¬ (!b) = true := by rw [h]; decide

/-- An eye that did not fall saves the taps, unless they are frozen. -/
theorem belvedere_of_fine (hst : s.lnState p = 4) (hrx : s.rxLane p k = true) (h : (s.laneOne p k).scanned = true)
    (hfall : ¬ 5 * ew < 4 * s.fld (lgF p k)) : belvedere p k ew eh s = eyeLow p (s.eyeBelow p ew)
      (setLaneOne p k { s.laneOne p k with fell := false }
        (if (s.laneOne p k).frozen then eyeSet p k ew eh s else saveTaps p k ew (eyeSet p k ew eh s))) :=
  (if_neg (belvedere_on hst hrx)).trans ((if_neg (scanned_not h)).trans (if_pos (not_lt.mp hfall)))

/-- An eye that fell twice in a row saves the taps. -/
theorem belvedere_of_fell (hst : s.lnState p = 4) (hrx : s.rxLane p k = true) (h : (s.laneOne p k).scanned = true)
    (hfall : 5 * ew < 4 * s.fld (lgF p k)) (hfell : (s.laneOne p k).fell = true) : belvedere p k ew eh s =
      eyeLow p true (setLaneOne p k { s.laneOne p k with fell := false } (saveTaps p k ew (eyeSet p k ew eh s))) :=
  (if_neg (belvedere_on hst hrx)).trans ((if_neg (scanned_not h)).trans ((if_neg (not_le.mpr hfall)).trans (if_pos hfell)))

/-- The eye falls: the last-good taps may be restored. -/
def eyeFalls (p : Port) (k ew eh : Nat) (s : Chip) : Chip := setLaneOne p k { s.laneOne p k with fell := true } (eyeSet p k ew eh s)

theorem belvedere_of_falls (hst : s.lnState p = 4) (hrx : s.rxLane p k = true) (h : (s.laneOne p k).scanned = true)
    (hfall : 5 * ew < 4 * s.fld (lgF p k)) (hfell : (s.laneOne p k).fell = false) : belvedere p k ew eh s = eyeLow p (s.eyeBelow p ew)
      (if s.flag (F.LN_ADAPT_RESTORE_EN p.ix) then restored p k (eyeFalls p k ew eh s) else eyeFalls p k ew eh s) :=
  (if_neg (belvedere_on hst hrx)).trans ((if_neg (scanned_not h)).trans ((if_neg (not_le.mpr hfall)).trans
    (if_neg (by rw [hfell]; decide))))

/-- The lane's state after a scan. -/
def scannedLane (p : Port) (k ew : Nat) (s : Chip) : LaneOne :=
  { s.laneOne p k with
    scanned := true, fell := (s.laneOne p k).scanned && decide (5 * ew < 4 * s.fld (lgF p k)) && !(s.laneOne p k).fell }

theorem scannedLane_first (h : (s.laneOne p k).scanned = false) :
    scannedLane p k ew s = { s.laneOne p k with scanned := true, fell := false } := by
  unfold scannedLane
  rw [h]
  rfl

theorem scannedLane_later (h : (s.laneOne p k).scanned = true) :
    scannedLane p k ew s = { s.laneOne p k with fell := decide (5 * ew < 4 * s.fld (lgF p k)) && !(s.laneOne p k).fell } := by
  unfold scannedLane
  rw [h]
  generalize s.laneOne p k = x at h ⊢
  cases x
  subst h
  rfl

theorem eyeFalls_kept (hk : k < 4) (hew : ew < 65) (heh : eh < 33) (s : Chip) :
    EyeKept p k ew eh { s.laneOne p k with fell := true } s (eyeFalls p k ew eh s) := eyeSet_kept hk hew heh _ s

theorem EyeKept.restored {new : LaneOne} (hk : k < 4) (h : EyeKept p k ew eh new s t) : EyeKept p k ew eh new s (restored p k t) where
  keeps := h.keeps.trans (restored_keeps hk t)
  state := (restored_fld (g := F.LN_STAT_STATE p.ix) (by cases p <;> decide) (lnStat_ne_lane (lane_counters (p := p) hk).2.2.2.2.1)
    (lnStat_ne_lane (lane_counters (p := p) hk).2.2.2.2.2)).trans h.state
  ew := (restored_fld (lane_counters (p := p) hk).1.shape.2.1 laneF_addr_off laneF_addr_off).trans h.ew
  eh := (restored_fld (lane_counters (p := p) hk).2.1.shape.2.1 laneF_addr_off laneF_addr_off).trans h.eh
  one hlen := (laneOne_of_lane (restored_lane t p)).trans (h.one hlen)

/-- Every scan keeps its eye, and raises EYE_LOW where it is below its least width. -/
theorem belvedere_kept (hk : k < 4) (hew : ew < 65) (heh : eh < 33) (hst : s.lnState p = 4) (hrx : s.rxLane p k = true) :
    ∃ b t, belvedere p k ew eh s = eyeLow p b t ∧ (s.eyeBelow p ew = true → b = true) ∧ EyeKept p k ew eh (scannedLane p k ew s) s t := by
  cases hscan : (s.laneOne p k).scanned with
  | false => exact ⟨_, _, belvedere_of_first hst hrx hscan, id, scannedLane_first hscan ▸ saveTaps_kept hk hew heh _ s⟩
  | true =>
    rw [scannedLane_later hscan]
    by_cases hfall : 5 * ew < 4 * s.fld (lgF p k)
    · rw [decide_eq_true hfall]
      cases hfell : (s.laneOne p k).fell with
      | true => exact ⟨_, _, belvedere_of_fell hst hrx hscan hfall hfell, fun _ => rfl, saveTaps_kept hk hew heh _ s⟩
      | false =>
        refine ⟨_, _, belvedere_of_falls hst hrx hscan hfall hfell, id, ?_⟩
        have hkept := eyeFalls_kept (p := p) hk hew heh s
        split
        · exact hkept.restored hk
        · exact hkept
    · rw [decide_eq_false hfall]
      refine ⟨_, _, belvedere_of_fine hst hrx hscan hfall, id, ?_⟩
      split
      · exact eyeSet_kept hk hew heh _ s
      · exact saveTaps_kept hk hew heh _ s

/-! The taps after a scan. -/

theorem TapsSaved.eyeLow (hk : k < 4) (h : TapsSaved p k ew s t) (b : Bool) : TapsSaved p k ew s (eyeLow p b t) :=
  have ⟨_, _, hlg, hlkg, heq, _⟩ := lane_counters (p := p) hk
  ⟨by rw [eyeLow_lane, h.lastGood], (eyeLow_fld b t hlg.shape.2.1).trans h.lg, (eyeLow_fld b t hlkg.shape.2.1).trans h.lkg,
    (eyeLow_fld b t heq.shape.2.1).trans h.eq⟩

theorem TapsHeld.eyeLow (hk : k < 4) (h : TapsHeld p k s t) (b : Bool) : TapsHeld p k s (eyeLow p b t) :=
  have ⟨_, _, hlg, hlkg, _⟩ := lane_counters (p := p) hk
  ⟨(eyeLow_fld b t hlg.shape.2.1).trans h.lg, (eyeLow_fld b t hlkg.shape.2.1).trans h.lkg⟩

theorem belvedere_saves_first (hk : k < 4) (hew : ew < 65) (hst : s.lnState p = 4) (hrx : s.rxLane p k = true)
    (h : (s.laneOne p k).scanned = false) : TapsSaved p k ew s (belvedere p k ew eh s) := by
  rw [belvedere_of_first hst hrx h]
  exact (saveTaps_eyeSet hew _ s).eyeLow hk _

theorem belvedere_saves_fine (hk : k < 4) (hew : ew < 65) (hst : s.lnState p = 4) (hrx : s.rxLane p k = true)
    (h : (s.laneOne p k).scanned = true) (hfall : ¬ 5 * ew < 4 * s.fld (lgF p k)) (hfrozen : (s.laneOne p k).frozen = false) :
    TapsSaved p k ew s (belvedere p k ew eh s) := by
  rw [belvedere_of_fine hst hrx h hfall, hfrozen]
  exact (saveTaps_eyeSet hew _ s).eyeLow hk _

theorem belvedere_saves_fell (hk : k < 4) (hew : ew < 65) (hst : s.lnState p = 4) (hrx : s.rxLane p k = true)
    (h : (s.laneOne p k).scanned = true) (hfall : 5 * ew < 4 * s.fld (lgF p k)) (hfell : (s.laneOne p k).fell = true) :
    TapsSaved p k ew s (belvedere p k ew eh s) ∧ (belvedere p k ew eh s).eventSeen (EV.LN_EYE_LOW p) = true := by
  rw [belvedere_of_fell hst hrx h hfall hfell]
  exact ⟨(saveTaps_eyeSet hew _ s).eyeLow hk true, eyeLow_seen _⟩

/-- The eye as set, with a lane state. -/
theorem eyeSet_setLaneOne_held (new : LaneOne) (s : Chip) : TapsHeld p k s (setLaneOne p k new (eyeSet p k ew eh s)) ∧
    (setLaneOne p k new (eyeSet p k ew eh s)).fld (eqF p k) = s.fld (eqF p k) := by
  obtain ⟨⟨hlg, hlkg⟩, heq⟩ := eyeSet_held (p := p) (k := k) (ew := ew) (eh := eh) (s := s)
  exact ⟨⟨(setLaneOne_fld ..).trans hlg, (setLaneOne_fld ..).trans hlkg⟩, (setLaneOne_fld ..).trans heq⟩

theorem belvedere_holds_frozen (hk : k < 4) (hst : s.lnState p = 4) (hrx : s.rxLane p k = true) (h : (s.laneOne p k).scanned = true)
    (hfall : ¬ 5 * ew < 4 * s.fld (lgF p k)) (hfrozen : (s.laneOne p k).frozen = true) :
    TapsHeld p k s (belvedere p k ew eh s) ∧ (belvedere p k ew eh s).fld (eqF p k) = s.fld (eqF p k) := by
  obtain ⟨hheld, heq⟩ := eyeSet_setLaneOne_held (p := p) (k := k) (ew := ew) (eh := eh) { s.laneOne p k with fell := false } s
  rw [belvedere_of_fine hst hrx h hfall, hfrozen]
  exact ⟨hheld.eyeLow hk _, (eyeLow_fld _ _ (lane_counters (p := p) hk).2.2.2.2.1.shape.2.1).trans heq⟩

section
variable (hk : k < 4) (hst : s.lnState p = 4) (hrx : s.rxLane p k = true) (h : (s.laneOne p k).scanned = true)
  (hfall : 5 * ew < 4 * s.fld (lgF p k)) (hfell : (s.laneOne p k).fell = false)
include hk hst hrx h hfall hfell

theorem belvedere_holds_falls : TapsHeld p k s (belvedere p k ew eh s) := by
  obtain ⟨⟨hlg, hlkg⟩, -⟩ := eyeSet_setLaneOne_held (p := p) (k := k) (ew := ew) (eh := eh) { s.laneOne p k with fell := true } s
  have hcounters := lane_counters (p := p) hk
  rw [belvedere_of_falls hst hrx h hfall hfell]
  split
  · exact TapsHeld.eyeLow hk ⟨(restored_fld hcounters.2.2.1.shape.2.1 laneF_addr_off laneF_addr_off).trans hlg,
      (restored_fld hcounters.2.2.2.1.shape.2.1 laneF_addr_off laneF_addr_off).trans hlkg⟩ _
  · exact TapsHeld.eyeLow hk ⟨hlg, hlkg⟩ _

/-- The last-good taps are restored, where LNx_ADAPT lets them be. -/
theorem belvedere_restores (hen : s.flag (F.LN_ADAPT_RESTORE_EN p.ix) = true) :
    bits ((belvedere p k ew eh s).fld (eqF p k)) 31 28 = bits (s.fld (lkgF p k)) 31 28 ∧
      bits ((belvedere p k ew eh s).fld (eqF p k)) 27 0 = (if s.flag (F.LN_ADAPT_DFE_EN p.ix) then bits (s.fld (lkgF p k)) 27 0 else 0) ∧
      (belvedere p k ew eh s).fld (restoreF p k) = satTo 16 (s.fld (restoreF p k) + 1) ∧
      (belvedere p k ew eh s).eventSeen (EV.LN_TAP_RESTORE p) = true := by
  obtain ⟨-, -, -, -, heqc, hresc⟩ := lane_counters (p := p) hk
  have hlkg : (eyeFalls p k ew eh s).fld (lkgF p k) = s.fld (lkgF p k) := (eyeSet_setLaneOne_held _ s).1.lkg
  have hres : (eyeFalls p k ew eh s).fld (restoreF p k) = s.fld (restoreF p k) := (setLaneOne_fld ..).trans (eyeSet_fld_ne laneF_addr_off)
  have hdfe : (eyeFalls p k ew eh s).flag (F.LN_ADAPT_DFE_EN p.ix) = s.flag (F.LN_ADAPT_DFE_EN p.ix) :=
    Chip.flag_congr (Chip.fld_of_active (setLaneOne_keeps (p := p) (k := k) [] _).active rfl)
  obtain ⟨htop, hlow⟩ := restored_taps (p := p) hk (eyeFalls p k ew eh s)
  rw [belvedere_of_falls hst hrx h hfall hfell, if_pos hen, eyeLow_fld _ _ heqc.shape.2.1, eyeLow_fld _ _ hresc.shape.2.1, htop, hlow,
    restored_count hk, hlkg, hres, hdfe]
  exact ⟨rfl, rfl, rfl, (eyeLow_keeps _ _).events _ (by cases p <;> decide) (restored_seen _)⟩

theorem belvedere_leaves (hen : s.flag (F.LN_ADAPT_RESTORE_EN p.ix) = false) :
    (belvedere p k ew eh s).fld (eqF p k) = s.fld (eqF p k) := by
  rw [belvedere_of_falls hst hrx h hfall hfell, if_neg (by rw [hen]; decide), eyeLow_fld _ _ (lane_counters (p := p) hk).2.2.2.2.1.shape.2.1]
  exact (eyeSet_setLaneOne_held _ s).2

end

end

/-! ### ALIGNMENT_MARKER, with the bits of its slot -/

/-- The chip that an alignment marker meets: the bits of one that was found have been heard. -/
def markerHeard (p : Port) (k : Nat) (found : Bool) (w : W64) (s : Chip) : Chip := if found then lineAm p k w s else s

section
variable {p : Port} {k : Nat} {w : W64} {s t : Chip}

theorem lineAm_heard (p : Port) (k : Nat) (w : W64) (s : Chip) : LineHeard p s (lineAm p k w s) := lineSlot_heard _ _ s

theorem lineAm_of_deaf (h : s.hearsBits p = false) : lineAm p k w s = s := lineSlot_of_deaf h

/-- A valid marker (R280), field by field. -/
theorem amValid_iff {x : Nat} : amValid k x = true ↔ bits x 7 0 = 0xA5 ∧ bits x 9 8 = k ∧
    crc8 [bits x 7 0, bits x 15 8, bits x 23 16, bits x 31 24, bits x 39 32, bits x 47 40, bits x 55 48] = bits x 63 56 := by
  unfold amValid
  rw [Bool.and_eq_true, Bool.and_eq_true, beq_iff_eq, beq_iff_eq, beq_iff_eq, and_assoc]
  rfl

theorem namesNew_iff {x : Nat} : s.namesNew p x = true ↔ (s.lane p).hasNbr = false ∨ bits x 22 18 ≠ s.fld (F.LN_STAT_NBR_ADDR p.ix) ∨
    bits x 55 32 ≠ s.fld (F.LN_NBR_NID_NID p.ix) := by
  unfold Chip.namesNew
  rw [Bool.or_eq_true, Bool.or_eq_true, Bool.not_eq_true', bne_iff_ne, bne_iff_ne, or_assoc]

theorem ownMarker_iff {src nid : Nat} : s.ownMarker p src nid = true ↔ src = s.addr ∧ nid = s.fld (F.LN_NID_OWN_NID p.ix) := by
  unfold Chip.ownMarker
  rw [Bool.and_eq_true, beq_iff_eq, beq_iff_eq]

/-- What is heard is beside what an invalid marker turns on. -/
theorem lineAm_bad {u : Chip} (h : BadMarker p k (lineAm p k w s) u) : BadMarker p k s u :=
  have hheard := lineAm_heard p k w s
  h.of_before (hheard.keeps _) (hheard.fld _) (rxLane_congr (hheard.fld _)) (lineSlot_lanes_length _ _ s) (lineSlot_amBad _ _ s)

theorem lineAm_counted {u : Chip} {n : LaneCount} {f : Fld} (h : ErrorCounted p n k f (lineAm p k w s) u) : ErrorCounted p n k f s u :=
  have hheard := lineAm_heard p k w s
  h.of_before hheard.cdc (congrArg (fun c => 512 * (c.cc + c.cclk)) hheard.clk) (hheard.fld _)

end

end Sys2Proof.Machine
end

section
/-! PROOFS. The rows of markers, scans and modes (O54). -/

namespace Sys2Proof.Machine

section
variable {p : Port} {x : Nat} {s t u : Chip}

/-- What a valid marker of lane 0 tells (R280, R288). -/
structure MarkerTold (p : Port) (x : Nat) (s u : Chip) : Prop where
  keeps : Keeps [4 + p.ix] s u
  state : u.lnState p = s.lnState p
  maskRx : u.fld (F.LN_STAT_LMASK_RX p.ix) = bits x 13 10
  partner : u.fld (F.LN_STAT_RXOK_PART p.ix) = bits x 17 14
  nmask : (u.lane p).partnerNmask = bits x 29 26
  byp : (u.lane p).partnerByp = bits x 25 23
  lastAm : (u.lane p).lastAm = some (bits x 22 18, bits x 55 32)
  lock : u.fld (F.LN_STAT_LANE_LOCK p.ix) =
    if s.lnState p = 4 then s.fld (F.LN_STAT_LANE_LOCK p.ix) &&& (bits x 13 10 ||| bits x 29 26) else s.fld (F.LN_STAT_LANE_LOCK p.ix)

/-- The other fields of a port stand as lane 0's marker is taken in. -/
theorem amFields_fld_heard (h : LineHeard p s t) {g : Fld} (hw : 1 ≤ g.w) (hg : ∀ f ∈ amFlds p, f.apart g) : (amFields p x t).fld g = s.fld g :=
  (amFields_fld_apart x hw hg).trans (h.fld g)

theorem amFields_tells (h : LineHeard p s t) : MarkerTold p x s (amFields p x t) := by
  obtain ⟨hrx, hpart⟩ := amFields_told (p := p) (s := t) x
  obtain ⟨hnmask, hbyp, hlast, -⟩ := amFields_lane (p := p) (s := t) x
  have hstate : t.lnState p = s.lnState p := h.fld _
  refine ⟨(h.keeps _).trans (amFields_keeps x), amFields_fld_heard h (by cases p <;> decide) (by cases p <;> decide), hrx, hpart, hnmask, hbyp, hlast, ?_⟩
  rw [amFields_lock, hstate, h.fld]

theorem MarkerTold.neighbourChange {src nid : Nat} (h : MarkerTold p x s t) : MarkerTold p x s (neighbourChange p src nid t) := by
  have hfld : ∀ g, g ∈ F.LN_STAT_STATE p.ix :: amFlds p → (Machine.neighbourChange p src nid t).fld g = t.fld g := fun g hg => by
    have hshape : 1 ≤ g.w ∧ shipAddr g.addr = false ∧ ∀ f ∈ changeFlds p, f.apart g := by
      revert g
      cases p <;> decide
    exact neighbourChange_retains.fld g hshape.1 hshape.2.1 hshape.2.2
  have hlane := neighbourChange_lane (p := p) (s := t) (src := src) (nid := nid)
  obtain ⟨hkeeps, hstate, hrx, hpart, hnmask, hbyp, hlast, hlock⟩ := h
  refine ⟨hkeeps.trans neighbourChange_keeps, (hfld _ (by simp)).trans hstate, (hfld _ (by simp [amFlds])).trans hrx,
    (hfld _ (by simp [amFlds])).trans hpart, ?_, ?_, ?_, (hfld _ (by simp [amFlds])).trans hlock⟩ <;> rw [hlane] <;> assumption

theorem amFields_own (h : LineHeard p s t) (src nid : Nat) : (amFields p x t).ownMarker p src nid = s.ownMarker p src nid := by
  unfold Chip.ownMarker
  rw [amFields_fld_heard h (by cases p <;> decide) (by cases p <;> decide),
    show (amFields p x t).addr = s.addr from amFields_fld_heard h (by decide) (by cases p <;> decide)]

theorem amFields_gap (h : LineHeard p s t) {src nid : Nat} (hsrc : src < 2 ^ 5) (hnid : nid < 2 ^ 24) :
    (named p src nid (amFields p x t)).gapNow p = gapFrom p (s.ownMarker p src nid) src s.addr (s.fld (F.LN_CFG_LAST 0)) := by
  rw [named_gap hsrc hnid, amFields_own h,
    show (amFields p x t).addr = s.addr from amFields_fld_heard h (by decide) (by cases p <;> decide),
    amFields_fld_heard h (g := F.LN_CFG_LAST 0) (by decide) (by cases p <;> decide)]

theorem gapFrom_own (src a last : Nat) : gapFrom p true src a last = 0 := by
  unfold gapFrom
  rw [if_pos rfl, Nat.min_zero]

theorem gapFrom_west (src a last : Nat) : gapFrom .west false src a last = if src < a then min 7 (a - src - 1) else 7 := by
  unfold gapFrom
  rw [if_neg Bool.false_ne_true]
  dsimp only
  split
  · rfl
  · rfl

theorem gapFrom_east (src a last : Nat) : gapFrom .east false src a last =
    if a < src then min 7 (src - a - 1) else if src = 0 ∧ a ≤ last then min 7 (last - a) else 7 := by
  unfold gapFrom
  rw [if_neg Bool.false_ne_true]
  dsimp only
  by_cases ha : a < src
  · rw [if_pos ha, if_pos ha]
  · rw [if_neg ha, if_neg ha]
    by_cases h0 : src = 0 ∧ a ≤ last
    · rw [if_pos h0, if_pos (by rw [decide_eq_true h0.1, decide_eq_true h0.2]; rfl)]
    · rw [if_neg h0, if_neg (by rw [Bool.and_eq_true, decide_eq_true_eq, decide_eq_true_eq]; exact h0)]
      rfl

end

/-! ### The rows of a marker -/

section
variable {p : Port} {k : Nat} {w : W64} {s : Chip}

/-- A valid marker of lane 1 to 3 changes its lane alone, and its line. -/
theorem upperMarker_heard : LineHeard p s (clearBad p k (lineAm p k w s)) := (lineAm_heard p k w s).setLaneOne _

theorem clearBad_lineAm_one (hk : k < (s.lane p).lanes.length) : (clearBad p k (lineAm p k w s)).laneOne p k =
    { s.laneOne p k with
      amBad := 0, frozen := (s.laneOne p k).frozen && !(s.hearsBits p && ((s.lineOf p k).count (syncBits 2 ++ payloadBits w.toNat)).1) } := by
  have hlen : k < ((lineAm p k w s).lane p).lanes.length := by
    have := lineSlot_lanes_length (p := p) (k := k) (syncBits 2 ++ payloadBits w.toNat) (s.lineOf p k) s
    unfold lineAm
    omega
  unfold clearBad
  rw [laneOne_setLaneOne hlen]
  unfold lineAm
  rw [lineSlot_laneOne hk]

theorem clearBad_line (t : Chip) (j : Nat) : (clearBad p k t).lineOf p j = t.lineOf p j := by
  unfold clearBad setLaneOne Chip.lineOf
  cases p <;> rfl

theorem hearsBits_of_on (hst : s.lnState p ≠ 0) (hprbs : s.flag (F.LN_TEST_PRBS p.ix) = false) : s.hearsBits p = s.running := by
  unfold Chip.hearsBits
  rw [show (s.fld (F.LN_STAT_STATE p.ix) != 0) = true from bne_iff_ne.mpr hst, hprbs, Bool.and_true, Bool.not_false, Bool.and_true]

theorem heardLine_of_near {bitsIn : List Bool} {l : LineSt} (h : s.fld (F.LN_TEST_LOOP p.ix) ≠ 3) : heardLine p bitsIn l s = (l.count bitsIn).2 :=
  if_neg h

theorem hearsBits_of_off (h : s.lnState p = 0 ∨ s.flag (F.LN_TEST_PRBS p.ix) = true) : s.hearsBits p = false := by
  unfold Chip.hearsBits
  rcases h with h | h
  · rw [show (s.fld (F.LN_STAT_STATE p.ix) != 0) = false from bne_eq_false_iff_eq.mpr h, Bool.and_false, Bool.false_and]
  · rw [h, Bool.not_true, Bool.and_false]

theorem exec_alignmentMarker_off {found : Bool} (h : s.lnState p = 0 ∨ s.flag (F.LN_TEST_PRBS p.ix) = true) :
    alignmentMarker p k found w.toNat (markerHeard p k found w s) = s := by
  have hheard : markerHeard p k found w s = s := by
    unfold markerHeard
    split
    · exact lineAm_of_deaf (hearsBits_of_off h)
    · rfl
  rw [hheard]
  exact alignmentMarker_of_off h

end

/-- Settles O54. A marker is judged on the chip that has heard its bits, which is the chip before it but for its line and its lane (`LineHeard`);
what an invalid one leaves is `BadMarker` with `ErrorCounted`, what lane 0 tells is `MarkerTold`, and a change of neighbour keeps that. -/
theorem laneMarkerScanAndModeRowsComplete : Obligations.LaneMarkerScanAndModeRowsComplete := by
  unfold Obligations.LaneMarkerScanAndModeRowsComplete
  intro p s c st k
  have hnext : ∀ {u v : Chip}, u = v → (Host.Outcome.next { s with chip := u } : Host.Outcome State Fault Refusal) = .next { s with chip := v } :=
    fun h => by rw [h]
  refine ⟨fun lane found w => ?_, fun lane => ?_, fun lane ew eh => ?_, ?_⟩
  · intro x good old toggle counts window bad src nid new own
    have hvalid : found = true → (amValid lane x = true ↔ good) := fun hfound => amValid_iff.trans ⟨fun h => ⟨hfound, h⟩, fun h => h.2⟩
    have hbad : ∀ u, BadMarker p lane c u → bad u := fun u h => ⟨h.keeps, h.amBad, h.ends, h.stays⟩
    refine ⟨fun h => hnext (exec_alignmentMarker_off h), fun hst hprbs => ⟨fun hfound => ⟨_, rfl, ?_⟩, fun hfound hno => ⟨_, rfl, ?_⟩,
      fun hgood hlane => ⟨_, rfl, ?_⟩, fun hgood hlane => ⟨_, rfl, ?_⟩⟩⟩
    · subst hfound
      have hrow := badAm_crossCount (k := lane) (n := .amPos) (laneF_counter p (off := 0x14) (lo := 0) (w := 16) lane.isLt (by decide) (by decide) (by decide)) c
      rw [if_neg Bool.false_ne_true, alignmentMarker_of_missing hst hprbs]
      exact ⟨hbad _ hrow.1, hrow.2⟩
    · subst hfound
      have hheard := lineAm_heard p lane w c
      have hrow := badAm_crossCount (k := lane) (n := .amCrc) (laneF_counter p (off := 0x14) (lo := 16) (w := 16) lane.isLt (by decide) (by decide) (by decide))
        (lineAm p lane w c)
      rw [if_pos rfl, alignmentMarker_of_invalid (by rw [Chip.lnState, hheard.fld]; exact hst) (by rw [Chip.flag_congr (hheard.fld _)]; exact hprbs)
        (Bool.eq_false_iff.mpr fun h => hno ((hvalid rfl).mp h))]
      exact ⟨hbad _ (lineAm_bad hrow.1), lineAm_counted hrow.2⟩
    · have hfound : found = true := hgood.1
      have hheard := lineAm_heard p lane w c
      have hupper := upperMarker_heard (p := p) (k := lane) (w := w) (s := c)
      subst hfound
      rw [if_pos rfl, alignmentMarker_of_upper (by rw [Chip.lnState, hheard.fld]; exact hst) (by rw [Chip.flag_congr (hheard.fld _)]; exact hprbs)
        ((hvalid rfl).mpr hgood) hlane]
      refine ⟨hupper.regs, hupper, fun hlen => ?_, fun hrun hloop => ?_⟩
      · rw [clearBad_lineAm_one hlen, hearsBits_of_on hst hprbs]
      · rw [clearBad_line]
        exact (lineSlot_line (by rw [hearsBits_of_on hst hprbs]; exact hrun)).trans (heardLine_of_near hloop)
    · have hfound : found = true := hgood.1
      have hheard := lineAm_heard p 0 w c
      have hclear := upperMarker_heard (p := p) (k := 0) (w := w) (s := c)
      have htold := amFields_tells (x := x) hclear
      have hrow : alignmentMarker p lane true x (lineAm p lane w c) =
          if (c.lane p).lastAm = some (src, nid) ∧ new then neighbourChange p src nid (amFields p x (clearBad p 0 (lineAm p 0 w c)))
          else amFields p x (clearBad p 0 (lineAm p 0 w c)) := by
        have hzero := (hvalid hfound).mpr hgood
        rw [hlane] at hzero ⊢
        rw [alignmentMarker_of_lane0 (by rw [Chip.lnState, hheard.fld]; exact hst) (by rw [Chip.flag_congr (hheard.fld _)]; exact hprbs) hzero,
          hheard.lane]
        refine if_congr (and_congr_right' ?_) rfl rfl
        rw [namesNew_iff, hheard.lane, hheard.fld, hheard.fld]
      subst hfound
      rw [if_pos rfl, hrow]
      by_cases hnew : (c.lane p).lastAm = some (src, nid) ∧ new
      · have hshown := htold.neighbourChange (src := src) (nid := nid)
        have hsrc : src < 2 ^ 5 := bits_lt x 5 18 (by decide)
        have hnid : nid < 2 ^ 24 := bits_lt x 24 32 (by decide)
        have hfld := fun g => amFields_fld_heard (x := x) hclear (g := g)
        obtain ⟨haddr, hid, hlocal⟩ := neighbourChange_named (p := p) (s := amFields p x (clearBad p 0 (lineAm p 0 w c))) hsrc hnid
        have hown : c.ownMarker p src nid = true ↔ own := ownMarker_iff
        have hgap := neighbourChange_gap.trans (amFields_gap (p := p) (x := x) (src := src) (nid := nid) hclear hsrc hnid)
        have hother : ¬ own → c.ownMarker p src nid = false := fun h => Bool.eq_false_iff.mpr fun hc => h (hown.mp hc)
        rw [if_pos hnew]
        refine ⟨hshown.keeps, hshown.state, hshown.maskRx, hshown.partner, hshown.nmask, hshown.byp, hshown.lastAm, hshown.lock,
          fun _ _ => ⟨?_, haddr, hid, ?_, ?_, neighbourChange_seen, fun hl ho h4 => ?_, fun ho => ?_, ?_, ?_, ?_, ?_, ?_, fun h3 h6 hne => ?_⟩,
          fun h => absurd hnew h⟩
        · rw [neighbourChange_lane]
        · rw [hlocal, amFields_own hclear]
          exact hown
        · rw [neighbourChange_count, hfld _ (by cases p <;> decide) (by cases p <;> decide)]
        · obtain ⟨hup, hcount⟩ := neighbourChange_up (p := p) (src := src) (nid := nid) (s := amFields p x (clearBad p 0 (lineAm p 0 w c)))
            ((Chip.flag_congr (hfld _ (by cases p <;> decide) (by cases p <;> decide))).trans hl)
            ((amFields_own hclear src nid).trans (hother ho)) (htold.state.trans h4)
          exact ⟨hup, hcount.trans (by rw [hfld _ (by cases p <;> decide) (by cases p <;> decide)])⟩
        · rw [hgap, hown.mpr ho, gapFrom_own]
        · rintro ho rfl hlt
          rw [hgap, hother ho, gapFrom_west, if_pos hlt]
        · rintro ho rfl hle
          rw [hgap, hother ho, gapFrom_west, if_neg (not_lt.mpr hle)]
        · rintro ho rfl hlt
          rw [hgap, hother ho, gapFrom_east, if_pos hlt]
        · rintro ho rfl hle h0 hlast
          rw [hgap, hother ho, gapFrom_east, if_neg (not_lt.mpr hle), if_pos ⟨h0, hlast⟩]
        · rintro ho rfl hle hno
          rw [hgap, hother ho, gapFrom_east, if_neg (not_lt.mpr hle), if_neg hno]
        · rw [neighbourChange_gap] at h3 h6 hne
          exact neighbourChange_limit h3 h6 (by rwa [hfld _ (by cases p <;> decide) (by cases p <;> decide)])
      · rw [if_neg hnew]
        refine ⟨htold.keeps, htold.state, htold.maskRx, htold.partner, htold.nmask, htold.byp, htold.lastAm, htold.lock,
          fun h1 h2 => absurd ⟨h1, h2⟩ hnew, fun _ => ⟨?_, ?_, ?_, ?_⟩⟩
        · rw [(amFields_lane x).2.2.2, hclear.lane]
        · exact amFields_fld_heard hclear (by cases p <;> decide) (by cases p <;> decide)
        · exact amFields_fld_heard hclear (by cases p <;> decide) (by cases p <;> decide)
        · exact amFields_fld_heard hclear (by cases p <;> decide) (by cases p <;> decide)
  · intro frozen
    exact ⟨fun hst hfrozen => ⟨_, rfl, adaptFreeze_freezes lane.isLt hst hfrozen⟩, fun h => hnext (adaptFreeze_of_frozen h)⟩
  · intro x lg fall scans saves holds
    have hsaved : ∀ u, TapsSaved p lane ew c u → saves u := fun u h => ⟨h.lastGood, h.lg, h.lkg, h.eq⟩
    have hheld : ∀ u, TapsHeld p lane c u → holds u := fun u h => ⟨h.lg, h.lkg⟩
    refine ⟨fun h => hnext (belvedere_of_off h), fun ⟨hst, hrx⟩ => ⟨_, rfl, ?_⟩⟩
    obtain ⟨b, t, hrow, hlow, hkept⟩ := belvedere_kept (p := p) lane.isLt ew.isLt eh.isLt hst hrx
    have hcounters := lane_counters (p := p) lane.isLt
    refine ⟨?_, trained_iff.mpr ?_, ?_, ?_, fun h => hsaved _ (belvedere_saves_first lane.isLt ew.isLt hst hrx h),
      fun h hfall hfrozen => hsaved _ (belvedere_saves_fine lane.isLt ew.isLt hst hrx h hfall hfrozen),
      fun h hfall hfrozen => (belvedere_holds_frozen lane.isLt hst hrx h hfall hfrozen).imp_left (hheld _),
      fun h hfall hfell => (belvedere_saves_fell lane.isLt ew.isLt hst hrx h hfall hfell).imp_left (hsaved _),
      fun h hfall hfell => ⟨hheld _ (belvedere_holds_falls lane.isLt hst hrx h hfall hfell),
        belvedere_restores lane.isLt hst hrx h hfall hfell, belvedere_leaves lane.isLt hst hrx h hfall hfell⟩, fun hew => ?_, fun hlen => ?_⟩
    · rw [hrow]
      exact hkept.keeps.trans (eyeLow_keeps b t)
    · rw [hrow]
      exact (eyeLow_fld b t (by cases p <;> decide)).trans (hkept.state.trans hst)
    · rw [hrow]
      exact (eyeLow_fld b t hcounters.1.shape.2.1).trans hkept.ew
    · rw [hrow]
      exact (eyeLow_fld b t hcounters.2.1.shape.2.1).trans hkept.eh
    · rw [hrow, hlow (decide_eq_true hew)]
      exact eyeLow_seen t
    · rw [hrow, laneOne_of_lane (eyeLow_lane b t p), hkept.one hlen]
      exact ⟨rfl, rfl, rfl⟩
  · intro narrows wide widens
    have hwidens : wide → c.widening p = true := fun h => widening_iff.mpr h
    refine ⟨fun ⟨hst, h⟩ => ⟨_, rfl, laneNarrow_narrows hst h⟩, fun h => hnext (laneNarrow_of_wide h),
      fun ⟨hw, hok⟩ => ⟨_, rfl, laneWiden_widens (hwidens hw) hok⟩,
      fun h => hnext (laneWiden_of_waits fun hc => h ⟨widening_iff.mp hc.1, hc.2⟩),
      fun hw => ⟨_, rfl, modeTimeout_times_out (hwidens hw)⟩,
      fun h => hnext (modeTimeout_of_narrow (Bool.eq_false_iff.mpr fun hc => h (widening_iff.mp hc)))⟩

end Sys2Proof.Machine
end

section
/-! PROOFS. AUTOLEAVE, the end of a wrap, and a complete packet (R292, R300, R303, R305, R308, R317). -/

namespace Sys2Proof.Machine

section
variable {s : Chip} {p : Port}

theorem Chip.port_setPort_other (s : Chip) (p : Port) (t : PortSt) : (s.setPort p t).port p.other = s.port p.other := by cases p <;> rfl

theorem Chip.port_setFld (s : Chip) (f : Fld) (v : Nat) (q : Port) : (s.setFld f v).port q = s.port q := by cases q <;> rfl

/-! ### AUTOLEAVE (R292) -/

/-- The device has been out of the ring for as long as AUTOLEAVE says, at a tick. -/
def Chip.LeaveDue (s : Chip) : Prop :=
  s.fld F.LNE_RING_AUTOLEAVE ≠ 0 ∧ s.fld F.LNE_RING_AUTOLEAVE ≤ s.ring.leaveRun ∧ s.clk.cclk = 0

theorem leaveDue_iff : (s.fld F.LNE_RING_AUTOLEAVE != 0 && decide (s.fld F.LNE_RING_AUTOLEAVE ≤ s.ring.leaveRun) && s.clk.cclk == 0) = true ↔
    s.LeaveDue := by
  rw [Bool.and_eq_true, Bool.and_eq_true, bne_iff_ne, decide_eq_true_eq, beq_iff_eq, and_assoc]
  rfl

theorem ringAutoleave_of_due (h : s.LeaveDue) : ringAutoleave s = lowerInring s := if_pos (leaveDue_iff.mpr h)

theorem ringAutoleave_of_not_due (h : ¬ (s.LeaveDue ∧ s.inring = true)) : ringAutoleave s = s := by
  by_cases hd : s.LeaveDue
  · rw [ringAutoleave_of_due hd]
    exact lowerInring_of_out (Bool.eq_false_iff.mpr fun hin => h ⟨hd, hin⟩)
  · exact if_neg fun hc => hd (leaveDue_iff.mp hc)

theorem lowerInring_ring (h : s.inring = true) : (lowerInring s).ring.hbFrames = none ∧ (lowerInring s).ring.leaveRun = 0 := by
  rw [lowerInring_of_in h, (raise_announces EV.RING_LEFT (by decide) (outOfRing s)).ring]
  exact ⟨rfl, rfl⟩

theorem lowerInring_state (q : Port) : (lowerInring s).lnState q = s.lnState q := by
  refine (lowerInring_retains s).fld (F.LN_STAT_STATE q.ix) ?_ ?_ ?_ <;> cases q <;> decide

/-! ### The end of a wrap (R317) -/

/-- The status bit of a port's wrap. -/
def wrapFlag (p : Port) : Fld := if p = .east then F.RNG_STAT_WRAP_E else F.RNG_STAT_WRAP_W

/-- A port's wrap is over, before it is announced. -/
def unwrappedPort (p : Port) (s : Chip) : Chip :=
  (s.setPort p { s.port p with wrapping := false, usableFrames := 0 }).setFlag (wrapFlag p) false

/-- The port was usable for as long as RNG_UNWRAP says, at a tick. -/
def Chip.UnwrapDue (s : Chip) (p : Port) : Prop :=
  (s.port p).wrapping = true ∧ max 1 (s.fld F.RNG_UNWRAP_FRAMES) ≤ (s.port p).usableFrames ∧ s.clk.cclk = 0

theorem unwrapDue_iff : ((s.port p).wrapping && decide (max 1 (s.fld F.RNG_UNWRAP_FRAMES) ≤ (s.port p).usableFrames) && s.clk.cclk == 0) = true ↔
    s.UnwrapDue p := by
  rw [Bool.and_eq_true, Bool.and_eq_true, decide_eq_true_eq, beq_iff_eq, and_assoc]
  rfl

theorem ringUnwrap_of_due (h : s.UnwrapDue p) : ringUnwrap p s = raise (EV.RN_UNWRAP p) (unwrappedPort p s) := if_pos (unwrapDue_iff.mpr h)

theorem ringUnwrap_of_not_due (h : ¬ s.UnwrapDue p) : ringUnwrap p s = s := if_neg fun hc => h (unwrapDue_iff.mp hc)

theorem unwrappedPort_announces (p : Port) (s : Chip) : Announces s (unwrappedPort p s) :=
  (Announces.setPort s p _).trans (Announces.setFlag _ _ _ (by cases p <;> decide) (by cases p <;> decide))

theorem unwrappedPort_port (p : Port) (s : Chip) : (unwrappedPort p s).port p = { s.port p with wrapping := false, usableFrames := 0 } ∧
    (unwrappedPort p s).port p.other = s.port p.other :=
  ⟨(Chip.port_setFld ..).trans (Chip.port_setPort_same ..), (Chip.port_setFld ..).trans (Chip.port_setPort_other ..)⟩

theorem unwrappedPort_flag (p : Port) (s : Chip) : (unwrappedPort p s).flag (wrapFlag p) = false :=
  flag_setFlag_same _ _ _ (by cases p <;> decide) (by cases p <;> rfl)

/-! ### A complete packet that is not for this device, or not well (R300, R303) -/

variable {q : Packet} {first : Nat}

/-- The packet is this device's own. -/
theorem src_eq_own (haddr : s.addr < 31) : q.src = BitVec.ofNat 5 s.addr ↔ q.src.toNat = s.addr := by
  rw [BitVec.toNat_eq, BitVec.toNat_ofNat, Nat.mod_eq_of_lt (lt_trans haddr (by decide))]

theorem dest_eq_own (haddr : s.addr < 31) : q.dest = BitVec.ofNat 5 s.addr ↔ q.dest.toNat = s.addr := by
  rw [BitVec.toNat_eq, BitVec.toNat_ofNat, Nat.mod_eq_of_lt (lt_trans haddr (by decide))]

theorem receivePacket_of_deaf (h : s.receives p = false) : receivePacket p q first s = s := if_pos (by rw [h]; rfl)

section
variable (hrec : s.receives p = true) (haddr : s.addr < 31)
include hrec haddr

theorem receivePacket_of_own (hsrc : q.src.toNat = s.addr) : receivePacket p q first s =
    if q.dest = 31#5 then s else raise EV.RNG_STRAY (s.bump F.RNG_STRAY_COUNT) := by
  have hown : q.src = BitVec.ofNat 5 s.addr := (src_eq_own haddr).mpr hsrc
  unfold receivePacket
  simp [hrec, hown]

/-- A packet for this device that is not whole is counted, and no more. -/
theorem receivePacket_of_broken (hsrc : q.src.toNat ≠ s.addr) (hdest : q.dest.toNat = s.addr) (hbroken : q.crcOk = false ∨ q.bad = true) :
    receivePacket p q first s = s.bump (F.RN_CRC_ERR_COUNT p.ix) := by
  have hown : ¬ q.src = BitVec.ofNat 5 s.addr := fun h => hsrc ((src_eq_own haddr).mp h)
  have hmine : q.dest = BitVec.ofNat 5 s.addr := (dest_eq_own haddr).mpr hdest
  unfold receivePacket
  rcases hbroken with h | h <;> simp [hrec, hown, hmine, h]

theorem receivePacket_of_malformed (hsrc : q.src.toNat ≠ s.addr) (hdest : q.dest.toNat = s.addr) (hbcast : q.dest ≠ 31#5)
    (hcrc : q.crcOk = true) (hwhole : q.bad = false) (htype : q.ptype ≠ 0x07#8) (hm : malformed q = true) :
    receivePacket p q first s = badPacket s := by
  have hown : ¬ q.src = BitVec.ofNat 5 s.addr := fun h => hsrc ((src_eq_own haddr).mp h)
  have hmine : q.dest = BitVec.ofNat 5 s.addr := (dest_eq_own haddr).mpr hdest
  rw [hmine] at hbcast
  unfold receivePacket deliver
  simp [hrec, hown, hmine, hcrc, hwhole, htype, hm, hbcast]

/-- A packet for another device is forwarded. -/
theorem receivePacket_of_passing (hsrc : q.src.toNat ≠ s.addr) (hdest : q.dest.toNat ≠ s.addr) (hbcast : q.dest ≠ 31#5)
    (htype : q.ptype ≠ 0x07#8) : receivePacket p q first s =
      forward p q (!q.crcOk || q.bad) (if q.crcOk then s else s.bump (F.RN_CRC_ERR_COUNT p.ix)) := by
  have hown : ¬ q.src = BitVec.ofNat 5 s.addr := fun h => hsrc ((src_eq_own haddr).mp h)
  have hother : ¬ q.dest = BitVec.ofNat 5 s.addr := fun h => hdest ((dest_eq_own haddr).mp h)
  unfold receivePacket
  cases hcrc : q.crcOk <;> simp [hrec, hown, hother, hbcast, htype]

end

/-! ### Forwarding (R300, R308) -/

/-- A packet on its way through, with HOPS one up. -/
def passing (q : Packet) (bad : Bool) (s : Chip) : TxPkt :=
  { ptype := q.ptype, cls := q.cls, dest := q.dest, src := q.src, hops := q.hops + 1#6, wrapped := q.wrapped,
    len := q.words.length, pseq := q.pseq, words := q.words, badEnd := bad, own := false, through := true, idx := 0,
    stamp := s.clk.cc + s.clk.cclk, egress := none, slot := none, owner := none, sent := 0 }

theorem forward_of_spent (bad : Bool) (h : q.hops = 63#6) : forward p q bad s = raise EV.RNG_STRAY (s.bump F.RNG_STRAY_COUNT) := if_pos h

theorem forward_of_hops (bad : Bool) (h : q.hops ≠ 63#6) : forward p q bad s =
    settleForward .west (settleForward .east (placeTx raise p.other (passing q bad s) s)) := if_neg h

variable {x : TxPkt} {o : Port}

/-- A pass-through packet joins the forward buffer of a port that takes it, where it has room. -/
theorem placeTx_of_room (hthrough : x.through = true) (hpass : s.passes o x.cls.toNat = true)
    (hroom : (s.port o).fwdBlocks + x.words.length + 2 ≤ 4096) : placeTx raise o x s =
      (s.setPort o { s.port o with fwd := (s.port o).fwd ++ [x] }).highWater (F.RN_BUF_HWM_BLOCKS o.ix)
        ((s.port o).fwdBlocks + x.words.length + 2) := by
  unfold placeTx Chip.takesTx
  simp [hthrough, hpass, hroom]

theorem placeTx_of_full (hthrough : x.through = true) (hpass : s.passes o x.cls.toNat = true)
    (hfull : 4096 < (s.port o).fwdBlocks + x.words.length + 2) : placeTx raise o x s =
      raise (EV.RN_FWD_OVF o) (s.bump (F.RN_FWD_OVF_COUNT o.ix)) := by
  unfold placeTx Chip.takesTx
  simp [hthrough, hpass, not_le.mpr hfull]

/-- Where no wrap is enabled, a packet that no port takes is lost. -/
theorem placeTx_of_lost (hthrough : x.through = true) (hpass : s.passes o x.cls.toNat = false) (hwrap : s.flag F.RNG_CFG_WRAP_EN = false) :
    placeTx raise o x s = s.bump (F.RN_LOST_COUNT o.ix) := by
  unfold placeTx Chip.takesTx
  simp [hthrough, hpass, hwrap]

theorem placeTx_room_port (t : PortSt) (f : Fld) (v : Nat) : ((s.setPort o t).highWater f v).port o = t ∧
    ((s.setPort o t).highWater f v).port o.other = s.port o.other := by
  unfold Chip.highWater
  split
  · exact ⟨(Chip.port_setFld ..).trans (Chip.port_setPort_same ..), (Chip.port_setFld ..).trans (Chip.port_setPort_other ..)⟩
  · exact ⟨Chip.port_setPort_same .., Chip.port_setPort_other ..⟩

/-- What a receiver counts leaves the ports. -/
theorem crcCounted_same (p : Port) (ok : Bool) (s : Chip) (o : Port) (k : Nat) :
    (if ok then s else s.bump (F.RN_CRC_ERR_COUNT p.ix)).port o = s.port o ∧
      (if ok then s else s.bump (F.RN_CRC_ERR_COUNT p.ix)).passes o k = s.passes o k ∧
      (if ok then s else s.bump (F.RN_CRC_ERR_COUNT p.ix)).flag F.RNG_CFG_WRAP_EN = s.flag F.RNG_CFG_WRAP_EN := by
  cases ok with
  | true => exact ⟨rfl, rfl, rfl⟩
  | false =>
    have hfld : ∀ g, g.addr ≠ (F.RN_CRC_ERR_COUNT p.ix).addr → (s.bump (F.RN_CRC_ERR_COUNT p.ix)).fld g = s.fld g :=
      fun g hg => Chip.fld_bump_ne s hg
    have hport : (s.bump (F.RN_CRC_ERR_COUNT p.ix)).port o = s.port o := Chip.port_setFld ..
    have hlane : (s.bump (F.RN_CRC_ERR_COUNT p.ix)).lane o = s.lane o := Chip.lane_setFld ..
    refine ⟨hport, ?_, Chip.flag_congr (hfld _ (by cases p <;> decide))⟩
    show (s.bump (F.RN_CRC_ERR_COUNT p.ix)).passes o k = _
    unfold Chip.passes Chip.usable Chip.unwrapped Chip.trained Chip.inring
    rw [hfld _ (by cases p <;> cases o <;> decide), Chip.flag_congr (hfld (F.LN_STAT_LOCAL o.ix) (by cases p <;> cases o <;> decide)),
      Chip.flag_congr (hfld F.LNE_RING_INRING (by cases p <;> decide)), hport, hlane]

end

end Sys2Proof.Machine
end

section
/-! PROOFS. CMD and CREDIT packets, the lapse of credits, and the WAIT queues (R309, R310, R312, R363), with the rows of O55. -/

namespace Sys2Proof.Machine

section
variable {s : Chip} {p : Port} {q : Packet}

/-! ### CMD and CREDIT (R312, R363) -/

theorem malformed_cmd (ht : q.ptype = 0x01#8) (hc : q.cls = 1#2) : malformed q = false := by
  unfold malformed
  rw [hc, ht]
  rfl

/-- A command joins the batch of its frame. -/
theorem receiveTyped_cmd (h : Addressed p q s) (hc : q.cls = 1#2) (ht : q.ptype = 0x01#8) :
    receiveTyped 0x01 p q 0 s = joinBatch (.ring p) q.words (s.bump (F.RN_RXPKT_COUNT p.ix)) := by
  unfold receiveTyped
  rw [if_pos (by rw [ht]; rfl), receivePacket_of_addressed h (by rw [ht]; decide) (malformed_cmd ht hc)]
  unfold consume
  rw [ht]
  rfl

theorem joinBatch_of_empty (from_ : Sender) (s : Chip) : joinBatch from_ [] s = s := if_pos rfl

theorem joinBatch_of_words {from_ : Sender} {ws : List W64} (h : ws ≠ []) (s : Chip) : joinBatch from_ ws s =
    { s with cmd := { s.cmd with batch := s.cmd.batch ++
      [{ sender := from_, words := ws, excess := decide (16 ≤ s.cmd.batch.countP fun c => !c.excess) }] } } :=
  if_neg (by rw [List.isEmpty_iff]; exact h)

variable {w0 w1 : W64}

theorem malformed_credit (ht : q.ptype = 0x0B#8) (hc : q.cls = 1#2) (hw : q.words = [w0, w1]) :
    malformed q = decide (312499 < bits w1.toNat 31 13) := by
  unfold malformed
  rw [hc, ht, hw]
  cases h : decide (312499 < bits w1.toNat 31 13) <;> simp [receivedClass, receivedLen, badPayload, nth, h]

/-- A CREDIT that names a frame waits for its tick. -/
theorem receiveTyped_credit (h : Addressed p q s) (hc : q.cls = 1#2) (ht : q.ptype = 0x0B#8) (hw : q.words = [w0, w1])
    (hframe : bits w1.toNat 31 13 < 312500) :
    receiveTyped 0x0B p q 0 s = creditIn [w0, w1] (s.bump (F.RN_RXPKT_COUNT p.ix)) := by
  have hm : malformed q = false := (malformed_credit ht hc hw).trans (decide_eq_false (by omega))
  unfold receiveTyped
  rw [if_pos (by rw [ht]; rfl), receivePacket_of_addressed h (by rw [ht]; decide) hm]
  unfold consume
  rw [ht, hw]
  rfl

theorem receiveTyped_credit_of_malformed (h : Addressed p q s) (hc : q.cls = 1#2) (ht : q.ptype = 0x0B#8) (hw : q.words = [w0, w1])
    (hframe : 312500 ≤ bits w1.toNat 31 13) : receiveTyped 0x0B p q 0 s = badPacket s := by
  have hm : malformed q = true := (malformed_credit ht hc hw).trans (decide_eq_true (by omega))
  have hsrc : q.src.toNat ≠ s.addr := fun e => h.src (((src_eq_own h.addr).mpr e).trans h.dest_eq.symm)
  unfold receiveTyped
  rw [if_pos (by rw [ht]; rfl)]
  exact receivePacket_of_malformed h.receives h.addr hsrc h.dest (beq_eq_false_iff_ne.mp h.not_broadcast) h.crc h.whole (by rw [ht]; decide) hm

/-! ### The lapse of credits (R312) -/

/-- Credits have lapsed. -/
def Chip.LapseDue (s : Chip) : Prop :=
  s.flag F.RNG_STAT_CRED_VALID = true ∧ s.fld F.RNG_CRED_TMO_FRAMES ≠ 0 ∧ s.fld F.RNG_CRED_TMO_FRAMES ≤ s.ring.sinceCredit

/-- No class has a grant, and CRED_VALID is low. -/
def ungranted (s : Chip) : Chip := ((setGrant .west 0 0 (setGrant .east 0 0 s).2).2).setFlag F.RNG_STAT_CRED_VALID false

theorem lapseDue_iff : (s.flag F.RNG_STAT_CRED_VALID && s.fld F.RNG_CRED_TMO_FRAMES != 0 && decide (s.fld F.RNG_CRED_TMO_FRAMES ≤ s.ring.sinceCredit)) = true ↔
    s.LapseDue := by
  rw [Bool.and_eq_true, Bool.and_eq_true, bne_iff_ne, decide_eq_true_eq, and_assoc]
  rfl

theorem creditLapsed_of_due (h : s.LapseDue) : creditLapsed s = raise EV.RNG_CREDIT_LAPSED (clipTokens (ungranted s)) := if_pos (lapseDue_iff.mpr h)

theorem creditLapsed_of_not_due (h : ¬ s.LapseDue) : creditLapsed s = s := if_neg fun hc => h (lapseDue_iff.mp hc)

theorem setGrant_zero (p : Port) (s : Chip) : (setGrant p 0 0 s).2 = (s.setFld (F.RN_GRANT_G2 p.ix) 0).setFld (F.RN_GRANT_G3 p.ix) 0 := by
  unfold setGrant
  simp

theorem ungranted_eq (s : Chip) : ungranted s = ((((s.setFld (F.RN_GRANT_G2 0) 0).setFld (F.RN_GRANT_G3 0) 0).setFld (F.RN_GRANT_G2 1) 0).setFld
    (F.RN_GRANT_G3 1) 0).setFlag F.RNG_STAT_CRED_VALID false := by
  unfold ungranted
  rw [setGrant_zero, setGrant_zero]
  rfl

theorem ungranted_announces (s : Chip) : Announces s (ungranted s) := by
  rw [ungranted_eq]
  exact ((((Announces.setFld s _ _ (by decide) (by decide)).trans (Announces.setFld _ _ _ (by decide) (by decide))).trans
    (Announces.setFld _ _ _ (by decide) (by decide))).trans (Announces.setFld _ _ _ (by decide) (by decide))).trans
    (Announces.setFlag _ _ _ (by decide) (by decide))

theorem ungranted_port (s : Chip) (o : Port) : (ungranted s).port o = s.port o := by
  rw [ungranted_eq]
  cases o <;> rfl

theorem ungranted_flag (s : Chip) : (ungranted s).flag F.RNG_STAT_CRED_VALID = false := by
  rw [ungranted_eq]
  exact flag_setFlag_same _ _ _ (by decide) rfl

theorem ungranted_grants (s : Chip) {i : Nat} (hi : i < 2) : (ungranted s).fld (F.RN_GRANT_G2 i) = 0 ∧ (ungranted s).fld (F.RN_GRANT_G3 i) = 0 := by
  rw [ungranted_eq]
  unfold Chip.setFlag
  have hzero : ∀ (t : Chip) (f : Fld), f.fits → f.rws = false → (t.setFld f 0).fld f = 0 := fun t f hf hr => by
    rw [Chip.fld_setFld_same _ _ _ hf hr, Nat.zero_mod]
  interval_cases i <;>
    simp only [Chip.fld_setFld_apart _ F.RNG_STAT_CRED_VALID (F.RN_GRANT_G2 0) _ (by decide) (by decide),
      Chip.fld_setFld_apart _ F.RNG_STAT_CRED_VALID (F.RN_GRANT_G3 0) _ (by decide) (by decide),
      Chip.fld_setFld_apart _ F.RNG_STAT_CRED_VALID (F.RN_GRANT_G2 1) _ (by decide) (by decide),
      Chip.fld_setFld_apart _ F.RNG_STAT_CRED_VALID (F.RN_GRANT_G3 1) _ (by decide) (by decide),
      Chip.fld_setFld_apart _ (F.RN_GRANT_G3 1) (F.RN_GRANT_G2 1) _ (by decide) (by decide),
      Chip.fld_setFld_apart _ (F.RN_GRANT_G3 1) (F.RN_GRANT_G2 0) _ (by decide) (by decide),
      Chip.fld_setFld_apart _ (F.RN_GRANT_G3 1) (F.RN_GRANT_G3 0) _ (by decide) (by decide),
      Chip.fld_setFld_apart _ (F.RN_GRANT_G2 1) (F.RN_GRANT_G2 0) _ (by decide) (by decide),
      Chip.fld_setFld_apart _ (F.RN_GRANT_G2 1) (F.RN_GRANT_G3 0) _ (by decide) (by decide),
      Chip.fld_setFld_apart _ (F.RN_GRANT_G3 0) (F.RN_GRANT_G2 0) _ (by decide) (by decide),
      hzero _ (F.RN_GRANT_G2 0) (by decide) rfl, hzero _ (F.RN_GRANT_G3 0) (by decide) rfl, hzero _ (F.RN_GRANT_G2 1) (by decide) rfl,
      hzero _ (F.RN_GRANT_G3 1) (by decide) rfl, and_self]

/-- The bucket of a class is clipped. -/
def clipBucket (p : Port) (k : Nat) (s : Chip) : Chip :=
  s.setPort p ((s.port p).setTok k (min (2048 * s.tokDepth p k) ((s.port p).tok k)))

theorem forAll_pair {α : Type} (a b : α) (f : α → Chip → Chip) (s : Chip) : forAll [a, b] f s = f b (f a s) := rfl

theorem clipTokens_eq (s : Chip) : clipTokens s = forN 4 (clipBucket .west) (forN 4 (clipBucket .east) s) := by
  unfold clipTokens
  rw [forAll_pair]
  rfl

theorem clipTokens_announces (s : Chip) : Announces s (clipTokens s) := by
  rw [clipTokens_eq]
  have hport : ∀ (p : Port) (t : Chip), Announces t (forN 4 (clipBucket p) t) := fun p t =>
    Announces.forN 4 _ (fun k _ u => Announces.setPort u p _) t
  exact (hport .east s).trans (hport .west _)

theorem clipBucket_regs (p : Port) (k : Nat) (s : Chip) : (clipBucket p k s).regs = s.regs := by
  unfold clipBucket
  cases p <;> rfl

theorem clipBucket_port (p : Port) (k : Nat) (s : Chip) :
    (clipBucket p k s).port p = (s.port p).setTok k (min (2048 * s.tokDepth p k) ((s.port p).tok k)) := Chip.port_setPort_same ..

theorem tokDepth_congr {t : Chip} (h : t.regs = s.regs) (p : Port) (k : Nat) : t.tokDepth p k = s.tokDepth p k := by
  unfold Chip.tokDepth Chip.tokRate Chip.fld
  rw [h]

theorem tok_setTok_same (t : PortSt) (k v : Nat) : (t.setTok k v).tok k = v := by
  rcases k with _ | _ | _ | k <;> rfl

theorem tok_setTok_ne (t : PortSt) {j k : Nat} (v : Nat) (hj : j < 4) (hk : k < 4) (h : j ≠ k) : (t.setTok k v).tok j = t.tok j := by
  unfold PortSt.setTok PortSt.tok
  interval_cases j <;> interval_cases k <;> simp_all

/-- The buckets below `n` of a port are clipped. -/
theorem forN_clipBucket (p : Port) {n : Nat} (hn : n ≤ 4) (s : Chip) : (forN n (clipBucket p) s).regs = s.regs ∧
    (forN n (clipBucket p) s).port p.other = s.port p.other ∧ ∀ k, k < 4 → ((forN n (clipBucket p) s).port p).tok k =
      if k < n then min (2048 * s.tokDepth p k) ((s.port p).tok k) else (s.port p).tok k := by
  induction n with
  | zero => exact ⟨rfl, rfl, fun k _ => (if_neg (Nat.not_lt_zero k)).symm⟩
  | succ n ih =>
    obtain ⟨hregs, hother, htok⟩ := ih (by omega)
    rw [forN_succ]
    refine ⟨(clipBucket_regs ..).trans hregs, (Chip.port_setPort_other ..).trans hother, fun k hk => ?_⟩
    rw [clipBucket_port]
    by_cases hkn : k = n
    · rw [hkn, tok_setTok_same, tokDepth_congr hregs, htok n (by omega), if_neg (lt_irrefl n), if_pos (Nat.lt_succ_self n)]
    · rw [tok_setTok_ne _ _ hk (by omega) hkn, htok k hk]
      exact if_congr (by omega) rfl rfl

/-- Every bucket is clipped to its depth. -/
theorem clipTokens_tok (s : Chip) (p : Port) {k : Nat} (hk : k < 4) :
    ((clipTokens s).port p).tok k = min (2048 * s.tokDepth p k) ((s.port p).tok k) := by
  obtain ⟨hregsE, hotherE, htokE⟩ := forN_clipBucket .east (le_refl 4) s
  obtain ⟨-, hotherW, htokW⟩ := forN_clipBucket .west (le_refl 4) (forN 4 (clipBucket .east) s)
  rw [clipTokens_eq]
  cases p with
  | east =>
    rw [show (forN 4 (clipBucket .west) (forN 4 (clipBucket .east) s)).port .east = (forN 4 (clipBucket .east) s).port .east from hotherW,
      htokE k hk, if_pos hk]
  | west =>
    rw [htokW k hk, if_pos hk, tokDepth_congr hregsE,
      show (forN 4 (clipBucket .east) s).port .west = s.port .west from hotherE]

/-- The clipping leaves the registers alone. -/
theorem clipTokens_regs (s : Chip) : (clipTokens s).regs = s.regs := by
  rw [clipTokens_eq]
  exact (forN_clipBucket .west (le_refl 4) (forN 4 (clipBucket .east) s)).1.trans (forN_clipBucket .east (le_refl 4) s).1

/-! ### The WAIT queues (R310) -/

variable {cls : Nat} {o : Offer} {rest : List Offer}

theorem admitQueue_of_idle (h : s.up = false ∨ (s.port p).wait cls = []) : admitQueue p cls s = s := by
  unfold admitQueue
  rcases h with h | h
  · rw [if_neg (by rw [h]; decide)]
  · unfold pumpQueue
    rw [h]
    exact ite_self s

theorem admitQueue_of_up (h : s.up = true) : admitQueue p cls s = pumpQueue p cls s := if_pos h

theorem pump_succ (n : Nat) (p : Port) (cls : Nat) (s : Chip) : pump (n + 1) p cls s =
    if (offerHead p cls s).1 = true then pump n p cls (offerHead p cls s).2 else (offerHead p cls s).2 := by
  rw [pump]
  rcases offerHead p cls s with ⟨_ | _, t⟩ <;> rfl

theorem pumpQueue_of_cons (h : (s.port p).wait cls = o :: rest) : pumpQueue p cls s =
    if (offerHead p cls s).1 = true then pump rest.length p cls (offerHead p cls s).2 else (offerHead p cls s).2 := by
  unfold pumpQueue
  rw [h]
  exact pump_succ ..

/-- The head of a queue that no port takes. -/
theorem offerHead_of_unusable (h : (s.port p).wait cls = o :: rest) (hcan : ¬ (s.usable p cls = true ∨ s.usable p.other cls = true)) :
    offerHead p cls s = if o.refused = true then (false, s)
      else if s.tokDepth p cls < (s.fillOffer o).words.length + 2 then
        (true, onDiscard p (s.fillOffer o) ((noteRefusedPressure (s.fillOffer o) (refuse raise cls s)).setPort p
          (((noteRefusedPressure (s.fillOffer o) (refuse raise cls s)).port p).setWait cls rest)))
      else (false, (noteRefusedPressure (s.fillOffer o) (refuse raise cls s)).setPort p
        (((noteRefusedPressure (s.fillOffer o) (refuse raise cls s)).port p).setWait cls ({ o with refused := true, held := s.cclkNow } :: rest))) := by
  rw [not_or, Bool.not_eq_true, Bool.not_eq_true] at hcan
  unfold offerHead
  rw [h]
  simp [hcan.1, hcan.2]

/-- A head that was refused waits on. -/
theorem pumpQueue_of_refused (h : (s.port p).wait cls = o :: rest) (hrefused : o.refused = true)
    (hcan : ¬ (s.usable p cls = true ∨ s.usable p.other cls = true)) : pumpQueue p cls s = s := by
  rw [pumpQueue_of_cons h, offerHead_of_unusable h hcan, if_pos hrefused]
  rfl

theorem refuse_seen (cls : Nat) (s : Chip) : (refuse raise cls s).eventSeen EV.RNG_REFUSED = true := by
  unfold refuse
  exact raise_seen _ (by decide) _

/-- The first refusal of a head is announced. -/
theorem offerHead_refuses (h : (s.port p).wait cls = o :: rest) (hrefused : o.refused = false)
    (hcan : ¬ (s.usable p cls = true ∨ s.usable p.other cls = true)) : (offerHead p cls s).2.eventSeen EV.RNG_REFUSED = true := by
  have hnoted : (noteRefusedPressure (s.fillOffer o) (refuse raise cls s)).eventSeen EV.RNG_REFUSED = true :=
    (noteRefusedPressure_ships (s.fillOffer o) (refuse raise cls s)).events _ (by decide) (refuse_seen cls s)
  rw [offerHead_of_unusable h hcan, if_neg (Bool.eq_false_iff.mp hrefused)]
  generalize noteRefusedPressure (s.fillOffer o) (refuse raise cls s) = t at hnoted ⊢
  have hset : ∀ x : PortSt, (t.setPort p x).eventSeen EV.RNG_REFUSED = true := fun x => (setPort_ships t p x).events _ (by decide) hnoted
  split
  · exact (onDiscard_ships p _ _).events _ (by decide) (hset _)
  · exact hset _

theorem pumpQueue_refuses (hcls : cls < 4) (h : (s.port p).wait cls = o :: rest) (hrefused : o.refused = false)
    (hcan : ¬ (s.usable p cls = true ∨ s.usable p.other cls = true)) : (pumpQueue p cls s).eventSeen EV.RNG_REFUSED = true := by
  have hhead := offerHead_refuses h hrefused hcan
  rw [pumpQueue_of_cons h]
  generalize offerHead p cls s = r at hhead ⊢
  split
  · exact (pump_ships _ p cls hcls _).events _ (by decide) hhead
  · exact hhead

theorem tok_setWait (t : PortSt) (k j : Nat) (l : List Offer) : (t.setWait k l).tok j = t.tok j := by
  rcases k with _ | _ | _ | k <;> rfl

theorem wait_setWait_same (t : PortSt) (k : Nat) (l : List Offer) : (t.setWait k l).wait k = l := by
  rcases k with _ | _ | _ | k <;> rfl

theorem wait_setTok (t : PortSt) (k j v : Nat) : (t.setTok k v).wait j = t.wait j := by
  rcases k with _ | _ | _ | k <;> rfl

theorem setTok_setWait_rest (t : PortSt) (k v : Nat) (l : List Offer) : ((t.setWait k l).setTok k v).txq = t.txq ∧
    ((t.setWait k l).setTok k v).wrapping = t.wrapping := by
  rcases k with _ | _ | _ | k <;> exact ⟨rfl, rfl⟩

theorem Chip.setPort_rest (s : Chip) (p : Port) (x : PortSt) : (s.setPort p x).regs = s.regs ∧ (s.setPort p x).ring = s.ring := by
  cases p <;> exact ⟨rfl, rfl⟩

/-- The chip as the packet at the head of a queue has left it, with its number and its tokens. -/
def headTaken (p : Port) (cls : Nat) (o : Offer) (s : Chip) : Chip :=
  takeTokens p cls (o.words.length + 2) ((s.setPort p ((s.port p).setWait cls [])).takePseq cls).2

/-- The packet at the head of a queue is with the transmitter. -/
def headSent (p : Port) (cls : Nat) (o : Offer) (s : Chip) : Chip :=
  (headTaken p cls o s).setPort p { (headTaken p cls o s).port p with
    txq := ((headTaken p cls o s).port p).txq ++ [o.toTx s (nth 0 s.ring.pseq cls) none] }

theorem headTaken_port (p : Port) (cls : Nat) (o : Offer) (s : Chip) : (headTaken p cls o s).port p =
    ((s.port p).setWait cls []).setTok cls ((s.port p).tok cls - 2048 * (o.words.length + 2)) := by
  have hpop : ((s.setPort p ((s.port p).setWait cls [])).takePseq cls).2.port p = (s.port p).setWait cls [] := by
    cases p <;> rfl
  unfold headTaken takeTokens
  rw [Chip.port_setPort_same, hpop, tok_setWait]

theorem headTaken_rest (p : Port) (cls : Nat) (o : Offer) (s : Chip) : (headTaken p cls o s).regs = s.regs ∧
    (headTaken p cls o s).ring.pseq = s.ring.pseq.set cls ((nth 0 s.ring.pseq cls + 1) % 65536) ∧
    (headTaken p cls o s).port p.other = s.port p.other ∧ (headTaken p cls o s).lane p = s.lane p := by
  unfold headTaken takeTokens Chip.takePseq
  cases p <;> exact ⟨rfl, rfl, rfl, rfl⟩

theorem headTaken_takes (p : Port) (cls : Nat) (o : Offer) (s : Chip) : (headTaken p cls o s).takes p cls = s.takes p cls := by
  obtain ⟨hregs, -, -, hlane⟩ := headTaken_rest p cls o s
  have hfld : ∀ g, (headTaken p cls o s).fld g = s.fld g := fun g => by unfold Chip.fld; rw [hregs]
  have hwrap : ((headTaken p cls o s).port p).wrapping = (s.port p).wrapping := by
    rw [headTaken_port, (setTok_setWait_rest ..).2]
  unfold Chip.takes Chip.usable Chip.unwrapped Chip.trained Chip.inring Chip.flag
  rw [hfld, hfld, hfld, hlane, hwrap]

/-- A status is admitted. -/
theorem offerHead_admits (hcls : cls < 2) (h : (s.port p).wait cls = [o]) (howner : o.owner = .status) (htakes : s.takes p cls = true)
    (ho : o.cls.toNat = cls) (htok : 2048 * (o.words.length + 2) ≤ (s.port p).tok cls) :
    offerHead p cls s = (true, headSent p cls o s) := by
  have hfill : s.fillOffer o = o := by
    unfold Chip.fillOffer
    rw [howner]
  have husable : s.usable p cls = true := by
    unfold Chip.takes at htakes
    exact (Bool.and_eq_true_iff.mp htakes).1
  have htokens : s.hasTokens p cls (o.words.length + 2) = true := decide_eq_true htok
  have hadmit : ∀ t, onAdmit o none t = t := fun t => by
    unfold onAdmit contentDone
    rw [howner]
    exact ite_self t
  have hplace : placeTx raise p (o.toTx s (nth 0 s.ring.pseq cls) none) (headTaken p cls o s) = headSent p cls o s := by
    have htx : (headTaken p cls o s).takesTx p (o.toTx s (nth 0 s.ring.pseq cls) none) = true := by
      unfold Chip.takesTx
      refine (if_neg (show ¬ (o.toTx s (nth 0 s.ring.pseq cls) none).through = true from Bool.false_ne_true)).trans ?_
      show (headTaken p cls o s).takes p o.cls.toNat = true
      rw [ho, headTaken_takes, htakes]
    unfold placeTx
    rw [if_pos htx]
    exact if_neg (show ¬ (o.toTx s (nth 0 s.ring.pseq cls) none).through = true from Bool.false_ne_true)
  have hpseq : ((s.setPort p ((s.port p).setWait cls [])).takePseq cls).1 = nth 0 s.ring.pseq cls := by cases p <;> rfl
  unfold offerHead
  rw [h]
  dsimp only
  rw [hfill, husable, htokens, Bool.true_or, Bool.and_self, if_pos rfl, if_pos hcls, hpseq, hadmit]
  exact congrArg (Prod.mk true) hplace

theorem pumpQueue_admits (hcls : cls < 2) (h : (s.port p).wait cls = [o]) (howner : o.owner = .status) (htakes : s.takes p cls = true)
    (ho : o.cls.toNat = cls) (htok : 2048 * (o.words.length + 2) ≤ (s.port p).tok cls) : pumpQueue p cls s = headSent p cls o s := by
  rw [pumpQueue_of_cons h, offerHead_admits hcls h howner htakes ho htok]
  rfl

/-- What the admission of a status leaves. -/
theorem headSent_sent (p : Port) (cls : Nat) (o : Offer) (s : Chip) : ((headSent p cls o s).port p).wait cls = [] ∧
    ((headSent p cls o s).port p).txq = (s.port p).txq ++ [o.toTx s (nth 0 s.ring.pseq cls) none] ∧
    ((headSent p cls o s).port p).tok cls = (s.port p).tok cls - 2048 * (o.words.length + 2) ∧
    (headSent p cls o s).port p.other = s.port p.other ∧ (headSent p cls o s).regs = s.regs ∧
    (headSent p cls o s).ring.pseq = s.ring.pseq.set cls ((nth 0 s.ring.pseq cls + 1) % 65536) := by
  obtain ⟨hregs, hpseq, hother, -⟩ := headTaken_rest p cls o s
  have hport : (headSent p cls o s).port p = _ := Chip.port_setPort_same ..
  have hbucket : ∀ (t : PortSt) (l : List TxPkt) (k : Nat), { t with txq := l }.tok k = t.tok k ∧ { t with txq := l }.wait k = t.wait k := fun t l k => by
    rcases k with _ | _ | _ | k <;> exact ⟨rfl, rfl⟩
  refine ⟨?_, ?_, ?_, (Chip.port_setPort_other ..).trans hother, ?_, ?_⟩
  · rw [hport, (hbucket ..).2, headTaken_port, wait_setTok, wait_setWait_same]
  · rw [hport, headTaken_port, (setTok_setWait_rest ..).1]
  · rw [hport, (hbucket ..).1, headTaken_port, tok_setTok_same]
  · exact (Chip.setPort_rest ..).1.trans hregs
  · exact (congrArg RingSt.pseq (Chip.setPort_rest ..).2).trans hpseq

/-! ### RNG_DROPPED (R310) -/

/-- The head of a queue was refused for as long as RNG_HOLD says. -/
def Chip.HeldOut (s : Chip) (o : Offer) : Prop := o.refused = true ∧ o.held + 2048 * max 1 (s.fld F.RNG_HOLD_FRAMES) ≤ s.cclkNow

theorem dropHead_of_held (h : (s.port p).wait cls = o :: rest) (hheld : s.HeldOut o) :
    dropHead p cls s = pumpQueue p cls (onDiscard p o (s.setPort p ((s.port p).setWait cls rest))) := by
  obtain ⟨hrefused, hframes⟩ := hheld
  unfold dropHead
  rw [h]
  exact if_pos (by rw [hrefused, decide_eq_true hframes]; rfl)

theorem dropHead_of_not_held (h : ¬ ∃ o rest, (s.port p).wait cls = o :: rest ∧ s.HeldOut o) : dropHead p cls s = s := by
  unfold dropHead
  split
  · rfl
  · next o rest hq =>
    refine if_neg fun hc => h ⟨o, rest, hq, ?_⟩
    rwa [Bool.and_eq_true, decide_eq_true_eq] at hc

/-- A discard begins with its announcement. -/
theorem onDiscard_seen (p : Port) (o : Offer) (s : Chip) : (onDiscard p o s).eventSeen EV.RNG_DROPPED = true := by
  have hseen : ∀ (x : PortSt) (n : Nat),
      (((raise EV.RNG_DROPPED (s.bump F.RNG_DROP_COUNT)).setPort p x).bumpBy F.RNG_DROP_COUNT n).eventSeen EV.RNG_DROPPED = true := fun x n =>
    (setFld_seen _ _ _ _ (by decide) (by decide)).trans
      ((setPort_ships _ p x).events _ (by decide) (raise_seen EV.RNG_DROPPED (by decide) (s.bump F.RNG_DROP_COUNT)))
  unfold onDiscard
  dsimp only
  split
  · refine (raise_ships EV.EVT_LOST (by decide) _).events EV.RNG_DROPPED (by decide) ?_
    refine (setFld_seen _ F.EVT_PKT_LOST_COUNT _ _ (by decide) (by decide)).trans ?_
    exact (clearGroup_ships _ _ _).events _ (by decide) (hseen _ _)
  · exact (giveUpItem_ships _ _ _ _).events _ (by decide) (hseen _ _)
  · exact (contentDone_ships _ _).events _ (by decide) (hseen _ _)

theorem dropHead_drops (hcls : cls < 4) (h : (s.port p).wait cls = o :: rest) (hheld : s.HeldOut o) :
    Ships s (dropHead p cls s) ∧ (dropHead p cls s).eventSeen EV.RNG_DROPPED = true := by
  rw [dropHead_of_held h hheld]
  refine ⟨((setPort_ships s p _).trans (onDiscard_ships p o _)).trans (pumpQueue_ships p cls hcls _), ?_⟩
  exact (pumpQueue_ships p cls hcls _).events _ (by decide) (onDiscard_seen p o _)

end

end Sys2Proof.Machine
end

section
/-! PROOFS. The rows of ring packets (O55). -/

namespace Sys2Proof.Machine

/-- Settles O55. Each row is one condition of the model with the equation of its branch; a packet that passes through is `passing`, and what
the offer of a queue's head can do is `Ships`. -/
theorem ringPacketRowsComplete : Obligations.RingPacketRowsComplete := by
  unfold Obligations.RingPacketRowsComplete
  have hnext : ∀ {s : State} {u v : Chip}, u = v →
      (Host.Outcome.next { s with chip := u } : Host.Outcome State Fault Refusal) = .next { s with chip := v } := fun h => by rw [h]
  refine ⟨fun s => ?_, fun p s => ?_, fun p q first s => ?_, fun p q s => ?_, fun s => ?_, fun p cls s => ?_⟩
  · intro c due
    refine ⟨fun ⟨hn, hrun, hcclk, hin⟩ => ⟨_, rfl, ?_⟩, fun h => hnext (ringAutoleave_of_not_due fun hd => h ⟨hd.1.1, hd.1.2.1, hd.1.2.2, hd.2⟩)⟩
    rw [ringAutoleave_of_due ⟨hn, hrun, hcclk⟩]
    exact ⟨lowerInring_keeps c, lowerInring_inring c, lowerInring_left hin, (lowerInring_ring hin).1, (lowerInring_ring hin).2, lowerInring_state⟩
  · intro c due
    refine ⟨fun h => ⟨_, rfl, ?_⟩, fun h => hnext (ringUnwrap_of_not_due h)⟩
    rw [ringUnwrap_of_due h]
    exact ⟨(unwrappedPort_announces p c).trans (raise_announces _ (by cases p <;> decide) _), _, rfl, (unwrappedPort_port p c).1,
      (unwrappedPort_port p c).2, unwrappedPort_flag p c⟩
  · intro c own mine run t
    refine ⟨fun h => hnext (receivePacket_of_deaf h), fun hrec haddr => ⟨fun hown hb => ?_, fun hown hb => ⟨_, rfl, ?_, ?_⟩,
      fun hown hmine hbroken => ⟨_, rfl, ?_⟩, fun hown hmine hcrc hwhole htype hm => ⟨_, rfl, ?_, ?_⟩,
      fun hown hmine hb htype hhops => ⟨_, rfl, ?_⟩, fun hown hmine hb htype hhops => ⟨_, rfl, ?_⟩⟩⟩
    · exact hnext ((receivePacket_of_own hrec haddr hown).trans (if_pos hb))
    · exact (receivePacket_of_own hrec haddr hown).trans (if_neg hb)
    · exact (congrArg (Chip.eventSeen · EV.RNG_STRAY) ((receivePacket_of_own hrec haddr hown).trans (if_neg hb))).trans (raise_seen _ (by decide) _)
    · exact receivePacket_of_broken hrec haddr hown hmine.1 hbroken
    · exact receivePacket_of_malformed hrec haddr hown hmine.1 hmine.2 hcrc hwhole htype hm
    · exact (congrArg (Chip.eventSeen · EV.RNG_BADPKT) (receivePacket_of_malformed hrec haddr hown hmine.1 hmine.2 hcrc hwhole htype hm)).trans
        (raise_seen _ (by decide) _)
    · exact (receivePacket_of_passing hrec haddr hown (fun h => hmine ⟨h, hb⟩) hb htype).trans (forward_of_spent _ hhops)
    · obtain ⟨hport, hpasses, hwraps⟩ := crcCounted_same p q.crcOk c p.other q.cls.toNat
      obtain ⟨hback, -, -⟩ := crcCounted_same p q.crcOk c p q.cls.toNat
      refine ⟨passing q (!q.crcOk || q.bad) t, placeTx raise p.other (passing q (!q.crcOk || q.bad) t) t, ?_, rfl, rfl, rfl, rfl, rfl, rfl, rfl, rfl,
        rfl, rfl, rfl, fun hpass hroom => ?_, fun hpass hfull => ?_, fun hpass hwrap => ?_⟩
      · exact (receivePacket_of_passing hrec haddr hown (fun h => hmine ⟨h, hb⟩) hb htype).trans (forward_of_hops _ hhops)
      · have hroom' : (t.port p.other).fwdBlocks + q.words.length + 2 ≤ 4096 := by rwa [hport]
        rw [placeTx_of_room rfl (hpasses.trans hpass) hroom', (placeTx_room_port ..).1, ← hport]
        refine ⟨rfl, Eq.trans ?_ hback⟩
        have hother : p.other.other = p := by cases p <;> rfl
        have hsame := (placeTx_room_port (s := t) (o := p.other) { t.port p.other with fwd := (t.port p.other).fwd ++ [passing q (!q.crcOk || q.bad) t] }
          (F.RN_BUF_HWM_BLOCKS p.other.ix) ((t.port p.other).fwdBlocks + q.words.length + 2)).2
        rwa [hother] at hsame
      · exact placeTx_of_full rfl (hpasses.trans hpass) (by rwa [hport])
      · exact placeTx_of_lost rfl (hpasses.trans hpass) (hwraps.trans hwrap)
  · intro c good seen
    have haddr : good → Addressed p q c ∧ q.cls = 1#2 := fun ⟨hrec, hdest, hsrc, ha, hcrc, hwhole, hcls⟩ => ⟨⟨hrec, hdest, hsrc, ha, hcrc, hwhole⟩, hcls⟩
    refine ⟨fun hgood ht hw => ⟨_, rfl, ?_⟩, fun hgood ht hw => ⟨_, rfl, ?_⟩, fun ht => hnext (receiveTyped_of_ne 0 c ?_),
      fun w0 w1 hgood ht hw hframe => ⟨_, rfl, ?_⟩, fun w0 w1 hgood ht hw hframe => ⟨_, rfl, ?_⟩, fun ht => hnext (receiveTyped_of_ne 0 c ?_)⟩
    · obtain ⟨hto, hcls⟩ := haddr hgood
      exact (receiveTyped_cmd hto hcls ht).trans (joinBatch_of_words hw _)
    · obtain ⟨hto, hcls⟩ := haddr hgood
      exact (receiveTyped_cmd hto hcls ht).trans (by rw [hw]; exact joinBatch_of_empty _ _)
    · exact fun h => ht (BitVec.eq_of_toNat_eq h)
    · obtain ⟨hto, hcls⟩ := haddr hgood
      exact receiveTyped_credit hto hcls ht hw hframe
    · obtain ⟨hto, hcls⟩ := haddr hgood
      exact receiveTyped_credit_of_malformed hto hcls ht hw hframe
    · exact fun h => ht (BitVec.eq_of_toNat_eq h)
  · intro c due
    refine ⟨fun h => ⟨_, rfl, ?_⟩, fun h => hnext (creditLapsed_of_not_due h)⟩
    rw [creditLapsed_of_due h]
    have hregs := clipTokens_regs (ungranted c)
    have hfld : ∀ g, (clipTokens (ungranted c)).fld g = (ungranted c).fld g := fun g => by unfold Chip.fld; rw [hregs]
    refine ⟨((ungranted_announces c).trans (clipTokens_announces _)).trans (raise_announces _ (by decide) _), _, rfl,
      (Chip.flag_congr (hfld _)).trans (ungranted_flag c), fun i hi => ?_, fun p k hk => ?_⟩
    · rw [hfld, hfld]
      exact ungranted_grants c hi
    · rw [clipTokens_tok _ p hk, tokDepth_congr hregs, ungranted_port]
  · intro c n q can
    refine ⟨fun h => hnext (admitQueue_of_idle h), fun hup => ⟨_, rfl, ?_⟩, fun o hup hq howner hn htakes ho htok => ⟨_, rfl, ?_⟩,
      fun o rest hup hq hrefused hcan => hnext ?_, fun o rest hup hq hrefused hcan howner => ⟨_, rfl, ?_⟩, ?_⟩
    · rw [admitQueue_of_up hup]
      exact pumpQueue_ships p cls cls.isLt c
    · rw [admitQueue_of_up hup, pumpQueue_admits hn hq howner htakes ho htok]
      exact headSent_sent p n o c
    · exact (admitQueue_of_up hup).trans (pumpQueue_of_refused hq hrefused hcan)
    · rw [admitQueue_of_up hup]
      exact pumpQueue_refuses cls.isLt hq hrefused hcan
    · intro due
      exact ⟨fun ⟨o, rest, hq, hrefused, hheld⟩ => ⟨_, rfl, dropHead_drops cls.isLt hq ⟨hrefused, hheld⟩⟩, fun h => hnext (dropHead_of_not_held h)⟩

end Sys2Proof.Machine
end

section
/-! PROOFS. What no raising and no reading of a memory touches of a transmitter (R279, R306): whose turn the next slot is, and the lines. -/

namespace Sys2Proof.Machine

/-! ### The turn of a transmitter -/

/-- What decides the next slot of each port, with the lines. -/
def Chip.turn (s : Chip) : (Nat × Nat) × (Nat × Nat) × Clk × Table LineSt :=
  ((s.ringE.txLane, s.ringE.txSlot), (s.ringW.txLane, s.ringW.txSlot), s.clk, s.line)

/-- `t` has the turns of the transmitters as `s` has them. -/
structure SameTurn (s t : Chip) : Prop where
  turn : t.turn = s.turn

section
variable {s t u : Chip}

theorem SameTurn.refl (s : Chip) : SameTurn s s := ⟨rfl⟩

theorem SameTurn.trans (h : SameTurn s t) (k : SameTurn t u) : SameTurn s u := ⟨k.turn.trans h.turn⟩

theorem SameTurn.ite {b : Prop} [Decidable b] (h : SameTurn s t) (k : SameTurn s u) : SameTurn s (if b then t else u) := by
  split
  · exact h
  · exact k

theorem SameTurn.forAll {α : Type} {f : α → Chip → Chip} (h : ∀ a s, SameTurn s (f a s)) (l : List α) (s : Chip) :
    SameTurn s (forAll l f s) := by
  unfold Sys2Proof.Machine.forAll
  induction l generalizing s with
  | nil => exact SameTurn.refl s
  | cons a l ih => exact (h a s).trans (ih _)

/-- What touches neither a turn nor a line may follow. -/
theorem SameTurn.to (h : SameTurn s t) (k : u.turn = t.turn) : SameTurn s u := h.trans ⟨k⟩

theorem SameTurn.of_eq (h : SameTurn s t) (k : t = u) : SameTurn s u := k ▸ h

/-- A fold that carries the chip with what it gathers. -/
theorem SameTurn.foldl {α β : Type} {f : β → α → β} {chip : β → Chip} (h : ∀ acc a, SameTurn (chip acc) (chip (f acc a))) (l : List α)
    (acc : β) : SameTurn (chip acc) (chip (l.foldl f acc)) := by
  induction l generalizing acc with
  | nil => exact SameTurn.refl _
  | cons a l ih => exact (h acc a).trans (ih _)

variable (h : SameTurn s t)
include h

theorem SameTurn.port (p : Port) : (t.port p).txLane = (s.port p).txLane ∧ (t.port p).txSlot = (s.port p).txSlot := by
  obtain ⟨heast, hwest, -⟩ : (t.ringE.txLane, t.ringE.txSlot) = (s.ringE.txLane, s.ringE.txSlot) ∧
    (t.ringW.txLane, t.ringW.txSlot) = (s.ringW.txLane, s.ringW.txSlot) ∧ _ := by
    exact ⟨congrArg (·.1) h.turn, congrArg (·.2.1) h.turn, trivial⟩
  cases p
  · exact Prod.mk.inj heast
  · exact Prod.mk.inj hwest

theorem SameTurn.clk : t.clk = s.clk := congrArg (·.2.2.1) h.turn

theorem SameTurn.line : t.line = s.line := congrArg (·.2.2.2) h.turn

end

theorem setPort_sameTurn {p : Port} {x : PortSt} {s : Chip} (hlane : x.txLane = (s.port p).txLane) (hslot : x.txSlot = (s.port p).txSlot) :
    SameTurn s (s.setPort p x) := by
  constructor
  unfold Chip.turn
  cases p
  · rw [show (s.setPort .east x).ringE = x from rfl, hlane, hslot]
    rfl
  · rw [show (s.setPort .west x).ringW = x from rfl, hlane, hslot]
    rfl

theorem setFwd_sameTurn (p : Port) (l : List TxPkt) (s : Chip) : SameTurn s (s.setPort p { s.port p with fwd := l }) := setPort_sameTurn rfl rfl

theorem setTxq_sameTurn (p : Port) (l : List TxPkt) (s : Chip) : SameTurn s (s.setPort p { s.port p with txq := l }) := setPort_sameTurn rfl rfl

theorem SameTurn.highWater {s t : Chip} (h : SameTurn s t) (f : Fld) (v : Nat) : SameTurn s (t.highWater f v) := .ite (h.to rfl) h

/-! ### Raisings -/

/-- What a raiser is held to. -/
def KeepsTurn (rz : Nat → Chip → Chip) : Prop := ∀ e s, SameTurn s (rz e s)

section
variable {rz : Nat → Chip → Chip} (hz : KeepsTurn rz)
include hz

/-- A raising behind what touches neither a turn nor a line. -/
theorem KeepsTurn.after (e : Nat) {s t : Chip} (h : t.turn = s.turn) : SameTurn s (rz e t) := SameTurn.trans ⟨h⟩ (hz e t)

theorem KeepsTurn.bump (e : Nat) (f : Fld) (s : Chip) : SameTurn s (rz e (s.bump f)) := hz.after e rfl

theorem wrapInto_sameTurn (o : Port) (q : TxPkt) (s : Chip) : SameTurn s (wrapInto rz o q s) :=
  .ite (.ite (.refl s) (hz.bump _ _ s)) (.ite ((setFwd_sameTurn _ _ s).highWater _ _) (hz.bump _ _ s))

theorem startWrap_sameTurn (p : Port) (s : Chip) : SameTurn s (startWrap rz p s) := by
  unfold startWrap
  extract_lets t s1 s2
  have h2 : SameTurn s s2 := SameTurn.trans (t := s1) (setPort_sameTurn rfl rfl) ⟨rfl⟩
  exact .ite (.refl s) ((h2.trans (hz _ _)).trans (.forAll (fun q => wrapInto_sameTurn hz p.other q) _ _))

theorem placeTx_sameTurn (p : Port) (q : TxPkt) (s : Chip) : SameTurn s (placeTx rz p q s) :=
  .ite (.ite (.ite ((setFwd_sameTurn _ _ s).highWater _ _) (hz.bump _ _ s)) (setTxq_sameTurn _ _ s))
    (.ite ((startWrap_sameTurn hz p s).trans (wrapInto_sameTurn hz _ q _)) ⟨rfl⟩)

theorem refuse_sameTurn (cls : Nat) (s : Chip) : SameTurn s (refuse rz cls s) := hz.bump _ _ s

theorem offerDrop_sameTurn (p : Port) (o : Offer) (v : Nat) (s : Chip) : SameTurn s (offerDrop rz p o v s).2 := by
  have htake : ∀ cls n, SameTurn s (takeTokens p cls n s) := fun cls n => by
    refine setPort_sameTurn ?_ ?_
    all_goals
      unfold PortSt.setTok
      split <;> rfl
  unfold offerDrop
  dsimp only
  split
  · exact (htake _ _).trans (placeTx_sameTurn hz p _ _)
  · split
    · exact (refuse_sameTurn hz _ s).trans (hz.bump _ _ _)
    · exact refuse_sameTurn hz _ s

theorem sendDrop_sameTurn (o : Offer) (s : Chip) : SameTurn s (sendDrop rz o s).2 := by
  have hports : SameTurn s ((s.routes o.dest.toNat).foldl (fun (acc : Bool × Chip) p =>
      let (a, t) := offerDrop rz p o (s.takePseq o.cls.toNat).1 acc.2; (acc.1 || a, t)) (false, (s.takePseq o.cls.toNat).2)).2 :=
    SameTurn.trans (t := (s.takePseq o.cls.toNat).2) ⟨rfl⟩ (SameTurn.foldl (chip := Prod.snd)
      (f := fun (acc : Bool × Chip) p => let (a, t) := offerDrop rz p o (s.takePseq o.cls.toNat).1 acc.2; (acc.1 || a, t))
      (fun acc p => offerDrop_sameTurn hz p o _ acc.2) _ (false, (s.takePseq o.cls.toNat).2))
  unfold sendDrop
  dsimp only
  split
  · exact hports
  · exact hports.to rfl

theorem sendStop_sameTurn (c t : Nat) (s : Chip) : SameTurn s (sendStop rz c t s) := by
  unfold sendStop
  extract_lets seq s1 w0 o r
  have hr : SameTurn s r.2 := SameTurn.trans (t := s1) ⟨rfl⟩ (sendDrop_sameTurn hz o s1)
  exact .ite (hr.to rfl) hr

theorem meetCond_sameTurn (c t : Nat) (s : Chip) : SameTurn s (meetCond rz c t s) := by
  unfold meetCond
  extract_lets sc fb s0 s1 s1a s2 s4
  have h0 : SameTurn s s0 := ⟨rfl⟩
  have h1 : SameTurn s s1 := .ite (h0.trans (hz.bump _ _ _)) h0
  have h1a : SameTurn s s1a := .ite (b := s.flag (F.LOOP_SC_CFG_LATCH c) = true) (h1.to rfl) h1
  have h4 : SameTurn s s4 := h1a.trans (hz.after _ rfl)
  exact .ite h1a (.ite (h4.trans (sendStop_sameTurn hz c t _)) h4)

theorem offerSafety_sameTurn (e : Nat) (s : Chip) : SameTurn s (offerSafety rz e s) :=
  .forAll (fun c s => .ite (meetCond_sameTurn hz c _ s) (.refl s)) (List.range 16) s

end

theorem raiseFuel_keepsTurn (n : Nat) : KeepsTurn (raiseFuel n) := by
  induction n with
  | zero => exact fun _ _ => ⟨rfl⟩
  | succ n ih =>
    intro e s
    have hmark : SameTurn s (markEvent e s) := ⟨rfl⟩
    unfold raiseFuel
    dsimp only
    split
    · exact hmark
    · split
      · exact hmark.to rfl
      · exact .ite hmark (hmark.trans (offerSafety_sameTurn ih e _))
      · exact hmark

theorem raise_sameTurn (e : Nat) (s : Chip) : SameTurn s (raise e s) := raiseFuel_keepsTurn 17 e s

/-- A raising behind what touches neither a turn nor a line. -/
theorem SameTurn.raised {s t u : Chip} (h : SameTurn s t) (e : Nat) (k : u.turn = t.turn) : SameTurn s (raise e u) :=
  (h.to k).trans (raise_sameTurn e u)

/-! ### The coded memories -/

theorem logEvent_sameTurn (e : LogEntry) (s : Chip) : SameTurn s (logEvent e s) := by
  have hlost : SameTurn s (raise EV.LOG_OVF (s.bump F.MIN_LOG_LOST_COUNT)) := (SameTurn.refl s).raised _ rfl
  unfold logEvent
  dsimp only
  split
  · exact ⟨rfl⟩
  · split
    · exact ⟨rfl⟩
    · split
      · split
        · exact hlost.trans ⟨rfl⟩
        · exact hlost
      · exact hlost

theorem noteCorrected_sameTurn (kind src m w bit : Nat) (s : Chip) : SameTurn s (noteCorrected kind src m w bit s) :=
  (logEvent_sameTurn ⟨kind, src, m, 1, w, bit, _⟩ s).raised _ rfl

theorem noteUncorrectable_sameTurn (src m w : Nat) (s : Chip) : SameTurn s (noteUncorrectable src m w s) :=
  (logEvent_sameTurn ⟨3, src, m, 1, w, 0x7F, _⟩ s).raised _ rfl

theorem poisonBlock_sameTurn (src m b : Nat) (s : Chip) : SameTurn s (poisonBlock src m b s) :=
  SameTurn.trans (t := s.setMem m _) ⟨rfl⟩ (noteUncorrectable_sameTurn src m _ _)

theorem blockCheck_sameTurn (src m b : Nat) (s : Chip) : SameTurn s (blockCheck src m b s) := by
  have hfixed : ∀ kind w bit x, SameTurn s (noteCorrected kind src m w bit (s.setMem m x)) := fun kind w bit x =>
    SameTurn.trans (t := s.setMem m x) ⟨rfl⟩ (noteCorrected_sameTurn kind src m w bit _)
  unfold blockCheck
  dsimp only
  split
  · exact .ite (.refl s) (poisonBlock_sameTurn src m b s)
  · split
    · exact hfixed _ _ _ _
    · split
      · exact hfixed _ _ _ _
      · exact poisonBlock_sameTurn src m b s
  · split
    · exact hfixed _ _ _ _
    · split
      · exact hfixed _ _ _ _
      · exact poisonBlock_sameTurn src m b s
  · exact poisonBlock_sameTurn src m b s

theorem memRead_sameTurn (m w : Nat) (s : Chip) : SameTurn s (memRead m w s).2.2 := by
  have hcheck : ∀ b : Bool, SameTurn s (if b then s else blockCheck 1 m (w / 8) s) := fun b => .ite (.refl s) (blockCheck_sameTurn 1 m _ s)
  unfold memRead
  extract_lets par s1
  have h1 : SameTurn s s1 := hcheck _
  split
  · exact h1.raised _ rfl
  · exact h1

theorem memWrite_sameTurn (m w mask d : Nat) (s : Chip) : SameTurn s (memWrite m w mask d s) := by
  have hcheck : ∀ b : Bool, SameTurn s (if b then s else blockCheck 2 m (w / 8) s) := fun b => .ite (.refl s) (blockCheck_sameTurn 2 m _ s)
  unfold memWrite
  extract_lets par s1 new s2
  have h1 : SameTurn s s1 := hcheck _
  have h2 : SameTurn s s2 := .ite (h1.to rfl) (h1.to rfl)
  exact .ite (h2.to rfl) h2

theorem readWords_sameTurn (n : Nat) (o : Obj) (s : Chip) : SameTurn s (readWords n o s).2.2 :=
  SameTurn.foldl (chip := fun acc : List W64 × List Nat × Chip => acc.2.2) (fun acc w => memRead_sameTurn 0 w acc.2.2) _ ([], [], s)

theorem giveUpItem_sameTurn (pt cseq : Nat) (poison : Bool) (s : Chip) : SameTurn s (giveUpItem pt cseq poison s) := by
  have hset : ∀ e v (t : Chip), SameTurn t (setExtent e v t) := fun e v t =>
    .ite (.refl t) ((memWrite_sameTurn 1 e 255 v t).trans (.ite (.refl _) ⟨rfl⟩))
  unfold giveUpItem
  split
  · exact .refl s
  · extract_lets _ s1 s2 s3
    have h2 : SameTurn s s2 := by
      dsimp only [s2]
      split <;> exact ⟨rfl⟩
    have h3 : SameTurn s s3 := by
      dsimp only [s3]
      split
      · exact h2.trans (hset _ _ _)
      · exact h2
    exact h3.raised _ rfl

/-! ### The transmitter -/

theorem settleForward_sameTurn (p : Port) (s : Chip) : SameTurn s (settleForward p s) := by
  have hwrite : ∀ (head : Nat) (ws : List (Nat × W64)) (t : Chip), SameTurn t
      (forAll ws (fun x s => memWrite 10 (4096 * p.ix + (head + 1 + x.1) % 4096) 255 x.2.toNat s) t) := fun head ws t =>
    .forAll (fun x => memWrite_sameTurn 10 _ _ _) ws t
  unfold settleForward
  extract_lets t step r
  have hr : SameTurn s r.2 := by
    refine SameTurn.foldl (chip := Prod.snd) (fun acc q => ?_) t.fwd ([], s)
    dsimp only [step]
    split
    · exact .refl _
    · exact (hwrite _ _ _).trans (setPort_sameTurn rfl rfl)
  exact hr.trans (setPort_sameTurn rfl rfl)

theorem stampTime_sameTurn (p : Port) (q : TxPkt) (s : Chip) : SameTurn s (stampTime p q s).2 := by
  unfold stampTime
  dsimp only
  split
  · cases p <;> exact ⟨rfl⟩
  · exact .refl s

theorem poisonedTx_sameTurn (q : TxPkt) (s : Chip) : SameTurn s (poisonedTx q s).2 := by
  have hnote : SameTurn s (notePoisonedEgress s) := (SameTurn.refl s).raised _ rfl
  unfold poisonedTx
  dsimp only
  split
  · exact hnote.trans (giveUpItem_sameTurn _ _ _ _)
  · exact hnote

theorem startTx_sameTurn (p : Port) (q : TxPkt) (s : Chip) : SameTurn s (startTx p q s).2 := by
  unfold startTx
  split
  next q1 s1 hstamp =>
    have h1 : SameTurn s s1 := by
      split at hstamp
      · exact (stampTime_sameTurn p q s).of_eq (congrArg Prod.snd hstamp)
      · exact (SameTurn.refl s).of_eq (congrArg Prod.snd hstamp)
    extract_lets n fromEgress
    split
    next o _ =>
      split
      next ws bad s2 hread =>
        have h2 : SameTurn s s2 := by
          refine (h1.to (u := addBacklog 4 (8 * o.offsets.length) s1) rfl).trans ?_
          exact (readWords_sameTurn 9 o _).of_eq (congrArg (·.2.2) hread)
        extract_lets q2
        split
        · exact h2.trans (poisonedTx_sameTurn q2 s2)
        · exact h2
    · extract_lets r q2
      have hr : SameTurn s r.2.2 := h1.trans (SameTurn.foldl (chip := fun acc : List W64 × Bool × Chip => acc.2.2)
        (fun acc i => memRead_sameTurn 10 _ acc.2.2) _ ([], false, s1))
      split
      · exact hr.raised _ rfl
      · exact hr
    · exact h1

theorem freeEgress_sameTurn (q : TxPkt) (s : Chip) : SameTurn s (freeEgress q s) := by
  unfold freeEgress
  split <;> exact ⟨rfl⟩

theorem endTx_sameTurn (p : Port) (q : TxPkt) (s : Chip) : SameTurn s (endTx p q s) :=
  .ite (SameTurn.trans (t := s.bump (F.RN_TXPKT_COUNT p.ix)) ⟨rfl⟩ (freeEgress_sameTurn q _)) ⟨rfl⟩

theorem setStarted_sameTurn (p : Port) (l : List TxPkt) (s : Chip) : SameTurn s (s.setPort p { s.port p with started := l }) :=
  setPort_sameTurn rfl rfl

theorem setLastTx_sameTurn (p : Port) (b : BitVec 66) (s : Chip) : SameTurn s (s.setPort p { s.port p with lastTx := b }) :=
  setPort_sameTurn rfl rfl

theorem sendBlock_sameTurn (p : Port) (b : BitVec 66) (s : Chip) : SameTurn s (sendBlock p b s) := (setLastTx_sameTurn p b s).to rfl

theorem continueTx_sameTurn (p : Port) (q : TxPkt) (rest : List TxPkt) (s : Chip) : SameTurn s (continueTx p q rest s) :=
  .ite ((setStarted_sameTurn p _ s).trans (sendBlock_sameTurn p _ _))
    (((setStarted_sameTurn p _ s).trans (sendBlock_sameTurn p _ _)).trans (endTx_sameTurn p q _))

/-- A START is taken from the queues of a port, whose turn stays. -/
theorem pickStart_turn {usable : Nat → Bool} {wait : Bool} {limit : Nat} {t t1 : PortSt} {q : TxPkt}
    (h : pickStart usable wait limit t = some (q, t1)) : t1.txLane = t.txLane ∧ t1.txSlot = t.txSlot := by
  obtain ⟨cls, -, hcls⟩ := List.exists_of_findSome?_eq_some h
  split at hcls
  · cases hcls
  · split at hcls
    · cases hcls
      exact ⟨rfl, rfl⟩
    · split at hcls
      · split at hcls
        · cases hcls
        · cases hcls
          exact ⟨rfl, rfl⟩
      · cases hcls

theorem trafficSlot_sameTurn (p : Port) (s : Chip) : SameTurn s (trafficSlot p s) := by
  unfold trafficSlot
  extract_lets s0 t limit
  have h0 : SameTurn s s0 := settleForward_sameTurn p s
  split
  next q t1 hpick =>
    obtain ⟨hlane, hslot⟩ := pickStart_turn hpick
    have hpicked : SameTurn s (s0.setPort p t1) := h0.trans (setPort_sameTurn hlane hslot)
    split
    next q1 s1 hstart =>
      have h1 : SameTurn s s1 := hpicked.trans ((startTx_sameTurn p q _).of_eq (congrArg Prod.snd hstart))
      extract_lets l s2
      have h2 : SameTurn s s2 := h1.trans (setStarted_sameTurn p _ s1)
      have hseq : SameTurn s (notePseq q1 s2) := .ite (h2.to rfl) h2
      exact hseq.trans (sendBlock_sameTurn p _ _)
  next =>
    split
    · exact .ite (h0.trans (setLastTx_sameTurn p _ s0)) (h0.trans (continueTx_sameTurn p _ _ s0))
    · exact h0.trans (setLastTx_sameTurn p _ s0)

end Sys2Proof.Machine
end

section
/-! PROOFS. The slot at a block boundary, and the lines that carry it (R278, R279, R289, R290, R306). -/

namespace Sys2Proof.Machine

section
variable {p : Port} {b : BitVec 66} {c s t u : Chip}

/-! ### Whose turn it is -/

/-- A block boundary of the port is none. -/
def Chip.SlotIdle (c : Chip) (p : Port) : Prop := c.running = false ∨ c.lnState p = 0 ∨ c.txLanes p = []

/-- The place of the next active lane among them. -/
def Chip.turnOf (c : Chip) (p : Port) : Nat := (c.port p).txLane % (c.txLanes p).length

/-- The next active lane. -/
def Chip.turnLane (c : Chip) (p : Port) : Nat := nth 0 (c.txLanes p) (c.turnOf p)

/-- A port with the turn passed on (R279). -/
def steppedPort (p : Port) (c : Chip) : PortSt :=
  { c.port p with
    txLane := if (c.txLanes p).length ≤ c.turnOf p + 1 then 0 else c.turnOf p + 1
    txSlot := if (c.txLanes p).length ≤ c.turnOf p + 1 then ((c.port p).txSlot + 1) % 16384 else (c.port p).txSlot
    txRow := if c.turnOf p = 0 then c.now else (c.port p).txRow }

/-- The chip with the turn of a port passed on. -/
def stepped (p : Port) (c : Chip) : Chip := c.setPort p (steppedPort p c)

/-- A port has passed the turn on, and the clock stands. -/
def Stepped (p : Port) (c u : Chip) : Prop :=
  (u.port p).txLane = (steppedPort p c).txLane ∧ (u.port p).txSlot = (steppedPort p c).txSlot ∧ u.clk = c.clk

theorem stepped_port (p : Port) (c : Chip) : (stepped p c).port p = steppedPort p c := Chip.port_setPort_same ..

theorem stepped_rest (p : Port) (c : Chip) : (stepped p c).regs = c.regs ∧ (stepped p c).clk = c.clk ∧ (stepped p c).line = c.line ∧
    (stepped p c).port p.other = c.port p.other := by
  refine ⟨?_, ?_, ?_, Chip.port_setPort_other ..⟩ <;> cases p <;> rfl

theorem stepped_fld (p : Port) (c : Chip) (f : Fld) : (stepped p c).fld f = c.fld f := Chip.setPort_fld ..

theorem stepped_lane (p : Port) (c : Chip) : (stepped p c).lane p = c.lane p := Chip.lane_setPort ..

theorem stepped_usable (p : Port) (c : Chip) : (stepped p c).usable p = c.usable p := by cases p <;> rfl

theorem SameTurn.stepped (h : SameTurn (stepped p c) u) : Stepped p c u ∧ u.line = c.line := by
  obtain ⟨hlane, hslot⟩ := h.port p
  obtain ⟨-, hclk, hline, -⟩ := stepped_rest p c
  rw [stepped_port] at hlane hslot
  exact ⟨⟨hlane, hslot, h.clk.trans hclk⟩, h.line.trans hline⟩

/-- A block is the next of a port. -/
def putBlock (p : Port) (b : BitVec 66) (s : Chip) : Chip := s.setPort p { s.port p with lastTx := b }

theorem putBlock_sameTurn (p : Port) (b : BitVec 66) (s : Chip) : SameTurn s (putBlock p b s) := setLastTx_sameTurn p b s

theorem putBlock_port (p : Port) (b : BitVec 66) (s : Chip) : (putBlock p b s).port p = { s.port p with lastTx := b } := Chip.port_setPort_same ..

theorem putBlock_other (p : Port) (b : BitVec 66) (s : Chip) : (putBlock p b s).port p.other = s.port p.other := Chip.port_setPort_other ..

theorem putBlock_regs (p : Port) (b : BitVec 66) (s : Chip) : (putBlock p b s).regs = s.regs := by cases p <;> rfl

/-! ### The block of the slot (R306) -/

theorem slotIdle_iff : (!c.running || decide (c.lnState p = 0) || (c.txLanes p).isEmpty) = true ↔ c.SlotIdle p := by
  rw [Bool.or_eq_true, Bool.or_eq_true, Bool.not_eq_true', decide_eq_true_eq, List.isEmpty_iff, or_assoc]
  rfl

theorem sendsBlocks_iff : c.sendsBlocks p = true ↔ ¬ c.flag (F.LN_TEST_PRBS p.ix) = true ∧ ¬ c.fld (F.LN_TEST_LOOP p.ix) = 3 := by
  unfold Chip.sendsBlocks
  rw [Bool.and_eq_true, Bool.not_eq_true', bne_iff_ne, Bool.not_eq_true]

theorem blockBoundary_of_idle (h : c.SlotIdle p) : blockBoundary p c = c := if_pos (slotIdle_iff.mpr h)

theorem blockBoundary_of_busy (h : ¬ c.SlotIdle p) : blockBoundary p c =
    if !c.sendsBlocks p then stepped p c
    else if (c.port p).txSlot = 0 then putBlock p (ctlBlock (c.amPayload p (c.turnLane p))) (stepped p c)
    else if c.trained p then trafficSlot p (stepped p c)
    else putBlock p (ctlBlock 0x1E) (stepped p c) := by
  have hs1 : c.setPort p { c.port p with
      txLane := if decide ((c.txLanes p).length ≤ c.turnOf p + 1) then 0 else c.turnOf p + 1
      txSlot := if decide ((c.txLanes p).length ≤ c.turnOf p + 1) then ((c.port p).txSlot + 1) % 16384 else (c.port p).txSlot
      txRow := if c.turnOf p = 0 then c.now else (c.port p).txRow } = stepped p c := by
    unfold stepped steppedPort
    simp only [decide_eq_true_eq]
  refine (if_neg fun hc => h (slotIdle_iff.mp hc)).trans ?_
  rw [← hs1]
  rfl

section
variable (hidle : ¬ c.SlotIdle p)
include hidle

theorem blockBoundary_of_silent (h : c.sendsBlocks p = false) : blockBoundary p c = stepped p c := by
  rw [blockBoundary_of_busy hidle, h]
  rfl

variable (hsends : c.sendsBlocks p = true)
include hsends

theorem blockBoundary_of_marker (h : (c.port p).txSlot = 0) :
    blockBoundary p c = putBlock p (ctlBlock (c.amPayload p (c.turnLane p))) (stepped p c) := by
  rw [blockBoundary_of_busy hidle, hsends, if_pos h]
  rfl

variable (hslot : (c.port p).txSlot ≠ 0)
include hslot

theorem blockBoundary_of_untrained (h : c.trained p = false) : blockBoundary p c = putBlock p (ctlBlock 0x1E) (stepped p c) := by
  rw [blockBoundary_of_busy hidle, hsends, if_neg hslot, h]
  rfl

theorem blockBoundary_of_trained (h : c.trained p = true) : blockBoundary p c = trafficSlot p (stepped p c) := by
  rw [blockBoundary_of_busy hidle, hsends, if_neg hslot, h]
  rfl

end

theorem blockBoundary_sameTurn (hidle : ¬ c.SlotIdle p) : SameTurn (stepped p c) (blockBoundary p c) := by
  rw [blockBoundary_of_busy hidle]
  exact .ite (.refl _) (.ite (putBlock_sameTurn p _ _) (.ite (trafficSlot_sameTurn p _) (putBlock_sameTurn p _ _)))

/-! ### The lines of the slot (R278, R289, R290) -/

/-- What a lane sends in a slot: a block scrambled, an AM as it is. -/
def Chip.wire (c : Chip) (p : Port) (j : Nat) (b : BitVec 66) : LineSt :=
  if (c.port p).txSlot = 0 then (c.lineOf p j).sendAm b else (c.lineOf p j).send b

/-- A lane sends a block. -/
def putWire (c : Chip) (p : Port) (j : Nat) (b : BitVec 66) (s : Chip) : Chip :=
  setLine p j (if (c.port p).txSlot = 0 then (s.lineOf p j).sendAm b else (s.lineOf p j).send b) s

/-- The block that the lanes of a widening send (R288). -/
def Chip.besideBlock (c : Chip) (p : Port) (j : Nat) : BitVec 66 := ctlBlock (if (c.port p).txSlot = 0 then c.amPayload p j else 0x1E)

theorem setLine_other {p : Port} {k j : Nat} (x : LineSt) (s : Chip) (h : j ≠ k) : (setLine p k x s).lineOf p j = s.lineOf p j :=
  Table.get_set_ne _ _ _ (by omega)

theorem putWire_same {j : Nat} (h : s.lineOf p j = c.lineOf p j) : (putWire c p j b s).lineOf p j = c.wire p j b := by
  unfold putWire
  rw [setLine_lineOf, h]
  rfl

theorem putWire_other {j k : Nat} (h : j ≠ k) : (putWire c p k b s).lineOf p j = s.lineOf p j := setLine_other _ s h

/-- `u` differs from `t` at most in the lines. -/
def LinesOnly (t u : Chip) : Prop := u = { t with line := u.line }

theorem LinesOnly.refl (t : Chip) : LinesOnly t t := rfl

theorem LinesOnly.trans (h : LinesOnly s t) (k : LinesOnly t u) : LinesOnly s u := by
  unfold LinesOnly at h k ⊢
  rw [k, h]

theorem putWire_linesOnly (j : Nat) (b : BitVec 66) (s : Chip) : LinesOnly s (putWire c p j b s) := rfl

theorem LinesOnly.forAll {α : Type} {f : α → Chip → Chip} (h : ∀ a s, LinesOnly s (f a s)) (l : List α) (s : Chip) :
    LinesOnly s (forAll l f s) := by
  unfold Sys2Proof.Machine.forAll
  induction l generalizing s with
  | nil => exact LinesOnly.refl s
  | cons a l ih => exact (h a s).trans (ih _)

section
variable (h : LinesOnly t u)
include h

theorem LinesOnly.port (q : Port) : u.port q = t.port q := by rw [h]; cases q <;> rfl
theorem LinesOnly.regs : u.regs = t.regs := by rw [h]
theorem LinesOnly.clk : u.clk = t.clk := by rw [h]
theorem LinesOnly.fld (f : Fld) : u.fld f = t.fld f := by unfold Chip.fld; rw [h.regs]

end

theorem lineOut_of_idle (h : c.SlotIdle p) : lineOut p c s = s := if_pos (slotIdle_iff.mpr h)

section
variable (hidle : ¬ c.SlotIdle p)
include hidle

theorem lineOut_of_prbs (hprbs : c.flag (F.LN_TEST_PRBS p.ix) = true) (hfar : ¬ c.fld (F.LN_TEST_LOOP p.ix) = 3) :
    lineOut p c s = setLine p (c.turnLane p) (s.lineOf p (c.turnLane p)).sendPrbs s :=
  (if_neg fun hc => hidle (slotIdle_iff.mp hc)).trans (if_pos (by rw [hprbs, bne_iff_ne.mpr hfar]; rfl))

theorem lineOut_of_far (hfar : c.fld (F.LN_TEST_LOOP p.ix) = 3) : lineOut p c s = s := by
  have hsends : c.sendsBlocks p = false := Bool.eq_false_iff.mpr fun h => (sendsBlocks_iff.mp h).2 hfar
  refine (if_neg fun hc => hidle (slotIdle_iff.mp hc)).trans ((if_neg ?_).trans (if_pos ?_))
  · rw [hfar]
    simp
  · rw [hsends]
    rfl

theorem lineOut_of_sends (hsends : c.sendsBlocks p = true) : lineOut p c s =
    if c.widening p then forAll [1, 2, 3] (fun j => putWire c p j (c.besideBlock p j)) (putWire c p (c.turnLane p) (s.port p).lastTx s)
    else putWire c p (c.turnLane p) (s.port p).lastTx s := by
  obtain ⟨hprbs, -⟩ := sendsBlocks_iff.mp hsends
  refine (if_neg fun hc => hidle (slotIdle_iff.mp hc)).trans ((if_neg ?_).trans ((if_neg ?_).trans rfl))
  · rw [Bool.and_eq_true]
    exact fun h => hprbs h.1
  · rw [hsends]
    decide

theorem lineOut_linesOnly (s : Chip) : LinesOnly s (lineOut p c s) := by
  by_cases hfar : c.fld (F.LN_TEST_LOOP p.ix) = 3
  · rw [lineOut_of_far hidle hfar]
    exact .refl s
  · by_cases hprbs : c.flag (F.LN_TEST_PRBS p.ix) = true
    · rw [lineOut_of_prbs hidle hprbs hfar]
      rfl
    · rw [lineOut_of_sends hidle (sendsBlocks_iff.mpr ⟨hprbs, hfar⟩)]
      split
      · exact (putWire_linesOnly _ _ s).trans (.forAll (fun j s => putWire_linesOnly j _ s) _ _)
      · exact putWire_linesOnly _ _ s

end

/-- The lanes of a widening: lane 0 has every turn (R288). -/
theorem turnLane_of_widening (h : c.widening p = true) : c.turnLane p = 0 := by
  obtain ⟨-, hmask, -⟩ := widening_iff.mp h
  have hlanes : c.txLanes p = [0] := by
    unfold Chip.txLanes
    rw [hmask]
    decide
  unfold Chip.turnLane Chip.turnOf
  rw [hlanes, show ([0] : List Nat).length = 1 from rfl, Nat.mod_one]
  rfl

/-- The lanes of a slot carry what the port sent. -/
theorem lineOut_wires (hidle : ¬ c.SlotIdle p) (hsends : c.sendsBlocks p = true) (hline : s.line = c.line) :
    (lineOut p c s).lineOf p (c.turnLane p) = c.wire p (c.turnLane p) ((lineOut p c s).port p).lastTx ∧
      (c.widening p = true → ∀ j ∈ [1, 2, 3], (lineOut p c s).lineOf p j = c.wire p j (c.besideBlock p j)) ∧
      (c.widening p = false → ∀ j, j < 4 → j ≠ c.turnLane p → (lineOut p c s).lineOf p j = c.lineOf p j) := by
  have hof : ∀ j, s.lineOf p j = c.lineOf p j := fun j => congrArg (fun x => Table.get LineSt.rest x (4 * p.ix + j)) hline
  rw [(lineOut_linesOnly hidle s).port p, lineOut_of_sends hidle hsends]
  have hturn := putWire_same (b := (s.port p).lastTx) (hof (c.turnLane p))
  have hrest : ∀ j, j ≠ c.turnLane p → (putWire c p (c.turnLane p) (s.port p).lastTx s).lineOf p j = c.lineOf p j := fun j hj =>
    (putWire_other hj).trans (hof j)
  cases hwide : c.widening p with
  | false => exact ⟨hturn, nofun, fun _ j _ hj => hrest j hj⟩
  | true =>
    have hzero := turnLane_of_widening hwide
    rw [hzero] at hturn hrest ⊢
    generalize putWire c p 0 (s.port p).lastTx s = s1 at hturn hrest
    have hbeside : forAll [1, 2, 3] (fun j => putWire c p j (c.besideBlock p j)) s1 =
      putWire c p 3 (c.besideBlock p 3) (putWire c p 2 (c.besideBlock p 2) (putWire c p 1 (c.besideBlock p 1) s1)) := rfl
    rw [if_pos rfl, hbeside]
    refine ⟨?_, fun _ j hj => ?_, nofun⟩
    · rw [putWire_other (by decide), putWire_other (by decide), putWire_other (by decide), hturn]
    · obtain rfl | rfl | rfl : j = 1 ∨ j = 2 ∨ j = 3 := by simpa using hj
      · rw [putWire_other (by decide), putWire_other (by decide), putWire_same (hrest 1 (by decide))]
      · rw [putWire_other (by decide), putWire_same ((putWire_other (by decide)).trans (hrest 2 (by decide)))]
      · exact putWire_same ((putWire_other (by decide)).trans ((putWire_other (by decide)).trans (hrest 3 (by decide))))

end

end Sys2Proof.Machine
end

section
/-! PROOFS. The packet in progress and the packet that starts at a block boundary (R302, R306, R323). -/

namespace Sys2Proof.Machine

section
variable {p : Port} {b : BitVec 66} {q : TxPkt} {rest : List TxPkt} {s u : Chip}

/-! ### A block leaves (R323) -/

theorem sendBlock_port (p : Port) (b : BitVec 66) (s : Chip) : (sendBlock p b s).port p = { s.port p with lastTx := b } :=
  (Chip.port_setFld ..).trans (Chip.port_setPort_same ..)

theorem sendBlock_other (p : Port) (b : BitVec 66) (s : Chip) : (sendBlock p b s).port p.other = s.port p.other :=
  (Chip.port_setFld ..).trans (Chip.port_setPort_other ..)

theorem sendBlock_count (p : Port) (b : BitVec 66) (s : Chip) :
    (sendBlock p b s).fld (F.RN_TXBLK_COUNT p.ix) = satTo 32 (s.fld (F.RN_TXBLK_COUNT p.ix) + 1) := by
  refine (Chip.fld_bump_same _ _ (by cases p <;> decide) rfl).trans ?_
  rw [Chip.setPort_fld]
  rfl

theorem sendBlock_fld {f : Fld} (h : f.addr ≠ (F.RN_TXBLK_COUNT p.ix).addr) : (sendBlock p b s).fld f = s.fld f :=
  (Chip.fld_bump_ne _ h).trans (Chip.setPort_fld ..)

/-- A port sends a traffic block: its counter, its stack of packets and its queue of own packets, with the rest of the port as it was. -/
structure SlotSent (p : Port) (b : BitVec 66) (started txq : List TxPkt) (s u : Chip) : Prop where
  port : u.port p = { s.port p with started := started, txq := txq, lastTx := b }
  other : u.port p.other = s.port p.other
  count : u.fld (F.RN_TXBLK_COUNT p.ix) = satTo 32 (s.fld (F.RN_TXBLK_COUNT p.ix) + 1)

/-! ### The end of a packet -/

theorem freeEgress_port (q : TxPkt) (s : Chip) (p : Port) : (freeEgress q s).port p = s.port p := by
  unfold freeEgress
  split <;> cases p <;> rfl

theorem freeEgress_fld (q : TxPkt) (s : Chip) (f : Fld) : (freeEgress q s).fld f = s.fld f := by
  unfold freeEgress
  split <;> rfl

/-- The counter of a packet that has left. -/
def leftCount (p : Port) (own : Bool) : Fld := if own then F.RN_TXPKT_COUNT p.ix else F.RN_FWDPKT_COUNT p.ix

theorem endTx_port (p : Port) (q : TxPkt) (s : Chip) (o : Port) : (endTx p q s).port o = s.port o := by
  unfold endTx
  split
  · exact (freeEgress_port ..).trans (Chip.port_setFld ..)
  · exact Chip.port_setFld ..

theorem endTx_fld (f : Fld) : (endTx p q s).fld f = (s.bump (leftCount p q.own)).fld f := by
  unfold endTx leftCount
  cases q.own with
  | true => exact freeEgress_fld ..
  | false => rfl

theorem endTx_count (p : Port) (q : TxPkt) (s : Chip) : (endTx p q s).fld (leftCount p q.own) = satTo 32 (s.fld (leftCount p q.own) + 1) := by
  have hw : (leftCount p q.own).w = 32 := by unfold leftCount; cases q.own <;> rfl
  rw [endTx_fld, Chip.fld_bump_same _ _ (by unfold leftCount; cases q.own <;> cases p <;> decide) (by unfold leftCount; cases q.own <;> rfl), hw]

theorem leftCount_ne (p : Port) (own : Bool) : (leftCount p own).addr ≠ (F.RN_TXBLK_COUNT p.ix).addr := by
  cases own <;> cases p <;> decide

/-! ### The packet in progress -/

theorem continueTx_data (h : q.sent ≤ q.words.length) : SlotSent p (dataBlock (nth 0#64 q.words (q.sent - 1)))
    ({ q with sent := q.sent + 1 } :: rest) (s.port p).txq s (continueTx p q rest s) := by
  unfold continueTx
  rw [if_pos h]
  refine ⟨?_, ?_, ?_⟩
  · rw [sendBlock_port, Chip.port_setPort_same]
  · rw [sendBlock_other, Chip.port_setPort_other]
  · rw [sendBlock_count, Chip.setPort_fld]

theorem continueTx_end (h : q.words.length < q.sent) :
    SlotSent p (ctlBlock q.endBlock) rest (s.port p).txq s (continueTx p q rest s) ∧
      (continueTx p q rest s).fld (leftCount p q.own) = satTo 32 (s.fld (leftCount p q.own) + 1) := by
  unfold continueTx
  rw [if_neg (not_le.mpr h)]
  refine ⟨⟨?_, ?_, ?_⟩, ?_⟩
  · rw [endTx_port, sendBlock_port, Chip.port_setPort_same]
  · rw [endTx_port, sendBlock_other, Chip.port_setPort_other]
  · rw [endTx_fld, Chip.fld_bump_ne _ (leftCount_ne p q.own).symm, sendBlock_count, Chip.setPort_fld]
  · rw [endTx_count, sendBlock_fld (leftCount_ne p q.own), Chip.setPort_fld]

/-! ### The packet that starts next (R306) -/

theorem findSome?_of_unique {α β : Type} {f : α → Option β} {a : α} {x : β} {l : List α} (ha : a ∈ l) (hf : f a = some x)
    (hother : ∀ y ∈ l, y ≠ a → f y = none) : l.findSome? f = some x := by
  induction l with
  | nil => cases ha
  | cons y l ih =>
    by_cases hy : y = a
    · rw [List.findSome?_cons, hy, hf]
    · rw [List.findSome?_cons, hother y List.mem_cons_self hy]
      exact ih ((List.mem_cons.mp ha).resolve_left (Ne.symm hy)) fun z hz => hother z (List.mem_cons_of_mem _ hz)

section
variable {usable : Nat → Bool} {wait : Bool} {limit : Nat} {t : PortSt}

theorem pickStart_of_empty (hfwd : t.fwd = []) (htxq : t.txq = []) : pickStart usable wait limit t = none := by
  refine List.findSome?_eq_none_iff.mpr fun cls _ => ?_
  rw [hfwd, htxq]
  split <;> rfl

/-- The only own packet starts, where its class may. -/
theorem pickStart_of_one {x : TxPkt} (hfwd : t.fwd = []) (htxq : t.txq = [x]) (hegress : x.egress = none) (husable : usable x.cls.toNat = true)
    (hlimit : x.cls.toNat < limit) : pickStart usable wait limit t = some (x, { t with txq := [] }) := by
  have hown : ∀ cls, nextOwn cls [x] = if x.cls.toNat != cls then none else some (0, x) := fun cls => rfl
  refine findSome?_of_unique (a := x.cls.toNat) (List.mem_range.mpr x.cls.isLt) ?_ fun cls _ hcls => ?_
  · rw [if_neg (by simp [husable, hlimit]), hfwd, htxq, hown, bne_self_eq_false]
    simp [nextThrough, hegress]
  · rw [hfwd, htxq, hown, bne_iff_ne.mpr hcls.symm]
    split <;> rfl

end

/-! ### The traffic slot -/

theorem Chip.setPort_self (s : Chip) (p : Port) : s.setPort p (s.port p) = s := by cases p <;> rfl

theorem settleForward_of_empty (h : (s.port p).fwd = []) : settleForward p s = s := by
  have hsame : { s.port p with fwd := [] } = s.port p := by rw [← h]
  unfold settleForward
  extract_lets t step r
  have hr : r = ([], s) := by
    dsimp only [r, t]
    rw [h, List.foldl_nil]
  exact (congrArg (fun x : List TxPkt × Chip => x.2.setPort p { x.2.port p with fwd := x.1 }) hr).trans
    ((congrArg (s.setPort p) hsame).trans (s.setPort_self p))

/-- A packet with its words at hand starts as it is. -/
theorem startTx_of_ready {x : TxPkt} (howner : x.owner ≠ some .time) (hegress : x.egress = none) (hslot : x.slot = none) :
    startTx p x s = (x, s) := by
  unfold startTx
  split
  next q1 s1 hstamp =>
    have hready : (x, s) = (q1, s1) := by
      split at hstamp
      next htime => exact absurd htime howner
      next => exact hstamp
    obtain ⟨rfl, rfl⟩ := Prod.mk.inj hready
    rw [hegress, hslot]

theorem notePseq_port (q : TxPkt) (s : Chip) (o : Port) : (notePseq q s).port o = s.port o := by
  unfold notePseq
  split
  · exact Chip.port_setFld ..
  · rfl

theorem notePseq_fld {f : Fld} (h : f.addr ≠ F.RNG_PSEQ_PSEQ.addr) (q : TxPkt) (s : Chip) : (notePseq q s).fld f = s.fld f := by
  unfold notePseq
  split
  · exact Chip.fld_setFld_ne _ _ h
  · rfl

/-- The class that a START must be below. -/
def startLimit (l : List TxPkt) : Nat := match l with | q :: _ => q.cls.toNat | [] => 4

section
variable (hfwd : (s.port p).fwd = [])
include hfwd

section
variable (htxq : (s.port p).txq = [])
include htxq

theorem trafficSlot_of_none : trafficSlot p s =
    match (s.port p).started with
    | q :: rest => if (s.lane p).mode = 2 && q.cls != 0#2 then putBlock p (ctlBlock 0x1E) s else continueTx p q rest s
    | [] => putBlock p (ctlBlock 0x1E) s := by
  unfold trafficSlot
  rw [settleForward_of_empty hfwd]
  dsimp only
  rw [pickStart_of_empty hfwd htxq]
  rfl

theorem trafficSlot_of_empty (hstarted : (s.port p).started = []) : trafficSlot p s = putBlock p (ctlBlock 0x1E) s := by
  rw [trafficSlot_of_none hfwd htxq, hstarted]

theorem trafficSlot_of_asleep (hstarted : (s.port p).started = q :: rest) (hmode : (s.lane p).mode = 2) (hcls : q.cls ≠ 0#2) :
    trafficSlot p s = putBlock p (ctlBlock 0x1E) s := by
  rw [trafficSlot_of_none hfwd htxq, hstarted]
  exact if_pos (by rw [hmode, bne_iff_ne.mpr hcls]; rfl)

theorem trafficSlot_of_progress (hstarted : (s.port p).started = q :: rest) (hawake : (s.lane p).mode = 2 → q.cls = 0#2) :
    trafficSlot p s = continueTx p q rest s := by
  rw [trafficSlot_of_none hfwd htxq, hstarted]
  refine if_neg fun hc => ?_
  rw [Bool.and_eq_true, decide_eq_true_eq, bne_iff_ne] at hc
  exact hc.2 (hawake hc.1)

end

theorem trafficSlot_of_start {x : TxPkt} (htxq : (s.port p).txq = [x]) (howner : x.owner ≠ some .time) (hegress : x.egress = none)
    (hslot : x.slot = none) (husable : s.usable p x.cls.toNat = true) (hlimit : x.cls.toNat < startLimit (s.port p).started) :
    SlotSent p (ctlBlock (x.start x.hops.toNat x.wrapped)) ({ x with sent := 1 } :: (s.port p).started) [] s (trafficSlot p s) := by
  have hslotted : trafficSlot p s = sendBlock p (ctlBlock (x.start x.hops.toNat x.wrapped)) (notePseq x ((s.setPort p { s.port p with txq := [] }).setPort p
      { s.port p with txq := [], started := { x with sent := 1 } :: (s.port p).started })) := by
    have hpick : pickStart (s.usable p) (s.storeWait 4 != 0) (startLimit (s.port p).started) (s.port p) = some (x, { s.port p with txq := [] }) :=
      pickStart_of_one hfwd htxq hegress husable hlimit
    unfold trafficSlot
    rw [settleForward_of_empty hfwd]
    extract_lets _ t limit
    split
    next q t1 h =>
      obtain ⟨rfl, rfl⟩ := Prod.mk.inj (Option.some.inj (hpick.symm.trans h))
      rw [startTx_of_ready howner hegress hslot]
      dsimp only
      rw [Chip.port_setPort_same]
    next h => exact absurd (hpick.symm.trans h) nofun
  rw [hslotted]
  refine ⟨?_, ?_, ?_⟩
  · rw [sendBlock_port, notePseq_port, Chip.port_setPort_same]
  · rw [sendBlock_other, notePseq_port, Chip.port_setPort_other, Chip.port_setPort_other]
  · rw [sendBlock_count, notePseq_fld (by cases p <;> decide), Chip.setPort_fld, Chip.setPort_fld]

end

end

end Sys2Proof.Machine
end

section
/-! PROOFS. What a block boundary leaves (R279, R288 to R290, R302, R306). -/

namespace Sys2Proof.Machine

section
variable {p : Port} {b : BitVec 66} {q : TxPkt} {rest started txq : List TxPkt} {c u : Chip}

theorem exec_blockBoundary (p : Port) (s : State) :
    exec (.blockBoundary p) s = .next { s with chip := lineOut p s.chip (blockBoundary p s.chip) } := rfl

/-- The chip after a block boundary of a port. -/
def boundary (p : Port) (c : Chip) : Chip := lineOut p c (blockBoundary p c)

/-- A port has passed the turn on, and the other port stands. -/
def Moved (p : Port) (c u : Chip) : Prop := Stepped p c u ∧ u.port p.other = c.port p.other

theorem boundary_of_idle (h : c.SlotIdle p) : boundary p c = c := by
  unfold boundary
  rw [blockBoundary_of_idle h, lineOut_of_idle h]

section
variable (hidle : ¬ c.SlotIdle p)
include hidle

theorem boundary_linesOnly : LinesOnly (blockBoundary p c) (boundary p c) := lineOut_linesOnly hidle _

theorem boundary_steps : Stepped p c (boundary p c) := by
  have hlines := boundary_linesOnly hidle
  obtain ⟨⟨hlane, hslot, hclk⟩, -⟩ := (blockBoundary_sameTurn hidle).stepped
  exact ⟨by rw [hlines.port, hlane], by rw [hlines.port, hslot], hlines.clk.trans hclk⟩

theorem boundary_moves (h : (blockBoundary p c).port p.other = c.port p.other) : Moved p c (boundary p c) :=
  ⟨boundary_steps hidle, ((boundary_linesOnly hidle).port _).trans h⟩

theorem boundary_wires (hsends : c.sendsBlocks p = true) :
    (boundary p c).lineOf p (c.turnLane p) = c.wire p (c.turnLane p) ((boundary p c).port p).lastTx ∧
      (c.widening p = true → ∀ j ∈ [1, 2, 3], (boundary p c).lineOf p j = c.wire p j (c.besideBlock p j)) ∧
      (c.widening p = false → ∀ j, j < 4 → j ≠ c.turnLane p → (boundary p c).lineOf p j = c.lineOf p j) :=
  lineOut_wires hidle hsends (blockBoundary_sameTurn hidle).stepped.2

/-- A port that sends no blocks passes the turn on (R290). -/
theorem boundary_of_silent (h : c.sendsBlocks p = false) : Moved p c (boundary p c) ∧ (boundary p c).regs = c.regs ∧
    ((boundary p c).port p).lastTx = (c.port p).lastTx := by
  have hlines := boundary_linesOnly hidle
  have hmoves := boundary_moves hidle
  obtain ⟨hregs, -, -, hother⟩ := stepped_rest p c
  rw [blockBoundary_of_silent hidle h] at hlines hmoves
  refine ⟨hmoves hother, hlines.regs.trans hregs, ?_⟩
  rw [hlines.port, stepped_port]
  rfl

theorem boundary_of_prbs (hprbs : c.flag (F.LN_TEST_PRBS p.ix) = true) (hfar : ¬ c.fld (F.LN_TEST_LOOP p.ix) = 3) :
    (boundary p c).lineOf p (c.turnLane p) = (c.lineOf p (c.turnLane p)).sendPrbs := by
  have hline : (blockBoundary p c).lineOf p (c.turnLane p) = c.lineOf p (c.turnLane p) :=
    congrArg (fun x => Table.get LineSt.rest x (4 * p.ix + c.turnLane p)) (blockBoundary_sameTurn hidle).stepped.2
  unfold boundary
  rw [lineOut_of_prbs hidle hprbs hfar, setLine_lineOf, hline]

theorem boundary_of_far (hfar : c.fld (F.LN_TEST_LOOP p.ix) = 3) : (boundary p c).line = c.line := by
  unfold boundary
  rw [lineOut_of_far hidle hfar]
  exact (blockBoundary_sameTurn hidle).stepped.2

/-- A slot that carries no traffic. -/
theorem boundary_of_put (h : blockBoundary p c = putBlock p b (stepped p c)) : Moved p c (boundary p c) ∧ (boundary p c).regs = c.regs ∧
    ((boundary p c).port p).lastTx = b ∧ ((boundary p c).port p).started = (c.port p).started := by
  have hlines := boundary_linesOnly hidle
  have hmoves := boundary_moves hidle
  obtain ⟨hregs, -, -, hother⟩ := stepped_rest p c
  rw [h] at hlines hmoves
  refine ⟨hmoves ((putBlock_other ..).trans hother), hlines.regs.trans ((putBlock_regs ..).trans hregs), ?_, ?_⟩
  · rw [hlines.port, putBlock_port]
  · rw [hlines.port, putBlock_port, stepped_port]
    rfl

/-- A slot that carries a block of a packet. -/
theorem boundary_of_sent (h : SlotSent p b started txq (stepped p c) (blockBoundary p c)) : Moved p c (boundary p c) ∧
    (((boundary p c).port p).lastTx = b ∧ (boundary p c).fld (F.RN_TXBLK_COUNT p.ix) = satTo 32 (c.fld (F.RN_TXBLK_COUNT p.ix) + 1)) ∧
    ((boundary p c).port p).started = started ∧ ((boundary p c).port p).txq = txq := by
  have hlines := boundary_linesOnly hidle
  obtain ⟨-, -, -, hother⟩ := stepped_rest p c
  refine ⟨boundary_moves hidle (h.other.trans hother), ⟨?_, ?_⟩, ?_, ?_⟩
  · rw [hlines.port, h.port]
  · rw [hlines.fld, h.count, stepped_fld]
  · rw [hlines.port, h.port]
  · rw [hlines.port, h.port]

end

/-- The slot of a TRAINED port that sends blocks, and forwards nothing. -/
structure Chip.TrafficSlot (c : Chip) (p : Port) : Prop where
  busy : ¬ c.SlotIdle p
  sends : c.sendsBlocks p = true
  slot : (c.port p).txSlot ≠ 0
  trained : c.trained p = true
  fwd : (c.port p).fwd = []

section
variable (h : c.TrafficSlot p)
include h

theorem Chip.TrafficSlot.traffic : blockBoundary p c = trafficSlot p (stepped p c) :=
  blockBoundary_of_trained h.busy h.sends h.slot h.trained

/-- With nothing to send, a port sends IDLE. -/
theorem boundary_of_empty (htxq : (c.port p).txq = []) (hstarted : (c.port p).started = []) :
    blockBoundary p c = putBlock p (ctlBlock 0x1E) (stepped p c) := by
  have hport := stepped_port p c
  rw [h.traffic]
  exact trafficSlot_of_empty (by rw [hport]; exact h.fwd) (by rw [hport]; exact htxq) (by rw [hport]; exact hstarted)

/-- In SLEEP the blocks of classes 1 to 3 wait (R288). -/
theorem boundary_of_asleep (htxq : (c.port p).txq = []) (hstarted : (c.port p).started = q :: rest) (hmode : (c.lane p).mode = 2)
    (hcls : q.cls ≠ 0#2) : blockBoundary p c = putBlock p (ctlBlock 0x1E) (stepped p c) := by
  have hport := stepped_port p c
  rw [h.traffic]
  exact trafficSlot_of_asleep (by rw [hport]; exact h.fwd) (by rw [hport]; exact htxq) (by rw [hport]; exact hstarted)
    (by rw [stepped_lane]; exact hmode) hcls

section
variable (htxq : (c.port p).txq = []) (hstarted : (c.port p).started = q :: rest) (hawake : (c.lane p).mode = 2 → q.cls = 0#2)
include htxq hstarted hawake

theorem boundary_of_progress : blockBoundary p c = continueTx p q rest (stepped p c) := by
  have hport := stepped_port p c
  rw [h.traffic]
  exact trafficSlot_of_progress (by rw [hport]; exact h.fwd) (by rw [hport]; exact htxq) (by rw [hport]; exact hstarted)
    (by rw [stepped_lane]; exact hawake)

theorem boundary_of_data (hsent : q.sent ≤ q.words.length) : SlotSent p (dataBlock (nth 0#64 q.words (q.sent - 1)))
    ({ q with sent := q.sent + 1 } :: rest) ((stepped p c).port p).txq (stepped p c) (blockBoundary p c) := by
  rw [boundary_of_progress h htxq hstarted hawake]
  exact continueTx_data hsent

theorem boundary_of_end (hsent : q.words.length < q.sent) :
    SlotSent p (ctlBlock q.endBlock) rest ((stepped p c).port p).txq (stepped p c) (blockBoundary p c) ∧
      (boundary p c).fld (leftCount p q.own) = satTo 32 (c.fld (leftCount p q.own) + 1) := by
  obtain ⟨hslot, hleft⟩ := continueTx_end (p := p) (rest := rest) (s := stepped p c) hsent
  rw [(boundary_linesOnly h.busy).fld, boundary_of_progress h htxq hstarted hawake, hleft, stepped_fld]
  exact ⟨hslot, rfl⟩

end

theorem boundary_of_start {x : TxPkt} (htxq : (c.port p).txq = [x]) (howner : x.owner ≠ some .time) (hegress : x.egress = none)
    (hslot : x.slot = none) (husable : c.usable p x.cls.toNat = true) (hlimit : x.cls.toNat < startLimit (c.port p).started) :
    SlotSent p (ctlBlock (x.start x.hops.toNat x.wrapped)) ({ x with sent := 1 } :: (c.port p).started) [] (stepped p c) (blockBoundary p c) := by
  have hport := stepped_port p c
  have hstart := trafficSlot_of_start (p := p) (s := stepped p c) (x := x) (by rw [hport]; exact h.fwd) (by rw [hport]; exact htxq) howner hegress hslot
    (by rw [stepped_usable]; exact husable) (by rw [hport]; exact hlimit)
  rw [hport] at hstart
  rw [h.traffic]
  exact hstart

end

theorem startLimit_of_lower {x : TxPkt} {l : List TxPkt} (h : ∀ q rest, l = q :: rest → x.cls.toNat < q.cls.toNat) :
    x.cls.toNat < startLimit l := by
  cases l with
  | nil => exact x.cls.isLt
  | cons q rest => exact h q rest rfl

/-! ### The fields of a START (R302) -/

theorem txStart_fields (q : TxPkt) (h : BitVec 6) (b : Bool) (hlen : q.len < 4096) :
    let x := q.start h.toNat b
    bits x 7 0 = 0x78 ∧ bits x 63 56 = q.ptype.toNat ∧ bits x 55 54 = q.cls.toNat ∧ bits x 53 49 = q.dest.toNat ∧
      bits x 48 44 = q.src.toNat ∧ bits x 43 38 = h.toNat ∧ x.testBit 37 = b ∧ bits x 35 24 = q.len ∧ bits x 23 8 = q.pseq.toNat := by
  have hplaced : q.start h.toNat b = place 8 56 q.ptype.toNat ||| place 2 54 q.cls.toNat ||| place 5 49 q.dest.toNat ||| place 5 44 q.src.toNat |||
    place 6 38 h.toNat ||| place 1 37 (b2n b) ||| place 12 24 q.len ||| place 16 8 q.pseq.toNat ||| place 8 0 0x78 := rfl
  have hfield : ∀ {w v x : Nat}, x = v % 2 ^ w → v < 2 ^ w → x = v := fun hx hv => hx.trans (Nat.mod_eq_of_lt hv)
  intro x
  dsimp only [x]
  rw [hplaced]
  refine ⟨hfield (w := 8) ?_ (by decide), hfield (w := 8) ?_ q.ptype.isLt, hfield (w := 2) ?_ q.cls.isLt, hfield (w := 5) ?_ q.dest.isLt,
    hfield (w := 5) ?_ q.src.isLt, hfield (w := 6) ?_ h.isLt, ?_, hfield (w := 12) ?_ hlen, hfield (w := 16) ?_ q.pseq.isLt⟩
  case refine_7 =>
    simp (disch := omega) only [Nat.testBit_or, testBit_place_one, testBit_place_out, Bool.or_false, Bool.false_or]
  all_goals
    simp (disch := omega) only [bits_or, bits_place_eq, bits_place_apart, Nat.or_zero, Nat.zero_or]

end

end Sys2Proof.Machine
end

section
/-! PROOFS. A block that arrives: its bits (R278, R286, R289), the errors it counts (R290, R422), and the packets it opens, continues and
completes (R302, R303, R307). -/

namespace Sys2Proof.Machine

section
variable {p : Port} {k sync : Nat} {w : W64} {c s t : Chip}

/-! ### The bits of a block -/

/-- `t` differs from `c` at most in the lines, and in the lanes' state. -/
def BitsOnly (c t : Chip) : Prop := t = { c with line := t.line, laneE := t.laneE, laneW := t.laneW }

section
variable (h : BitsOnly c t)
include h

theorem BitsOnly.regs : t.regs = c.regs := by rw [h]
theorem BitsOnly.cdc : t.cdc = c.cdc := by rw [h]
theorem BitsOnly.clock : t.clockFtu = c.clockFtu := by rw [h]; rfl
theorem BitsOnly.now : t.now = c.now := by rw [h]; rfl
theorem BitsOnly.running : t.running = c.running := by rw [h]; rfl
theorem BitsOnly.port (q : Port) : t.port q = c.port q := by rw [h]; cases q <;> rfl
theorem BitsOnly.keeps (l : List Nat) : Keeps l c t := by rw [h]; exact Keeps.same rfl rfl rfl rfl
theorem BitsOnly.fld (f : Fld) : t.fld f = c.fld f := by unfold Chip.fld; rw [h.regs]
theorem BitsOnly.receives : t.receives p = c.receives p := by rw [h]; rfl
theorem BitsOnly.rxLane : t.rxLane p k = c.rxLane p k := by rw [h]; rfl

end

theorem LineHeard.bitsOnly (h : LineHeard p s t) : BitsOnly s t := by
  unfold LineHeard at h
  rw [h]
  cases p <;> rfl

theorem BitsOnly.trans (h : BitsOnly c s) (g : BitsOnly s t) : BitsOnly c t := by
  unfold BitsOnly at h g ⊢
  rw [g, h]

theorem noteRow_bitsOnly : BitsOnly s (noteRow p k s) := by
  unfold noteRow
  split <;> cases p <;> rfl

theorem lineIn_bitsOnly : BitsOnly s (lineIn p k sync w s) := noteRow_bitsOnly.trans (lineSlot_heard _ _ _).bitsOnly

theorem noteRow_hears : (noteRow p k s).hearsBits p = s.hearsBits p := by
  unfold Chip.hearsBits
  rw [noteRow_bitsOnly.running, noteRow_bitsOnly.fld, Chip.flag_congr (noteRow_bitsOnly.fld _)]

theorem noteRow_lane (h : s.hearsBits p = true) :
    (noteRow p k s).lane p = { s.lane p with rxRow := if k = 0 then s.now else (s.lane p).rxRow } := by
  unfold noteRow
  by_cases hk : k = 0
  · rw [if_pos (by rw [h, decide_eq_true hk]; rfl), Chip.lane_setLane_same, if_pos hk]
  · rw [if_neg (by rw [decide_eq_false hk, Bool.false_and]; exact Bool.false_ne_true), if_neg hk]

theorem noteRow_lane_other : (noteRow p k s).lane p.other = s.lane p.other := by
  unfold noteRow
  split
  · exact Chip.lane_setLane_other ..
  · rfl

theorem noteRow_laneOne : (noteRow p k s).laneOne p k = s.laneOne p k ∧ ((noteRow p k s).lane p).lanes = (s.lane p).lanes := by
  have hlanes : ((noteRow p k s).lane p).lanes = (s.lane p).lanes := by
    unfold noteRow
    split
    · rw [Chip.lane_setLane_same]
    · rfl
  exact ⟨congrArg (nth LaneOne.rest · k) hlanes, hlanes⟩

theorem LineHeard.lane_other (h : LineHeard p s t) : t.lane p.other = s.lane p.other := by rw [h]; cases p <;> rfl

theorem Port.eq_other {m p : Port} (h : m ≠ p) : m = p.other := by
  cases p <;> cases m <;> trivial

/-- The line carried the scrambled form of the block (R278). -/
theorem lineIn_eq {r : List Bool × BitVec 58} (hr : scramble (s.lineOf p k).des (payloadBits w.toNat) = r) :
    lineIn p k sync w s = lineSlot p k (syncBits sync ++ r.1) { s.lineOf p k with des := r.2 } (noteRow p k s) := by
  subst hr
  rfl

theorem lineIn_of_deaf (h : s.hearsBits p = false) : lineIn p k sync w s = s := by
  have hrow : noteRow p k s = s := if_neg (by rw [h, Bool.and_false]; exact Bool.false_ne_true)
  rw [lineIn_eq rfl, hrow, lineSlot_of_deaf h]

theorem lineIn_lane_other {m : Port} (hm : m ≠ p) : (lineIn p k sync w s).lane m = s.lane m := by
  rw [Port.eq_other hm, lineIn_eq rfl, (lineSlot_heard _ _ _).lane_other, noteRow_lane_other]

section
variable (h : s.hearsBits p = true)
include h

theorem lineIn_lane : (lineIn p k sync w s).lane p =
    { s.lane p with lanes := ((lineIn p k sync w s).lane p).lanes, rxRow := if k = 0 then s.now else (s.lane p).rxRow } := by
  have hlane : (lineIn p k sync w s).lane p = { (noteRow p k s).lane p with lanes := ((lineIn p k sync w s).lane p).lanes } :=
    (lineSlot_heard _ _ _).lane
  rw [noteRow_lane h] at hlane
  exact hlane

variable {r : List Bool × BitVec 58} (hr : scramble (s.lineOf p k).des (payloadBits w.toNat) = r)
include hr

theorem lineIn_lineOf : (lineIn p k sync w s).lineOf p k = heardLine p (syncBits sync ++ r.1) { s.lineOf p k with des := r.2 } s := by
  rw [lineIn_eq hr, lineSlot_line (noteRow_hears.trans h)]
  unfold heardLine
  rw [noteRow_bitsOnly.fld]

theorem lineIn_laneOne (hk : k < (s.lane p).lanes.length) : (lineIn p k sync w s).laneOne p k = { s.laneOne p k with
    frozen := (s.laneOne p k).frozen && !(LineSt.count (syncBits sync ++ r.1) { s.lineOf p k with des := r.2 }).1 } := by
  obtain ⟨hone, hlanes⟩ := noteRow_laneOne (p := p) (k := k) (s := s)
  rw [lineIn_eq hr, lineSlot_laneOne (by rw [hlanes]; exact hk), hone, noteRow_hears, h, Bool.true_and]

end

/-! ### The errors that a block counts (R290, R422) -/

theorem noteOverrun_line (bit lost : Nat) (s : Chip) : (noteOverrun bit lost s).line = s.line := by
  unfold noteOverrun
  split
  · rfl
  · exact raise_line (by decide) _

theorem crossCount_line {n : LaneCount} {f : Fld} (m : Nat) (s : Chip) : (crossCount p n k f m s).line = s.line := by
  obtain ⟨cdc, h⟩ := crossCount_eq p n k f m s
  rw [h]
  exact noteOverrun_line _ _ _

/-- A crossing that is free sends one pulse and holds fifteen back. -/
theorem pulsesLost_of_free {key : Nat} (h : (s.cdc.find? fun e => e.1 == key) = none) (m : Nat) : s.pulsesLost p key 15 m = m - 16 := by
  have hat : s.toggleAt p key = none := by
    unfold Chip.toggleAt
    rw [h]
    rfl
  unfold Chip.pulsesLost Toggle.pulse
  rw [hat]
  split
  next hm => rw [hm]
  next =>
    show 0 + (m - 1) - 15 = m - 16
    omega

theorem crossCount_free {n : LaneCount} {f : Fld} (hf : LaneCounter p f) (hw : f.w = 32)
    (h : (s.cdc.find? fun e => e.1 == toggleKey p n k) = none) (m : Nat) :
    (crossCount p n k f m s).fld f = satTo 32 (s.fld f + min 16 m) ∧ (crossCount p n k f m s).fld F.GLB_CDC_OVR_COUNT =
      (if m ≤ 16 then s.fld F.GLB_CDC_OVR_COUNT else satTo 32 (s.fld F.GLB_CDC_OVR_COUNT + (m - 16))) := by
  rw [crossCount_fld hf, crossCount_overruns hf, pulsesLost_of_free h, hw]
  refine ⟨congrArg (satTo 32 <| s.fld f + ·) (by omega), ?_⟩
  split
  next hm =>
    rw [Nat.sub_eq_zero_of_le hm]
    exact Nat.min_eq_left (Nat.le_sub_one_of_lt (fld_lt s F.GLB_CDC_OVR_COUNT (by decide)))
  next => rfl

/-! ### A framing error (R307) -/

theorem settleForward_ships (p : Port) (s : Chip) : Ships s (settleForward p s) := by
  have hwrite : ∀ (head : Nat) (ws : List (Nat × W64)) (t : Chip), Ships t
      (forAll ws (fun x s => memWrite 10 (4096 * p.ix + (head + 1 + x.1) % 4096) 255 x.2.toNat s) t) := fun head ws t =>
    .forAll ws _ (fun x _ u => memWrite_ships 10 _ _ _ (by decide) (by decide) u) t
  have hfold : ∀ (f : List TxPkt × Chip → TxPkt → List TxPkt × Chip), (∀ acc q, Ships acc.2 (f acc q).2) → ∀ (l : List TxPkt) acc,
      Ships acc.2 (l.foldl f acc).2 := fun f hf l => by
    induction l with
    | nil => exact fun acc => Ships.refl _
    | cons q l ih => exact fun acc => (hf acc q).trans (ih _)
  unfold settleForward
  extract_lets t step r
  refine (hfold step (fun acc q => ?_) t.fwd ([], s)).trans (setPort_ships _ p _)
  dsimp only [step]
  split
  · exact .refl _
  · exact (hwrite _ _ _).trans (setPort_ships _ p _)

theorem forward_ships (p : Port) (q : Packet) (bad : Bool) (s : Chip) : Ships s (forward p q bad s) := by
  by_cases h : q.hops = 63#6
  · rw [forward_of_spent bad h]
    exact (Ships.setFld s _ _ (by decide) (by decide)).trans (raise_ships _ (by decide) _)
  · rw [forward_of_hops bad h]
    exact ((placeTx_announces raise_quiet p.other _ s).ships.trans (settleForward_ships .east _)).trans (settleForward_ships .west _)

theorem cutPacket_ships (p : Port) (r : RxPkt) (s : Chip) : Ships s (cutPacket p r s) := by
  unfold cutPacket
  dsimp only
  split
  · exact .refl s
  · exact forward_ships p _ true s

theorem framingError_seen (p : Port) (s : Chip) : (framingError p s).eventSeen (EV.RN_FRAMING p) = true := by
  have hev : EV.RN_FRAMING p < 384 := by cases p <;> decide
  exact (Ships.forAll _ _ (fun r _ u => cutPacket_ships p r u) _).events _ hev (raise_seen _ hev _)

variable {x : W64} {r : RxPkt} {rest : List RxPkt} {o : PortSt}

/-- A framing error with no packet open. -/
theorem framingError_of_none (ho : s.port p = o) (h : o.rx = []) : framingError p s =
    raise (EV.RN_FRAMING p) ((s.setPort p { o with rxIgnore := true }).bump (F.RN_FRAMING_COUNT p.ix)) := by
  subst ho
  have hport : { s.port p with rx := [], rxIgnore := true } = { s.port p with rxIgnore := true } := by rw [← h]
  exact (congrArg (fun l => forAll l (cutPacket p) _) h).trans
    (congrArg (fun t => raise (EV.RN_FRAMING p) ((s.setPort p t).bump (F.RN_FRAMING_COUNT p.ix))) hport)

/-! ### A block that a receiver takes (R302, R307) -/

section
variable (ho : s.port p = o)
include ho

theorem rxData_of_ignored (h : o.rx = []) (hignore : o.rxIgnore = true) : rxData p x s = s := by
  subst ho
  unfold rxData
  dsimp only
  rw [h, hignore]
  rfl

theorem rxData_of_stray (h : o.rx = []) (hignore : o.rxIgnore = false) : rxData p x s =
    raise (EV.RN_FRAMING p) ((s.setPort p { o with rxIgnore := true }).bump (F.RN_FRAMING_COUNT p.ix)) := by
  rw [← framingError_of_none ho h]
  subst ho
  unfold rxData
  dsimp only
  rw [h, hignore]
  rfl

theorem rxData_of_room (h : o.rx = r :: rest) (hroom : r.words.length < bits r.start.toNat 35 24) :
    rxData p x s = s.setPort p { o with rx := { r with words := r.words ++ [x] } :: rest } := by
  subst ho
  unfold rxData
  dsimp only
  rw [h]
  exact if_neg (not_le.mpr hroom)

theorem rxData_of_full (h : o.rx = r :: rest) (hfull : bits r.start.toNat 35 24 ≤ r.words.length) : rxData p x s = framingError p s := by
  subst ho
  unfold rxData
  dsimp only
  rw [h]
  exact if_pos hfull

theorem rxStart_of_lower (h : ∀ r rest, o.rx = r :: rest → bits x.toNat 55 54 < bits r.start.toNat 55 54) :
    rxStart p x s = s.setPort p { o with
      rx := { start := x, words := [], first := if bits x.toNat 63 56 = 4 then (s.lane p).rxRow else s.now } :: o.rx, rxIgnore := false } := by
  subst ho
  unfold rxStart
  dsimp only
  split
  · rfl
  next r rest hrx => exact if_pos (h r rest hrx)

theorem rxStart_of_higher (h : o.rx = r :: rest) (hcls : bits r.start.toNat 55 54 ≤ bits x.toNat 55 54) :
    rxStart p x s = framingError p s := by
  subst ho
  unfold rxStart
  dsimp only
  rw [h]
  exact if_neg (not_lt.mpr hcls)

theorem rxEnd_of_open (h : o.rx = r :: rest) : rxEnd p x s =
    receivePacket p (packetOf r.start r.words (bits x.toNat 63 32 == crc32 (crcBytes r.start.toNat r.words) &&
      r.words.length == bits r.start.toNat 35 24) (x.toNat.testBit 31)) (s.now - r.first) (s.setPort p { o with rx := rest }) := by
  subst ho
  unfold rxEnd
  dsimp only
  rw [h]

end

/-! ### RING_BLOCK_RECEIVED -/

/-- A control block on a receiver (R302, R307). -/
def rxControl (p : Port) (x : W64) (s : Chip) : Chip :=
  match bits x.toNat 7 0 with
  | 0x1E | 0xA5 => s
  | 0x78 => rxStart p x s
  | 0x87 => rxEnd p x s
  | _ => s.bump (F.RN_FRAMING_COUNT p.ix)

theorem rxControl_of_idle (h : bits x.toNat 7 0 = 0x1E ∨ bits x.toNat 7 0 = 0xA5) : rxControl p x s = s := by
  rcases h with h | h <;> simp only [rxControl, h]

theorem rxControl_of_start (h : bits x.toNat 7 0 = 0x78) : rxControl p x s = rxStart p x s := by simp only [rxControl, h]

theorem rxControl_of_end (h : bits x.toNat 7 0 = 0x87) : rxControl p x s = rxEnd p x s := by simp only [rxControl, h]

theorem rxControl_of_unknown (h : bits x.toNat 7 0 ∉ [0x1E, 0xA5, 0x78, 0x87]) : rxControl p x s = s.bump (F.RN_FRAMING_COUNT p.ix) := by
  unfold rxControl
  split
  case h_5 => rfl
  all_goals
    next heq => exact absurd (by rw [heq]; decide) h

theorem blockReceived_of_off (h : s.running = false ∨ s.lnState p = 0) : blockReceived p k sync x s = s := by
  refine if_pos ?_
  rw [Bool.or_eq_true, Bool.not_eq_true', decide_eq_true_eq]
  exact h

section
variable (hrun : s.running = true) (hst : s.lnState p ≠ 0)
include hrun hst

theorem blockReceived_of_on : blockReceived p k sync x s =
    if s.flag (F.LN_TEST_PRBS p.ix) then crossCount p .prbs k (prbsF p k) (popCount x.toNat) s
    else if sync = 0 || sync = 3 then crossCount p .sherr k (sherrF p k) 1 s
    else if !s.receives p || !s.rxLane p k then s
    else if sync = 1 then rxData p x s
    else rxControl p x s := by
  refine (if_neg ?_).trans rfl
  rw [Bool.or_eq_true, Bool.not_eq_true', decide_eq_true_eq, hrun]
  exact fun h => h.elim nofun hst

/-- With PRBS on, the errors of a block are counted (R290). -/
theorem blockReceived_of_prbs (hprbs : s.flag (F.LN_TEST_PRBS p.ix) = true) :
    blockReceived p k sync x s = crossCount p .prbs k (prbsF p k) (popCount x.toNat) s := by
  rw [blockReceived_of_on hrun hst]
  exact if_pos hprbs

section
variable (hprbs : ¬ s.flag (F.LN_TEST_PRBS p.ix) = true)
include hprbs

/-- A sync header that is none is counted (R422). -/
theorem blockReceived_of_sherr (hsync : sync = 0 ∨ sync = 3) : blockReceived p k sync x s = crossCount p .sherr k (sherrF p k) 1 s := by
  rw [blockReceived_of_on hrun hst]
  exact (if_neg hprbs).trans (if_pos (by rw [Bool.or_eq_true, decide_eq_true_eq, decide_eq_true_eq]; exact hsync))

variable (hsync : sync = 1 ∨ sync = 2)
include hsync

theorem blockReceived_of_header : blockReceived p k sync x s =
    if !s.receives p || !s.rxLane p k then s
    else if sync = 1 then rxData p x s
    else rxControl p x s := by
  rw [blockReceived_of_on hrun hst]
  refine (if_neg hprbs).trans ((if_neg ?_).trans rfl)
  rw [Bool.or_eq_true, decide_eq_true_eq, decide_eq_true_eq]
  omega

/-- A port that receives nothing, or not on the lane, takes no block. -/
theorem blockReceived_of_deaf (h : ¬ (s.receives p = true ∧ s.rxLane p k = true)) : blockReceived p k sync x s = s := by
  rw [blockReceived_of_header hrun hst hprbs hsync]
  refine if_pos ?_
  rw [Bool.or_eq_true, Bool.not_eq_true', Bool.not_eq_true', ← Bool.not_eq_true, ← Bool.not_eq_true]
  exact not_and_or.mp h

end

section
variable (hprbs : ¬ s.flag (F.LN_TEST_PRBS p.ix) = true) (hrec : s.receives p = true) (hlane : s.rxLane p k = true)
include hprbs hrec hlane

theorem blockReceived_of_data : blockReceived p k 1 x s = rxData p x s := by
  rw [blockReceived_of_header hrun hst hprbs (.inl rfl), hrec, hlane]
  rfl

theorem blockReceived_of_control : blockReceived p k 2 x s = rxControl p x s := by
  rw [blockReceived_of_header hrun hst hprbs (.inr rfl), hrec, hlane]
  rfl

end

end

end

end Sys2Proof.Machine
end

section
/-! PROOFS. The rows of the ring's blocks (O56). -/

namespace Sys2Proof.Machine

theorem exec_ringBlockReceived (p : Port) (lane : Fin 4) (sync : BitVec 2) (w : W64) (s : State) :
    exec (.ringBlockReceived p lane sync w) s =
      .next { s with chip := blockReceived p lane sync.toNat w (lineIn p lane sync.toNat w s.chip) } := rfl

section
variable {p : Port} {k sync : Nat} {w : W64} {c : Chip}

theorem hearsBits_of_stopped (h : c.running = false ∨ c.lnState p = 0) : c.hearsBits p = false := by
  rcases h with h | h
  · unfold Chip.hearsBits
    rw [h, Bool.false_and, Bool.false_and]
  · exact hearsBits_of_off (.inl h)

/-- A port that is stopped takes no block. -/
theorem received_of_stopped (h : c.running = false ∨ c.lnState p = 0) : blockReceived p k sync w (lineIn p k sync w c) = c := by
  rw [lineIn_of_deaf (hearsBits_of_stopped h), blockReceived_of_off h]

/-- With PRBS on the receiver takes no bits, and the errors of the block cross (R290). -/
theorem received_of_prbs (hrun : c.running = true) (hst : c.lnState p ≠ 0) (hprbs : c.flag (F.LN_TEST_PRBS p.ix) = true) :
    blockReceived p k sync w (lineIn p k sync w c) = crossCount p .prbs k (prbsF p k) (popCount w.toNat) c := by
  rw [lineIn_of_deaf (hearsBits_of_off (.inr hprbs)), blockReceived_of_prbs hrun hst hprbs]

/-- The port runs, and hears bits. -/
structure Chip.Listens (c : Chip) (p : Port) : Prop where
  running : c.running = true
  state : c.lnState p ≠ 0
  prbs : ¬ c.flag (F.LN_TEST_PRBS p.ix) = true

theorem Chip.Listens.hears (h : c.Listens p) : c.hearsBits p = true :=
  (hearsBits_of_on h.state (Bool.eq_false_iff.mpr h.prbs)).trans h.running

/-- So it does once it has heard the bits of a block. -/
theorem Chip.Listens.of_bitsOnly {t : Chip} (h : c.Listens p) (hbits : BitsOnly c t) : t.Listens p :=
  ⟨hbits.running.trans h.running, by rw [show t.lnState p = c.lnState p from hbits.fld _]; exact h.state,
    by rw [Chip.flag_congr (hbits.fld (F.LN_TEST_PRBS p.ix))]; exact h.prbs⟩

end

/-- Settles O56. A slot at a block boundary is `stepped` with the block that it carries (`SlotSent`), and leaves the lines as `lineOut_wires`
says; whatever a slot of traffic raises and reads keeps the turn of the transmitters (`SameTurn`). A block that arrives is judged on the chip
that has heard its bits, which is the chip before it but for the lines and the lanes (`BitsOnly`). -/
theorem ringBlockRowsComplete : Obligations.RingBlockRowsComplete := by
  unfold Obligations.RingBlockRowsComplete
  refine ⟨fun p s => ?_, txStart_fields, fun p lane sync w s => ?_⟩
  · intro c t lanes i idle prbs far sends k wire wires ln slot steps moved sent quiet
    have hdoes : ∀ P : Chip → Prop, P (boundary p c) → Does (.blockBoundary p) s P := fun P h => ⟨_, exec_blockBoundary p s, h⟩
    have hsends : sends → c.sendsBlocks p = true := fun h => sendsBlocks_iff.mpr h.2
    have htraffic : quiet → c.TrafficSlot p := fun ⟨hs, hslot, htrained, hfwd⟩ => ⟨hs.1, hsends hs, hslot, htrained, hfwd⟩
    refine ⟨fun h => ?_, fun hi hp hf => hdoes _ ?_, fun hi hf => hdoes _ ?_, fun h => hdoes _ ⟨boundary_steps h.1, boundary_wires h.1 (hsends h)⟩,
      fun h hslot => hdoes _ ?_, fun h hslot htrained => hdoes _ ?_, fun h htxq hstarted => hdoes _ ?_,
      fun q rest h htxq hstarted hmode hcls => hdoes _ ?_, fun q rest h htxq hstarted hawake hsent => hdoes _ ?_,
      fun q rest h htxq hstarted hawake hsent => hdoes _ ?_, fun x h htxq howner hegress hslot husable hlimit => hdoes _ ?_⟩
    · rw [exec_blockBoundary]
      exact congrArg (fun u => Host.Outcome.next { s with chip := u }) (boundary_of_idle h)
    · obtain ⟨hmoved, hregs, hlast⟩ := boundary_of_silent hi (Bool.eq_false_iff.mpr fun hc => (sendsBlocks_iff.mp hc).1 hp)
      exact ⟨hmoved, hregs, hlast, boundary_of_prbs hi hp hf⟩
    · obtain ⟨hmoved, hregs, hlast⟩ := boundary_of_silent hi (Bool.eq_false_iff.mpr fun hc => (sendsBlocks_iff.mp hc).2 hf)
      exact ⟨hmoved, hregs, hlast, boundary_of_far hi hf⟩
    · obtain ⟨hmoved, hregs, hlast, -⟩ := boundary_of_put h.1 (blockBoundary_of_marker h.1 (hsends h) hslot)
      exact ⟨hmoved, hregs, hlast⟩
    · obtain ⟨hmoved, hregs, hlast, -⟩ := boundary_of_put h.1 (blockBoundary_of_untrained h.1 (hsends h) hslot htrained)
      exact ⟨hmoved, hregs, hlast⟩
    · obtain ⟨hmoved, hregs, hlast, -⟩ := boundary_of_put h.1.1 (boundary_of_empty (htraffic h) htxq hstarted)
      exact ⟨hmoved, hregs, hlast⟩
    · exact boundary_of_put h.1.1 (boundary_of_asleep (htraffic h) htxq hstarted hmode hcls)
    · obtain ⟨hmoved, hleft, hstack, -⟩ := boundary_of_sent h.1.1 (boundary_of_data (htraffic h) htxq hstarted hawake hsent)
      exact ⟨hmoved, hleft, hstack⟩
    · obtain ⟨hslotted, hcount⟩ := boundary_of_end (htraffic h) htxq hstarted hawake hsent
      obtain ⟨hmoved, hleft, hstack, -⟩ := boundary_of_sent h.1.1 hslotted
      refine ⟨hmoved, hleft, hstack, fun hown => ?_, fun hown => ?_⟩
      · rw [hown] at hcount
        exact hcount
      · rw [hown] at hcount
        exact hcount
    · exact boundary_of_sent h.1.1 (boundary_of_start (htraffic h) htxq howner hegress hslot husable (startLimit_of_lower hlimit))
  · intro c t x prbs on live toggle line des window heard quiet
    have hbits : BitsOnly c heard := lineIn_bitsOnly
    have hport : heard.port p = t := hbits.port p
    have hdes : scramble (c.lineOf p lane).des (payloadBits w.toNat) = des := rfl
    clear_value des
    have hdoes : ∀ (P : Chip → Prop) (u : Chip), blockReceived p lane sync.toNat w heard = u → P u → Does (.ringBlockReceived p lane sync w) s P :=
      fun P u hu h => ⟨_, exec_ringBlockReceived p lane sync w s, by rw [hu]; exact h⟩
    have hon : on → c.Listens p := fun h => ⟨h.1, h.2.1, h.2.2⟩
    have hheard : on → heard.Listens p := fun h => (hon h).of_bitsOnly hbits
    have hone : live → sync = 1#2 → blockReceived p lane sync.toNat w heard = rxData p w heard := fun h hsync => by
      obtain ⟨hrun, hst, hprbs⟩ := hheard h.1
      rw [hsync]
      exact blockReceived_of_data hrun hst hprbs (hbits.receives.trans h.2.1) (hbits.rxLane.trans h.2.2)
    have htwo : live → sync = 2#2 → blockReceived p lane sync.toNat w heard = rxControl p w heard := fun h hsync => by
      obtain ⟨hrun, hst, hprbs⟩ := hheard h.1
      rw [hsync]
      exact blockReceived_of_control hrun hst hprbs (hbits.receives.trans h.2.1) (hbits.rxLane.trans h.2.2)
    refine ⟨fun h => ?_, fun hrun hst hprbs => ?_, fun h => ⟨hbits, fun m hm => lineIn_lane_other hm, lineIn_lane (hon h).hears,
      lineIn_lineOf (hon h).hears hdes, lineIn_laneOne (hon h).hears hdes⟩, fun h hsync => ?_, fun h hlive hsync => hdoes _ heard ?_ rfl,
      fun h hsync hrx hignore => hdoes _ heard ?_ rfl, fun h hsync hrx hignore => hdoes _ _ (hone h hsync) ?_,
      fun r rest h hsync hrx hroom => hdoes _ _ (hone h hsync) ?_, fun r rest h hsync hrx hfull => hdoes _ _ (hone h hsync) ?_,
      fun h hsync hidle => hdoes _ heard ((htwo h hsync).trans (rxControl_of_idle hidle)) rfl,
      fun h hsync hunknown => hdoes _ _ ((htwo h hsync).trans (rxControl_of_unknown hunknown)) rfl,
      fun h hsync hstart hlower => hdoes _ _ ((htwo h hsync).trans (rxControl_of_start hstart)) ?_,
      fun r rest h hsync hstart hrx hhigher => hdoes _ _ ((htwo h hsync).trans (rxControl_of_start hstart)) ?_,
      fun r rest h hsync hend hrx => hdoes _ _ ((htwo h hsync).trans (rxControl_of_end hend)) ?_⟩
    · rw [exec_ringBlockReceived]
      exact congrArg (fun u => Host.Outcome.next { s with chip := u }) (received_of_stopped h)
    · have hcounter : LaneCounter p (prbsF p lane) := laneF_counter p lane.isLt (by decide) (by decide) (by decide)
      exact hdoes _ _ (received_of_prbs hrun hst hprbs)
        ⟨crossCount_keeps hcounter _ c, crossCount_line _ c, fun hfree => crossCount_free hcounter rfl hfree _⟩
    · obtain ⟨hrun, hst, hprbs⟩ := hheard h
      have hcounter : LaneCounter p (sherrF p lane) := laneF_counter p lane.isLt (by decide) (by decide) (by decide)
      have herror : sync.toNat = 0 ∨ sync.toNat = 3 := hsync.imp (congrArg BitVec.toNat) (congrArg BitVec.toNat)
      obtain ⟨hroom, hfull⟩ := (crossCount_counted (n := .sherr) (lane := lane.val) hcounter heard).of_before hbits.cdc hbits.clock (hbits.fld _)
      refine hdoes _ _ (blockReceived_of_sherr hrun hst hprbs herror) ⟨(hbits.keeps _).trans (crossCount_keeps hcounter 1 heard), hroom, fun hx => ?_⟩
      obtain ⟨hfld, -, hseen⟩ := hfull hx
      exact ⟨hfld, hseen⟩
    · obtain ⟨hrun, hst, hprbs⟩ := hheard h
      exact blockReceived_of_deaf hrun hst hprbs (hsync.imp (congrArg BitVec.toNat) (congrArg BitVec.toNat)) fun hc =>
        hlive ⟨h, hbits.receives.symm.trans hc.1, hbits.rxLane.symm.trans hc.2⟩
    · exact (hone h hsync).trans (rxData_of_ignored hport hrx hignore)
    · exact rxData_of_stray hport hrx hignore
    · exact rxData_of_room hport hrx hroom
    · rw [rxData_of_full hport hrx hfull]
      exact framingError_seen p heard
    · rw [← hbits.now]
      exact rxStart_of_lower hport hlower
    · rw [rxStart_of_higher hport hrx hhigher]
      exact framingError_seen p heard
    · intro ok
      rw [← hbits.now]
      exact rxEnd_of_open hport hrx

end Sys2Proof.Machine
end
